-- ==== Sys2Proof/Word.lean ====
section
/-! DEFINITION. Words of the machine, the sparse map that holds every array of the state in one canonical form,
and the operand selectors of R61. -/

namespace Sys2Proof

/-- A 32-bit word: scalar registers, lanes, CSRs. -/
abbrev W32 := BitVec 32

/-- The smallest addressable unit of every memory. -/
abbrev Byte := BitVec 8

/-- The 16 words of a vector register, a staging payload or a token payload. Lane `l` is bits `32l` to `32l + 31`
(R55, R80). -/
abbrev VBits := BitVec 512

/-- The 128 bytes of a line. Byte `i` is bits `8i` to `8i + 7`. -/
abbrev LineBits := BitVec 1024

/-- A sparse array: keys strictly rising, and no entry equal to what an absent key reads as. -/
abbrev Map (α : Type) := List (Nat × α)

/-- What key `k` of `m` holds, `d` when it is absent. -/
def Map.get {α : Type} (m : Map α) (d : α) (k : Nat) : α :=
  match m with
  | [] => d
  | (j, a) :: r => if k = j then a else Map.get r d k

/-- `m` with an entry for `k`, in its place in the order. -/
def Map.put {α : Type} (m : Map α) (k : Nat) (a : α) : Map α :=
  match m with
  | [] => [(k, a)]
  | (j, b) :: r =>
    if k < j then (k, a) :: (j, b) :: r
    else if k = j then (k, a) :: r
    else (j, b) :: Map.put r k a

/-- `m` without an entry for `k`. -/
def Map.drop {α : Type} (m : Map α) (k : Nat) : Map α :=
  m.filter (fun e => !decide (e.1 = k))

/-- `m` where key `k` holds `a`; an entry equal to the default `d` is not listed. -/
def Map.set {α : Type} [DecidableEq α] (m : Map α) (d : α) (k : Nat) (a : α) : Map α :=
  if a = d then Map.drop m k else Map.put m k a

/-- The entry of `k`, if `m` lists one. -/
def Map.look {α : Type} (m : Map α) (k : Nat) : Option α :=
  match m with
  | [] => none
  | (j, a) :: r => if k = j then some a else Map.look r k

/-- The first entry's key is above `lo`, keys rise strictly from there, and no entry equals `d`. -/
def Map.wfFrom {α : Type} [DecidableEq α] (d : α) (lo : Option Nat) (m : Map α) : Bool :=
  match m with
  | [] => true
  | (j, a) :: r =>
    (match lo with
     | none => true
     | some i => decide (i < j)) && !decide (a = d) && Map.wfFrom d (some j) r

/-- The canonical form of a sparse array with default `d`. -/
def Map.wf {α : Type} [DecidableEq α] (d : α) (m : Map α) : Bool := Map.wfFrom d none m

/-- A 7-bit operand selector, by the operand it names (R61). -/
inductive Opnd where
  | w (n : BitVec 5)
  | v (n : BitVec 4)
  | i (n : BitVec 2)
  | o (n : BitVec 2)
  | z
  | lx
  | fp
  | it
  | sq
  | xy
  | st
  | cx
  | k (n : BitVec 5)
  | f (n : BitVec 5)
  deriving DecidableEq, Repr

/-- The tile kinds of R12 and R17. -/
inductive Kind where
  | c | x | m | i | g
  deriving DecidableEq, Repr

end Sys2Proof
end

