-- ==== Sys2Proof/Machine/Types.lean ====
section
/-! DEFINITION. The records that tokens, charts, engine commands and tables are made of: what an instruction of
`Sys2Proof.Instr` or the state carries. -/

namespace Sys2Proof

/-- The statuses of a chart load (R44, R65, R260, R310, R326). -/
inductive LoadStatus where
  | opcodeUnassigned | compactUnassigned | kindInvalid | fieldReserved | operandInvalid | routineBounds
  | poolExceeded | imageInvalid | imageUnreadable | faultEdge | linkTimeout
  deriving DecidableEq, Repr

/-- The value of a status. -/
def LoadStatus.code (c : LoadStatus) : Nat :=
  match c with
  | .opcodeUnassigned => 0x21
  | .compactUnassigned => 0x22
  | .kindInvalid => 0x23
  | .fieldReserved => 0x24
  | .operandInvalid => 0x25
  | .routineBounds => 0x26
  | .poolExceeded => 0x27
  | .imageInvalid => 0x28
  | .imageUnreadable => 0x29
  | .faultEdge => 0x2A
  | .linkTimeout => 0x2B

/-- A fault record before it is laid out in 32 bytes (R325). The last two fields are the model's own: `who` tells which
held access, ray or grid request a recoverable record names, and `prod` is the w of the record's PROD write (R327). -/
structure FaultRec where
  code : BitVec 8 := 0
  rank : BitVec 3 := 0
  recov : Bool := false
  src : BitVec 3 := 0
  vf : BitVec 7 := 0
  gen : BitVec 4 := 0
  berth : BitVec 4 := 0
  tval : W32 := 0
  vahi : BitVec 20 := 0
  wstg : Bool := false
  wlvl : BitVec 3 := 0
  chan : BitVec 3 := 0
  itag : BitVec 12 := 0
  stag : BitVec 16 := 0
  tpc : BitVec 16 := 0
  tile : BitVec 6 := 0
  cove : BitVec 6 := 0
  die : BitVec 3 := 0
  ttok : BitVec 23 := 0
  tidx : BitVec 16 := 0
  lts : Nat := 0
  who : Nat := 0
  prod : Nat := 0
  deriving DecidableEq, Repr

/-- A token: the header fields of R56 and its payload words. `dest` is the tile of DIE, COVE and TILE, `haar` the
HAARL and AXIS fields, `task` the mark of a pool slot that received a start token (R352), and `handled` the record that a
token of a fault edge carries (R327, R328). -/
structure Token where
  cls : BitVec 8 := 0
  ctx : BitVec 7 := 0
  err : Bool := false
  kind : BitVec 2 := 0
  level : BitVec 3 := 0
  itag : BitVec 12 := 0
  stag : BitVec 16 := 0
  dport : BitVec 3 := 0
  nflit : BitVec 3 := 0
  dest : Nat := 0
  haar : BitVec 6 := 0
  gen : BitVec 4 := 0
  lts : Nat := 0
  pay : VBits := 0
  task : Option Nat := none
  handled : Option FaultRec := none
  deriving DecidableEq, Repr

/-- A berth record of R311. -/
structure BerthRec where
  stage : BitVec 6 := 0
  rank : BitVec 3 := 0
  frame : BitVec 9 := 0
  window : BitVec 7 := 0
  rates : BitVec 24 := 0
  wbase : BitVec 20 := 0
  tbind : BitVec 20 := 0
  gbind : BitVec 14 := 0
  defr : BitVec 6 := 0
  rsv : Bool := false
  deriving DecidableEq, Repr

/-- A routine table entry of R311. -/
structure RoutineEnt where
  berth : BitVec 4 := 0
  cls : BitVec 8 := 0
  val : Bool := false
  start : BitVec 16 := 0
  len : BitVec 16 := 0
  rsv : Bool := false
  deriving DecidableEq, Repr

/-- One end of a channel record (R310), or the producers and consumers that R326, R375, R382, R385 and R397 name. `remote` is
an end on the device that Oroti link port `port` reaches (R51, R52). -/
inductive EndPt where
  | berth (tile berth port : Nat)
  | task (cove : Nat)
  | ingress
  | rollup
  | fault (rank : Nat)
  | grid (tile : Nat)
  | remote (port : Nat)
  deriving DecidableEq, Repr

/-- A tile pattern of a chart image (R310, section 1). `off` is its byte offset in the image, `codeOff` that of its
first code byte, the others those of its lists of berth, routine-entry and constant records. -/
structure PatternRec where
  off : Nat := 0
  codeOff : Nat := 0
  berthOff : Nat := 0
  rtabOff : Nat := 0
  constOff : Nat := 0
  code : List (BitVec 16) := []
  berths : List BerthRec := []
  rtab : List RoutineEnt := []
  consts : List (Nat × W32) := []
  scratch : Nat := 0
  deriving DecidableEq, Repr

/-- A rectangle of tiles of one cove (R310, section 2). `cove` is die·64 + cove index, relative to the partition. -/
structure RectRec where
  off : Nat := 0
  pat : Nat := 0
  cove : Nat := 0
  x0 : Nat := 0
  y0 : Nat := 0
  x1 : Nat := 0
  y1 : Nat := 0
  deriving DecidableEq, Repr

/-- One crossing of a cut edge's route (R399): the boundary tile at which a token leaves the mesh, the token lane that it
crosses, and the boundary tile at which it enters the next die's mesh. A crossing from the harbour die or from another device
has no first tile, one to them no second. -/
structure Leg where
  out : Nat := 0
  lane : Nat := 0
  inn : Nat := 0
  deriving DecidableEq, Repr

/-- A channel record (R310, section 6). Tiles in its ends and its route are relative to the partition's origin (R42; log 92). `mset` numbers the multicast set (0 none); `vc` is the virtual channel of a cut edge and `route` its
crossings in order, none for a channel that stays on one die (R51, R399). -/
structure ChanRec where
  off : Nat := 0
  src : EndPt := .ingress
  dst : EndPt := .ingress
  depth : Nat := 1
  cls : BitVec 8 := 0
  mset : Nat := 0
  vc : Nat := 0
  route : List Leg := []
  deriving DecidableEq, Repr

/-- A stage record (R310, section 7; R45). -/
structure StageRec where
  off : Nat := 0
  stage : Nat := 0
  die : Nat := 0
  hi : Nat := 0
  lo : Nat := 0
  deriving DecidableEq, Repr

/-- An initial token (R310, section 8). -/
structure InitTok where
  off : Nat := 0
  chan : Nat := 0
  nflit : BitVec 3 := 0
  pay : VBits := 0
  deriving DecidableEq, Repr

/-- An initial tile register value (R310, section 9), in the layout of R105: a row of a tile register with its scale plane, a
shape word, row error flags, a row of a partial sum, its scale sides A or B, the plane state, an accumulator row or
descriptor, a threshold or LEASE. -/
inductive InitReg where
  | trow (tile t row : Nat) (bits : VBits) (scale : BitVec 128)
  | tshape (tile t : Nat) (shape : W32)
  | terr (tile t : Nat) (flags : BitVec 16)
  | psum (tile p row : Nat) (bits : VBits)
  | side (tile p : Nat) (ofB : Bool) (bits : BitVec 128)
  | plane (tile : Nat) (word : W32)
  | acc (tile a row : Nat) (bits : VBits)
  | accDesc (tile a : Nat) (desc : W32)
  | th (tile n : Nat) (val : W32)
  | lease (tile : Nat) (val : BitVec 11)
  deriving DecidableEq, Repr

/-- A record of section 9 with its byte offset in the image and the bytes of data that follow its 16. -/
structure RegRec where
  off : Nat := 0
  bytes : Nat := 0
  reg : InitReg
  deriving DecidableEq, Repr

/-- An initial frame (R310, section 10). -/
structure FrameInit where
  off : Nat := 0
  tile : Nat := 0
  berth : Nat := 0
  tag : BitVec 12 := 0
  deriving DecidableEq, Repr

/-- A task image (R310, section 11): an entry of a cove's task table, as R293's record. -/
structure TaskImg where
  off : Nat := 0
  cove : Nat := 0
  idx : Nat := 0
  record : LineBits := 0
  deriving DecidableEq, Repr

/-- A grid descriptor record (R310, section 12; R323). -/
structure GridRec where
  off : Nat := 0
  tile : Nat := 0
  slot : Nat := 0
  desc : VBits := 0
  deriving DecidableEq, Repr

/-- A chart image (R310). Its sections are held as records, because R310 does not lay out the bits of every record;
the header fields and the section counts and offsets stand as the header gives them. BTE templates and initial memory
images, for which R310 has no section, come with it (R72, R378). `crc` is the CRC-32 of its bytes in memory (R369). -/
structure ChartImage where
  va : Nat := 0
  size : Nat := 0
  magic : W32 := 0
  version : BitVec 16 := 0
  dies : Nat := 0
  dieBytes : List (BitVec 8) := []
  sections : List (Nat × Nat) := []
  patterns : List PatternRec := []
  rects : List RectRec := []
  chans : List ChanRec := []
  stages : List StageRec := []
  toks : List InitTok := []
  regs : List RegRec := []
  frames : List FrameInit := []
  tasks : List TaskImg := []
  grids : List GridRec := []
  templates : List (Nat × LineBits) := []
  data : List (Nat × List Byte) := []
  crc : Nat := 0
  deriving DecidableEq, Repr, Inhabited

/-- A firmware image (R371, R384): the fields of its header, with the public keys that its signatures name, the bytes that both
signatures cover, and the agent's chart, stage roots and tables, as pairs of PA and 64-bit word. The manual lays none of it out. -/
structure FwImage where
  magic : Nat := 0
  length : Nat := 0
  version : Nat := 0
  svn : Nat := 0
  edKey : Nat := 0
  edSig : Nat := 0
  mlKey : Nat := 0
  mlSig : Nat := 0
  body : List Byte := []
  chart : ChartImage := {}
  s1root : Nat := 0
  s2root : Nat := 0
  tables : List (Nat × Nat) := []
  deriving DecidableEq, Repr, Inhabited

/-- The atomic functions performed at a home (R235, R250, R258, R255, R361, R233). -/
inductive AtomFn where
  | add | min | max | and | or | xor | xch | cas | fadd | incw | stnc
  | slclm | slrel | binapp | seqn
  deriving DecidableEq, Repr

/-- How one line operation of a suspended access acts at its line (R208, R209, R212, R233, R255). `peek` reads the home's
data without an order, as the order unit reads a record; `tmpl` reads a template (R220, R241), `probe` only translates. -/
inductive OpKind where
  | load | ldnc | cfg | peek | store | rmw | ztst | tmpl | probe
  deriving DecidableEq, Repr

/-- One line operation: the bytes `va - back` to `va + len - 1` lie in one line. A load puts byte `va` at `dst` of the
access's buffer, and the others around it; a store holds `data` under `mask` (both in the line's own byte places).
`place` says where the line must be: 0 anywhere, 1 a home-01 page, 2 a home-01 page of the issuing cove's pool. -/
structure LineOp where
  kind : OpKind := .load
  va : Nat := 0
  len : Nat := 0
  back : Nat := 0
  dst : Nat := 0
  data : LineBits := 0
  mask : BitVec 128 := 0
  fn : AtomFn := .add
  a : W32 := 0
  b : W32 := 0
  place : Nat := 0
  deriving DecidableEq, Repr

/-- What a firing does once every line operation of its access has its reply. `got` of a TSPAWN tells what it reserved at issue: 0
nothing, 1 its entry, 2 its entry and a counter (R294). -/
inductive Cont where
  | none
  | scalar (d : Opnd) (size : Nat) (signed : Bool)
  | lanes (d : Opnd) (mask : BitVec 16)
  | gather (d : Opnd) (mask : BitVec 16) (addrs : VBits)
  | bcast (d : Opnd) (mask : BitVec 16)
  | old (d : Opnd)
  | oldFlags (d : Opnd)
  | hld (d : Opnd) (desc : W32) (va : Nat) (bitmaps : Bool)
  | aperture (mtile : Nat) (cmd : W32) (probed : Bool)
  | flags (fl : BitVec 6)
  | tspawn (pd : BitVec 3) (entry : Nat) (va : Nat) (got : Nat)
  | iscfg (scene : Nat) (va : Nat)
  | sltst (pd : BitVec 3) (want : BitVec 2)
  | binapp (d : Opnd) (val : W32)
  | binel (d : Opnd) (count : W32)
  | seqn (d : Opnd) (va : Nat)
  | ztst (q : BitVec 2) (d : VBits) (b : W32) (va : Nat)
  | ztstMask (q : BitVec 2) (va : Nat)
  | blnd (d : Opnd) (q : BitVec 2) (b : W32)
  | occq (v b : W32)
  deriving DecidableEq, Repr

/-- A combined translation (R309): the PA, home, slice, key select and compress bit of an access. -/
structure Xl where
  pa : Nat := 0
  home : BitVec 2 := 0
  slice : Nat := 0
  key : Nat := 0
  cmp : Bool := false
  deriving DecidableEq, Repr

/-- Where a suspended access stands. -/
inductive AStage where
  | start | walk | home | pend (n : Nat) | fill (n : Nat) | berm | held | inq | reply
  deriving DecidableEq, Repr

/-- An access of a firing under way (R30, R223): the line operations still to do, the bytes read so far, what follows; the pc of
the instruction and its halfwords, and the LEASE with which it was issued (R111). -/
structure Job where
  ops : List LineOp := []
  buf : Map Byte := []
  cont : Cont := .none
  stage : AStage := .start
  xl : Option Xl := none
  old : W32 := 0
  flags : BitVec 6 := 0
  adv : Nat := 2
  pc : Nat := 0
  lease : Nat := 16
  deriving DecidableEq, Repr

/-- A batch of BLND on its way to, or held at, its order unit (R256, R257). -/
structure Batch where
  recPa : Nat := 0
  sq : BitVec 16 := 0
  block : Nat := 0
  target : Nat := 0
  sample : Nat := 0
  n : Nat := 0
  mask : BitVec 16 := 0
  rg : VBits := 0
  ba : VBits := 0
  cts : Nat := 0
  vf : Nat := 0
  tile : Nat := 0
  slot : Nat := 0
  landed : Bool := false
  deriving DecidableEq, Repr

/-- An OCCQ on its way to, or held at, its order unit (R360). -/
structure Occq where
  recPa : Nat := 0
  form : BitVec 2 := 0
  k : BitVec 2 := 0
  val : W32 := 0
  seqAt : BitVec 16 := 0
  cts : Nat := 0
  vf : Nat := 0
  tile : Nat := 0
  slot : Nat := 0
  landed : Bool := false
  deriving DecidableEq, Repr

/-- A hold entry of an order unit (R256, R360): reserved by a firing, a committed batch, or a committed OCCQ. -/
inductive Hold where
  | reserved (tile slot : Nat)
  | batch (b : Batch)
  | occq (o : Occq)
  deriving DecidableEq, Repr

/-- An effect that a firing stages until its END (R28). -/
inductive Staged where
  | token (chan : Nat) (tok : Token)
  | permit (cove chan n : Nat)
  | task (cove idx : Nat) (record : LineBits)
  | ray (chan scene : Nat) (pay : VBits) (itag : BitVec 12) (stag : BitVec 16)
  | batch (mtile : Nat) (held : Bool) (b : Batch)
  | occq (mtile : Nat) (held : Bool) (o : Occq)
  deriving DecidableEq, Repr

/-- The bytes that a store walk has for a line and has not written, with the VA first touched and the tiles that they come from
(R216, R247). -/
structure PartLine where
  va : Nat := 0
  data : LineBits := 0
  mask : BitVec 128 := 0
  tiles : List Nat := []
  deriving DecidableEq, Repr

/-- A matrix tile in transit between memory and a tile register (R170, R247): rows, scale planes, shape word and row
error flags. `f32` marks a tile of F32 rows, `one` a tile whose Q rows hold one block each (R172). -/
structure MTile where
  rows : Map VBits := []
  scale : Map (BitVec 128) := []
  shape : W32 := 0
  errf : BitVec 16 := 0
  f32 : Bool := false
  one : Bool := false
  deriving DecidableEq, Repr

/-- An element to be written to a line: its place, its source bytes, and for each copy of a multicast the old bytes that lie
in its other line (`far`) and the new bytes that an earlier line has settled (`prev`). -/
structure CmdElem where
  n : Nat := 0
  va : Nat := 0
  src : List Byte := []
  far : List (List Byte) := []
  prev : Option (List (List Byte)) := none
  deriving DecidableEq, Repr

/-- A record that a Haar walk has read: its coefficients in tree order, its bitmap, and whether it is malformed (R237, R394). -/
structure HaarRec where
  tree : List W32 := []
  bitmap : Nat := 0
  bad : Bool := false
  deriving DecidableEq, Repr

/-- A command of a BTE channel (R241, R242): the template's snapshot, its clocks and its progress. `pos` counts elements or
tiles done, `lw` the w with which each destination line was written, `passes` the marks set, `join` the tables and page of a
walk in flight that it waits with (R309). A store walk has taken the rows of `merged` tiles, holds back the bytes `part`, and
stops at VA `stopAt` once they are written (R247); its `lw` has the largest w of each tile's lines. `carry` holds the new bytes,
one copy for each cove written, of elements of which one line of two is written. What an F_XLATE finds gathered stays until the
command goes on (R242): `got` the elements of a line with the lines `seen`, `form` the first `row` rows of a tile, `recs` the records
of a Haar tile. -/
structure BteCmd where
  id : Nat := 0
  tmpl : LineBits := 0
  tidx : Nat := 0
  arg : Nat := 0
  cts : Nat := 0
  vf : Nat := 0
  gen : BitVec 4 := 0
  task : Option Nat := none
  tile : Nat := 0
  slot : Nat := 0
  pos : Nat := 0
  wmax : Nat := 0
  lw : Map Nat := []
  carry : List (Nat × List (List Byte)) := []
  passes : Nat := 0
  stalled : Bool := false
  own : Bool := false
  join : Option (Nat × Nat) := none
  part : List PartLine := []
  merged : Nat := 0
  stopAt : Option Nat := none
  got : List CmdElem := []
  seen : List (Nat × LineBits) := []
  form : MTile := {}
  row : Nat := 0
  recs : List HaarRec := []
  deriving DecidableEq, Repr

/-- The register that an owed write lands in (R100, R170, R187). -/
inductive OwedReg where
  | tile (t : Nat)
  | acc (a : Nat)
  | feat (t g : Nat)
  deriving DecidableEq, Repr

/-- An owed write: its register, the binding's channel, the tile once it has been fetched, the context charged, and the fc of its
issue (R170). -/
structure Owed where
  reg : OwedReg
  cove : Nat := 0
  chan : Nat := 0
  cx : Nat := 0
  data : Option MTile := none
  since : Nat := 0
  deriving DecidableEq, Repr

/-- A batch of feature rows of a G-tile (R303, R402), with the flags of its H16 rounding. -/
structure GBatch where
  gtile : Nat := 0
  xtile : Nat := 0
  vf : Nat := 0
  p : Nat := 1
  rows : Map VBits := []
  errf : BitVec 16 := 0
  flags : BitVec 6 := 0
  deriving DecidableEq, Repr

/-- A grid vertex of a patch. -/
structure GridPt where
  i : Nat := 0
  j : Nat := 0
  deriving DecidableEq, Repr

/-- A sub-triangle to visit: its level, its entry of that level, its corners. -/
structure SubTri where
  level : Nat := 0
  entry : Nat := 0
  a : GridPt := {}
  b : GridPt := {}
  c : GridPt := {}
  deriving DecidableEq, Repr

/-- A ray of the swash ring (R297, R298). `pay` is the ray payload and `home` the consumer replica whose credit on the
channel `chan` it holds; `join` is as a command's. A visit stopped by F_XLATE goes on where it stopped (R226, R299): `paid` says
that its unit of budget has been taken, `node` is the node read, `seen` the lines of a patch's data read, and `todo` the
sub-triangles of a patch still to visit, of which the first is paid for. -/
structure Ray where
  pay : VBits := 0
  scene : Nat := 0
  chan : Nat := 0
  vf : Nat := 0
  gen : BitVec 4 := 0
  itag : BitVec 12 := 0
  stag : BitVec 16 := 0
  err : Bool := false
  lts : Nat := 0
  flying : Bool := false
  stalled : Bool := false
  join : Option (Nat × Nat) := none
  paid : Bool := false
  node : Option LineBits := none
  seen : List (Nat × LineBits) := []
  todo : List SubTri := []
  home : Nat := 0
  target : Option (Nat × W32) := none
  deriving DecidableEq, Repr

/-- What says where a step without an encoding happens: numbers whose meaning the step's own definition gives, a list of
numbers, and a chart image. -/
structure EvArg where
  a : Nat := 0
  b : Nat := 0
  c : Nat := 0
  l : List Nat := []
  img : ChartImage := {}
  deriving DecidableEq, Repr

/-- Something the host sees (R364, R366, R367, R214, R372, R272), or the device at the other end of an Oroti link port: a token or credit
of a channel, an acknowledgement of a load (R51, R52). -/
inductive HostOut where
  | msix (vf vec : Nat)
  | pfVector (vec : Nat)
  | readData (pa : Nat) (bytes : List Byte)
  | barData (vf off : Nat) (word : W32)
  | capability (n : Nat) (present : Bool)
  | snoopData (pa : Nat) (bytes : List Byte)
  | loadStatus (vf status offset : Nat)
  | linkToken (port chan : Nat) (tok : Token)
  | linkCredit (port chan : Nat)
  | linkAck (port part : Nat)
  | spdm (msg : Nat) (body : List Nat) (edSig mlSig : Nat)
  deriving DecidableEq, Repr

end Sys2Proof
end

