-- ==== Sys2Proof/Syntax.lean ====
section
/-! DEFINITION. The instructions and the steps of the device, one constructor for each row of the opcode table.
An encoded instruction carries the fields of its row: operand selectors as `Opnd`, every other field as the bits it
occupies. A step that no program encodes carries nothing: what says where it happens stands in `State.ev`. -/

namespace Sys2Proof

/-- One constructor for each row of the opcode table: the instructions of 32 bits and the compact ones that have fields,
the six instructions without fields, then the 118 steps that no program encodes. -/
inductive Instr where
  /-- BR (R284): Branches by a signed halfword offset when predicate p XOR n holds, ending any loop it leaves. -/
  | br (p : BitVec 3) (n : BitVec 1) (o : BitVec 19)
  /-- LOOP (R285): Pushes a hardware loop whose count is read from a register and whose body has the given length.
  -/
  | loop (c : Opnd) (l : BitVec 16)
  /-- LOOPI (R285): Pushes a hardware loop with an immediate count. -/
  | loopi (n : BitVec 11) (l : BitVec 12)
  /-- SWITCH (R286): Jumps to the entry selected by an index, clamped to the last entry, in the table of 32-bit
  instructions that follows. -/
  | switch (a b : Opnd)
  /-- PCMP.EQ (R120): Sets a predicate to the equality of two scalars. -/
  | pcmpEq (p : BitVec 3) (a b : Opnd)
  /-- PCMP.NE (R120): Sets a predicate to the inequality of two scalars. -/
  | pcmpNe (p : BitVec 3) (a b : Opnd)
  /-- PCMP.LT (R120): Sets a predicate to a signed less-than comparison. -/
  | pcmpLt (p : BitVec 3) (a b : Opnd)
  /-- PCMP.LTU (R120): Sets a predicate to an unsigned less-than comparison. -/
  | pcmpLtu (p : BitVec 3) (a b : Opnd)
  /-- PFCMP.EQ (R121): Sets a predicate to F32 equality, false when either operand is NaN. -/
  | pfcmpEq (p : BitVec 3) (a b : Opnd)
  /-- PFCMP.LT (R121): Sets a predicate to F32 less-than. -/
  | pfcmpLt (p : BitVec 3) (a b : Opnd)
  /-- PFCMP.LE (R121): Sets a predicate to F32 less-or-equal. -/
  | pfcmpLe (p : BitVec 3) (a b : Opnd)
  /-- PFCMP.UN (R121): Sets a predicate when either F32 operand is NaN. -/
  | pfcmpUn (p : BitVec 3) (a b : Opnd)
  /-- PLOG (R123): Combines two predicates through a 4-bit truth table. -/
  | plog (d a b : BitVec 3) (t : BitVec 4)
  /-- MCMP.EQ (R122): Writes a lane mask of lane-wise equality under a lane mask. -/
  | mcmpEq (d : BitVec 2) (a b : Opnd) (q : BitVec 2)
  /-- MCMP.NE (R122): Writes a lane mask of lane-wise inequality. -/
  | mcmpNe (d : BitVec 2) (a b : Opnd) (q : BitVec 2)
  /-- MCMP.LT (R122): Writes a lane mask of lane-wise signed less-than. -/
  | mcmpLt (d : BitVec 2) (a b : Opnd) (q : BitVec 2)
  /-- MCMP.LTU (R122): Writes a lane mask of lane-wise unsigned less-than. -/
  | mcmpLtu (d : BitVec 2) (a b : Opnd) (q : BitVec 2)
  /-- MFCMP.EQ (R122): Writes a lane mask of lane-wise F32 equality. -/
  | mfcmpEq (d : BitVec 2) (a b : Opnd) (q : BitVec 2)
  /-- MFCMP.LT (R122): Writes a lane mask of lane-wise F32 less-than. -/
  | mfcmpLt (d : BitVec 2) (a b : Opnd) (q : BitVec 2)
  /-- MFCMP.LE (R122): Writes a lane mask of lane-wise F32 less-or-equal. -/
  | mfcmpLe (d : BitVec 2) (a b : Opnd) (q : BitVec 2)
  /-- MFCMP.UN (R122): Writes a lane mask of lanes where either F32 operand is NaN. -/
  | mfcmpUn (d : BitVec 2) (a b : Opnd) (q : BitVec 2)
  /-- MLOG (R123): Combines two lane masks bit by bit through a 4-bit truth table. -/
  | mlog (d a b : BitVec 2) (t : BitVec 4)
  /-- MPOP (R124): Writes the number of set bits of a lane mask. -/
  | mpop (d : Opnd) (q : BitVec 2)
  /-- MFIRST (R124): Writes the index of the lowest set bit of a lane mask, or 16 when it is empty. -/
  | mfirst (d : Opnd) (q : BitVec 2)
  /-- ADD (R125): Adds two scalars modulo 2^32. -/
  | add (d a b : Opnd)
  /-- SUB (R125): Subtracts two scalars modulo 2^32. -/
  | sub (d a b : Opnd)
  /-- ADDI (R126): Adds a signed 9-bit immediate to a scalar. -/
  | addi (d a : Opnd) (i : BitVec 9)
  /-- MUL (R125): Writes the low 32 bits of a product. -/
  | mul (d a b : Opnd)
  /-- MULH (R125): Writes the high 32 bits of a signed product. -/
  | mulh (d a b : Opnd)
  /-- MULHU (R125): Writes the high 32 bits of an unsigned product. -/
  | mulhu (d a b : Opnd)
  /-- DIV (R127): Signed division truncated towards zero on the tile's divider, with fixed results for division by
  zero and overflow. -/
  | div (d a b : Opnd)
  /-- DIVU (R127): Unsigned division on the tile's divider. -/
  | divu (d a b : Opnd)
  /-- REM (R127): Signed remainder on the tile's divider. -/
  | rem (d a b : Opnd)
  /-- REMU (R127): Unsigned remainder on the tile's divider. -/
  | remu (d a b : Opnd)
  /-- AND (R125): Bitwise AND of two scalars. -/
  | and (d a b : Opnd)
  /-- OR (R125): Bitwise OR of two scalars. -/
  | or (d a b : Opnd)
  /-- XOR (R125): Bitwise XOR of two scalars. -/
  | xor (d a b : Opnd)
  /-- SHL (R125): Shifts left by the low 5 bits of b. -/
  | shl (d a b : Opnd)
  /-- SHR (R125): Shifts right logically by the low 5 bits of b. -/
  | shr (d a b : Opnd)
  /-- SRA (R125): Shifts right arithmetically by the low 5 bits of b. -/
  | sra (d a b : Opnd)
  /-- SHLI (R126): Shifts left by an immediate of 0 to 31. -/
  | shli (d a : Opnd) (i : BitVec 5)
  /-- SHRI (R126): Shifts right logically by an immediate. -/
  | shri (d a : Opnd) (i : BitVec 5)
  /-- SRAI (R126): Shifts right arithmetically by an immediate. -/
  | srai (d a : Opnd) (i : BitVec 5)
  /-- MIN (R125): Writes the signed minimum of two scalars. -/
  | min (d a b : Opnd)
  /-- MAX (R125): Writes the signed maximum of two scalars. -/
  | max (d a b : Opnd)
  /-- CLZ (R128): Counts leading zero bits. -/
  | clz (d a : Opnd)
  /-- POPC (R128): Counts set bits. -/
  | popc (d a : Opnd)
  /-- BREV (R128): Reverses the bit order of a word. -/
  | brev (d a : Opnd)
  /-- BFX (R129): Extracts a bit field and sign-extends it. -/
  | bfx (d a b : Opnd)
  /-- BFXU (R129): Extracts a bit field and zero-extends it. -/
  | bfxu (d a b : Opnd)
  /-- BFI (R129): Inserts a bit field of a into d. -/
  | bfi (d a b : Opnd)
  /-- SEL (R130): Writes a when d is non-zero and b otherwise. -/
  | sel (d a b : Opnd)
  /-- MOV (R131): Copies stored bits in scalar form or, under a lane mask with the source tag, in vector form. -/
  | mov (d a : Opnd) (q : BitVec 2)
  /-- LI (R132): Loads a sign-extended 16-bit immediate. -/
  | li (d : Opnd) (i : BitVec 16)
  /-- LIH (R132): Writes a 16-bit immediate into the upper half of d and keeps the lower half. -/
  | lih (d : Opnd) (i : BitVec 16)
  /-- AGEN (R133): Forms a base plus a signed index times a stride. -/
  | agen (d a b : Opnd)
  /-- AGEN2 (R133): Forms a 2-D address from a base, the pitch and element size held in d, and (x, y) from b. -/
  | agen2 (d a b : Opnd)
  /-- VBCAST (R134): Broadcasts one lane of a spatial vector to every lane under a mask. -/
  | vbcast (d a b : Opnd) (q : BitVec 2)
  /-- VEXT (R134): Extracts the stored bits of one lane into a scalar. -/
  | vext (d a b : Opnd)
  /-- VINS (R134): Inserts a scalar into one lane of a vector. -/
  | vins (d a b : Opnd)
  /-- VPERM (R135): Permutes lanes by a vector of lane indices. -/
  | vperm (d a b : Opnd) (q : BitVec 2)
  /-- VROTL (R135): Rotates lanes by a scalar count. -/
  | vrotl (d a b : Opnd) (q : BitVec 2)
  /-- VRED.ADD (R136): Sums the enabled lanes into a scalar. -/
  | vredAdd (d a : Opnd) (q : BitVec 2)
  /-- VRED.MIN (R136): Writes the signed minimum of the enabled lanes. -/
  | vredMin (d a : Opnd) (q : BitVec 2)
  /-- VRED.MAX (R136): Writes the signed maximum of the enabled lanes. -/
  | vredMax (d a : Opnd) (q : BitVec 2)
  /-- VSCAN.ADD (R136): Writes the inclusive running sum over the enabled lanes. -/
  | vscanAdd (d a : Opnd) (q : BitVec 2)
  /-- TGET (R137): Reads one word of a bound input token, payload or header. -/
  | tget (d a : Opnd) (t : BitVec 2) (w : BitVec 5)
  /-- TSET (R137): Writes one word of a staging payload. -/
  | tset (d a : Opnd) (w : BitVec 4)
  /-- VADD (R138): Lane-wise integer addition. -/
  | vadd (d a b : Opnd) (q : BitVec 2)
  /-- VSUB (R138): Lane-wise integer subtraction. -/
  | vsub (d a b : Opnd) (q : BitVec 2)
  /-- VMUL (R138): Lane-wise low product. -/
  | vmul (d a b : Opnd) (q : BitVec 2)
  /-- VMULH (R138): Lane-wise signed high product. -/
  | vmulh (d a b : Opnd) (q : BitVec 2)
  /-- VMAD (R139): Lane-wise multiply-add into d modulo 2^32. -/
  | vmad (d a b : Opnd) (q : BitVec 2)
  /-- VAND (R138): Lane-wise AND. -/
  | vand (d a b : Opnd) (q : BitVec 2)
  /-- VOR (R138): Lane-wise OR. -/
  | vor (d a b : Opnd) (q : BitVec 2)
  /-- VXOR (R138): Lane-wise XOR. -/
  | vxor (d a b : Opnd) (q : BitVec 2)
  /-- VSHL (R138): Lane-wise left shift. -/
  | vshl (d a b : Opnd) (q : BitVec 2)
  /-- VSHR (R138): Lane-wise logical right shift. -/
  | vshr (d a b : Opnd) (q : BitVec 2)
  /-- VSRA (R138): Lane-wise arithmetic right shift. -/
  | vsra (d a b : Opnd) (q : BitVec 2)
  /-- VMIN (R138): Lane-wise signed minimum. -/
  | vmin (d a b : Opnd) (q : BitVec 2)
  /-- VMAX (R138): Lane-wise signed maximum. -/
  | vmax (d a b : Opnd) (q : BitVec 2)
  /-- VSEL (R140): Selects each lane from a or b by a mask and writes all lanes. -/
  | vsel (d a b : Opnd) (q : BitVec 2)
  /-- VADDS (R141): Adds packed 8- or 16-bit elements with signed saturation. -/
  | vadds (d a b : Opnd) (e : BitVec 1)
  /-- VSUBS (R141): Subtracts packed elements with signed saturation. -/
  | vsubs (d a b : Opnd) (e : BitVec 1)
  /-- VPACK (R142): Narrows two vectors into packed elements with signed saturation. -/
  | vpack (d a b : Opnd) (e : BitVec 1)
  /-- VUNPK (R142): Widens one half of packed elements with sign extension. -/
  | vunpk (d a b : Opnd) (e : BitVec 1)
  /-- VCLZ (R138): Lane-wise count of leading zeros. -/
  | vclz (d a : Opnd) (q : BitVec 2)
  /-- VPOPC (R138): Lane-wise population count. -/
  | vpopc (d a : Opnd) (q : BitVec 2)
  /-- VFADD (R148): Lane-wise F32 addition, which keeps a Haar tag under R146. -/
  | vfadd (d a b : Opnd) (q : BitVec 2)
  /-- VFSUB (R148): Lane-wise F32 subtraction. -/
  | vfsub (d a b : Opnd) (q : BitVec 2)
  /-- VFMUL (R148): Lane-wise F32 multiplication. -/
  | vfmul (d a b : Opnd) (q : BitVec 2)
  /-- VFMA (R148): Lane-wise fused multiply-add into d with one rounding. -/
  | vfma (d a b : Opnd) (q : BitVec 2)
  /-- VFMIN (R149): Lane-wise F32 minimum with NaN and signed-zero rules. -/
  | vfmin (d a b : Opnd) (q : BitVec 2)
  /-- VFMAX (R149): Lane-wise F32 maximum. -/
  | vfmax (d a b : Opnd) (q : BitVec 2)
  /-- VFABS (R149): Clears the sign bit of each lane. -/
  | vfabs (d a : Opnd) (q : BitVec 2)
  /-- VFNEG (R148): Inverts the sign bit of each lane. -/
  | vfneg (d a : Opnd) (q : BitVec 2)
  /-- VFRCP (R151): Lane-wise correctly rounded reciprocal. -/
  | vfrcp (d a : Opnd) (q : BitVec 2)
  /-- VFRSQ (R151): Lane-wise correctly rounded reciprocal square root. -/
  | vfrsq (d a : Opnd) (q : BitVec 2)
  /-- VFSQRT (R151): Lane-wise correctly rounded square root. -/
  | vfsqrt (d a : Opnd) (q : BitVec 2)
  /-- VFDIV (R151): Lane-wise correctly rounded division. -/
  | vfdiv (d a b : Opnd) (q : BitVec 2)
  /-- VFEXP2 (R152): Lane-wise 2^A, rounded once. -/
  | vfexp2 (d a : Opnd) (q : BitVec 2)
  /-- VFLOG2 (R152): Lane-wise log2, rounded once. -/
  | vflog2 (d a : Opnd) (q : BitVec 2)
  /-- VFSIN (R152): Lane-wise sin(pi·A), rounded once. -/
  | vfsin (d a : Opnd) (q : BitVec 2)
  /-- VFTANH (R152): Lane-wise tanh, rounded once. -/
  | vftanh (d a : Opnd) (q : BitVec 2)
  /-- VFSIG (R152): Lane-wise logistic sigmoid, rounded once. -/
  | vfsig (d a : Opnd) (q : BitVec 2)
  /-- VFRND (R150): Rounds each lane to an integral F32 value in a selected mode. -/
  | vfrnd (d a b : Opnd) (q : BitVec 2)
  /-- VFCLMP (R149): Clamps d lane-wise between a and b. -/
  | vfclmp (d a b : Opnd) (q : BitVec 2)
  /-- VFLRP (R153): Lane-wise linear interpolation with the weight taken from d. -/
  | vflrp (d a b : Opnd) (q : BitVec 2)
  /-- VHMUL (R154): Packed H16 multiplication. -/
  | vhmul (d a b : Opnd) (q : BitVec 2)
  /-- VHFMA (R154): Packed H16 fused multiply-add. -/
  | vhfma (d a b : Opnd) (q : BitVec 2)
  /-- VBFMA (R155): Adds the exact B16 pair dot product to F32 d with one rounding. -/
  | vbfma (d a b : Opnd) (q : BitVec 2)
  /-- FADD (R156): Scalar F32 addition. -/
  | fadd (d a b : Opnd)
  /-- FMUL (R156): Scalar F32 multiplication. -/
  | fmul (d a b : Opnd)
  /-- FFMA (R156): Scalar F32 fused multiply-add into d. -/
  | ffma (d a b : Opnd)
  /-- CVT.F2I (R158): Converts F32 to S32 in the selected rounding mode. -/
  | cvtF2i (d a : Opnd) (r : BitVec 2)
  /-- CVT.I2F (R158): Converts S32 to F32 in the selected rounding mode. -/
  | cvtI2f (d a : Opnd) (r : BitVec 2)
  /-- CVT.F2H (R158): Converts two F32 values into the halves of a packed H16 word. -/
  | cvtF2h (d a b : Opnd) (r : BitVec 2)
  /-- CVT.H2F (R158): Widens a selected H16 half to F32 exactly. -/
  | cvtH2f (d a n : Opnd) (q : BitVec 2)
  /-- CVT.F2B (R158): Converts two F32 values into the halves of a packed B16 word. -/
  | cvtF2b (d a b : Opnd) (r : BitVec 2)
  /-- CVT.B2F (R158): Widens a selected B16 half to F32 exactly. -/
  | cvtB2f (d a n : Opnd) (q : BitVec 2)
  /-- CVT.F2Q (R159): Encodes 16 F32 lanes as one Q block by R86. -/
  | cvtF2q (d a n : Opnd)
  /-- CVT.Q2F (R159): Decodes a Q block into 16 F32 lanes; an error block marks the firing as having bound an
  error token. -/
  | cvtQ2f (d a n : Opnd)
  /-- HFWD (R161): Transforms a vector into Haar tree order with a target tag. -/
  | hfwd (d a b : Opnd)
  /-- HINV (R161): Reconstructs a Haar-tagged vector to spatial form. -/
  | hinv (d a : Opnd)
  /-- HTHR (R162): Zeroes detail coefficients below a threshold register's value. -/
  | hthr (d a b : Opnd)
  /-- HPACK (R163): Compacts the lanes selected by a mask into the lowest lanes. -/
  | hpack (d a b : Opnd)
  /-- HUNPK (R163): Expands packed lanes to the masked positions and sets a tag. -/
  | hunpk (d a b : Opnd)
  /-- HTAG (R163): Copies stored bits and sets a given domain tag. -/
  | htag (d a b : Opnd)
  /-- HQRY (R163): Writes a non-zero-lane mask and the tag of a vector. -/
  | hqry (d a : Opnd)
  /-- HSETT (R164): Swaps a threshold register with a scalar. -/
  | hsett (d a b : Opnd)
  /-- LDB (R230): Loads a sign-extended byte. -/
  | ldb (d a : Opnd) (o : BitVec 9)
  /-- LDBU (R230): Loads a zero-extended byte. -/
  | ldbu (d a : Opnd) (o : BitVec 9)
  /-- LDH (R230): Loads a sign-extended halfword. -/
  | ldh (d a : Opnd) (o : BitVec 9)
  /-- LDHU (R230): Loads a zero-extended halfword. -/
  | ldhu (d a : Opnd) (o : BitVec 9)
  /-- LDW (R230): Loads a word under the lease rules of its home. -/
  | ldw (d a : Opnd) (o : BitVec 9)
  /-- STB (R230): Stores a byte, held in the berm until the firing ends. -/
  | stb (d a : Opnd) (o : BitVec 9)
  /-- STH (R230): Stores a halfword, held. -/
  | sth (d a : Opnd) (o : BitVec 9)
  /-- STW (R230): Stores a word, held, or performs an aperture store that queues a BTE command. -/
  | stw (d a : Opnd) (o : BitVec 9)
  /-- LDV (R231): Loads 16 contiguous words under a lane mask. -/
  | ldv (d a : Opnd) (q : BitVec 2) (o : BitVec 7)
  /-- LDVS (R232): Loads one word per enabled lane at a scalar stride. -/
  | ldvs (d a b : Opnd) (q : BitVec 2)
  /-- LDVG (R232): Gathers one word per enabled lane at vector offsets. -/
  | ldvg (d a b : Opnd) (q : BitVec 2)
  /-- LDVB (R231): Loads one word and broadcasts it to the enabled lanes. -/
  | ldvb (d a : Opnd) (q : BitVec 2) (o : BitVec 7)
  /-- STV (R231): Stores the spatial form of 16 lanes contiguously under a mask, held. -/
  | stv (d a : Opnd) (q : BitVec 2) (o : BitVec 7)
  /-- STVS (R232): Stores one word per enabled lane at a scalar stride, held. -/
  | stvs (d a b : Opnd) (q : BitVec 2)
  /-- STVX (R232): Scatters one word per enabled lane at vector offsets, held. -/
  | stvx (d a b : Opnd) (q : BitVec 2)
  /-- AADD (R235): Atomic add at the home, returning the old word. -/
  | aadd (d a b : Opnd)
  /-- AMIN (R235): Atomic signed minimum. -/
  | amin (d a b : Opnd)
  /-- AMAX (R235): Atomic signed maximum. -/
  | amax (d a b : Opnd)
  /-- AAND (R235): Atomic AND. -/
  | aand (d a b : Opnd)
  /-- AOR (R235): Atomic OR. -/
  | aor (d a b : Opnd)
  /-- AXOR (R235): Atomic XOR. -/
  | axor (d a b : Opnd)
  /-- AXCH (R235): Atomic exchange. -/
  | axch (d a b : Opnd)
  /-- ACAS (R235): Atomic compare-and-swap against d. -/
  | acas (d a b : Opnd)
  /-- AFADD (R235): Atomic F32 add, whose flags are set when the reply arrives. -/
  | afadd (d a b : Opnd)
  /-- AINCW (R235): Atomic increment that wraps to 0 at the bound b. -/
  | aincw (d a b : Opnd)
  /-- HLD (R239): Loads Haar segment records through the M-tile codec, as coefficients or reconstructed. -/
  | hld (d a b : Opnd)
  /-- HST (R238): Transforms, thresholds and stores Haar segment records, held. -/
  | hst (d a b : Opnd)
  /-- FLD (R234): Reads frame slot n. -/
  | fld (d : Opnd) (n : BitVec 8)
  /-- FST (R234): Writes frame slot n and sets its presence bit. -/
  | fst (d : Opnd) (n : BitVec 8)
  /-- LDNC (R233): Loads a word at its home, bypassing L1 and extending no lease. -/
  | ldnc (d a : Opnd) (o : BitVec 9)
  /-- STNC (R233): Writes a word at its home with the ordering of an atomic. -/
  | stnc (d a : Opnd) (o : BitVec 9)
  /-- DRAIN (R246): Waits for the firing's BTE commands to complete, stop or block on its own lines, and reports
  counts. -/
  | drain (d : Opnd)
  /-- CHKB (R248): Tests, and in its clearing form clears, a range of arrival-bitmap bits. -/
  | chkb (p : BitVec 3) (a b : Opnd)
  /-- SLCLM (R250): Claims a slot entry, moving its tag from empty to filling. -/
  | slclm (a b : Opnd)
  /-- SLREL (R250): Moves a slot from full to draining, or from draining to empty. -/
  | slrel (a b : Opnd)
  /-- SLTST (R250): Tests a slot's tag and raises pts to its CTS when it is full. -/
  | sltst (p : BitVec 3) (a b : Opnd)
  /-- MSHP (R171): Writes the format, rows, Haar levels and axis of a tile register's shape word. -/
  | mshp (n : BitVec 4) (x h : BitVec 3) (r : BitVec 4) (f : BitVec 3)
  /-- TLD (R171): Makes the next tile of a loader binding an owed write of a tile register and grants one permit.
  -/
  | tld (n : BitVec 4) (b : BitVec 2)
  /-- TST (R172): Hands a tile register to the storer of a binding. -/
  | tstTile (n : BitVec 4) (b : BitVec 2)
  /-- TST (R172): Hands an accumulator, as F32 or Q blocks, to the storer of a binding. -/
  | tstAcc (k f : BitVec 3) (b : BitVec 2)
  /-- TZERO (R171): Zeroes a tile register's rows, scale plane and row error flags. -/
  | tzero (n : BitVec 4)
  /-- TTR (R173): Transposes a 16x16 block of a tile register into another. -/
  | ttr (s d : BitVec 4) (y x : BitVec 2)
  /-- MSKR (R171): Sets a tile register's survivor mask to all ones, to a copy, or to an AND. -/
  | mskr (n m : BitVec 4) (f : BitVec 2)
  /-- MMQ2 (R175): Computes Q2 block partial sums into ps0–ps7. -/
  | mmq2 (a b : BitVec 4) (k : BitVec 3)
  /-- MMQ4 (R175): Computes Q4 block partial sums into ps0–ps3. -/
  | mmq4 (a b : BitVec 4) (k : BitVec 3)
  /-- MMQ7 (R175): Computes Q7 block partial sums into ps0–ps3. -/
  | mmq7 (a b : BitVec 4) (k : BitVec 3)
  /-- MMI8 (R176): Computes exact S8 dot products into ps0. -/
  | mmi8 (a b : BitVec 4) (k : BitVec 3)
  /-- MMH (R177): Accumulates the H16 matrix product into an accumulator. -/
  | mmh (a b : BitVec 4) (k : BitVec 3)
  /-- MMB (R177): Accumulates the B16 matrix product into an accumulator. -/
  | mmb (a b : BitVec 4) (k : BitVec 3)
  /-- SCA (R179): Folds the filled Q partial-sum planes into an accumulator in block order on the fold unit. -/
  | sca (a b : BitVec 4) (k : BitVec 3)
  /-- SCAI (R180): Folds the S32 partial sums with row and column scales into an accumulator. -/
  | scai (a b : BitVec 4) (k : BitVec 3) (j i : BitVec 4)
  /-- ACLR (R182): Clears one accumulator, or all four together with the sort state. -/
  | aclr (k : BitVec 3) (l : BitVec 1)
  /-- AJOIN (R182): Adds one accumulator into another through the tag procedure. -/
  | ajoin (k : BitVec 3) (s : BitVec 2)
  /-- ACPY (R182): Copies an accumulator with its descriptor. -/
  | acpy (k : BitVec 3) (s : BitVec 2)
  /-- AOUT (R183): Rounds an accumulator into one half of a tile register as H16 or B16. -/
  | aout (n : BitVec 4) (k : BitVec 3) (h f : BitVec 1)
  /-- AIN (R182): Makes the next F32 tile of a loader binding an owed write of an accumulator. -/
  | ain (k : BitVec 3) (b : BitVec 2)
  /-- ARD (R184): Reads an accumulator row or column, or a partial-sum row, into a staging payload. -/
  | ard (k : BitVec 3) (x : BitVec 1) (p : BitVec 2) (c : BitVec 1) (i : BitVec 4)
  /-- SRTCFG (R186): Configures the sort network's key type, order and run length. -/
  | srtcfg (r : BitVec 8) (d : BitVec 1) (k : BitVec 2)
  /-- SRTK (R186): Offers the rows of a tile register as keys to the sort network. -/
  | srtk (n : BitVec 4)
  /-- SRTF (R186): Reads a chunk of sorted keys and indices into two staging payloads. -/
  | srtf (x : BitVec 1) (i : BitVec 4) (q p : BitVec 2)
  /-- TFEAT (R187): Makes the next feature batch from a grid binding an owed write of a tile register. -/
  | tfeat (n : BitVec 4) (g : BitVec 1)
  /-- SEND (R289): Stages a data token on an output port. -/
  | send (p : BitVec 2) (s : Opnd) (t : BitVec 3) (m : BitVec 8) (f : BitVec 3)
  /-- SENDE (R289): Stages a stream-end token that closes a nesting level. -/
  | sende (p : BitVec 2) (t : BitVec 3) (m : BitVec 8) (l : BitVec 3)
  /-- SENDM (R289): Stages a token on every channel of a multicast set. -/
  | sendm (p : BitVec 2) (s : Opnd) (t : BitVec 3) (m : BitVec 8) (f : BitVec 3)
  /-- STEER (R289): Stages a token on one of two ports, chosen by p1. -/
  | steer (p : BitVec 2) (s : Opnd) (t : BitVec 3) (m : BitVec 8) (f : BitVec 3)
  /-- MERGE (R289): Forwards the head token of one of two inputs, chosen by p1, and leaves the other unconsumed.
  -/
  | merge (p s : BitVec 2) (t : BitVec 3) (m : BitVec 8) (f : BitVec 3)
  /-- LOOPC (R290): Stages a loop-carry token that adds a new iteration tag to the berth's live set. -/
  | loopc (p : BitVec 2) (s : Opnd) (t : BitVec 3) (m : BitVec 8) (f : BitVec 3)
  /-- TAGN (R291): Allocates the frame of a fresh iteration tag at a consumer and returns the tag. -/
  | tagn (d : Opnd) (p : BitVec 2)
  /-- FALLOC (R291): Allocates the frame of a given tag at a consumer unless it exists. -/
  | falloc (d : Opnd) (p : BitVec 2) (b : Opnd)
  /-- FFREE (R292): Frees the berth's frame of a tag, at once or deferred to END. -/
  | ffree (d a : Opnd)
  /-- TSPAWN (R294): Reserves a task-table entry from a spawn record and stages it for END. -/
  | tspawn (p : BitVec 3) (a b : Opnd)
  /-- TDEC (R356): Decrements a task entry's predecessor count. -/
  | tdec (a b : Opnd)
  /-- EVSET (R356): Sets event bits of a group at pts and returns the old group. -/
  | evset (d a b : Opnd)
  /-- EVCLR (R356): Clears event bits of a group and returns the old group. -/
  | evclr (d a b : Opnd)
  /-- PERMIT (R295): Stages a grant of tile permits to a loader channel. -/
  | permit (a b : Opnd)
  /-- RAYS (R297): Stages a ray for the swash ring, returning into a reserved credit. -/
  | rays (p : BitVec 2) (a b : Opnd)
  /-- FGLK (R302): Stages three request tokens for a feature-grid lookup of up to 16 points. -/
  | fglk (p : BitVec 2) (a b : Opnd)
  /-- BLND (R256): Stages a colour batch for ordered blending at the screen tile's order unit. -/
  | blnd (d a b : Opnd) (q : BitVec 2)
  /-- ZTST (R255): Performs an indivisible depth test and optional write on a block. -/
  | ztst (d a b : Opnd) (q : BitVec 2)
  /-- BINAPP (R258): Appends a value to a bin list by an atomic head update and a held element write. -/
  | binapp (d a b : Opnd)
  /-- EDGE (R165): Evaluates three edge functions over a 4x4 pixel block, writing coverage and barycentrics. -/
  | edge (d : BitVec 3) (a b : Opnd) (q : BitVec 2)
  /-- ATTR (R166): Interpolates a vertex attribute from barycentrics. -/
  | attr (d : Opnd) (a : BitVec 3) (b : Opnd) (q : BitVec 2)
  /-- OCCQ (R360): Stages a statistics ADD, COMMIT or DISCARD for a screen-tile record. -/
  | occq (d a b : Opnd)
  /-- SEQN (R361): Takes the next sequence number of a screen tile into d and sq. -/
  | seqn (d a : Opnd)
  /-- ISCFG (R296): Reads and validates a scene descriptor and installs it in a scene slot once no ray of the slot
  circulates. -/
  | iscfg (a b : Opnd)
  /-- TRAP (R329): Raises F_TRAP with a trap number. -/
  | trap (a : Opnd)
  /-- TRET (R330): Ends a handler firing and releases the stopped berth, wakes the held access, or abandons it. -/
  | tret (a : Opnd)
  /-- CSRR (R331): Reads a CSR. -/
  | csrr (d : Opnd) (n : BitVec 12)
  /-- CSRW (R331): Writes a CSR under its own rules; a PCMD write starts a privileged command. -/
  | csrw (d : Opnd) (n : BitVec 12)
  /-- EMRD (R362): Reads an energy, statistics, occupancy or drop item for the firing's context. -/
  | emrd (d a b : Opnd)
  /-- EQT (R363): Sets a predicate when the posted balance less local charges is at least a threshold. -/
  | eqt (p : BitVec 3) (a b : Opnd)
  /-- C.BR (R64): Compact BR with a 6-bit offset. -/
  | cBr (p : BitVec 3) (n : BitVec 1) (o : BitVec 6)
  /-- C.LOOPI (R64): Compact LOOPI with a 5-bit count and length. -/
  | cLoopi (n l : BitVec 5)
  /-- C.MOV (R64): Compact scalar MOV. -/
  | cMov (x y : BitVec 5)
  /-- C.LI (R64): Compact LI of a 5-bit signed immediate. -/
  | cLi (x y : BitVec 5)
  /-- C.ADD (R64): Compact two-operand ADD. -/
  | cAdd (x y : BitVec 5)
  /-- C.SUB (R64): Compact two-operand SUB. -/
  | cSub (x y : BitVec 5)
  /-- C.ADDI (R64): Compact ADDI of a 5-bit signed immediate. -/
  | cAddi (x y : BitVec 5)
  /-- C.AND (R64): Compact AND. -/
  | cAnd (x y : BitVec 5)
  /-- C.OR (R64): Compact OR. -/
  | cOr (x y : BitVec 5)
  /-- C.XOR (R64): Compact XOR. -/
  | cXor (x y : BitVec 5)
  /-- C.SHLI (R64): Compact SHLI. -/
  | cShli (x y : BitVec 5)
  /-- C.SHRI (R64): Compact SHRI. -/
  | cShri (x y : BitVec 5)
  /-- C.LDW (R64): Compact LDW with zero offset. -/
  | cLdw (x y : BitVec 5)
  /-- C.STW (R64): Compact STW with zero offset. -/
  | cStw (x y : BitVec 5)
  /-- C.SEND (R64): Compact one-flit SEND of a scalar with unchanged tags. -/
  | cSend (p : BitVec 2) (y : BitVec 5)
  /-- C.TGET (R64): Compact TGET of a word of the head token of i0. -/
  | cTget (x y : BitVec 5)
  /-- C.VFADD (R64): Compact unmasked VFADD. -/
  | cVfadd (x y : BitVec 4)
  /-- C.VFMUL (R64): Compact unmasked VFMUL. -/
  | cVfmul (x y : BitVec 4)
  /-- C.VFMA (R64): Compact unmasked VFMA. -/
  | cVfma (x y : BitVec 4)
  /-- C.VADD (R64): Compact unmasked VADD. -/
  | cVadd (x y : BitVec 4)
  /-- C.FLD (R64): Compact FLD of slot 0–31. -/
  | cFld (x y : BitVec 5)
  /-- C.FST (R64): Compact FST of slot 0–31. -/
  | cFst (x y : BitVec 5)
  /-- NOP (R282): No operation. -/
  | nop
  /-- END (R282): Ends the firing: bound inputs are consumed, staged sends and held stores are committed, unused
  reservations are released and the frame is kept. -/
  | endFiring
  /-- ENDF (R282): Ends the firing as END does and also frees the activation's frame. -/
  | endfFiring
  /-- YIELD (R282): Ends the firing, leaves its inputs unbound, discards staged sends and held stores, and
  releases reservations. -/
  | yield
  /-- C.NOP (R64): Compact alias of NOP. -/
  | cNop
  /-- C.END (R64): Compact alias of END. -/
  | cEnd
  /-- CHART_LOAD (R43): Validates a chart image, multicasts its patterns and writes channels, frames and initial
  values to the participating tiles. -/
  | chartLoad
  /-- CHART_LOAD_ACK (R43): A participating die or device acknowledges its part of a chart load. -/
  | chartLoadAck
  /-- CONFIG_TIMEOUT (R44): After 2^22 fc without every acknowledgement, the load aborts, the tiles return to
  their pre-load state and LINK_TIMEOUT is returned. -/
  | configTimeout
  /-- START_TOKEN_DELIVERY (R43): After the last acknowledgement, the loader places the initial tokens and
  delivers the start token. -/
  | startTokenDelivery
  /-- CONTROL_TOKEN_TAKE (R259): The tile controller takes one token per fc from its control queue. -/
  | controlTokenTake
  /-- TOKEN_ARRIVAL (R263): A token's flits land in its reserved FIFO slot at the consumer tile. -/
  | tokenArrival
  /-- OPERAND_RETRY (R34): An operand still waiting in its pool slot retries placement when space frees. -/
  | operandRetry
  /-- POOL_SLOT_TIMEOUT (R35): An operand waiting 2^16 fc without its frame raises F_FRAME_ABSENT and is
  discarded. -/
  | poolSlotTimeout
  /-- CREDIT_RETURN (R261): A credit freed at the consumer reaches a producer and becomes usable. -/
  | creditReturn
  /-- FIRING_ADMISSION (R25): A ready actor enters a free firing slot, takes its reservations, binds its inputs
  and chooses its routine. -/
  | firingAdmission
  /-- YIELD_BACKOFF_EXPIRY (R283): 64 fc after a YIELD, the berth becomes admissible again. -/
  | yieldBackoffExpiry
  /-- XLATE_RECORD_POST (R271): An F_XLATE record that waited for room in the fault queue is posted. -/
  | xlateRecordPost
  /-- FAULT_EDGE_SEND (R327): The fault unit sends the next record as a token on its fault edge when a credit is
  free. -/
  | faultEdgeSend
  /-- MEMORY_REPLY (R223): An ordering reply or load data reaches the issuing firing, which resumes. -/
  | memoryReply
  /-- LOAD_HOME_REQUEST (R208): A load that misses L1 is served at its home, waiting on PEND or extending the
  lease. -/
  | loadHomeRequest
  /-- OWNERSHIP_REQUEST (R209): A store reserves its line at the home, setting wts, rts, OWN and PEND. -/
  | ownershipRequest
  /-- ATOMIC_HOME_OPERATION (R212): An atomic is performed at the home's atomic unit in the tenant's calendar
  slot. -/
  | atomicHomeOperation
  /-- BERM_WAIT_RESUME (R228): A held store that waited for a berm entry proceeds once one frees. -/
  | bermWaitResume
  /-- L2_FILL (R198): A line is filled into L2 from its tier with wts and rts set from MXR. -/
  | l2Fill
  /-- FILL_WAIT_RESUME (R199): A fill waiting because every allowed way holds a PEND line proceeds when one
  clears. -/
  | fillWaitResume
  /-- MEMORY_CHANNEL_OPERATION (R391): A home-11 access is performed indivisibly at its memory channel under CWTS,
  with codec passes. -/
  | memoryChannelOperation
  /-- UNIT_SLOT_SERVICE (R276): A shared unit serves the head request of the queue that its calendar slot selects.
  -/
  | unitSlotService
  /-- TIDE_TABLE_SWITCH (R275): A written tide table takes effect whole at the next fc with calendar index 0. -/
  | tideTableSwitch
  /-- HOST_WRITE (R214): A host write to device memory is ordered at its home under HCK. -/
  | hostWrite
  /-- HOST_READ (R214): A host read of device memory is answered at the home with pts HCK. -/
  | hostRead
  /-- HOST_SNOOP (R215): A host snoop of a host line held in L2 is answered, and ownership is taken away if asked.
  -/
  | hostSnoop
  /-- INGRESS_DOORBELL_WRITE (R274): A host write to an ingress doorbell becomes a token in the VF's ingress
  queue, or is dropped and counted. -/
  | ingressDoorbellWrite
  /-- INGRESS_TOKEN_DELIVERY (R274): The harbour sends the head ingress token on the ingress channel when a credit
  is free. -/
  | ingressTokenDelivery
  /-- TIMESTAMP_REBASE (R221): When the largest timestamp passes 2^46, all timestamps are lowered by 2^45 and the
  L1 lines invalidated. -/
  | timestampRebase
  /-- TIDE_SAMPLE (R45): Every 4,096 fc the tide controller samples each elastic stage's input depth. -/
  | tideSample
  /-- REPLICA_RELEASE (R47): A removed replica's tile is released once its FIFOs are empty and its slots idle. -/
  | replicaRelease
  /-- CONFIG_PATTERN_WRITE (R269): The configuration network writes the next queued pattern command. -/
  | configPatternWrite
  /-- TASK_READY (R266): A task whose conditions hold enters the ready FIFO of its priority. -/
  | taskReady
  /-- COMPUTE_TASK_DISPATCH (R267): A compute task's start token is injected at the dispatcher tile when a credit
  is free. -/
  | computeTaskDispatch
  /-- COPY_TASK_DISPATCH (R267): A copy task's template is snapshotted into its channel's command queue under QCK.
  -/
  | copyTaskDispatch
  /-- BTE_COMMAND_START (R242): A BTE channel starts the next command of its queue. -/
  | bteCommandStart
  /-- ENGINE_WRITE (R216): An engine write covering a line is one home operation. -/
  | engineWrite
  /-- BTE_PASS_MARK (R244): After the writes of a marked pass land, the command sets its event bit. -/
  | btePassMark
  /-- BTE_COMMAND_COMPLETE (R243): After every write lands, the command takes its completion actions. -/
  | bteCommandComplete
  /-- EGRESS_ENTRY_WRITE (R272): An egress notification writes its ring entry and PROD, after waiting for room. -/
  | egressEntryWrite
  /-- ACCESS_RETRY (R226): On the wake token, the held access retries from the walk. -/
  | accessRetry
  /-- PAGE_WALK (R307): A TLB miss starts a two-stage walk that reads PTEs one after another. -/
  | pageWalk
  /-- PAGE_WALK_COMPLETE (R309): A walk installs its combined TLB entry, or faults, and frees its walk slot. -/
  | pageWalkComplete
  /-- INVALIDATION_COMPLETE (R308): A TLB invalidation completes once every access that used a dropped entry has
  replied. -/
  | invalidationComplete
  /-- OWED_WRITE_LANDING (R170): An owed tile, accumulator or bitmap write lands whole in one fc. -/
  | owedWriteLanding
  /-- LOAD_WALK_TILE (R247): Under a permit, a load walk reads the rows of its next tile and forms it. -/
  | loadWalkTile
  /-- STORE_WALK_TILE (R247): A store walk writes a buffered tile to memory. -/
  | storeWalkTile
  /-- HAAR_WALK_TILE (R394): A Haar tile walk reads segment records and forms a Q4 tile with survivor bits. -/
  | haarWalkTile
  /-- GRID_REQUEST_TAKE (R402): A G-tile takes a three-token request when it has a free result slot. -/
  | gridRequestTake
  /-- GRID_BATCH_SEND (R402): A G-tile sends a completed batch when the target binding's buffer has room. -/
  | gridBatchSend
  /-- GRID_BATCH_ARRIVAL (R402): A batch lands in the X-tile's buffer of the naming binding, or is discarded and
  counted. -/
  | gridBatchArrival
  /-- FRAME_ALLOC_REQUEST (R291): An allocation control token reaches the consumer tile, which writes the frame.
  -/
  | frameAllocRequest
  /-- FRAME_ALLOC_REPLY (R291): The allocation reply returns and the TAGN or FALLOC completes. -/
  | frameAllocReply
  /-- ISCFG_DESCRIPTOR_WRITE (R296): Once no ray of the slot circulates, the descriptor is written into the
  I-tiles and the held rays are injected. -/
  | iscfgDescriptorWrite
  /-- RAY_NODE_VISIT (R299): The ring visits one node of a ray, spending budget and testing boxes or primitives.
  -/
  | rayNodeVisit
  /-- RAY_MIGRATION (R301): A ray reaching a link node moves to the target cove's ring. -/
  | rayMigration
  /-- BATCH_ORDER_ARRIVAL (R257): A committed batch reaches the owning order unit, where it retires, is held, or
  is discarded as stale. -/
  | batchOrderArrival
  /-- BATCH_RETIRE (R257): The order unit blends one eligible batch per fc per screen tile and advances RCNT and
  RETC. -/
  | batchRetire
  /-- OCCQ_ARRIVAL (R360): A committed OCCQ reaches the order unit and applies at once or is held until RETC
  reaches its tag. -/
  | occqArrival
  /-- SEQN_RESUME (R361): A SEQN waiting for RETC to advance completes. -/
  | seqnResume
  /-- FRAME_SPACE_RESUME (R37): A TAGN or FALLOC suspended for frame space completes when space frees. -/
  | frameSpaceResume
  /-- ROUND_MARKER_SEND (R279): A lane sends its round's tokens and then a round marker on every virtual channel.
  -/
  | roundMarkerSend
  /-- LANE_ROUND_ADVANCE (R279): A forwarding lane enters the next round after receiving every feeding round
  marker. -/
  | laneRoundAdvance
  /-- LINK_FLIT_RETRY (R370): A flit that fails its CRC is retried from the replay buffer. -/
  | linkFlitRetry
  /-- LINK_TOKEN_LOST (R370): After 8 retries the tokens are lost, F_LINK is posted and the port retrains. -/
  | linkTokenLost
  /-- ROLLUP (R344): Every 2^16 fc, meters are read and emptied, and CONS, BAL and FRAC of each party are updated.
  -/
  | rollup
  /-- ROLLUP_TOKEN_SEND (R385): The harbour sends a roll-up token to the agent's chart when a credit is free. -/
  | rollupTokenSend
  /-- COST_TABLE_REWRITE (R318): The management core rewrites the energy cost table at a roll-up boundary. -/
  | costTableRewrite
  /-- GOVERNOR_WINDOW (R351): At the end of each 1,024-fc window, the die's issue gate K is adjusted from the
  metered energy. -/
  | governorWindow
  /-- THERMAL_LIMIT (R373): A die junction above 95 °C raises PF0 vector 2 and lowers the governor cap. -/
  | thermalLimit
  /-- THERMAL_CAP_STEP (R373): Every 2^16 fc above 95 °C the cap is lowered by 10 W. -/
  | thermalCapStep
  /-- THERMAL_SHUTDOWN (R373): At 105 °C every die is held in reset. -/
  | thermalShutdown
  /-- PARTITION_CREATE (R332): Allocates coves to a partition. -/
  | partitionCreate
  /-- PARTITION_ENTER (R332): Makes a VF resident, restoring its image or starting its chart. -/
  | partitionEnter
  /-- PARTITION_SWITCH (R332): Freezes the resident VF and enters another. -/
  | partitionSwitch
  /-- PARTITION_FREEZE (R334): Stalls the partition in one fc for a slack freeze. -/
  | partitionFreeze
  /-- FREEZE_SAVE (R334): Once outstanding requests complete, the whole state is saved into the slot. -/
  | freezeSave
  /-- PARTITION_DRAIN (R337): Starts a breakwater drain by gating the partition's sources. -/
  | partitionDrain
  /-- DRAIN_COMPLETE (R338): When the ebb tree reports empty, the drain image is saved. -/
  | drainComplete
  /-- DRAIN_TIMEOUT (R337): A drain past its limit becomes a slack freeze and completes with DRAIN_TIMEOUT. -/
  | drainTimeout
  /-- PARTITION_RESUME (R338): Reloads the chart, restores the drain image and ungates the sources. -/
  | partitionResume
  /-- PARTITION_RESIZE (R339): Checks, drains, relocates pools and rewrites the cove map for a new ORIGIN. -/
  | partitionResize
  /-- PARTITION_RELEASE (R206): Scrubs and releases the partition's coves. -/
  | partitionRelease
  /-- COVE_SCRUB_END (R206): At the end of the zero-fill, the cove becomes free. -/
  | coveScrubEnd
  /-- VF_RESET (R340): The key-control command stalls and discards the VF's work, drops lines, replaces its key,
  zeroes coves and advances GEN. -/
  | vfReset
  /-- VF_FLR (R365): A function-level reset of a VF performs a VF reset. -/
  | vfFlr
  /-- PRIV_VF_READ (R315): PCMD 1 reads a VF-table unit into PDATA. -/
  | privVfRead
  /-- PRIV_VF_WRITE (R387): PCMD 2 writes a VF configuration unit under its residency and value checks. -/
  | privVfWrite
  /-- PRIV_GRANT_WRITE (R346): PCMD 2 to account unit 9 adds a signed grant to BAL and may clear or set EXH. -/
  | privGrantWrite
  /-- PRIV_MAPB_WRITE (R346): PCMD 2 to account unit 10 writes MAPB1 and MAPB2. -/
  | privMapbWrite
  /-- PRIV_PARTITION_READ (R316): PCMD 1 reads a partition-table entry. -/
  | privPartitionRead
  /-- PRIV_COVE_MAP_READ (R316): PCMD 1 reads a cove-map entry. -/
  | privCoveMapRead
  /-- PRIV_TIDE_READ (R314): PCMD 1 reads a unit of tide-table slots. -/
  | privTideRead
  /-- PRIV_TIDE_WRITE (R386): PCMD 2 writes a tide-table shadow, checked for house slots at unit 31. -/
  | privTideWrite
  /-- PRIV_KEY_QUERY (R317): PCMD 1 on key control returns whether a key is present. -/
  | privKeyQuery
  /-- PRIV_COST_READ (R314): PCMD 1 reads the energy cost table or the house account. -/
  | privCostRead
  /-- PRIV_INVALIDATE (R308): PCMD 3 on the invalidation table drops matching TLB entries of a VF. -/
  | privInvalidate
  /-- HOST_TLB_INVALIDATE (R366): A host write to VF offset 0x4018 starts a stage-1 invalidation. -/
  | hostTlbInvalidate
  /-- MSIX_TABLE_WRITE (R367): A host write to the MSI-X table; unmasking a pending vector sends its message. -/
  | msixTableWrite
  /-- HOST_REGISTER_WRITE (R366): A host write to a BAR register with no behaviour of its own. -/
  | hostRegisterWrite
  /-- RESYNC (R369): PFCMD 1 writes the 16 KiB summary record to host memory and raises PF0 vector 1. -/
  | resync
  /-- PF_DEVICE_RESET (R368): PFCMD 2 performs a device reset. -/
  | pfDeviceReset
  /-- FIRMWARE_UPDATE (R371): PFCMD 3 verifies a new image and writes it to flash, or completes with
  IMAGE_REJECTED. -/
  | firmwareUpdate
  /-- PF_UNKNOWN_COMMAND (R368): Any other PFCMD value completes with BAD_ARG. -/
  | pfUnknownCommand
  /-- DEVICE_RESET (R374): A conventional, hot or PF0 reset holds the dies, verifies firmware, trains memories and
  links, and enables CXL. -/
  | deviceReset
  /-- GET_VERSION (R372): SPDM version query over DOE. -/
  | getVersion
  /-- GET_CAPABILITIES (R372): SPDM capabilities query. -/
  | getCapabilities
  /-- NEGOTIATE_ALGORITHMS (R372): SPDM algorithm negotiation. -/
  | negotiateAlgorithms
  /-- GET_DIGESTS (R372): SPDM certificate digests query. -/
  | getDigests
  /-- GET_CERTIFICATE (R372): SPDM certificate read. -/
  | getCertificate
  /-- CHALLENGE (R372): SPDM challenge, answered with Ed25519 and ML-DSA-65 signatures. -/
  | challenge
  /-- GET_MEASUREMENTS (R372): Returns signed measurement blocks 1–4. -/
  | getMeasurements
  /-- KEY_EXCHANGE (R372): SPDM session key exchange. -/
  | keyExchange
  /-- FINISH (R372): SPDM session finish. -/
  | finish
  /-- MANAGEMENT_CORE_FAULT (R327): A fault inside the management core puts the device into recovery. -/
  | managementCoreFault
  /-- CXL_LINK_TRAINING (R364): The CXL port trains, or falls back to a lower rate or width, and the calendar
  rates scale with the trained rate times width. -/
  | cxlLinkTraining
  /-- PORT_RETRAIN (R370): An Oroti link port finishes retraining after lost tokens, and it carries token lanes
  again. -/
  | portRetrain
  /-- VF_ENABLE (R365): SR-IOV enables VFs in order of index, and a VF that is not enabled reads as absent. -/
  | vfEnable
  deriving DecidableEq, Repr

end Sys2Proof
end

