-- ==== Sys2Proof/WellFormed.lean ====
section
/-! DEFINITION. Which instructions a chart may place in a routine: the tile kinds of R63 and R64, the field limits of
R60 and the operand positions of R61, R62 and R115. A refused instruction is refused with its status of R65. -/

namespace Sys2Proof

/-- What the chart says of the berth whose routine holds an instruction. `rates` are the 3-bit rates of i0 to i3 and
then o0 to o3; `mcast`, `tagged` and `grid` mark the output ports whose channel is a multicast set, leads to a tagged
actor, or leads to a G-tile of the cove; `window`, `tbind` and `gbind` are the berth record's fields (R311). -/
structure WfCtx where
  kind : Kind := .c
  isTagged : Bool := false
  rates : BitVec 24 := 0
  mcast : BitVec 4 := 0
  tagged : BitVec 4 := 0
  grid : BitVec 4 := 0
  window : BitVec 7 := 0
  tbind : BitVec 20 := 0
  gbind : BitVec 14 := 0
  deriving DecidableEq, Repr

/-- The rate of input port `n`. -/
def WfCtx.inRate (c : WfCtx) (n : Nat) : Nat := (c.rates.toNat / 2 ^ (3 * n)) % 8

/-- The rate of output port `n`. -/
def WfCtx.outRate (c : WfCtx) (n : Nat) : Nat := (c.rates.toNat / 2 ^ (12 + 3 * n)) % 8

/-- The tile kinds an instruction is valid on, as the columns of R63 mark them. -/
inductive KindSet where
  | cxm | cm | c | x | none
  deriving DecidableEq, Repr

/-- Whether a tile kind is in the set. -/
def KindSet.has (s : KindSet) (k : Kind) : Bool :=
  match s, k with
  | .cxm, .c | .cxm, .x | .cxm, .m | .cm, .c | .cm, .m | .c, .c | .x, .x => true
  | _, _ => false

/-- A scalar source position (R61, R62, R115). -/
def WfCtx.src (c : WfCtx) (o : Opnd) : Bool :=
  match o with
  | .v _ | .o _ => false
  | .i n => decide (0 < c.inRate n.toNat)
  | .f _ => c.isTagged
  | .w _ | .z | .lx | .fp | .it | .sq | .xy | .st | .cx | .k _ => true

/-- A scalar destination position (R115). -/
def WfCtx.dst (c : WfCtx) (o : Opnd) : Bool :=
  match o with
  | .w _ | .o _ | .z | .sq => true
  | .f _ => c.isTagged
  | .v _ | .i _ | .lx | .fp | .it | .xy | .st | .cx | .k _ => false

/-- A scalar destination that is read as well (R115). -/
def WfCtx.dstRead (c : WfCtx) (o : Opnd) : Bool :=
  match o with
  | .w _ | .z | .sq => true
  | .f _ => c.isTagged
  | .o _ | .v _ | .i _ | .lx | .fp | .it | .xy | .st | .cx | .k _ => false

/-- A vector source position (R61, R62): v registers on C-tiles only. Whether lx, which R62 does not list and R145 calls no broadcast,
may stand there on an M-tile is left open: it may (log 116). -/
def WfCtx.vsrc (c : WfCtx) (o : Opnd) : Bool :=
  match o with
  | .v _ => decide (c.kind = .c)
  | .o _ => false
  | .i _ | .f _ | .w _ | .z | .lx | .fp | .it | .sq | .xy | .st | .cx | .k _ => c.src o

/-- A vector destination position (R61, R62): v registers on C-tiles, o0 to o3 on C- and M-tiles. -/
def WfCtx.vdst (c : WfCtx) (o : Opnd) : Bool :=
  match o with
  | .v _ => decide (c.kind = .c)
  | .o _ => true
  | .i _ | .f _ | .w _ | .z | .lx | .fp | .it | .sq | .xy | .st | .cx | .k _ => false

/-- A vector destination that is a v register: one that is read as well (R115), and d of the lane-wise instructions (R138). -/
def WfCtx.vdstRead (c : WfCtx) (o : Opnd) : Bool :=
  match o with
  | .v _ => decide (c.kind = .c)
  | .o _ | .i _ | .f _ | .w _ | .z | .lx | .fp | .it | .sq | .xy | .st | .cx | .k _ => false

/-- The vector form of MOV and of the CVT instructions (R131, R157). -/
def vectorForm (d a : Opnd) : Bool :=
  match d, a with
  | .v _, _ => true
  | _, .v _ => true
  | .o _, .i _ => true
  | _, _ => false

/-- The even v register of ATTR and BLND; on an M-tile BLND takes i0 or i2 with the port after it (R166, R256). -/
def WfCtx.pair (c : WfCtx) (o : Opnd) : Bool :=
  match o with
  | .v n => decide (c.kind = .c) && decide (n.toNat % 2 = 0)
  | .i n => decide (c.kind = .m) && decide (n.toNat % 2 = 0) && decide (0 < c.inRate n.toNat) &&
      decide (0 < c.inRate (n.toNat + 1))
  | _ => false

/-- The CSR numbers that CSRR may name (R110, R111). -/
def csrReadable (n : Nat) : Bool :=
  decide (n ≤ 5) || decide (n = 0x10) || decide (n = 0x11) || (decide (0x20 ≤ n) && decide (n ≤ 0x27)) ||
  (decide (0x30 ≤ n) && decide (n ≤ 0x33)) || (decide (0x40 ≤ n) && decide (n ≤ 0x46)) ||
  (decide (0x100 ≤ n) && decide (n ≤ 0x107))

/-- The CSR numbers that CSRW may name (R111). -/
def csrWritable (n : Nat) : Bool :=
  decide (n = 0x10) || decide (n = 0x11) || (decide (0x20 ≤ n) && decide (n ≤ 0x27)) || decide (n = 0x40) ||
  (decide (0x100 ≤ n) && decide (n ≤ 0x107))

/-- Tile-walk binding `b` is declared, in storer role when `storer` holds and in loader role otherwise (R169, R311). -/
def WfCtx.bound (c : WfCtx) (b : Nat) (storer : Bool) : Bool :=
  decide ((c.tbind.toNat / 2 ^ (5 * b + 4)) % 2 = 1) &&
  decide ((c.tbind.toNat / 2 ^ (5 * b + 3)) % 2 = if storer then 1 else 0)

/-- Grid binding `g` is declared (R169, R311). -/
def WfCtx.gbound (c : WfCtx) (g : Nat) : Bool := decide ((c.gbind.toNat / 2 ^ (7 * g + 6)) % 2 = 1)

/-- The limits of the TOK fields that every send keeps: top 000, 100 and 101 do not use timm, which is then zero, and top 010
uses its low five bits (R60, R70, R288). -/
def tokFields (t : BitVec 3) (m : BitVec 8) : Bool :=
  decide (t.toNat < 6) && (!decide (t = 2) || decide (m.toNat < 32)) && (!decide (t = 0 ∨ t = 4 ∨ t = 5) || decide (m = 0))

/-- Output port `p` takes a send: its rate is above 0 and its channel is no multicast set (R288). -/
def WfCtx.port (c : WfCtx) (p : Nat) : Bool := decide (0 < c.outRate p) && !c.mcast.getLsbD p

/-- The tile kinds of an instruction (R63, R64); the steps without an encoding stand in no routine. -/
def Instr.kinds (i : Instr) : KindSet :=
  match i with
  | .br .. | .loop .. | .loopi .. | .pcmpEq .. | .pcmpNe .. | .pcmpLt .. | .pcmpLtu .. | .plog .. | .add ..
  | .sub .. | .addi .. | .mul .. | .mulh .. | .mulhu .. | .div .. | .divu .. | .rem .. | .remu .. | .and ..
  | .or .. | .xor .. | .shl .. | .shr .. | .sra .. | .shli .. | .shri .. | .srai .. | .min .. | .max ..
  | .clz .. | .popc .. | .brev .. | .bfx .. | .bfxu .. | .bfi .. | .sel .. | .mov .. | .li .. | .lih ..
  | .agen .. | .agen2 .. | .tget .. | .tset .. | .send .. | .trap .. | .csrr .. | .cBr .. | .cLoopi ..
  | .cMov .. | .cLi .. | .cAdd .. | .cSub .. | .cAddi .. | .cAnd .. | .cOr .. | .cXor .. | .cShli .. | .cShri ..
  | .cSend .. | .cTget .. | .nop | .endFiring | .endfFiring | .cNop | .cEnd => .cxm
  | .switch .. | .ldb .. | .ldbu .. | .ldh .. | .ldhu .. | .ldw .. | .stb .. | .sth .. | .stw .. | .ldv ..
  | .ldvs .. | .ldvg .. | .ldvb .. | .stv .. | .stvs .. | .stvx .. | .aadd .. | .amin .. | .amax .. | .aand ..
  | .aor .. | .axor .. | .axch .. | .acas .. | .afadd .. | .aincw .. | .hld .. | .hst .. | .ldnc .. | .stnc ..
  | .drain .. | .chkb .. | .slclm .. | .slrel .. | .sltst .. | .sende .. | .sendm .. | .steer .. | .merge ..
  | .loopc .. | .tspawn .. | .tdec .. | .evset .. | .evclr .. | .permit .. | .blnd .. | .ztst .. | .binapp ..
  | .occq .. | .seqn .. | .tret .. | .csrw .. | .emrd .. | .eqt .. | .cLdw .. | .cStw .. | .yield => .cm
  | .pfcmpEq .. | .pfcmpLt .. | .pfcmpLe .. | .pfcmpUn .. | .mcmpEq .. | .mcmpNe .. | .mcmpLt .. | .mcmpLtu ..
  | .mfcmpEq .. | .mfcmpLt .. | .mfcmpLe .. | .mfcmpUn .. | .mlog .. | .mpop .. | .mfirst .. | .vbcast ..
  | .vext .. | .vins .. | .vperm .. | .vrotl .. | .vredAdd .. | .vredMin .. | .vredMax .. | .vscanAdd ..
  | .vadd .. | .vsub .. | .vmul .. | .vmulh .. | .vmad .. | .vand .. | .vor .. | .vxor .. | .vshl .. | .vshr ..
  | .vsra .. | .vmin .. | .vmax .. | .vsel .. | .vadds .. | .vsubs .. | .vpack .. | .vunpk .. | .vclz ..
  | .vpopc .. | .vfadd .. | .vfsub .. | .vfmul .. | .vfma .. | .vfmin .. | .vfmax .. | .vfabs .. | .vfneg ..
  | .vfrcp .. | .vfrsq .. | .vfsqrt .. | .vfdiv .. | .vfexp2 .. | .vflog2 .. | .vfsin .. | .vftanh ..
  | .vfsig .. | .vfrnd .. | .vfclmp .. | .vflrp .. | .vhmul .. | .vhfma .. | .vbfma .. | .fadd .. | .fmul ..
  | .ffma .. | .cvtF2i .. | .cvtI2f .. | .cvtF2h .. | .cvtH2f .. | .cvtF2b .. | .cvtB2f .. | .cvtF2q ..
  | .cvtQ2f .. | .hfwd .. | .hinv .. | .hthr .. | .hpack .. | .hunpk .. | .htag .. | .hqry .. | .hsett ..
  | .fld .. | .fst .. | .tagn .. | .falloc .. | .ffree .. | .rays .. | .fglk .. | .edge .. | .attr ..
  | .iscfg .. | .cVfadd .. | .cVfmul .. | .cVfma .. | .cVadd .. | .cFld .. | .cFst .. => .c
  | .mshp .. | .tld .. | .tstTile .. | .tstAcc .. | .tzero .. | .ttr .. | .mskr .. | .mmq2 .. | .mmq4 ..
  | .mmq7 .. | .mmi8 .. | .mmh .. | .mmb .. | .sca .. | .scai .. | .aclr .. | .ajoin .. | .acpy .. | .aout ..
  | .ain .. | .ard .. | .srtcfg .. | .srtk .. | .srtf .. | .tfeat .. => .x
  | .chartLoad | .chartLoadAck | .configTimeout | .startTokenDelivery | .controlTokenTake | .tokenArrival
  | .operandRetry | .poolSlotTimeout | .creditReturn | .firingAdmission | .yieldBackoffExpiry | .xlateRecordPost
  | .faultEdgeSend | .memoryReply | .loadHomeRequest | .ownershipRequest | .atomicHomeOperation
  | .bermWaitResume | .l2Fill | .fillWaitResume | .memoryChannelOperation | .unitSlotService | .tideTableSwitch
  | .hostWrite | .hostRead | .hostSnoop | .ingressDoorbellWrite | .ingressTokenDelivery | .timestampRebase
  | .tideSample | .replicaRelease | .configPatternWrite | .taskReady | .computeTaskDispatch | .copyTaskDispatch
  | .bteCommandStart | .engineWrite | .btePassMark | .bteCommandComplete | .egressEntryWrite | .accessRetry
  | .pageWalk | .pageWalkComplete | .invalidationComplete | .owedWriteLanding | .loadWalkTile | .storeWalkTile
  | .haarWalkTile | .gridRequestTake | .gridBatchSend | .gridBatchArrival | .frameAllocRequest
  | .frameAllocReply | .iscfgDescriptorWrite | .rayNodeVisit | .rayMigration | .batchOrderArrival | .batchRetire
  | .occqArrival | .seqnResume | .frameSpaceResume | .roundMarkerSend | .laneRoundAdvance | .linkFlitRetry
  | .linkTokenLost | .rollup | .rollupTokenSend | .costTableRewrite | .governorWindow | .thermalLimit
  | .thermalCapStep | .thermalShutdown | .partitionCreate | .partitionEnter | .partitionSwitch
  | .partitionFreeze | .freezeSave | .partitionDrain | .drainComplete | .drainTimeout | .partitionResume
  | .partitionResize | .partitionRelease | .coveScrubEnd | .vfReset | .vfFlr | .privVfRead | .privVfWrite
  | .privGrantWrite | .privMapbWrite | .privPartitionRead | .privCoveMapRead | .privTideRead | .privTideWrite
  | .privKeyQuery | .privCostRead | .privInvalidate | .hostTlbInvalidate | .msixTableWrite | .hostRegisterWrite
  | .resync | .pfDeviceReset | .firmwareUpdate | .pfUnknownCommand | .deviceReset | .getVersion
  | .getCapabilities | .negotiateAlgorithms | .getDigests | .getCertificate | .challenge | .getMeasurements
  | .keyExchange | .finish | .managementCoreFault | .cxlLinkTraining | .portRetrain | .vfEnable => .none

/-- The field limits of R60 and of the instruction entries that answer with LOAD_FIELD_RESERVED. -/
def Instr.fieldsOk (c : WfCtx) (i : Instr) : Bool :=
  match i with
  | .loop _ l => decide (l ≠ 0)
  | .loopi _ l => decide (l ≠ 0)
  | .cLoopi _ l => decide (l ≠ 0)
  | .mov d a q => vectorForm d a || decide (q = 0)
  | .tget _ a t w => decide (w.toNat < 20) &&
      (match a with
       | .i n => decide (t.toNat < c.inRate n.toNat)
       | _ => true)
  | .cTget _ y => decide (y.toNat < 20) && decide (0 < c.inRate 0)
  | .ztst _ _ _ q => decide (q ≠ 0)
  | .edge _ _ _ q => decide (q ≠ 0)
  | .mshp _ x h _ f => decide (f.toNat < 6) && decide (h.toNat < 5) && (decide (h ≠ 0) || decide (x = 0))
  | .tld _ b => c.bound b.toNat false
  | .tstTile _ b => c.bound b.toNat true
  | .tstAcc k f b => decide (k.toNat < 4) && decide (f.toNat < 4) && c.bound b.toNat true
  | .ain k b => decide (k.toNat < 4) && c.bound b.toNat false
  | .mskr _ m f => decide (f ≠ 3) && (decide (f ≠ 0) || decide (m = 0))
  | .mmq2 _ _ k | .mmq4 _ _ k | .mmq7 _ _ k | .mmi8 _ _ k | .mmh _ _ k | .mmb _ _ k | .sca _ _ k =>
      decide (k.toNat < 4)
  | .scai _ _ k _ _ => decide (k.toNat < 4)
  | .aclr k l => decide (k.toNat < 4) && (decide (l = 0) || decide (k = 0))
  | .ajoin k _ | .acpy k _ => decide (k.toNat < 4)
  | .aout _ k _ _ => decide (k.toNat < 4)
  | .ard k x _ cc _ => if x = 1 then decide (cc = 0) else decide (k.toNat < 4)
  | .srtcfg _ _ k => decide (k ≠ 3)
  | .srtf _ _ q p => decide (p ≠ q)
  | .tfeat _ g => c.gbound g.toNat
  | .send _ _ t m f | .sendm _ _ t m f | .steer _ _ t m f | .loopc _ _ t m f =>
      tokFields t m && decide (f.toNat < 5)
  | .merge _ _ t m f => tokFields t m && decide (f.toNat < 5)
  | .sende _ t m _ => tokFields t m
  | .csrr _ n => csrReadable n.toNat
  | .csrw _ n => csrWritable n.toNat
  | _ => true

/-- The operand positions of R61, R62, R115 and of the instruction entries that answer with LOAD_OPERAND_INVALID. -/
def Instr.operandsOk (c : WfCtx) (i : Instr) : Bool :=
  match i with
  | .loop n _ => c.src n
  | .switch a b | .slclm a b | .slrel a b | .tdec a b | .permit a b | .iscfg a b => c.src a && c.src b
  | .pcmpEq _ a b | .pcmpNe _ a b | .pcmpLt _ a b | .pcmpLtu _ a b | .pfcmpEq _ a b | .pfcmpLt _ a b
  | .pfcmpLe _ a b | .pfcmpUn _ a b | .chkb _ a b | .sltst _ a b | .tspawn _ a b | .eqt _ a b =>
      c.src a && c.src b
  | .mcmpEq _ a b _ | .mcmpNe _ a b _ | .mcmpLt _ a b _ | .mcmpLtu _ a b _ | .mfcmpEq _ a b _
  | .mfcmpLt _ a b _ | .mfcmpLe _ a b _ | .mfcmpUn _ a b _ => c.vsrc a && c.vsrc b
  | .mpop d _ | .mfirst d _ => c.dst d
  | .add d a b | .sub d a b | .mul d a b | .mulh d a b | .mulhu d a b | .div d a b | .divu d a b | .rem d a b
  | .remu d a b | .and d a b | .or d a b | .xor d a b | .shl d a b | .shr d a b | .sra d a b | .min d a b
  | .max d a b | .bfx d a b | .bfxu d a b | .agen d a b | .fadd d a b | .fmul d a b | .hsett d a b
  | .aadd d a b | .amin d a b | .amax d a b | .aand d a b | .aor d a b | .axor d a b | .axch d a b
  | .afadd d a b | .aincw d a b | .evset d a b | .evclr d a b | .binapp d a b | .emrd d a b =>
      c.dst d && c.src a && c.src b
  | .addi d a _ | .shli d a _ | .shri d a _ | .srai d a _ => c.dst d && c.src a
  | .ldb d a _ | .ldbu d a _ | .ldh d a _ | .ldhu d a _ | .ldw d a _ | .ldnc d a _ => c.dst d && c.src a
  | .stb d a _ | .sth d a _ | .stw d a _ | .stnc d a _ => c.src d && c.src a
  | .clz d a | .popc d a | .brev d a | .ffree d a | .seqn d a => c.dst d && c.src a
  | .bfi d a b | .sel d a b | .agen2 d a b | .ffma d a b | .acas d a b => c.dstRead d && c.src a && c.src b
  | .mov d a _ =>
      if vectorForm d a then c.vdst d && c.vsrc a && decide (c.kind ≠ .x) else c.dst d && c.src a
  | .li d _ | .csrr d _ | .drain d => c.dst d
  | .lih d _ => c.dstRead d
  | .csrw d _ => c.src d
  | .vbcast d a b _ | .vrotl d a b _ | .vfrnd d a b _ => c.vdst d && c.vsrc a && c.src b
  | .vext d a b => c.dst d && c.vsrc a && c.src b
  | .vins d a b => c.vdstRead d && c.src a && c.src b
  | .vredAdd d a _ | .vredMin d a _ | .vredMax d a _ => c.dst d && c.vsrc a
  | .vclz d a _ | .vpopc d a _ => c.vdstRead d && c.vsrc a
  | .vscanAdd d a _ | .vfabs d a _ | .vfneg d a _ | .vfrcp d a _ | .vfrsq d a _
  | .vfsqrt d a _ | .vfexp2 d a _ | .vflog2 d a _ | .vfsin d a _ | .vftanh d a _ | .vfsig d a _ =>
      c.vdst d && c.vsrc a
  | .tget d a _ _ => c.dst d &&
      (match a with
       | .i n => decide (0 < c.inRate n.toNat)
       | _ => false)
  | .tset d a _ =>
      (match d with
       | .o _ => true
       | _ => false) && c.src a
  | .vadd d a b _ | .vsub d a b _ | .vmul d a b _ | .vmulh d a b _ | .vand d a b _ | .vor d a b _ | .vxor d a b _
  | .vshl d a b _ | .vshr d a b _ | .vsra d a b _ | .vmin d a b _ | .vmax d a b _ => c.vdstRead d && c.vsrc a && c.vsrc b
  | .vperm d a b _ | .vsel d a b _ | .vfadd d a b _ | .vfsub d a b _ | .vfmul d a b _ | .vfmin d a b _ | .vfmax d a b _
  | .vfdiv d a b _ | .vhmul d a b _ => c.vdst d && c.vsrc a && c.vsrc b
  | .vadds d a b _ | .vsubs d a b _ | .vpack d a b _ => c.vdst d && c.vsrc a && c.vsrc b
  | .vunpk d a b _ => c.vdst d && c.vsrc a && c.src b
  | .vmad d a b _ | .vfma d a b _ | .vfclmp d a b _ | .vflrp d a b _ | .vhfma d a b _ | .vbfma d a b _ =>
      c.vdstRead d && c.vsrc a && c.vsrc b
  | .cvtF2i d a _ | .cvtI2f d a _ =>
      if vectorForm d a then c.vdst d && c.vsrc a else c.dst d && c.src a
  | .cvtF2h d a b _ | .cvtF2b d a b _ =>
      if vectorForm d a then c.vdst d && c.vsrc a && c.vsrc b else c.dst d && c.src a && c.src b
  | .cvtH2f d a n _ | .cvtB2f d a n _ =>
      if vectorForm d a then c.vdst d && c.vsrc a && c.src n else c.dst d && c.src a && c.src n
  | .cvtF2q d a n | .cvtQ2f d a n => vectorForm d a && c.vdst d && c.vsrc a && c.src n
  | .hfwd d a b | .hthr d a b | .hpack d a b | .hunpk d a b | .htag d a b => c.vdst d && c.vsrc a && c.src b
  | .hinv d a => c.vdst d && c.vsrc a
  | .hqry d a => c.dst d && c.vsrc a
  | .ldv d a _ _ | .ldvb d a _ _ => c.vdst d && c.src a
  | .stv d a _ _ => c.vsrc d && c.src a
  | .ldvs d a b _ => c.vdst d && c.src a && c.src b
  | .ldvg d a b _ => c.vdst d && c.src a && c.vsrc b
  | .stvs d a b _ => c.vsrc d && c.src a && c.src b
  | .stvx d a b _ => c.vsrc d && c.src a && c.vsrc b
  | .hld d a b => c.vdst d && c.src a && c.src b
  | .hst d a b => c.vsrc d && c.src a && c.src b
  | .fld d _ => c.dst d && c.isTagged
  | .fst d _ => c.src d && c.isTagged
  | .send p s _ _ _ => c.vsrc s && c.port p.toNat
  | .sende p _ _ _ => c.port p.toNat
  | .sendm p s _ _ _ => c.vsrc s && decide (0 < c.outRate p.toNat)
  | .steer p s _ _ _ => c.vsrc s && c.port p.toNat && c.port (p ^^^ 1).toNat
  | .merge p s _ _ _ => c.port p.toNat && decide (c.inRate s.toNat = 1) && decide (c.inRate (s ^^^ 1).toNat = 1)
  | .loopc p s _ _ _ => c.vsrc s && c.port p.toNat && decide (c.window ≠ 0)
  | .tagn d p => c.dst d && c.port p.toNat && c.tagged.getLsbD p.toNat
  | .falloc d p b => c.dst d && c.src b && c.port p.toNat && c.tagged.getLsbD p.toNat
  | .rays _ a b =>
      (match a with
       | .v _ => decide (c.kind = .c)
       | .i n => decide (0 < c.inRate n.toNat)
       | _ => false) && c.src b
  | .fglk p a b =>
      (match a with
       | .v n => decide (n.toNat ≤ 13)
       | _ => false) && c.src b && (decide (c.outRate p.toNat = 3) || decide (c.outRate p.toNat = 4)) &&
      c.grid.getLsbD p.toNat
  | .blnd d a b _ => c.pair d && c.src a && c.src b
  | .ztst d a b _ => c.vsrc d && c.src a && c.src b
  | .edge _ a b _ =>
      (match a with
       | .v _ => true
       | _ => false) && c.src b
  | .attr d _ b _ => c.vdst d && c.vsrc b
  | .occq d a b => c.src d && c.src a && c.src b
  | .trap a | .tret a => c.src a
  | .cSend p _ => c.port p.toNat
  | .cFld _ _ | .cFst _ _ => c.isTagged
  | _ => true

/-- The loader's verdict on one decoded instruction of a berth: the first status of R65's table that applies. -/
def Instr.check (c : WfCtx) (i : Instr) : Option LoadStatus :=
  if !i.kinds.has c.kind then some .kindInvalid
  else if !i.fieldsOk c then some .fieldReserved
  else if !i.operandsOk c then some .operandInvalid
  else none

/-- The instruction may stand in a routine of the berth (R65). -/
def Instr.wf (c : WfCtx) (i : Instr) : Bool := decide (i.check c = none)

end Sys2Proof
end

