-- ==== Sys2Proof/Decode.lean ====
section
/-! DEFINITION. The decoder of instruction words (R58 to R64), the encoder beside it, and the numbering of words that
the opcode table uses. A word whose fixed bits differ from its row is refused with the status of R65. -/

namespace Sys2Proof

/-- The 7-bit selector of an operand (R61). -/
def Opnd.num (o : Opnd) : Nat :=
  match o with
  | .w n => n.toNat
  | .v n => 0x20 + n.toNat
  | .i n => 0x30 + n.toNat
  | .o n => 0x34 + n.toNat
  | .z => 0x38
  | .lx => 0x39
  | .fp => 0x3A
  | .it => 0x3B
  | .sq => 0x3C
  | .xy => 0x3D
  | .st => 0x3E
  | .cx => 0x3F
  | .k n => 0x40 + n.toNat
  | .f n => 0x60 + n.toNat

/-- The operand that a 7-bit selector names (R61). -/
def Opnd.ofNum (n : Nat) : Opnd :=
  if n < 0x20 then .w (BitVec.ofNat 5 n)
  else if n < 0x30 then .v (BitVec.ofNat 4 (n - 0x20))
  else if n < 0x34 then .i (BitVec.ofNat 2 (n - 0x30))
  else if n < 0x38 then .o (BitVec.ofNat 2 (n - 0x34))
  else if n < 0x40 then
    (match n with
     | 0x38 => .z
     | 0x39 => .lx
     | 0x3A => .fp
     | 0x3B => .it
     | 0x3C => .sq
     | 0x3D => .xy
     | 0x3E => .st
     | _ => .cx)
  else if n < 0x60 then .k (BitVec.ofNat 5 (n - 0x40))
  else .f (BitVec.ofNat 5 (n - 0x60))

/-- Bits `lo` to `lo + len - 1` of a word. -/
def bitField (w lo len : Nat) : Nat := w / 2 ^ lo % 2 ^ len

/-- The operand whose selector starts at bit `lo` of the word. -/
def opndField (w lo : Nat) : Opnd := Opnd.ofNum (bitField w lo 7)

/-- The field of `n` bits that starts at bit `lo` of the word. -/
def bvField (n w lo : Nat) : BitVec n := BitVec.ofNat n (w / 2 ^ lo)

/-- The tile kinds of each 32-bit opcode (R63). -/
def opcodeKinds (op : Nat) : KindSet :=
  if op < 0x03 then .cxm else if op < 0x04 then .cm else if op < 0x07 then .cxm else if op < 0x08 then .cm
  else if op < 0x0C then .cxm else if op < 0x10 then .c else if op < 0x11 then .cxm else if op < 0x1C then .c
  else if op < 0x3D then .cxm else if op < 0x46 then .c else if op < 0x48 then .cxm else if op < 0x86 then .c
  else if op < 0xA1 then .cm else if op < 0xA3 then .c else if op < 0xAA then .cm else if op < 0xC2 then .x
  else if op < 0xC3 then .cxm else if op < 0xC8 then .cm else if op < 0xCB then .c else if op < 0xD0 then .cm
  else if op < 0xD2 then .c else if op < 0xD5 then .cm else if op < 0xD7 then .c else if op < 0xD9 then .cm
  else if op < 0xDA then .c else if op < 0xDB then .cxm else if op < 0xDC then .cm else if op < 0xDD then .cxm
  else .cm

/-- The tile kinds of each compact opcode, those of its equivalent (R64). -/
def compactKinds (op : Nat) : KindSet :=
  if op = 0x0E ∨ op = 0x0F then .cm else if 0x12 ≤ op then .c else .cxm


/-- BR (R284). -/
def decBr (w : Nat) : Except LoadStatus Instr :=
  .ok (.br (bvField 3 w 20) (bvField 1 w 19) (bvField 19 w 0))

/-- LOOP (R285). -/
def decLoop (w : Nat) : Except LoadStatus Instr :=
  .ok (.loop (opndField w 16) (bvField 16 w 0))

/-- LOOPI (R285). -/
def decLoopi (w : Nat) : Except LoadStatus Instr :=
  .ok (.loopi (bvField 11 w 12) (bvField 12 w 0))

/-- SWITCH (R286). -/
def decSwitch (w : Nat) : Except LoadStatus Instr :=
  if bitField w 0 2 = 0 ∧ bitField w 16 7 = 0 then .ok (.switch (opndField w 9) (opndField w 2))
  else .error .fieldReserved

/-- PCMP.EQ (R120). -/
def decPcmpEq (w : Nat) : Except LoadStatus Instr :=
  if bitField w 0 6 = 0 then .ok (.pcmpEq (bvField 3 w 20) (opndField w 13) (opndField w 6))
  else .error .fieldReserved

/-- PCMP.NE (R120). -/
def decPcmpNe (w : Nat) : Except LoadStatus Instr :=
  if bitField w 0 6 = 0 then .ok (.pcmpNe (bvField 3 w 20) (opndField w 13) (opndField w 6))
  else .error .fieldReserved

/-- PCMP.LT (R120). -/
def decPcmpLt (w : Nat) : Except LoadStatus Instr :=
  if bitField w 0 6 = 0 then .ok (.pcmpLt (bvField 3 w 20) (opndField w 13) (opndField w 6))
  else .error .fieldReserved

/-- PCMP.LTU (R120). -/
def decPcmpLtu (w : Nat) : Except LoadStatus Instr :=
  if bitField w 0 6 = 0 then .ok (.pcmpLtu (bvField 3 w 20) (opndField w 13) (opndField w 6))
  else .error .fieldReserved

/-- PFCMP.EQ (R121). -/
def decPfcmpEq (w : Nat) : Except LoadStatus Instr :=
  if bitField w 0 6 = 0 then .ok (.pfcmpEq (bvField 3 w 20) (opndField w 13) (opndField w 6))
  else .error .fieldReserved

/-- PFCMP.LT (R121). -/
def decPfcmpLt (w : Nat) : Except LoadStatus Instr :=
  if bitField w 0 6 = 0 then .ok (.pfcmpLt (bvField 3 w 20) (opndField w 13) (opndField w 6))
  else .error .fieldReserved

/-- PFCMP.LE (R121). -/
def decPfcmpLe (w : Nat) : Except LoadStatus Instr :=
  if bitField w 0 6 = 0 then .ok (.pfcmpLe (bvField 3 w 20) (opndField w 13) (opndField w 6))
  else .error .fieldReserved

/-- PFCMP.UN (R121). -/
def decPfcmpUn (w : Nat) : Except LoadStatus Instr :=
  if bitField w 0 6 = 0 then .ok (.pfcmpUn (bvField 3 w 20) (opndField w 13) (opndField w 6))
  else .error .fieldReserved

/-- PLOG (R123). -/
def decPlog (w : Nat) : Except LoadStatus Instr :=
  if bitField w 0 2 = 0 ∧ bitField w 9 4 = 0 ∧ bitField w 16 4 = 0 then
      .ok (.plog (bvField 3 w 20) (bvField 3 w 13) (bvField 3 w 6) (bvField 4 w 2))
  else .error .fieldReserved

/-- MCMP.EQ (R122). -/
def decMcmpEq (w : Nat) : Except LoadStatus Instr :=
  if bitField w 2 4 = 0 ∧ bitField w 22 1 = 0 then
      .ok (.mcmpEq (bvField 2 w 20) (opndField w 13) (opndField w 6) (bvField 2 w 0))
  else .error .fieldReserved

/-- MCMP.NE (R122). -/
def decMcmpNe (w : Nat) : Except LoadStatus Instr :=
  if bitField w 2 4 = 0 ∧ bitField w 22 1 = 0 then
      .ok (.mcmpNe (bvField 2 w 20) (opndField w 13) (opndField w 6) (bvField 2 w 0))
  else .error .fieldReserved

/-- MCMP.LT (R122). -/
def decMcmpLt (w : Nat) : Except LoadStatus Instr :=
  if bitField w 2 4 = 0 ∧ bitField w 22 1 = 0 then
      .ok (.mcmpLt (bvField 2 w 20) (opndField w 13) (opndField w 6) (bvField 2 w 0))
  else .error .fieldReserved

/-- MCMP.LTU (R122). -/
def decMcmpLtu (w : Nat) : Except LoadStatus Instr :=
  if bitField w 2 4 = 0 ∧ bitField w 22 1 = 0 then
      .ok (.mcmpLtu (bvField 2 w 20) (opndField w 13) (opndField w 6) (bvField 2 w 0))
  else .error .fieldReserved

/-- MFCMP.EQ (R122). -/
def decMfcmpEq (w : Nat) : Except LoadStatus Instr :=
  if bitField w 2 4 = 0 ∧ bitField w 22 1 = 0 then
      .ok (.mfcmpEq (bvField 2 w 20) (opndField w 13) (opndField w 6) (bvField 2 w 0))
  else .error .fieldReserved

/-- MFCMP.LT (R122). -/
def decMfcmpLt (w : Nat) : Except LoadStatus Instr :=
  if bitField w 2 4 = 0 ∧ bitField w 22 1 = 0 then
      .ok (.mfcmpLt (bvField 2 w 20) (opndField w 13) (opndField w 6) (bvField 2 w 0))
  else .error .fieldReserved

/-- MFCMP.LE (R122). -/
def decMfcmpLe (w : Nat) : Except LoadStatus Instr :=
  if bitField w 2 4 = 0 ∧ bitField w 22 1 = 0 then
      .ok (.mfcmpLe (bvField 2 w 20) (opndField w 13) (opndField w 6) (bvField 2 w 0))
  else .error .fieldReserved

/-- MFCMP.UN (R122). -/
def decMfcmpUn (w : Nat) : Except LoadStatus Instr :=
  if bitField w 2 4 = 0 ∧ bitField w 22 1 = 0 then
      .ok (.mfcmpUn (bvField 2 w 20) (opndField w 13) (opndField w 6) (bvField 2 w 0))
  else .error .fieldReserved

/-- MLOG (R123). -/
def decMlog (w : Nat) : Except LoadStatus Instr :=
  if bitField w 0 2 = 0 ∧ bitField w 8 5 = 0 ∧ bitField w 15 5 = 0 ∧ bitField w 22 1 = 0 then
      .ok (.mlog (bvField 2 w 20) (bvField 2 w 13) (bvField 2 w 6) (bvField 4 w 2))
  else .error .fieldReserved

/-- MPOP (R124). -/
def decMpop (w : Nat) : Except LoadStatus Instr :=
  if bitField w 2 14 = 0 then .ok (.mpop (opndField w 16) (bvField 2 w 0))
  else .error .fieldReserved

/-- MFIRST (R124). -/
def decMfirst (w : Nat) : Except LoadStatus Instr :=
  if bitField w 2 14 = 0 then .ok (.mfirst (opndField w 16) (bvField 2 w 0))
  else .error .fieldReserved

/-- ADD (R125). -/
def decAdd (w : Nat) : Except LoadStatus Instr :=
  if bitField w 0 2 = 0 then .ok (.add (opndField w 16) (opndField w 9) (opndField w 2))
  else .error .fieldReserved

/-- SUB (R125). -/
def decSub (w : Nat) : Except LoadStatus Instr :=
  if bitField w 0 2 = 0 then .ok (.sub (opndField w 16) (opndField w 9) (opndField w 2))
  else .error .fieldReserved

/-- ADDI (R126). -/
def decAddi (w : Nat) : Except LoadStatus Instr :=
  .ok (.addi (opndField w 16) (opndField w 9) (bvField 9 w 0))

/-- MUL (R125). -/
def decMul (w : Nat) : Except LoadStatus Instr :=
  if bitField w 0 2 = 0 then .ok (.mul (opndField w 16) (opndField w 9) (opndField w 2))
  else .error .fieldReserved

/-- MULH (R125). -/
def decMulh (w : Nat) : Except LoadStatus Instr :=
  if bitField w 0 2 = 0 then .ok (.mulh (opndField w 16) (opndField w 9) (opndField w 2))
  else .error .fieldReserved

/-- MULHU (R125). -/
def decMulhu (w : Nat) : Except LoadStatus Instr :=
  if bitField w 0 2 = 0 then .ok (.mulhu (opndField w 16) (opndField w 9) (opndField w 2))
  else .error .fieldReserved

/-- DIV (R127). -/
def decDiv (w : Nat) : Except LoadStatus Instr :=
  if bitField w 0 2 = 0 then .ok (.div (opndField w 16) (opndField w 9) (opndField w 2))
  else .error .fieldReserved

/-- DIVU (R127). -/
def decDivu (w : Nat) : Except LoadStatus Instr :=
  if bitField w 0 2 = 0 then .ok (.divu (opndField w 16) (opndField w 9) (opndField w 2))
  else .error .fieldReserved

/-- REM (R127). -/
def decRem (w : Nat) : Except LoadStatus Instr :=
  if bitField w 0 2 = 0 then .ok (.rem (opndField w 16) (opndField w 9) (opndField w 2))
  else .error .fieldReserved

/-- REMU (R127). -/
def decRemu (w : Nat) : Except LoadStatus Instr :=
  if bitField w 0 2 = 0 then .ok (.remu (opndField w 16) (opndField w 9) (opndField w 2))
  else .error .fieldReserved

/-- AND (R125). -/
def decAnd (w : Nat) : Except LoadStatus Instr :=
  if bitField w 0 2 = 0 then .ok (.and (opndField w 16) (opndField w 9) (opndField w 2))
  else .error .fieldReserved

/-- OR (R125). -/
def decOr (w : Nat) : Except LoadStatus Instr :=
  if bitField w 0 2 = 0 then .ok (.or (opndField w 16) (opndField w 9) (opndField w 2))
  else .error .fieldReserved

/-- XOR (R125). -/
def decXor (w : Nat) : Except LoadStatus Instr :=
  if bitField w 0 2 = 0 then .ok (.xor (opndField w 16) (opndField w 9) (opndField w 2))
  else .error .fieldReserved

/-- SHL (R125). -/
def decShl (w : Nat) : Except LoadStatus Instr :=
  if bitField w 0 2 = 0 then .ok (.shl (opndField w 16) (opndField w 9) (opndField w 2))
  else .error .fieldReserved

/-- SHR (R125). -/
def decShr (w : Nat) : Except LoadStatus Instr :=
  if bitField w 0 2 = 0 then .ok (.shr (opndField w 16) (opndField w 9) (opndField w 2))
  else .error .fieldReserved

/-- SRA (R125). -/
def decSra (w : Nat) : Except LoadStatus Instr :=
  if bitField w 0 2 = 0 then .ok (.sra (opndField w 16) (opndField w 9) (opndField w 2))
  else .error .fieldReserved

/-- SHLI (R126). -/
def decShli (w : Nat) : Except LoadStatus Instr :=
  if bitField w 5 4 = 0 then .ok (.shli (opndField w 16) (opndField w 9) (bvField 5 w 0))
  else .error .fieldReserved

/-- SHRI (R126). -/
def decShri (w : Nat) : Except LoadStatus Instr :=
  if bitField w 5 4 = 0 then .ok (.shri (opndField w 16) (opndField w 9) (bvField 5 w 0))
  else .error .fieldReserved

/-- SRAI (R126). -/
def decSrai (w : Nat) : Except LoadStatus Instr :=
  if bitField w 5 4 = 0 then .ok (.srai (opndField w 16) (opndField w 9) (bvField 5 w 0))
  else .error .fieldReserved

/-- MIN (R125). -/
def decMin (w : Nat) : Except LoadStatus Instr :=
  if bitField w 0 2 = 0 then .ok (.min (opndField w 16) (opndField w 9) (opndField w 2))
  else .error .fieldReserved

/-- MAX (R125). -/
def decMax (w : Nat) : Except LoadStatus Instr :=
  if bitField w 0 2 = 0 then .ok (.max (opndField w 16) (opndField w 9) (opndField w 2))
  else .error .fieldReserved

/-- CLZ (R128). -/
def decClz (w : Nat) : Except LoadStatus Instr :=
  if bitField w 0 9 = 0 then .ok (.clz (opndField w 16) (opndField w 9))
  else .error .fieldReserved

/-- POPC (R128). -/
def decPopc (w : Nat) : Except LoadStatus Instr :=
  if bitField w 0 9 = 0 then .ok (.popc (opndField w 16) (opndField w 9))
  else .error .fieldReserved

/-- BREV (R128). -/
def decBrev (w : Nat) : Except LoadStatus Instr :=
  if bitField w 0 9 = 0 then .ok (.brev (opndField w 16) (opndField w 9))
  else .error .fieldReserved

/-- BFX (R129). -/
def decBfx (w : Nat) : Except LoadStatus Instr :=
  if bitField w 0 2 = 0 then .ok (.bfx (opndField w 16) (opndField w 9) (opndField w 2))
  else .error .fieldReserved

/-- BFXU (R129). -/
def decBfxu (w : Nat) : Except LoadStatus Instr :=
  if bitField w 0 2 = 0 then .ok (.bfxu (opndField w 16) (opndField w 9) (opndField w 2))
  else .error .fieldReserved

/-- BFI (R129). -/
def decBfi (w : Nat) : Except LoadStatus Instr :=
  if bitField w 0 2 = 0 then .ok (.bfi (opndField w 16) (opndField w 9) (opndField w 2))
  else .error .fieldReserved

/-- SEL (R130). -/
def decSel (w : Nat) : Except LoadStatus Instr :=
  if bitField w 0 2 = 0 then .ok (.sel (opndField w 16) (opndField w 9) (opndField w 2))
  else .error .fieldReserved

/-- MOV (R131). -/
def decMov (w : Nat) : Except LoadStatus Instr :=
  if bitField w 2 7 = 0 then .ok (.mov (opndField w 16) (opndField w 9) (bvField 2 w 0))
  else .error .fieldReserved

/-- LI (R132). -/
def decLi (w : Nat) : Except LoadStatus Instr :=
  .ok (.li (opndField w 16) (bvField 16 w 0))

/-- LIH (R132). -/
def decLih (w : Nat) : Except LoadStatus Instr :=
  .ok (.lih (opndField w 16) (bvField 16 w 0))

/-- AGEN (R133). -/
def decAgen (w : Nat) : Except LoadStatus Instr :=
  if bitField w 0 2 = 0 then .ok (.agen (opndField w 16) (opndField w 9) (opndField w 2))
  else .error .fieldReserved

/-- AGEN2 (R133). -/
def decAgen2 (w : Nat) : Except LoadStatus Instr :=
  if bitField w 0 2 = 0 then .ok (.agen2 (opndField w 16) (opndField w 9) (opndField w 2))
  else .error .fieldReserved

/-- VBCAST (R134). -/
def decVbcast (w : Nat) : Except LoadStatus Instr :=
  .ok (.vbcast (opndField w 16) (opndField w 9) (opndField w 2) (bvField 2 w 0))

/-- VEXT (R134). -/
def decVext (w : Nat) : Except LoadStatus Instr :=
  if bitField w 0 2 = 0 then .ok (.vext (opndField w 16) (opndField w 9) (opndField w 2))
  else .error .fieldReserved

/-- VINS (R134). -/
def decVins (w : Nat) : Except LoadStatus Instr :=
  if bitField w 0 2 = 0 then .ok (.vins (opndField w 16) (opndField w 9) (opndField w 2))
  else .error .fieldReserved

/-- VPERM (R135). -/
def decVperm (w : Nat) : Except LoadStatus Instr :=
  .ok (.vperm (opndField w 16) (opndField w 9) (opndField w 2) (bvField 2 w 0))

/-- VROTL (R135). -/
def decVrotl (w : Nat) : Except LoadStatus Instr :=
  .ok (.vrotl (opndField w 16) (opndField w 9) (opndField w 2) (bvField 2 w 0))

/-- VRED.ADD (R136). -/
def decVredAdd (w : Nat) : Except LoadStatus Instr :=
  if bitField w 2 7 = 0 then .ok (.vredAdd (opndField w 16) (opndField w 9) (bvField 2 w 0))
  else .error .fieldReserved

/-- VRED.MIN (R136). -/
def decVredMin (w : Nat) : Except LoadStatus Instr :=
  if bitField w 2 7 = 0 then .ok (.vredMin (opndField w 16) (opndField w 9) (bvField 2 w 0))
  else .error .fieldReserved

/-- VRED.MAX (R136). -/
def decVredMax (w : Nat) : Except LoadStatus Instr :=
  if bitField w 2 7 = 0 then .ok (.vredMax (opndField w 16) (opndField w 9) (bvField 2 w 0))
  else .error .fieldReserved

/-- VSCAN.ADD (R136). -/
def decVscanAdd (w : Nat) : Except LoadStatus Instr :=
  if bitField w 2 7 = 0 then .ok (.vscanAdd (opndField w 16) (opndField w 9) (bvField 2 w 0))
  else .error .fieldReserved

/-- TGET (R137). -/
def decTget (w : Nat) : Except LoadStatus Instr :=
  if bitField w 7 2 = 0 then .ok (.tget (opndField w 16) (opndField w 9) (bvField 2 w 5) (bvField 5 w 0))
  else .error .fieldReserved

/-- TSET (R137). -/
def decTset (w : Nat) : Except LoadStatus Instr :=
  if bitField w 4 5 = 0 then .ok (.tset (opndField w 16) (opndField w 9) (bvField 4 w 0))
  else .error .fieldReserved

/-- VADD (R138). -/
def decVadd (w : Nat) : Except LoadStatus Instr :=
  .ok (.vadd (opndField w 16) (opndField w 9) (opndField w 2) (bvField 2 w 0))

/-- VSUB (R138). -/
def decVsub (w : Nat) : Except LoadStatus Instr :=
  .ok (.vsub (opndField w 16) (opndField w 9) (opndField w 2) (bvField 2 w 0))

/-- VMUL (R138). -/
def decVmul (w : Nat) : Except LoadStatus Instr :=
  .ok (.vmul (opndField w 16) (opndField w 9) (opndField w 2) (bvField 2 w 0))

/-- VMULH (R138). -/
def decVmulh (w : Nat) : Except LoadStatus Instr :=
  .ok (.vmulh (opndField w 16) (opndField w 9) (opndField w 2) (bvField 2 w 0))

/-- VMAD (R139). -/
def decVmad (w : Nat) : Except LoadStatus Instr :=
  .ok (.vmad (opndField w 16) (opndField w 9) (opndField w 2) (bvField 2 w 0))

/-- VAND (R138). -/
def decVand (w : Nat) : Except LoadStatus Instr :=
  .ok (.vand (opndField w 16) (opndField w 9) (opndField w 2) (bvField 2 w 0))

/-- VOR (R138). -/
def decVor (w : Nat) : Except LoadStatus Instr :=
  .ok (.vor (opndField w 16) (opndField w 9) (opndField w 2) (bvField 2 w 0))

/-- VXOR (R138). -/
def decVxor (w : Nat) : Except LoadStatus Instr :=
  .ok (.vxor (opndField w 16) (opndField w 9) (opndField w 2) (bvField 2 w 0))

/-- VSHL (R138). -/
def decVshl (w : Nat) : Except LoadStatus Instr :=
  .ok (.vshl (opndField w 16) (opndField w 9) (opndField w 2) (bvField 2 w 0))

/-- VSHR (R138). -/
def decVshr (w : Nat) : Except LoadStatus Instr :=
  .ok (.vshr (opndField w 16) (opndField w 9) (opndField w 2) (bvField 2 w 0))

/-- VSRA (R138). -/
def decVsra (w : Nat) : Except LoadStatus Instr :=
  .ok (.vsra (opndField w 16) (opndField w 9) (opndField w 2) (bvField 2 w 0))

/-- VMIN (R138). -/
def decVmin (w : Nat) : Except LoadStatus Instr :=
  .ok (.vmin (opndField w 16) (opndField w 9) (opndField w 2) (bvField 2 w 0))

/-- VMAX (R138). -/
def decVmax (w : Nat) : Except LoadStatus Instr :=
  .ok (.vmax (opndField w 16) (opndField w 9) (opndField w 2) (bvField 2 w 0))

/-- VSEL (R140). -/
def decVsel (w : Nat) : Except LoadStatus Instr :=
  .ok (.vsel (opndField w 16) (opndField w 9) (opndField w 2) (bvField 2 w 0))

/-- VADDS (R141). -/
def decVadds (w : Nat) : Except LoadStatus Instr :=
  if bitField w 1 1 = 0 then .ok (.vadds (opndField w 16) (opndField w 9) (opndField w 2) (bvField 1 w 0))
  else .error .fieldReserved

/-- VSUBS (R141). -/
def decVsubs (w : Nat) : Except LoadStatus Instr :=
  if bitField w 1 1 = 0 then .ok (.vsubs (opndField w 16) (opndField w 9) (opndField w 2) (bvField 1 w 0))
  else .error .fieldReserved

/-- VPACK (R142). -/
def decVpack (w : Nat) : Except LoadStatus Instr :=
  if bitField w 1 1 = 0 then .ok (.vpack (opndField w 16) (opndField w 9) (opndField w 2) (bvField 1 w 0))
  else .error .fieldReserved

/-- VUNPK (R142). -/
def decVunpk (w : Nat) : Except LoadStatus Instr :=
  if bitField w 1 1 = 0 then .ok (.vunpk (opndField w 16) (opndField w 9) (opndField w 2) (bvField 1 w 0))
  else .error .fieldReserved

/-- VCLZ (R138). -/
def decVclz (w : Nat) : Except LoadStatus Instr :=
  if bitField w 2 7 = 0 then .ok (.vclz (opndField w 16) (opndField w 9) (bvField 2 w 0))
  else .error .fieldReserved

/-- VPOPC (R138). -/
def decVpopc (w : Nat) : Except LoadStatus Instr :=
  if bitField w 2 7 = 0 then .ok (.vpopc (opndField w 16) (opndField w 9) (bvField 2 w 0))
  else .error .fieldReserved

/-- VFADD (R148). -/
def decVfadd (w : Nat) : Except LoadStatus Instr :=
  .ok (.vfadd (opndField w 16) (opndField w 9) (opndField w 2) (bvField 2 w 0))

/-- VFSUB (R148). -/
def decVfsub (w : Nat) : Except LoadStatus Instr :=
  .ok (.vfsub (opndField w 16) (opndField w 9) (opndField w 2) (bvField 2 w 0))

/-- VFMUL (R148). -/
def decVfmul (w : Nat) : Except LoadStatus Instr :=
  .ok (.vfmul (opndField w 16) (opndField w 9) (opndField w 2) (bvField 2 w 0))

/-- VFMA (R148). -/
def decVfma (w : Nat) : Except LoadStatus Instr :=
  .ok (.vfma (opndField w 16) (opndField w 9) (opndField w 2) (bvField 2 w 0))

/-- VFMIN (R149). -/
def decVfmin (w : Nat) : Except LoadStatus Instr :=
  .ok (.vfmin (opndField w 16) (opndField w 9) (opndField w 2) (bvField 2 w 0))

/-- VFMAX (R149). -/
def decVfmax (w : Nat) : Except LoadStatus Instr :=
  .ok (.vfmax (opndField w 16) (opndField w 9) (opndField w 2) (bvField 2 w 0))

/-- VFABS (R149). -/
def decVfabs (w : Nat) : Except LoadStatus Instr :=
  if bitField w 2 7 = 0 then .ok (.vfabs (opndField w 16) (opndField w 9) (bvField 2 w 0))
  else .error .fieldReserved

/-- VFNEG (R148). -/
def decVfneg (w : Nat) : Except LoadStatus Instr :=
  if bitField w 2 7 = 0 then .ok (.vfneg (opndField w 16) (opndField w 9) (bvField 2 w 0))
  else .error .fieldReserved

/-- VFRCP (R151). -/
def decVfrcp (w : Nat) : Except LoadStatus Instr :=
  if bitField w 2 7 = 0 then .ok (.vfrcp (opndField w 16) (opndField w 9) (bvField 2 w 0))
  else .error .fieldReserved

/-- VFRSQ (R151). -/
def decVfrsq (w : Nat) : Except LoadStatus Instr :=
  if bitField w 2 7 = 0 then .ok (.vfrsq (opndField w 16) (opndField w 9) (bvField 2 w 0))
  else .error .fieldReserved

/-- VFSQRT (R151). -/
def decVfsqrt (w : Nat) : Except LoadStatus Instr :=
  if bitField w 2 7 = 0 then .ok (.vfsqrt (opndField w 16) (opndField w 9) (bvField 2 w 0))
  else .error .fieldReserved

/-- VFDIV (R151). -/
def decVfdiv (w : Nat) : Except LoadStatus Instr :=
  .ok (.vfdiv (opndField w 16) (opndField w 9) (opndField w 2) (bvField 2 w 0))

/-- VFEXP2 (R152). -/
def decVfexp2 (w : Nat) : Except LoadStatus Instr :=
  if bitField w 2 7 = 0 then .ok (.vfexp2 (opndField w 16) (opndField w 9) (bvField 2 w 0))
  else .error .fieldReserved

/-- VFLOG2 (R152). -/
def decVflog2 (w : Nat) : Except LoadStatus Instr :=
  if bitField w 2 7 = 0 then .ok (.vflog2 (opndField w 16) (opndField w 9) (bvField 2 w 0))
  else .error .fieldReserved

/-- VFSIN (R152). -/
def decVfsin (w : Nat) : Except LoadStatus Instr :=
  if bitField w 2 7 = 0 then .ok (.vfsin (opndField w 16) (opndField w 9) (bvField 2 w 0))
  else .error .fieldReserved

/-- VFTANH (R152). -/
def decVftanh (w : Nat) : Except LoadStatus Instr :=
  if bitField w 2 7 = 0 then .ok (.vftanh (opndField w 16) (opndField w 9) (bvField 2 w 0))
  else .error .fieldReserved

/-- VFSIG (R152). -/
def decVfsig (w : Nat) : Except LoadStatus Instr :=
  if bitField w 2 7 = 0 then .ok (.vfsig (opndField w 16) (opndField w 9) (bvField 2 w 0))
  else .error .fieldReserved

/-- VFRND (R150). -/
def decVfrnd (w : Nat) : Except LoadStatus Instr :=
  .ok (.vfrnd (opndField w 16) (opndField w 9) (opndField w 2) (bvField 2 w 0))

/-- VFCLMP (R149). -/
def decVfclmp (w : Nat) : Except LoadStatus Instr :=
  .ok (.vfclmp (opndField w 16) (opndField w 9) (opndField w 2) (bvField 2 w 0))

/-- VFLRP (R153). -/
def decVflrp (w : Nat) : Except LoadStatus Instr :=
  .ok (.vflrp (opndField w 16) (opndField w 9) (opndField w 2) (bvField 2 w 0))

/-- VHMUL (R154). -/
def decVhmul (w : Nat) : Except LoadStatus Instr :=
  .ok (.vhmul (opndField w 16) (opndField w 9) (opndField w 2) (bvField 2 w 0))

/-- VHFMA (R154). -/
def decVhfma (w : Nat) : Except LoadStatus Instr :=
  .ok (.vhfma (opndField w 16) (opndField w 9) (opndField w 2) (bvField 2 w 0))

/-- VBFMA (R155). -/
def decVbfma (w : Nat) : Except LoadStatus Instr :=
  .ok (.vbfma (opndField w 16) (opndField w 9) (opndField w 2) (bvField 2 w 0))

/-- FADD (R156). -/
def decFadd (w : Nat) : Except LoadStatus Instr :=
  if bitField w 0 2 = 0 then .ok (.fadd (opndField w 16) (opndField w 9) (opndField w 2))
  else .error .fieldReserved

/-- FMUL (R156). -/
def decFmul (w : Nat) : Except LoadStatus Instr :=
  if bitField w 0 2 = 0 then .ok (.fmul (opndField w 16) (opndField w 9) (opndField w 2))
  else .error .fieldReserved

/-- FFMA (R156). -/
def decFfma (w : Nat) : Except LoadStatus Instr :=
  if bitField w 0 2 = 0 then .ok (.ffma (opndField w 16) (opndField w 9) (opndField w 2))
  else .error .fieldReserved

/-- CVT.F2I (R158). -/
def decCvtF2i (w : Nat) : Except LoadStatus Instr :=
  if bitField w 2 7 = 0 then .ok (.cvtF2i (opndField w 16) (opndField w 9) (bvField 2 w 0))
  else .error .fieldReserved

/-- CVT.I2F (R158). -/
def decCvtI2f (w : Nat) : Except LoadStatus Instr :=
  if bitField w 2 7 = 0 then .ok (.cvtI2f (opndField w 16) (opndField w 9) (bvField 2 w 0))
  else .error .fieldReserved

/-- CVT.F2H (R158). -/
def decCvtF2h (w : Nat) : Except LoadStatus Instr :=
  .ok (.cvtF2h (opndField w 16) (opndField w 9) (opndField w 2) (bvField 2 w 0))

/-- CVT.H2F (R158). -/
def decCvtH2f (w : Nat) : Except LoadStatus Instr :=
  .ok (.cvtH2f (opndField w 16) (opndField w 9) (opndField w 2) (bvField 2 w 0))

/-- CVT.F2B (R158). -/
def decCvtF2b (w : Nat) : Except LoadStatus Instr :=
  .ok (.cvtF2b (opndField w 16) (opndField w 9) (opndField w 2) (bvField 2 w 0))

/-- CVT.B2F (R158). -/
def decCvtB2f (w : Nat) : Except LoadStatus Instr :=
  .ok (.cvtB2f (opndField w 16) (opndField w 9) (opndField w 2) (bvField 2 w 0))

/-- CVT.F2Q (R159). -/
def decCvtF2q (w : Nat) : Except LoadStatus Instr :=
  if bitField w 0 2 = 0 then .ok (.cvtF2q (opndField w 16) (opndField w 9) (opndField w 2))
  else .error .fieldReserved

/-- CVT.Q2F (R159). -/
def decCvtQ2f (w : Nat) : Except LoadStatus Instr :=
  if bitField w 0 2 = 0 then .ok (.cvtQ2f (opndField w 16) (opndField w 9) (opndField w 2))
  else .error .fieldReserved

/-- HFWD (R161). -/
def decHfwd (w : Nat) : Except LoadStatus Instr :=
  if bitField w 0 2 = 0 then .ok (.hfwd (opndField w 16) (opndField w 9) (opndField w 2))
  else .error .fieldReserved

/-- HINV (R161). -/
def decHinv (w : Nat) : Except LoadStatus Instr :=
  if bitField w 0 9 = 0 then .ok (.hinv (opndField w 16) (opndField w 9))
  else .error .fieldReserved

/-- HTHR (R162). -/
def decHthr (w : Nat) : Except LoadStatus Instr :=
  if bitField w 0 2 = 0 then .ok (.hthr (opndField w 16) (opndField w 9) (opndField w 2))
  else .error .fieldReserved

/-- HPACK (R163). -/
def decHpack (w : Nat) : Except LoadStatus Instr :=
  if bitField w 0 2 = 0 then .ok (.hpack (opndField w 16) (opndField w 9) (opndField w 2))
  else .error .fieldReserved

/-- HUNPK (R163). -/
def decHunpk (w : Nat) : Except LoadStatus Instr :=
  if bitField w 0 2 = 0 then .ok (.hunpk (opndField w 16) (opndField w 9) (opndField w 2))
  else .error .fieldReserved

/-- HTAG (R163). -/
def decHtag (w : Nat) : Except LoadStatus Instr :=
  if bitField w 0 2 = 0 then .ok (.htag (opndField w 16) (opndField w 9) (opndField w 2))
  else .error .fieldReserved

/-- HQRY (R163). -/
def decHqry (w : Nat) : Except LoadStatus Instr :=
  if bitField w 0 9 = 0 then .ok (.hqry (opndField w 16) (opndField w 9))
  else .error .fieldReserved

/-- HSETT (R164). -/
def decHsett (w : Nat) : Except LoadStatus Instr :=
  if bitField w 0 2 = 0 then .ok (.hsett (opndField w 16) (opndField w 9) (opndField w 2))
  else .error .fieldReserved

/-- LDB (R230). -/
def decLdb (w : Nat) : Except LoadStatus Instr :=
  .ok (.ldb (opndField w 16) (opndField w 9) (bvField 9 w 0))

/-- LDBU (R230). -/
def decLdbu (w : Nat) : Except LoadStatus Instr :=
  .ok (.ldbu (opndField w 16) (opndField w 9) (bvField 9 w 0))

/-- LDH (R230). -/
def decLdh (w : Nat) : Except LoadStatus Instr :=
  .ok (.ldh (opndField w 16) (opndField w 9) (bvField 9 w 0))

/-- LDHU (R230). -/
def decLdhu (w : Nat) : Except LoadStatus Instr :=
  .ok (.ldhu (opndField w 16) (opndField w 9) (bvField 9 w 0))

/-- LDW (R230). -/
def decLdw (w : Nat) : Except LoadStatus Instr :=
  .ok (.ldw (opndField w 16) (opndField w 9) (bvField 9 w 0))

/-- STB (R230). -/
def decStb (w : Nat) : Except LoadStatus Instr :=
  .ok (.stb (opndField w 16) (opndField w 9) (bvField 9 w 0))

/-- STH (R230). -/
def decSth (w : Nat) : Except LoadStatus Instr :=
  .ok (.sth (opndField w 16) (opndField w 9) (bvField 9 w 0))

/-- STW (R230). -/
def decStw (w : Nat) : Except LoadStatus Instr :=
  .ok (.stw (opndField w 16) (opndField w 9) (bvField 9 w 0))

/-- LDV (R231). -/
def decLdv (w : Nat) : Except LoadStatus Instr :=
  .ok (.ldv (opndField w 16) (opndField w 9) (bvField 2 w 7) (bvField 7 w 0))

/-- LDVS (R232). -/
def decLdvs (w : Nat) : Except LoadStatus Instr :=
  .ok (.ldvs (opndField w 16) (opndField w 9) (opndField w 2) (bvField 2 w 0))

/-- LDVG (R232). -/
def decLdvg (w : Nat) : Except LoadStatus Instr :=
  .ok (.ldvg (opndField w 16) (opndField w 9) (opndField w 2) (bvField 2 w 0))

/-- LDVB (R231). -/
def decLdvb (w : Nat) : Except LoadStatus Instr :=
  .ok (.ldvb (opndField w 16) (opndField w 9) (bvField 2 w 7) (bvField 7 w 0))

/-- STV (R231). -/
def decStv (w : Nat) : Except LoadStatus Instr :=
  .ok (.stv (opndField w 16) (opndField w 9) (bvField 2 w 7) (bvField 7 w 0))

/-- STVS (R232). -/
def decStvs (w : Nat) : Except LoadStatus Instr :=
  .ok (.stvs (opndField w 16) (opndField w 9) (opndField w 2) (bvField 2 w 0))

/-- STVX (R232). -/
def decStvx (w : Nat) : Except LoadStatus Instr :=
  .ok (.stvx (opndField w 16) (opndField w 9) (opndField w 2) (bvField 2 w 0))

/-- AADD (R235). -/
def decAadd (w : Nat) : Except LoadStatus Instr :=
  if bitField w 0 2 = 0 then .ok (.aadd (opndField w 16) (opndField w 9) (opndField w 2))
  else .error .fieldReserved

/-- AMIN (R235). -/
def decAmin (w : Nat) : Except LoadStatus Instr :=
  if bitField w 0 2 = 0 then .ok (.amin (opndField w 16) (opndField w 9) (opndField w 2))
  else .error .fieldReserved

/-- AMAX (R235). -/
def decAmax (w : Nat) : Except LoadStatus Instr :=
  if bitField w 0 2 = 0 then .ok (.amax (opndField w 16) (opndField w 9) (opndField w 2))
  else .error .fieldReserved

/-- AAND (R235). -/
def decAand (w : Nat) : Except LoadStatus Instr :=
  if bitField w 0 2 = 0 then .ok (.aand (opndField w 16) (opndField w 9) (opndField w 2))
  else .error .fieldReserved

/-- AOR (R235). -/
def decAor (w : Nat) : Except LoadStatus Instr :=
  if bitField w 0 2 = 0 then .ok (.aor (opndField w 16) (opndField w 9) (opndField w 2))
  else .error .fieldReserved

/-- AXOR (R235). -/
def decAxor (w : Nat) : Except LoadStatus Instr :=
  if bitField w 0 2 = 0 then .ok (.axor (opndField w 16) (opndField w 9) (opndField w 2))
  else .error .fieldReserved

/-- AXCH (R235). -/
def decAxch (w : Nat) : Except LoadStatus Instr :=
  if bitField w 0 2 = 0 then .ok (.axch (opndField w 16) (opndField w 9) (opndField w 2))
  else .error .fieldReserved

/-- ACAS (R235). -/
def decAcas (w : Nat) : Except LoadStatus Instr :=
  if bitField w 0 2 = 0 then .ok (.acas (opndField w 16) (opndField w 9) (opndField w 2))
  else .error .fieldReserved

/-- AFADD (R235). -/
def decAfadd (w : Nat) : Except LoadStatus Instr :=
  if bitField w 0 2 = 0 then .ok (.afadd (opndField w 16) (opndField w 9) (opndField w 2))
  else .error .fieldReserved

/-- AINCW (R235). -/
def decAincw (w : Nat) : Except LoadStatus Instr :=
  if bitField w 0 2 = 0 then .ok (.aincw (opndField w 16) (opndField w 9) (opndField w 2))
  else .error .fieldReserved

/-- HLD (R239). -/
def decHld (w : Nat) : Except LoadStatus Instr :=
  if bitField w 0 2 = 0 then .ok (.hld (opndField w 16) (opndField w 9) (opndField w 2))
  else .error .fieldReserved

/-- HST (R238). -/
def decHst (w : Nat) : Except LoadStatus Instr :=
  if bitField w 0 2 = 0 then .ok (.hst (opndField w 16) (opndField w 9) (opndField w 2))
  else .error .fieldReserved

/-- FLD (R234). -/
def decFld (w : Nat) : Except LoadStatus Instr :=
  if bitField w 8 8 = 116 then .ok (.fld (opndField w 16) (bvField 8 w 0))
  else .error .fieldReserved

/-- FST (R234). -/
def decFst (w : Nat) : Except LoadStatus Instr :=
  if bitField w 8 8 = 116 then .ok (.fst (opndField w 16) (bvField 8 w 0))
  else .error .fieldReserved

/-- LDNC (R233). -/
def decLdnc (w : Nat) : Except LoadStatus Instr :=
  .ok (.ldnc (opndField w 16) (opndField w 9) (bvField 9 w 0))

/-- STNC (R233). -/
def decStnc (w : Nat) : Except LoadStatus Instr :=
  .ok (.stnc (opndField w 16) (opndField w 9) (bvField 9 w 0))

/-- DRAIN (R246). -/
def decDrain (w : Nat) : Except LoadStatus Instr :=
  if bitField w 0 16 = 0 then .ok (.drain (opndField w 16))
  else .error .fieldReserved

/-- CHKB (R248). -/
def decChkb (w : Nat) : Except LoadStatus Instr :=
  if bitField w 0 2 = 0 ∧ bitField w 19 4 = 0 then .ok (.chkb (bvField 3 w 16) (opndField w 9) (opndField w 2))
  else .error .fieldReserved

/-- SLCLM (R250). -/
def decSlclm (w : Nat) : Except LoadStatus Instr :=
  if bitField w 0 2 = 0 ∧ bitField w 16 7 = 0 then .ok (.slclm (opndField w 9) (opndField w 2))
  else .error .fieldReserved

/-- SLREL (R250). -/
def decSlrel (w : Nat) : Except LoadStatus Instr :=
  if bitField w 0 2 = 0 ∧ bitField w 16 7 = 0 then .ok (.slrel (opndField w 9) (opndField w 2))
  else .error .fieldReserved

/-- SLTST (R250). -/
def decSltst (w : Nat) : Except LoadStatus Instr :=
  if bitField w 0 2 = 0 ∧ bitField w 19 4 = 0 then .ok (.sltst (bvField 3 w 16) (opndField w 9) (opndField w 2))
  else .error .fieldReserved

/-- MSHP (R171). -/
def decMshp (w : Nat) : Except LoadStatus Instr :=
  if bitField w 10 5 = 0 ∧ bitField w 18 1 = 0 then
      .ok (.mshp (bvField 4 w 19) (bvField 3 w 15) (bvField 3 w 7) (bvField 4 w 3) (bvField 3 w 0))
  else .error .fieldReserved

/-- TLD (R171). -/
def decTld (w : Nat) : Except LoadStatus Instr :=
  if bitField w 2 17 = 0 then .ok (.tld (bvField 4 w 19) (bvField 2 w 0))
  else .error .fieldReserved

/-- TST: bit 2 of the flags tells the tile form from the accumulator form (R172). -/
def decTst (w : Nat) : Except LoadStatus Instr :=
  if bitField w 2 1 = 0 then
    (if bitField w 2 17 = 0 then .ok (.tstTile (bvField 4 w 19) (bvField 2 w 0)) else .error .fieldReserved)
  else if bitField w 2 1 = 1 ∧ bitField w 6 6 = 0 ∧ bitField w 15 8 = 0 then
      .ok (.tstAcc (bvField 3 w 12) (bvField 3 w 3) (bvField 2 w 0))
  else .error .fieldReserved

/-- TZERO (R171). -/
def decTzero (w : Nat) : Except LoadStatus Instr :=
  if bitField w 0 19 = 0 then .ok (.tzero (bvField 4 w 19))
  else .error .fieldReserved

/-- TTR (R173). -/
def decTtr (w : Nat) : Except LoadStatus Instr :=
  if bitField w 4 11 = 0 then .ok (.ttr (bvField 4 w 19) (bvField 4 w 15) (bvField 2 w 2) (bvField 2 w 0))
  else .error .fieldReserved

/-- MSKR (R171). -/
def decMskr (w : Nat) : Except LoadStatus Instr :=
  if bitField w 2 13 = 0 then .ok (.mskr (bvField 4 w 19) (bvField 4 w 15) (bvField 2 w 0))
  else .error .fieldReserved

/-- MMQ2 (R175). -/
def decMmq2 (w : Nat) : Except LoadStatus Instr :=
  if bitField w 0 12 = 0 then .ok (.mmq2 (bvField 4 w 19) (bvField 4 w 15) (bvField 3 w 12))
  else .error .fieldReserved

/-- MMQ4 (R175). -/
def decMmq4 (w : Nat) : Except LoadStatus Instr :=
  if bitField w 0 12 = 0 then .ok (.mmq4 (bvField 4 w 19) (bvField 4 w 15) (bvField 3 w 12))
  else .error .fieldReserved

/-- MMQ7 (R175). -/
def decMmq7 (w : Nat) : Except LoadStatus Instr :=
  if bitField w 0 12 = 0 then .ok (.mmq7 (bvField 4 w 19) (bvField 4 w 15) (bvField 3 w 12))
  else .error .fieldReserved

/-- MMI8 (R176). -/
def decMmi8 (w : Nat) : Except LoadStatus Instr :=
  if bitField w 0 12 = 0 then .ok (.mmi8 (bvField 4 w 19) (bvField 4 w 15) (bvField 3 w 12))
  else .error .fieldReserved

/-- MMH (R177). -/
def decMmh (w : Nat) : Except LoadStatus Instr :=
  if bitField w 0 12 = 0 then .ok (.mmh (bvField 4 w 19) (bvField 4 w 15) (bvField 3 w 12))
  else .error .fieldReserved

/-- MMB (R177). -/
def decMmb (w : Nat) : Except LoadStatus Instr :=
  if bitField w 0 12 = 0 then .ok (.mmb (bvField 4 w 19) (bvField 4 w 15) (bvField 3 w 12))
  else .error .fieldReserved

/-- SCA (R179). -/
def decSca (w : Nat) : Except LoadStatus Instr :=
  if bitField w 0 12 = 0 then .ok (.sca (bvField 4 w 19) (bvField 4 w 15) (bvField 3 w 12))
  else .error .fieldReserved

/-- SCAI (R180). -/
def decScai (w : Nat) : Except LoadStatus Instr :=
  if bitField w 8 4 = 0 then
      .ok (.scai (bvField 4 w 19) (bvField 4 w 15) (bvField 3 w 12) (bvField 4 w 4) (bvField 4 w 0))
  else .error .fieldReserved

/-- ACLR (R182). -/
def decAclr (w : Nat) : Except LoadStatus Instr :=
  if bitField w 1 11 = 0 ∧ bitField w 15 8 = 0 then .ok (.aclr (bvField 3 w 12) (bvField 1 w 0))
  else .error .fieldReserved

/-- AJOIN (R182). -/
def decAjoin (w : Nat) : Except LoadStatus Instr :=
  if bitField w 2 10 = 0 ∧ bitField w 15 8 = 0 then .ok (.ajoin (bvField 3 w 12) (bvField 2 w 0))
  else .error .fieldReserved

/-- ACPY (R182). -/
def decAcpy (w : Nat) : Except LoadStatus Instr :=
  if bitField w 2 10 = 0 ∧ bitField w 15 8 = 0 then .ok (.acpy (bvField 3 w 12) (bvField 2 w 0))
  else .error .fieldReserved

/-- AOUT (R183). -/
def decAout (w : Nat) : Except LoadStatus Instr :=
  if bitField w 2 10 = 0 ∧ bitField w 15 4 = 0 then
      .ok (.aout (bvField 4 w 19) (bvField 3 w 12) (bvField 1 w 1) (bvField 1 w 0))
  else .error .fieldReserved

/-- AIN (R182). -/
def decAin (w : Nat) : Except LoadStatus Instr :=
  if bitField w 2 10 = 0 ∧ bitField w 15 8 = 0 then .ok (.ain (bvField 3 w 12) (bvField 2 w 0))
  else .error .fieldReserved

/-- ARD (R184). -/
def decArd (w : Nat) : Except LoadStatus Instr :=
  if bitField w 8 4 = 0 ∧ bitField w 15 8 = 0 then
      .ok (.ard (bvField 3 w 12) (bvField 1 w 7) (bvField 2 w 5) (bvField 1 w 4) (bvField 4 w 0))
  else .error .fieldReserved

/-- SRTCFG (R186). -/
def decSrtcfg (w : Nat) : Except LoadStatus Instr :=
  if bitField w 11 12 = 0 then .ok (.srtcfg (bvField 8 w 3) (bvField 1 w 2) (bvField 2 w 0))
  else .error .fieldReserved

/-- SRTK (R186). -/
def decSrtk (w : Nat) : Except LoadStatus Instr :=
  if bitField w 0 19 = 0 then .ok (.srtk (bvField 4 w 19))
  else .error .fieldReserved

/-- SRTF (R186). -/
def decSrtf (w : Nat) : Except LoadStatus Instr :=
  if bitField w 9 14 = 0 then .ok (.srtf (bvField 1 w 8) (bvField 4 w 4) (bvField 2 w 2) (bvField 2 w 0))
  else .error .fieldReserved

/-- TFEAT (R187). -/
def decTfeat (w : Nat) : Except LoadStatus Instr :=
  if bitField w 1 18 = 0 then .ok (.tfeat (bvField 4 w 19) (bvField 1 w 0))
  else .error .fieldReserved

/-- SEND (R289). -/
def decSend (w : Nat) : Except LoadStatus Instr :=
  .ok (.send (bvField 2 w 21) (opndField w 14) (bvField 3 w 11) (bvField 8 w 3) (bvField 3 w 0))

/-- SENDE (R289). -/
def decSende (w : Nat) : Except LoadStatus Instr :=
  if bitField w 14 7 = 56 then .ok (.sende (bvField 2 w 21) (bvField 3 w 11) (bvField 8 w 3) (bvField 3 w 0))
  else .error .fieldReserved

/-- SENDM (R289). -/
def decSendm (w : Nat) : Except LoadStatus Instr :=
  .ok (.sendm (bvField 2 w 21) (opndField w 14) (bvField 3 w 11) (bvField 8 w 3) (bvField 3 w 0))

/-- STEER (R289). -/
def decSteer (w : Nat) : Except LoadStatus Instr :=
  .ok (.steer (bvField 2 w 21) (opndField w 14) (bvField 3 w 11) (bvField 8 w 3) (bvField 3 w 0))

/-- MERGE (R289). -/
def decMerge (w : Nat) : Except LoadStatus Instr :=
  if bitField w 16 5 = 12 then
      .ok (.merge (bvField 2 w 21) (bvField 2 w 14) (bvField 3 w 11) (bvField 8 w 3) (bvField 3 w 0))
  else if tokFields (bvField 3 w 11) (bvField 8 w 3) && decide (bitField w 0 3 < 5) then .error .operandInvalid
  else .error .fieldReserved

/-- LOOPC (R290). -/
def decLoopc (w : Nat) : Except LoadStatus Instr :=
  .ok (.loopc (bvField 2 w 21) (opndField w 14) (bvField 3 w 11) (bvField 8 w 3) (bvField 3 w 0))

/-- TAGN (R291). -/
def decTagn (w : Nat) : Except LoadStatus Instr :=
  if bitField w 0 9 = 0 ∧ bitField w 11 5 = 0 then .ok (.tagn (opndField w 16) (bvField 2 w 9))
  else .error .fieldReserved

/-- FALLOC (R291). -/
def decFalloc (w : Nat) : Except LoadStatus Instr :=
  if bitField w 0 2 = 0 ∧ bitField w 11 5 = 0 then .ok (.falloc (opndField w 16) (bvField 2 w 9) (opndField w 2))
  else .error .fieldReserved

/-- FFREE (R292). -/
def decFfree (w : Nat) : Except LoadStatus Instr :=
  if bitField w 0 9 = 0 then .ok (.ffree (opndField w 16) (opndField w 9))
  else .error .fieldReserved

/-- TSPAWN (R294). -/
def decTspawn (w : Nat) : Except LoadStatus Instr :=
  if bitField w 0 2 = 0 ∧ bitField w 19 4 = 0 then .ok (.tspawn (bvField 3 w 16) (opndField w 9) (opndField w 2))
  else .error .fieldReserved

/-- TDEC (R356). -/
def decTdec (w : Nat) : Except LoadStatus Instr :=
  if bitField w 0 2 = 0 ∧ bitField w 16 7 = 0 then .ok (.tdec (opndField w 9) (opndField w 2))
  else .error .fieldReserved

/-- EVSET (R356). -/
def decEvset (w : Nat) : Except LoadStatus Instr :=
  if bitField w 0 2 = 0 then .ok (.evset (opndField w 16) (opndField w 9) (opndField w 2))
  else .error .fieldReserved

/-- EVCLR (R356). -/
def decEvclr (w : Nat) : Except LoadStatus Instr :=
  if bitField w 0 2 = 0 then .ok (.evclr (opndField w 16) (opndField w 9) (opndField w 2))
  else .error .fieldReserved

/-- PERMIT (R295). -/
def decPermit (w : Nat) : Except LoadStatus Instr :=
  if bitField w 0 2 = 0 ∧ bitField w 16 7 = 0 then .ok (.permit (opndField w 9) (opndField w 2))
  else .error .fieldReserved

/-- RAYS (R297). -/
def decRays (w : Nat) : Except LoadStatus Instr :=
  if ¬(bitField w 0 2 = 0) then .error .fieldReserved
  else if bitField w 18 5 = 13 then .ok (.rays (bvField 2 w 16) (opndField w 9) (opndField w 2))
  else .error .operandInvalid

/-- FGLK (R302). -/
def decFglk (w : Nat) : Except LoadStatus Instr :=
  if ¬(bitField w 0 2 = 0) then .error .fieldReserved
  else if bitField w 18 5 = 13 then .ok (.fglk (bvField 2 w 16) (opndField w 9) (opndField w 2))
  else .error .operandInvalid

/-- BLND (R256). -/
def decBlnd (w : Nat) : Except LoadStatus Instr :=
  .ok (.blnd (opndField w 16) (opndField w 9) (opndField w 2) (bvField 2 w 0))

/-- ZTST (R255). -/
def decZtst (w : Nat) : Except LoadStatus Instr :=
  .ok (.ztst (opndField w 16) (opndField w 9) (opndField w 2) (bvField 2 w 0))

/-- BINAPP (R258). -/
def decBinapp (w : Nat) : Except LoadStatus Instr :=
  if bitField w 0 2 = 0 then .ok (.binapp (opndField w 16) (opndField w 9) (opndField w 2))
  else .error .fieldReserved

/-- EDGE (R165). -/
def decEdge (w : Nat) : Except LoadStatus Instr :=
  if bitField w 16 1 = 0 ∧ bitField w 20 3 = 2 then
      .ok (.edge (bvField 3 w 17) (opndField w 9) (opndField w 2) (bvField 2 w 0))
  else if bitField w 0 2 = 0 then .error .fieldReserved
  else .error .operandInvalid

/-- ATTR (R166). -/
def decAttr (w : Nat) : Except LoadStatus Instr :=
  if bitField w 9 1 = 0 ∧ bitField w 13 3 = 2 then
      .ok (.attr (opndField w 16) (bvField 3 w 10) (opndField w 2) (bvField 2 w 0))
  else .error .operandInvalid

/-- OCCQ (R360). -/
def decOccq (w : Nat) : Except LoadStatus Instr :=
  if bitField w 0 2 = 0 then .ok (.occq (opndField w 16) (opndField w 9) (opndField w 2))
  else .error .fieldReserved

/-- SEQN (R361). -/
def decSeqn (w : Nat) : Except LoadStatus Instr :=
  if bitField w 0 9 = 0 then .ok (.seqn (opndField w 16) (opndField w 9))
  else .error .fieldReserved

/-- ISCFG (R296). -/
def decIscfg (w : Nat) : Except LoadStatus Instr :=
  if bitField w 0 2 = 0 ∧ bitField w 16 7 = 0 then .ok (.iscfg (opndField w 9) (opndField w 2))
  else .error .fieldReserved

/-- TRAP (R329). -/
def decTrap (w : Nat) : Except LoadStatus Instr :=
  if bitField w 0 9 = 0 ∧ bitField w 16 7 = 0 then .ok (.trap (opndField w 9))
  else .error .fieldReserved

/-- TRET (R330). -/
def decTret (w : Nat) : Except LoadStatus Instr :=
  if bitField w 0 9 = 0 ∧ bitField w 16 7 = 0 then .ok (.tret (opndField w 9))
  else .error .fieldReserved

/-- CSRR (R331). -/
def decCsrr (w : Nat) : Except LoadStatus Instr :=
  if bitField w 12 4 = 0 then .ok (.csrr (opndField w 16) (bvField 12 w 0))
  else .error .fieldReserved

/-- CSRW (R331). -/
def decCsrw (w : Nat) : Except LoadStatus Instr :=
  if bitField w 12 4 = 0 then .ok (.csrw (opndField w 16) (bvField 12 w 0))
  else .error .fieldReserved

/-- EMRD (R362). -/
def decEmrd (w : Nat) : Except LoadStatus Instr :=
  if bitField w 0 2 = 0 then .ok (.emrd (opndField w 16) (opndField w 9) (opndField w 2))
  else .error .fieldReserved

/-- EQT (R363). -/
def decEqt (w : Nat) : Except LoadStatus Instr :=
  if bitField w 0 2 = 0 ∧ bitField w 19 4 = 0 then .ok (.eqt (bvField 3 w 16) (opndField w 9) (opndField w 2))
  else .error .fieldReserved

/-- C.BR (R64). -/
def decCBr (w : Nat) : Except LoadStatus Instr :=
  .ok (.cBr (bvField 3 w 7) (bvField 1 w 6) (bvField 6 w 0))

/-- C.LOOPI (R64). -/
def decCLoopi (w : Nat) : Except LoadStatus Instr :=
  .ok (.cLoopi (bvField 5 w 5) (bvField 5 w 0))

/-- C.MOV (R64). -/
def decCMov (w : Nat) : Except LoadStatus Instr :=
  .ok (.cMov (bvField 5 w 5) (bvField 5 w 0))

/-- C.LI (R64). -/
def decCLi (w : Nat) : Except LoadStatus Instr :=
  .ok (.cLi (bvField 5 w 5) (bvField 5 w 0))

/-- C.ADD (R64). -/
def decCAdd (w : Nat) : Except LoadStatus Instr :=
  .ok (.cAdd (bvField 5 w 5) (bvField 5 w 0))

/-- C.SUB (R64). -/
def decCSub (w : Nat) : Except LoadStatus Instr :=
  .ok (.cSub (bvField 5 w 5) (bvField 5 w 0))

/-- C.ADDI (R64). -/
def decCAddi (w : Nat) : Except LoadStatus Instr :=
  .ok (.cAddi (bvField 5 w 5) (bvField 5 w 0))

/-- C.AND (R64). -/
def decCAnd (w : Nat) : Except LoadStatus Instr :=
  .ok (.cAnd (bvField 5 w 5) (bvField 5 w 0))

/-- C.OR (R64). -/
def decCOr (w : Nat) : Except LoadStatus Instr :=
  .ok (.cOr (bvField 5 w 5) (bvField 5 w 0))

/-- C.XOR (R64). -/
def decCXor (w : Nat) : Except LoadStatus Instr :=
  .ok (.cXor (bvField 5 w 5) (bvField 5 w 0))

/-- C.SHLI (R64). -/
def decCShli (w : Nat) : Except LoadStatus Instr :=
  .ok (.cShli (bvField 5 w 5) (bvField 5 w 0))

/-- C.SHRI (R64). -/
def decCShri (w : Nat) : Except LoadStatus Instr :=
  .ok (.cShri (bvField 5 w 5) (bvField 5 w 0))

/-- C.LDW (R64). -/
def decCLdw (w : Nat) : Except LoadStatus Instr :=
  .ok (.cLdw (bvField 5 w 5) (bvField 5 w 0))

/-- C.STW (R64). -/
def decCStw (w : Nat) : Except LoadStatus Instr :=
  .ok (.cStw (bvField 5 w 5) (bvField 5 w 0))

/-- C.SEND (R64). -/
def decCSend (w : Nat) : Except LoadStatus Instr :=
  if bitField w 7 3 = 0 then .ok (.cSend (bvField 2 w 5) (bvField 5 w 0))
  else .error .fieldReserved

/-- C.TGET (R64). -/
def decCTget (w : Nat) : Except LoadStatus Instr :=
  .ok (.cTget (bvField 5 w 5) (bvField 5 w 0))

/-- C.VFADD (R64). -/
def decCVfadd (w : Nat) : Except LoadStatus Instr :=
  if bitField w 4 1 = 0 ∧ bitField w 9 1 = 0 then .ok (.cVfadd (bvField 4 w 5) (bvField 4 w 0))
  else .error .fieldReserved

/-- C.VFMUL (R64). -/
def decCVfmul (w : Nat) : Except LoadStatus Instr :=
  if bitField w 4 1 = 0 ∧ bitField w 9 1 = 0 then .ok (.cVfmul (bvField 4 w 5) (bvField 4 w 0))
  else .error .fieldReserved

/-- C.VFMA (R64). -/
def decCVfma (w : Nat) : Except LoadStatus Instr :=
  if bitField w 4 1 = 0 ∧ bitField w 9 1 = 0 then .ok (.cVfma (bvField 4 w 5) (bvField 4 w 0))
  else .error .fieldReserved

/-- C.VADD (R64). -/
def decCVadd (w : Nat) : Except LoadStatus Instr :=
  if bitField w 4 1 = 0 ∧ bitField w 9 1 = 0 then .ok (.cVadd (bvField 4 w 5) (bvField 4 w 0))
  else .error .fieldReserved

/-- C.FLD (R64). -/
def decCFld (w : Nat) : Except LoadStatus Instr :=
  .ok (.cFld (bvField 5 w 5) (bvField 5 w 0))

/-- C.FST (R64). -/
def decCFst (w : Nat) : Except LoadStatus Instr :=
  .ok (.cFst (bvField 5 w 5) (bvField 5 w 0))

/-- NOP (R282). -/
def decNop (w : Nat) : Except LoadStatus Instr :=
  if bitField w 0 23 = 0 then .ok (.nop)
  else .error .fieldReserved

/-- END (R282). -/
def decEndFiring (w : Nat) : Except LoadStatus Instr :=
  if bitField w 0 23 = 0 then .ok (.endFiring)
  else .error .fieldReserved

/-- ENDF (R282). -/
def decEndfFiring (w : Nat) : Except LoadStatus Instr :=
  if bitField w 0 23 = 0 then .ok (.endfFiring)
  else .error .fieldReserved

/-- YIELD (R282). -/
def decYield (w : Nat) : Except LoadStatus Instr :=
  if bitField w 0 23 = 0 then .ok (.yield)
  else .error .fieldReserved

/-- C.NOP (R64). -/
def decCNop (w : Nat) : Except LoadStatus Instr :=
  if bitField w 0 10 = 0 then .ok (.cNop)
  else .error .fieldReserved

/-- C.END (R64). -/
def decCEnd (w : Nat) : Except LoadStatus Instr :=
  if bitField w 0 10 = 0 then .ok (.cEnd)
  else .error .fieldReserved

/-- The opcodes 0x00 to 0x0F (R63). -/
def decodeRow0 (op w : Nat) : Except LoadStatus Instr :=
  match op with
  | 0x04 => decBr w
  | 0x05 => decLoop w
  | 0x06 => decLoopi w
  | 0x07 => decSwitch w
  | 0x08 => decPcmpEq w
  | 0x09 => decPcmpNe w
  | 0x0A => decPcmpLt w
  | 0x0B => decPcmpLtu w
  | 0x0C => decPfcmpEq w
  | 0x0D => decPfcmpLt w
  | 0x0E => decPfcmpLe w
  | 0x0F => decPfcmpUn w
  | 0x00 => decNop w
  | 0x01 => decEndFiring w
  | 0x02 => decEndfFiring w
  | 0x03 => decYield w
  | _ => .error .opcodeUnassigned

/-- The opcodes 0x10 to 0x1F (R63). -/
def decodeRow1 (op w : Nat) : Except LoadStatus Instr :=
  match op with
  | 0x10 => decPlog w
  | 0x11 => decMcmpEq w
  | 0x12 => decMcmpNe w
  | 0x13 => decMcmpLt w
  | 0x14 => decMcmpLtu w
  | 0x15 => decMfcmpEq w
  | 0x16 => decMfcmpLt w
  | 0x17 => decMfcmpLe w
  | 0x18 => decMfcmpUn w
  | 0x19 => decMlog w
  | 0x1A => decMpop w
  | 0x1B => decMfirst w
  | 0x1C => decAdd w
  | 0x1D => decSub w
  | 0x1E => decAddi w
  | 0x1F => decMul w
  | _ => .error .opcodeUnassigned

/-- The opcodes 0x20 to 0x2F (R63). -/
def decodeRow2 (op w : Nat) : Except LoadStatus Instr :=
  match op with
  | 0x20 => decMulh w
  | 0x21 => decMulhu w
  | 0x22 => decDiv w
  | 0x23 => decDivu w
  | 0x24 => decRem w
  | 0x25 => decRemu w
  | 0x26 => decAnd w
  | 0x27 => decOr w
  | 0x28 => decXor w
  | 0x29 => decShl w
  | 0x2A => decShr w
  | 0x2B => decSra w
  | 0x2C => decShli w
  | 0x2D => decShri w
  | 0x2E => decSrai w
  | 0x2F => decMin w
  | _ => .error .opcodeUnassigned

/-- The opcodes 0x30 to 0x3F (R63). -/
def decodeRow3 (op w : Nat) : Except LoadStatus Instr :=
  match op with
  | 0x30 => decMax w
  | 0x31 => decClz w
  | 0x32 => decPopc w
  | 0x33 => decBrev w
  | 0x34 => decBfx w
  | 0x35 => decBfxu w
  | 0x36 => decBfi w
  | 0x37 => decSel w
  | 0x38 => decMov w
  | 0x39 => decLi w
  | 0x3A => decLih w
  | 0x3B => decAgen w
  | 0x3C => decAgen2 w
  | 0x3D => decVbcast w
  | 0x3E => decVext w
  | 0x3F => decVins w
  | _ => .error .opcodeUnassigned

/-- The opcodes 0x40 to 0x4F (R63). -/
def decodeRow4 (op w : Nat) : Except LoadStatus Instr :=
  match op with
  | 0x40 => decVperm w
  | 0x41 => decVrotl w
  | 0x42 => decVredAdd w
  | 0x43 => decVredMin w
  | 0x44 => decVredMax w
  | 0x45 => decVscanAdd w
  | 0x46 => decTget w
  | 0x47 => decTset w
  | 0x48 => decVadd w
  | 0x49 => decVsub w
  | 0x4A => decVmul w
  | 0x4B => decVmulh w
  | 0x4C => decVmad w
  | 0x4D => decVand w
  | 0x4E => decVor w
  | 0x4F => decVxor w
  | _ => .error .opcodeUnassigned

/-- The opcodes 0x50 to 0x5F (R63). -/
def decodeRow5 (op w : Nat) : Except LoadStatus Instr :=
  match op with
  | 0x50 => decVshl w
  | 0x51 => decVshr w
  | 0x52 => decVsra w
  | 0x53 => decVmin w
  | 0x54 => decVmax w
  | 0x55 => decVsel w
  | 0x56 => decVadds w
  | 0x57 => decVsubs w
  | 0x58 => decVpack w
  | 0x59 => decVunpk w
  | 0x5A => decVclz w
  | 0x5B => decVpopc w
  | 0x5C => decVfadd w
  | 0x5D => decVfsub w
  | 0x5E => decVfmul w
  | 0x5F => decVfma w
  | _ => .error .opcodeUnassigned

/-- The opcodes 0x60 to 0x6F (R63). -/
def decodeRow6 (op w : Nat) : Except LoadStatus Instr :=
  match op with
  | 0x60 => decVfmin w
  | 0x61 => decVfmax w
  | 0x62 => decVfabs w
  | 0x63 => decVfneg w
  | 0x64 => decVfrcp w
  | 0x65 => decVfrsq w
  | 0x66 => decVfsqrt w
  | 0x67 => decVfdiv w
  | 0x68 => decVfexp2 w
  | 0x69 => decVflog2 w
  | 0x6A => decVfsin w
  | 0x6B => decVftanh w
  | 0x6C => decVfsig w
  | 0x6D => decVfrnd w
  | 0x6E => decVfclmp w
  | 0x6F => decVflrp w
  | _ => .error .opcodeUnassigned

/-- The opcodes 0x70 to 0x7F (R63). -/
def decodeRow7 (op w : Nat) : Except LoadStatus Instr :=
  match op with
  | 0x70 => decVhmul w
  | 0x71 => decVhfma w
  | 0x72 => decVbfma w
  | 0x73 => decFadd w
  | 0x74 => decFmul w
  | 0x75 => decFfma w
  | 0x76 => decCvtF2i w
  | 0x77 => decCvtI2f w
  | 0x78 => decCvtF2h w
  | 0x79 => decCvtH2f w
  | 0x7A => decCvtF2b w
  | 0x7B => decCvtB2f w
  | 0x7C => decCvtF2q w
  | 0x7D => decCvtQ2f w
  | 0x7E => decHfwd w
  | 0x7F => decHinv w
  | _ => .error .opcodeUnassigned

/-- The opcodes 0x80 to 0x8F (R63). -/
def decodeRow8 (op w : Nat) : Except LoadStatus Instr :=
  match op with
  | 0x80 => decHthr w
  | 0x81 => decHpack w
  | 0x82 => decHunpk w
  | 0x83 => decHtag w
  | 0x84 => decHqry w
  | 0x85 => decHsett w
  | 0x86 => decLdb w
  | 0x87 => decLdbu w
  | 0x88 => decLdh w
  | 0x89 => decLdhu w
  | 0x8A => decLdw w
  | 0x8B => decStb w
  | 0x8C => decSth w
  | 0x8D => decStw w
  | 0x8E => decLdv w
  | 0x8F => decLdvs w
  | _ => .error .opcodeUnassigned

/-- The opcodes 0x90 to 0x9F (R63). -/
def decodeRow9 (op w : Nat) : Except LoadStatus Instr :=
  match op with
  | 0x90 => decLdvg w
  | 0x91 => decLdvb w
  | 0x92 => decStv w
  | 0x93 => decStvs w
  | 0x94 => decStvx w
  | 0x95 => decAadd w
  | 0x96 => decAmin w
  | 0x97 => decAmax w
  | 0x98 => decAand w
  | 0x99 => decAor w
  | 0x9A => decAxor w
  | 0x9B => decAxch w
  | 0x9C => decAcas w
  | 0x9D => decAfadd w
  | 0x9E => decAincw w
  | 0x9F => decHld w
  | _ => .error .opcodeUnassigned

/-- The opcodes 0xA0 to 0xAF (R63). -/
def decodeRowA (op w : Nat) : Except LoadStatus Instr :=
  match op with
  | 0xA0 => decHst w
  | 0xA1 => decFld w
  | 0xA2 => decFst w
  | 0xA3 => decLdnc w
  | 0xA4 => decStnc w
  | 0xA5 => decDrain w
  | 0xA6 => decChkb w
  | 0xA7 => decSlclm w
  | 0xA8 => decSlrel w
  | 0xA9 => decSltst w
  | 0xAA => decMshp w
  | 0xAB => decTld w
  | 0xAC => decTst w
  | 0xAD => decTzero w
  | 0xAE => decTtr w
  | 0xAF => decMskr w
  | _ => .error .opcodeUnassigned

/-- The opcodes 0xB0 to 0xBF (R63). -/
def decodeRowB (op w : Nat) : Except LoadStatus Instr :=
  match op with
  | 0xB0 => decMmq2 w
  | 0xB1 => decMmq4 w
  | 0xB2 => decMmq7 w
  | 0xB3 => decMmi8 w
  | 0xB4 => decMmh w
  | 0xB5 => decMmb w
  | 0xB6 => decSca w
  | 0xB7 => decScai w
  | 0xB8 => decAclr w
  | 0xB9 => decAjoin w
  | 0xBA => decAcpy w
  | 0xBB => decAout w
  | 0xBC => decAin w
  | 0xBD => decArd w
  | 0xBE => decSrtcfg w
  | 0xBF => decSrtk w
  | _ => .error .opcodeUnassigned

/-- The opcodes 0xC0 to 0xCF (R63). -/
def decodeRowC (op w : Nat) : Except LoadStatus Instr :=
  match op with
  | 0xC0 => decSrtf w
  | 0xC1 => decTfeat w
  | 0xC2 => decSend w
  | 0xC3 => decSende w
  | 0xC4 => decSendm w
  | 0xC5 => decSteer w
  | 0xC6 => decMerge w
  | 0xC7 => decLoopc w
  | 0xC8 => decTagn w
  | 0xC9 => decFalloc w
  | 0xCA => decFfree w
  | 0xCB => decTspawn w
  | 0xCC => decTdec w
  | 0xCD => decEvset w
  | 0xCE => decEvclr w
  | 0xCF => decPermit w
  | _ => .error .opcodeUnassigned

/-- The opcodes 0xD0 to 0xDF (R63). -/
def decodeRowD (op w : Nat) : Except LoadStatus Instr :=
  match op with
  | 0xD0 => decRays w
  | 0xD1 => decFglk w
  | 0xD2 => decBlnd w
  | 0xD3 => decZtst w
  | 0xD4 => decBinapp w
  | 0xD5 => decEdge w
  | 0xD6 => decAttr w
  | 0xD7 => decOccq w
  | 0xD8 => decSeqn w
  | 0xD9 => decIscfg w
  | 0xDA => decTrap w
  | 0xDB => decTret w
  | 0xDC => decCsrr w
  | 0xDD => decCsrw w
  | 0xDE => decEmrd w
  | 0xDF => decEqt w
  | _ => .error .opcodeUnassigned

/-- A 32-bit word by its opcode W[30:23] (R58, R63). -/
def decodeOp (op w : Nat) : Except LoadStatus Instr :=
  match op / 16 with
  | 0x0 => decodeRow0 op w
  | 0x1 => decodeRow1 op w
  | 0x2 => decodeRow2 op w
  | 0x3 => decodeRow3 op w
  | 0x4 => decodeRow4 op w
  | 0x5 => decodeRow5 op w
  | 0x6 => decodeRow6 op w
  | 0x7 => decodeRow7 op w
  | 0x8 => decodeRow8 op w
  | 0x9 => decodeRow9 op w
  | 0xA => decodeRowA op w
  | 0xB => decodeRowB op w
  | 0xC => decodeRowC op w
  | 0xD => decodeRowD op w
  | _ => .error .opcodeUnassigned

/-- A compact word by its op5 [14:10] (R64). -/
def decodeCompactOp (op w : Nat) : Except LoadStatus Instr :=
  match op with
  | 0x02 => decCBr w
  | 0x03 => decCLoopi w
  | 0x04 => decCMov w
  | 0x05 => decCLi w
  | 0x06 => decCAdd w
  | 0x07 => decCSub w
  | 0x08 => decCAddi w
  | 0x09 => decCAnd w
  | 0x0A => decCOr w
  | 0x0B => decCXor w
  | 0x0C => decCShli w
  | 0x0D => decCShri w
  | 0x0E => decCLdw w
  | 0x0F => decCStw w
  | 0x10 => decCSend w
  | 0x11 => decCTget w
  | 0x12 => decCVfadd w
  | 0x13 => decCVfmul w
  | 0x14 => decCVfma w
  | 0x15 => decCVadd w
  | 0x16 => decCFld w
  | 0x17 => decCFst w
  | 0x00 => decCNop w
  | 0x01 => decCEnd w
  | _ => .error .compactUnassigned

/-- A 32-bit word W, its first halfword in the upper half (R58). -/
def decodeWord (w : Nat) : Except LoadStatus Instr := decodeOp (bitField w 23 8) w

/-- A compact word. -/
def decodeCompact (w : Nat) : Except LoadStatus Instr := decodeCompactOp (bitField w 10 5) w

/-- The instruction at the head of a list of halfwords, and its length in halfwords. Bit 15 of the first halfword
selects the length (R58); a 32-bit instruction whose second halfword is missing is LOAD_ROUTINE_BOUNDS (R65). -/
def decode (code : List (BitVec 16)) : Except LoadStatus (Instr × Nat) :=
  match code with
  | [] => .error .routineBounds
  | h :: r =>
    if h.toNat < 32768 then
      (match decodeCompact h.toNat with
       | .ok i => .ok (i, 1)
       | .error e => .error e)
    else
      match r with
      | [] => .error .routineBounds
      | l :: _ =>
        (match decodeWord (h.toNat * 65536 + l.toNat) with
         | .ok i => .ok (i, 2)
         | .error e => .error e)

/-- The loader's verdict on the instruction at the head of `code`: its length, or the first status of R65. A word that
does not decode is refused for its tile kind before its fields (R65). -/
def checkHead (c : WfCtx) (code : List (BitVec 16)) : Except LoadStatus (Instr × Nat) :=
  match decode code with
  | .ok (i, n) =>
    (match i.check c with
     | none => .ok (i, n)
     | some e => .error e)
  | .error e =>
    if e = .fieldReserved ∨ e = .operandInvalid then
      (match code with
       | [] => .error e
       | h :: _ =>
         let ks := if h.toNat < 32768 then
             compactKinds (bitField h.toNat 10 5) else opcodeKinds (bitField h.toNat 7 8)
         if ks.has c.kind then .error e else .error .kindInvalid)
    else .error e

/-- The word of BR (R284). -/
def encBr (p : BitVec 3) (n : BitVec 1) (o : BitVec 19) : Nat :=
  0x82000000 + p.toNat * 2 ^ 20 + n.toNat * 2 ^ 19 + o.toNat

/-- The word of LOOP (R285). -/
def encLoop (c : Opnd) (l : BitVec 16) : Nat :=
  0x82800000 + c.num * 2 ^ 16 + l.toNat

/-- The word of LOOPI (R285). -/
def encLoopi (n : BitVec 11) (l : BitVec 12) : Nat :=
  0x83000000 + n.toNat * 2 ^ 12 + l.toNat

/-- The word of SWITCH (R286). -/
def encSwitch (a b : Opnd) : Nat :=
  0x83800000 + a.num * 2 ^ 9 + b.num * 2 ^ 2

/-- The word of PCMP.EQ (R120). -/
def encPcmpEq (p : BitVec 3) (a b : Opnd) : Nat :=
  0x84000000 + p.toNat * 2 ^ 20 + a.num * 2 ^ 13 + b.num * 2 ^ 6

/-- The word of PCMP.NE (R120). -/
def encPcmpNe (p : BitVec 3) (a b : Opnd) : Nat :=
  0x84800000 + p.toNat * 2 ^ 20 + a.num * 2 ^ 13 + b.num * 2 ^ 6

/-- The word of PCMP.LT (R120). -/
def encPcmpLt (p : BitVec 3) (a b : Opnd) : Nat :=
  0x85000000 + p.toNat * 2 ^ 20 + a.num * 2 ^ 13 + b.num * 2 ^ 6

/-- The word of PCMP.LTU (R120). -/
def encPcmpLtu (p : BitVec 3) (a b : Opnd) : Nat :=
  0x85800000 + p.toNat * 2 ^ 20 + a.num * 2 ^ 13 + b.num * 2 ^ 6

/-- The word of PFCMP.EQ (R121). -/
def encPfcmpEq (p : BitVec 3) (a b : Opnd) : Nat :=
  0x86000000 + p.toNat * 2 ^ 20 + a.num * 2 ^ 13 + b.num * 2 ^ 6

/-- The word of PFCMP.LT (R121). -/
def encPfcmpLt (p : BitVec 3) (a b : Opnd) : Nat :=
  0x86800000 + p.toNat * 2 ^ 20 + a.num * 2 ^ 13 + b.num * 2 ^ 6

/-- The word of PFCMP.LE (R121). -/
def encPfcmpLe (p : BitVec 3) (a b : Opnd) : Nat :=
  0x87000000 + p.toNat * 2 ^ 20 + a.num * 2 ^ 13 + b.num * 2 ^ 6

/-- The word of PFCMP.UN (R121). -/
def encPfcmpUn (p : BitVec 3) (a b : Opnd) : Nat :=
  0x87800000 + p.toNat * 2 ^ 20 + a.num * 2 ^ 13 + b.num * 2 ^ 6

/-- The word of PLOG (R123). -/
def encPlog (d a b : BitVec 3) (t : BitVec 4) : Nat :=
  0x88000000 + d.toNat * 2 ^ 20 + a.toNat * 2 ^ 13 + b.toNat * 2 ^ 6 + t.toNat * 2 ^ 2

/-- The word of MCMP.EQ (R122). -/
def encMcmpEq (d : BitVec 2) (a b : Opnd) (q : BitVec 2) : Nat :=
  0x88800000 + d.toNat * 2 ^ 20 + a.num * 2 ^ 13 + b.num * 2 ^ 6 + q.toNat

/-- The word of MCMP.NE (R122). -/
def encMcmpNe (d : BitVec 2) (a b : Opnd) (q : BitVec 2) : Nat :=
  0x89000000 + d.toNat * 2 ^ 20 + a.num * 2 ^ 13 + b.num * 2 ^ 6 + q.toNat

/-- The word of MCMP.LT (R122). -/
def encMcmpLt (d : BitVec 2) (a b : Opnd) (q : BitVec 2) : Nat :=
  0x89800000 + d.toNat * 2 ^ 20 + a.num * 2 ^ 13 + b.num * 2 ^ 6 + q.toNat

/-- The word of MCMP.LTU (R122). -/
def encMcmpLtu (d : BitVec 2) (a b : Opnd) (q : BitVec 2) : Nat :=
  0x8A000000 + d.toNat * 2 ^ 20 + a.num * 2 ^ 13 + b.num * 2 ^ 6 + q.toNat

/-- The word of MFCMP.EQ (R122). -/
def encMfcmpEq (d : BitVec 2) (a b : Opnd) (q : BitVec 2) : Nat :=
  0x8A800000 + d.toNat * 2 ^ 20 + a.num * 2 ^ 13 + b.num * 2 ^ 6 + q.toNat

/-- The word of MFCMP.LT (R122). -/
def encMfcmpLt (d : BitVec 2) (a b : Opnd) (q : BitVec 2) : Nat :=
  0x8B000000 + d.toNat * 2 ^ 20 + a.num * 2 ^ 13 + b.num * 2 ^ 6 + q.toNat

/-- The word of MFCMP.LE (R122). -/
def encMfcmpLe (d : BitVec 2) (a b : Opnd) (q : BitVec 2) : Nat :=
  0x8B800000 + d.toNat * 2 ^ 20 + a.num * 2 ^ 13 + b.num * 2 ^ 6 + q.toNat

/-- The word of MFCMP.UN (R122). -/
def encMfcmpUn (d : BitVec 2) (a b : Opnd) (q : BitVec 2) : Nat :=
  0x8C000000 + d.toNat * 2 ^ 20 + a.num * 2 ^ 13 + b.num * 2 ^ 6 + q.toNat

/-- The word of MLOG (R123). -/
def encMlog (d a b : BitVec 2) (t : BitVec 4) : Nat :=
  0x8C800000 + d.toNat * 2 ^ 20 + a.toNat * 2 ^ 13 + b.toNat * 2 ^ 6 + t.toNat * 2 ^ 2

/-- The word of MPOP (R124). -/
def encMpop (d : Opnd) (q : BitVec 2) : Nat :=
  0x8D000000 + d.num * 2 ^ 16 + q.toNat

/-- The word of MFIRST (R124). -/
def encMfirst (d : Opnd) (q : BitVec 2) : Nat :=
  0x8D800000 + d.num * 2 ^ 16 + q.toNat

/-- The word of ADD (R125). -/
def encAdd (d a b : Opnd) : Nat :=
  0x8E000000 + d.num * 2 ^ 16 + a.num * 2 ^ 9 + b.num * 2 ^ 2

/-- The word of SUB (R125). -/
def encSub (d a b : Opnd) : Nat :=
  0x8E800000 + d.num * 2 ^ 16 + a.num * 2 ^ 9 + b.num * 2 ^ 2

/-- The word of ADDI (R126). -/
def encAddi (d a : Opnd) (i : BitVec 9) : Nat :=
  0x8F000000 + d.num * 2 ^ 16 + a.num * 2 ^ 9 + i.toNat

/-- The word of MUL (R125). -/
def encMul (d a b : Opnd) : Nat :=
  0x8F800000 + d.num * 2 ^ 16 + a.num * 2 ^ 9 + b.num * 2 ^ 2

/-- The word of MULH (R125). -/
def encMulh (d a b : Opnd) : Nat :=
  0x90000000 + d.num * 2 ^ 16 + a.num * 2 ^ 9 + b.num * 2 ^ 2

/-- The word of MULHU (R125). -/
def encMulhu (d a b : Opnd) : Nat :=
  0x90800000 + d.num * 2 ^ 16 + a.num * 2 ^ 9 + b.num * 2 ^ 2

/-- The word of DIV (R127). -/
def encDiv (d a b : Opnd) : Nat :=
  0x91000000 + d.num * 2 ^ 16 + a.num * 2 ^ 9 + b.num * 2 ^ 2

/-- The word of DIVU (R127). -/
def encDivu (d a b : Opnd) : Nat :=
  0x91800000 + d.num * 2 ^ 16 + a.num * 2 ^ 9 + b.num * 2 ^ 2

/-- The word of REM (R127). -/
def encRem (d a b : Opnd) : Nat :=
  0x92000000 + d.num * 2 ^ 16 + a.num * 2 ^ 9 + b.num * 2 ^ 2

/-- The word of REMU (R127). -/
def encRemu (d a b : Opnd) : Nat :=
  0x92800000 + d.num * 2 ^ 16 + a.num * 2 ^ 9 + b.num * 2 ^ 2

/-- The word of AND (R125). -/
def encAnd (d a b : Opnd) : Nat :=
  0x93000000 + d.num * 2 ^ 16 + a.num * 2 ^ 9 + b.num * 2 ^ 2

/-- The word of OR (R125). -/
def encOr (d a b : Opnd) : Nat :=
  0x93800000 + d.num * 2 ^ 16 + a.num * 2 ^ 9 + b.num * 2 ^ 2

/-- The word of XOR (R125). -/
def encXor (d a b : Opnd) : Nat :=
  0x94000000 + d.num * 2 ^ 16 + a.num * 2 ^ 9 + b.num * 2 ^ 2

/-- The word of SHL (R125). -/
def encShl (d a b : Opnd) : Nat :=
  0x94800000 + d.num * 2 ^ 16 + a.num * 2 ^ 9 + b.num * 2 ^ 2

/-- The word of SHR (R125). -/
def encShr (d a b : Opnd) : Nat :=
  0x95000000 + d.num * 2 ^ 16 + a.num * 2 ^ 9 + b.num * 2 ^ 2

/-- The word of SRA (R125). -/
def encSra (d a b : Opnd) : Nat :=
  0x95800000 + d.num * 2 ^ 16 + a.num * 2 ^ 9 + b.num * 2 ^ 2

/-- The word of SHLI (R126). -/
def encShli (d a : Opnd) (i : BitVec 5) : Nat :=
  0x96000000 + d.num * 2 ^ 16 + a.num * 2 ^ 9 + i.toNat

/-- The word of SHRI (R126). -/
def encShri (d a : Opnd) (i : BitVec 5) : Nat :=
  0x96800000 + d.num * 2 ^ 16 + a.num * 2 ^ 9 + i.toNat

/-- The word of SRAI (R126). -/
def encSrai (d a : Opnd) (i : BitVec 5) : Nat :=
  0x97000000 + d.num * 2 ^ 16 + a.num * 2 ^ 9 + i.toNat

/-- The word of MIN (R125). -/
def encMin (d a b : Opnd) : Nat :=
  0x97800000 + d.num * 2 ^ 16 + a.num * 2 ^ 9 + b.num * 2 ^ 2

/-- The word of MAX (R125). -/
def encMax (d a b : Opnd) : Nat :=
  0x98000000 + d.num * 2 ^ 16 + a.num * 2 ^ 9 + b.num * 2 ^ 2

/-- The word of CLZ (R128). -/
def encClz (d a : Opnd) : Nat :=
  0x98800000 + d.num * 2 ^ 16 + a.num * 2 ^ 9

/-- The word of POPC (R128). -/
def encPopc (d a : Opnd) : Nat :=
  0x99000000 + d.num * 2 ^ 16 + a.num * 2 ^ 9

/-- The word of BREV (R128). -/
def encBrev (d a : Opnd) : Nat :=
  0x99800000 + d.num * 2 ^ 16 + a.num * 2 ^ 9

/-- The word of BFX (R129). -/
def encBfx (d a b : Opnd) : Nat :=
  0x9A000000 + d.num * 2 ^ 16 + a.num * 2 ^ 9 + b.num * 2 ^ 2

/-- The word of BFXU (R129). -/
def encBfxu (d a b : Opnd) : Nat :=
  0x9A800000 + d.num * 2 ^ 16 + a.num * 2 ^ 9 + b.num * 2 ^ 2

/-- The word of BFI (R129). -/
def encBfi (d a b : Opnd) : Nat :=
  0x9B000000 + d.num * 2 ^ 16 + a.num * 2 ^ 9 + b.num * 2 ^ 2

/-- The word of SEL (R130). -/
def encSel (d a b : Opnd) : Nat :=
  0x9B800000 + d.num * 2 ^ 16 + a.num * 2 ^ 9 + b.num * 2 ^ 2

/-- The word of MOV (R131). -/
def encMov (d a : Opnd) (q : BitVec 2) : Nat :=
  0x9C000000 + d.num * 2 ^ 16 + a.num * 2 ^ 9 + q.toNat

/-- The word of LI (R132). -/
def encLi (d : Opnd) (i : BitVec 16) : Nat :=
  0x9C800000 + d.num * 2 ^ 16 + i.toNat

/-- The word of LIH (R132). -/
def encLih (d : Opnd) (i : BitVec 16) : Nat :=
  0x9D000000 + d.num * 2 ^ 16 + i.toNat

/-- The word of AGEN (R133). -/
def encAgen (d a b : Opnd) : Nat :=
  0x9D800000 + d.num * 2 ^ 16 + a.num * 2 ^ 9 + b.num * 2 ^ 2

/-- The word of AGEN2 (R133). -/
def encAgen2 (d a b : Opnd) : Nat :=
  0x9E000000 + d.num * 2 ^ 16 + a.num * 2 ^ 9 + b.num * 2 ^ 2

/-- The word of VBCAST (R134). -/
def encVbcast (d a b : Opnd) (q : BitVec 2) : Nat :=
  0x9E800000 + d.num * 2 ^ 16 + a.num * 2 ^ 9 + b.num * 2 ^ 2 + q.toNat

/-- The word of VEXT (R134). -/
def encVext (d a b : Opnd) : Nat :=
  0x9F000000 + d.num * 2 ^ 16 + a.num * 2 ^ 9 + b.num * 2 ^ 2

/-- The word of VINS (R134). -/
def encVins (d a b : Opnd) : Nat :=
  0x9F800000 + d.num * 2 ^ 16 + a.num * 2 ^ 9 + b.num * 2 ^ 2

/-- The word of VPERM (R135). -/
def encVperm (d a b : Opnd) (q : BitVec 2) : Nat :=
  0xA0000000 + d.num * 2 ^ 16 + a.num * 2 ^ 9 + b.num * 2 ^ 2 + q.toNat

/-- The word of VROTL (R135). -/
def encVrotl (d a b : Opnd) (q : BitVec 2) : Nat :=
  0xA0800000 + d.num * 2 ^ 16 + a.num * 2 ^ 9 + b.num * 2 ^ 2 + q.toNat

/-- The word of VRED.ADD (R136). -/
def encVredAdd (d a : Opnd) (q : BitVec 2) : Nat :=
  0xA1000000 + d.num * 2 ^ 16 + a.num * 2 ^ 9 + q.toNat

/-- The word of VRED.MIN (R136). -/
def encVredMin (d a : Opnd) (q : BitVec 2) : Nat :=
  0xA1800000 + d.num * 2 ^ 16 + a.num * 2 ^ 9 + q.toNat

/-- The word of VRED.MAX (R136). -/
def encVredMax (d a : Opnd) (q : BitVec 2) : Nat :=
  0xA2000000 + d.num * 2 ^ 16 + a.num * 2 ^ 9 + q.toNat

/-- The word of VSCAN.ADD (R136). -/
def encVscanAdd (d a : Opnd) (q : BitVec 2) : Nat :=
  0xA2800000 + d.num * 2 ^ 16 + a.num * 2 ^ 9 + q.toNat

/-- The word of TGET (R137). -/
def encTget (d a : Opnd) (t : BitVec 2) (w : BitVec 5) : Nat :=
  0xA3000000 + d.num * 2 ^ 16 + a.num * 2 ^ 9 + t.toNat * 2 ^ 5 + w.toNat

/-- The word of TSET (R137). -/
def encTset (d a : Opnd) (w : BitVec 4) : Nat :=
  0xA3800000 + d.num * 2 ^ 16 + a.num * 2 ^ 9 + w.toNat

/-- The word of VADD (R138). -/
def encVadd (d a b : Opnd) (q : BitVec 2) : Nat :=
  0xA4000000 + d.num * 2 ^ 16 + a.num * 2 ^ 9 + b.num * 2 ^ 2 + q.toNat

/-- The word of VSUB (R138). -/
def encVsub (d a b : Opnd) (q : BitVec 2) : Nat :=
  0xA4800000 + d.num * 2 ^ 16 + a.num * 2 ^ 9 + b.num * 2 ^ 2 + q.toNat

/-- The word of VMUL (R138). -/
def encVmul (d a b : Opnd) (q : BitVec 2) : Nat :=
  0xA5000000 + d.num * 2 ^ 16 + a.num * 2 ^ 9 + b.num * 2 ^ 2 + q.toNat

/-- The word of VMULH (R138). -/
def encVmulh (d a b : Opnd) (q : BitVec 2) : Nat :=
  0xA5800000 + d.num * 2 ^ 16 + a.num * 2 ^ 9 + b.num * 2 ^ 2 + q.toNat

/-- The word of VMAD (R139). -/
def encVmad (d a b : Opnd) (q : BitVec 2) : Nat :=
  0xA6000000 + d.num * 2 ^ 16 + a.num * 2 ^ 9 + b.num * 2 ^ 2 + q.toNat

/-- The word of VAND (R138). -/
def encVand (d a b : Opnd) (q : BitVec 2) : Nat :=
  0xA6800000 + d.num * 2 ^ 16 + a.num * 2 ^ 9 + b.num * 2 ^ 2 + q.toNat

/-- The word of VOR (R138). -/
def encVor (d a b : Opnd) (q : BitVec 2) : Nat :=
  0xA7000000 + d.num * 2 ^ 16 + a.num * 2 ^ 9 + b.num * 2 ^ 2 + q.toNat

/-- The word of VXOR (R138). -/
def encVxor (d a b : Opnd) (q : BitVec 2) : Nat :=
  0xA7800000 + d.num * 2 ^ 16 + a.num * 2 ^ 9 + b.num * 2 ^ 2 + q.toNat

/-- The word of VSHL (R138). -/
def encVshl (d a b : Opnd) (q : BitVec 2) : Nat :=
  0xA8000000 + d.num * 2 ^ 16 + a.num * 2 ^ 9 + b.num * 2 ^ 2 + q.toNat

/-- The word of VSHR (R138). -/
def encVshr (d a b : Opnd) (q : BitVec 2) : Nat :=
  0xA8800000 + d.num * 2 ^ 16 + a.num * 2 ^ 9 + b.num * 2 ^ 2 + q.toNat

/-- The word of VSRA (R138). -/
def encVsra (d a b : Opnd) (q : BitVec 2) : Nat :=
  0xA9000000 + d.num * 2 ^ 16 + a.num * 2 ^ 9 + b.num * 2 ^ 2 + q.toNat

/-- The word of VMIN (R138). -/
def encVmin (d a b : Opnd) (q : BitVec 2) : Nat :=
  0xA9800000 + d.num * 2 ^ 16 + a.num * 2 ^ 9 + b.num * 2 ^ 2 + q.toNat

/-- The word of VMAX (R138). -/
def encVmax (d a b : Opnd) (q : BitVec 2) : Nat :=
  0xAA000000 + d.num * 2 ^ 16 + a.num * 2 ^ 9 + b.num * 2 ^ 2 + q.toNat

/-- The word of VSEL (R140). -/
def encVsel (d a b : Opnd) (q : BitVec 2) : Nat :=
  0xAA800000 + d.num * 2 ^ 16 + a.num * 2 ^ 9 + b.num * 2 ^ 2 + q.toNat

/-- The word of VADDS (R141). -/
def encVadds (d a b : Opnd) (e : BitVec 1) : Nat :=
  0xAB000000 + d.num * 2 ^ 16 + a.num * 2 ^ 9 + b.num * 2 ^ 2 + e.toNat

/-- The word of VSUBS (R141). -/
def encVsubs (d a b : Opnd) (e : BitVec 1) : Nat :=
  0xAB800000 + d.num * 2 ^ 16 + a.num * 2 ^ 9 + b.num * 2 ^ 2 + e.toNat

/-- The word of VPACK (R142). -/
def encVpack (d a b : Opnd) (e : BitVec 1) : Nat :=
  0xAC000000 + d.num * 2 ^ 16 + a.num * 2 ^ 9 + b.num * 2 ^ 2 + e.toNat

/-- The word of VUNPK (R142). -/
def encVunpk (d a b : Opnd) (e : BitVec 1) : Nat :=
  0xAC800000 + d.num * 2 ^ 16 + a.num * 2 ^ 9 + b.num * 2 ^ 2 + e.toNat

/-- The word of VCLZ (R138). -/
def encVclz (d a : Opnd) (q : BitVec 2) : Nat :=
  0xAD000000 + d.num * 2 ^ 16 + a.num * 2 ^ 9 + q.toNat

/-- The word of VPOPC (R138). -/
def encVpopc (d a : Opnd) (q : BitVec 2) : Nat :=
  0xAD800000 + d.num * 2 ^ 16 + a.num * 2 ^ 9 + q.toNat

/-- The word of VFADD (R148). -/
def encVfadd (d a b : Opnd) (q : BitVec 2) : Nat :=
  0xAE000000 + d.num * 2 ^ 16 + a.num * 2 ^ 9 + b.num * 2 ^ 2 + q.toNat

/-- The word of VFSUB (R148). -/
def encVfsub (d a b : Opnd) (q : BitVec 2) : Nat :=
  0xAE800000 + d.num * 2 ^ 16 + a.num * 2 ^ 9 + b.num * 2 ^ 2 + q.toNat

/-- The word of VFMUL (R148). -/
def encVfmul (d a b : Opnd) (q : BitVec 2) : Nat :=
  0xAF000000 + d.num * 2 ^ 16 + a.num * 2 ^ 9 + b.num * 2 ^ 2 + q.toNat

/-- The word of VFMA (R148). -/
def encVfma (d a b : Opnd) (q : BitVec 2) : Nat :=
  0xAF800000 + d.num * 2 ^ 16 + a.num * 2 ^ 9 + b.num * 2 ^ 2 + q.toNat

/-- The word of VFMIN (R149). -/
def encVfmin (d a b : Opnd) (q : BitVec 2) : Nat :=
  0xB0000000 + d.num * 2 ^ 16 + a.num * 2 ^ 9 + b.num * 2 ^ 2 + q.toNat

/-- The word of VFMAX (R149). -/
def encVfmax (d a b : Opnd) (q : BitVec 2) : Nat :=
  0xB0800000 + d.num * 2 ^ 16 + a.num * 2 ^ 9 + b.num * 2 ^ 2 + q.toNat

/-- The word of VFABS (R149). -/
def encVfabs (d a : Opnd) (q : BitVec 2) : Nat :=
  0xB1000000 + d.num * 2 ^ 16 + a.num * 2 ^ 9 + q.toNat

/-- The word of VFNEG (R148). -/
def encVfneg (d a : Opnd) (q : BitVec 2) : Nat :=
  0xB1800000 + d.num * 2 ^ 16 + a.num * 2 ^ 9 + q.toNat

/-- The word of VFRCP (R151). -/
def encVfrcp (d a : Opnd) (q : BitVec 2) : Nat :=
  0xB2000000 + d.num * 2 ^ 16 + a.num * 2 ^ 9 + q.toNat

/-- The word of VFRSQ (R151). -/
def encVfrsq (d a : Opnd) (q : BitVec 2) : Nat :=
  0xB2800000 + d.num * 2 ^ 16 + a.num * 2 ^ 9 + q.toNat

/-- The word of VFSQRT (R151). -/
def encVfsqrt (d a : Opnd) (q : BitVec 2) : Nat :=
  0xB3000000 + d.num * 2 ^ 16 + a.num * 2 ^ 9 + q.toNat

/-- The word of VFDIV (R151). -/
def encVfdiv (d a b : Opnd) (q : BitVec 2) : Nat :=
  0xB3800000 + d.num * 2 ^ 16 + a.num * 2 ^ 9 + b.num * 2 ^ 2 + q.toNat

/-- The word of VFEXP2 (R152). -/
def encVfexp2 (d a : Opnd) (q : BitVec 2) : Nat :=
  0xB4000000 + d.num * 2 ^ 16 + a.num * 2 ^ 9 + q.toNat

/-- The word of VFLOG2 (R152). -/
def encVflog2 (d a : Opnd) (q : BitVec 2) : Nat :=
  0xB4800000 + d.num * 2 ^ 16 + a.num * 2 ^ 9 + q.toNat

/-- The word of VFSIN (R152). -/
def encVfsin (d a : Opnd) (q : BitVec 2) : Nat :=
  0xB5000000 + d.num * 2 ^ 16 + a.num * 2 ^ 9 + q.toNat

/-- The word of VFTANH (R152). -/
def encVftanh (d a : Opnd) (q : BitVec 2) : Nat :=
  0xB5800000 + d.num * 2 ^ 16 + a.num * 2 ^ 9 + q.toNat

/-- The word of VFSIG (R152). -/
def encVfsig (d a : Opnd) (q : BitVec 2) : Nat :=
  0xB6000000 + d.num * 2 ^ 16 + a.num * 2 ^ 9 + q.toNat

/-- The word of VFRND (R150). -/
def encVfrnd (d a b : Opnd) (q : BitVec 2) : Nat :=
  0xB6800000 + d.num * 2 ^ 16 + a.num * 2 ^ 9 + b.num * 2 ^ 2 + q.toNat

/-- The word of VFCLMP (R149). -/
def encVfclmp (d a b : Opnd) (q : BitVec 2) : Nat :=
  0xB7000000 + d.num * 2 ^ 16 + a.num * 2 ^ 9 + b.num * 2 ^ 2 + q.toNat

/-- The word of VFLRP (R153). -/
def encVflrp (d a b : Opnd) (q : BitVec 2) : Nat :=
  0xB7800000 + d.num * 2 ^ 16 + a.num * 2 ^ 9 + b.num * 2 ^ 2 + q.toNat

/-- The word of VHMUL (R154). -/
def encVhmul (d a b : Opnd) (q : BitVec 2) : Nat :=
  0xB8000000 + d.num * 2 ^ 16 + a.num * 2 ^ 9 + b.num * 2 ^ 2 + q.toNat

/-- The word of VHFMA (R154). -/
def encVhfma (d a b : Opnd) (q : BitVec 2) : Nat :=
  0xB8800000 + d.num * 2 ^ 16 + a.num * 2 ^ 9 + b.num * 2 ^ 2 + q.toNat

/-- The word of VBFMA (R155). -/
def encVbfma (d a b : Opnd) (q : BitVec 2) : Nat :=
  0xB9000000 + d.num * 2 ^ 16 + a.num * 2 ^ 9 + b.num * 2 ^ 2 + q.toNat

/-- The word of FADD (R156). -/
def encFadd (d a b : Opnd) : Nat :=
  0xB9800000 + d.num * 2 ^ 16 + a.num * 2 ^ 9 + b.num * 2 ^ 2

/-- The word of FMUL (R156). -/
def encFmul (d a b : Opnd) : Nat :=
  0xBA000000 + d.num * 2 ^ 16 + a.num * 2 ^ 9 + b.num * 2 ^ 2

/-- The word of FFMA (R156). -/
def encFfma (d a b : Opnd) : Nat :=
  0xBA800000 + d.num * 2 ^ 16 + a.num * 2 ^ 9 + b.num * 2 ^ 2

/-- The word of CVT.F2I (R158). -/
def encCvtF2i (d a : Opnd) (r : BitVec 2) : Nat :=
  0xBB000000 + d.num * 2 ^ 16 + a.num * 2 ^ 9 + r.toNat

/-- The word of CVT.I2F (R158). -/
def encCvtI2f (d a : Opnd) (r : BitVec 2) : Nat :=
  0xBB800000 + d.num * 2 ^ 16 + a.num * 2 ^ 9 + r.toNat

/-- The word of CVT.F2H (R158). -/
def encCvtF2h (d a b : Opnd) (r : BitVec 2) : Nat :=
  0xBC000000 + d.num * 2 ^ 16 + a.num * 2 ^ 9 + b.num * 2 ^ 2 + r.toNat

/-- The word of CVT.H2F (R158). -/
def encCvtH2f (d a n : Opnd) (q : BitVec 2) : Nat :=
  0xBC800000 + d.num * 2 ^ 16 + a.num * 2 ^ 9 + n.num * 2 ^ 2 + q.toNat

/-- The word of CVT.F2B (R158). -/
def encCvtF2b (d a b : Opnd) (r : BitVec 2) : Nat :=
  0xBD000000 + d.num * 2 ^ 16 + a.num * 2 ^ 9 + b.num * 2 ^ 2 + r.toNat

/-- The word of CVT.B2F (R158). -/
def encCvtB2f (d a n : Opnd) (q : BitVec 2) : Nat :=
  0xBD800000 + d.num * 2 ^ 16 + a.num * 2 ^ 9 + n.num * 2 ^ 2 + q.toNat

/-- The word of CVT.F2Q (R159). -/
def encCvtF2q (d a n : Opnd) : Nat :=
  0xBE000000 + d.num * 2 ^ 16 + a.num * 2 ^ 9 + n.num * 2 ^ 2

/-- The word of CVT.Q2F (R159). -/
def encCvtQ2f (d a n : Opnd) : Nat :=
  0xBE800000 + d.num * 2 ^ 16 + a.num * 2 ^ 9 + n.num * 2 ^ 2

/-- The word of HFWD (R161). -/
def encHfwd (d a b : Opnd) : Nat :=
  0xBF000000 + d.num * 2 ^ 16 + a.num * 2 ^ 9 + b.num * 2 ^ 2

/-- The word of HINV (R161). -/
def encHinv (d a : Opnd) : Nat :=
  0xBF800000 + d.num * 2 ^ 16 + a.num * 2 ^ 9

/-- The word of HTHR (R162). -/
def encHthr (d a b : Opnd) : Nat :=
  0xC0000000 + d.num * 2 ^ 16 + a.num * 2 ^ 9 + b.num * 2 ^ 2

/-- The word of HPACK (R163). -/
def encHpack (d a b : Opnd) : Nat :=
  0xC0800000 + d.num * 2 ^ 16 + a.num * 2 ^ 9 + b.num * 2 ^ 2

/-- The word of HUNPK (R163). -/
def encHunpk (d a b : Opnd) : Nat :=
  0xC1000000 + d.num * 2 ^ 16 + a.num * 2 ^ 9 + b.num * 2 ^ 2

/-- The word of HTAG (R163). -/
def encHtag (d a b : Opnd) : Nat :=
  0xC1800000 + d.num * 2 ^ 16 + a.num * 2 ^ 9 + b.num * 2 ^ 2

/-- The word of HQRY (R163). -/
def encHqry (d a : Opnd) : Nat :=
  0xC2000000 + d.num * 2 ^ 16 + a.num * 2 ^ 9

/-- The word of HSETT (R164). -/
def encHsett (d a b : Opnd) : Nat :=
  0xC2800000 + d.num * 2 ^ 16 + a.num * 2 ^ 9 + b.num * 2 ^ 2

/-- The word of LDB (R230). -/
def encLdb (d a : Opnd) (o : BitVec 9) : Nat :=
  0xC3000000 + d.num * 2 ^ 16 + a.num * 2 ^ 9 + o.toNat

/-- The word of LDBU (R230). -/
def encLdbu (d a : Opnd) (o : BitVec 9) : Nat :=
  0xC3800000 + d.num * 2 ^ 16 + a.num * 2 ^ 9 + o.toNat

/-- The word of LDH (R230). -/
def encLdh (d a : Opnd) (o : BitVec 9) : Nat :=
  0xC4000000 + d.num * 2 ^ 16 + a.num * 2 ^ 9 + o.toNat

/-- The word of LDHU (R230). -/
def encLdhu (d a : Opnd) (o : BitVec 9) : Nat :=
  0xC4800000 + d.num * 2 ^ 16 + a.num * 2 ^ 9 + o.toNat

/-- The word of LDW (R230). -/
def encLdw (d a : Opnd) (o : BitVec 9) : Nat :=
  0xC5000000 + d.num * 2 ^ 16 + a.num * 2 ^ 9 + o.toNat

/-- The word of STB (R230). -/
def encStb (d a : Opnd) (o : BitVec 9) : Nat :=
  0xC5800000 + d.num * 2 ^ 16 + a.num * 2 ^ 9 + o.toNat

/-- The word of STH (R230). -/
def encSth (d a : Opnd) (o : BitVec 9) : Nat :=
  0xC6000000 + d.num * 2 ^ 16 + a.num * 2 ^ 9 + o.toNat

/-- The word of STW (R230). -/
def encStw (d a : Opnd) (o : BitVec 9) : Nat :=
  0xC6800000 + d.num * 2 ^ 16 + a.num * 2 ^ 9 + o.toNat

/-- The word of LDV (R231). -/
def encLdv (d a : Opnd) (q : BitVec 2) (o : BitVec 7) : Nat :=
  0xC7000000 + d.num * 2 ^ 16 + a.num * 2 ^ 9 + q.toNat * 2 ^ 7 + o.toNat

/-- The word of LDVS (R232). -/
def encLdvs (d a b : Opnd) (q : BitVec 2) : Nat :=
  0xC7800000 + d.num * 2 ^ 16 + a.num * 2 ^ 9 + b.num * 2 ^ 2 + q.toNat

/-- The word of LDVG (R232). -/
def encLdvg (d a b : Opnd) (q : BitVec 2) : Nat :=
  0xC8000000 + d.num * 2 ^ 16 + a.num * 2 ^ 9 + b.num * 2 ^ 2 + q.toNat

/-- The word of LDVB (R231). -/
def encLdvb (d a : Opnd) (q : BitVec 2) (o : BitVec 7) : Nat :=
  0xC8800000 + d.num * 2 ^ 16 + a.num * 2 ^ 9 + q.toNat * 2 ^ 7 + o.toNat

/-- The word of STV (R231). -/
def encStv (d a : Opnd) (q : BitVec 2) (o : BitVec 7) : Nat :=
  0xC9000000 + d.num * 2 ^ 16 + a.num * 2 ^ 9 + q.toNat * 2 ^ 7 + o.toNat

/-- The word of STVS (R232). -/
def encStvs (d a b : Opnd) (q : BitVec 2) : Nat :=
  0xC9800000 + d.num * 2 ^ 16 + a.num * 2 ^ 9 + b.num * 2 ^ 2 + q.toNat

/-- The word of STVX (R232). -/
def encStvx (d a b : Opnd) (q : BitVec 2) : Nat :=
  0xCA000000 + d.num * 2 ^ 16 + a.num * 2 ^ 9 + b.num * 2 ^ 2 + q.toNat

/-- The word of AADD (R235). -/
def encAadd (d a b : Opnd) : Nat :=
  0xCA800000 + d.num * 2 ^ 16 + a.num * 2 ^ 9 + b.num * 2 ^ 2

/-- The word of AMIN (R235). -/
def encAmin (d a b : Opnd) : Nat :=
  0xCB000000 + d.num * 2 ^ 16 + a.num * 2 ^ 9 + b.num * 2 ^ 2

/-- The word of AMAX (R235). -/
def encAmax (d a b : Opnd) : Nat :=
  0xCB800000 + d.num * 2 ^ 16 + a.num * 2 ^ 9 + b.num * 2 ^ 2

/-- The word of AAND (R235). -/
def encAand (d a b : Opnd) : Nat :=
  0xCC000000 + d.num * 2 ^ 16 + a.num * 2 ^ 9 + b.num * 2 ^ 2

/-- The word of AOR (R235). -/
def encAor (d a b : Opnd) : Nat :=
  0xCC800000 + d.num * 2 ^ 16 + a.num * 2 ^ 9 + b.num * 2 ^ 2

/-- The word of AXOR (R235). -/
def encAxor (d a b : Opnd) : Nat :=
  0xCD000000 + d.num * 2 ^ 16 + a.num * 2 ^ 9 + b.num * 2 ^ 2

/-- The word of AXCH (R235). -/
def encAxch (d a b : Opnd) : Nat :=
  0xCD800000 + d.num * 2 ^ 16 + a.num * 2 ^ 9 + b.num * 2 ^ 2

/-- The word of ACAS (R235). -/
def encAcas (d a b : Opnd) : Nat :=
  0xCE000000 + d.num * 2 ^ 16 + a.num * 2 ^ 9 + b.num * 2 ^ 2

/-- The word of AFADD (R235). -/
def encAfadd (d a b : Opnd) : Nat :=
  0xCE800000 + d.num * 2 ^ 16 + a.num * 2 ^ 9 + b.num * 2 ^ 2

/-- The word of AINCW (R235). -/
def encAincw (d a b : Opnd) : Nat :=
  0xCF000000 + d.num * 2 ^ 16 + a.num * 2 ^ 9 + b.num * 2 ^ 2

/-- The word of HLD (R239). -/
def encHld (d a b : Opnd) : Nat :=
  0xCF800000 + d.num * 2 ^ 16 + a.num * 2 ^ 9 + b.num * 2 ^ 2

/-- The word of HST (R238). -/
def encHst (d a b : Opnd) : Nat :=
  0xD0000000 + d.num * 2 ^ 16 + a.num * 2 ^ 9 + b.num * 2 ^ 2

/-- The word of FLD (R234). -/
def encFld (d : Opnd) (n : BitVec 8) : Nat :=
  0xD0807400 + d.num * 2 ^ 16 + n.toNat

/-- The word of FST (R234). -/
def encFst (d : Opnd) (n : BitVec 8) : Nat :=
  0xD1007400 + d.num * 2 ^ 16 + n.toNat

/-- The word of LDNC (R233). -/
def encLdnc (d a : Opnd) (o : BitVec 9) : Nat :=
  0xD1800000 + d.num * 2 ^ 16 + a.num * 2 ^ 9 + o.toNat

/-- The word of STNC (R233). -/
def encStnc (d a : Opnd) (o : BitVec 9) : Nat :=
  0xD2000000 + d.num * 2 ^ 16 + a.num * 2 ^ 9 + o.toNat

/-- The word of DRAIN (R246). -/
def encDrain (d : Opnd) : Nat :=
  0xD2800000 + d.num * 2 ^ 16

/-- The word of CHKB (R248). -/
def encChkb (p : BitVec 3) (a b : Opnd) : Nat :=
  0xD3000000 + p.toNat * 2 ^ 16 + a.num * 2 ^ 9 + b.num * 2 ^ 2

/-- The word of SLCLM (R250). -/
def encSlclm (a b : Opnd) : Nat :=
  0xD3800000 + a.num * 2 ^ 9 + b.num * 2 ^ 2

/-- The word of SLREL (R250). -/
def encSlrel (a b : Opnd) : Nat :=
  0xD4000000 + a.num * 2 ^ 9 + b.num * 2 ^ 2

/-- The word of SLTST (R250). -/
def encSltst (p : BitVec 3) (a b : Opnd) : Nat :=
  0xD4800000 + p.toNat * 2 ^ 16 + a.num * 2 ^ 9 + b.num * 2 ^ 2

/-- The word of MSHP (R171). -/
def encMshp (n : BitVec 4) (x h : BitVec 3) (r : BitVec 4) (f : BitVec 3) : Nat :=
  0xD5000000 + n.toNat * 2 ^ 19 + x.toNat * 2 ^ 15 + h.toNat * 2 ^ 7 + r.toNat * 2 ^ 3 + f.toNat

/-- The word of TLD (R171). -/
def encTld (n : BitVec 4) (b : BitVec 2) : Nat :=
  0xD5800000 + n.toNat * 2 ^ 19 + b.toNat

/-- The word of TST (R172). -/
def encTstTile (n : BitVec 4) (b : BitVec 2) : Nat :=
  0xD6000000 + n.toNat * 2 ^ 19 + b.toNat

/-- The word of TST (R172). -/
def encTstAcc (k f : BitVec 3) (b : BitVec 2) : Nat :=
  0xD6000004 + k.toNat * 2 ^ 12 + f.toNat * 2 ^ 3 + b.toNat

/-- The word of TZERO (R171). -/
def encTzero (n : BitVec 4) : Nat :=
  0xD6800000 + n.toNat * 2 ^ 19

/-- The word of TTR (R173). -/
def encTtr (s d : BitVec 4) (y x : BitVec 2) : Nat :=
  0xD7000000 + s.toNat * 2 ^ 19 + d.toNat * 2 ^ 15 + y.toNat * 2 ^ 2 + x.toNat

/-- The word of MSKR (R171). -/
def encMskr (n m : BitVec 4) (f : BitVec 2) : Nat :=
  0xD7800000 + n.toNat * 2 ^ 19 + m.toNat * 2 ^ 15 + f.toNat

/-- The word of MMQ2 (R175). -/
def encMmq2 (a b : BitVec 4) (k : BitVec 3) : Nat :=
  0xD8000000 + a.toNat * 2 ^ 19 + b.toNat * 2 ^ 15 + k.toNat * 2 ^ 12

/-- The word of MMQ4 (R175). -/
def encMmq4 (a b : BitVec 4) (k : BitVec 3) : Nat :=
  0xD8800000 + a.toNat * 2 ^ 19 + b.toNat * 2 ^ 15 + k.toNat * 2 ^ 12

/-- The word of MMQ7 (R175). -/
def encMmq7 (a b : BitVec 4) (k : BitVec 3) : Nat :=
  0xD9000000 + a.toNat * 2 ^ 19 + b.toNat * 2 ^ 15 + k.toNat * 2 ^ 12

/-- The word of MMI8 (R176). -/
def encMmi8 (a b : BitVec 4) (k : BitVec 3) : Nat :=
  0xD9800000 + a.toNat * 2 ^ 19 + b.toNat * 2 ^ 15 + k.toNat * 2 ^ 12

/-- The word of MMH (R177). -/
def encMmh (a b : BitVec 4) (k : BitVec 3) : Nat :=
  0xDA000000 + a.toNat * 2 ^ 19 + b.toNat * 2 ^ 15 + k.toNat * 2 ^ 12

/-- The word of MMB (R177). -/
def encMmb (a b : BitVec 4) (k : BitVec 3) : Nat :=
  0xDA800000 + a.toNat * 2 ^ 19 + b.toNat * 2 ^ 15 + k.toNat * 2 ^ 12

/-- The word of SCA (R179). -/
def encSca (a b : BitVec 4) (k : BitVec 3) : Nat :=
  0xDB000000 + a.toNat * 2 ^ 19 + b.toNat * 2 ^ 15 + k.toNat * 2 ^ 12

/-- The word of SCAI (R180). -/
def encScai (a b : BitVec 4) (k : BitVec 3) (j i : BitVec 4) : Nat :=
  0xDB800000 + a.toNat * 2 ^ 19 + b.toNat * 2 ^ 15 + k.toNat * 2 ^ 12 + j.toNat * 2 ^ 4 + i.toNat

/-- The word of ACLR (R182). -/
def encAclr (k : BitVec 3) (l : BitVec 1) : Nat :=
  0xDC000000 + k.toNat * 2 ^ 12 + l.toNat

/-- The word of AJOIN (R182). -/
def encAjoin (k : BitVec 3) (s : BitVec 2) : Nat :=
  0xDC800000 + k.toNat * 2 ^ 12 + s.toNat

/-- The word of ACPY (R182). -/
def encAcpy (k : BitVec 3) (s : BitVec 2) : Nat :=
  0xDD000000 + k.toNat * 2 ^ 12 + s.toNat

/-- The word of AOUT (R183). -/
def encAout (n : BitVec 4) (k : BitVec 3) (h f : BitVec 1) : Nat :=
  0xDD800000 + n.toNat * 2 ^ 19 + k.toNat * 2 ^ 12 + h.toNat * 2 ^ 1 + f.toNat

/-- The word of AIN (R182). -/
def encAin (k : BitVec 3) (b : BitVec 2) : Nat :=
  0xDE000000 + k.toNat * 2 ^ 12 + b.toNat

/-- The word of ARD (R184). -/
def encArd (k : BitVec 3) (x : BitVec 1) (p : BitVec 2) (c : BitVec 1) (i : BitVec 4) : Nat :=
  0xDE800000 + k.toNat * 2 ^ 12 + x.toNat * 2 ^ 7 + p.toNat * 2 ^ 5 + c.toNat * 2 ^ 4 + i.toNat

/-- The word of SRTCFG (R186). -/
def encSrtcfg (r : BitVec 8) (d : BitVec 1) (k : BitVec 2) : Nat :=
  0xDF000000 + r.toNat * 2 ^ 3 + d.toNat * 2 ^ 2 + k.toNat

/-- The word of SRTK (R186). -/
def encSrtk (n : BitVec 4) : Nat :=
  0xDF800000 + n.toNat * 2 ^ 19

/-- The word of SRTF (R186). -/
def encSrtf (x : BitVec 1) (i : BitVec 4) (q p : BitVec 2) : Nat :=
  0xE0000000 + x.toNat * 2 ^ 8 + i.toNat * 2 ^ 4 + q.toNat * 2 ^ 2 + p.toNat

/-- The word of TFEAT (R187). -/
def encTfeat (n : BitVec 4) (g : BitVec 1) : Nat :=
  0xE0800000 + n.toNat * 2 ^ 19 + g.toNat

/-- The word of SEND (R289). -/
def encSend (p : BitVec 2) (s : Opnd) (t : BitVec 3) (m : BitVec 8) (f : BitVec 3) : Nat :=
  0xE1000000 + p.toNat * 2 ^ 21 + s.num * 2 ^ 14 + t.toNat * 2 ^ 11 + m.toNat * 2 ^ 3 + f.toNat

/-- The word of SENDE (R289). -/
def encSende (p : BitVec 2) (t : BitVec 3) (m : BitVec 8) (l : BitVec 3) : Nat :=
  0xE18E0000 + p.toNat * 2 ^ 21 + t.toNat * 2 ^ 11 + m.toNat * 2 ^ 3 + l.toNat

/-- The word of SENDM (R289). -/
def encSendm (p : BitVec 2) (s : Opnd) (t : BitVec 3) (m : BitVec 8) (f : BitVec 3) : Nat :=
  0xE2000000 + p.toNat * 2 ^ 21 + s.num * 2 ^ 14 + t.toNat * 2 ^ 11 + m.toNat * 2 ^ 3 + f.toNat

/-- The word of STEER (R289). -/
def encSteer (p : BitVec 2) (s : Opnd) (t : BitVec 3) (m : BitVec 8) (f : BitVec 3) : Nat :=
  0xE2800000 + p.toNat * 2 ^ 21 + s.num * 2 ^ 14 + t.toNat * 2 ^ 11 + m.toNat * 2 ^ 3 + f.toNat

/-- The word of MERGE (R289). -/
def encMerge (p s : BitVec 2) (t : BitVec 3) (m : BitVec 8) (f : BitVec 3) : Nat :=
  0xE30C0000 + p.toNat * 2 ^ 21 + s.toNat * 2 ^ 14 + t.toNat * 2 ^ 11 + m.toNat * 2 ^ 3 + f.toNat

/-- The word of LOOPC (R290). -/
def encLoopc (p : BitVec 2) (s : Opnd) (t : BitVec 3) (m : BitVec 8) (f : BitVec 3) : Nat :=
  0xE3800000 + p.toNat * 2 ^ 21 + s.num * 2 ^ 14 + t.toNat * 2 ^ 11 + m.toNat * 2 ^ 3 + f.toNat

/-- The word of TAGN (R291). -/
def encTagn (d : Opnd) (p : BitVec 2) : Nat :=
  0xE4000000 + d.num * 2 ^ 16 + p.toNat * 2 ^ 9

/-- The word of FALLOC (R291). -/
def encFalloc (d : Opnd) (p : BitVec 2) (b : Opnd) : Nat :=
  0xE4800000 + d.num * 2 ^ 16 + p.toNat * 2 ^ 9 + b.num * 2 ^ 2

/-- The word of FFREE (R292). -/
def encFfree (d a : Opnd) : Nat :=
  0xE5000000 + d.num * 2 ^ 16 + a.num * 2 ^ 9

/-- The word of TSPAWN (R294). -/
def encTspawn (p : BitVec 3) (a b : Opnd) : Nat :=
  0xE5800000 + p.toNat * 2 ^ 16 + a.num * 2 ^ 9 + b.num * 2 ^ 2

/-- The word of TDEC (R356). -/
def encTdec (a b : Opnd) : Nat :=
  0xE6000000 + a.num * 2 ^ 9 + b.num * 2 ^ 2

/-- The word of EVSET (R356). -/
def encEvset (d a b : Opnd) : Nat :=
  0xE6800000 + d.num * 2 ^ 16 + a.num * 2 ^ 9 + b.num * 2 ^ 2

/-- The word of EVCLR (R356). -/
def encEvclr (d a b : Opnd) : Nat :=
  0xE7000000 + d.num * 2 ^ 16 + a.num * 2 ^ 9 + b.num * 2 ^ 2

/-- The word of PERMIT (R295). -/
def encPermit (a b : Opnd) : Nat :=
  0xE7800000 + a.num * 2 ^ 9 + b.num * 2 ^ 2

/-- The word of RAYS (R297). -/
def encRays (p : BitVec 2) (a b : Opnd) : Nat :=
  0xE8340000 + p.toNat * 2 ^ 16 + a.num * 2 ^ 9 + b.num * 2 ^ 2

/-- The word of FGLK (R302). -/
def encFglk (p : BitVec 2) (a b : Opnd) : Nat :=
  0xE8B40000 + p.toNat * 2 ^ 16 + a.num * 2 ^ 9 + b.num * 2 ^ 2

/-- The word of BLND (R256). -/
def encBlnd (d a b : Opnd) (q : BitVec 2) : Nat :=
  0xE9000000 + d.num * 2 ^ 16 + a.num * 2 ^ 9 + b.num * 2 ^ 2 + q.toNat

/-- The word of ZTST (R255). -/
def encZtst (d a b : Opnd) (q : BitVec 2) : Nat :=
  0xE9800000 + d.num * 2 ^ 16 + a.num * 2 ^ 9 + b.num * 2 ^ 2 + q.toNat

/-- The word of BINAPP (R258). -/
def encBinapp (d a b : Opnd) : Nat :=
  0xEA000000 + d.num * 2 ^ 16 + a.num * 2 ^ 9 + b.num * 2 ^ 2

/-- The word of EDGE (R165). -/
def encEdge (d : BitVec 3) (a b : Opnd) (q : BitVec 2) : Nat :=
  0xEAA00000 + d.toNat * 2 ^ 17 + a.num * 2 ^ 9 + b.num * 2 ^ 2 + q.toNat

/-- The word of ATTR (R166). -/
def encAttr (d : Opnd) (a : BitVec 3) (b : Opnd) (q : BitVec 2) : Nat :=
  0xEB004000 + d.num * 2 ^ 16 + a.toNat * 2 ^ 10 + b.num * 2 ^ 2 + q.toNat

/-- The word of OCCQ (R360). -/
def encOccq (d a b : Opnd) : Nat :=
  0xEB800000 + d.num * 2 ^ 16 + a.num * 2 ^ 9 + b.num * 2 ^ 2

/-- The word of SEQN (R361). -/
def encSeqn (d a : Opnd) : Nat :=
  0xEC000000 + d.num * 2 ^ 16 + a.num * 2 ^ 9

/-- The word of ISCFG (R296). -/
def encIscfg (a b : Opnd) : Nat :=
  0xEC800000 + a.num * 2 ^ 9 + b.num * 2 ^ 2

/-- The word of TRAP (R329). -/
def encTrap (a : Opnd) : Nat :=
  0xED000000 + a.num * 2 ^ 9

/-- The word of TRET (R330). -/
def encTret (a : Opnd) : Nat :=
  0xED800000 + a.num * 2 ^ 9

/-- The word of CSRR (R331). -/
def encCsrr (d : Opnd) (n : BitVec 12) : Nat :=
  0xEE000000 + d.num * 2 ^ 16 + n.toNat

/-- The word of CSRW (R331). -/
def encCsrw (d : Opnd) (n : BitVec 12) : Nat :=
  0xEE800000 + d.num * 2 ^ 16 + n.toNat

/-- The word of EMRD (R362). -/
def encEmrd (d a b : Opnd) : Nat :=
  0xEF000000 + d.num * 2 ^ 16 + a.num * 2 ^ 9 + b.num * 2 ^ 2

/-- The word of EQT (R363). -/
def encEqt (p : BitVec 3) (a b : Opnd) : Nat :=
  0xEF800000 + p.toNat * 2 ^ 16 + a.num * 2 ^ 9 + b.num * 2 ^ 2

/-- The word of C.BR (R64). -/
def encCBr (p : BitVec 3) (n : BitVec 1) (o : BitVec 6) : Nat :=
  0x800 + p.toNat * 2 ^ 7 + n.toNat * 2 ^ 6 + o.toNat

/-- The word of C.LOOPI (R64). -/
def encCLoopi (n l : BitVec 5) : Nat :=
  0xC00 + n.toNat * 2 ^ 5 + l.toNat

/-- The word of C.MOV (R64). -/
def encCMov (x y : BitVec 5) : Nat :=
  0x1000 + x.toNat * 2 ^ 5 + y.toNat

/-- The word of C.LI (R64). -/
def encCLi (x y : BitVec 5) : Nat :=
  0x1400 + x.toNat * 2 ^ 5 + y.toNat

/-- The word of C.ADD (R64). -/
def encCAdd (x y : BitVec 5) : Nat :=
  0x1800 + x.toNat * 2 ^ 5 + y.toNat

/-- The word of C.SUB (R64). -/
def encCSub (x y : BitVec 5) : Nat :=
  0x1C00 + x.toNat * 2 ^ 5 + y.toNat

/-- The word of C.ADDI (R64). -/
def encCAddi (x y : BitVec 5) : Nat :=
  0x2000 + x.toNat * 2 ^ 5 + y.toNat

/-- The word of C.AND (R64). -/
def encCAnd (x y : BitVec 5) : Nat :=
  0x2400 + x.toNat * 2 ^ 5 + y.toNat

/-- The word of C.OR (R64). -/
def encCOr (x y : BitVec 5) : Nat :=
  0x2800 + x.toNat * 2 ^ 5 + y.toNat

/-- The word of C.XOR (R64). -/
def encCXor (x y : BitVec 5) : Nat :=
  0x2C00 + x.toNat * 2 ^ 5 + y.toNat

/-- The word of C.SHLI (R64). -/
def encCShli (x y : BitVec 5) : Nat :=
  0x3000 + x.toNat * 2 ^ 5 + y.toNat

/-- The word of C.SHRI (R64). -/
def encCShri (x y : BitVec 5) : Nat :=
  0x3400 + x.toNat * 2 ^ 5 + y.toNat

/-- The word of C.LDW (R64). -/
def encCLdw (x y : BitVec 5) : Nat :=
  0x3800 + x.toNat * 2 ^ 5 + y.toNat

/-- The word of C.STW (R64). -/
def encCStw (x y : BitVec 5) : Nat :=
  0x3C00 + x.toNat * 2 ^ 5 + y.toNat

/-- The word of C.SEND (R64). -/
def encCSend (p : BitVec 2) (y : BitVec 5) : Nat :=
  0x4000 + p.toNat * 2 ^ 5 + y.toNat

/-- The word of C.TGET (R64). -/
def encCTget (x y : BitVec 5) : Nat :=
  0x4400 + x.toNat * 2 ^ 5 + y.toNat

/-- The word of C.VFADD (R64). -/
def encCVfadd (x y : BitVec 4) : Nat :=
  0x4800 + x.toNat * 2 ^ 5 + y.toNat

/-- The word of C.VFMUL (R64). -/
def encCVfmul (x y : BitVec 4) : Nat :=
  0x4C00 + x.toNat * 2 ^ 5 + y.toNat

/-- The word of C.VFMA (R64). -/
def encCVfma (x y : BitVec 4) : Nat :=
  0x5000 + x.toNat * 2 ^ 5 + y.toNat

/-- The word of C.VADD (R64). -/
def encCVadd (x y : BitVec 4) : Nat :=
  0x5400 + x.toNat * 2 ^ 5 + y.toNat

/-- The word of C.FLD (R64). -/
def encCFld (x y : BitVec 5) : Nat :=
  0x5800 + x.toNat * 2 ^ 5 + y.toNat

/-- The word of C.FST (R64). -/
def encCFst (x y : BitVec 5) : Nat :=
  0x5C00 + x.toNat * 2 ^ 5 + y.toNat

/-- The encoding of an instruction: how many bits it has, and the word (R58 to R64, and the field layouts of the
instruction entries). A step that no program encodes has none. -/
def encodeWord (i : Instr) : Option (Nat × Nat) :=
  match i with
  | .br p n o => some (32, encBr p n o)
  | .loop c l => some (32, encLoop c l)
  | .loopi n l => some (32, encLoopi n l)
  | .switch a b => some (32, encSwitch a b)
  | .pcmpEq p a b => some (32, encPcmpEq p a b)
  | .pcmpNe p a b => some (32, encPcmpNe p a b)
  | .pcmpLt p a b => some (32, encPcmpLt p a b)
  | .pcmpLtu p a b => some (32, encPcmpLtu p a b)
  | .pfcmpEq p a b => some (32, encPfcmpEq p a b)
  | .pfcmpLt p a b => some (32, encPfcmpLt p a b)
  | .pfcmpLe p a b => some (32, encPfcmpLe p a b)
  | .pfcmpUn p a b => some (32, encPfcmpUn p a b)
  | .plog d a b t => some (32, encPlog d a b t)
  | .mcmpEq d a b q => some (32, encMcmpEq d a b q)
  | .mcmpNe d a b q => some (32, encMcmpNe d a b q)
  | .mcmpLt d a b q => some (32, encMcmpLt d a b q)
  | .mcmpLtu d a b q => some (32, encMcmpLtu d a b q)
  | .mfcmpEq d a b q => some (32, encMfcmpEq d a b q)
  | .mfcmpLt d a b q => some (32, encMfcmpLt d a b q)
  | .mfcmpLe d a b q => some (32, encMfcmpLe d a b q)
  | .mfcmpUn d a b q => some (32, encMfcmpUn d a b q)
  | .mlog d a b t => some (32, encMlog d a b t)
  | .mpop d q => some (32, encMpop d q)
  | .mfirst d q => some (32, encMfirst d q)
  | .add d a b => some (32, encAdd d a b)
  | .sub d a b => some (32, encSub d a b)
  | .addi d a i => some (32, encAddi d a i)
  | .mul d a b => some (32, encMul d a b)
  | .mulh d a b => some (32, encMulh d a b)
  | .mulhu d a b => some (32, encMulhu d a b)
  | .div d a b => some (32, encDiv d a b)
  | .divu d a b => some (32, encDivu d a b)
  | .rem d a b => some (32, encRem d a b)
  | .remu d a b => some (32, encRemu d a b)
  | .and d a b => some (32, encAnd d a b)
  | .or d a b => some (32, encOr d a b)
  | .xor d a b => some (32, encXor d a b)
  | .shl d a b => some (32, encShl d a b)
  | .shr d a b => some (32, encShr d a b)
  | .sra d a b => some (32, encSra d a b)
  | .shli d a i => some (32, encShli d a i)
  | .shri d a i => some (32, encShri d a i)
  | .srai d a i => some (32, encSrai d a i)
  | .min d a b => some (32, encMin d a b)
  | .max d a b => some (32, encMax d a b)
  | .clz d a => some (32, encClz d a)
  | .popc d a => some (32, encPopc d a)
  | .brev d a => some (32, encBrev d a)
  | .bfx d a b => some (32, encBfx d a b)
  | .bfxu d a b => some (32, encBfxu d a b)
  | .bfi d a b => some (32, encBfi d a b)
  | .sel d a b => some (32, encSel d a b)
  | .mov d a q => some (32, encMov d a q)
  | .li d i => some (32, encLi d i)
  | .lih d i => some (32, encLih d i)
  | .agen d a b => some (32, encAgen d a b)
  | .agen2 d a b => some (32, encAgen2 d a b)
  | .vbcast d a b q => some (32, encVbcast d a b q)
  | .vext d a b => some (32, encVext d a b)
  | .vins d a b => some (32, encVins d a b)
  | .vperm d a b q => some (32, encVperm d a b q)
  | .vrotl d a b q => some (32, encVrotl d a b q)
  | .vredAdd d a q => some (32, encVredAdd d a q)
  | .vredMin d a q => some (32, encVredMin d a q)
  | .vredMax d a q => some (32, encVredMax d a q)
  | .vscanAdd d a q => some (32, encVscanAdd d a q)
  | .tget d a t w => some (32, encTget d a t w)
  | .tset d a w => some (32, encTset d a w)
  | .vadd d a b q => some (32, encVadd d a b q)
  | .vsub d a b q => some (32, encVsub d a b q)
  | .vmul d a b q => some (32, encVmul d a b q)
  | .vmulh d a b q => some (32, encVmulh d a b q)
  | .vmad d a b q => some (32, encVmad d a b q)
  | .vand d a b q => some (32, encVand d a b q)
  | .vor d a b q => some (32, encVor d a b q)
  | .vxor d a b q => some (32, encVxor d a b q)
  | .vshl d a b q => some (32, encVshl d a b q)
  | .vshr d a b q => some (32, encVshr d a b q)
  | .vsra d a b q => some (32, encVsra d a b q)
  | .vmin d a b q => some (32, encVmin d a b q)
  | .vmax d a b q => some (32, encVmax d a b q)
  | .vsel d a b q => some (32, encVsel d a b q)
  | .vadds d a b e => some (32, encVadds d a b e)
  | .vsubs d a b e => some (32, encVsubs d a b e)
  | .vpack d a b e => some (32, encVpack d a b e)
  | .vunpk d a b e => some (32, encVunpk d a b e)
  | .vclz d a q => some (32, encVclz d a q)
  | .vpopc d a q => some (32, encVpopc d a q)
  | .vfadd d a b q => some (32, encVfadd d a b q)
  | .vfsub d a b q => some (32, encVfsub d a b q)
  | .vfmul d a b q => some (32, encVfmul d a b q)
  | .vfma d a b q => some (32, encVfma d a b q)
  | .vfmin d a b q => some (32, encVfmin d a b q)
  | .vfmax d a b q => some (32, encVfmax d a b q)
  | .vfabs d a q => some (32, encVfabs d a q)
  | .vfneg d a q => some (32, encVfneg d a q)
  | .vfrcp d a q => some (32, encVfrcp d a q)
  | .vfrsq d a q => some (32, encVfrsq d a q)
  | .vfsqrt d a q => some (32, encVfsqrt d a q)
  | .vfdiv d a b q => some (32, encVfdiv d a b q)
  | .vfexp2 d a q => some (32, encVfexp2 d a q)
  | .vflog2 d a q => some (32, encVflog2 d a q)
  | .vfsin d a q => some (32, encVfsin d a q)
  | .vftanh d a q => some (32, encVftanh d a q)
  | .vfsig d a q => some (32, encVfsig d a q)
  | .vfrnd d a b q => some (32, encVfrnd d a b q)
  | .vfclmp d a b q => some (32, encVfclmp d a b q)
  | .vflrp d a b q => some (32, encVflrp d a b q)
  | .vhmul d a b q => some (32, encVhmul d a b q)
  | .vhfma d a b q => some (32, encVhfma d a b q)
  | .vbfma d a b q => some (32, encVbfma d a b q)
  | .fadd d a b => some (32, encFadd d a b)
  | .fmul d a b => some (32, encFmul d a b)
  | .ffma d a b => some (32, encFfma d a b)
  | .cvtF2i d a r => some (32, encCvtF2i d a r)
  | .cvtI2f d a r => some (32, encCvtI2f d a r)
  | .cvtF2h d a b r => some (32, encCvtF2h d a b r)
  | .cvtH2f d a n q => some (32, encCvtH2f d a n q)
  | .cvtF2b d a b r => some (32, encCvtF2b d a b r)
  | .cvtB2f d a n q => some (32, encCvtB2f d a n q)
  | .cvtF2q d a n => some (32, encCvtF2q d a n)
  | .cvtQ2f d a n => some (32, encCvtQ2f d a n)
  | .hfwd d a b => some (32, encHfwd d a b)
  | .hinv d a => some (32, encHinv d a)
  | .hthr d a b => some (32, encHthr d a b)
  | .hpack d a b => some (32, encHpack d a b)
  | .hunpk d a b => some (32, encHunpk d a b)
  | .htag d a b => some (32, encHtag d a b)
  | .hqry d a => some (32, encHqry d a)
  | .hsett d a b => some (32, encHsett d a b)
  | .ldb d a o => some (32, encLdb d a o)
  | .ldbu d a o => some (32, encLdbu d a o)
  | .ldh d a o => some (32, encLdh d a o)
  | .ldhu d a o => some (32, encLdhu d a o)
  | .ldw d a o => some (32, encLdw d a o)
  | .stb d a o => some (32, encStb d a o)
  | .sth d a o => some (32, encSth d a o)
  | .stw d a o => some (32, encStw d a o)
  | .ldv d a q o => some (32, encLdv d a q o)
  | .ldvs d a b q => some (32, encLdvs d a b q)
  | .ldvg d a b q => some (32, encLdvg d a b q)
  | .ldvb d a q o => some (32, encLdvb d a q o)
  | .stv d a q o => some (32, encStv d a q o)
  | .stvs d a b q => some (32, encStvs d a b q)
  | .stvx d a b q => some (32, encStvx d a b q)
  | .aadd d a b => some (32, encAadd d a b)
  | .amin d a b => some (32, encAmin d a b)
  | .amax d a b => some (32, encAmax d a b)
  | .aand d a b => some (32, encAand d a b)
  | .aor d a b => some (32, encAor d a b)
  | .axor d a b => some (32, encAxor d a b)
  | .axch d a b => some (32, encAxch d a b)
  | .acas d a b => some (32, encAcas d a b)
  | .afadd d a b => some (32, encAfadd d a b)
  | .aincw d a b => some (32, encAincw d a b)
  | .hld d a b => some (32, encHld d a b)
  | .hst d a b => some (32, encHst d a b)
  | .fld d n => some (32, encFld d n)
  | .fst d n => some (32, encFst d n)
  | .ldnc d a o => some (32, encLdnc d a o)
  | .stnc d a o => some (32, encStnc d a o)
  | .drain d => some (32, encDrain d)
  | .chkb p a b => some (32, encChkb p a b)
  | .slclm a b => some (32, encSlclm a b)
  | .slrel a b => some (32, encSlrel a b)
  | .sltst p a b => some (32, encSltst p a b)
  | .mshp n x h r f => some (32, encMshp n x h r f)
  | .tld n b => some (32, encTld n b)
  | .tstTile n b => some (32, encTstTile n b)
  | .tstAcc k f b => some (32, encTstAcc k f b)
  | .tzero n => some (32, encTzero n)
  | .ttr s d y x => some (32, encTtr s d y x)
  | .mskr n m f => some (32, encMskr n m f)
  | .mmq2 a b k => some (32, encMmq2 a b k)
  | .mmq4 a b k => some (32, encMmq4 a b k)
  | .mmq7 a b k => some (32, encMmq7 a b k)
  | .mmi8 a b k => some (32, encMmi8 a b k)
  | .mmh a b k => some (32, encMmh a b k)
  | .mmb a b k => some (32, encMmb a b k)
  | .sca a b k => some (32, encSca a b k)
  | .scai a b k j i => some (32, encScai a b k j i)
  | .aclr k l => some (32, encAclr k l)
  | .ajoin k s => some (32, encAjoin k s)
  | .acpy k s => some (32, encAcpy k s)
  | .aout n k h f => some (32, encAout n k h f)
  | .ain k b => some (32, encAin k b)
  | .ard k x p c i => some (32, encArd k x p c i)
  | .srtcfg r d k => some (32, encSrtcfg r d k)
  | .srtk n => some (32, encSrtk n)
  | .srtf x i q p => some (32, encSrtf x i q p)
  | .tfeat n g => some (32, encTfeat n g)
  | .send p s t m f => some (32, encSend p s t m f)
  | .sende p t m l => some (32, encSende p t m l)
  | .sendm p s t m f => some (32, encSendm p s t m f)
  | .steer p s t m f => some (32, encSteer p s t m f)
  | .merge p s t m f => some (32, encMerge p s t m f)
  | .loopc p s t m f => some (32, encLoopc p s t m f)
  | .tagn d p => some (32, encTagn d p)
  | .falloc d p b => some (32, encFalloc d p b)
  | .ffree d a => some (32, encFfree d a)
  | .tspawn p a b => some (32, encTspawn p a b)
  | .tdec a b => some (32, encTdec a b)
  | .evset d a b => some (32, encEvset d a b)
  | .evclr d a b => some (32, encEvclr d a b)
  | .permit a b => some (32, encPermit a b)
  | .rays p a b => some (32, encRays p a b)
  | .fglk p a b => some (32, encFglk p a b)
  | .blnd d a b q => some (32, encBlnd d a b q)
  | .ztst d a b q => some (32, encZtst d a b q)
  | .binapp d a b => some (32, encBinapp d a b)
  | .edge d a b q => some (32, encEdge d a b q)
  | .attr d a b q => some (32, encAttr d a b q)
  | .occq d a b => some (32, encOccq d a b)
  | .seqn d a => some (32, encSeqn d a)
  | .iscfg a b => some (32, encIscfg a b)
  | .trap a => some (32, encTrap a)
  | .tret a => some (32, encTret a)
  | .csrr d n => some (32, encCsrr d n)
  | .csrw d n => some (32, encCsrw d n)
  | .emrd d a b => some (32, encEmrd d a b)
  | .eqt p a b => some (32, encEqt p a b)
  | .cBr p n o => some (16, encCBr p n o)
  | .cLoopi n l => some (16, encCLoopi n l)
  | .cMov x y => some (16, encCMov x y)
  | .cLi x y => some (16, encCLi x y)
  | .cAdd x y => some (16, encCAdd x y)
  | .cSub x y => some (16, encCSub x y)
  | .cAddi x y => some (16, encCAddi x y)
  | .cAnd x y => some (16, encCAnd x y)
  | .cOr x y => some (16, encCOr x y)
  | .cXor x y => some (16, encCXor x y)
  | .cShli x y => some (16, encCShli x y)
  | .cShri x y => some (16, encCShri x y)
  | .cLdw x y => some (16, encCLdw x y)
  | .cStw x y => some (16, encCStw x y)
  | .cSend p y => some (16, encCSend p y)
  | .cTget x y => some (16, encCTget x y)
  | .cVfadd x y => some (16, encCVfadd x y)
  | .cVfmul x y => some (16, encCVfmul x y)
  | .cVfma x y => some (16, encCVfma x y)
  | .cVadd x y => some (16, encCVadd x y)
  | .cFld x y => some (16, encCFld x y)
  | .cFst x y => some (16, encCFst x y)
  | .nop => some (32, 0x80000000)
  | .endFiring => some (32, 0x80800000)
  | .endfFiring => some (32, 0x81000000)
  | .yield => some (32, 0x81800000)
  | .cNop => some (16, 0x0)
  | .cEnd => some (16, 0x400)
  | .chartLoad => none
  | .chartLoadAck => none
  | .configTimeout => none
  | .startTokenDelivery => none
  | .controlTokenTake => none
  | .tokenArrival => none
  | .operandRetry => none
  | .poolSlotTimeout => none
  | .creditReturn => none
  | .firingAdmission => none
  | .yieldBackoffExpiry => none
  | .xlateRecordPost => none
  | .faultEdgeSend => none
  | .memoryReply => none
  | .loadHomeRequest => none
  | .ownershipRequest => none
  | .atomicHomeOperation => none
  | .bermWaitResume => none
  | .l2Fill => none
  | .fillWaitResume => none
  | .memoryChannelOperation => none
  | .unitSlotService => none
  | .tideTableSwitch => none
  | .hostWrite => none
  | .hostRead => none
  | .hostSnoop => none
  | .ingressDoorbellWrite => none
  | .ingressTokenDelivery => none
  | .timestampRebase => none
  | .tideSample => none
  | .replicaRelease => none
  | .configPatternWrite => none
  | .taskReady => none
  | .computeTaskDispatch => none
  | .copyTaskDispatch => none
  | .bteCommandStart => none
  | .engineWrite => none
  | .btePassMark => none
  | .bteCommandComplete => none
  | .egressEntryWrite => none
  | .accessRetry => none
  | .pageWalk => none
  | .pageWalkComplete => none
  | .invalidationComplete => none
  | .owedWriteLanding => none
  | .loadWalkTile => none
  | .storeWalkTile => none
  | .haarWalkTile => none
  | .gridRequestTake => none
  | .gridBatchSend => none
  | .gridBatchArrival => none
  | .frameAllocRequest => none
  | .frameAllocReply => none
  | .iscfgDescriptorWrite => none
  | .rayNodeVisit => none
  | .rayMigration => none
  | .batchOrderArrival => none
  | .batchRetire => none
  | .occqArrival => none
  | .seqnResume => none
  | .frameSpaceResume => none
  | .roundMarkerSend => none
  | .laneRoundAdvance => none
  | .linkFlitRetry => none
  | .linkTokenLost => none
  | .rollup => none
  | .rollupTokenSend => none
  | .costTableRewrite => none
  | .governorWindow => none
  | .thermalLimit => none
  | .thermalCapStep => none
  | .thermalShutdown => none
  | .partitionCreate => none
  | .partitionEnter => none
  | .partitionSwitch => none
  | .partitionFreeze => none
  | .freezeSave => none
  | .partitionDrain => none
  | .drainComplete => none
  | .drainTimeout => none
  | .partitionResume => none
  | .partitionResize => none
  | .partitionRelease => none
  | .coveScrubEnd => none
  | .vfReset => none
  | .vfFlr => none
  | .privVfRead => none
  | .privVfWrite => none
  | .privGrantWrite => none
  | .privMapbWrite => none
  | .privPartitionRead => none
  | .privCoveMapRead => none
  | .privTideRead => none
  | .privTideWrite => none
  | .privKeyQuery => none
  | .privCostRead => none
  | .privInvalidate => none
  | .hostTlbInvalidate => none
  | .msixTableWrite => none
  | .hostRegisterWrite => none
  | .resync => none
  | .pfDeviceReset => none
  | .firmwareUpdate => none
  | .pfUnknownCommand => none
  | .deviceReset => none
  | .getVersion => none
  | .getCapabilities => none
  | .negotiateAlgorithms => none
  | .getDigests => none
  | .getCertificate => none
  | .challenge => none
  | .getMeasurements => none
  | .keyExchange => none
  | .finish => none
  | .managementCoreFault => none
  | .cxlLinkTraining => none
  | .portRetrain => none
  | .vfEnable => none

/-- The halfwords of a word of `nbits` bits, in the order they are stored: the high half first (R3, R58). -/
def wordHalves (nbits w : Nat) : List (BitVec 16) :=
  if nbits ≤ 16 then [BitVec.ofNat 16 w] else [BitVec.ofNat 16 (w / 65536), BitVec.ofNat 16 w]

/-- The halfwords of an instruction; none for a step that no program encodes. -/
def encode (i : Instr) : List (BitVec 16) :=
  match encodeWord i with
  | some (n, w) => wordHalves n w
  | none => []

/-- The instruction that the decoder reads from a word numbered as the opcode table numbers it: bit 0 is the least
significant bit of W, or of the compact halfword. -/
def decodeTableWord (nbits w : Nat) : Option Instr :=
  if nbits = 0 then none
  else
    match decode (wordHalves nbits w) with
    | .ok (i, _) => some i
    | .error _ => none

end Sys2Proof
end

