-- ==== Sys2Proof/Config.lean ====
section
/-! DEFINITION. What one implementation fixes: the energy cost table, and the values that the manual leaves open, which
no proof can look into. -/

namespace Sys2Proof

/-- What a sector reads as when it was written under another key than the one that reads it (R205: "unrelated data").
The arguments are the sector, the bytes stored there, the key mark it was written under, the one it is read under, and the byte's
number. -/
opaque Config.unrelatedByte : Nat → Nat → Nat → Nat → Nat → Byte

/-- A word that the manual gives no value, by the number of free words drawn before it (log 9). -/
opaque Config.freeWord : Nat → W32

/-- The length that the header of a firmware image gives, from the image's first 64 bytes (R371 does not lay the header out). -/
opaque Config.fwLength : List Byte → Nat

/-- A firmware image as its bytes hold it (R371, R384). -/
opaque Config.fwDecode : List Byte → FwImage

/-- The magic number of a firmware image (R371). -/
opaque Config.fwMagic : Nat

/-- The hash of a public key, as the fuses hold it: of an Ed25519 key (0) or an ML-DSA-65 key (1) (R371). -/
opaque Config.keyHash : Nat → Nat → Nat

/-- A signature of the kind (0 Ed25519, 1 ML-DSA-65) by a public key over some bytes verifies (R371). -/
opaque Config.verifies : Nat → Nat → List Byte → Nat → Bool

/-- The key of the kind that is derived from the fused secret, and for an alias key from the measurement of the running image as
well (R372). -/
opaque Config.identityKey : Nat → Nat → Nat
opaque Config.aliasKey : Nat → Nat → Nat → Nat

/-- The public part of a key (R372). -/
opaque Config.publicKey : Nat → Nat

/-- The hash of an SPDM transcript or certificate chain (R372). -/
opaque Config.spdmHash : List Nat → Nat

/-- The signature by a key over a transcript hash (R372). -/
opaque Config.spdmSignature : Nat → Nat → Nat

/-- The device's part of a key exchange, from its identity key and the exchange so far, and the key of the session that follows
(R372). -/
opaque Config.exchange : Nat → Nat → Nat
opaque Config.sessionKey : Nat → Nat → Nat

/-- The AES-GCM-256 key of a link, 0 CXL.cachemem or 1 CXL.io, that a session sets (R364). -/
opaque Config.ideKey : Nat → Nat → Nat

/-- The measurement of one block of R372 on this device, from what it measures. -/
opaque Config.measurement : Nat → List Nat → Nat

/-- What the calibration at the device reset of fc `n` finds for the cost of class EC`c` on die `d` (R318, R374). -/
opaque Config.calibrated : Nat → Nat → Nat → Nat

/-- The amount the management core gives a shared pool for an interval (R347): of pool kind, index and roll-up number. -/
opaque Config.poolAmount : Nat → Nat → Nat → Nat

/-- The nominal costs of R319 in 1/16 eu: round(pJ × 256) of class EC`c`. EC0 costs nothing (R318). -/
def Config.nominalCost (c : Nat) : Nat :=
  match c with
  | 1 => 205 | 2 => 256 | 3 => 512 | 4 => 2304 | 5 => 205 | 6 => 256 | 7 => 307 | 8 => 1024 | 9 => 2560
  | 10 => 1280 | 11 => 2048 | 12 => 154 | 13 => 2560 | 14 => 6144 | 15 => 8192 | 16 => 5120 | 17 => 12288
  | 18 => 16384 | 19 => 14336 | 20 => 768 | 21 => 2048 | 22 => 4096 | 23 => 5120 | 24 => 3072 | 25 => 256
  | 26 => 10240 | 27 => 8192 | 28 => 5120 | 29 => 512 | 30 => 1024 | 31 => 1024 | 32 => 1536 | 33 => 768
  | 34 => 393 | 35 => 360 | 36 => 623 | 37 => 512 | 38 => 901 | 39 => 819 | 40 => 15360 | 41 => 30720
  | 42 => 10240 | 43 => 7680 | 44 => 5120 | 45 => 2560 | 46 => 2048 | 47 => 6400 | 48 => 15360 | 49 => 2048
  | 50 => 262144 | 51 => 196608 | 52 => 5120 | 53 => 2560 | 54 => 512000 | 55 => 768 | 56 => 4096 | 57 => 512
  | 58 => 5120 | 59 => 256 | 60 => 768 | 61 => 2560 | 62 => 30720 | 63 => 10240
  | _ => 0

end Sys2Proof
end

