-- ==== Sys2Proof/Machine/State.lean ====
section
/-! DEFINITION. The state of the package: firings, tiles, coves, memories, queues and the harbour die, with the reset of
each. INVENTORY.md names the rule behind every field. Fields that the manual does not name are marked as the model's
own. Every array is a `Map`: what it does not list reads as the default that its comment gives. -/

namespace Sys2Proof.Machine

/-- Why the machine stops. -/
inductive Fault where
  /-- A host access to a physical address that no region of R194 holds: the manual gives it no effect. Raised by
  HOST_WRITE, HOST_READ and HOST_SNOOP. Safe: no claim can be made about such an access. -/
  | noSuchAddress (pa : Nat)
  deriving DecidableEq, Repr

/-- Why there is no next state for an instruction. -/
inductive Refusal where
  /-- The instruction has no meaning yet. Raised by the dispatcher alone. Safe. -/
  | notModelled (mnemonic : String)
  /-- The word at the pc is one that the chart loader rejects (R65), so that no routine store holds it (R66). Raised by
  the step. Safe. -/
  | loadRejects (status : Nat)
  /-- An instruction without a firing to run in: no firing holds the slot that `cur` names. Raised by every meaning of
  an encoded instruction; the step never chooses such a slot. Safe. -/
  | noFiring
  deriving DecidableEq, Repr

/-! ## Firings -/

/-- A vector register or staging payload with its domain tag: HAARL in bits 5 to 3, AXIS in bits 2 to 0 (R101). -/
structure VReg where
  bits : VBits := 0
  tag : BitVec 6 := 0
  deriving DecidableEq, Repr

/-- A live loop of R285, in halfword offsets of the routine. -/
structure Loop where
  start : Nat := 0
  endp : Nat := 0
  remaining : Nat := 0
  deriving DecidableEq, Repr

/-- Why a firing is suspended (R30). -/
inductive Wait where
  | no
  | access
  | held
  | owed
  | frame (d : Opnd) (tile berth port : Nat) (tag : Option (BitVec 12))
  | frameReply (d : Opnd) (val : W32) (tagn : Option (BitVec 12))
  | seqn
  | iscfg
  | priv
  | drain
  | aperture
  | storeBuffer
  | calendar
  deriving DecidableEq, Repr

/-- Credits that a firing holds on one channel towards one consumer replica (R25, R261). -/
structure Resv where
  chan : Nat := 0
  crep : Nat := 0
  prep : Nat := 0
  port : Nat := 0
  n : Nat := 0
  deriving DecidableEq, Repr

/-- A firing in its slot (R26, R99). -/
structure Firing where
  berth : Nat := 0
  start : Nat := 0
  len : Nat := 0
  pc : Nat := 0
  stage : Nat := 0
  isTagged : Bool := false
  admitted : Nat := 0
  w : Map W32 := []
  v : Map VReg := []
  p : BitVec 8 := 1
  m : Map (BitVec 16) := []
  o : Map VReg := []
  sq : BitVec 16 := 0
  itag : BitVec 12 := 0
  stag : BitVec 16 := 0
  cls : BitVec 8 := 0
  dport : BitVec 3 := 0
  cx : BitVec 7 := 0
  gen : BitVec 4 := 0
  fp : Nat := 0
  pts : Nat := 0
  tstat : W32 := 0
  handled : Option FaultRec := none
  loops : List Loop := []
  bound : Map (List Token) := []
  resv : List Resv := []
  rings : Nat := 0
  sent : Map Nat := []
  staged : List Staged := []
  err : Bool := false
  tagn : Option (BitVec 12) := none
  loopc : Bool := false
  merge : Option (BitVec 2) := none
  freeAtEnd : Bool := false
  cmds : List Nat := []
  done : Nat := 0
  stopped : Nat := 0
  bins : List (Nat × Nat × Nat) := []
  latch : Map W32 := []
  job : Option Job := none
  wait : Wait := .no
  deriving DecidableEq, Repr

/-! ## Tiles -/

/-- A frame of the frame table (R32, R400): `off` and `bytes` are its place in the frame store. -/
structure Frame where
  berth : Nat := 0
  tag : BitVec 12 := 0
  size : Nat := 0
  slots : Map W32 := []
  pres : Map Bool := []
  off : Nat := 0
  bytes : Nat := 0
  deriving DecidableEq, Repr

/-- Where an operand of a tagged actor waits (R34). -/
inductive OpPlace where
  | pool | store | spill
  deriving DecidableEq, Repr

/-- A token waiting at its consumer: in its channel's FIFO, or for a tagged actor in a pool slot, the matching store or
a spill area. `since` is the fc its header landed and `ready` the fc after its last flit. -/
structure Waiting where
  chan : Nat := 0
  crep : Nat := 0
  berth : Nat := 0
  port : Nat := 0
  tok : Token := {}
  since : Nat := 0
  ready : Nat := 0
  place : OpPlace := .pool
  bound : Bool := false
  id : Nat := 0
  deriving DecidableEq, Repr

/-- What a berth keeps between firings: stopped (R327), its last pts (R26), its live iterations (R290), the TAGN counters
of its output ports (R291), and its back-off after YIELD (R283). -/
structure BerthRun where
  stopped : Bool := false
  lastPts : Nat := 0
  live : List (BitVec 12) := []
  ctr : Map (BitVec 12) := []
  backoff : Option Nat := none
  deriving DecidableEq, Repr

/-- The registers of an X-tile (R105 to R108, R185). Rows are keyed `16·register + row`; shape words default to
0xFFFF_00F0, everything else to zero. `sortKeys` are the held keys with their indices, in sort order. -/
structure XRegs where
  t : Map VBits := []
  scale : Map (BitVec 128) := []
  shape : Map W32 := []
  rowErr : Map (BitVec 16) := []
  ps : Map VBits := []
  sideA : Map (BitVec 128) := []
  sideB : Map (BitVec 128) := []
  plane : W32 := 0
  acc : Map VBits := []
  adesc : Map W32 := []
  sort : W32 := 0x00000FF0
  next : W32 := 0
  sortKeys : List (W32 × W32) := []
  deriving DecidableEq, Repr

/-- A line of an L1 slice (R197). `line` is PA div 128, `place` the number of the line at the home that it came from (R195), and
`key` the key select under which it was filled (R205). -/
structure L1Line where
  line : Nat := 0
  place : Nat := 0
  data : LineBits := 0
  wts : Nat := 0
  rts : Nat := 0
  key : Nat := 0
  deriving DecidableEq, Repr

/-- A TLB entry (R309): the page of 2^`bits` bytes at `va`, the IPA page that stage 2 mapped, what it translates to, the
permissions of both stages and the D bits found. -/
structure TlbEnt where
  vf : Nat := 0
  gen : BitVec 4 := 0
  va : Nat := 0
  bits : Nat := 14
  ipa : Nat := 0
  ipaBits : Nat := 14
  xl : Xl := {}
  r : Bool := false
  w : Bool := false
  c : Bool := false
  d1 : Bool := false
  d2 : Bool := false
  deriving DecidableEq, Repr

/-- A line entry of a berm (R227): held bytes of one firing, with the timestamp reserved for the line. -/
structure BermEnt where
  home : BitVec 2 := 0
  line : Nat := 0
  slice : Nat := 0
  key : Nat := 0
  cmp : Bool := false
  data : LineBits := 0
  mask : BitVec 128 := 0
  tile : Nat := 0
  slot : Nat := 0
  w : Nat := 0
  deriving DecidableEq, Repr

/-- A template held by a template cache under a lease (R220). -/
structure TcEnt where
  vf : Nat := 0
  idx : Nat := 0
  tmpl : LineBits := 0
  wts : Nat := 0
  rts : Nat := 0
  deriving DecidableEq, Repr

/-- A walk in flight (R309): its page, its VF, and whether an invalidation caught it (R308). -/
structure WalkEnt where
  vf : Nat := 0
  page : Nat := 0
  stale : Bool := false
  deriving DecidableEq, Repr

/-- The state of an M-tile beyond what every tile has (R17). `l1` and `tlb` are most recent first; `inbox` holds committed
batches that need no hold entry and wait for their turn to retire, with the fc in which they came (R257), and `lastDone` is
the largest completion timestamp of the channel's commands (R219). `inq` holds the requests that wait for the berm or for a walk; the
bound of 32 of R259's input buffer, which only delays senders, is left out (log 105). -/
structure MUnit where
  l1 : List L1Line := []
  tlb : List TlbEnt := []
  walks : List WalkEnt := []
  inq : List (Nat × Nat) := []
  berm : List BermEnt := []
  qck : Nat := 0
  queue : List BteCmd := []
  run : Option BteCmd := none
  permits : Nat := 0
  outbuf : List MTile := []
  storebuf : List MTile := []
  hold : List Hold := []
  tcache : List TcEnt := []
  ab : Map (BitVec 128) := []
  abCts : Map Nat := []
  egWait : Option (Nat × Nat) := none
  inbox : List (Nat × Batch) := []
  lastDone : Nat := 0
  deriving DecidableEq, Repr

/-- A request that a G-tile has taken, in its result slot (R402): the batch when its lookup is complete. -/
structure GSlot where
  x : Token := {}
  y : Token := {}
  z : Token := {}
  out : Option GBatch := none
  held : Bool := false
  join : Option (Nat × Nat) := none
  abandon : List Nat := []
  sent : Bool := false
  deriving DecidableEq, Repr

/-- A tile (R17). Defaults: LEASE as VF reset leaves it (16), threshold registers 0, everything else empty or zero. `ecc` tells
which places hold an uncorrectable soft error (R66, R188, R225), by the numbers of `eccReg`, `eccCode` and `eccByte`; no step
sets it (log 53). `inject` is the fc from which its injection port is free (R263); `lastStore` and `lastSpill` are the fc in which
an operand last moved into the matching store and into a spill area (R34). `ctlq` has no bound (R259; log 105). -/
structure Tile where
  started : Bool := false
  gate : Bool := false
  restoring : Bool := false
  ctlq : List Nat := []
  slots : Map Firing := []
  runs : Map BerthRun := []
  rrIssue : Nat := 0
  rrAdmit : Nat := 0
  lastAdmit : Option Nat := none
  lastIssue : Option Nat := none
  inject : Nat := 0
  lastStore : Option Nat := none
  lastSpill : Option Nat := none
  astat : BitVec 6 := 0
  lease : Nat := 16
  th : Map W32 := []
  x : XRegs := {}
  owed : List Owed := []
  gbuf : List GBatch := []
  frames : Map Frame := []
  wait : List Waiting := []
  scratch : Map Byte := []
  lck : Nat := 0
  meter : Map Nat := []
  mu : MUnit := {}
  gslots : List GSlot := []
  gcache : List L1Line := []
  ecc : Map Bool := []
  deriving DecidableEq, Repr

/-! ## Coves -/

/-- A task-table entry (R352): 0 free, 1 reserved, 2 waiting, 3 queued, 4 dispatched. `record` is R293's. -/
structure TaskEnt where
  state : Nat := 0
  count : Nat := 0
  cntu : Bool := false
  vf : Nat := 0
  cts : Nat := 0
  record : LineBits := 0
  deriving DecidableEq, Repr

/-- An ISCFG that waits for the rays of its scene slot to leave the cove (R296), keyed by the firing slot's number. -/
structure ScenePend where
  tile : Nat := 0
  slot : Nat := 0
  scene : Nat := 0
  desc : VBits := 0
  deriving DecidableEq, Repr

/-- A change that the task unit of a cove applies at the end of an fc (R355): a task's finish, with the LTS of a record that it may cause, or an event
bit or a decrement of a command of a channel. -/
inductive TaskChange where
  | finish (x ts lts : Nat)
  | event (chan n ts : Nat)
  | dec (chan x ts : Nat) (r : FaultRec)
  deriving DecidableEq, Repr

/-- A cove: its task unit, event bits, swash ring, scene slots and roll-up unit. `fifos` holds (task, fc of entry) by
priority; `due` the changes of this fc (R355); `stuck` the copy tasks whose template's translation is held (R226), and `joins` those
that wait with a walk of a page in flight (R309); the ring's slots taken are the keys of `ring`. -/
structure Cove where
  tasks : Map TaskEnt := []
  fifos : Map (List (Nat × Nat)) := []
  lastDispatch : Option Nat := none
  due : List TaskChange := []
  stuck : List Nat := []
  joins : Map (Nat × Nat) := []
  events : BitVec 256 := 0
  ets : Map Nat := []
  ring : Map Ray := []
  scenes : Map VBits := []
  pend : Map ScenePend := []
  flushed : Map Nat := []
  deriving DecidableEq, Repr

/-! ## Memories -/

/-- A line held in an L2 slice (R198, R199, R381), with the context that filled it and what its write-back needs. `lru`
rises with each use; `under` are the other key selects under which it has been filled or written (R205). -/
structure L2Line where
  line : Nat := 0
  way : Nat := 0
  data : LineBits := 0
  dirty : Bool := false
  ctx : Nat := 0
  key : Nat := 0
  cmp : Bool := false
  lru : Nat := 0
  under : List Nat := []
  deriving DecidableEq, Repr

/-- A directory record (R198). `tile`, `slot` and `base` are the model's own: the firing that holds the line PEND, and the wts of
the line's data before that reservation (log 112). -/
structure DirRec where
  wts : Nat := 0
  rts : Nat := 0
  own : BitVec 9 := 0
  pend : Bool := false
  tile : Nat := 0
  slot : Nat := 0
  base : Nat := 0
  deriving DecidableEq, Repr

/-- The memories behind the homes. `pm` holds every byte of the tiers as stored, of the pools and of host memory, by PA;
`skey` the key mark of each stored 32-byte sector (0: never written under a key); `sealed` the slots of save images, by first sector, with
their length in sectors and a number of the image (R333); `l2` the lines of each slice, keyed
die·768 + slice; `dir` the records of each home (R195), keyed by line for a pool and by 2^41·(slice + 1) + line for an L2
slice; `slots` the slot entries, by PA, whose CTS an engine has written (R221); `ecc` the lines that hold an uncorrectable soft
error (R225), which no step sets (log 53). -/
structure Mem where
  pm : Map Byte := []
  skey : Map Nat := []
  sealed : Map (Nat × Nat) := []
  l2 : Map (List L2Line) := []
  dir : Map DirRec := []
  mxr : Map Nat := []
  occ : Map Nat := []
  cwts : Map Nat := []
  slots : Map Bool := []
  use : Nat := 0
  ecc : Map Bool := []
  deriving DecidableEq, Repr

/-! ## Queues between tiles -/

/-- Where a ray between dies goes: its new ring slot, and its virtual channel on the way (R301; log 113). -/
structure RayWay where
  cove : Nat := 0
  slot : Nat := 0
  vc : Nat := 0
  deriving DecidableEq, Repr

/-- A token on its way (R263, R399): to channel `chan`, consumer replica `crep`; `legs` are the lanes still to cross. A ray between
dies goes as one whose channel is no chart's. -/
structure Flight where
  chan : Nat := 0
  crep : Nat := 0
  tok : Token := {}
  header : Nat := 0
  legs : List Nat := []
  ray : Option RayWay := none
  deriving DecidableEq, Repr

/-- A token lane (R278, R279): its round, the tokens ready on each virtual channel, how many of its markers have crossed,
the lanes that feed it, whether it has sent its marker of this round, and (8·round + virtual channel) for each virtual
channel whose last token's marker is still to come. -/
structure Lane where
  round : Nat := 0
  vcs : Map (List Nat) := []
  crossed : Nat := 0
  feeds : List Nat := []
  sentMarker : Bool := false
  owing : List Nat := []
  deriving DecidableEq, Repr

/-- An Oroti link port (R370). -/
structure Port where
  trained : Bool := false
  peer : Option Nat := none
  retries : Map Nat := []
  deriving DecidableEq, Repr

/-- Channels at run time: free credits keyed by (channel, consumer replica, producer replica), and the round-robin of
returned credits (R261, R262). -/
structure Net where
  flights : Map Flight := []
  batches : Map GBatch := []
  orders : Map Staged := []
  credits : Map Nat := []
  creditRr : Map Nat := []
  lanes : Map Lane := []
  ports : Map Port := []
  deriving DecidableEq, Repr

/-! ## Configuration of the tiles -/

/-- What the configuration network has written into a tile (R66, R304, R311): its partition and VF, routine storage,
routine table, berth records, constants, code and scratch sizes (R400), and a G-tile's descriptor slots (R323). -/
structure TileCfg where
  part : Nat := 0
  vf : Nat := 0
  used : Bool := false
  pat : Nat := 0
  code : List (BitVec 16) := []
  rtab : Map RoutineEnt := []
  berths : Map BerthRec := []
  consts : Map W32 := []
  codeBytes : Nat := 0
  scratch : Nat := 0
  grid : Map VBits := []
  deriving DecidableEq, Repr

/-- A channel of a loaded chart, its ends as package tiles (R310). -/
structure ChanCfg where
  part : Nat := 0
  src : EndPt := .ingress
  dst : EndPt := .ingress
  depth : Nat := 1
  cls : BitVec 8 := 0
  mset : Nat := 0
  vc : Nat := 0
  route : List Leg := []
  deriving DecidableEq, Repr

/-- The configuration that only chart load, clone, relocation, release and reset change (R66): the tiles, the channels
keyed 4096·partition + number, and the chart image loaded in each partition, kept for resume (R338). -/
structure Cfg where
  tiles : Map TileCfg := []
  chans : Map ChanCfg := []
  charts : Map ChartImage := []
  deriving DecidableEq, Repr

/-! ## The harbour -/

/-- A VF-table entry (R315). `wmOld` is the way mask that fills of fc `wmFc` still use, after a change of WM in that fc (R199). -/
structure VfEnt where
  state : Nat := 0
  gen : BitVec 4 := 0
  part : Nat := 0
  s1root : Nat := 0
  s2root : Nat := 0
  tbase : Nat := 0
  tcount : Nat := 0
  egbase : Nat := 0
  egk : Nat := 0
  wqbase : Nat := 0
  lease0 : Nat := 16
  wm : BitVec 16 := 0xFFFF
  wmOld : BitVec 16 := 0xFFFF
  wmFc : Option Nat := none
  sl : Nat := 1024
  qcove : Nat := 0
  qtask : Nat := 0
  qcnt : Nat := 0
  qbte : Nat := 0
  deriving DecidableEq, Repr

/-- An energy account (R345), with the CONS and BAL last posted (R344, R346), and the BAL of the last roll-up (R369). -/
structure Acct where
  cons : BitVec 64 := 0
  bal : BitVec 64 := 0
  frac : Nat := 0
  exh : Bool := false
  qdrn : Bool := false
  drop : Nat := 0
  mapb1 : W32 := 0
  mapb2 : W32 := 0
  ingdrop : Nat := 0
  postCons : BitVec 64 := 0
  postBal : BitVec 64 := 0
  rollBal : BitVec 64 := 0
  deriving DecidableEq, Repr

/-- A partition-table entry (R316). ORIGIN holds 16 bits for each die. -/
structure PartEnt where
  pstate : Nat := 0
  occ : Nat := 0
  save : Nat := 0
  fqbase : Nat := 0
  origin : BitVec 128 := 0
  deriving DecidableEq, Repr

/-- A cove-map entry (R316). -/
structure CmapEnt where
  cpart : Nat := 0
  cstate : Nat := 0
  deriving DecidableEq, Repr

/-- The privileged window (R314). -/
structure PrivWin where
  psel : W32 := 0
  pidx : W32 := 0
  pdata : BitVec 128 := 0
  busy : Bool := false
  status : BitVec 8 := 0
  deriving DecidableEq, Repr

/-- The governor of a die (R351): K, the energy E of the window in 1/16 eu, and the cap C in 1/27 of that, so that 10 W of its
270 W is a whole number of them (R373). -/
structure Gov where
  k : Nat := 16
  cap : Int := 3185049600000
  energy : Nat := 0
  deriving DecidableEq, Repr

/-- Why a partition drains, and how far it is (R337, R348). -/
structure Drain where
  quota : Bool := false
  due : Nat := 0
  emptySince : Option Nat := none
  after : Nat := 0
  origin : BitVec 128 := 0
  deriving DecidableEq, Repr

/-- A partition's fault unit: its ring in memory is R270's; `waitPend` are records that came while a line of the ring was PEND, with the
berth that each stops (R216, R270), `waitXlate` F_XLATE records waiting for room (R271),
`toEdge` the posted records waiting for a credit of each edge (R327), `posted` how many were posted (R369). -/
structure FaultUnit where
  waitPend : List (FaultRec × Option (Nat × Nat)) := []
  waitXlate : List FaultRec := []
  toEdge : Map (List FaultRec) := []
  posted : Nat := 0
  deriving DecidableEq, Repr

/-- An elastic stage of a partition on one die (R45 to R48): its record, the tiles of its replicas by replica number (`gapTile`
for a number that no replica has), the sample counts, the tiles being removed, and a clone that waits for its pattern. -/
structure StageSt where
  stage : Nat := 0
  hi : Nat := 0
  lo : Nat := 0
  tiles : List Nat := []
  above : Nat := 0
  below : Nat := 0
  removing : List Nat := []
  cloning : Option Nat := none
  written : Bool := false
  deriving DecidableEq, Repr

/-- A command of a die's configuration network (R269): write pattern `pat` of partition `part` to a tile list; `clone`
names the stage whose clone it is. -/
structure CfgCmd where
  part : Nat := 0
  pat : Nat := 0
  tiles : List Nat := []
  clone : Option Nat := none
  deriving DecidableEq, Repr

/-- A save-area image (R333, R334, R338), held as records because R333 does not lay out its bits. `kind` is SKIND. Tiles,
coves and pools are keyed by their place, `dirs` are the directory records of the pools and `slots` their slot entries; `rects` is
the ORIGIN at the save, `since` the fc of the stall, `lanes` the tokens that stood on virtual channels, keyed 8·lane + channel,
`moved` the replicas that a resize put in the place of others (R339), and `lastDone` the largest completion timestamp of the
partition's commands (R219). -/
structure SaveImg where
  kind : Bool := false
  vf : Nat := 0
  gen : BitVec 4 := 0
  rects : BitVec 128 := 0
  since : Nat := 0
  tiles : Map Tile := []
  coves : Map Cove := []
  pools : Map Byte := []
  cfg : Map TileCfg := []
  chans : Map ChanCfg := []
  chart : Option ChartImage := none
  stages : Map StageSt := []
  credits : Map Nat := []
  creditRr : Map Nat := []
  flights : Map Flight := []
  batches : Map GBatch := []
  orders : Map Staged := []
  lanes : Map (List Nat) := []
  agenda : List (Nat × Instr × EvArg) := []
  cfgq : Map (List CfgCmd) := []
  moved : Map Nat := []
  dirs : Map DirRec := []
  slots : Map Bool := []
  fault : FaultUnit := {}
  lastDone : Nat := 0
  deriving DecidableEq, Repr

/-- A slack freeze under way (R334): what it holds back, and what follows it: the entry of another VF, a drain that ran
out of time (R337), or a VF reset, which keeps no image (R340). -/
structure Freeze where
  next : Option Nat := none
  timeout : Bool := false
  since : Nat := 0
  lanes : Map (List Nat) := []
  agenda : List (Nat × Instr × EvArg) := []
  cfgq : Map (List CfgCmd) := []
  deriving DecidableEq, Repr

/-- An HDM decoder of the CXL port (R364): it takes `size` bytes of host addresses from `base` on to device memory from PA `dpa` on. -/
structure HdmDec where
  base : Nat := 0
  size : Nat := 0
  dpa : Nat := 0
  on : Bool := false
  deriving DecidableEq, Repr

/-- BAR0 of a VF (R366, R367): `msix` the 256 words of the table, `pba` the pending bits. -/
structure VfBar where
  tlbva : Nat := 0
  tlball : Bool := false
  tlbbusy : Bool := false
  msix : Map W32 := []
  pba : BitVec 64 := 0
  pending : List Nat := []
  deriving DecidableEq, Repr

/-- PF0's command registers (R368) and the RESYNC number (R369). -/
structure PfBar where
  cmd : Nat := 0
  arg : Nat := 0
  busy : Bool := false
  stat : Nat := 0
  resyncs : Nat := 0
  deriving DecidableEq, Repr

/-- Firmware (R371, R372): what runs, what flash holds, recovery, and the fuses: the minimum SVN, the hashes of the two public keys,
and the secret that the identity keys come from. -/
structure Firmware where
  running : FwImage := {}
  flash : FwImage := {}
  minSvn : Nat := 0
  edHash : Nat := 0
  mlHash : Nat := 0
  secret : Nat := 0
  recovery : Bool := false
  deriving DecidableEq, Repr

/-- A chart load in progress (R43, R44): the image, who has not acknowledged, how many pattern commands are left, and what
the partition held before, as a stall would find it. `resume` is the image restored at the start (R338), `agent` tells that a
command of the agent waits for it, `start` is the timestamp of the reconfiguration token (R219), `qdrn` the QDRN that a failed resume leaves (R332). -/
structure LoadRun where
  vf : Nat := 0
  img : ChartImage := {}
  waiting : List Nat := []
  left : Nat := 0
  old : SaveImg := {}
  resume : Option Nat := none
  agent : Bool := false
  id : Nat := 0
  start : Nat := 0
  moved : Map Nat := []
  qdrn : Bool := false
  deriving DecidableEq, Repr

/-- A TLB invalidation in flight (R308): whom it answers, and the accesses it waits for. -/
structure Inval where
  host : Option Nat := none
  tile : Nat := 0
  slot : Nat := 0
  waits : List (Nat × Nat) := []
  deriving DecidableEq, Repr

/-- The harbour die (R10), with the per-die tide controllers, governors and configuration queues. Account 128 is the
house. `fintake` is the rank-6 agent's fault intake (R327), `unitRr` a unit's rotation over VFs without a slot (R276),
`submitted` the chart that a VF's guest has submitted, `entered` the fc from which a partition's occupant counts as resident in
this interval (R347), `boot` 0, or 1 while a device reset runs and 2 while one by PFCMD 2 does (R374), `spdm` the transcript,
`session` its session key and `ide` the link keys (R364, R372), `tideNext` the tide tables of the units `tideNew` that take effect at the next c = 0 (R386). -/
structure Harbour where
  vfs : Map VfEnt := []
  accts : Map Acct := []
  parts : Map PartEnt := []
  cmap : Map CmapEnt := []
  tide : Map (BitVec 16) := []
  shadow : Map (BitVec 16) := []
  tideNew : List Nat := []
  tideNext : Map (BitVec 16) := []
  keyEpoch : Map Nat := []
  costs : Map Nat := []
  costsNew : List (Nat × List Nat) := []
  umeter : Map (Map Nat) := []
  exec : Map (BitVec 64) := []
  gov : Map Gov := []
  hot : Map Bool := []
  hck : Map Nat := []
  win : PrivWin := {}
  privTile : Nat := 0
  privSlot : Nat := 0
  faults : Map FaultUnit := []
  fintake : List FaultRec := []
  agentDown : Bool := false
  ingress : Map (List Token) := []
  rollq : List Nat := []
  rolls : Nat := 0
  images : Map SaveImg := []
  running : Map Bool := []
  drains : Map Drain := []
  gated : Map Bool := []
  freezes : Map Freeze := []
  submitted : Map ChartImage := []
  entered : Map Nat := []
  loads : Map LoadRun := []
  cfgq : Map (List CfgCmd) := []
  stages : Map StageSt := []
  invals : Map Inval := []
  unitq : Map (List (Nat × Nat)) := []
  unitRr : Map Nat := []
  bars : Map VfBar := []
  pf : PfBar := {}
  fw : Firmware := {}
  vfOn : Nat := 0
  rate : Nat := 64
  width : Nat := 16
  cxlOn : Bool := true
  frozenAll : Bool := false
  boot : Nat := 0
  hdm : Map HdmDec := []
  spdm : List Nat := []
  session : Option Nat := none
  ide : Map Nat := []
  out : List HostOut := []
  resident : Map Nat := []
  linkUsed : Map Bool := []
  deriving DecidableEq, Repr

/-! ## The state -/

/-- The machine. `now` is the package fc count; `agenda` the steps that are due, by fc, and `inputs` what the outside
world has sent and no step has taken; `tile` and `slot` name the firing that issues; `ev` the operands of the step being
taken; `free` counts the free values drawn; `next` is the next identity. The last eight are the model's own. -/
structure State where
  cfg : Cfg := {}
  tiles : Map Tile := []
  coves : Map Cove := []
  mem : Mem := {}
  net : Net := {}
  hd : Harbour := {}
  now : Nat := 0
  agenda : List (Nat × Instr × EvArg) := []
  inputs : List (Instr × EvArg) := []
  tile : Nat := 0
  slot : Nat := 0
  ev : EvArg := {}
  free : Nat := 0
  next : Nat := 0
  deriving DecidableEq, Repr

/-- The machine after a device reset (R374): every queue, table and key at its reset values, memories zero-filled, the
tide tables house-only, no chart loaded, CXL.cache and CXL.mem enabled. The rank-6 agent's reserved cove is cove 63 of
die 0, as in the set-up of R388 (log 10). -/
def State.reset : State := { hd := { cmap := [(63, { cstate := 3 })] } }

end Sys2Proof.Machine
end

