-- ==== Sys2Proof/Machine/Access.lean ====
section
/-! DEFINITION. Places of the package (R9 to R15, R194, R314), the accessors of the state, time and the agenda, and the
energy meters (R342, R343). -/

namespace Sys2Proof.Machine

/-! ## Places -/

/-- A tile is numbered die·4096 + cove index·64 + tile index; a cove die·64 + cove index (R13). -/
def dieOfTile (t : Nat) : Nat := t / 4096

/-- The cove of a tile. -/
def coveOfTile (t : Nat) : Nat := t / 64

/-- The tile `idx` of a cove. -/
def tileOfCove (cove idx : Nat) : Nat := cove * 64 + idx

/-- The column of a tile on its die, cove columns included. -/
def dieCol (t : Nat) : Nat := t / 64 % 8 * 8 + t % 8

/-- The row of a tile on its die, cove rows included. -/
def dieRow (t : Nat) : Nat := t / 512 % 8 * 8 + t / 8 % 8

/-- The distance of two numbers. -/
def dist (a b : Nat) : Nat := if a ≤ b then b - a else a - b

/-- The mesh hops between two tiles of one die, column first and then row (R15). -/
def hops (a b : Nat) : Nat := dist (dieCol a) (dieCol b) + dist (dieRow a) (dieRow b)

/-- The tile kind at a tile index of a cove (R12). -/
def kindAt (idx : Nat) : Kind :=
  let c := idx % 8
  let r := idx / 8 % 8
  if idx = 16 ∨ idx = 40 ∨ idx = 23 ∨ idx = 47 ∨ idx = 3 ∨ idx = 60 then .m
  else if 2 ≤ c ∧ c ≤ 5 ∧ 2 ≤ r ∧ r ≤ 5 then .x
  else if idx = 9 ∨ idx = 54 ∨ idx = 14 ∨ idx = 49 then .i
  else if idx = 0 ∨ idx = 63 then .g
  else .c

/-- The tile index of the M-tile of BTE channel `n` (R197, R240). -/
def chanIdx (n : Nat) : Nat :=
  match n with
  | 0 => 16
  | 1 => 40
  | 2 => 23
  | 3 => 47
  | 4 => 3
  | _ => 60

/-- The M-tile of channel `n` of a cove. -/
def chanTile (cove n : Nat) : Nat := tileOfCove cove (chanIdx n)

/-- The I-tile that holds ring slot `n` of a cove: 64 slots each (R268). -/
def ringTile (cove n : Nat) : Nat :=
  tileOfCove cove (match n / 64 with
    | 0 => 9
    | 1 => 14
    | 2 => 49
    | _ => 54)

/-- The BTE channel of an M-tile. -/
def tileChan (t : Nat) : Nat :=
  let i := t % 64
  if i = 16 then 0 else if i = 40 then 1 else if i = 23 then 2 else if i = 47 then 3 else if i = 3 then 4 else 5

/-- The firing slots of a tile kind (R17). -/
def slotCount (k : Kind) : Nat :=
  match k with
  | .c => 4
  | .x => 2
  | .m => 4
  | .i => 0
  | .g => 0

/-- The word that xy and CSR COORD read on a tile (R14). -/
def coordWord (t : Nat) : W32 :=
  BitVec.ofNat 32 (t % 8 + t / 8 % 8 * 8 + t / 64 % 8 * 64 + t / 512 % 8 * 512 + t / 4096 % 8 * 4096)

/-! ## Lists -/

/-- The elements of a list at their places, from `i`. -/
def enumFrom {α : Type} (i : Nat) (l : List α) : List (Nat × α) :=
  match l with
  | [] => []
  | a :: r => (i, a) :: enumFrom (i + 1) r

/-- `l` with its element at place `i` replaced. -/
def setAt {α : Type} (l : List α) (i : Nat) (a : α) : List α := l.set i a

/-- The numbers from `a` up, `n` of them. -/
def upFrom (a n : Nat) : List Nat := (List.range n).map (fun k => a + k)

/-! ## Accessors -/

/-- A tile. -/
def State.tileAt (s : State) (t : Nat) : Tile := s.tiles.get {} t

/-! ## Soft errors (R66, R188, R225; log 53) -/

/-- The number of a register of the matrix tile in `Tile.ecc`: kind 0 a tile register, 1 a plane, 2 an accumulator (R188). -/
def eccReg (kind n : Nat) : Nat := 0x100 * kind + n
/-- The number of halfword `h` of a routine store. -/
def eccCode (h : Nat) : Nat := 4096 + h
/-- The number of byte `b` of an element-local memory. -/
def eccByte (b : Nat) : Nat := 65536 + b

/-- One of the `n` places from number `k` on holds an uncorrectable soft error. -/
def Tile.damaged (x : Tile) (k n : Nat) : Bool := (upFrom k n).any fun i => x.ecc.get false i

/-- The line of `pa` holds an uncorrectable soft error. -/
def State.lineDamaged (s : State) (pa : Nat) : Bool := s.mem.ecc.get false (pa / 128)

/-- `s` with tile `t` replaced. -/
def State.setTile (s : State) (t : Nat) (x : Tile) : State := { s with tiles := s.tiles.set {} t x }

/-- `s` with tile `t` changed by `f`. -/
def State.modTile (s : State) (t : Nat) (f : Tile → Tile) : State := s.setTile t (f (s.tileAt t))

/-- What the configuration network wrote into tile `t`. -/
def State.tcfg (s : State) (t : Nat) : TileCfg := s.cfg.tiles.get {} t

/-- A cove. -/
def State.coveAt (s : State) (c : Nat) : Cove := s.coves.get {} c

/-- `s` with cove `c` replaced. -/
def State.setCove (s : State) (c : Nat) (x : Cove) : State := { s with coves := s.coves.set {} c x }

/-- `s` with cove `c` changed by `f`. -/
def State.modCove (s : State) (c : Nat) (f : Cove → Cove) : State := s.setCove c (f (s.coveAt c))

/-- `s` with the harbour changed by `f`. -/
def State.modHd (s : State) (f : Harbour → Harbour) : State := { s with hd := f s.hd }

/-- `s` with the queues between tiles changed by `f`. -/
def State.modNet (s : State) (f : Net → Net) : State := { s with net := f s.net }

/-- A VF-table entry. -/
def State.vf (s : State) (v : Nat) : VfEnt := s.hd.vfs.get {} v

/-- `s` with VF-table entry `v` changed by `f`. -/
def State.modVf (s : State) (v : Nat) (f : VfEnt → VfEnt) : State :=
  s.modHd fun h => { h with vfs := h.vfs.set {} v (f (h.vfs.get {} v)) }

/-- An account; 128 is the house. -/
def State.acct (s : State) (v : Nat) : Acct := s.hd.accts.get {} v

/-- `s` with account `v` changed by `f`. -/
def State.modAcct (s : State) (v : Nat) (f : Acct → Acct) : State :=
  s.modHd fun h => { h with accts := h.accts.set {} v (f (h.accts.get {} v)) }

/-- A partition-table entry. -/
def State.part (s : State) (p : Nat) : PartEnt := s.hd.parts.get {} p

/-- `s` with partition entry `p` changed by `f`. -/
def State.modPart (s : State) (p : Nat) (f : PartEnt → PartEnt) : State :=
  s.modHd fun h => { h with parts := h.parts.set {} p (f (h.parts.get {} p)) }

/-- The partition number that the model gives the rank-6 agent's chart, which no partition-table entry holds (R384). -/
def agentPart : Nat := 64

/-- The channel number, of no chart, that a partition's rays between dies carry (R301; log 113). -/
def rayChan (part : Nat) : Nat := 2 ^ 32 + part

/-- The partition that a cove belongs to; the agent's reserved cove belongs to its own (R316, R384). -/
def State.covePart (s : State) (cove : Nat) : Nat :=
  let e := s.hd.cmap.get {} cove
  if e.cstate = 3 then agentPart else e.cpart

/-- The account that work of context `cx` on tile `t` is charged to: the house for all that the agent's chart does in its cove (R342). -/
def State.account (s : State) (t cx : Nat) : Nat := if s.covePart (coveOfTile t) = agentPart then 128 else cx

/-- The dropped-event counter of VF `v` rises by `n`, saturating (R341). -/
def State.countDrop (s : State) (v n : Nat) : State :=
  s.modAcct v fun a => { a with drop := Nat.min 0xFFFFFFFF (a.drop + n) }

/-- The firing in slot `k` of tile `t`. -/
def State.firing (s : State) (t k : Nat) : Option Firing := (s.tileAt t).slots.look k

/-- `s` with the firing in slot `k` of tile `t` replaced. -/
def State.setFiring (s : State) (t k : Nat) (f : Firing) : State :=
  s.modTile t fun x => { x with slots := x.slots.put k f }

/-- `s` with the firing in slot `k` of tile `t`, if any, changed by `g`. -/
def State.modFiring (s : State) (t k : Nat) (g : Firing → Firing) : State :=
  match s.firing t k with
  | some f => s.setFiring t k (g f)
  | none => s

/-- `s` with the M-tile part of tile `t` changed by `f`. -/
def State.modMu (s : State) (t : Nat) (f : MUnit → MUnit) : State := s.modTile t fun x => { x with mu := f x.mu }

/-- What berth `b` of tile `t` keeps between firings. -/
def State.run (s : State) (t b : Nat) : BerthRun := (s.tileAt t).runs.get {} b

/-- `s` with berth `b` of tile `t` changed by `f`. -/
def State.modRun (s : State) (t b : Nat) (f : BerthRun → BerthRun) : State :=
  s.modTile t fun x => { x with runs := x.runs.set {} b (f (x.runs.get {} b)) }

/-- The berth record of berth `b` of tile `t` (R311). -/
def State.berth (s : State) (t b : Nat) : BerthRec := (s.tcfg t).berths.get {} b

/-- A channel of a loaded chart. -/
def State.chan (s : State) (c : Nat) : Option ChanCfg := s.cfg.chans.look c

/-! ## Links between dies (R9, R347) -/

/-- Direction `l` of a link carried traffic of account `c` in this interval (R347). Directions are numbered as token lanes are;
80 and 81 are the CXL port towards the device and towards the host. -/
def State.markLink (s : State) (l c : Nat) : State :=
  if c < 128 then s.modHd fun h => { h with linkUsed := h.linkUsed.put (l * 129 + c) true } else s

/-- The directions of links that memory traffic takes from die `a` to die `b` (8: HD): over one die edge where the two are
neighbours (R9), else along the row first (log 16). -/
def dieRoute (a b : Nat) : List Nat :=
  let col := (b % 4 + 4 - a % 4) % 4
  let mid := a / 4 * 4 + (a + 1) % 4
  if a = b then []
  else if b = 8 then [32 + 2 * a]
  else if a = 8 then [33 + 2 * b]
  else if a / 4 = b / 4 then
    if col = 1 then [4 * a] else if col = 3 then [4 * a + 1] else [4 * a, 4 * mid]
  else if col = 0 then [4 * a + 2]
  else if col = 2 then [4 * a + 3]
  else if col = 1 then [4 * a, 4 * mid + 2]
  else [4 * a + 1, 4 * (a / 4 * 4 + (a + 3) % 4) + 2]

/-- The flits of a ray on the mesh or on a token lane: a header and the four of its payload (R297, R298; log 113). -/
def rayFlits : Nat := 5

/-- A request of account `c` goes from die `a` to die `b`, and its reply comes back. -/
def State.markRoute (s : State) (a b c : Nat) : State :=
  (dieRoute a b ++ dieRoute b a).foldl (fun (t : State) l => t.markLink l c) s

/-! ## Time -/

/-- The agenda with a step due at fc `n` after every step due by then. -/
def insertDue (n : Nat) (i : Instr) (e : EvArg) (l : List (Nat × Instr × EvArg)) : List (Nat × Instr × EvArg) :=
  match l with
  | [] => [(n, i, e)]
  | (m, j, d) :: r => if m ≤ n then (m, j, d) :: insertDue n i e r else (n, i, e) :: (m, j, d) :: r

/-- The step `i` with operands `e` falls due at fc `n`. -/
def State.atFc (s : State) (n : Nat) (i : Instr) (e : EvArg) : State := { s with agenda := insertDue n i e s.agenda }

/-- The step `i` falls due in the fc after this one, or after `d` more. -/
def State.after (s : State) (d : Nat) (i : Instr) (e : EvArg) : State := s.atFc (s.now + d) i e

/-- A fresh identity, and the state after it is taken. -/
def State.fresh (s : State) : Nat × State := (s.next, { s with next := s.next + 1 })

/-! ## Energy -/

/-- The cost of class EC`c` on die `d` (8 is HD) (R318). -/
def State.cost (s : State) (d c : Nat) : Nat :=
  match s.hd.costs.look (d * 64 + c) with
  | some n => n
  | none => Config.nominalCost c

/-- The entry with the least amount, the lowest context among equals (R343). -/
def leastEntry (m : Map Nat) : Option (Nat × Nat) :=
  match m with
  | [] => none
  | (k, a) :: r =>
    match leastEntry r with
    | none => some (k, a)
    | some (j, b) => if a ≤ b then some (k, a) else some (j, b)

/-- A meter after a charge, and the entry sent to the roll-up unit, if one had to leave (R343). -/
def meterCharge (m : Map Nat) (cx amt : Nat) : Map Nat × Option (Nat × Nat) :=
  match m.look cx with
  | some a => (m.put cx ((a + amt) % 2 ^ 48), none)
  | none =>
    if m.length < 8 then (m.put cx amt, none)
    else
      match leastEntry m with
      | some (k, a) => ((m.drop k).put cx amt, some (k, a))
      | none => (m.put cx amt, none)

/-- `n` charges of class EC`c` to context `cx`, on the meter of tile `t` (R342, R343). The die's window takes the energy
too (R351). -/
def State.charge (s : State) (t cx c n : Nat) : State :=
  let d := dieOfTile t
  let amt := s.cost d c * n
  if amt = 0 then s
  else
    let (m, fl) := meterCharge (s.tileAt t).meter (s.account t cx) amt
    let s1 := s.modTile t fun x => { x with meter := m }
    let s2 := match fl with
      | none => s1
      | some (k, a) =>
        s1.modCove (coveOfTile t) fun v => { v with flushed := v.flushed.set 0 k (v.flushed.get 0 k + a) }
    s2.modHd fun h =>
      { h with gov := h.gov.set {} d { h.gov.get {} d with energy := (h.gov.get {} d).energy + amt } }

/-- Charges of several classes. -/
def State.charges (s : State) (t cx : Nat) (l : List (Nat × Nat)) : State :=
  l.foldl (fun a e => a.charge t cx e.1 e.2) s

/-- The key of the harbour's own roll-up list, which takes the entries that shared units' meters send. -/
def flushUnit : Nat := 5000000

/-- `n` charges of class EC`c` to account `cx` at a shared unit, whose meter stands on die `d` (8: HD) (R342, R351). -/
def State.chargeUnit (s : State) (unit d cx c n : Nat) : State :=
  let amt := s.cost d c * n
  if amt = 0 then s
  else
    let (m, fl) := meterCharge (s.hd.umeter.get [] unit) cx amt
    let s1 := s.modHd fun h => { h with umeter := h.umeter.set [] unit m }
    let s2 := match fl with
      | none => s1
      | some (k, a) =>
        let old := s1.hd.umeter.get [] flushUnit
        let m2 := old.set 0 k (old.get 0 k + a)
        s1.modHd fun h => { h with umeter := h.umeter.set [] flushUnit m2 }
    if d < 8 then
      s2.modHd fun h =>
        { h with gov := h.gov.set {} d { h.gov.get {} d with energy := (h.gov.get {} d).energy + amt } }
    else s2

end Sys2Proof.Machine
end

