-- ==== Sys2Proof/Machine/Float.lean ====
section
/-! DEFINITION. Floating point (R76 to R79): exact values, one rounding, and the correctly rounded functions of R151 and
R152. Every finite value is `±m·2^e` with a natural `m`. -/

namespace Sys2Proof.Machine

/-! ## Flags (R81) -/

/-- The sticky flags of ASTAT. -/
abbrev Flags := BitVec 6

/-- Invalid operation. -/
def fNV : Flags := 1
/-- Division by zero. -/
def fDZ : Flags := 2
/-- Overflow. -/
def fOF : Flags := 4
/-- Tiny and inexact. -/
def fUF : Flags := 8
/-- Inexact. -/
def fNX : Flags := 16
/-- A clamped Q element. -/
def fQS : Flags := 32

/-! ## Formats -/

/-- A binary format of R76, by its exponent and fraction bits. -/
structure Fmt where
  ebits : Nat
  fbits : Nat
  deriving DecidableEq, Repr

/-- F32 (R76). -/
def f32 : Fmt := ⟨8, 23⟩
/-- H16 (R76). -/
def h16 : Fmt := ⟨5, 10⟩
/-- B16 (R76). -/
def b16 : Fmt := ⟨8, 7⟩

/-- The exponent bias. -/
def Fmt.bias (f : Fmt) : Nat := 2 ^ (f.ebits - 1) - 1
/-- The place of the sign bit. -/
def Fmt.signPlace (f : Fmt) : Nat := f.ebits + f.fbits
/-- The encoding of +∞. -/
def Fmt.infBits (f : Fmt) : Nat := (2 ^ f.ebits - 1) * 2 ^ f.fbits
/-- The canonical quiet NaN (R76). -/
def Fmt.qnan (f : Fmt) : Nat := f.infBits + 2 ^ (f.fbits - 1)
/-- A sign in its place. -/
def Fmt.signBit (f : Fmt) (s : Bool) : Nat := if s then 2 ^ f.signPlace else 0

/-- What a bit pattern stands for. `nan true` is signalling (R77). -/
inductive Fp where
  | nan (sig : Bool)
  | inf (s : Bool)
  | fin (s : Bool) (m : Nat) (e : Int)
  deriving DecidableEq, Repr

/-- The value of a bit pattern (R76). -/
def unpack (f : Fmt) (x : Nat) : Fp :=
  let s := decide (x / 2 ^ f.signPlace % 2 = 1)
  let ex := x / 2 ^ f.fbits % 2 ^ f.ebits
  let fr := x % 2 ^ f.fbits
  if ex = 2 ^ f.ebits - 1 then
    if fr = 0 then .inf s else .nan (decide (fr < 2 ^ (f.fbits - 1)))
  else if ex = 0 then .fin s fr (1 - (f.bias : Int) - f.fbits)
  else .fin s (fr + 2 ^ f.fbits) ((ex : Int) - f.bias - f.fbits)

/-- The value of an F32 word. -/
def unF32 (x : W32) : Fp := unpack f32 x.toNat

/-- The sign of a value; a NaN counts as positive. -/
def Fp.sign (a : Fp) : Bool :=
  match a with
  | .nan _ => false
  | .inf s => s
  | .fin s _ _ => s

/-- The value with its sign inverted. -/
def Fp.neg (a : Fp) : Fp :=
  match a with
  | .nan q => .nan q
  | .inf s => .inf (!s)
  | .fin s m e => .fin (!s) m e

/-- The value is a NaN. -/
def Fp.isNan (a : Fp) : Bool :=
  match a with
  | .nan _ => true
  | _ => false

/-- NV for a signalling NaN (R77). -/
def Fp.sigFlag (a : Fp) : Flags :=
  match a with
  | .nan true => fNV
  | _ => 0

/-! ## One rounding (R78) -/

/-- Rounding up happens for remainder `r` of `2^k` after quotient `q` (modes of R78: 0 RNE, 1 RTZ, 2 RDN, 3 RUP). -/
def roundsUp (mode : Nat) (s : Bool) (q r k : Nat) : Bool :=
  match mode with
  | 0 => decide (2 ^ k < 2 * r) || (decide (2 * r = 2 ^ k) && decide (q % 2 = 1))
  | 1 => false
  | 2 => s && decide (r ≠ 0)
  | _ => !s && decide (r ≠ 0)

/-- `m·2^e` as a multiple of `2^g`, rounded, and whether that was inexact. -/
def roundAt (mode : Nat) (s : Bool) (m : Nat) (e g : Int) : Nat × Bool :=
  if g ≤ e then (m * 2 ^ (e - g).toNat, false)
  else
    let k := (g - e).toNat
    let q := m / 2 ^ k
    let r := m % 2 ^ k
    (if roundsUp mode s q r k then q + 1 else q, decide (r ≠ 0))

/-- The result of an overflow (R78). -/
def overflowBits (f : Fmt) (mode : Nat) (s : Bool) : Nat :=
  let toInf := match mode with
    | 0 => true
    | 1 => false
    | 2 => s
    | _ => !s
  f.signBit s + (if toInf then f.infBits else f.infBits - 1)

/-- `(−1)^s·m·2^e` rounded once to a format, with the flags of R78. -/
def roundFin (f : Fmt) (mode : Nat) (s : Bool) (m : Nat) (e : Int) : Nat × Flags :=
  if m = 0 then (f.signBit s, 0)
  else
    let top : Int := e + (Nat.log2 m : Nat)
    let emin : Int := 1 - (f.bias : Int)
    let g := max top emin - f.fbits
    let (q, ix) := roundAt mode s m e g
    let biased : Nat := if q < 2 ^ f.fbits then 0 else (g + f.fbits + f.bias).toNat
    let mag := if biased = 0 then q else biased * 2 ^ f.fbits + (q - 2 ^ f.fbits)
    if f.infBits ≤ mag then (overflowBits f mode s, fOF ||| fNX)
    else
      let (u, _) := roundAt mode s m e (top - f.fbits)
      let tiny := decide (top < emin) && !(decide (top + 1 = emin) && decide (u = 2 ^ (f.fbits + 1)))
      (f.signBit s + mag, (if ix then fNX else 0) ||| (if ix && tiny then fUF else 0))

/-- A value strictly between `m·2^e` and `(m + 1)·2^e` rounded once; `m` has more bits than the format keeps. -/
def roundSticky (f : Fmt) (mode : Nat) (s : Bool) (m : Nat) (e : Int) (sticky : Bool) : Nat × Flags :=
  if sticky then roundFin f mode s (2 * m + 1) (e - 1) else roundFin f mode s m e

/-! ## Sums and products -/

/-- A product as one addend, with the flags that forming it sets (R77, R78). -/
def Fp.mul (a b : Fp) : Fp × Flags :=
  let fl := a.sigFlag ||| b.sigFlag
  match a, b with
  | .nan _, .inf _ => (.nan false, fl)
  | .nan _, _ => (.nan false, fl)
  | _, .nan _ => (.nan false, fl)
  | .inf s, .inf t => (.inf (s != t), fl)
  | .inf s, .fin t m _ => if m = 0 then (.nan false, fl ||| fNV) else (.inf (s != t), fl)
  | .fin s m _, .inf t => if m = 0 then (.nan false, fl ||| fNV) else (.inf (s != t), fl)
  | .fin s m e, .fin t n d => (.fin (s != t) (m * n) (e + d), fl)

/-- The least exponent of the finite terms, at most `e`. -/
def leastExp (l : List Fp) (e : Int) : Int :=
  l.foldl (fun a t => match t with
    | .fin _ _ d => min a d
    | _ => a) e

/-- The exact sum of the finite terms as a multiple of `2^g`. -/
def exactSum (l : List Fp) (g : Int) : Int :=
  l.foldl (fun a t => match t with
    | .fin s m d =>
      let v : Int := (m : Int) * 2 ^ (d - g).toNat
      if s then a - v else a + v
    | _ => a) 0

/-- A sum of terms rounded once (R78). A NaN term or opposite infinities give the canonical NaN. -/
def sumTerms (f : Fmt) (mode : Nat) (l : List Fp) : Nat × Flags :=
  let fl := l.foldl (fun a t => a ||| t.sigFlag) 0
  let pos := l.any fun t => decide (t = .inf false)
  let neg := l.any fun t => decide (t = .inf true)
  if pos && neg then (f.qnan, fl ||| fNV)
  else if l.any Fp.isNan then (f.qnan, fl)
  else if pos then (f.infBits, fl)
  else if neg then (f.signBit true + f.infBits, fl)
  else
    let g := leastExp l 0
    let v := exactSum l g
    if v = 0 then
      (f.signBit (l.all Fp.sign || decide (mode = 2)), fl)
    else
      let (r, fl2) := roundFin f mode (decide (v < 0)) v.natAbs g
      (r, fl ||| fl2)

/-- Sum of two F32 words. -/
def addF (a b : W32) : W32 × Flags :=
  let (r, fl) := sumTerms f32 0 [unF32 a, unF32 b]
  (BitVec.ofNat 32 r, fl)

/-- Difference of two F32 words. -/
def subF (a b : W32) : W32 × Flags :=
  let (r, fl) := sumTerms f32 0 [unF32 a, (unF32 b).neg]
  (BitVec.ofNat 32 r, fl)

/-- A product rounded once. -/
def mulFmt (f : Fmt) (mode : Nat) (a b : Fp) : Nat × Flags :=
  let (p, fl) := a.mul b
  match p with
  | .nan _ => (f.qnan, fl)
  | .inf s => (f.signBit s + f.infBits, fl)
  | .fin s m e =>
    let (r, fl2) := roundFin f mode s m e
    (r, fl ||| fl2)

/-- Product of two F32 words. -/
def mulF (a b : W32) : W32 × Flags :=
  let (r, fl) := mulFmt f32 0 (unF32 a) (unF32 b)
  (BitVec.ofNat 32 r, fl)

/-- Sums of a first term and of products, rounded once (VFMA, VHFMA, VBFMA, ATTR). -/
def dotTerms (f : Fmt) (d : Fp) (l : List (Fp × Fp)) : Nat × Flags :=
  let ps := l.map fun e => e.1.mul e.2
  let fl := ps.foldl (fun a p => a ||| p.2) 0
  let (r, fl2) := sumTerms f 0 (d :: ps.map fun p => p.1)
  (r, fl ||| fl2)

/-- `d + a·b` rounded once. -/
def fmaF (d a b : W32) : W32 × Flags :=
  let (r, fl) := dotTerms f32 (unF32 d) [(unF32 a, unF32 b)]
  (BitVec.ofNat 32 r, fl)

/-! ## Comparison, minimum and maximum -/

/-- A value as an integer multiple of 2^g. -/
def Fp.scaled (a : Fp) (g : Int) : Int :=
  match a with
  | .fin s m e => if s then -((m : Int) * 2 ^ (e - g).toNat) else (m : Int) * 2 ^ (e - g).toNat
  | _ => 0

/-- `a < b` by exact value; false with a NaN. −0 and +0 are equal. -/
def Fp.lt (a b : Fp) : Bool :=
  match a, b with
  | .nan _, .inf _ => false
  | .nan _, _ => false
  | _, .nan _ => false
  | .inf s, .inf t => s && !t
  | .inf s, .fin _ _ _ => s
  | .fin _ _ _, .inf t => !t
  | .fin _ _ e, .fin _ _ d => decide (a.scaled (min e d) < b.scaled (min e d))

/-- `a = b` by exact value; false with a NaN. -/
def Fp.eqv (a b : Fp) : Bool := !a.isNan && !b.isNan && !a.lt b && !b.lt a

/-- −0 ordered below +0, beside the order of values. -/
def Fp.below (a b : Fp) : Bool := a.lt b || (a.eqv b && a.sign && !b.sign)

/-- VFMIN of two words (R149). -/
def minF (a b : W32) : W32 × Flags :=
  let x := unF32 a
  let y := unF32 b
  let fl := x.sigFlag ||| y.sigFlag
  if x.isNan && y.isNan then (BitVec.ofNat 32 f32.qnan, fl)
  else if x.isNan then (b, fl)
  else if y.isNan then (a, fl)
  else (if y.below x then b else a, fl)

/-- VFMAX of two words (R149). -/
def maxF (a b : W32) : W32 × Flags :=
  let x := unF32 a
  let y := unF32 b
  let fl := x.sigFlag ||| y.sigFlag
  if x.isNan && y.isNan then (BitVec.ofNat 32 f32.qnan, fl)
  else if x.isNan then (b, fl)
  else if y.isNan then (a, fl)
  else (if x.below y then b else a, fl)

/-! ## Quotients and roots (R151) -/

/-- `n·2^e / d` rounded once; `d` is not zero. -/
def divRound (f : Fmt) (mode : Nat) (s : Bool) (n d : Nat) (e : Int) : Nat × Flags :=
  let k := Nat.log2 d + 2 * f.fbits + 8
  let t := n * 2 ^ k
  roundSticky f mode s (t / d) (e - k) (decide (t % d ≠ 0))

/-- A quotient (R151). -/
def divFmt (f : Fmt) (a b : Fp) : Nat × Flags :=
  let fl := a.sigFlag ||| b.sigFlag
  match a, b with
  | .nan _, .inf _ => (f.qnan, fl)
  | .nan _, _ => (f.qnan, fl)
  | _, .nan _ => (f.qnan, fl)
  | .inf _, .inf _ => (f.qnan, fNV)
  | .inf s, .fin t _ _ => (f.signBit (s != t) + f.infBits, 0)
  | .fin s _ _, .inf t => (f.signBit (s != t), 0)
  | .fin s m e, .fin t n d =>
    if n = 0 then
      if m = 0 then (f.qnan, fNV) else (f.signBit (s != t) + f.infBits, fDZ)
    else if m = 0 then (f.signBit (s != t), 0)
    else divRound f 0 (s != t) m n (e - d)

/-- The integer square root, bit by bit from bit `k` down. -/
def isqrtFrom (n k acc : Nat) : Nat :=
  match k with
  | 0 => if (acc + 1) * (acc + 1) ≤ n then acc + 1 else acc
  | j + 1 =>
    let t := acc + 2 ^ (j + 1)
    isqrtFrom n j (if t * t ≤ n then t else acc)

/-- The integer square root. -/
def isqrt (n : Nat) : Nat := isqrtFrom n (Nat.log2 n / 2 + 1) 0

/-- A square root (R151). -/
def sqrtFmt (f : Fmt) (a : Fp) : Nat × Flags :=
  match a with
  | .nan _ => (f.qnan, a.sigFlag)
  | .inf s => if s then (f.qnan, fNV) else (f.infBits, 0)
  | .fin s m e =>
    if m = 0 then (f.signBit s, 0)
    else if s then (f.qnan, fNV)
    else
      let k : Nat := 2 * f.fbits + 8 + (if e % 2 = 0 then 0 else 1)
      let k2 : Nat := k + (if (e - k) % 2 = 0 then 0 else 1)
      let n := m * 2 ^ k2
      let r := isqrt n
      roundSticky f 0 false r ((e - k2) / 2) (decide (r * r ≠ n))

/-- A reciprocal square root (R151). -/
def rsqFmt (f : Fmt) (a : Fp) : Nat × Flags :=
  match a with
  | .nan _ => (f.qnan, a.sigFlag)
  | .inf s => if s then (f.qnan, fNV) else (0, 0)
  | .fin s m e =>
    if m = 0 then (f.signBit s + f.infBits, fDZ)
    else if s then (f.qnan, fNV)
    else
      let (m2, e2) := if e % 2 = 0 then (m, e) else (2 * m, e - 1)
      let k := 2 * (Nat.log2 m2 + 2 * f.fbits + 8)
      let n := 2 ^ k / m2
      let r := isqrt n
      roundSticky f 0 false r (-(k / 2 : Nat) - e2 / 2) (decide (r * r * m2 ≠ 2 ^ k))

/-! ## Transcendental functions (R152)

Each is computed to 320 fraction bits, rounded towards zero at each step, which is far closer than any F32 argument's
result comes to a rounding boundary; cases whose result is exact are taken out first. -/

/-- The fraction bits of a fixed-point value. -/
def fixBits : Nat := 320

/-- One in fixed point. -/
def fixOne : Nat := 2 ^ fixBits

/-- `Σ z^(2k+1)/(2k+1)` in fixed point, with the sign of each term alternating when `alt`; `t` is `z^(2k+1)`. -/
def atanhTerms (fuel k t z2 : Nat) (alt : Bool) : Int :=
  match fuel with
  | 0 => 0
  | n + 1 =>
    let v : Int := (t / (2 * k + 1) : Nat)
    (if alt && decide (k % 2 = 1) then -v else v) + atanhTerms n (k + 1) (t * z2 / fixOne) z2 alt

/-- ln 2 in fixed point: 2·atanh(1/3). -/
def fixLn2 : Nat := (2 * atanhTerms 110 0 (fixOne / 3) (fixOne / 9) false).toNat

/-- π in fixed point: 16·atan(1/5) − 4·atan(1/239). -/
def fixPi : Nat :=
  (16 * atanhTerms 75 0 (fixOne / 5) (fixOne / 25) true
    - 4 * atanhTerms 30 0 (fixOne / 239) (fixOne / 57121) true).toNat

/-- `Σ z^k/k!` in fixed point from term `t` of index `k`. -/
def expTerms (fuel k t z : Nat) : Nat :=
  match fuel with
  | 0 => 0
  | n + 1 => t + expTerms n (k + 1) (t * z / fixOne / (k + 1)) z

/-- e^z for a fixed-point z below 1. -/
def fixExp (z : Nat) : Nat := expTerms 80 0 fixOne z

/-- sin z for a fixed-point z below 2, from term `t` of index `2k + 1`. -/
def sinTerms (fuel k t z2 : Nat) : Int :=
  match fuel with
  | 0 => 0
  | n + 1 =>
    (if k % 2 = 1 then -(t : Int) else t)
      + sinTerms n (k + 1) (t * z2 / fixOne / ((2 * k + 2) * (2 * k + 3))) z2

/-- A finite value in fixed point, towards −∞. -/
def toFix (m : Nat) (e : Int) : Nat :=
  let k : Int := e + fixBits
  if 0 ≤ k then m * 2 ^ k.toNat else m / 2 ^ (-k).toNat

/-- A value just below `m·2^e`, for rounding. -/
def justBelow (f : Fmt) (s : Bool) (m : Nat) (e : Int) : Nat × Flags :=
  roundFin f 0 s (m * 2 ^ 64 - 1) (e - 64)

/-- e^(−x) or e^x for fixed-point x ≥ 0 as `2^n · v` with v fixed-point in [1, 2): from x/ln 2. -/
def expSplit (x : Nat) : Nat × Nat :=
  let n := x / fixLn2
  (n, fixExp (x % fixLn2))

/-- 2^A (R152). -/
def exp2F (x : W32) : W32 × Flags :=
  let a := unF32 x
  let (r, fl) : Nat × Flags := match a with
    | .nan _ => (f32.qnan, a.sigFlag)
    | .inf s => (if s then 0 else f32.infBits, 0)
    | .fin s m e =>
      if m = 0 then roundFin f32 0 false 1 0
      else if !s && decide (8 ≤ e + (Nat.log2 m : Nat)) then roundFin f32 0 false 1 256
      else if s && decide (9 ≤ e + (Nat.log2 m : Nat)) then roundFin f32 0 false 1 (-400)
      else
        let v := toFix m e
        let n := v / fixOne
        let fr := v % fixOne
        if fr = 0 then roundFin f32 0 false 1 (if s then -(n : Int) else n)
        else
          let g := if s then fixOne - fr else fr
          let t : Int := if s then -(n : Int) - 1 else n
          roundSticky f32 0 false (fixExp (g * fixLn2 / fixOne)) (t - fixBits) true
  (BitVec.ofNat 32 r, fl)

/-- log₂ A (R152). -/
def log2F (x : W32) : W32 × Flags :=
  let a := unF32 x
  let (r, fl) : Nat × Flags := match a with
    | .nan _ => (f32.qnan, a.sigFlag)
    | .inf s => if s then (f32.qnan, fNV) else (f32.infBits, 0)
    | .fin s m e =>
      if m = 0 then (f32.signBit true + f32.infBits, fDZ)
      else if s then (f32.qnan, fNV)
      else
        let k := Nat.log2 m
        let ex : Int := e + (k : Nat)
        if m = 2 ^ k then roundFin f32 0 (decide (ex < 0)) ex.natAbs 0
        else
          let z := (m - 2 ^ k) * fixOne / (m + 2 ^ k)
          let ln := (2 * atanhTerms 120 0 z (z * z / fixOne) false).toNat
          let v : Int := ex * fixOne + (ln * fixOne / fixLn2 : Nat)
          roundSticky f32 0 (decide (v < 0)) v.natAbs (-(fixBits : Int)) true
  (BitVec.ofNat 32 r, fl)

/-- sin(π·A) (R152). -/
def sinPiF (x : W32) : W32 × Flags :=
  let a := unF32 x
  let (r, fl) : Nat × Flags := match a with
    | .nan _ => (f32.qnan, a.sigFlag)
    | .inf _ => (f32.qnan, fNV)
    | .fin s m e =>
      if m = 0 ∨ 0 ≤ e then (f32.signBit s, 0)
      else
        let k := (-e).toNat
        let w := m % 2 ^ (k + 1)
        let neg := decide (2 ^ k ≤ w)
        let h := w % 2 ^ k
        if h = 0 then (f32.signBit s, 0)
        else
          let c := if 2 ^ k < 2 * h then 2 ^ k - h else h
          if 2 * c = 2 ^ k then roundFin f32 0 (s != neg) 1 0
          else
            let z := c * fixOne / 2 ^ k * fixPi / fixOne
            roundSticky f32 0 (s != neg) (sinTerms 60 0 z (z * z / fixOne)).toNat (-(fixBits : Int)) true
  (BitVec.ofNat 32 r, fl)

/-- tanh A (R152). -/
def tanhF (x : W32) : W32 × Flags :=
  let a := unF32 x
  let (r, fl) : Nat × Flags := match a with
    | .nan _ => (f32.qnan, a.sigFlag)
    | .inf s => roundFin f32 0 s 1 0
    | .fin s m e =>
      if m = 0 then (f32.signBit s, 0)
      else
        let top := e + (Nat.log2 m : Nat)
        if top < -20 then justBelow f32 s m e
        else if 5 ≤ top then justBelow f32 s 1 0
        else
          let (n, v) := expSplit (2 * toFix m e)
          let y := v * 2 ^ n
          roundSticky f32 0 s ((y - fixOne) * fixOne / (y + fixOne)) (-(fixBits : Int)) true
  (BitVec.ofNat 32 r, fl)

/-- 1/(1 + e^(−A)) (R152). -/
def sigF (x : W32) : W32 × Flags :=
  let a := unF32 x
  let (r, fl) : Nat × Flags := match a with
    | .nan _ => (f32.qnan, a.sigFlag)
    | .inf s => if s then (0, 0) else roundFin f32 0 false 1 0
    | .fin s m e =>
      if m = 0 then roundFin f32 0 false 1 (-1)
      else
        let top := e + (Nat.log2 m : Nat)
        if 8 ≤ top then
          if s then roundFin f32 0 false 1 (-400) else justBelow f32 false 1 0
        else
          let (n, v) := expSplit (toFix m e)
          let y := v * 2 ^ n
          if s then roundSticky f32 0 false (fixOne * fixOne / (y + fixOne)) (-(fixBits : Int)) true
          else roundSticky f32 0 false (y * fixOne / (y + fixOne)) (-(fixBits : Int)) true
  (BitVec.ofNat 32 r, fl)

/-! ## Conversions (R79) -/

/-- A finite value rounded to an integer, and whether it was inexact. -/
def roundInt (mode : Nat) (s : Bool) (m : Nat) (e : Int) : Int × Bool :=
  let (q, ix) := roundAt mode s m e 0
  (if s then -(q : Int) else q, ix)

/-- Float to S32 (R79). -/
def f2i (mode : Nat) (x : W32) : W32 × Flags :=
  match unF32 x with
  | .nan _ => (0, fNV)
  | .inf s => (if s then 0x80000000 else 0x7FFFFFFF, fNV)
  | .fin s m e =>
    let (v, ix) := roundInt mode s m e
    if v < -2147483648 then (0x80000000, fNV)
    else if 2147483647 < v then (0x7FFFFFFF, fNV)
    else (BitVec.ofInt 32 v, if ix then fNX else 0)

/-- An integer to F32 (R79). -/
def i2f (mode : Nat) (v : Int) : W32 × Flags :=
  let (r, fl) := roundFin f32 mode (decide (v < 0)) v.natAbs 0
  (BitVec.ofNat 32 r, fl)

/-- F32 to a narrower format (R79). -/
def narrowF (f : Fmt) (mode : Nat) (x : W32) : Nat × Flags :=
  let a := unF32 x
  match a with
  | .nan _ => (f.qnan, a.sigFlag)
  | .inf s => (f.signBit s + f.infBits, 0)
  | .fin s m e => roundFin f mode s m e

/-- A narrower format to F32, exactly (R79). -/
def widenF (f : Fmt) (x : Nat) : W32 × Flags :=
  let a := unpack f x
  match a with
  | .nan _ => (BitVec.ofNat 32 f32.qnan, a.sigFlag)
  | .inf s => (BitVec.ofNat 32 (f32.signBit s + f32.infBits), 0)
  | .fin s m e => (BitVec.ofNat 32 (roundFin f32 0 s m e).1, 0)

/-- VFRND of a word (R150). -/
def rndF (mode : Nat) (x : W32) : W32 × Flags :=
  let a := unF32 x
  match a with
  | .nan _ => (BitVec.ofNat 32 f32.qnan, a.sigFlag)
  | .inf _ => (x, 0)
  | .fin s m e =>
    if 0 ≤ e then (x, 0)
    else
      let (v, _) := roundInt mode s m e
      (BitVec.ofNat 32 (if v = 0 then f32.signBit s else (roundFin f32 0 s v.natAbs 0).1), 0)

/-- |x| of a word. -/
def absF (x : W32) : W32 := x &&& 0x7FFFFFFF

/-- The word is a NaN of either kind. -/
def isNanF (x : W32) : Bool := (unF32 x).isNan

/-- The word is +0 or −0. -/
def isZeroF (x : W32) : Bool := absF x = 0

end Sys2Proof.Machine
end

