-- ==== Sys2Proof/Machine/Haar.lean ====
section
/-! DEFINITION. Lanes, packed elements (R80), Q blocks (R84 to R86), and the Haar transform with its thresholds (R95 to
R98, R143). -/

namespace Sys2Proof.Machine

/-! ## Lanes -/

/-- Lane `l` of a vector. -/
def lane (v : VBits) (l : Nat) : W32 := v.extractLsb' (32 * l) 32

/-- A vector from its lanes. -/
def ofLanes (g : Nat → W32) : VBits :=
  BitVec.ofNat 512 ((List.range 16).foldr (fun l a => (g l).toNat + 2 ^ 32 * a) 0)

/-- A vector from a list of lanes; missing lanes are zero. -/
def ofLaneList (l : List W32) : VBits := ofLanes fun i => l.getD i 0

/-- The lanes of a vector. -/
def laneList (v : VBits) : List W32 := (List.range 16).map (lane v)

/-- The same word in every lane. -/
def splat (x : W32) : VBits := ofLanes fun _ => x

/-- The lanes of `new` that the mask enables over `old`. -/
def mergeLanes (m : BitVec 16) (old new : VBits) : VBits :=
  ofLanes fun l => if m.getLsbD l then lane new l else lane old l

/-- Element `k` of width `n` of a word (R80). -/
def elemOf (n : Nat) (x : W32) (k : Nat) : BitVec n := x.extractLsb' (n * k) n

/-- A word from its elements of width `n`. -/
def ofElems (n : Nat) (g : Nat → BitVec n) : W32 :=
  BitVec.ofNat 32 ((List.range (32 / n)).foldr (fun k a => (g k).toNat + 2 ^ n * a) 0)

/-- HAARL of a tag. -/
def tagLevel (t : BitVec 6) : Nat := t.toNat / 8

/-- The OR of the flags of a list. -/
def orFlags {α : Type} (l : List (α × Flags)) : Flags := l.foldl (fun a e => a ||| e.2) 0

/-! ## The transform (R95, R96) -/

/-- Half of a word, rounded (R95). -/
def halfF (x : W32) : W32 × Flags := mulF x 0x3F000000

/-- The approximation and the detail of a pair (R95). -/
def haarPair (x y : W32) : W32 × W32 × Flags :=
  let (s, f1) := addF x y
  let (a, f2) := halfF s
  let (d, f3) := subF x y
  let (e, f4) := halfF d
  (a, e, f1 ||| f2 ||| f3 ||| f4)

/-- One level over a list: approximations, details, flags. -/
def haarLevel (l : List W32) : List W32 × List W32 × Flags :=
  match l with
  | x :: y :: r =>
    let (a, d, f) := haarPair x y
    let (as, ds, g) := haarLevel r
    (a :: as, d :: ds, f ||| g)
  | _ => ([], [], 0)

/-- A segment in tree order after `n` levels (R96). -/
def haarFwd (n : Nat) (l : List W32) : List W32 × Flags :=
  match n with
  | 0 => (l, 0)
  | k + 1 =>
    let (a, d, f) := haarLevel l
    let (t, g) := haarFwd k a
    (t ++ d, f ||| g)

/-- Pairs of approximation and detail turned back (R95). -/
def haarJoin (a d : List W32) : List W32 × Flags :=
  match a, d with
  | x :: as, y :: ds =>
    let (p, f1) := addF x y
    let (q, f2) := subF x y
    let (r, g) := haarJoin as ds
    (p :: q :: r, f1 ||| f2 ||| g)
  | _, _ => ([], 0)

/-- The elements of a segment from its tree order: `cur` reconstructed so far, `rest` the details still to use. -/
def haarInvFrom (n : Nat) (cur rest : List W32) : List W32 × Flags :=
  match n with
  | 0 => (cur, 0)
  | k + 1 =>
    let (c, f) := haarJoin cur (rest.take cur.length)
    let (r, g) := haarInvFrom k c (rest.drop cur.length)
    (r, f ||| g)

/-- The elements of a segment of `2^n` positions (R96). -/
def haarInv (n : Nat) (t : List W32) : List W32 × Flags := haarInvFrom n (t.take 1) (t.drop 1)

/-- Every segment of `2^n` lanes of a vector changed by `g` (R143). -/
def onSegments (n : Nat) (g : List W32 → List W32 × Flags) (v : VBits) : VBits × Flags :=
  let r := (List.range (16 / 2 ^ n)).map fun s => g (((laneList v).drop (s * 2 ^ n)).take (2 ^ n))
  (ofLaneList (r.flatMap fun e => e.1), orFlags r)

/-- The F32 reconstruction of a tagged vector, with the flags that HINV sets (R143, R161). -/
def reconstruct (v : VBits) (t : BitVec 6) : VBits × Flags := onSegments (tagLevel t) (haarInv (tagLevel t)) v

/-! ## Thresholds (R97, R109) -/

/-- A detail of magnitude D survives a threshold register for approximations of magnitude A (R97). A NaN among the
channels is passed as `nan`. -/
def survives (th : W32) (amax dmax : W32) (nan : Bool) : Bool :=
  let mag := th &&& 0x7FFFFFFF
  if nan then true
  else if isZeroF mag || isNanF mag then true
  else
    let t := if th.getLsbD 31 then (mulF mag amax).1 else mag
    if isNanF t then true else !(unF32 dmax).lt (unF32 t)

/-- The larger of two magnitudes; a NaN gives NaN. -/
def magMax (a b : W32) : W32 :=
  if isNanF a then a else if isNanF b then b else if (unF32 a).lt (unF32 b) then b else a

/-! ## Q blocks (R84 to R86) -/

/-- The magnitude bits of a Q format code; 3 is no format. -/
def qBits (fmt : Nat) : Nat :=
  match fmt with
  | 0 => 2
  | 1 => 4
  | _ => 7

/-- The bytes of a block (R84). -/
def qBytes (fmt : Nat) : Nat :=
  match fmt with
  | 0 => 8
  | 1 => 12
  | _ => 18

/-- A decoded Q element: `(−1)^s·m·2^(e − 127 − F − μ)` as F32 bits (R85). -/
def qValue (fb e mu : Nat) (s : Bool) (m : Nat) : W32 :=
  if m = 0 then 0
  else BitVec.ofNat 32 (roundFin f32 0 s m ((e : Int) - 127 - fb - mu)).1

/-- The 16 elements of a block held as a little-endian number; an error block reads as zeros (R85). -/
def qDecode (fmt : Nat) (blk : Nat) : List W32 × Bool :=
  let fb := qBits fmt
  let e := blk % 256
  let mus := blk / 256 % 256
  if e = 255 then (List.replicate 16 0, true)
  else if e = 0 then (List.replicate 16 0, false)
  else
    ((List.range 16).map fun j =>
      let x := blk / 65536 / 2 ^ ((1 + fb) * j) % 2 ^ (1 + fb)
      qValue fb e (mus / 2 ^ (j / 2) % 2) (decide (x / 2 ^ fb = 1)) (x % 2 ^ fb), false)

/-- A magnitude of an F32 value: the natural multiple of 2^-149, none for ∞. -/
def magUnits (x : W32) : Option Nat :=
  match unF32 x with
  | .fin _ m e => some (m * 2 ^ (e + 149).toNat)
  | _ => none

/-- `n` multiples of 2^-149 divided by 2^k, to the nearest integer, ties to even; and whether it is exact. -/
def unitsDiv (n : Nat) (k : Int) : Nat × Bool :=
  let (q, ix) := roundAt 0 false n (-149) k
  (q, !ix)

/-- The Q block of 16 F32 values as a little-endian number, with its flags (R86). -/
def qEncode (fmt : Nat) (xs : List W32) : Nat × Flags :=
  let fb := qBits fmt
  if xs.any isNanF then (255, fNV)
  else
    let mags := xs.map magUnits
    let anyInf := mags.any fun m => decide (m = none)
    let big := mags.foldl (fun a m => match m with
      | some n => Nat.max a n
      | none => a) 0
    if !anyInf && decide (big = 0) then (0, 0)
    else
      let e0 : Int := if anyInf then 127 + 128 else (Nat.log2 big : Nat) - 149 + 128
      let e1 := if !anyInf && decide ((unitsDiv big (e0 - 127 - fb)).1 = 2 ^ fb) then e0 + 1 else e0
      let e : Nat := (max 1 (min e1 254)).toNat
      let low (m : Option Nat) : Bool := match m with
        | some n => anyInf || decide (2 * n < big)
        | none => false
      let mu (i : Nat) : Nat := if low (mags.getD (2 * i) none) && low (mags.getD (2 * i + 1) none) then 1 else 0
      let mus := (List.range 8).foldr (fun i a => mu i + 2 * a) 0
      let el (j : Nat) : Nat × Flags :=
        let x := xs.getD j 0
        match mags.getD j none with
        | none => (2 ^ fb - 1 + (if x.getLsbD 31 then 2 ^ fb else 0), fQS ||| fNX)
        | some n =>
          let (q, exact) := unitsDiv n ((e : Int) - 127 - fb - mu (j / 2))
          let m := Nat.min q (2 ^ fb - 1)
          let sat := decide (2 ^ fb ≤ q)
          ((if x.getLsbD 31 && decide (m ≠ 0) then 2 ^ fb else 0) + m,
            (if sat then fQS else 0) ||| (if sat || !exact then fNX else 0)
              ||| (if decide (n ≠ 0) && decide (m = 0) then fUF else 0))
      let els := (List.range 16).map el
      let pay := els.foldr (fun p a => p.1 + 2 ^ (1 + fb) * a) 0
      (e + 256 * mus + 65536 * pay, orFlags els)

end Sys2Proof.Machine
end

