-- ==== Sys2Proof/Machine/Operands.lean ====
section
/-! DEFINITION. The operands of an instruction: what each selector reads, what each destination takes, the spatial reading
of tagged vectors and the masked write (R26, R27, R32, R57, R61, R101 to R103, R115 to R117, R143, R144). -/

namespace Sys2Proof

/-! ## Token words (R55 to R57) -/

/-- The header word `h` of a token (R56, R57). -/
def Token.header (k : Token) (h : Nat) : W32 :=
  let n : Nat := k.lts % 2 ^ 48 + k.gen.toNat * 2 ^ 48 + k.haar.toNat * 2 ^ 52
    + k.dest % 64 * 2 ^ 58 + k.dest / 64 % 64 * 2 ^ 64 + k.dest / 4096 % 8 * 2 ^ 70
    + k.nflit.toNat * 2 ^ 73 + k.dport.toNat * 2 ^ 76 + k.stag.toNat * 2 ^ 79 + k.itag.toNat * 2 ^ 95
    + k.level.toNat * 2 ^ 107 + k.kind.toNat * 2 ^ 110 + (if k.err then 2 ^ 112 else 0)
    + k.ctx.toNat * 2 ^ 113 + k.cls.toNat * 2 ^ 120
  BitVec.ofNat 32 (n / 2 ^ (32 * h))

/-- The token of a header, without payload (R56). -/
def Token.ofHeader (h : BitVec 128) : Token :=
  { cls := h.extractLsb' 120 8, ctx := h.extractLsb' 113 7, err := h.getLsbD 112, kind := h.extractLsb' 110 2
    level := h.extractLsb' 107 3, itag := h.extractLsb' 95 12, stag := h.extractLsb' 79 16, dport := h.extractLsb' 76 3
    nflit := h.extractLsb' 73 3, dest := (h.extractLsb' 58 15).toNat, haar := h.extractLsb' 52 6, gen := h.extractLsb' 48 4
    lts := (h.extractLsb' 0 48).toNat }

/-- The payload as its consumer sees it: words from 4·NFLIT up read zero (R55). -/
def Token.words (k : Token) : VBits :=
  Machine.ofLanes fun l => if l < 4 * k.nflit.toNat then Machine.lane k.pay l else 0

/-- Word `w` of a token: payload 0 to 15, header 16 to 19 (R57). -/
def Token.word (k : Token) (w : Nat) : W32 := if w < 16 then Machine.lane k.words w else k.header (w - 16)

end Sys2Proof

namespace Sys2Proof.Machine

/-- A discarding fault that an instruction raises: its code (R324), TVAL, VAHI and where a walk stopped (R325), and the
rank it is recorded at when that is not the berth's (R330). -/
structure Trap where
  code : BitVec 8
  tval : W32 := 0
  vahi : BitVec 20 := 0
  wstg : Bool := false
  wlvl : BitVec 3 := 0
  rank : Option (BitVec 3) := none
  deriving DecidableEq, Repr

/-- What an instruction on registers sees and changes: its tile, its firing, its berth record, and the charges it adds to
its own class. -/
structure View where
  tile : Nat := 0
  t : Tile := {}
  f : Firing := {}
  c : TileCfg := {}
  b : BerthRec := {}
  extra : List (Nat × Nat) := []
  deriving DecidableEq, Repr

/-- F_BOUNDS. -/
def trapBounds (x : W32) : Trap := { code := 0x04, tval := x }

/-- F_FRAME_ABSENT. -/
def trapAbsent (x : W32) : Trap := { code := 0x05, tval := x }

/-- F_DOMAIN with a tag in TVAL (R116). -/
def trapDomain (t : BitVec 6) : Trap := { code := 0x06, tval := t.setWidth 32 }

/-! ## Reading -/

/-- Bound token `t` of port `n`. -/
def Firing.token (f : Firing) (n t : Nat) : Token := (f.bound.get [] n).getD t {}

/-- The frame of the firing's activation (R26). -/
def View.frame (v : View) : Frame := v.t.frames.get {} v.f.fp

/-- A frame slot is read (R32). -/
def View.slot (v : View) (n : Nat) : Except Trap W32 :=
  let fr := v.frame
  if fr.size ≤ n then .error (trapBounds (BitVec.ofNat 32 n))
  else if fr.pres.get false n then .ok (fr.slots.get 0 n)
  else .error (trapAbsent (BitVec.ofNat 32 n))

/-- Predicate `n`; p0 reads true (R101). -/
def View.pred (v : View) (n : Nat) : Bool := decide (n = 0) || v.f.p.getLsbD n

/-- Lane mask `n`; m0 reads 0xFFFF (R101). -/
def View.mask (v : View) (n : Nat) : BitVec 16 := if n = 0 then 0xFFFF else v.f.m.get 0xFFFF n

/-- The word that a selector gives in a scalar position (R61). -/
def View.src (v : View) (o : Opnd) : Except Trap W32 :=
  match o with
  | .w n => .ok (v.f.w.get 0 n.toNat)
  | .v n => .ok (lane (v.f.v.get {} n.toNat).bits 0)
  | .i n => .ok (lane (v.f.token n.toNat 0).words 0)
  | .o n => .ok (lane (v.f.o.get {} n.toNat).bits 0)
  | .z => .ok 0
  | .lx => .ok 0
  | .fp => .ok (BitVec.ofNat 32 v.f.fp)
  | .it => .ok (v.f.itag.setWidth 32)
  | .sq => .ok (v.f.sq.setWidth 32)
  | .xy => .ok (coordWord v.tile)
  | .st => .ok (BitVec.ofNat 32 v.f.stage)
  | .cx => .ok (v.f.cx.setWidth 32)
  | .k n => .ok (v.c.consts.get 0 n.toNat)
  | .f n => v.slot n.toNat

/-- The stored bits and the tag of a vector position (R61, R62, R115). -/
def View.vec (v : View) (o : Opnd) : Except Trap VReg :=
  match o with
  | .v n => .ok (v.f.v.get {} n.toNat)
  | .o n => .ok (v.f.o.get {} n.toNat)
  | .i n => .ok { bits := (v.f.token n.toNat 0).words, tag := (v.f.token n.toNat 0).haar }
  | .lx => .ok { bits := ofLanes fun l => BitVec.ofNat 32 l }
  | _ =>
    match v.src o with
    | .ok x => .ok { bits := splat x }
    | .error e => .error e

/-- spatial(x) of R116. -/
def VReg.spatial (x : VReg) : Except Trap VBits :=
  if x.tag = 0 then .ok x.bits
  else if 4 < tagLevel x.tag then .error (trapDomain x.tag)
  else .ok (reconstruct x.bits x.tag).1

/-- A vector source read through spatial() (R116). -/
def View.spatial (v : View) (o : Opnd) : Except Trap VBits :=
  match v.vec o with
  | .ok x => x.spatial
  | .error e => .error e

/-- The tag of a selector in a vector position. -/
def View.tagOf (v : View) (o : Opnd) : BitVec 6 :=
  match o with
  | .v n => (v.f.v.get {} n.toNat).tag
  | .o n => (v.f.o.get {} n.toNat).tag
  | .i n => (v.f.token n.toNat 0).haar
  | _ => 0

/-- EC28 for each level of each different tagged operand of a list, each reconstructed once (R144). -/
def View.bill (v : View) (l : List Opnd) : View :=
  { v with extra := v.extra ++ ((l.eraseDups.map fun o => (28, tagLevel (v.tagOf o))).filter fun e => decide (e.2 ≠ 0)) }

/-! ## Writing -/

/-- Flags set in ASTAT (R82). -/
def View.flag (v : View) (f : Flags) : View := { v with t := { v.t with astat := v.t.astat ||| f } }

/-- A predicate destination; p0 discards (R101). -/
def View.setPred (v : View) (n : Nat) (x : Bool) : View :=
  if n = 0 then v
  else
    let b : BitVec 8 := BitVec.twoPow 8 n
    { v with f := { v.f with p := if x then v.f.p ||| b else v.f.p &&& ~~~b } }

/-- A mask destination; m0 discards (R101, R122). -/
def View.setMask (v : View) (n : Nat) (x : BitVec 16) : View :=
  if n = 0 then v else { v with f := { v.f with m := v.f.m.set 0xFFFF n x } }

/-- A frame slot is written: its presence bit is set (R32). -/
def View.setSlot (v : View) (n : Nat) (x : W32) : Except Trap View :=
  let fr := v.frame
  if fr.size ≤ n then .error (trapBounds (BitVec.ofNat 32 n))
  else
    let fr2 := { fr with slots := fr.slots.set 0 n x, pres := fr.pres.set false n true }
    .ok { v with t := { v.t with frames := v.t.frames.put v.f.fp fr2 } }

/-- A vector register or staging payload is replaced. -/
def View.setVec (v : View) (o : Opnd) (x : VReg) : View :=
  match o with
  | .v n => { v with f := { v.f with v := v.f.v.set {} n.toNat x } }
  | .o n => { v with f := { v.f with o := v.f.o.set {} n.toNat x } }
  | _ => v

/-- The masked write of R117: `paid` names the operands that the instruction has already reconstructed. -/
def View.vput (v : View) (o : Opnd) (m : BitVec 16) (x : VReg) (paid : List Opnd) : Except Trap View :=
  if m = 0 then .ok v
  else
    let old := match o with
      | .v n => v.f.v.get {} n.toNat
      | .o n => v.f.o.get {} n.toNat
      | _ => {}
    if m ≠ 0xFFFF ∧ old.tag ≠ x.tag then
      match old.spatial, x.spatial with
      | .error e, _ => .error e
      | .ok _, .error e => .error e
      | .ok p, .ok q =>
        let v1 := if paid.contains o then v else v.bill [o]
        let v2 := if x.tag = 0 then v1 else { v1 with extra := v1.extra ++ [(28, tagLevel x.tag)] }
        .ok (v2.setVec o { bits := mergeLanes m p q, tag := 0 })
    else .ok (v.setVec o { bits := mergeLanes m old.bits x.bits, tag := x.tag })

/-- A scalar destination (R61, R115): o0 to o3 take word 0 by the masked write (R117). -/
def View.put (v : View) (o : Opnd) (x : W32) : Except Trap View :=
  match o with
  | .w n => .ok { v with f := { v.f with w := v.f.w.set 0 n.toNat x } }
  | .o _ => v.vput o 1 { bits := splat x } []
  | .sq => .ok { v with f := { v.f with sq := x.setWidth 16 } }
  | .f n => v.setSlot n.toNat x
  | _ => .ok v

end Sys2Proof.Machine
end

