-- ==== Sys2Proof/Machine/Flags.lean ====
section
/-! DEFINITION. Lane-wise results with the flags of the enabled lanes only (R78, R82, R117, R147), and the conditions that
compares test (R120, R121). -/

namespace Sys2Proof.Machine

/-- The results of the enabled lanes with the OR of their flags; a disabled lane is not computed (R117, R147). -/
def laneResults (m : BitVec 16) (g : Nat → W32 × Flags) : VBits × Flags :=
  let l := (List.range 16).map fun i => if m.getLsbD i then g i else (0, 0)
  (ofLaneList (l.map fun e => e.1), orFlags l)

/-- The results of a lane-wise operation that sets no flag. -/
def laneWords (m : BitVec 16) (g : Nat → W32) : VBits := ofLanes fun i => if m.getLsbD i then g i else 0

/-- A lane mask from a test of each enabled lane. -/
def laneTest (m : BitVec 16) (g : Nat → Bool) : BitVec 16 :=
  BitVec.ofNat 16 ((List.range 16).foldr (fun i a => (if m.getLsbD i && g i then 1 else 0) + 2 * a) 0)

/-- The integer conditions of R120. -/
inductive Cond where
  | eq | ne | lt | ltu
  deriving DecidableEq, Repr

/-- An integer condition on two words (R120). -/
def Cond.holds (c : Cond) (a b : W32) : Bool :=
  match c with
  | .eq => decide (a = b)
  | .ne => decide (a ≠ b)
  | .lt => a.slt b
  | .ltu => a.ult b

/-- The F32 conditions of R121. -/
inductive FCond where
  | eq | lt | le | un
  deriving DecidableEq, Repr

/-- An F32 condition on two words (R121). No flag is set. -/
def FCond.holds (c : FCond) (a b : W32) : Bool :=
  let x := unF32 a
  let y := unF32 b
  match c with
  | .eq => x.eqv y
  | .lt => x.lt y
  | .le => x.lt y || x.eqv y
  | .un => x.isNan || y.isNan

end Sys2Proof.Machine
end

