-- ==== Sys2Proof/Machine/Net.lean ====
section
/-! DEFINITION. Channels and credits (R23, R48, R260 to R263, R399), the FIFOs and operand places of a tile (R34, R36),
lanes (R279), and the frames of a tile (R32, R33, R37, R400). -/

namespace Sys2Proof.Machine

/-! ## Stages and replicas (R45 to R48) -/

/-- The key of a partition's stage on a die. -/
def stageKey (part stage die : Nat) : Nat := (part * 64 + stage) * 8 + die

/-- What stands at a replica number that no replica has. A replica keeps its number while it has its tile, and a clone takes the
lowest free one: the manual does not say how replicas are numbered when one leaves while others come (log 93). -/
def gapTile : Nat := 2 ^ 31

/-- The tiles of the replicas of the berth `b` placed on tile `t`, by replica number. -/
def State.replicaRow (s : State) (t b : Nat) : List Nat :=
  match s.hd.stages.look (stageKey (s.tcfg t).part (s.berth t b).stage.toNat (dieOfTile t)) with
  | some e => if e.tiles.contains t then e.tiles else [t]
  | none => [t]

/-- The tiles that hold the replicas of the berth `b` placed on tile `t`, in replica order. A replica that has left the
distribution set counts until its tile is released: R110 does not say whether REPL still counts one that drains (log 93). -/
def State.replicas (s : State) (t b : Nat) : List Nat := (s.replicaRow t b).filter fun u => !decide (u = gapTile)

/-- The replica on tile `t` of the stage of a berth is being removed, or no replica has that number (R47). -/
def State.leaving (s : State) (e : EndPt) (t : Nat) : Bool :=
  decide (t = gapTile) ||
    match e with
    | .berth u b _ =>
      (match s.hd.stages.look (stageKey (s.tcfg u).part (s.berth u b).stage.toNat (dieOfTile u)) with
       | some e => e.removing.contains t
       | none => false)
    | _ => false

/-- A channel of the chart names the port itself, as its producer when `src` holds. -/
def State.ownEnd (s : State) (src : Bool) (t b p : Nat) : Bool :=
  s.cfg.chans.any fun e => decide ((if src then e.2.src else e.2.dst) = .berth t b p)

/-- The tile that an end of a channel names. Ends without a tile have the place 0. -/
def endTile (e : EndPt) : Nat :=
  match e with
  | .berth t _ _ => t
  | .task c => chanTile c 4
  | .grid t => t
  | _ => 0

/-- The tiles at an end of a channel, by replica number: its distribution set, where the end is a stage's. A replica that the
chart gives a channel of its own there is no part of another's (R20; log 94). -/
def State.endTiles (s : State) (src : Bool) (e : EndPt) : List Nat :=
  match e with
  | .berth t b p =>
    (match s.replicaRow t b with
     | [u] => [u]
     | l => l.filter fun u => decide (u = t) || !s.ownEnd src u b p)
  | e => [endTile e]

/-- The tiles of a channel's producers. -/
def State.srcTiles (s : State) (c : ChanCfg) : List Nat := s.endTiles true c.src

/-- The tiles of a channel's consumers. -/
def State.dstTiles (s : State) (c : ChanCfg) : List Nat := s.endTiles false c.dst

/-- The end is port `p` of berth `b`. -/
def isPort (e : EndPt) (b p : Nat) : Bool :=
  match e with
  | .berth _ c q => decide (c = b) && decide (q = p)
  | _ => false

/-- The channels that leave output port `p` of berth `b` on tile `t`. -/
def State.chansFrom (s : State) (t b p : Nat) : List Nat :=
  (s.cfg.chans.filter fun e => decide (e.2.part = (s.tcfg t).part) && isPort e.2.src b p && (s.srcTiles e.2).contains t).map fun e => e.1

/-! ## Credits (R261, R262) -/

/-- The key of the credits that producer replica `p` holds towards consumer replica `c` of a channel. -/
def credKey (chan c p : Nat) : Nat := (chan * 64 + c) * 64 + p

/-- Free credits of a producer replica. -/
def State.credits (s : State) (chan c p : Nat) : Nat := s.net.credits.get 0 (credKey chan c p)

/-- `s` with free credits added. -/
def State.addCredits (s : State) (chan c p n : Nat) : State :=
  s.modNet fun w => { w with credits := w.credits.set 0 (credKey chan c p) (w.credits.get 0 (credKey chan c p) + n) }

/-- `s` with free credits taken. -/
def State.takeCredits (s : State) (chan c p n : Nat) : State :=
  s.modNet fun w => { w with credits := w.credits.set 0 (credKey chan c p) (w.credits.get 0 (credKey chan c p) - n) }

/-- The credits of consumer replica `crep`'s FIFO, `n` of them, go to the producer replicas of a channel in turn (R261, R262). -/
def State.shareCredits (s : State) (c : ChanCfg) (chan crep n : Nat) : State :=
  let ps := ((enumFrom 0 (s.srcTiles c)).filter fun e => !decide (e.2 = gapTile)).map fun e => e.1
  (List.range n).foldl (fun (a : State) i => a.addCredits chan crep (ps.getD (i % Nat.max 1 ps.length) 0) 1) s

/-- The replica with the largest number among the first `n`, ties to the lowest. -/
def bestReplica (n : Nat) (f : Nat → Nat) : Nat :=
  match n with
  | 0 => 0
  | k + 1 =>
    let b := bestReplica k f
    if f b < f k then k else b

/-- The consumer replica that a producer reserves in: the one with the most free credits, ties to the lowest; a replica
being removed takes no new reservation (R47, R48). -/
def State.pickReplica (s : State) (chan prep : Nat) : Nat :=
  match s.chan chan with
  | none => 0
  | some c =>
    let tiles := s.dstTiles c
    bestReplica tiles.length fun k => if s.leaving c.dst (tiles.getD k 0) then 0 else s.credits chan k prep

/-! ## Routes (R263, R399) -/

/-- The crossing time of a lane (R399). The model numbers the lanes of die edges below 32, those of harbour links below 48,
and the two directions of Oroti link port `p` 64 + 2p, away from the device, and 65 + 2p. -/
def laneCross (l : Nat) : Nat := if l < 32 then 12 else if l < 48 then 20 else 180

/-- A lane begins on the mesh of a die: not at the harbour die, nor on another device. -/
def leavesMesh (l : Nat) : Bool := decide (l < 32) || decide (l % 2 = 0)

/-- A lane ends on the mesh of a die. -/
def entersMesh (l : Nat) : Bool := decide (l < 32) || decide (l % 2 = 1)

/-- The mesh hops between two tiles, none where one end is off the mesh. -/
def meshHops (a b : Option Nat) : Nat :=
  match a, b with
  | some x, some y => hops x y
  | _, _ => 0

/-- The mesh hops of a route on every die that it crosses (R399). -/
def routeHops (a : Option Nat) (r : List Leg) (b : Option Nat) : Nat :=
  match r with
  | [] => meshHops a b
  | l :: r => (if leavesMesh l.lane then meshHops a (some l.out) else 0) + routeHops (if entersMesh l.lane then some l.inn else none) r b

/-- The hops of a channel from the tile `a` of its producer to the tile `b` of its consumer. -/
def ChanCfg.hopsOf (c : ChanCfg) (a b : Nat) : Nat := routeHops (some a) c.route (some b)

/-- The fc that a token or credit takes between the producer's tile `a` and the consumer's tile `b` of a channel, without
waiting: the mesh hops on every die, and the crossings of a cut edge (R263, R399). -/
def travel (c : ChanCfg) (a b : Nat) : Nat := c.route.foldl (fun n l => n + laneCross l.lane) (c.hopsOf a b)

/-! ## Lanes (R278, R279) -/

/-- A lane of the model. -/
def State.tlane (s : State) (l : Nat) : Lane := s.net.lanes.get {} l

/-- `s` with a lane changed. -/
def State.modLane (s : State) (l : Nat) (f : Lane → Lane) : State :=
  s.modNet fun w => { w with lanes := w.lanes.set {} l (f (w.lanes.get {} l)) }

/-- A sequence tag is later than another (R38). -/
def isLater (a b : BitVec 16) : Bool := decide (0 < (a - b).toNat) && decide ((a - b).toNat < 2 ^ 15)

/-- Token `id` behind those that wait on a virtual channel. A channel with several producer replicas retires by sequence tag:
there it goes before the first token of its channel with a later one, and `laneHeld` keeps it while an earlier one may still come
(R48; log 94). -/
def State.vcInsert (s : State) (q : List Nat) (id : Nat) : List Nat :=
  match s.net.flights.look id with
  | none => q ++ [id]
  | some fl =>
    let several : Bool := match s.chan fl.chan with
      | some c => decide (1 < (s.srcTiles c).length)
      | none => false
    let behind (k : Nat) : Bool := match s.net.flights.look k with
      | some g => decide (g.chan = fl.chan) && isLater g.tok.stag fl.tok.stag
      | none => false
    if several then q.takeWhile (fun k => !behind k) ++ id :: q.dropWhile (fun k => !behind k) else q ++ [id]

/-- A token on a virtual channel waits for its turn in sequence-tag order: a replica of its channel's producer still has, in its
FIFO, on the way there or bound to a firing, a trigger token with an earlier tag, whose firing may send one (R48; log 94). -/
def State.laneHeld (s : State) (id : Nat) : Bool :=
  match s.net.flights.look id with
  | none => false
  | some fl =>
    match s.chan fl.chan with
    | none => false
    | some c =>
      match c.src with
      | .berth t b _ =>
        let ts := (s.srcTiles c).filter fun u => !decide (u = gapTile)
        let p := ((List.range 4).find? fun k => decide (0 < (s.berth t b).rates.toNat / 2 ^ (3 * k) % 8)).getD 4
        let before (g : BitVec 16) : Bool := isLater fl.tok.stag g
        decide (1 < ts.length) && (ts.any (fun u =>
            (s.tileAt u).slots.any (fun e => decide (e.2.berth = b) && before e.2.stag)
              || (s.tileAt u).wait.any fun w => decide (w.berth = b) && decide (w.port = p) && before w.tok.stag)
          || s.net.flights.any fun e => before e.2.tok.stag && ts.contains e.2.tok.dest &&
            match s.chan e.2.chan with
            | some d => isPort d.dst b p
            | none => false)
      | _ => false

/-- A token joins its virtual channel; the lane's round goes on in the next fc when nothing was waiting. -/
def State.laneJoin (s : State) (l vc id : Nat) : State :=
  let busy := (s.tlane l).vcs.any fun e => !e.2.isEmpty
  let s1 := s.modLane l fun x => { x with vcs := x.vcs.set [] vc (s.vcInsert (x.vcs.get [] vc) id) }
  if busy then s1 else s1.after 1 .roundMarkerSend { a := l }

/-! ## Sending (R29, R56, R263) -/

/-- The first fc in which a token can land behind those already on their way to one FIFO. -/
def State.behind (s : State) (chan crep due : Nat) : Nat :=
  s.net.flights.foldl (fun a e =>
    if e.2.chan = chan ∧ e.2.crep = crep then Nat.max a (e.2.header + e.2.tok.nflit.toNat + 1) else a) due

/-- A token enters the injection port of tile `t`, behind the flits that entered it before, for replica `crep` of a channel
(R263, R279, R399). The header takes its destination here, and each flit's hops are charged to its context (R281). -/
def State.sendToken (s : State) (t chan crep : Nat) (k : Token) : State :=
  match s.chan chan with
  | none => s
  | some c =>
    let dt := (s.dstTiles c).getD crep 0
    let dp : BitVec 3 := match c.dst with
      | .berth _ _ p => BitVec.ofNat 3 p
      | _ => 0
    let tok := { k with dest := dt, dport := dp }
    let at_ := Nat.max s.now (s.tileAt t).inject
    let due := s.behind chan crep (at_ + 1 + travel c t dt)
    let (id, s1) := (s.modTile t fun x => { x with inject := at_ + 1 + tok.nflit.toNat }).fresh
    let legs := c.route.map fun l => l.lane
    let s2 := s1.modNet fun w =>
      { w with flights := w.flights.put id { chan := chan, crep := crep, tok := tok, header := due, legs := legs.drop 1 } }
    let s3 := s2.charge t (if c.part = agentPart then 128 else tok.ctx.toNat) 60 ((1 + tok.nflit.toNat) * (c.hopsOf t dt + legs.length))
    match legs with
    | l :: _ => s3.laneJoin l c.vc id
    | [] => s3.atFc due .tokenArrival { a := id }

/-! ## Frames (R32, R33, R400) -/

/-- The frame-table index of the live frame of a berth and tag. -/
def Tile.frameOf (t : Tile) (b : Nat) (g : BitVec 12) : Option Nat :=
  (t.frames.find? fun e => decide (e.2.berth = b) && decide (e.2.tag = g)).map fun e => e.1

/-- The bytes that a frame of `n` slots takes: its slots and its presence bits, in whole 64-byte units (R400). -/
def frameBytes (n : Nat) : Nat := 64 * ((4 * n + 4 * ((n + 31) / 32) + 63) / 64)

/-- The least offset from `o` at which `n` bytes fit between the frames of a tile whose frame store ends at `e`. -/
def frameGap (fs : List (Nat × Frame)) (o n e fuel : Nat) : Option Nat :=
  match fuel with
  | 0 => none
  | k + 1 =>
    if e < o + n then none
    else
      match fs.find? fun x => decide (x.2.off < o + n) && decide (o < x.2.off + x.2.bytes) with
      | none => some o
      | some x => frameGap fs (x.2.off + x.2.bytes) n e k

/-- The lowest-numbered free entry of the frame table, from entry `k` up. -/
def freeEntry (fs : Map Frame) (k fuel : Nat) : Option Nat :=
  match fuel with
  | 0 => none
  | n + 1 => if (fs.look k).isNone then some k else freeEntry fs (k + 1) n

/-- A tile with a frame of berth `b` and tag `g` of `n` slots allocated, when an entry and space are free (R32, R37, R400).
The manual leaves open which free entry and which run of bytes: the model takes the lowest of each (log 12). -/
def Tile.allocFrame (t : Tile) (c : TileCfg) (b : Nat) (g : BitVec 12) (n : Nat) : Option Tile :=
  let bytes := frameBytes n
  match freeEntry t.frames 0 32, frameGap t.frames (c.scratch + c.codeBytes) bytes 65536 64 with
  | some k, some o =>
    some { t with frames := t.frames.put k { berth := b, tag := g, size := n, off := o, bytes := bytes } }
  | _, _ => none

/-- A tile without a frame-table entry. -/
def Tile.dropFrame (t : Tile) (k : Nat) : Tile := { t with frames := t.frames.drop k }

/-- The spill area of port `p` in a frame of `n` slots begins at this slot (R33). -/
def spillSlot (n p : Nat) : Nat := n - 20 * (p + 1)

/-- A frame with an operand written to its spill area (R34 rule 2). -/
def Frame.spill (fr : Frame) (p : Nat) (k : Token) : Frame :=
  let o := spillSlot fr.size p
  let ws := (List.range 4).map (fun h => (o + h, k.header h))
    ++ (List.range (4 * k.nflit.toNat)).map fun w => (o + 4 + w, lane k.pay w)
  { fr with
    slots := ws.foldl (fun m e => m.set 0 e.1 e.2) fr.slots
    pres := ws.foldl (fun m e => m.set false e.1 true) fr.pres }

/-- A frame with the presence bits of a spill area cleared (R36). -/
def Frame.unspill (fr : Frame) (p : Nat) : Frame :=
  { fr with pres := (upFrom (spillSlot fr.size p) 20).foldl (fun m k => m.set false k false) fr.pres }

/-- An operand as its spill area now holds it: the program may have written those slots (R33, R103). -/
def Frame.unspilled (fr : Frame) (p : Nat) (k : Token) : Token :=
  let o := spillSlot fr.size p
  let h : Nat := (List.range 4).foldr (fun i a => (fr.slots.get 0 (o + i)).toNat + 2 ^ 32 * a) 0
  { Token.ofHeader (BitVec.ofNat 128 h) with
    dest := k.dest, task := k.task, handled := k.handled
    pay := ofLanes fun l => if fr.pres.get false (o + 4 + l) then fr.slots.get 0 (o + 4 + l) else 0 }

/-! ## FIFOs and operand places -/

/-- The consumer frees the place that a credit stands for; the credit goes to the next producer replica (R261, R262). -/
def State.freeCredit (s : State) (t chan crep : Nat) : State :=
  match s.chan chan with
  | none => s
  | some c =>
    let ps := s.srcTiles c
    let rr := s.net.creditRr.get 0 (chan * 64 + crep)
    let order := (List.range ps.length).map fun i => (rr + i) % ps.length
    let p := (order.find? fun i => !s.leaving c.src (ps.getD i 0)).getD 0
    let s1 := s.modNet fun w => { w with creditRr := w.creditRr.set 0 (chan * 64 + crep) ((p + 1) % Nat.max 1 ps.length) }
    s1.after (travel c (ps.getD p 0) t + 1) .creditReturn { a := chan, b := crep, c := p }

/-- `s` without one waiting token of tile `t`. -/
def State.dropWaiting (s : State) (t id : Nat) : State :=
  s.modTile t fun x => { x with wait := x.wait.filter fun w => !decide (w.id = id) }

/-- A waiting token is consumed or discarded: its place is freed (R28, R36, R261). Operands that had left their pool slot
gave its credit back when they left it (R34). -/
def State.consume (s : State) (t : Nat) (w : Waiting) : State :=
  let s1 := s.dropWaiting t w.id
  match w.place with
  | .pool => s1.freeCredit t w.chan w.crep
  | .store => s1
  | .spill =>
    s1.modTile t fun x =>
      match x.frameOf w.berth w.tok.itag with
      | some k => { x with frames := x.frames.put k ((x.frames.get {} k).unspill w.port) }
      | none => x

/-- Berth `b` of tile `t` is a tagged actor's (R21, R311). -/
def State.isTagged (s : State) (t b : Nat) : Bool := decide ((s.berth t b).frame ≠ 0)

/-- A berth whose back-off ends one fc from now at the latest (R283). -/
def State.unbackoff (s : State) (t b : Nat) : State :=
  s.modRun t b fun r => { r with backoff := r.backoff.map fun n => Nat.min n (s.now + 1) }

/-- An owed write or a completion lands on a tile: the back-offs of its berths end (R283). -/
def State.landedOn (s : State) (t : Nat) : State :=
  ((s.tcfg t).berths.filter fun e => (s.run t e.1).backoff.isSome).foldl (fun (a : State) e => a.unbackoff t e.1) s

/-- An operand that stands in its pool slot moves by the first rule of R34 that applies. At most one moves into the matching
store in one fc, and one into a spill area. -/
def State.placeOne (s : State) (t : Nat) (w : Waiting) : State :=
  let x := s.tileAt t
  let setPlace (x : Tile) (p : OpPlace) : Tile :=
    { x with wait := x.wait.map fun y => if y.id = w.id then { y with place := p } else y }
  if (x.wait.filter fun y => decide (y.place = .store)).length < 64 then
    if x.lastStore = some s.now then s
    else (s.setTile t { setPlace x .store with lastStore := some s.now }).freeCredit t w.chan w.crep
  else
    match x.frameOf w.berth w.tok.itag with
    | some k =>
      let fr := x.frames.get {} k
      if fr.pres.get false (spillSlot fr.size w.port) ∨ x.lastSpill = some s.now then s
      else
        let y := { setPlace x .spill with lastSpill := some s.now }
        (s.setTile t { y with frames := y.frames.put k (fr.spill w.port w.tok) }).freeCredit t w.chan w.crep
    | none => s

/-- The tagged operands that stand in pool slots of a tile, oldest first. -/
def State.poolOperands (s : State) (t : Nat) : List Waiting :=
  (s.tileAt t).wait.filter fun w => decide (w.place = .pool) && s.isTagged t w.berth

/-- The operands of a tile in their pool slots are looked at, oldest first, and again in the next fc while one stands there
(R34). -/
def State.placeOperands (s : State) (t : Nat) : State :=
  let s1 := (s.poolOperands t).foldl (fun (a : State) w => a.placeOne t w) s
  if (s1.poolOperands t).isEmpty then s1
  else if s1.agenda.any fun e => decide (e.2.1 = .operandRetry) && decide (e.2.2.a = t) then s1
  else s1.after 1 .operandRetry { a := t }

end Sys2Proof.Machine
end

