-- ==== Sys2Proof/Machine/Codec.lean ====
section
/-! DEFINITION. Lines and bytes, and the lossless line compression of R201 and R202. -/

namespace Sys2Proof.Machine

/-- Byte `i` of a line. -/
def lineByte (l : LineBits) (i : Nat) : Byte := l.extractLsb' (8 * i) 8

/-- Word `i` of a line, little-endian. -/
def lineWord (l : LineBits) (i : Nat) : W32 := l.extractLsb' (32 * i) 32

/-- Doubleword `i` of a line. -/
def lineDouble (l : LineBits) (i : Nat) : BitVec 64 := l.extractLsb' (64 * i) 64

/-- Bytes `off` to `off + n - 1` of a line as a number, little-endian. -/
def lineField (l : LineBits) (off n : Nat) : Nat := l.toNat / 2 ^ (8 * off) % 2 ^ (8 * n)

/-- A number of `n` bytes placed at byte `off` of a line of zeros. -/
def linePlace (v off n : Nat) : LineBits := BitVec.ofNat 1024 (v % 2 ^ (8 * n) * 2 ^ (8 * off))

/-- The byte mask of bytes `off` to `off + n - 1`. -/
def byteMask (off n : Nat) : BitVec 128 := BitVec.ofNat 128 ((2 ^ n - 1) * 2 ^ off)

/-- Every bit of the bytes that a byte mask names. -/
def spreadMask (m : BitVec 128) : LineBits :=
  BitVec.ofNat 1024
    ((List.range 128).foldl (fun a i => if m.getLsbD i then a + 255 * 2 ^ (8 * i) else a) 0)

/-- `old` with the bytes of `new` that the mask names. -/
def mergeLine (old new : LineBits) (m : BitVec 128) : LineBits :=
  if m = BitVec.allOnes 128 then new
  else
    let k := spreadMask m
    (old &&& ~~~k) ||| (new &&& k)

/-- A line from its bytes, the first at byte 0. -/
def lineOfBytes (l : List Byte) : LineBits :=
  BitVec.ofNat 1024 (l.foldr (fun b a => b.toNat + 256 * a) 0)

/-- The bytes of a line. -/
def bytesOfLine (l : LineBits) : List Byte := (List.range 128).map (lineByte l)

/-- The difference of two words, read as signed, fits `n` bits. -/
def deltaFits {k : Nat} (n : Nat) (a b : BitVec k) : Bool :=
  let d := (a - b).toInt
  decide (-(2 : Int) ^ (n - 1) ≤ d) && decide (d < (2 : Int) ^ (n - 1))

/-- Every word's delta from word 0 fits `n` bits (R201). -/
def wordsFit (n : Nat) (l : LineBits) : Bool :=
  (List.range 32).all fun i => deltaFits n (lineWord l i) (lineWord l 0)

/-- Every doubleword's delta from doubleword 0 fits `n` bits (R201). -/
def doublesFit (n : Nat) (l : LineBits) : Bool :=
  (List.range 16).all fun i => deltaFits n (lineDouble l i) (lineDouble l 0)

/-- The tag the encoder chooses: the fewest sectors, ties to the lowest tag (R201, R202). -/
def chooseTag (l : LineBits) : Nat :=
  if l = 0 then 1
  else if (List.range 32).all (fun i => decide (lineWord l i = lineWord l 0)) then 2
  else if doublesFit 8 l then 5
  else if wordsFit 8 l then 3
  else if doublesFit 16 l then 6
  else if wordsFit 16 l then 4
  else 0

/-- The sectors a tag stores (R201). -/
def tagSectors (t : Nat) : Nat :=
  match t with
  | 1 => 0
  | 2 => 1
  | 3 => 2
  | 4 => 3
  | 5 => 1
  | 6 => 2
  | _ => 4

/-- Deltas of `n` bits each of the words after the base, packed from bit 0. -/
def packDeltas (n k : Nat) (ds : List (BitVec k)) : Nat :=
  ds.foldr (fun d a => d.toNat % 2 ^ n + 2 ^ n * a) 0

/-- The stored bytes of a line under a tag; bytes past the encoding are zero (R201). -/
def encodeLine (t : Nat) (l : LineBits) : LineBits :=
  let wd (n : Nat) := packDeltas n 32 ((List.range 32).map fun i => lineWord l i - lineWord l 0)
  let dd (n : Nat) := packDeltas n 64 ((List.range 16).map fun i => lineDouble l i - lineDouble l 0)
  match t with
  | 1 => 0
  | 2 => BitVec.ofNat 1024 (lineWord l 0).toNat
  | 3 => BitVec.ofNat 1024 ((lineWord l 0).toNat + 2 ^ 32 * wd 8)
  | 4 => BitVec.ofNat 1024 ((lineWord l 0).toNat + 2 ^ 32 * wd 16)
  | 5 => BitVec.ofNat 1024 ((lineDouble l 0).toNat + 2 ^ 64 * dd 8)
  | 6 => BitVec.ofNat 1024 ((lineDouble l 0).toNat + 2 ^ 64 * dd 16)
  | _ => l

/-- A line of 32 words from its base and the deltas stored in `n` bits each after it. -/
def unpackWords (n : Nat) (st : LineBits) : LineBits :=
  let b := lineWord st 0
  let ds := st.toNat / 2 ^ 32
  BitVec.ofNat 1024 ((List.range 32).foldr
    (fun i a => (b + (BitVec.ofNat n (ds / 2 ^ (n * i))).signExtend 32).toNat + 2 ^ 32 * a) 0)

/-- A line of 16 doublewords from its base and the deltas stored in `n` bits each after it. -/
def unpackDoubles (n : Nat) (st : LineBits) : LineBits :=
  let b := lineDouble st 0
  let ds := st.toNat / 2 ^ 64
  BitVec.ofNat 1024 ((List.range 16).foldr
    (fun i a => (b + (BitVec.ofNat n (ds / 2 ^ (n * i))).signExtend 64).toNat + 2 ^ 64 * a) 0)

/-- The line that stored bytes under a tag stand for; tags 0x7 to 0xF read as uncompressed (R201). -/
def decodeLine (t : Nat) (st : LineBits) : LineBits :=
  match t with
  | 1 => 0
  | 2 => BitVec.ofNat 1024 ((List.range 32).foldr (fun _ a => (lineWord st 0).toNat + 2 ^ 32 * a) 0)
  | 3 => unpackWords 8 st
  | 4 => unpackWords 16 st
  | 5 => unpackDoubles 8 st
  | 6 => unpackDoubles 16 st
  | _ => st

end Sys2Proof.Machine
end

