-- ==== Sys2Proof/Machine/Memory.lean ====
section
/-! DEFINITION. Physical memory (R194, R201 to R204, R391, R392, R401), the L2 slices with their directory records (R198,
R199, R381), and what a home does with a line: a load, a reservation, a merge, an atomic, an engine write (R207 to
R216). -/

namespace Sys2Proof.Machine

/-! ## Physical addresses -/

/-- The regions of R194. -/
inductive Region where
  | tier1 (die : Nat)
  | tier2
  | pool (cove : Nat)
  | host
  | metadata
  | nothing
  deriving DecidableEq, Repr

/-- The populated bytes of a die's first tier: 24 GB (R2, R4, R194). -/
def tier1Size : Nat := 24000000000

/-- The populated bytes of the second tier: 3072 GB. -/
def tier2Size : Nat := 3072000000000

/-- The first PA of the second tier. -/
def tier2Base : Nat := 0x100000000000

/-- The first PA of the cove pools. -/
def poolBase : Nat := 0x200000000000

/-- The first PA of host memory. -/
def hostBase : Nat := 0x800000000000

/-- The region that holds a PA (R194). The top 1/256 of each tier is the metadata region. -/
def regionOf (pa : Nat) : Region :=
  if pa < 8 * 2 ^ 35 then
    let o := pa % 2 ^ 35
    if o < tier1Size - tier1Size / 256 then .tier1 (pa / 2 ^ 35)
    else if o < tier1Size then .metadata
    else .nothing
  else if tier2Base ≤ pa ∧ pa < tier2Base + tier2Size then
    if pa - tier2Base < tier2Size - tier2Size / 256 then .tier2 else .metadata
  else if poolBase ≤ pa ∧ pa < poolBase + 2 ^ 30 then .pool ((pa - poolBase) / 2 ^ 21)
  else if hostBase ≤ pa ∧ pa < 2 ^ 48 then .host
  else .nothing

/-- The first PA of the pool of a cove (R194). -/
def poolAddr (cove : Nat) : Nat := poolBase + cove * 2 ^ 21

/-- The PA of a line's metadata byte, and whether its nibble is the upper one (R392). -/
def metaNibble (line : Nat) : Option (Nat × Bool) :=
  let pa := line * 128
  match regionOf pa with
  | .tier1 d =>
    let o := pa - d * 2 ^ 35
    some (d * 2 ^ 35 + (tier1Size - tier1Size / 256) + o / 256, decide (o / 128 % 2 = 1))
  | .tier2 =>
    let o := pa - tier2Base
    some (tier2Base + (tier2Size - tier2Size / 256) + o / 256, decide (o / 128 % 2 = 1))
  | _ => none

/-- The shared unit that holds a line's memory: its channel or controller (R401), or the CXL port (R314). No channel holds a cove-pool
line, for which R200 gives no home 11: the CXL port stands for it (log 119). -/
def channelUnit (pa : Nat) : Nat :=
  match regionOf pa with
  | .tier1 d => d * 24 + pa % 2 ^ 35 / 256 % 24
  | .tier2 => 192 + pa % 2 ^ 42 / 256 % 32
  | _ => 304

/-- The die whose cost table a unit uses; 8 is HD (R318). -/
def unitDie (u : Nat) : Nat :=
  if u < 192 then u / 24
  else if u < 224 then 8
  else if u < 288 then (u - 224) / 8
  else if u < 304 then (u - 288) / 2
  else if u < 4096 then 8
  else (u - 4096) / 768

/-- The home slice of a line of home 00, numbered die·768 + slice; `pick` is the slice field under home 10 (R196). R196 gives no die for a
cove-pool line mapped so: it takes that of a second-tier line (log 119). -/
def homeSlice (pa : Nat) (pick : Option Nat) : Nat :=
  let die := match regionOf pa with
    | .tier1 d => d
    | _ => Nat.xor (pa / 2 ^ 12 % 8) (pa / 2 ^ 15 % 8)
  let n := pa / 128
  let sl := match pick with
    | some k => k
    | none => Nat.xor (Nat.xor n (n / 2 ^ 10)) (n / 2 ^ 20) % 768
  die * 768 + sl

/-! ## Bytes and sectors -/

/-- The canonical form of physical memory: addresses strictly rising, and no entry equal to what an unlisted address reads
as. -/
def Memory.wf (m : Mem) : Bool := Map.wf 0 m.pm

/-- Byte `a` of physical memory as stored. Bytes that nothing has written read zero (R374 step 4; log 5). -/
def State.pmByte (s : State) (a : Nat) : Byte := s.mem.pm.get 0 a

/-- `n` bytes of physical memory from `a`, as stored. -/
def State.pmBytes (s : State) (a n : Nat) : List Byte := (upFrom a n).map s.pmByte

/-- `s` with bytes of physical memory from `a` replaced. -/
def State.pmPut (s : State) (a : Nat) (bs : List Byte) : State :=
  let pm := (enumFrom a bs).foldl (fun m e => m.set 0 e.1 e.2) s.mem.pm
  { s with mem := { s.mem with pm := pm } }

/-- The mark of key `k` as it now stands: the key and its epoch (R205). -/
def State.keyMark (s : State) (k : Nat) : Nat := k * 2 ^ 32 + s.hd.keyEpoch.get 0 k + 1

/-- The number of the save image whose bytes stored sector `n` holds: it lies in the image's slot, and nothing has been written to it since
(R333). -/
def State.imageOf (s : State) (n : Nat) : Nat :=
  match s.mem.sealed.find? fun e => decide (e.1 ≤ n) && decide (n < e.1 + e.2.1) with
  | some e => e.2.2
  | none => 0

/-- The bytes of stored sector `n` read under key `k`: those written under that key as it stands, zeros where nothing was
written, and otherwise unrelated data (R203 to R205; logs 6, 7). Those of a save image are free values under every key, since R333
does not lay an image out (log 70). -/
def State.sectorRead (s : State) (n k : Nat) : List Byte :=
  let bs := s.pmBytes (n * 32) 32
  let mk := if s.mem.skey.get 0 n = 0 then s.imageOf n else s.mem.skey.get 0 n
  if mk = 0 ∨ mk = s.keyMark k then bs
  else
    let v := bs.foldr (fun b a => b.toNat + 256 * a) 0
    (List.range 32).map fun i => Config.unrelatedByte n v mk (s.keyMark k) i

/-- `s` with stored sector `n` written under key `k`. -/
def State.sectorWrite (s : State) (n k : Nat) (bs : List Byte) : State :=
  let s1 := s.pmPut (n * 32) bs
  { s1 with mem := { s1.mem with skey := s1.mem.skey.set 0 n (s1.keyMark k) } }

/-- The tag of a line (R392). -/
def State.lineTag (s : State) (line : Nat) : Nat :=
  match metaNibble line with
  | some (a, up) => if up then (s.pmByte a).toNat / 16 else (s.pmByte a).toNat % 16
  | none => 0

/-- `s` with the tag of a line written. -/
def State.setTag (s : State) (line t : Nat) : State :=
  match metaNibble line with
  | some (a, up) =>
    let b := (s.pmByte a).toNat
    s.pmPut a [BitVec.ofNat 8 (if up then b % 16 + 16 * t else b / 16 * 16 + t)]
  | none => s

/-- The energy class of a sector of a line's tier: EC50 or EC51 (R191). -/
def sectorClass (line : Nat) : Nat :=
  match regionOf (line * 128) with
  | .tier2 => 51
  | _ => 50

/-- A tier line read at its channel under key `k`, with its sector and codec charges to account `cx` (R201, R202,
R391). -/
def State.tierRead (s : State) (line k cx : Nat) : LineBits × State :=
  let t := s.lineTag line
  let n := tagSectors t
  let st := (List.range n).flatMap fun i => s.sectorRead (line * 4 + i) k
  let u := channelUnit (line * 128)
  let s1 := s.chargeUnit u (unitDie u) cx (sectorClass line) n
  let s2 := if 2 ≤ t ∧ t ≤ 6 then s1.chargeUnit u (unitDie u) cx 52 1 else s1
  (decodeLine t (lineOfBytes st), s2)

/-- A tier line written at its channel: compressed when the page asks for it, sectors beyond the encoding untouched
(R201, R202, R391). -/
def State.tierWrite (s : State) (line : Nat) (data : LineBits) (k : Nat) (cmp : Bool) (cx : Nat) : State :=
  let t := if cmp then chooseTag data else 0
  let n := tagSectors t
  let bs := bytesOfLine (encodeLine t data)
  let s1 := (List.range n).foldl (fun a i => a.sectorWrite (line * 4 + i) k ((bs.drop (32 * i)).take 32)) s
  let s2 := s1.setTag line t
  let u := channelUnit (line * 128)
  let s3 := s2.chargeUnit u (unitDie u) cx (sectorClass line) n
  if cmp then s3.chargeUnit u (unitDie u) cx 52 1 else s3

/-- A line of the memory behind its cache: a tier line, or plain bytes of a pool or of the host (R202). -/
def State.backRead (s : State) (line k cx : Nat) : LineBits × State :=
  match regionOf (line * 128) with
  | .tier1 _ | .tier2 => s.tierRead line k cx
  | .host => (lineOfBytes (s.pmBytes (line * 128) 128), (s.chargeUnit 304 8 cx 54 1).markLink 80 cx)
  | _ => (lineOfBytes (s.pmBytes (line * 128) 128), s)

/-- A line written to the memory behind its cache. -/
def State.backWrite (s : State) (line : Nat) (data : LineBits) (k : Nat) (cmp : Bool) (cx : Nat) : State :=
  match regionOf (line * 128) with
  | .tier1 _ | .tier2 => s.tierWrite line data k cmp cx
  | .host => ((s.pmPut (line * 128) (bytesOfLine data)).chargeUnit 304 8 cx 54 1).markLink 81 cx
  | _ => s.pmPut (line * 128) (bytesOfLine data)

/-- The die that holds a line behind its home, 8 for HD: the memory of the first tier and the pools lies on the compute dies, the
second tier and the CXL port on HD (R196, R200). -/
def backDie (line : Nat) : Nat :=
  match regionOf (line * 128) with
  | .tier1 d => d
  | .pool c => c / 64
  | _ => 8

/-- A slice reads a line of the memory behind it, over the links between its die and that memory (R347). -/
def State.sliceRead (s : State) (sl line k cx : Nat) : LineBits × State :=
  (s.markRoute (unitDie (4096 + sl)) (backDie line) cx).backRead line k cx

/-- A slice writes a line to the memory behind it, over the same links (R347). -/
def State.sliceWrite (s : State) (sl line : Nat) (data : LineBits) (k : Nat) (cmp : Bool) (cx : Nat) : State :=
  (s.markRoute (unitDie (4096 + sl)) (backDie line) cx).backWrite line data k cmp cx

/-! ## L2 slices -/

/-- The lines that a slice holds. -/
def State.slice (s : State) (sl : Nat) : List L2Line := s.mem.l2.get [] sl

/-- `s` with the lines of a slice replaced. -/
def State.setSlice (s : State) (sl : Nat) (l : List L2Line) : State :=
  { s with mem := { s.mem with l2 := s.mem.l2.set [] sl l } }

/-- The number of a line's record at an L2 slice: each home of a line keeps its own (R195, R198). -/
def sliceKey (sl line : Nat) : Nat := (sl + 1) * 2 ^ 41 + line

/-- The number of the record of a line at its home: a pool line's is its own number. -/
def dirKey (x : Xl) : Nat := if x.home = 1 then x.pa / 128 else sliceKey x.slice (x.pa / 128)

/-- The number of a line at its home: lines that two mappings put at different homes are kept apart (R195). -/
def placeKey (x : Xl) : Nat := if x.home = 3 then 2 ^ 60 + x.pa / 128 else dirKey x

/-- The directory record of a number; absent ones read as zero (R198). -/
def State.dirOf (s : State) (n : Nat) : DirRec := s.mem.dir.get {} n

/-- `s` with the record of a number written. -/
def State.setDir (s : State) (n : Nat) (d : DirRec) : State :=
  { s with mem := { s.mem with dir := s.mem.dir.set {} n d } }

/-- The occupancy counter of account `c` at a slice (R199, R357). -/
def State.occ (s : State) (sl c : Nat) : Nat := s.mem.occ.get 0 (sl * 129 + c)

/-- `s` with an occupancy counter written. -/
def State.setOcc (s : State) (sl c n : Nat) : State :=
  { s with mem := { s.mem with occ := s.mem.occ.set 0 (sl * 129 + c) n } }

/-- The slice's MXR takes `t` when it is larger (R198). -/
def State.raiseMxr (s : State) (sl t : Nat) : State :=
  { s with mem := { s.mem with mxr := s.mem.mxr.set 0 sl (Nat.max (s.mem.mxr.get 0 sl) t) } }

/-- The set of a line in its slice: n mod 64 (R381). -/
def l2Set (line : Nat) : Nat := line % 64

/-- A held L2 line by its line number. -/
def State.l2Look (s : State) (sl line : Nat) : Option L2Line := (s.slice sl).find? fun e => e.line = line

/-- A use of a held line makes it most recent (R381). -/
def State.l2Touch (s : State) (sl line : Nat) : State :=
  let u := s.mem.use + 1
  let l := (s.slice sl).map fun e => if e.line = line then { e with lru := u } else e
  let s1 := s.setSlice sl l
  { s1 with mem := { s1.mem with use := u } }

/-- `s` with a line dropped from its slice: its record goes unless it is PEND, MXR and OCC follow; `back` writes a dirty line back
first (R198, R199, R205, R209, R215). -/
def State.l2Drop (s : State) (sl line : Nat) (back : Bool) : State :=
  match s.l2Look sl line with
  | none => s
  | some e =>
    let s1 := if back && e.dirty then s.sliceWrite sl line e.data e.key e.cmp e.ctx else s
    let s2 := s1.setSlice sl ((s1.slice sl).filter fun x => !decide (x.line = line))
    let r := s2.dirOf (sliceKey sl line)
    let s3 := s2.raiseMxr sl r.rts
    let s4 := s3.setOcc sl e.ctx (s3.occ sl e.ctx - 1)
    s4.setDir (sliceKey sl line) (if r.pend then r else {})

/-- The way mask of an account at every slice: the house has 0xFFFF, and a change takes effect from the next fc (R199). -/
def State.wayMask (s : State) (c : Nat) : BitVec 16 :=
  if c = 128 then 0xFFFF else if (s.vf c).wmFc = some s.now then (s.vf c).wmOld else (s.vf c).wm

/-- The soft limit of an account; the house has 64 (R199). -/
def State.softLimit (s : State) (c : Nat) : Nat := if c = 128 then 64 else (s.vf c).sl

/-- The least recent of some lines. -/
def leastRecent (l : List L2Line) : Option L2Line :=
  match l with
  | [] => none
  | e :: r =>
    match leastRecent r with
    | none => some e
    | some f => if e.lru ≤ f.lru then some e else some f

/-- What the choice of a way for a fill finds (R199): a free way, a victim, no allowed way, or none but PEND lines. -/
inductive WayChoice where
  | free (w : Nat)
  | victim (e : L2Line)
  | noWay
  | allPend
  deriving DecidableEq, Repr

/-- The way for a fill of `line` for account `c` (R199). -/
def State.chooseWay (s : State) (sl line c : Nat) : WayChoice :=
  let wm := s.wayMask c
  if wm = 0 then .noWay
  else
    let inSet := (s.slice sl).filter fun e => l2Set e.line = l2Set line
    let ways := (List.range 16).filter fun w => wm.getLsbD w
    match ways.find? (fun w => !inSet.any fun e => e.way = w) with
    | some w => .free w
    | none =>
      let ok := inSet.filter fun e => wm.getLsbD e.way && !(s.dirOf (sliceKey sl e.line)).pend
      match leastRecent (ok.filter fun e => decide (s.softLimit e.ctx < s.occ sl e.ctx)) with
      | some e => .victim e
      | none =>
        match leastRecent ok with
        | some e => .victim e
        | none => .allPend

/-- The firings that own the PEND lines of the allowed ways of a set (R211). -/
def State.pendOwners (s : State) (sl line c : Nat) : List (Nat × Nat) :=
  let r (e : L2Line) : DirRec := s.dirOf (sliceKey sl e.line)
  ((s.slice sl).filter fun e => decide (l2Set e.line = l2Set line) && (s.wayMask c).getLsbD e.way && (r e).pend).map fun e =>
    ((r e).tile, (r e).slot)

/-- What bringing a line to its home gives: the line is there; it is served without a place (WM 0); or it waits on PEND
lines (R199). -/
inductive FillRes where
  | here (s : State)
  | bare (s : State)
  | wait
  deriving DecidableEq, Repr

/-- The line `x` names is brought to its home for account `c`; the record of a line held PEND without a place stands (R198, R199,
R209). -/
def State.fill (s : State) (x : Xl) (c : Nat) : FillRes :=
  let line := x.pa / 128
  if x.home = 1 ∨ x.home = 3 then .here s
  else
    match s.l2Look x.slice line with
    | some _ => .here (s.l2Touch x.slice line)
    | none =>
      let put (s : State) (w : Nat) : State :=
        let (d, s1) := s.sliceRead x.slice line x.key c
        let t := s1.mem.mxr.get 0 x.slice
        let u := s1.mem.use + 1
        let e : L2Line := { line := line, way := w, data := d, ctx := c, key := x.key, cmp := x.cmp, lru := u }
        let s2 := s1.setSlice x.slice (s1.slice x.slice ++ [e])
        let s3 := { s2 with mem := { s2.mem with use := u } }
        let s4 := s3.setOcc x.slice c (s3.occ x.slice c + 1)
        let r := s4.dirOf (sliceKey x.slice line)
        s4.setDir (sliceKey x.slice line) (if r.pend then r else { wts := t, rts := t })
      match s.chooseWay x.slice line c with
      | .free w => .here (put s w)
      | .victim e => .here (put (s.l2Drop x.slice e.line true) e.way)
      | .noWay => .bare s
      | .allPend => .wait

/-- The current data of a line at its home. -/
def State.homeData (s : State) (x : Xl) (c : Nat) : LineBits × State :=
  let line := x.pa / 128
  if x.home = 1 then (lineOfBytes (s.pmBytes (line * 128) 128), s)
  else if x.home = 3 then s.backRead line x.key c
  else
    match s.l2Look x.slice line with
    | some e => (e.data, s)
    | none => s.sliceRead x.slice line x.key c

/-- The key selects of a line in L2 after a write under `k`, but for `k` itself (R205). -/
def L2Line.others (e : L2Line) (k : Nat) : List Nat := (e.key :: e.under).eraseDups.filter fun n => !decide (n = k)

/-- The data of a line written at its home: in L2 it turns dirty, and a later write-back uses this page's compress bit and
key. -/
def State.homeWrite (s : State) (x : Xl) (data : LineBits) (c : Nat) : State :=
  let line := x.pa / 128
  if x.home = 1 then s.pmPut (line * 128) (bytesOfLine data)
  else if x.home = 3 then s.backWrite line data x.key x.cmp c
  else
    match s.l2Look x.slice line with
    | some _ =>
      s.setSlice x.slice ((s.slice x.slice).map fun e =>
        if e.line = line then { e with data := data, dirty := true, key := x.key, cmp := x.cmp, under := e.others x.key } else e)
    | none => s.sliceWrite x.slice line data x.key x.cmp c

/-- The record of a line at its home. A line without a place in L2 starts from MXR, as a fill would (R198). -/
def State.homeDir (s : State) (x : Xl) : DirRec :=
  let r := s.dirOf (dirKey x)
  if x.home = 1 then r
  else
    match s.l2Look x.slice (x.pa / 128) with
    | some _ => r
    | none => if r = {} then { wts := s.mem.mxr.get 0 x.slice, rts := s.mem.mxr.get 0 x.slice } else r

/-- The record of a line written at its home. One of a line without a place in L2 stays only while the line is PEND;
afterwards MXR keeps its rts, as an eviction would (R198, R199). -/
def State.setHomeDir (s : State) (x : Xl) (d : DirRec) : State :=
  if x.home = 1 then s.setDir (dirKey x) d
  else
    match s.l2Look x.slice (x.pa / 128) with
    | some _ => s.setDir (dirKey x) d
    | none => if d.pend then s.setDir (dirKey x) d else (s.setDir (dirKey x) {}).raiseMxr x.slice d.rts

/-- The clock of a home-11 home (R200). -/
def State.cwts (s : State) (pa : Nat) : Nat := s.mem.cwts.get 0 (channelUnit pa)

/-- `s` with a home-11 clock set. -/
def State.setCwts (s : State) (pa n : Nat) : State :=
  { s with mem := { s.mem with cwts := s.mem.cwts.set 0 (channelUnit pa) n } }

/-! ## Operations of a home -/

/-- What a home answers: the data as it was, the timestamp the requester takes, the line's wts and rts, and the state
after; or whom the request waits for. -/
inductive HomeRes where
  | done (s : State) (data : LineBits) (ts wts rts : Nat)
  | pend (tile slot : Nat)
  | full
  deriving DecidableEq, Repr

/-- A charge of class `cls` at the slice port of a line homed in L2: EC48, or EC49 for a renewal without data (R191,
R208). -/
def State.chargeHome (s : State) (x : Xl) (c cls : Nat) : State :=
  if x.home = 0 ∨ x.home = 2 then s.chargeUnit (4096 + x.slice) (unitDie (4096 + x.slice)) c cls 1 else s

/-- The bytes of a mask are whole sectors. -/
def wholeSectors (mask : BitVec 128) : Bool :=
  (List.range 4).all fun i =>
    let m := mask.extractLsb' (32 * i) 32
    decide (m = 0) || decide (m = BitVec.allOnes 32)

/-- The line that a write of the bytes `mask` to a home-11 line starts from. A channel reads it unless the whole line is written
(R202). At the CXL port a read-modify-write is one transfer, which the write charges, and whole sectors are not read (R200). -/
def State.rmwRead (s : State) (x : Xl) (mask : BitVec 128) (c : Nat) : LineBits × State :=
  if regionOf x.pa = .host then
    (lineOfBytes (s.pmBytes (x.pa / 128 * 128) 128), if wholeSectors mask then s else s.markLink 80 c)
  else if mask = BitVec.allOnes 128 then (0, s)
  else s.homeData x c

/-- A load at the home at `pts` (R200, R208 step 2). `lease` is the lease to grant, or none for the ordering of LDNC
(R233); `copy` is the wts of the requester's own copy. A PEND line's old data come with the wts that they had. -/
def State.homeLoad (s : State) (x : Xl) (c pts : Nat) (lease : Option Nat) (copy : Option Nat := none) : HomeRes :=
  if x.home = 3 then
    let t := Nat.max pts (s.cwts x.pa)
    let (d, s1) := s.homeData x c
    .done (s1.setCwts x.pa t) d t t t
  else
    let go (s : State) : HomeRes :=
      let r := s.homeDir x
      if r.pend && decide (r.wts ≤ pts) then .pend r.tile r.slot
      else
        let (d, s1) := s.homeData x c
        let s2 := s1.chargeHome x c (if copy = some (if r.pend then r.base else r.wts) then 49 else 48)
        if r.pend then .done s2 d (Nat.max pts r.base) r.base (r.wts - 1)
        else
          let e := Nat.max r.rts (match lease with
            | some l => pts + l
            | none => pts)
          .done (s2.setHomeDir x { r with rts := e }) d (Nat.max pts r.wts) r.wts e
    match s.fill x c with
    | .here s1 => go s1
    | .bare s1 => go s1
    | .wait => .full

/-- A line is reserved for a held store of a firing (R200, R209). -/
def State.homeReserve (s : State) (x : Xl) (c pts tile slot : Nat) : HomeRes :=
  if x.home = 3 then
    let t := Nat.max pts (s.cwts x.pa) + 1
    .done (s.setCwts x.pa t) 0 t t t
  else
    let go (s : State) : HomeRes :=
      let r := s.homeDir x
      if r.pend && !(decide (r.tile = tile) && decide (r.slot = slot)) then .pend r.tile r.slot
      else
        let w := Nat.max pts (r.rts + 1)
        .done ((s.chargeHome x c 48).setHomeDir x
          { wts := w, rts := w, own := BitVec.ofNat 9 (coveOfTile tile), pend := true, tile := tile, slot := slot
            base := if r.pend then r.base else r.wts })
          0 w w w
    match s.fill x c with
    | .here s1 => go s1
    | .bare s1 => go s1
    | .wait => .full

/-- The new data of a line that an atomic, a store at the home or an engine write makes, in its bytes `mask` (R200, R202, R212,
R216). -/
def State.homeUpdate (s : State) (x : Xl) (c pts : Nat) (f : LineBits → LineBits) (mask : BitVec 128) : HomeRes :=
  if x.home = 3 then
    let t := Nat.max pts (s.cwts x.pa) + 1
    let (d, s1) := s.rmwRead x mask c
    .done ((s1.homeWrite x (f d) c).setCwts x.pa t) d t t t
  else
    let go (s : State) : HomeRes :=
      let r := s.homeDir x
      if r.pend then .pend r.tile r.slot
      else
        let w := Nat.max pts (r.rts + 1)
        let (d, s1) := s.homeData x c
        let s2 := (s1.chargeHome x c 48).homeWrite x (f d) c
        .done (s2.setHomeDir x { r with wts := w, rts := w }) d w w w
    match s.fill x c with
    | .here s1 => go s1
    | .bare s1 => go s1
    | .wait => .full

/-- The translation that a berm entry kept. -/
def BermEnt.xl (e : BermEnt) : Xl :=
  { pa := e.line * 128, home := e.home, slice := e.slice, key := e.key, cmp := e.cmp }

/-- The number of a held line at its home. -/
def BermEnt.place (e : BermEnt) : Nat := placeKey e.xl

/-- A held line leaves its berm: with `commit` its bytes are written at the home, and in either case PEND clears and the
reserved wts stands (R210). A home-11 line keeps no PEND (R200, R391). -/
def State.homeRelease (s : State) (e : BermEnt) (c : Nat) (commit : Bool) : State :=
  let x := e.xl
  let s1 := if commit then
      let (d, s2) := if e.home = 3 then s.rmwRead x e.mask c else if e.mask = BitVec.allOnes 128 then (0, s) else s.homeData x c
      s2.homeWrite x (mergeLine d e.data e.mask) c
    else s
  if e.home = 3 then s1
  else s1.setHomeDir x { s1.homeDir x with pend := false, tile := 0, slot := 0, base := 0 }

/-! ## Accesses by physical address -/

/-- The translation of a pinned physical address that the harbour uses: the pool's own home, home 11 elsewhere, under the
hypervisor key (R204, R214, R333). -/
def pinnedXl (pa : Nat) : Xl :=
  match regionOf pa with
  | .pool _ => { pa := pa, home := 1, key := 128 }
  | _ => { pa := pa, home := 3, key := 128 }

/-- How many bytes from `a` stay in its line, at most `n`. -/
def inLine (a n : Nat) : Nat := Nat.min n (128 - a % 128)

/-- Engine writes of bytes from `pa` at `cts`, line by line: the state, and the largest w. A writer that R216 makes
wait looks with `pinPend` first; what comes to a PEND line all the same changes its home data at once (log 11). -/
def State.pinWrite (fuel : Nat) (s : State) (c cts pa : Nat) (bs : List Byte) : State × Nat :=
  match fuel with
  | 0 => (s, cts)
  | n + 1 =>
    if bs = [] then (s, cts)
    else
      let k := inLine pa bs.length
      let o := pa % 128
      let d : LineBits := BitVec.ofNat 1024 ((lineOfBytes (bs.take k)).toNat * 2 ^ (8 * o))
      let (s1, w) := match s.homeUpdate (pinnedXl pa) c cts (fun l => mergeLine l d (byteMask o k)) (byteMask o k) with
        | .done t _ w _ _ => (t, w)
        | _ =>
          let (o1, t) := s.homeData (pinnedXl pa) c
          (t.homeWrite (pinnedXl pa) (mergeLine o1 d (byteMask o k)) c, cts)
      let (s2, w2) := State.pinWrite n s1 c cts (pa + k) (bs.drop k)
      (s2, Nat.max w w2)

/-- A line of the `n` bytes from `pa` is PEND, so that an engine's write there waits (R216). -/
def State.pinPend (s : State) (pa n : Nat) : Bool :=
  (List.range ((pa % 128 + n + 127) / 128)).any fun i =>
    let x := pinnedXl ((pa / 128 + i) * 128)
    decide (x.home ≠ 3) && (s.homeDir x).pend

/-- `n` bytes from `pa`, read at the home with the ordering of LDNC at `pts` (R233, R270). -/
def State.pinRead (fuel : Nat) (s : State) (c pts pa n : Nat) : List Byte × State :=
  match fuel with
  | 0 => ([], s)
  | f + 1 =>
    if n = 0 then ([], s)
    else
      let k := inLine pa n
      let (d, s1) := match s.homeLoad (pinnedXl pa) c pts none with
        | .done t d _ _ _ => (d, t)
        | _ => s.homeData (pinnedXl pa) c
      let (r, s2) := State.pinRead f s1 c pts (pa + k) (n - k)
      (((bytesOfLine d).drop (pa % 128)).take k ++ r, s2)

/-- A little-endian number of bytes. -/
def leNat (l : List Byte) : Nat := l.foldr (fun b a => b.toNat + 256 * a) 0

/-- The `n` bytes of a number, little-endian. -/
def leBytes (n v : Nat) : List Byte := (List.range n).map fun i => BitVec.ofNat 8 (v / 256 ^ i)

end Sys2Proof.Machine
end

