-- ==== Sys2Proof/Machine/Xlate.lean ====
section
/-! DEFINITION. Translation: page-table walks of two stages, TLBs (R192 to R197, R204, R305 to R309). -/

namespace Sys2Proof.Machine

/-- What an access needs of its page (R307). -/
inductive Need where
  | read | write | both | config
  deriving DecidableEq, Repr

/-- The access reads data of its page (R225). -/
def Need.reads (n : Need) : Bool :=
  match n with
  | .write => false
  | _ => true

/-- The access writes its page. -/
def Need.writes (n : Need) : Bool :=
  match n with
  | .write => true
  | .both => true
  | _ => false

/-- The translation tables of a context on a tile: a VF's, or the agent's own, kept as entry 128 (R384). -/
def State.xlVf (s : State) (t cx : Nat) : Nat := if (s.tcfg t).part = agentPart then 128 else cx

/-- The levels of a walk: the low bit and the width of the index (R305). -/
def walkLevels : List (Nat × Nat) := [(42, 10), (32, 10), (28, 4), (21, 7), (14, 7)]

/-- What a step of a walk gives. A bad one names its fault code, its stage and its level. -/
inductive WalkRes (α : Type) where
  | ok (s : State) (a : α)
  | bad (s : State) (code : BitVec 8) (stage2 : Bool) (lvl : Nat)
  | wait (tile slot : Nat)
  | full
  deriving Repr

/-- A leaf found by a walk: where its entry stands, its output address with the offset, its page bits, its fields. -/
structure Leaf where
  pte : Xl := {}
  out : Nat := 0
  bits : Nat := 14
  r : Bool := false
  w : Bool := false
  c : Bool := false
  a : Bool := false
  d : Bool := false
  cmp : Bool := false
  home : BitVec 2 := 0
  slice : Nat := 0
  key : Nat := 0
  deriving DecidableEq, Repr

/-- A reserved bit of a table pointer is set, or NEXT is not aligned for the table of the level below (R306, R307). -/
def badPointer (e lvl : Nat) : Bool :=
  let size := match lvl with
    | 0 => 8192
    | 1 => 128
    | 2 => 1024
    | _ => 1024
  decide (e / 4 % 32 ≠ 0) || decide (e / 2 ^ 48 ≠ 0) || decide (e % 2 ^ 48 / 128 * 128 % size ≠ 0)

/-- The leaf that an entry at `at` stands for. -/
def leafOf (pte : Xl) (e bits addr : Nat) : Leaf :=
  { pte := pte, out := e / 2 ^ 12 % 2 ^ 34 * 2 ^ 14 / 2 ^ bits * 2 ^ bits + addr % 2 ^ bits, bits := bits
    r := e.testBit 2, w := e.testBit 3, c := e.testBit 4, a := e.testBit 5, d := e.testBit 6, cmp := e.testBit 7
    home := BitVec.ofNat 2 (e / 256), slice := e / 2 ^ 46 % 1024, key := e / 2 ^ 56 % 256 }

/-- A leaf breaks R306 for its level: reserved bits, low bits of OUT, level 0 and 4, and the fields of its stage. -/
def badLeaf (e bits : Nat) (stage2 : Bool) : Bool :=
  decide (e / 2 ^ 10 % 4 ≠ 0) || decide (e / 2 ^ 12 % 2 ^ (bits - 14) ≠ 0)
    || (if stage2 then decide (e / 256 % 4 ≠ 2) && decide (e / 2 ^ 46 % 1024 ≠ 0)
        else e.testBit 7 || decide (e / 2 ^ 46 ≠ 0))

/-- The die of a line's home, 8 for HD (R195, R196, R401). -/
def homeDie (x : Xl) : Nat :=
  if x.home = 1 then (x.pa - poolBase) / 2 ^ 27 else if x.home = 3 then unitDie (channelUnit x.pa) else unitDie (4096 + x.slice)

/-- A PTE is read from the M-tile `m` at its home with the ordering of LDNC (R305), charged EC48 for its line (R309). -/
def State.pteRead (s : State) (m : Nat) (x : Xl) (c pts : Nat) : WalkRes Nat :=
  match (s.markRoute (dieOfTile m) (homeDie x) c).homeLoad x c pts none with
  | .done s1 d _ _ _ =>
    let u := channelUnit x.pa
    .ok (if x.home = 3 then s1.chargeUnit u (unitDie u) c 48 1
      else if x.home = 1 then s1.chargeUnit 306 ((x.pa - poolBase) / 2 ^ 27) c 48 1 else s1)
      (lineField d (x.pa % 128) 8)
  | .pend t k => .wait t k
  | .full => .full

/-- The A or D bit of a PTE is set by an atomic OR at its home (R307). -/
def State.pteOr (s : State) (m : Nat) (x : Xl) (c pts v : Nat) : WalkRes Unit :=
  match (s.markRoute (dieOfTile m) (homeDie x) c).homeUpdate x c pts (fun l => l ||| linePlace v (x.pa % 128) 8) (byteMask (x.pa % 128) 8) with
  | .done s1 _ _ _ _ => .ok s1 ()
  | .pend t k => .wait t k
  | .full => .full

/-- The PA is one that a translation may give: in a populated region and in no metadata (R194). -/
def populated (pa : Nat) : Bool := decide (regionOf pa ≠ .nothing) && decide (regionOf pa ≠ .metadata)

/-- A walk of stage 2 from level `lvl` on (R305, R307). -/
def State.walk2From (s : State) (m c pts ipa : Nat) (ls : List (Nat × Nat)) (lvl base : Nat) : WalkRes Leaf :=
  match ls with
  | [] => .bad s 0x02 true 4
  | (lo, n) :: rest =>
    let x := pinnedXl (base + 8 * (ipa / 2 ^ lo % 2 ^ n))
    match s.pteRead m x c pts with
    | .wait t k => .wait t k
    | .full => .full
    | .bad s1 q g l => .bad s1 q g l
    | .ok s1 e =>
      if !e.testBit 0 then .bad s1 0x01 true lvl
      else if e.testBit 1 then
        if lvl = 0 then .bad s1 0x02 true lvl
        else if badLeaf e lo true then .bad s1 0x02 true lvl
        else
          let lf := leafOf x e lo ipa
          let reg := regionOf lf.out
          let poolBad := decide (lf.home = 1) && !(match reg with
            | .pool _ => true
            | _ => false)
          if poolBad || !populated lf.out || decide (768 ≤ lf.slice) || decide (128 < lf.key) then .bad s1 0x02 true lvl
          else .ok s1 lf
      else if lvl = 4 then .bad s1 0x02 true lvl
      else if badPointer e lvl then .bad s1 0x02 true lvl
      else s1.walk2From m c pts ipa rest (lvl + 1) (e % 2 ^ 48 / 128 * 128)

/-- Where the line of a leaf's output is homed (R195, R196). -/
def Leaf.xl (l : Leaf) : Xl :=
  { pa := l.out, home := l.home, key := l.key, cmp := l.cmp
    slice := if l.home = 0 then homeSlice l.out none else if l.home = 2 then homeSlice l.out (some l.slice) else 0 }

/-- A walk of stage 2 for an IPA (R305). -/
def State.walk2 (s : State) (m vf c pts ipa : Nat) : WalkRes Leaf :=
  s.walk2From m c pts ipa walkLevels 0 ((s.vf vf).s2root * 2 ^ 13)

/-- The A and D bits that a used leaf needs (R307). -/
def Leaf.wants (l : Leaf) (write : Bool) : Nat :=
  (if l.a then 0 else 32) + (if write && !l.d then 64 else 0)

/-- The bits a leaf needs are set, if any. -/
def State.markLeaf (s : State) (m : Nat) (l : Leaf) (c pts : Nat) (write : Bool) : WalkRes Unit :=
  if l.wants write = 0 then .ok s () else s.pteOr m l.pte c pts (l.wants write)

/-- A walk of stage 1 from level `lvl` on: the leaf with the stage-2 leaf of its own entry (R305, R307). -/
def State.walk1From (s : State) (m vf c pts va : Nat) (ls : List (Nat × Nat)) (lvl base : Nat) :
    WalkRes (Leaf × Leaf) :=
  match ls with
  | [] => .bad s 0x02 false 4
  | (lo, n) :: rest =>
    match s.walk2 m vf c pts (base + 8 * (va / 2 ^ lo % 2 ^ n)) with
    | .wait t k => .wait t k
    | .full => .full
    | .bad s1 q g l => .bad s1 q g l
    | .ok s1 l2 =>
      if !l2.r then .bad s1 0x02 false lvl
      else
        match s1.markLeaf m l2 c pts false with
        | .wait t k => .wait t k
        | .full => .full
        | .bad s2 q g l => .bad s2 q g l
        | .ok s2 _ =>
          match s2.pteRead m l2.xl c pts with
          | .wait t k => .wait t k
          | .full => .full
          | .bad s3 q g l => .bad s3 q g l
          | .ok s3 e =>
            if !e.testBit 0 then .bad s3 0x01 false lvl
            else if e.testBit 1 then
              if lvl = 0 then .bad s3 0x02 false lvl
              else if badLeaf e lo false then .bad s3 0x02 false lvl
              else .ok s3 (leafOf l2.xl e lo va, l2)
            else if lvl = 4 then .bad s3 0x02 false lvl
            else if badPointer e lvl then .bad s3 0x02 false lvl
            else s3.walk1From m vf c pts va rest (lvl + 1) (e % 2 ^ 48 / 128 * 128)

/-- A page grants what an access needs (R307). -/
def grants (need : Need) (r w c : Bool) : Bool :=
  match need with
  | .read => r
  | .write => w
  | .both => r && w
  | .config => c

/-- A whole walk by the walker of M-tile `m` for an access to `va`: the TLB entry to keep (R195, R307). Permissions are checked before the A and D
bits of the two leaves are set (log 13). -/
def State.walk (s : State) (m vf c pts va : Nat) (need : Need) : WalkRes TlbEnt :=
  match s.walk1From m vf c pts va walkLevels 0 ((s.vf vf).s1root * 2 ^ 13) with
  | .wait t k => .wait t k
  | .full => .full
  | .bad s1 q g l => .bad s1 q g l
  | .ok s1 (l1, up) =>
    let lv1 := if l1.bits = 32 then 1 else if l1.bits = 28 then 2 else if l1.bits = 21 then 3 else 4
    match s1.walk2 m vf c pts l1.out with
    | .wait t k => .wait t k
    | .full => .full
    | .bad s2 q g l => .bad s2 q g l
    | .ok s2 l2 =>
      let lv2 := if l2.bits = 32 then 1 else if l2.bits = 28 then 2 else if l2.bits = 21 then 3 else 4
      if l1.home ≠ 0 ∧ l1.home ≠ l2.home then .bad s2 0x02 false lv1
      else if !grants need l1.r l1.w l1.c then .bad s2 0x02 false lv1
      else if !grants need l2.r l2.w l2.c then .bad s2 0x02 true lv2
      else if l1.wants need.writes ≠ 0 ∧ !up.w then .bad s2 0x02 false lv1
      else
        match s2.markLeaf m l1 c pts need.writes with
        | .wait t k => .wait t k
        | .full => .full
        | .bad s3 q g l => .bad s3 q g l
        | .ok s3 _ =>
          match s3.markLeaf m l2 c pts need.writes with
          | .wait t k => .wait t k
          | .full => .full
          | .bad s4 q g l => .bad s4 q g l
          | .ok s4 _ =>
            .ok s4
              { vf := vf, gen := (s4.vf vf).gen, va := va, bits := Nat.min l1.bits l2.bits, ipa := l1.out
                ipaBits := l2.bits, xl := l2.xl, r := l1.r && l2.r, w := l1.w && l2.w, c := l1.c && l2.c
                d1 := l1.d || need.writes, d2 := l2.d || need.writes }

/-- The TLB set of an entry (R309). -/
def TlbEnt.set (e : TlbEnt) : Nat := e.va / 2 ^ e.bits % 128

/-- An entry translates an address. -/
def TlbEnt.hits (e : TlbEnt) (vf : Nat) (gen : BitVec 4) (va : Nat) : Bool :=
  decide (e.vf = vf) && decide (e.gen = gen) && decide (e.va / 2 ^ e.bits = va / 2 ^ e.bits)

/-- The translation of `va` by an entry. -/
def TlbEnt.at (e : TlbEnt) (va : Nat) : Xl :=
  let pa := e.xl.pa / 2 ^ e.bits * 2 ^ e.bits + va % 2 ^ e.bits
  { e.xl with
    pa := pa
    slice := if e.xl.home = 0 then homeSlice pa none
      else if e.xl.home = 2 then homeSlice pa (some (e.xl.slice % 768)) else 0 }

/-- A TLB with an entry installed as most recent; the least recent of a full set leaves (R309). -/
def tlbInstall (l : List TlbEnt) (e : TlbEnt) : List TlbEnt :=
  let rest := l.filter fun x => !(decide (x.vf = e.vf) && decide (x.bits = e.bits)
    && decide (x.va / 2 ^ x.bits = e.va / 2 ^ e.bits))
  let same := rest.filter fun x => decide (x.set = e.set)
  match same.getLast? with
  | some old => if 4 ≤ same.length then e :: rest.filter (fun x => !decide (x = old)) else e :: rest
  | none => e :: rest

/-- A TLB entry is used: it becomes most recent. -/
def tlbTouch (l : List TlbEnt) (e : TlbEnt) : List TlbEnt := e :: l.filter fun x => !decide (x = e)

/-- What a TLB says of an access: a translation, a missing permission, or a miss (R307, R309). -/
inductive TlbRes where
  | hit (x : Xl) (e : TlbEnt)
  | deny
  | miss
  deriving DecidableEq, Repr

/-- The TLB of M-tile `m` is asked for an access. An address of a held page beyond what is populated has no permission (R194). -/
def State.tlbAsk (s : State) (m vf va : Nat) (need : Need) : TlbRes :=
  match (s.tileAt m).mu.tlb.find? fun e => e.hits vf (s.vf vf).gen va with
  | none => .miss
  | some e =>
    if !grants need e.r e.w e.c || !populated (e.at va).pa then .deny
    else if need.writes && !(e.d1 && e.d2) then .miss
    else .hit (e.at va) e

/-- The translating M-tile of a tile (R197). -/
def xlatTile (t : Nat) : Nat := if kindAt (t % 64) = .m then t else chanTile (coveOfTile t) (t % 64 % 6)

/-- The M-tile of a cove that serves a line (R197). -/
def servingTile (cove pa : Nat) : Nat := chanTile cove (pa / 128 % 6)

/-- A translation for an engine or a host: the TLB first, then a whole walk at once; the entry is kept (R309). -/
def State.xlate (s : State) (m vf c pts va : Nat) (need : Need) : WalkRes Xl :=
  match s.tlbAsk m vf va need with
  | .hit x e => .ok (s.modMu m fun u => { u with tlb := tlbTouch u.tlb e }) x
  | .deny => .bad s 0x02 false 0
  | .miss =>
    match s.walk m vf c pts va need with
    | .wait t k => .wait t k
    | .full => .full
    | .bad s1 q g l => .bad s1 q g l
    | .ok s1 e => .ok (s1.modMu m fun u => { u with tlb := tlbInstall u.tlb e }) (e.at va)

end Sys2Proof.Machine
end

