-- ==== Sys2Proof/Machine/Ops.lean ====
section
/-! DEFINITION. The shared operations of a firing: taking a discarding fault, with its record and its delivery (R28, R270,
R271, R324 to R327), the ends of a firing (R28, R210, R282, R283), tasks and events (R50, R352 to R355), and the return
from a handler (R330). -/

namespace Sys2Proof

/-- The bytes of an access's buffer as a number. -/
def Job.num (j : Job) (off n : Nat) : Nat :=
  (List.range n).foldr (fun i a => (j.buf.get 0 (off + i)).toNat + 256 * a) 0

end Sys2Proof

namespace Sys2Proof.Machine

/-- `n` bytes further, wrapping in the 32-bit offset (R222). -/
def vaAdd (va n : Nat) : Nat := va / 2 ^ 32 * 2 ^ 32 + (va % 2 ^ 32 + n) % 2 ^ 32

/-! ## Rings in memory and fault records -/

/-- A fault record as 256 bits (R325). -/
def recordNat (r : FaultRec) : Nat :=
  r.code.toNat + r.rank.toNat * 2 ^ 8 + (if r.recov then 2 ^ 11 else 0) + r.src.toNat * 2 ^ 12
    + r.vf.toNat * 2 ^ 16 + r.gen.toNat * 2 ^ 23 + r.berth.toNat * 2 ^ 27 + r.tval.toNat * 2 ^ 32
    + r.vahi.toNat * 2 ^ 64 + (if r.wstg then 2 ^ 84 else 0) + r.wlvl.toNat * 2 ^ 85 + r.chan.toNat * 2 ^ 88
    + r.itag.toNat * 2 ^ 96 + r.stag.toNat * 2 ^ 108 + r.tpc.toNat * 2 ^ 128 + r.tile.toNat * 2 ^ 144
    + r.cove.toNat * 2 ^ 150 + r.die.toNat * 2 ^ 156 + r.ttok.toNat * 2 ^ 160 + r.tidx.toNat * 2 ^ 192
    + r.lts % 2 ^ 48 * 2 ^ 208

/-- The place of a tile in a record (R325). -/
def FaultRec.onTile (r : FaultRec) (t : Nat) : FaultRec :=
  { r with tile := BitVec.ofNat 6 t, cove := BitVec.ofNat 6 (t / 64), die := BitVec.ofNat 3 (t / 4096) }

/-- PROD, CONS and LOST of a ring, CONS made to lie within `n` entries of PROD (R270). -/
def State.ringHead (s : State) (acct base n : Nat) : Nat × Nat × Nat × State :=
  let (l, s1) := s.pinRead 4 acct 0 base 12
  let p := leNat (l.take 4)
  let c := leNat ((l.drop 4).take 4)
  (p, if n < (p + 2 ^ 32 - c) % 2 ^ 32 then (p + 2 ^ 32 - n) % 2 ^ 32 else c, leNat (l.drop 8), s1)

/-- A write of an entry of `e` bytes at index `prod`, or of the header, must wait on a PEND line (R216, R270). -/
def State.ringPend (s : State) (base n e prod : Nat) : Bool :=
  s.pinPend base 12 || s.pinPend (base + 64 + e * (prod % n)) e

/-- An entry of `e` bytes is written at index PROD and PROD follows, with a w above the entry's (R270): the state and
that w. -/
def State.ringPut (s : State) (acct base n e prod cts : Nat) (bs : List Byte) : State × Nat :=
  let (s1, w) := s.pinWrite 8 acct cts (base + 64 + e * (prod % n)) bs
  s1.pinWrite 4 acct (w + 1) base (leBytes 4 ((prod + 1) % 2 ^ 32))

/-- A record is dropped: LOST rises, saturating (R270, R271). -/
def State.ringLost (s : State) (acct base lost : Nat) : State :=
  (s.pinWrite 4 acct 0 (base + 8) (leBytes 4 (Nat.min 0xFFFFFFFF (lost + 1)))).1

/-- A ring is installed: PROD, CONS and LOST are 0 (R270). -/
def State.ringInit (s : State) (acct base : Nat) : State := (s.pinWrite 4 acct 0 base (List.replicate 12 0)).1

/-- The fault edge of a rank in a partition's chart (R326). -/
def State.faultEdge (s : State) (part rank : Nat) : Option Nat :=
  (s.cfg.chans.find? fun e => decide (e.2.part = part) && decide (e.2.src = .fault rank)).map fun e => e.1

/-- `s` with the fault unit of a partition changed. -/
def State.modFault (s : State) (part : Nat) (f : FaultUnit → FaultUnit) : State :=
  s.modHd fun h => { h with faults := h.faults.set {} part (f (h.faults.get {} part)) }

/-- The tile that a record names. -/
def recordTile (r : FaultRec) : Nat := tileOfCove (r.die.toNat * 64 + r.cove.toNat) r.tile.toNat

/-- A posted record goes on the fault edge of its berth's region, or to the rank-6 agent's intake (R327 steps 3 and 4,
R331). -/
def State.routeRecord (s : State) (part : Nat) (r : FaultRec) : State :=
  let rank := if r.src = 0 then (s.berth (recordTile r) r.berth.toNat).rank.toNat else 0
  match (if rank < 5 then s.faultEdge part rank else none) with
  | some _ =>
    let s1 := s.modFault part fun u => { u with toEdge := u.toEdge.set [] rank (u.toEdge.get [] rank ++ [r]) }
    s1.after 1 .faultEdgeSend { a := part, b := rank }
  | none =>
    (s.modHd fun h => { h with fintake := h.fintake ++ [r] }).after 1 .faultEdgeSend { a := agentPart, b := 6 }

/-- The management core stops the agent's chart and raises the PF's error vector (R327 step 5). -/
def State.agentFault (s : State) : State :=
  s.modHd fun h =>
    { h with agentDown := true, gated := h.gated.put agentPart true, out := h.out ++ [.pfVector 0] }

/-- The faulting berth stops, where a record stops one (R327 step 2). -/
def State.stopBerth (s : State) (stop : Option (Nat × Nat)) : State :=
  match stop with
  | some (t, b) => s.modRun t b fun x => { x with stopped := true }
  | none => s

/-- A record of the agent's chart, which has no fault queue: a fault of a rank-6 firing goes to the management core, any other to its
fault edge or the intake (R327 steps 2 to 5; log 106). -/
def State.agentRecord (s : State) (r : FaultRec) (stop : Option (Nat × Nat)) : State :=
  let s1 := s.stopBerth stop
  if r.src = 0 ∧ (s.berth (recordTile r) r.berth.toNat).rank = 6 then s1.agentFault else s1.routeRecord agentPart r

/-- A record is posted and delivered, or dropped when the queue is full (R271, R325, R327). `stop` names the berth that
stops with it. -/
def State.postNow (s : State) (part : Nat) (r : FaultRec) (stop : Option (Nat × Nat)) : State :=
  let base := (s.part part).fqbase
  let (p, c, lost, s1) := s.ringHead r.vf.toNat base 64
  if (p + 2 ^ 32 - c) % 2 ^ 32 = 64 then s1.ringLost r.vf.toNat base lost
  else
    let (s2, w) := s1.ringPut r.vf.toNat base 64 32 p r.lts (leBytes 32 (recordNat r))
    let s3 := s2.modFault part fun u => { u with posted := u.posted + 1 }
    (s3.stopBerth stop).routeRecord part { r with prod := w }

/-- A partition's fault queue holds no free entry. -/
def State.queueFull (s : State) (part acct : Nat) : Bool :=
  let (p, c, _, _) := s.ringHead acct (s.part part).fqbase 64
  decide ((p + 2 ^ 32 - c) % 2 ^ 32 = 64)

/-- The unit's next write to a partition's fault queue waits on a PEND line (R216, R270). -/
def State.queuePend (s : State) (part acct : Nat) : Bool :=
  let base := (s.part part).fqbase
  let (p, _, _, _) := s.ringHead acct base 64
  s.ringPend base 64 32 p

/-- The records that wait for room enter the queue while it has some, oldest first (R271). -/
def State.postWaits (s : State) (part : Nat) (l : List FaultRec) : State :=
  match l with
  | [] => s
  | r :: rest =>
    if s.queueFull part r.vf.toNat || s.queuePend part r.vf.toNat then s
    else ((s.modFault part fun v => { v with waitXlate := rest }).postNow part r none).postWaits part rest

/-- A record waits at its fault unit, behind those that wait there, until the lines of the ring are no longer PEND (R216, R270; log
11). -/
def State.waitRing (s : State) (part : Nat) (r : FaultRec) (stop : Option (Nat × Nat)) : State :=
  let u := s.hd.faults.get {} part
  let s1 := s.modFault part fun v => { v with waitPend := v.waitPend ++ [(r, stop)] }
  if u.waitPend = [] ∧ u.waitXlate = [] then s1.after 1 .xlateRecordPost { a := part } else s1

/-- A record reaches the harbour: it is posted behind those of its partition that came before it (R271, R325, R327). -/
def State.postRecord (s : State) (part : Nat) (r : FaultRec) (stop : Option (Nat × Nat)) : State :=
  if part = agentPart then s.agentRecord r stop
  else
    let s1 := s.postWaits part (s.hd.faults.get {} part).waitXlate
    if (s.hd.faults.get {} part).waitPend ≠ [] ∨ s1.queuePend part r.vf.toNat then s1.waitRing part r stop
    else s1.postNow part r stop

/-- The record of a fault of a firing (R325). -/
def State.firingRecord (s : State) (t : Nat) (f : Firing) (e : Trap) : FaultRec :=
  FaultRec.onTile
    { code := e.code, rank := e.rank.getD (s.berth t f.berth).rank, vf := f.cx, gen := (s.vf f.cx.toNat).gen
      berth := BitVec.ofNat 4 f.berth, tval := e.tval, vahi := e.vahi, wstg := e.wstg, wlvl := e.wlvl, itag := f.itag, stag := f.stag
      tpc := BitVec.ofNat 16 f.pc, lts := f.pts
      ttok := f.cls.setWidth 23 ||| (f.dport.setWidth 23 <<< 8) ||| (f.itag.setWidth 23 <<< 11) } t

/-! ## Tasks and event bits (R50, R352 to R355) -/

/-- The wait mask of a spawn record (R293). -/
def waitMask (r : LineBits) : BitVec 256 := r.extractLsb' 128 256
/-- The set mask. -/
def setMaskOf (r : LineBits) : BitVec 256 := r.extractLsb' 384 256
/-- The priority. -/
def taskPrio (r : LineBits) : Nat := (r.extractLsb' 1 2).toNat
/-- The record is a compute task's. -/
def isCompute (r : LineBits) : Bool := r.getLsbD 0
/-- The successors. -/
def successors (r : LineBits) : List Nat :=
  (List.range (Nat.min 16 (r.extractLsb' 11 5).toNat)).map fun k => (r.extractLsb' (640 + 16 * k) 9).toNat

/-- A task of a cove is ready (R50). -/
def Cove.taskReady (c : Cove) (x : Nat) : Bool :=
  let e := c.tasks.get {} x
  decide (e.state = 2) && decide (e.count = 0) && decide (waitMask e.record &&& ~~~c.events = 0)

/-- The agenda with a task's entry into its FIFO due at fc `n`, before those of tasks of its cove with a higher index
(R266). -/
def insertTask (n cove x : Nat) (l : List (Nat × Instr × EvArg)) : List (Nat × Instr × EvArg) :=
  let after (e : Nat × Instr × EvArg) : Bool :=
    decide (n < e.1) || (decide (e.1 = n) && decide (e.2.1 = .taskReady) && decide (e.2.2.a = cove) && decide (x < e.2.2.b))
  l.takeWhile (fun e => !after e) ++ (n, .taskReady, { a := cove, b := x }) :: l.dropWhile fun e => !after e

/-- Tasks of a cove whose condition holds enter their FIFO in the next fc, in ascending index (R266). -/
def State.lookTasks (s : State) (cove : Nat) : State :=
  let c := s.coveAt cove
  let ready := (c.tasks.filter fun e => c.taskReady e.1).map fun e => e.1
  ready.foldl (fun a x =>
    if a.agenda.any fun e => decide (e.2.1 = .taskReady) && decide (e.2.2.a = cove) && decide (e.2.2.b = x) then a
    else { a with agenda := insertTask (a.now + 1) cove x a.agenda }) s

/-- An event bit is set at a timestamp (R354). -/
def Cove.setEvent (c : Cove) (n ts : Nat) : Cove :=
  let old := if c.events.getLsbD n then c.ets.get 0 n else 0
  { c with events := c.events ||| BitVec.twoPow 256 n, ets := c.ets.set 0 n (Nat.max old ts) }

/-- An event bit is cleared (R354). -/
def Cove.clearEvent (c : Cove) (n : Nat) : Cove :=
  { c with events := c.events &&& ~~~(BitVec.twoPow 256 n), ets := c.ets.set 0 n 0 }

/-- A decrement by `n` of task entry `x` (R353): none on an underflow. -/
def Cove.decrement (c : Cove) (x n ts : Nat) : Option Cove :=
  let e := c.tasks.get {} x
  if e.state = 0 ∨ e.state = 1 ∨ e.count < n then none
  else
    let k := e.count - n
    let e2 := { e with count := k, cts := Nat.max e.cts ts, cntu := if k = 0 then false else e.cntu }
    some { c with tasks := c.tasks.set {} x e2 }

/-- TVAL of an underflow (R353). -/
def underflowVal (c : Cove) (x : Nat) : W32 :=
  let e := c.tasks.get {} x
  BitVec.ofNat 32 (if e.state = 0 ∨ e.state = 1 then x + 0x10000 else x)

/-- A decrement made by a task or a command; an underflow posts the record `r` on the rank-0 edge (R353). -/
def State.engineDecrement (s : State) (cove x ts : Nat) (r : FaultRec) : State :=
  let c := s.coveAt cove
  match c.decrement x 1 ts with
  | some d => s.setCove cove d
  | none =>
    s.postRecord (s.covePart cove) { r with code := 0x07, src := 1, tval := underflowVal c x } none

/-- A task of a cove finishes at a timestamp: its set bits, its successors, its entry (R50, R352). The record of an
underflow has LTS `lts`: the finishing firing's pts, or the copy command's cts (R325). -/
def State.finishTask (s : State) (cove x ts lts : Nat) : State :=
  let e := (s.coveAt cove).tasks.get {} x
  let bits := (List.range 256).filter fun n => (setMaskOf e.record).getLsbD n
  let s1 := s.modCove cove fun c => bits.foldl (fun a n => a.setEvent n ts) c
  let r : FaultRec := FaultRec.onTile
    { chan := 7, tidx := BitVec.ofNat 16 x, vf := BitVec.ofNat 7 e.vf, gen := (s.vf e.vf).gen, lts := lts } (cove * 64)
  let r := { r with tile := 0 }
  let s2 := (successors e.record).foldl (fun a y => a.engineDecrement cove y ts r) s1
  s2.modCove cove fun c => { c with tasks := c.tasks.drop x }

/-- The order of the changes of one fc: finishes by table index, then completions by channel (R355). -/
def TaskChange.key (c : TaskChange) : Nat :=
  match c with
  | .finish x _ _ => x
  | .event k _ _ => 512 + k
  | .dec k _ _ _ => 512 + k

/-- A change put behind those that go before it. -/
def insertChange (c : TaskChange) (l : List TaskChange) : List TaskChange :=
  match l with
  | [] => [c]
  | d :: r => if c.key < d.key then c :: d :: r else d :: insertChange c r

/-- A change falls due at the task unit of a cove in this fc (R355). -/
def State.dueChange (s : State) (cove : Nat) (c : TaskChange) : State :=
  s.modCove cove fun v => { v with due := insertChange c v.due }

/-- One change takes place. -/
def State.applyChange (s : State) (cove : Nat) (c : TaskChange) : State :=
  match c with
  | .finish x ts lts => s.finishTask cove x ts lts
  | .event _ n ts => s.modCove cove fun v => v.setEvent n ts
  | .dec _ x ts r => s.engineDecrement cove x ts r

/-- The task unit of a cove applies the changes of this fc in order, and looks at its tasks (R355). -/
def State.applyDue (s : State) (cove : Nat) : State :=
  ((s.coveAt cove).due.foldl (fun (a : State) c => a.applyChange cove c) (s.modCove cove fun v => { v with due := [] })).lookTasks
    cove

/-- A task of a cove finishes in this fc (R50, R352). -/
def State.taskFinish (s : State) (cove x ts lts : Nat) : State := s.dueChange cove (.finish x ts lts)

/-- A task of a cove fails: its entry frees (R352). -/
def State.taskFail (s : State) (cove x : Nat) : State := s.modCove cove fun c => { c with tasks := c.tasks.drop x }

/-! ## Waiting firings -/

/-- The number of a firing slot of the package. -/
def slotId (t k : Nat) : Nat := t * 8 + k

/-- Firings that wait on PEND lines or on berm entries try again in the next fc (R209, R210, R228). -/
def State.wakeWaiters (s : State) : State :=
  let l := s.tiles.flatMap fun e => e.2.slots.map fun f => (e.1, f.1, f.2)
  l.foldl (fun a x =>
    match x.2.2.job with
    | some j =>
      match j.stage with
      | .pend _ => a.after 1 .accessRetry { a := x.1, b := x.2.1 }
      | .fill _ => a.after 1 .fillWaitResume { a := x.1, b := x.2.1 }
      | .berm => a.after 1 .bermWaitResume { a := x.1, b := x.2.1 }
      | _ => a
    | none => a) s

/-- Firings that wait for frame space on a tile try again in the next fc (R37). -/
def State.wakeFrames (s : State) (t : Nat) : State :=
  let l := s.tiles.flatMap fun e => e.2.slots.map fun f => (e.1, f.1, f.2)
  l.foldl (fun a x =>
    match x.2.2.wait with
    | .frame _ u _ _ _ => if u = t then a.after 1 .frameSpaceResume { a := x.1, b := x.2.1, c := t } else a
    | _ => a) s

/-- A firing leaves every queue that its accesses stand in; requests behind it go on. -/
def State.purge (s : State) (t k : Nat) : State :=
  let id := slotId t k
  let clean (e : Nat × List (Nat × Nat)) : Option (Nat × List (Nat × Nat)) :=
    let l := e.2.filter fun r => !decide (r.2 = id)
    if l = [] then none else some (e.1, l)
  let s1 := s.modHd fun h => { h with unitq := h.unitq.filterMap clean }
  let m := xlatTile t
  if (s1.tileAt m).mu.inq.contains (t, k) then
    let s2 := s1.modMu m fun u => { u with inq := u.inq.filter fun r => !decide (r = (t, k)) }
    match (s2.tileAt m).mu.inq with
    | [] => s2
    | (a, b) :: _ => s2.after 1 .accessRetry { a := a, b := b }
  else s1

/-! ## Held stores (R209, R210, R227) -/

/-- The berm entries of a firing, with their M-tiles. -/
def State.heldLines (s : State) (t k : Nat) : List (Nat × BermEnt) :=
  (List.range 6).flatMap fun n =>
    let m := chanTile (coveOfTile t) n
    ((s.tileAt m).mu.berm.filter fun e => decide (e.tile = t) && decide (e.slot = k)).map fun e => (m, e)

/-- `s` without the berm entries of a firing. -/
def State.dropHeld (s : State) (t k : Nat) : State :=
  (List.range 6).foldl (fun a n =>
    let m := chanTile (coveOfTile t) n
    if (a.tileAt m).mu.berm.any fun e => decide (e.tile = t) && decide (e.slot = k) then
      a.modMu m fun u => { u with berm := u.berm.filter fun e => !(decide (e.tile = t) && decide (e.slot = k)) }
    else a) s

/-- The held home-11 lines of a firing are ordered at their channels as they merge (R200, R391): the pts after. -/
def State.orderHeld11 (s : State) (l : List (Nat × BermEnt)) (pts : Nat) : State × Nat :=
  l.foldl (fun a e =>
    if e.2.home = 3 then
      let t := Nat.max a.2 (a.1.cwts (e.2.line * 128)) + 1
      (a.1.setCwts (e.2.line * 128) t, t)
    else a) (s, pts)

/-- A discarded berm entry as it is written: only the elements that BINAPP reserved, as 0xFFFFFFFF (R258). -/
def binEntry (bins : List (Nat × Nat × Nat)) (m : Nat) (e : BermEnt) : BermEnt :=
  let offs := (bins.filter fun b => decide (b.1 = m) && decide (b.2.1 = e.place)).map fun b => b.2.2
  { e with data := BitVec.allOnes 1024, mask := offs.foldl (fun a o => a ||| byteMask o 4) 0 }

/-- The held lines of a firing are committed or discarded (R210, R258). -/
def State.releaseLines (s : State) (t k c : Nat) (bins : List (Nat × Nat × Nat)) (commit : Bool) : State :=
  let l := s.heldLines t k
  if l = [] then s
  else
    let s1 := l.foldl (fun a e =>
      let b := if commit then e.2 else binEntry bins e.1 e.2
      a.homeRelease b (s.account t c) (commit || decide (b.mask ≠ 0))) s
    (s1.dropHeld t k).wakeWaiters

/-! ## Ends of a firing -/

/-- The reserved hold entries of a firing go (R256). -/
def State.dropHolds (s : State) (t k : Nat) : State :=
  (List.range 6).foldl (fun a n =>
    let m := chanTile (coveOfTile t) n
    if (a.tileAt m).mu.hold.contains (.reserved t k) then
      a.modMu m fun u => { u with hold := u.hold.filter fun h => !decide (h = .reserved t k) }
    else a) s

/-- A rays' slot of the ring that is free, from `n` up. -/
def freeRing (m : Map Ray) (n fuel : Nat) : Nat :=
  match fuel with
  | 0 => n
  | k + 1 => if (m.look n).isNone then n else freeRing m (n + 1) k

/-- The payload of a ray as it is injected under a scene descriptor: NODE and a default BUDG (R298). -/
def injectPay (desc : Nat) (pay : VBits) : VBits :=
  let w9 := lane pay 9
  let budget : W32 := BitVec.ofNat 32 (desc / 2 ^ 128 % 2 ^ 16 * 65536)
  ofLanes fun l =>
    if l = 10 then BitVec.ofNat 32 (desc / 2 ^ 96)
    else if l = 9 then (if w9.extractLsb' 16 16 = 0 then w9 ||| budget else w9)
    else lane pay l

/-- The descriptor of a cove's scene slot; zero when it is unconfigured. -/
def Cove.scene (c : Cove) (n : Nat) : Nat := (c.scenes.get 0 n).toNat

/-- Rays of scene slot `scene` may be injected: no ISCFG of that slot is pending (R296). -/
def Cove.isOpen (c : Cove) (scene : Nat) : Bool := c.pend.all fun e => !decide (e.2.scene = scene)

/-- The byte address of the spill record of ring slot `n` (R298). -/
def spillAddr (cove desc n : Nat) : Nat := poolAddr cove + desc / 2 ^ 160 % 2 ^ 21 + 256 * n

/-- The ray in ring slot `n` of a cove is injected under its slot's descriptor; its spill record holds no entry (R296,
R298). -/
def State.injectRay (s : State) (cove n : Nat) (r : Ray) : State :=
  let desc := (s.coveAt cove).scene r.scene
  let r2 := { r with flying := true, pay := injectPay desc r.pay }
  let s1 := s.modCove cove fun d => { d with ring := d.ring.put n r2 }
  let s2 := if desc = 0 then s1 else (s1.pinWrite 2 r.vf r.lts (spillAddr cove desc n) (leBytes 4 0)).1
  s2.after 1 .rayNodeVisit { a := cove, b := n }

/-- The rays of a scene slot that stayed in their ring slots are injected, when no ISCFG of the slot is pending (R296). -/
def State.injectHeld (s : State) (cove scene : Nat) : State :=
  let c := s.coveAt cove
  if c.isOpen scene then
    (c.ring.filter fun e => !e.2.flying && decide (e.2.scene = scene)).foldl (fun a e => a.injectRay cove e.1 e.2) s
  else s

/-- An ISCFG of a firing that ends without its descriptor being written is pending no longer. -/
def State.dropPend (s : State) (t k : Nat) : State :=
  let cove := coveOfTile t
  match (s.coveAt cove).pend.look (slotId t k) with
  | none => s
  | some p => (s.modCove cove fun c => { c with pend := c.pend.drop (slotId t k) }).injectHeld cove p.scene

/-- A reserved hold entry now holds what the firing committed (R256, R360). -/
def State.keepHold (s : State) (m t k : Nat) (h : Hold) : State :=
  s.modMu m fun u => { u with hold := u.hold.erase (.reserved t k) ++ [h] }

/-- The iteration tags of staged LOOPCs, which carry DPORT 7 until they are sent (R290). -/
def loopTags (l : List Staged) : List (BitVec 12) :=
  l.filterMap fun e => match e with
    | .token _ tok => if tok.dport = 7 then some tok.itag else none
    | _ => none

/-- A staged token as it is committed: the firing's ERR and pts, the current generation of its context, and AXIS 0 where HAARL
is 0 (R29, R56). -/
def State.committed (s : State) (f : Firing) (k : Token) : Token :=
  { k with lts := f.pts, gen := (s.vf k.ctx.toNat).gen, err := f.err, haar := if k.haar.toNat < 8 then 0 else k.haar }

/-- One of the reservations on a channel is used: what is left of them, and the consumer replica that it is for. -/
def useResv (rs : List Resv) (chan : Nat) : Option (List Resv × Nat) :=
  (rs.find? fun r => decide (r.chan = chan) && decide (0 < r.n)).map fun r =>
    (rs.map fun x => if x = r then { x with n := x.n - 1 } else x, r.crep)

/-- One staged effect takes place (R28). `rs` are the reservations still unused. -/
def State.commitOne (s : State) (t : Nat) (f : Firing) (rs : List Resv) (e : Staged) : State × List Resv :=
  match e with
  | .token chan tok =>
    match useResv rs chan with
    | none => (s, rs)
    | some (rs2, crep) => (s.sendToken t chan crep (s.committed f tok), rs2)
  | .permit cove chan n =>
    let m := chanTile cove chan
    let total := (s.tileAt m).mu.permits + n
    let s1 := s.modMu m fun u => { u with permits := Nat.min 64 total }
    let s2 := if 64 < total then s1.countDrop f.cx.toNat (total - 64) else s1
    (s2.after 1 .loadWalkTile { a := m }, rs)
  | .task cove idx record =>
    let cnt := (record.extractLsb' 3 8).toNat
    let ent : TaskEnt :=
      { state := 2, count := cnt, cntu := decide (cnt ≠ 0), vf := f.cx.toNat, cts := f.pts, record := record }
    let s1 := s.modCove cove fun c => { c with tasks := c.tasks.set {} idx ent }
    (s1.lookTasks cove, rs)
  | .ray chan scene pay itag stag =>
    match useResv rs chan with
    | none => (s, rs)
    | some (rs2, crep) =>
      let cove := coveOfTile t
      let c := s.coveAt cove
      let n := freeRing c.ring 0 256
      let s := s.charge t f.cx.toNat 60 (rayFlits * hops t (ringTile cove n))
      let ray : Ray :=
        { pay := pay, scene := scene, chan := chan, vf := f.cx.toNat, gen := f.gen, itag := itag
          stag := stag, err := f.err, lts := f.pts, home := crep }
      if c.isOpen scene then (s.injectRay cove n ray, rs2)
      else (s.modCove cove fun c => { c with ring := c.ring.put n ray }, rs2)
  | .batch m held b =>
    let s0 := if held then s.keepHold m b.tile b.slot (.batch { b with cts := f.pts }) else s
    let (id, s1) := s0.fresh
    let b := { b with cts := f.pts }
    let s2 := s1.modNet fun w => { w with orders := w.orders.put id (.batch m held b) }
    (s2.after (1 + hops t m) .batchOrderArrival { a := id }, rs)
  | .occq m held o =>
    let s0 := if held then s.keepHold m o.tile o.slot (.occq { o with cts := f.pts }) else s
    let (id, s1) := s0.fresh
    let o := { o with cts := f.pts }
    let s2 := s1.modNet fun w => { w with orders := w.orders.put id (.occq m held o) }
    (s2.after (1 + hops t m) .occqArrival { a := id }, rs)

/-- Staged effects take place in staging order (R28): the reservations left. -/
def State.commitAll (s : State) (t : Nat) (f : Firing) (rs : List Resv) (l : List Staged) : State × List Resv :=
  match l with
  | [] => (s, rs)
  | e :: r => (s.commitOne t f rs e).1.commitAll t f (s.commitOne t f rs e).2 r

/-- Staged task entries are released (R294). -/
def State.dropSpawns (s : State) (l : List Staged) : State :=
  l.foldl (fun a e => match e with
    | .task cove idx _ => a.modCove cove fun c => { c with tasks := c.tasks.drop idx }
    | _ => a) s

/-- What a TSPAWN whose record is still being read has reserved is released (R294). -/
def State.dropSpawn (s : State) (t : Nat) (f : Firing) : State :=
  match f.job with
  | none => s
  | some j =>
    match j.cont with
    | .tspawn _ entry _ got =>
      if got = 0 then s else s.modCove (coveOfTile t) fun c => { c with tasks := c.tasks.drop entry }
    | _ => s

/-- Unused reservations go back to their producer, which can use them from the next fc on (R28, R261). -/
def State.giveBack (s : State) (rs : List Resv) : State :=
  rs.foldl (fun a r => if r.n = 0 then a else a.after 1 .creditReturn { a := r.chan, b := r.crep, c := r.prep, l := [r.n] }) s

/-- The waiting tokens bound to a berth's firing. -/
def State.boundOf (s : State) (t b : Nat) : List Waiting :=
  (s.tileAt t).wait.filter fun w => w.bound && decide (w.berth = b)

/-- Tokens left in place are no longer bound (R28). -/
def State.unbind (s : State) (t b : Nat) : State :=
  s.modTile t fun x => { x with wait := x.wait.map fun w => if w.berth = b then { w with bound := false } else w }

/-- The tokens that a firing of a berth consumes: the bound ones, but the one of the port that a MERGE did not choose (R28,
R289). -/
def State.consumedOf (s : State) (t b : Nat) (merge : Option (BitVec 2)) : List Waiting :=
  (s.boundOf t b).filter fun w => !decide (merge = some (BitVec.ofNat 2 w.port) ∧ w.port < 4)

/-- The tasks whose start tokens are among some tokens (R352). -/
def tasksOf (l : List Waiting) : List Nat := l.filterMap fun w => w.tok.task

/-- The bound tokens of a firing are consumed, but the one of the port that a MERGE did not choose; tags of a loop-carry
actor leave its live set (R28, R289, R290). -/
def State.consumeBound (s : State) (t b : Nat) (merge : Option (BitVec 2)) : State :=
  let l := s.consumedOf t b merge
  let s1 := l.foldl (fun a w => a.consume t w) s
  let gone := l.map fun w => w.tok.itag
  (s1.modRun t b fun r => { r with live := r.live.filter fun g => !gone.contains g }).unbind t b

/-- A firing leaves its slot. -/
def State.leave (s : State) (t k : Nat) (f : Firing) : State :=
  let s1 := s.modTile t fun x => { x with slots := x.slots.drop k }
  s1.modRun t f.berth fun r => { r with lastPts := Nat.max r.lastPts f.pts }

/-- A firing ends as END or ENDF does, all in one fc: inputs, sends, stores, reservations, frame (R28, R282). -/
def State.endFiring (s : State) (t k : Nat) (f : Firing) (endf : Bool) : State :=
  let c := f.cx.toNat
  let held := s.heldLines t k
  let (s0, pts) := s.orderHeld11 held f.pts
  let f := { f with pts := pts }
  let s1 := s0.consumeBound t f.berth f.merge
  let s2 := s1.modRun t f.berth fun r => { r with live := r.live ++ loopTags f.staged }
  let (s3, rs) := s2.commitAll t f f.resv f.staged
  let s4 := s3.releaseLines t k c f.bins true
  let s5 := s4.giveBack rs
  let s6 := if (endf || f.freeAtEnd) && f.isTagged then
      (s5.modTile t fun x => x.dropFrame f.fp).wakeFrames t
    else s5
  (tasksOf (s.consumedOf t f.berth f.merge)).foldl (fun (a : State) x => a.taskFinish (coveOfTile t) x pts pts)
    ((s6.purge t k).leave t k f)

/-- `n` bytes of 0xFF are written at the home of VA `va`, within a line (R258; log 102). -/
def State.gapWrite (s : State) (t : Nat) (f : Firing) (va n : Nat) : State :=
  if n = 0 ∨ va / 2 ^ 16 = 0 ∨ va / 2 ^ 32 = 0xFFFFF then s
  else
    let c := s.account t f.cx.toNat
    let m := byteMask (va % 128) n
    let g (l : LineBits) : LineBits := mergeLine l (BitVec.allOnes 1024) m
    match s.xlate (xlatTile t) (s.xlVf t f.cx.toNat) c f.pts va .write with
    | .ok s1 x =>
      match s1.homeUpdate x c f.pts g m with
      | .done s2 _ _ _ _ => s2
      | _ =>
        let (d, s2) := s1.homeData x c
        s2.homeWrite x (g d) c
    | _ => s

/-- The VA of the list entry that BINAPP has reserved and not yet written: the head's home has answered with a COUNT below CAP
(R258). -/
def State.binGap (s : State) (t : Nat) (f : Firing) : Option Nat :=
  f.job.bind fun j =>
    match j.cont, j.ops with
    | .binel _ _, o :: _ => if j.stage = .reply then none else some o.va
    | .binapp _ _, l =>
      if (j.stage = .reply ∨ l = []) ∧ j.old ≠ 0xFFFFFFFF then
        some (vaAdd ((s.berth t f.berth).wbase.toNat * 2 ^ 32) (j.num 8 4 + 4 * j.old.toNat))
      else none
    | _, _ => none

/-- A firing that ends between BINAPP's head update and its element write leaves 0xFFFF_FFFF in the list (R258; log 102). -/
def State.fillGap (s : State) (t : Nat) (f : Firing) : State :=
  match s.binGap t f with
  | none => s
  | some va => (s.gapWrite t f va (inLine va 4)).gapWrite t f (vaAdd va (inLine va 4)) (4 - inLine va 4)

/-- Aperture stores that wait for a queue or quota entry try again (R241). -/
def State.wakeApertures (s : State) : State :=
  let l := s.tiles.flatMap fun e => e.2.slots.filterMap fun g => if g.2.wait = .aperture then some (e.1, g.1) else none
  l.foldl (fun a x => a.modFiring x.1 x.2 fun f => { f with wait := .no }) s

/-- The channel's M-tile, where the access of a firing is an aperture store that has been ordered: its place in the channel's queue
is free again when it goes (R241). -/
def Firing.inAperture (f : Firing) : Option Nat :=
  match f.job with
  | some j => match j.cont with
    | .aperture m _ _ => some m
    | _ => none
  | none => none

/-- What YIELD, a wound and a fault share: staged effects and held stores are discarded, reservations released (R28, R210,
R241, R256, R258, R292, R294). Where that frees a place in a channel's queue, aperture stores and copy tasks that wait for one go on
(R54, R268). -/
def State.discard (s : State) (t k : Nat) (f : Firing) : State :=
  let s1 := ((((s.dropSpawns f.staged).dropSpawn t f).dropHolds t k).dropPend t k).fillGap t f
  let s2 := s1.releaseLines t k f.cx.toNat f.bins false
  let s3 := (s2.giveBack f.resv).purge t k
  match f.inAperture with
  | some m => s3.wakeApertures.after 1 .computeTaskDispatch { a := coveOfTile m }
  | none => s3

/-- A firing ends as YIELD does (R28, R283); wounds end so too (R211, R228). -/
def State.yieldFiring (s : State) (t k : Nat) (f : Firing) : State :=
  let s1 := ((s.discard t k f).unbind t f.berth).leave t k f
  s1.modRun t f.berth fun r => { r with backoff := some (s.now + 65) }

/-- A discarding fault: the firing ends, its record is posted and delivered (R28, R324, R325, R327). -/
def State.takeFault (s : State) (t k : Nat) (f : Firing) (e : Trap) : State :=
  let r := s.firingRecord t f e
  let part := (s.tcfg t).part
  let s1 := (s.consumeBound t f.berth none).discard t k f
  let s3 := (tasksOf (s.boundOf t f.berth)).foldl (fun (a : State) x => a.taskFail (coveOfTile t) x) (s1.leave t k f)
  s3.postRecord part r (some (t, f.berth))

/-! ## Running an instruction of a firing -/

/-- What an instruction of the firing `f` in slot `k` of tile `t` sees. -/
def State.view (s : State) (f : Firing) : View :=
  { tile := s.tile, t := s.tileAt s.tile, f := f, c := s.tcfg s.tile, b := s.berth s.tile f.berth }

/-- The pc after an instruction that is no taken branch: loops go back or end (R285). -/
def loopBack (loops : List Loop) (pc : Nat) : Nat × List Loop :=
  match loops with
  | [] => (pc, [])
  | l :: r =>
    if pc = l.endp then
      if 1 < l.remaining then (l.start, { l with remaining := l.remaining - 1 } :: r) else loopBack r pc
    else (pc, l :: r)

/-- The firing moves past an instruction of `n` halfwords (R285). -/
def Firing.advance (f : Firing) (n : Nat) : Firing :=
  let (pc, l) := loopBack f.loops (f.pc + n)
  { f with pc := pc, loops := l }

/-- A view is written back, with its charges. -/
def State.writeBack (s : State) (v : View) : State :=
  (s.setTile s.tile { v.t with slots := v.t.slots.put s.slot v.f }).charges s.tile v.f.cx.toNat v.extra

/-- An instruction of `n` halfwords and class `cls` that works on registers. A trap discards the firing, and the charges of operands
reconstructed before it are not made (log 107); otherwise the firing goes on behind the instruction (R28, R118, R119). -/
def State.runView (s : State) (cls n : Nat) (g : View → Except Trap View) : Host.Outcome State Fault Refusal :=
  match s.firing s.tile s.slot with
  | none => .refused .noFiring
  | some f =>
    let s1 := s.charge s.tile f.cx.toNat cls 1
    match g (s1.view f) with
    | .error e => .next (s1.takeFault s.tile s.slot f e)
    | .ok v => .next (s1.writeBack { v with f := v.f.advance n })

/-- An instruction that also sets the pc itself: `g` answers the firing's next pc and loops with the view. -/
def State.runJump (s : State) (cls : Nat) (g : View → Except Trap View) : Host.Outcome State Fault Refusal :=
  match s.firing s.tile s.slot with
  | none => .refused .noFiring
  | some f =>
    let s1 := s.charge s.tile f.cx.toNat cls 1
    match g (s1.view f) with
    | .error e => .next (s1.takeFault s.tile s.slot f e)
    | .ok v => .next (s1.writeBack v)

/-- An instruction that acts beyond the tile: `g` answers the state after it, in which the firing is left as it wants; a
trap discards the firing. -/
def State.runFiring (s : State) (cls : Nat) (g : State → Firing → Except Trap State) :
    Host.Outcome State Fault Refusal :=
  match s.firing s.tile s.slot with
  | none => .refused .noFiring
  | some f =>
    let s1 := s.charge s.tile f.cx.toNat cls 1
    match g s1 f with
    | .error e => .next (s1.takeFault s.tile s.slot f e)
    | .ok t => .next t

/-! ## Ends of copy commands (R243, R245, R246) -/

/-- The running command of channel `m` ends at timestamp `ts`: completed when `ok`, else stopped. Its firing's DRAIN and the
channel's next command look again, and a copy task finishes or fails with it (R243, R245, R246, R352). -/
def State.endCommand (s : State) (m : Nat) (ok : Bool) (ts : Nat) : State :=
  match (s.tileAt m).mu.run with
  | none => s
  | some c =>
    let s1 := (s.modMu m fun u =>
      { u with run := none, egWait := none, lastDone := if ok then Nat.max u.lastDone ts else u.lastDone }).wakeApertures
    let s2 := s1.modFiring c.tile c.slot fun f =>
      if f.cmds.contains c.id then
        { f with
          cmds := f.cmds.filter fun n => !decide (n = c.id)
          done := if ok then Nat.max f.done ts else f.done
          stopped := if ok then f.stopped else f.stopped + 1
          wait := if f.wait = .drain then .no else f.wait }
      else f
    let s3 := match c.task with
      | none => s2.landedOn c.tile
      | some x => if ok then s2.taskFinish (coveOfTile m) x ts c.cts else s2.taskFail (coveOfTile m) x
    s3.after 1 .bteCommandStart { a := m }

/-! ## Returning from a handler (R330) -/

/-- The units that translate on M-tile `m` and wait with a walk of the page `pg` are held with it (`hold`), or walk again: its
channel's command, rays, the requests of G-tiles, and copy tasks whose template it translates (R309, R330). -/
def State.turnUnits (s : State) (m : Nat) (pg : Nat × Nat) (hold : Bool) : State :=
  let c := coveOfTile m
  let mine (j : Option (Nat × Nat)) (held : Bool) : Bool := decide (j = some pg) && decide (held ≠ hold)
  let s1 := match (s.tileAt m).mu.run with
    | some r =>
      if mine r.join r.stalled then
        let a := s.modMu m fun u => { u with run := some { r with stalled := hold, join := if hold then r.join else none } }
        if hold then a else a.after 1 .engineWrite { a := m }
      else s
    | none => s
  let s2 := (s.coveAt c).ring.foldl (fun (a : State) e =>
    if mine e.2.join e.2.stalled ∧ xlatTile (ringTile c e.1) = m then
      let b := a.modCove c fun v => { v with ring := v.ring.put e.1 { e.2 with stalled := hold, join := if hold then e.2.join else none } }
      if hold then b else b.after 1 .rayNodeVisit { a := c, b := e.1 }
    else a) s1
  let task (x : Nat) : Bool := decide (chanTile c (((s.coveAt c).tasks.get {} x).record.extractLsb' 64 3).toNat = m)
  let xs := ((s.coveAt c).joins.filter fun e => mine (some e.2) ((s.coveAt c).stuck.contains e.1) && task e.1).map fun e => e.1
  let s3 := if xs = [] then s2
    else if hold then s2.modCove c fun v => { v with stuck := v.stuck ++ xs }
    else
      (s2.modCove c fun v => { v with
        stuck := v.stuck.filter fun x => !xs.contains x, joins := v.joins.filter fun e => !xs.contains e.1 }).after 1
        .computeTaskDispatch { a := c }
  [tileOfCove c 0, tileOfCove c 63].foldl (fun (a : State) g =>
    match (s.tileAt g).gslots with
    | q :: rest =>
      if mine q.join q.held ∧ xlatTile g = m then
        let b := a.modTile g fun x => { x with gslots := { q with held := hold, join := if hold then q.join else none } :: rest }
        if hold then b else b.after 1 .gridBatchSend { a := g }
      else a
    | [] => a) s3

/-- Every access held on the page of the access that `who` names walks again (R226, R309). -/
def State.wakeHeld (s : State) (who : Nat) : State :=
  let t := who / 8
  match s.firing t (who % 8) with
  | none => s
  | some f =>
    match f.job with
    | none => s
    | some j =>
      let page (j : Job) : Nat := (j.ops.headD {}).va / 2 ^ 14
      let m := xlatTile t
      let l := s.tiles.flatMap fun e => e.2.slots.map fun g => (e.1, g.1, g.2)
      l.foldl (fun a x =>
        match x.2.2.job with
        | some i =>
          if i.stage = .held ∧ page i = page j ∧ xlatTile x.1 = m ∧ x.2.2.cx = f.cx then
            a.after 1 .accessRetry { a := x.1, b := x.2.1, c := 1 }
          else a
        | none => a) (s.turnUnits m (s.xlVf t f.cx.toNat, page j) false)

/-- The ISCFGs pending in a cove look again in the next fc, since a ray has left its ring (R296). -/
def State.wakeScenes (s : State) (cove : Nat) : State :=
  (s.coveAt cove).pend.foldl (fun a e => a.after 1 .iscfgDescriptorWrite { a := e.2.tile, b := e.2.slot }) s

/-- A ray leaves the ring as a token on the credit it holds (R297, R298). Which I-tile of the cove sends it is left open: the one at
(1,1), whichever of them the ray stood at (log 122). -/
def State.endRay (s : State) (cove n : Nat) (r : Ray) (stat : Nat) : State :=
  let w9 : W32 := (lane r.pay 9 &&& 0xFFFFF0FF) ||| BitVec.ofNat 32 (stat * 256)
  let pay := ofLanes fun l => if l = 9 then w9 else lane r.pay l
  let cls := match s.chan r.chan with
    | some c => c.cls
    | none => 0
  let tok : Token := { cls := cls, ctx := BitVec.ofNat 7 r.vf, err := r.err, itag := r.itag, stag := r.stag
                       nflit := 4, gen := (s.vf r.vf).gen, lts := r.lts, pay := pay }
  let s1 := s.modCove cove fun c => { c with ring := c.ring.drop n }
  (s1.sendToken (tileOfCove cove 9) r.chan r.home tok).wakeScenes cove

/-- What TRET does for the handled record after the firing has ended (R330). -/
def State.settle (s : State) (r : FaultRec) (hold : Bool) : State :=
  let t := recordTile r
  let cove := coveOfTile t
  if !r.recov then
    if hold ∨ r.src ≠ 0 then s else s.modRun t r.berth.toNat fun b => { b with stopped := false }
  else if r.src = 0 then
    let s1 := s.wakeHeld r.who
    if !hold then s1
    else
      match s1.firing t (r.who % 8) with
      | none => s1
      | some f =>
        let r2 := { r with recov := false }
        let s2 := ((s1.consumeBound t f.berth none).discard t (r.who % 8) f).leave t (r.who % 8) f
        let s3 := (tasksOf (s1.boundOf t f.berth)).foldl (fun (a : State) x => a.taskFail (coveOfTile t) x) s2
        s3.postRecord (s3.tcfg t).part r2 (some (t, f.berth))
  else if r.src = 2 then
    match (s.coveAt (r.who / 256)).ring.look (r.who % 256) with
    | none => s
    | some ray =>
      if hold then s.endRay (r.who / 256) (r.who % 256) ray 3
      else
        let s1 := s.modCove (r.who / 256) fun c => { c with ring := c.ring.put (r.who % 256) { ray with stalled := false } }
        s1.after 1 .rayNodeVisit { a := r.who / 256, b := r.who % 256 }
  else if r.src = 6 then
    let s1 := s.modTile (r.who / 16) fun x => { x with gslots :=
      match x.gslots with
      | g :: rest => { g with held := false, abandon := if hold then g.abandon ++ [r.who % 16] else g.abandon } :: rest
      | [] => [] }
    s1.after 1 .gridBatchSend { a := r.who / 16 }
  else if r.who ≠ 0 then
    let c := (r.who - 1) / 512
    let x := (r.who - 1) % 512
    let s1 := s.modCove c fun v => { v with stuck := v.stuck.filter fun y => !decide (y = x) }
    let drop (m : Map (List (Nat × Nat))) : Map (List (Nat × Nat)) :=
      m.map fun e => (e.1, e.2.filter fun q => !decide (q.1 = x))
    (if hold then (s1.taskFail c x).modCove c fun v => { v with fifos := drop v.fifos } else s1).after 1
      .computeTaskDispatch { a := c }
  else
    let m := chanTile cove r.chan.toNat
    if hold then s.endCommand m false 0
    else
      (s.modMu m fun u => { u with run := u.run.map fun c => { c with stalled := false } }).after 1 .engineWrite { a := m }

/-- TRET (R330): a fault of its own, or END and what the handled record asks for. `hold` is bit 0 of its operand. -/
def State.tret (s : State) (t k : Nat) (f : Firing) (hold : Bool) : Except Trap State :=
  let st := f.tstat
  if !st.getLsbD 3 then
    .error { code := 0x0A, tval := st, rank := some (BitVec.ofNat 3 (Nat.min 7 ((st.extractLsb' 0 3).toNat + 1))) }
  else if st.extractLsb' 4 4 ≠ 0 ∨ st.extractLsb' 24 8 ≠ 0 then .error { code := 0x0B, tval := st }
  else
    let s1 := s.endFiring t k f false
    match f.handled with
    | some r => .ok (s1.settle r hold)
    | none => .ok s1

end Sys2Proof.Machine
end

