-- ==== Sys2Proof/Machine/Integer.lean ====
section
/-! DEFINITION. The register instructions on predicates, integers, lanes and addresses (R115 to R142), with the compact
aliases of R64. -/

namespace Sys2Proof.Machine

/-! ## Shared forms -/

/-- One scalar source, one scalar destination. -/
def View.scalar1 (v : View) (d a : Opnd) (g : W32 → W32) : Except Trap View := do
  let x ← v.src a
  v.put d (g x)

/-- Two scalar sources, one scalar destination (R125). -/
def View.scalar2 (v : View) (d a b : Opnd) (g : W32 → W32 → W32) : Except Trap View := do
  let x ← v.src a
  let y ← v.src b
  v.put d (g x y)

/-- Two scalar sources and a destination that is read before it is written (R115). -/
def View.scalar3 (v : View) (d a b : Opnd) (g : W32 → W32 → W32 → W32) : Except Trap View := do
  let x ← v.src a
  let y ← v.src b
  let z ← v.src d
  v.put d (g z x y)

/-- A predicate from two scalars (R120, R121). -/
def View.predicate (v : View) (p : BitVec 3) (a b : Opnd) (g : W32 → W32 → Bool) : Except Trap View := do
  let x ← v.src a
  let y ← v.src b
  .ok (v.setPred p.toNat (g x y))

/-- The stored lanes of a vector source, reconstructed when the instruction computes on a lane at all (R116, R117). -/
def View.lanesOf (v : View) (live : Bool) (o : Opnd) : Except Trap VBits :=
  if live then v.spatial o else (v.vec o).map fun x => x.bits

/-- The reconstruction charges of the sources, when they are reconstructed. -/
def View.billIf (v : View) (live : Bool) (l : List Opnd) : View := if live then v.bill l else v

/-- A lane mask from two vector sources (R122). -/
def View.compareLanes (v : View) (d : BitVec 2) (a b : Opnd) (q : BitVec 2) (g : W32 → W32 → Bool) :
    Except Trap View := do
  let x ← v.spatial a
  let y ← v.spatial b
  .ok ((v.bill [a, b]).setMask d.toNat (laneTest (v.mask q.toNat) fun l => g (lane x l) (lane y l)))

/-- One vector source, lane by lane, with result tag 0 (R138). -/
def View.lanes1 (v : View) (d a : Opnd) (q : BitVec 2) (g : W32 → W32) : Except Trap View := do
  let m := v.mask q.toNat
  let x ← v.lanesOf (decide (m ≠ 0)) a
  (v.billIf (decide (m ≠ 0)) [a]).vput d m { bits := laneWords m fun l => g (lane x l) } [a]

/-- Two vector sources, lane by lane, with result tag 0 (R138). -/
def View.lanes2 (v : View) (d a b : Opnd) (q : BitVec 2) (g : W32 → W32 → W32) : Except Trap View := do
  let m := v.mask q.toNat
  let x ← v.lanesOf (decide (m ≠ 0)) a
  let y ← v.lanesOf (decide (m ≠ 0)) b
  (v.billIf (decide (m ≠ 0)) [a, b]).vput d m { bits := laneWords m fun l => g (lane x l) (lane y l) } [a, b]

/-- Two vector sources and all lanes written at once (R141, R142). -/
def View.whole2 (v : View) (d a b : Opnd) (g : VBits → VBits → VBits) : Except Trap View := do
  let x ← v.spatial a
  let y ← v.spatial b
  (v.bill [a, b]).vput d 0xFFFF { bits := g x y } [a, b]

/-- A scalar from the enabled lanes of a vector (R136). -/
def View.reduce (v : View) (d a : Opnd) (q : BitVec 2) (g : BitVec 16 → VBits → W32) : Except Trap View := do
  let x ← v.spatial a
  (v.bill [a]).put d (g (v.mask q.toNat) x)

/-! ## Arithmetic -/

/-- MULH (R125). -/
def mulHigh (a b : W32) : W32 := (a.signExtend 64 * b.signExtend 64).extractLsb' 32 32

/-- MULHU (R125). -/
def mulHighU (a b : W32) : W32 := (a.setWidth 64 * b.setWidth 64).extractLsb' 32 32

/-- DIV (R127). -/
def divS (a b : W32) : W32 :=
  if b = 0 then 0xFFFFFFFF
  else if a = 0x80000000 ∧ b = 0xFFFFFFFF then 0x80000000
  else BitVec.ofInt 32 (Int.tdiv a.toInt b.toInt)

/-- REM (R127). -/
def remS (a b : W32) : W32 :=
  if b = 0 then a
  else if a = 0x80000000 ∧ b = 0xFFFFFFFF then 0
  else BitVec.ofInt 32 (Int.tmod a.toInt b.toInt)

/-- DIVU (R127). -/
def divU (a b : W32) : W32 := if b = 0 then 0xFFFFFFFF else BitVec.ofNat 32 (a.toNat / b.toNat)

/-- REMU (R127). -/
def remU (a b : W32) : W32 := if b = 0 then a else BitVec.ofNat 32 (a.toNat % b.toNat)

/-- The shift count of R125. -/
def shiftCount (b : W32) : Nat := b.toNat % 32

/-- SHL (R125). -/
def shiftL (a b : W32) : W32 := a <<< shiftCount b

/-- SHR (R125). -/
def shiftR (a b : W32) : W32 := a >>> shiftCount b

/-- SRA (R125). -/
def shiftA (a b : W32) : W32 := a.sshiftRight (shiftCount b)

/-- MIN (R125). -/
def minS (a b : W32) : W32 := if a.toInt ≤ b.toInt then a else b

/-- MAX (R125). -/
def maxS (a b : W32) : W32 := if b.toInt ≤ a.toInt then a else b

/-- Set bits of a word. -/
def popCount {n : Nat} (a : BitVec n) : Nat := ((List.range n).filter fun i => a.getLsbD i).length

/-- POPC (R128). -/
def popW (a : W32) : W32 := BitVec.ofNat 32 (popCount a)

/-- CLZ (R128). -/
def clzW (a : W32) : W32 := BitVec.ofNat 32 (if a = 0 then 32 else 31 - Nat.log2 a.toNat)

/-- BREV (R128). -/
def brevW (a : W32) : W32 :=
  BitVec.ofNat 32 ((List.range 32).foldl (fun n k => 2 * n + (if a.getLsbD k then 1 else 0)) 0)

/-- The position and the width of a bit field (R129). -/
def fieldOf (b : W32) : Nat × Nat :=
  let pos := b.toNat % 32
  let len := b.toNat / 32 % 32
  (pos, Nat.min (if len = 0 then 32 else len) (32 - pos))

/-- BFXU (R129). -/
def bitFieldU (a b : W32) : W32 :=
  let (pos, w) := fieldOf b
  BitVec.ofNat 32 (a.toNat / 2 ^ pos % 2 ^ w)

/-- BFX (R129). -/
def bitFieldS (a b : W32) : W32 :=
  let (pos, w) := fieldOf b
  (BitVec.ofNat w (a.toNat / 2 ^ pos)).signExtend 32

/-- BFI (R129). -/
def bitInsert (d a b : W32) : W32 :=
  let (pos, w) := fieldOf b
  let m : W32 := BitVec.ofNat 32 ((2 ^ w - 1) * 2 ^ pos)
  (d &&& ~~~m) ||| ((a <<< pos) &&& m)

/-- LIH (R132). -/
def loadHigh (d : W32) (i : BitVec 16) : W32 := (i.setWidth 32 <<< 16) ||| (d &&& 0xFFFF)

/-- AGEN (R133). -/
def agenOf (a b : W32) : W32 := a + (b.extractLsb' 0 16).signExtend 32 * (b.extractLsb' 16 16).setWidth 32

/-- AGEN2 (R133). -/
def agen2Of (d a b : W32) : W32 :=
  a + (b.extractLsb' 16 16).setWidth 32 * (d.extractLsb' 0 24).setWidth 32
    + ((b.extractLsb' 0 16).setWidth 32 <<< (d.extractLsb' 24 3).toNat)

/-- Bit `2·A + B` of a truth table (R123). -/
def truthBit (t : BitVec 4) (a b : Bool) : Bool := t.getLsbD ((if a then 2 else 0) + (if b then 1 else 0))

/-- The lowest set bit of a mask, 16 when there is none (R124). -/
def firstSet (m : BitVec 16) : Nat := ((List.range 16).find? fun i => m.getLsbD i).getD 16

/-- A value clamped to a signed element of `n` bits. -/
def satElem (n : Nat) (x : Int) : BitVec n := BitVec.ofInt n (max (-(2 : Int) ^ (n - 1)) (min x (2 ^ (n - 1) - 1)))

/-- The width of R141's element code. -/
def elemWidth (e : BitVec 1) : Nat := if e = 0 then 8 else 16

/-- VADDS and VSUBS on vectors (R141). -/
def satLanes (e : BitVec 1) (g : Int → Int → Int) (a b : VBits) : VBits :=
  let n := elemWidth e
  ofLanes fun l => ofElems n fun k => satElem n (g (elemOf n (lane a l) k).toInt (elemOf n (lane b l) k).toInt)

/-- Element `i` of width `n` of a vector (R80). -/
def vecElem (n : Nat) (v : VBits) (i : Nat) : BitVec n := elemOf n (lane v (i / (32 / n))) (i % (32 / n))

/-- VPACK (R142). -/
def packLanes (e : BitVec 1) (a b : VBits) : VBits :=
  let n := elemWidth e
  let half := 16 * (16 / n)
  let inp (j : Nat) : Int := (vecElem (2 * n) (if j < half then a else b) (j % half)).toInt
  ofLanes fun l => ofElems n fun k => satElem n (inp (l * (32 / n) + k))

/-- VUNPK: half `h` of a widened (R142). -/
def unpackLanes (e : BitVec 1) (a : VBits) (h : Nat) : VBits :=
  let n := elemWidth e
  let half := 16 * (16 / n)
  ofLanes fun l => ofElems (2 * n) fun k => (vecElem n a (half * h + l * (16 / n) + k)).signExtend (2 * n)

/-- The running sums of the enabled lanes (R136). -/
def scanLanes (m : BitVec 16) (v : VBits) : VBits :=
  ofLaneList ((List.range 16).foldl (fun (acc : List W32 × W32) l =>
    let s := if m.getLsbD l then acc.2 + lane v l else acc.2
    (acc.1 ++ [s], s)) ([], 0)).1

/-- A reduction over the enabled lanes (R136). -/
def reduceLanes (g : W32 → W32 → W32) (z : W32) (m : BitVec 16) (v : VBits) : W32 :=
  (List.range 16).foldl (fun a l => if m.getLsbD l then g a (lane v l) else a) z

/-! ## Moves -/

/-- The operand is a v register. -/
def isV (o : Opnd) : Bool :=
  match o with
  | .v _ => true
  | _ => false

/-- The operand is a staging payload. -/
def isO (o : Opnd) : Bool :=
  match o with
  | .o _ => true
  | _ => false

/-- The operand is an input port. -/
def isI (o : Opnd) : Bool :=
  match o with
  | .i _ => true
  | _ => false

/-- MOV and CVT take their vector form (R131, R157). -/
def vectorForm (d a : Opnd) : Bool := isV d || isV a || (isO d && isI a)

/-- MOV (R131). -/
def View.move (v : View) (d a : Opnd) (q : BitVec 2) : Except Trap View :=
  if vectorForm d a then do
    let x ← v.vec a
    v.vput d (v.mask q.toNat) x []
  else v.scalar1 d a id

/-- A word of a bound token (R57, R137). -/
def View.tokenWord (v : View) (d a : Opnd) (t w : Nat) : Except Trap View :=
  match a with
  | .i n => v.put d ((v.f.token n.toNat t).word w)
  | _ => .ok v

/-- One lane of a vector destination is written (R117, R134, R137). -/
def View.insertLane (v : View) (d a : Opnd) (n : Nat) : Except Trap View := do
  let x ← v.src a
  v.vput d (BitVec.twoPow 16 n) { bits := splat x } []

/-! ## Predicates and masks (R120 to R124) -/

/-- PCMP.EQ (R120). -/
def execPcmpEq (p : BitVec 3) (a b : Opnd) (s : State) : Host.Outcome State Fault Refusal :=
  s.runView 5 2 fun v => v.predicate p a b Cond.eq.holds

/-- PCMP.NE (R120). -/
def execPcmpNe (p : BitVec 3) (a b : Opnd) (s : State) : Host.Outcome State Fault Refusal :=
  s.runView 5 2 fun v => v.predicate p a b Cond.ne.holds

/-- PCMP.LT (R120). -/
def execPcmpLt (p : BitVec 3) (a b : Opnd) (s : State) : Host.Outcome State Fault Refusal :=
  s.runView 5 2 fun v => v.predicate p a b Cond.lt.holds

/-- PCMP.LTU (R120). -/
def execPcmpLtu (p : BitVec 3) (a b : Opnd) (s : State) : Host.Outcome State Fault Refusal :=
  s.runView 5 2 fun v => v.predicate p a b Cond.ltu.holds

/-- PFCMP.EQ (R121). -/
def execPfcmpEq (p : BitVec 3) (a b : Opnd) (s : State) : Host.Outcome State Fault Refusal :=
  s.runView 6 2 fun v => v.predicate p a b FCond.eq.holds

/-- PFCMP.LT (R121). -/
def execPfcmpLt (p : BitVec 3) (a b : Opnd) (s : State) : Host.Outcome State Fault Refusal :=
  s.runView 6 2 fun v => v.predicate p a b FCond.lt.holds

/-- PFCMP.LE (R121). -/
def execPfcmpLe (p : BitVec 3) (a b : Opnd) (s : State) : Host.Outcome State Fault Refusal :=
  s.runView 6 2 fun v => v.predicate p a b FCond.le.holds

/-- PFCMP.UN (R121). -/
def execPfcmpUn (p : BitVec 3) (a b : Opnd) (s : State) : Host.Outcome State Fault Refusal :=
  s.runView 6 2 fun v => v.predicate p a b FCond.un.holds

/-- PLOG (R123). -/
def execPlog (d a b : BitVec 3) (t : BitVec 4) (s : State) : Host.Outcome State Fault Refusal :=
  s.runView 5 2 fun v => .ok (v.setPred d.toNat (truthBit t (v.pred a.toNat) (v.pred b.toNat)))

/-- MCMP.EQ (R122). -/
def execMcmpEq (d : BitVec 2) (a b : Opnd) (q : BitVec 2) (s : State) : Host.Outcome State Fault Refusal :=
  s.runView 7 2 fun v => v.compareLanes d a b q Cond.eq.holds

/-- MCMP.NE (R122). -/
def execMcmpNe (d : BitVec 2) (a b : Opnd) (q : BitVec 2) (s : State) : Host.Outcome State Fault Refusal :=
  s.runView 7 2 fun v => v.compareLanes d a b q Cond.ne.holds

/-- MCMP.LT (R122). -/
def execMcmpLt (d : BitVec 2) (a b : Opnd) (q : BitVec 2) (s : State) : Host.Outcome State Fault Refusal :=
  s.runView 7 2 fun v => v.compareLanes d a b q Cond.lt.holds

/-- MCMP.LTU (R122). -/
def execMcmpLtu (d : BitVec 2) (a b : Opnd) (q : BitVec 2) (s : State) : Host.Outcome State Fault Refusal :=
  s.runView 7 2 fun v => v.compareLanes d a b q Cond.ltu.holds

/-- MFCMP.EQ (R122). -/
def execMfcmpEq (d : BitVec 2) (a b : Opnd) (q : BitVec 2) (s : State) : Host.Outcome State Fault Refusal :=
  s.runView 7 2 fun v => v.compareLanes d a b q FCond.eq.holds

/-- MFCMP.LT (R122). -/
def execMfcmpLt (d : BitVec 2) (a b : Opnd) (q : BitVec 2) (s : State) : Host.Outcome State Fault Refusal :=
  s.runView 7 2 fun v => v.compareLanes d a b q FCond.lt.holds

/-- MFCMP.LE (R122). -/
def execMfcmpLe (d : BitVec 2) (a b : Opnd) (q : BitVec 2) (s : State) : Host.Outcome State Fault Refusal :=
  s.runView 7 2 fun v => v.compareLanes d a b q FCond.le.holds

/-- MFCMP.UN (R122). -/
def execMfcmpUn (d : BitVec 2) (a b : Opnd) (q : BitVec 2) (s : State) : Host.Outcome State Fault Refusal :=
  s.runView 7 2 fun v => v.compareLanes d a b q FCond.un.holds

/-- MLOG (R123). -/
def execMlog (d a b : BitVec 2) (t : BitVec 4) (s : State) : Host.Outcome State Fault Refusal :=
  s.runView 7 2 fun v =>
    let x := v.mask a.toNat
    let y := v.mask b.toNat
    .ok (v.setMask d.toNat (laneTest 0xFFFF fun l => truthBit t (x.getLsbD l) (y.getLsbD l)))

/-- MPOP (R124). -/
def execMpop (d : Opnd) (q : BitVec 2) (s : State) : Host.Outcome State Fault Refusal :=
  s.runView 7 2 fun v => v.put d (BitVec.ofNat 32 (popCount (v.mask q.toNat)))

/-- MFIRST (R124). -/
def execMfirst (d : Opnd) (q : BitVec 2) (s : State) : Host.Outcome State Fault Refusal :=
  s.runView 7 2 fun v => v.put d (BitVec.ofNat 32 (firstSet (v.mask q.toNat)))

/-! ## Scalar integer (R125 to R130) -/

/-- ADD (R125). -/
def execAdd (d a b : Opnd) (s : State) : Host.Outcome State Fault Refusal :=
  s.runView 1 2 fun v => v.scalar2 d a b fun x y => x + y

/-- SUB (R125). -/
def execSub (d a b : Opnd) (s : State) : Host.Outcome State Fault Refusal :=
  s.runView 1 2 fun v => v.scalar2 d a b fun x y => x - y

/-- ADDI (R126). -/
def execAddi (d a : Opnd) (i : BitVec 9) (s : State) : Host.Outcome State Fault Refusal :=
  s.runView 1 2 fun v => v.scalar1 d a fun x => x + i.signExtend 32

/-- MUL (R125). -/
def execMul (d a b : Opnd) (s : State) : Host.Outcome State Fault Refusal :=
  s.runView 3 2 fun v => v.scalar2 d a b fun x y => x * y

/-- MULH (R125). -/
def execMulh (d a b : Opnd) (s : State) : Host.Outcome State Fault Refusal :=
  s.runView 3 2 fun v => v.scalar2 d a b mulHigh

/-- MULHU (R125). -/
def execMulhu (d a b : Opnd) (s : State) : Host.Outcome State Fault Refusal :=
  s.runView 3 2 fun v => v.scalar2 d a b mulHighU

/-- DIV (R127). -/
def execDiv (d a b : Opnd) (s : State) : Host.Outcome State Fault Refusal :=
  s.runView 4 2 fun v => v.scalar2 d a b divS

/-- DIVU (R127). -/
def execDivu (d a b : Opnd) (s : State) : Host.Outcome State Fault Refusal :=
  s.runView 4 2 fun v => v.scalar2 d a b divU

/-- REM (R127). -/
def execRem (d a b : Opnd) (s : State) : Host.Outcome State Fault Refusal :=
  s.runView 4 2 fun v => v.scalar2 d a b remS

/-- REMU (R127). -/
def execRemu (d a b : Opnd) (s : State) : Host.Outcome State Fault Refusal :=
  s.runView 4 2 fun v => v.scalar2 d a b remU

/-- AND (R125). -/
def execAnd (d a b : Opnd) (s : State) : Host.Outcome State Fault Refusal :=
  s.runView 1 2 fun v => v.scalar2 d a b fun x y => x &&& y

/-- OR (R125). -/
def execOr (d a b : Opnd) (s : State) : Host.Outcome State Fault Refusal :=
  s.runView 1 2 fun v => v.scalar2 d a b fun x y => x ||| y

/-- XOR (R125). -/
def execXor (d a b : Opnd) (s : State) : Host.Outcome State Fault Refusal :=
  s.runView 1 2 fun v => v.scalar2 d a b fun x y => x ^^^ y

/-- SHL (R125). -/
def execShl (d a b : Opnd) (s : State) : Host.Outcome State Fault Refusal :=
  s.runView 1 2 fun v => v.scalar2 d a b shiftL

/-- SHR (R125). -/
def execShr (d a b : Opnd) (s : State) : Host.Outcome State Fault Refusal :=
  s.runView 1 2 fun v => v.scalar2 d a b shiftR

/-- SRA (R125). -/
def execSra (d a b : Opnd) (s : State) : Host.Outcome State Fault Refusal :=
  s.runView 1 2 fun v => v.scalar2 d a b shiftA

/-- SHLI (R126). -/
def execShli (d a : Opnd) (i : BitVec 5) (s : State) : Host.Outcome State Fault Refusal :=
  s.runView 1 2 fun v => v.scalar1 d a fun x => x <<< i.toNat

/-- SHRI (R126). -/
def execShri (d a : Opnd) (i : BitVec 5) (s : State) : Host.Outcome State Fault Refusal :=
  s.runView 1 2 fun v => v.scalar1 d a fun x => x >>> i.toNat

/-- SRAI (R126). -/
def execSrai (d a : Opnd) (i : BitVec 5) (s : State) : Host.Outcome State Fault Refusal :=
  s.runView 1 2 fun v => v.scalar1 d a fun x => x.sshiftRight i.toNat

/-- MIN (R125). -/
def execMin (d a b : Opnd) (s : State) : Host.Outcome State Fault Refusal :=
  s.runView 1 2 fun v => v.scalar2 d a b minS

/-- MAX (R125). -/
def execMax (d a b : Opnd) (s : State) : Host.Outcome State Fault Refusal :=
  s.runView 1 2 fun v => v.scalar2 d a b maxS

/-- CLZ (R128). -/
def execClz (d a : Opnd) (s : State) : Host.Outcome State Fault Refusal :=
  s.runView 1 2 fun v => v.scalar1 d a clzW

/-- POPC (R128). -/
def execPopc (d a : Opnd) (s : State) : Host.Outcome State Fault Refusal :=
  s.runView 1 2 fun v => v.scalar1 d a popW

/-- BREV (R128). -/
def execBrev (d a : Opnd) (s : State) : Host.Outcome State Fault Refusal :=
  s.runView 1 2 fun v => v.scalar1 d a brevW

/-- BFX (R129). -/
def execBfx (d a b : Opnd) (s : State) : Host.Outcome State Fault Refusal :=
  s.runView 1 2 fun v => v.scalar2 d a b bitFieldS

/-- BFXU (R129). -/
def execBfxu (d a b : Opnd) (s : State) : Host.Outcome State Fault Refusal :=
  s.runView 1 2 fun v => v.scalar2 d a b bitFieldU

/-- BFI (R129). -/
def execBfi (d a b : Opnd) (s : State) : Host.Outcome State Fault Refusal :=
  s.runView 1 2 fun v => v.scalar3 d a b bitInsert

/-- SEL (R130). -/
def execSel (d a b : Opnd) (s : State) : Host.Outcome State Fault Refusal :=
  s.runView 1 2 fun v => v.scalar3 d a b fun z x y => if z ≠ 0 then x else y

/-! ## Moves, lanes and addresses (R131 to R137) -/

/-- MOV (R131). -/
def execMov (d a : Opnd) (q : BitVec 2) (s : State) : Host.Outcome State Fault Refusal :=
  s.runView (if vectorForm d a then 8 else 1) 2 fun v => v.move d a q

/-- LI (R132). -/
def execLi (d : Opnd) (i : BitVec 16) (s : State) : Host.Outcome State Fault Refusal :=
  s.runView 1 2 fun v => v.put d (i.signExtend 32)

/-- LIH (R132). -/
def execLih (d : Opnd) (i : BitVec 16) (s : State) : Host.Outcome State Fault Refusal :=
  s.runView 1 2 fun v => v.scalar1 d d fun x => loadHigh x i

/-- AGEN (R133). -/
def execAgen (d a b : Opnd) (s : State) : Host.Outcome State Fault Refusal :=
  s.runView 2 2 fun v => v.scalar2 d a b agenOf

/-- AGEN2 (R133). -/
def execAgen2 (d a b : Opnd) (s : State) : Host.Outcome State Fault Refusal :=
  s.runView 2 2 fun v => v.scalar3 d a b agen2Of

/-- VBCAST (R134). -/
def execVbcast (d a b : Opnd) (q : BitVec 2) (s : State) : Host.Outcome State Fault Refusal :=
  s.runView 8 2 fun v => do
    let m := v.mask q.toNat
    let x ← v.lanesOf (decide (m ≠ 0)) a
    let n ← v.src b
    (v.billIf (decide (m ≠ 0)) [a]).vput d m { bits := splat (lane x (n.toNat % 16)) } [a]

/-- VEXT (R134). -/
def execVext (d a b : Opnd) (s : State) : Host.Outcome State Fault Refusal :=
  s.runView 10 2 fun v => do
    let x ← v.vec a
    let n ← v.src b
    v.put d (lane x.bits (n.toNat % 16))

/-- VINS (R134). -/
def execVins (d a b : Opnd) (s : State) : Host.Outcome State Fault Refusal :=
  s.runView 10 2 fun v => do
    let _ ← v.src a
    let n ← v.src b
    v.insertLane d a (n.toNat % 16)

/-- VPERM (R135). -/
def execVperm (d a b : Opnd) (q : BitVec 2) (s : State) : Host.Outcome State Fault Refusal :=
  s.runView 10 2 fun v => do
    let m := v.mask q.toNat
    let x ← v.lanesOf (decide (m ≠ 0)) a
    let y ← v.lanesOf (decide (m ≠ 0)) b
    let r := laneWords m fun l => lane x ((lane y l).toNat % 16)
    (v.billIf (decide (m ≠ 0)) [a, b]).vput d m { bits := r } [a, b]

/-- VROTL (R135). -/
def execVrotl (d a b : Opnd) (q : BitVec 2) (s : State) : Host.Outcome State Fault Refusal :=
  s.runView 10 2 fun v => do
    let m := v.mask q.toNat
    let x ← v.lanesOf (decide (m ≠ 0)) a
    let n ← v.src b
    let r := laneWords m fun l => lane x ((l + n.toNat % 16) % 16)
    (v.billIf (decide (m ≠ 0)) [a]).vput d m { bits := r } [a]

/-- VRED.ADD (R136). -/
def execVredAdd (d a : Opnd) (q : BitVec 2) (s : State) : Host.Outcome State Fault Refusal :=
  s.runView 11 2 fun v => v.reduce d a q (reduceLanes (fun x y => x + y) 0)

/-- VRED.MIN (R136). -/
def execVredMin (d a : Opnd) (q : BitVec 2) (s : State) : Host.Outcome State Fault Refusal :=
  s.runView 11 2 fun v => v.reduce d a q (reduceLanes minS 0x7FFFFFFF)

/-- VRED.MAX (R136). -/
def execVredMax (d a : Opnd) (q : BitVec 2) (s : State) : Host.Outcome State Fault Refusal :=
  s.runView 11 2 fun v => v.reduce d a q (reduceLanes maxS 0x80000000)

/-- VSCAN.ADD (R136). -/
def execVscanAdd (d a : Opnd) (q : BitVec 2) (s : State) : Host.Outcome State Fault Refusal :=
  s.runView 11 2 fun v => do
    let m := v.mask q.toNat
    let x ← v.lanesOf (decide (m ≠ 0)) a
    (v.billIf (decide (m ≠ 0)) [a]).vput d m { bits := scanLanes m x } [a]

/-- TGET (R137). -/
def execTget (d a : Opnd) (t : BitVec 2) (w : BitVec 5) (s : State) : Host.Outcome State Fault Refusal :=
  s.runView 12 2 fun v => v.tokenWord d a t.toNat w.toNat

/-- TSET (R137). -/
def execTset (d a : Opnd) (w : BitVec 4) (s : State) : Host.Outcome State Fault Refusal :=
  s.runView 12 2 fun v => v.insertLane d a w.toNat

/-! ## Vector integer (R138 to R142) -/

/-- VADD (R138). -/
def execVadd (d a b : Opnd) (q : BitVec 2) (s : State) : Host.Outcome State Fault Refusal :=
  s.runView 8 2 fun v => v.lanes2 d a b q fun x y => x + y

/-- VSUB (R138). -/
def execVsub (d a b : Opnd) (q : BitVec 2) (s : State) : Host.Outcome State Fault Refusal :=
  s.runView 8 2 fun v => v.lanes2 d a b q fun x y => x - y

/-- VMUL (R138). -/
def execVmul (d a b : Opnd) (q : BitVec 2) (s : State) : Host.Outcome State Fault Refusal :=
  s.runView 9 2 fun v => v.lanes2 d a b q fun x y => x * y

/-- VMULH (R138). -/
def execVmulh (d a b : Opnd) (q : BitVec 2) (s : State) : Host.Outcome State Fault Refusal :=
  s.runView 9 2 fun v => v.lanes2 d a b q mulHigh

/-- VAND (R138). -/
def execVand (d a b : Opnd) (q : BitVec 2) (s : State) : Host.Outcome State Fault Refusal :=
  s.runView 8 2 fun v => v.lanes2 d a b q fun x y => x &&& y

/-- VOR (R138). -/
def execVor (d a b : Opnd) (q : BitVec 2) (s : State) : Host.Outcome State Fault Refusal :=
  s.runView 8 2 fun v => v.lanes2 d a b q fun x y => x ||| y

/-- VXOR (R138). -/
def execVxor (d a b : Opnd) (q : BitVec 2) (s : State) : Host.Outcome State Fault Refusal :=
  s.runView 8 2 fun v => v.lanes2 d a b q fun x y => x ^^^ y

/-- VSHL (R138). -/
def execVshl (d a b : Opnd) (q : BitVec 2) (s : State) : Host.Outcome State Fault Refusal :=
  s.runView 8 2 fun v => v.lanes2 d a b q shiftL

/-- VSHR (R138). -/
def execVshr (d a b : Opnd) (q : BitVec 2) (s : State) : Host.Outcome State Fault Refusal :=
  s.runView 8 2 fun v => v.lanes2 d a b q shiftR

/-- VSRA (R138). -/
def execVsra (d a b : Opnd) (q : BitVec 2) (s : State) : Host.Outcome State Fault Refusal :=
  s.runView 8 2 fun v => v.lanes2 d a b q shiftA

/-- VMIN (R138). -/
def execVmin (d a b : Opnd) (q : BitVec 2) (s : State) : Host.Outcome State Fault Refusal :=
  s.runView 8 2 fun v => v.lanes2 d a b q minS

/-- VMAX (R138). -/
def execVmax (d a b : Opnd) (q : BitVec 2) (s : State) : Host.Outcome State Fault Refusal :=
  s.runView 8 2 fun v => v.lanes2 d a b q maxS

/-- VCLZ (R138). -/
def execVclz (d a : Opnd) (q : BitVec 2) (s : State) : Host.Outcome State Fault Refusal :=
  s.runView 8 2 fun v => v.lanes1 d a q clzW

/-- VPOPC (R138). -/
def execVpopc (d a : Opnd) (q : BitVec 2) (s : State) : Host.Outcome State Fault Refusal :=
  s.runView 8 2 fun v => v.lanes1 d a q popW

/-- VMAD (R139): d is reconstructed as a source whatever the mask, the empty one too. -/
def execVmad (d a b : Opnd) (q : BitVec 2) (s : State) : Host.Outcome State Fault Refusal :=
  s.runView 9 2 fun v => do
    let m := v.mask q.toNat
    let x ← v.lanesOf (decide (m ≠ 0)) a
    let y ← v.lanesOf (decide (m ≠ 0)) b
    let z ← v.lanesOf true d
    let r := laneWords m fun l => lane z l + lane x l * lane y l
    (v.bill (if m ≠ 0 then [d, a, b] else [d])).vput d m { bits := r } [d, a, b]

/-- VSEL (R140). -/
def execVsel (d a b : Opnd) (q : BitVec 2) (s : State) : Host.Outcome State Fault Refusal :=
  s.runView 8 2 fun v => v.whole2 d a b fun x y => mergeLanes (v.mask q.toNat) y x

/-- VADDS (R141). -/
def execVadds (d a b : Opnd) (e : BitVec 1) (s : State) : Host.Outcome State Fault Refusal :=
  s.runView 8 2 fun v => v.whole2 d a b (satLanes e fun x y => x + y)

/-- VSUBS (R141). -/
def execVsubs (d a b : Opnd) (e : BitVec 1) (s : State) : Host.Outcome State Fault Refusal :=
  s.runView 8 2 fun v => v.whole2 d a b (satLanes e fun x y => x - y)

/-- VPACK (R142). -/
def execVpack (d a b : Opnd) (e : BitVec 1) (s : State) : Host.Outcome State Fault Refusal :=
  s.runView 10 2 fun v => v.whole2 d a b (packLanes e)

/-- VUNPK (R142). -/
def execVunpk (d a b : Opnd) (e : BitVec 1) (s : State) : Host.Outcome State Fault Refusal :=
  s.runView 10 2 fun v => do
    let x ← v.spatial a
    let h ← v.src b
    (v.bill [a]).vput d 0xFFFF { bits := unpackLanes e x (h.toNat % 2) } [a]

/-! ## Compact aliases (R64) -/

/-- C.MOV (R64). -/
def execCMov (x y : BitVec 5) (s : State) : Host.Outcome State Fault Refusal :=
  s.runView 1 1 fun v => v.move (.w x) (.w y) 0

/-- C.LI (R64). -/
def execCLi (x y : BitVec 5) (s : State) : Host.Outcome State Fault Refusal :=
  s.runView 1 1 fun v => v.put (.w x) (y.signExtend 32)

/-- C.ADDI (R64). -/
def execCAddi (x y : BitVec 5) (s : State) : Host.Outcome State Fault Refusal :=
  s.runView 1 1 fun v => v.scalar1 (.w x) (.w x) fun a => a + y.signExtend 32

/-- C.SHLI (R64). -/
def execCShli (x y : BitVec 5) (s : State) : Host.Outcome State Fault Refusal :=
  s.runView 1 1 fun v => v.scalar1 (.w x) (.w x) fun a => a <<< y.toNat

/-- C.SHRI (R64). -/
def execCShri (x y : BitVec 5) (s : State) : Host.Outcome State Fault Refusal :=
  s.runView 1 1 fun v => v.scalar1 (.w x) (.w x) fun a => a >>> y.toNat

/-- C.TGET (R64). -/
def execCTget (x y : BitVec 5) (s : State) : Host.Outcome State Fault Refusal :=
  s.runView 12 1 fun v => v.tokenWord (.w x) (.i 0) 0 y.toNat

/-- C.VADD (R64). -/
def execCVadd (x y : BitVec 4) (s : State) : Host.Outcome State Fault Refusal :=
  s.runView 8 1 fun v => v.lanes2 (.v x) (.v x) (.v y) 0 fun a b => a + b

/-- C.ADD (R64). -/
def execCAdd (x y : BitVec 5) (s : State) : Host.Outcome State Fault Refusal :=
  s.runView 1 1 fun v => v.scalar2 (.w x) (.w x) (.w y) fun a b => a + b

/-- C.SUB (R64). -/
def execCSub (x y : BitVec 5) (s : State) : Host.Outcome State Fault Refusal :=
  s.runView 1 1 fun v => v.scalar2 (.w x) (.w x) (.w y) fun a b => a - b

/-- C.AND (R64). -/
def execCAnd (x y : BitVec 5) (s : State) : Host.Outcome State Fault Refusal :=
  s.runView 1 1 fun v => v.scalar2 (.w x) (.w x) (.w y) fun a b => a &&& b

/-- C.OR (R64). -/
def execCOr (x y : BitVec 5) (s : State) : Host.Outcome State Fault Refusal :=
  s.runView 1 1 fun v => v.scalar2 (.w x) (.w x) (.w y) fun a b => a ||| b

/-- C.XOR (R64). -/
def execCXor (x y : BitVec 5) (s : State) : Host.Outcome State Fault Refusal :=
  s.runView 1 1 fun v => v.scalar2 (.w x) (.w x) (.w y) fun a b => a ^^^ b

end Sys2Proof.Machine
end

