-- ==== Sys2Proof/Machine/Control.lean ====
section
/-! DEFINITION. Firing control: NOP, the ends of a firing, branches and loops, SWITCH, traps and returns from them (R28,
R282 to R286, R329, R330), with the compact aliases of R64. -/

namespace Sys2Proof.Machine

/-! ## Branches and loops -/

/-- The live loops after a jump to `pc`: a loop whose body does not hold it ends, with every loop nested in it (R284). -/
def endLoops (loops : List Loop) (pc : Nat) : List Loop :=
  match loops with
  | [] => []
  | l :: r =>
    let r2 := endLoops r pc
    if r2.length = r.length ∧ l.start ≤ pc ∧ pc < l.endp then l :: r2 else r2

/-- A firing that jumps to `pc` (R284). -/
def Firing.jump (f : Firing) (pc : Nat) : Firing := { f with pc := pc, loops := endLoops f.loops pc }

/-- A signed halfword offset from an address. -/
def offsetPc (pc : Nat) (o : Int) : Nat := ((pc : Int) + o).toNat

/-- BR of `n` halfwords (R284). -/
def View.branch (v : View) (n : Nat) (p : BitVec 3) (neg : BitVec 1) (o : Int) : View :=
  if v.pred p.toNat != decide (neg = 1) then { v with f := v.f.jump (offsetPc v.f.pc o) }
  else { v with f := v.f.advance n }

/-- A loop instruction of `n` halfwords with a count and a body length (R285). -/
def View.loop (v : View) (n count len : Nat) : View :=
  let start := v.f.pc + n
  if count = 0 then
    let r := loopBack v.f.loops (start + len)
    { v with f := { v.f with pc := r.1, loops := r.2 } }
  else
    { v with f := { v.f with pc := start, loops := { start := start, endp := start + len, remaining := count } :: v.f.loops } }

/-- The routine `code` has a 32-bit instruction at halfword `tgt`, walking from the boundary `pc` (R58, R286). -/
def wordAt (fuel : Nat) (code : List (BitVec 16)) (pc tgt : Nat) : Bool :=
  match fuel with
  | 0 => false
  | n + 1 =>
    match code with
    | [] => false
    | h :: r =>
      if pc = tgt then h.getLsbD 15 && !r.isEmpty
      else if h.getLsbD 15 then wordAt n (r.drop 1) (pc + 2) tgt
      else wordAt n r (pc + 1) tgt

/-- The halfwords of a firing's routine. -/
def View.routine (v : View) : List (BitVec 16) := (v.c.code.drop v.f.start).take v.f.len

/-- SWITCH (R286). -/
def View.switch (v : View) (a b : Opnd) : Except Trap View := do
  let x ← v.src a
  let y ← v.src b
  let tgt := v.f.pc + 2 + 2 * Nat.min x.toNat (y.toNat % 256)
  if wordAt (v.f.len + 1) v.routine 0 tgt then .ok { v with f := v.f.jump tgt }
  else .error (trapBounds (BitVec.ofNat 32 tgt))

/-! ## Meanings -/

/-- NOP (R282). -/
def execNop (s : State) : Host.Outcome State Fault Refusal := s.runView 59 2 fun v => .ok v

/-- END (R28, R282). -/
def execEndFiring (s : State) : Host.Outcome State Fault Refusal :=
  s.runFiring 59 fun t f => .ok (t.endFiring t.tile t.slot f false)

/-- ENDF (R28, R282). -/
def execEndfFiring (s : State) : Host.Outcome State Fault Refusal :=
  s.runFiring 59 fun t f => .ok (t.endFiring t.tile t.slot f true)

/-- YIELD (R28, R282, R283). -/
def execYield (s : State) : Host.Outcome State Fault Refusal :=
  s.runFiring 59 fun t f => .ok (t.yieldFiring t.tile t.slot f)

/-- BR (R284). -/
def execBr (p : BitVec 3) (n : BitVec 1) (o : BitVec 19) (s : State) : Host.Outcome State Fault Refusal :=
  s.runJump 59 fun v => .ok (v.branch 2 p n o.toInt)

/-- LOOP (R285). -/
def execLoop (c : Opnd) (l : BitVec 16) (s : State) : Host.Outcome State Fault Refusal :=
  s.runJump 59 fun v => do
    let n ← v.src c
    .ok (v.loop 2 n.toNat l.toNat)

/-- LOOPI (R285). -/
def execLoopi (n : BitVec 11) (l : BitVec 12) (s : State) : Host.Outcome State Fault Refusal :=
  s.runJump 59 fun v => .ok (v.loop 2 n.toNat l.toNat)

/-- SWITCH (R286). -/
def execSwitch (a b : Opnd) (s : State) : Host.Outcome State Fault Refusal :=
  s.runJump 59 fun v => v.switch a b

/-- TRAP (R329): TNUM takes the low byte of a, and F_TRAP discards the firing. -/
def execTrap (a : Opnd) (s : State) : Host.Outcome State Fault Refusal :=
  s.runFiring 59 fun t f => do
    let x ← (t.view f).src a
    let st := (f.tstat &&& 0xFF00FFFF) ||| ((x &&& 0xFF) <<< 16)
    .ok (t.takeFault t.tile t.slot { f with tstat := st } { code := 0x0E, tval := x })

/-- TRET (R330). -/
def execTret (a : Opnd) (s : State) : Host.Outcome State Fault Refusal :=
  s.runFiring 59 fun t f => do
    let x ← (t.view f).src a
    t.tret t.tile t.slot f (x.getLsbD 0)

/-! ## Compact aliases (R64) -/

/-- C.NOP (R64). -/
def execCNop (s : State) : Host.Outcome State Fault Refusal := s.runView 59 1 fun v => .ok v

/-- C.END (R64). -/
def execCEnd (s : State) : Host.Outcome State Fault Refusal :=
  s.runFiring 59 fun t f => .ok (t.endFiring t.tile t.slot f false)

/-- C.BR (R64). -/
def execCBr (p : BitVec 3) (n : BitVec 1) (o : BitVec 6) (s : State) : Host.Outcome State Fault Refusal :=
  s.runJump 59 fun v => .ok (v.branch 1 p n o.toInt)

/-- C.LOOPI (R64). -/
def execCLoopi (n l : BitVec 5) (s : State) : Host.Outcome State Fault Refusal :=
  s.runJump 59 fun v => .ok (v.loop 1 n.toNat l.toNat)

end Sys2Proof.Machine
end

