-- ==== Sys2Proof/Machine/Segments.lean ====
section
/-! DEFINITION. Segment records of the Haar codec (R236 to R239). -/

namespace Sys2Proof.Machine

/-- A codec descriptor (R236). -/
structure CodecDesc where
  l : Nat := 0
  axis : Nat := 0
  ef : Nat := 0
  c : Nat := 1
  th : Nat := 0
  rc : Bool := false
  off : Nat := 0
  deriving DecidableEq, Repr

/-- The fields of a descriptor word (R236). -/
def codecDesc (b : W32) : CodecDesc :=
  let n := b.toNat
  { l := n % 8, axis := n / 8 % 8, ef := n / 64 % 4, c := n / 256 % 16 + 1, th := n / 2 ^ 12 % 8
    rc := decide (n / 2 ^ 15 % 2 = 1), off := n / 2 ^ 16 % 64 }

/-- A descriptor defective for HLD or HST (R236). -/
def CodecDesc.bad (d : CodecDesc) (store : Bool) : Bool :=
  decide (d.l = 0) || decide (d.l = 7) || decide (d.ef = 3)
    || (if store then !([1, 2, 4, 8, 16].contains d.c) || decide (16 < d.c * 2 ^ d.l) || d.rc
        else !d.rc && (decide (d.c ≠ 1) || decide (4 < d.l) || decide (d.off ≠ 0)))

/-- The bytes of one stored coefficient. -/
def CodecDesc.esize (d : CodecDesc) : Nat := if d.ef = 0 then 4 else 2

/-- The stride of records (R237). -/
def CodecDesc.stride (d : CodecDesc) : Nat := 8 * ((8 + 2 ^ d.l * d.c * d.esize + 7) / 8)

/-- The records that a load reads (R239). -/
def CodecDesc.records (d : CodecDesc) : List Nat :=
  if d.rc then
    let v := d.c * 2 ^ d.l
    let a := 16 * d.off / v
    (List.range ((16 * d.off + 15) / v + 1 - a)).map fun i => a + i
  else List.range (16 / 2 ^ d.l)

/-- The set bits of `bm` below bit `p`. -/
def onesBelow (bm p : Nat) : Nat := ((List.range p).filter fun i => bm.testBit i).length

/-- A bitmap is malformed for `l` levels (R237). -/
def badBitmap (bm l : Nat) : Bool := !bm.testBit 0 || decide (2 ^ (2 ^ l) ≤ bm)

/-- A stored coefficient widened to F32 (R98). -/
def widenCoef (ef x : Nat) : W32 :=
  match ef with
  | 0 => BitVec.ofNat 32 x
  | 1 => (widenF h16 x).1
  | _ => (widenF b16 x).1

/-- An F32 coefficient as stored, with its flags (R98). -/
def storeCoef (ef : Nat) (x : W32) : Nat × Flags :=
  match ef with
  | 0 => (x.toNat, 0)
  | 1 => narrowF h16 0 x
  | _ => narrowF b16 0 x

/-- The coefficients of channel `ch` of a record in tree order; `rd` reads bytes of the record as a number. -/
def recordTree (d : CodecDesc) (rd : Nat → Nat → Nat) (ch : Nat) : List W32 :=
  let bm := rd 0 8
  (List.range (2 ^ d.l)).map fun p =>
    if bm.testBit p then widenCoef d.ef (rd (8 + (onesBelow bm p * d.c + ch) * d.esize) d.esize) else 0

/-- The values of a record as a load gives them, with whether it is malformed (R239). -/
def recordValues (d : CodecDesc) (rd : Nat → Nat → Nat) : List W32 × Bool :=
  if badBitmap (rd 0 8) d.l then (List.replicate (d.c * 2 ^ d.l) 0, true)
  else if d.rc then
    let chans := (List.range d.c).map fun ch => (haarInv d.l (recordTree d rd ch)).1
    ((List.range (d.c * 2 ^ d.l)).map fun i => (chans.getD (i % d.c) []).getD (i / d.c) 0, false)
  else (recordTree d rd 0, false)

/-- A loaded vector with its tag, and whether a record was malformed (R239). `rd r` reads record `r`. -/
def loadRecords (d : CodecDesc) (rd : Nat → Nat → Nat → Nat) : VBits × BitVec 6 × Bool :=
  let rs := d.records
  let vals := rs.map fun r => recordValues d (rd r)
  let all := vals.flatMap fun v => v.1
  let skip := if d.rc then 16 * d.off - rs.headD 0 * (d.c * 2 ^ d.l) else 0
  (ofLaneList ((all.drop skip).take 16), if d.rc then 0 else BitVec.ofNat 6 (d.l * 8 + d.axis), vals.any fun v => v.2)

/-- One stored record from its channels' trees: its bytes (bitmap and kept coefficients) and flags (R97, R98, R238). -/
def storeRecord (d : CodecDesc) (th : W32) (trees : List (List W32)) : List Byte × Flags :=
  let amax := trees.foldl (fun a t => magMax a (absF (t.headD 0))) 0
  let kept := (List.range (2 ^ d.l)).filter fun p =>
    decide (p = 0) ||
      survives th amax (trees.foldl (fun a t => magMax a (absF (t.getD p 0))) 0) (trees.any fun t => isNanF (t.getD p 0))
  let bm := kept.foldl (fun a p => a + 2 ^ p) 0
  let vals := kept.flatMap fun p => trees.map fun t => storeCoef d.ef (t.getD p 0)
  let bytes (n v : Nat) : List Byte := (List.range n).map fun i => BitVec.ofNat 8 (v / 256 ^ i)
  (bytes 8 bm ++ vals.flatMap fun v => bytes d.esize v.1, orFlags vals)

/-- The trees of the segments of a spatial vector, per channel, with the flags of the transform (R237, R238). -/
def segmentTrees (d : CodecDesc) (v : VBits) : List (List (List W32) × Flags) :=
  (List.range (16 / (d.c * 2 ^ d.l))).map fun g =>
    let chs := (List.range d.c).map fun ch =>
      haarFwd d.l ((List.range (2 ^ d.l)).map fun j => lane v ((g * 2 ^ d.l + j) * d.c + ch))
    (chs.map fun t => t.1, orFlags chs)

end Sys2Proof.Machine
end

