-- ==== Sys2Proof/Machine/Bte.lean ====
section
/-! DEFINITION. Copy commands: the fields and defects of templates (R242 to R247, R312, R313, R394), the command window (R240),
and the queues of the BTE channels (R241, R268). -/

namespace Sys2Proof.Machine

/-! ## Template fields (R312) -/

/-- Bits `lo` to `lo + n - 1` of a template. -/
def tmplBits (t : LineBits) (lo n : Nat) : Nat := t.toNat / 2 ^ lo % 2 ^ n

/-- A field read as S32. -/
def tmplInt (t : LineBits) (lo : Nat) : Int := (BitVec.ofNat 32 (tmplBits t lo 32)).toInt

/-- COUNT of level `k`. -/
def tmplCount (t : LineBits) (k : Nat) : Nat :=
  let n := tmplBits t (80 * k) 16
  if n = 0 then 65536 else n

/-- SSTR of level `k`. -/
def tmplSstr (t : LineBits) (k : Nat) : Int := tmplInt t (80 * k + 16)
/-- DSTR of level `k`. -/
def tmplDstr (t : LineBits) (k : Nat) : Int := tmplInt t (80 * k + 48)
/-- SBASE. -/
def tmplSbase (t : LineBits) : Nat := tmplBits t 640 52
/-- DBASE. -/
def tmplDbase (t : LineBits) : Nat := tmplBits t 704 52
/-- SARG. -/
def tmplSarg (t : LineBits) : Int := tmplInt t 768
/-- DARG. -/
def tmplDarg (t : LineBits) : Int := tmplInt t 800
/-- FILL. -/
def tmplFill (t : LineBits) : W32 := BitVec.ofNat 32 (tmplBits t 832 32)
/-- IDXBASE. -/
def tmplIdx (t : LineBits) : Nat := tmplBits t 864 52
/-- NLVL. -/
def tmplNlvl (t : LineBits) : Nat := tmplBits t 928 3
/-- The element size in bytes. -/
def tmplEsize (t : LineBits) : Nat := 2 ^ tmplBits t 931 3
/-- OP. -/
def tmplOp (t : LineBits) : Nat := tmplBits t 934 2
/-- The level of MARK, when it is enabled. -/
def tmplMark (t : LineBits) : Option Nat := if tmplBits t 939 1 = 1 then some (tmplBits t 936 3) else none
/-- The level of GATHER, when it is enabled. -/
def tmplGather (t : LineBits) : Option Nat := if tmplBits t 943 1 = 1 then some (tmplBits t 940 3) else none
/-- MCAST. -/
def tmplMcast (t : LineBits) : Nat := tmplBits t 944 8
/-- Bitmap and base chunk of ARRIVE, when it is enabled. -/
def tmplArrive (t : LineBits) : Option (Nat × Nat) :=
  if tmplBits t 952 1 = 1 then some (tmplBits t 953 5, tmplBits t 958 7) else none
/-- The task of TASK, when it is enabled. -/
def tmplTask (t : LineBits) : Option Nat := if tmplBits t 965 1 = 1 then some (tmplBits t 966 9) else none
/-- The bit of EVENT, when it is enabled. -/
def tmplEvent (t : LineBits) : Option Nat := if tmplBits t 975 1 = 1 then some (tmplBits t 976 8) else none
/-- The pool offset of SLOT, when it is enabled. -/
def tmplSlot (t : LineBits) : Option Nat := if tmplBits t 984 1 = 1 then some (16 * tmplBits t 985 17) else none
/-- The vector of EGRESS, when it is enabled. -/
def tmplEgress (t : LineBits) : Option Nat := if tmplBits t 1002 1 = 1 then some (tmplBits t 1003 6) else none

/-- The kinds of commands: plain copies, walks of a tile binding (R247), and Haar tile walks (R394). -/
inductive CmdKind where
  | copy | loadWalk | storeWalk | haarWalk
  deriving DecidableEq, Repr

/-- The kind of a template's command (R247, R394). -/
def tmplKind (t : LineBits) : CmdKind :=
  if tmplDbase t / 2 ^ 32 = 0xFFFFF then .haarWalk
  else if tmplDbase t / 2 ^ 32 = 0xFFFFE then .loadWalk
  else if tmplSbase t / 2 ^ 32 = 0xFFFFE then .storeWalk
  else .copy

/-- The levels of a template. -/
def tmplLevels (t : LineBits) : List Nat := List.range (tmplNlvl t + 1)

/-- The elements of a command. -/
def tmplTotal (t : LineBits) : Nat := (tmplLevels t).foldl (fun a k => a * tmplCount t k) 1

/-- The tiles of a walk. -/
def walkTiles (t : LineBits) : Nat := tmplTotal t / tmplCount t 0

/-- The indices of element `n`, level 0 first (R242). -/
def tmplIndices (t : LineBits) (n : Nat) : List Nat :=
  ((tmplLevels t).foldl (fun a k => (a.1 ++ [a.2 % tmplCount t k], a.2 / tmplCount t k)) (([] : List Nat), n)).1

/-- A 52-bit VA moved by an offset. -/
def vaMove (va : Nat) (d : Int) : Nat := (((va : Int) + d) % 2 ^ 52).toNat

/-- The destination offset of element `n` from the base (R242). -/
def tmplDstOff (t : LineBits) (n : Nat) : Int :=
  ((tmplIndices t n).zip (tmplLevels t)).foldl (fun a e => a + (e.1 : Int) * tmplDstr t e.2) 0

/-- The destination address of element `n`. -/
def tmplDst (t : LineBits) (arg n : Nat) : Nat := vaMove (tmplDbase t) (tmplDstOff t n + (arg : Int) * tmplDarg t)

/-- The source address of element `n`; `g` is the index that the gather level takes (R242, R312). -/
def tmplSrc (t : LineBits) (arg n : Nat) (g : Nat) : Nat :=
  let off := ((tmplIndices t n).zip (tmplLevels t)).foldl (fun a e =>
    a + ((if tmplGather t = some e.2 then g else e.1 : Nat) : Int) * tmplSstr t e.2) (0 : Int)
  vaMove (tmplSbase t) (off + (arg : Int) * tmplSarg t)

/-- The VA of the gather index that element `n` uses. -/
def tmplGatherVa (t : LineBits) (n : Nat) : Option Nat :=
  (tmplGather t).map fun k => vaMove (tmplIdx t) (4 * ((tmplIndices t n).getD k 0 : Nat))

/-- The lowest destination offset of a command, and the bytes from there to the end of the highest (R243). -/
def tmplSpan (t : LineBits) : Int × Nat :=
  (tmplLevels t).foldl (fun a k =>
    let d := tmplDstr t k * ((tmplCount t k - 1 : Nat) : Int)
    if d < 0 then (a.1 + d, a.2 + d.natAbs) else (a.1, a.2 + d.natAbs)) (0, tmplEsize t)

/-- The chunks that a command's destinations fall in (R243). -/
def tmplChunks (t : LineBits) : Nat := ((tmplSpan t).2 + 511) / 512

/-! ## Defects (R247, R313) -/

/-- A bit outside every field, or in a level above NLVL, is set. -/
def tmplReserved (t : LineBits) : Bool :=
  decide (tmplBits t 692 12 ≠ 0) || decide (tmplBits t 756 12 ≠ 0) || decide (tmplBits t 916 12 ≠ 0)
    || decide (tmplBits t 1009 15 ≠ 0)
    || (List.range 8).any fun k => decide (tmplNlvl t < k) && decide (tmplBits t (80 * k) 80 ≠ 0)

/-- The berths of a cove that bind a channel in a role (R169, R311). -/
def State.roleCount (s : State) (cove chan : Nat) (storer : Bool) : Nat :=
  let want := chan + (if storer then 8 else 0) + 16
  (upFrom (cove * 64) 64).foldl (fun a t => a + ((s.tcfg t).berths.filter fun e =>
    (List.range 4).any fun b => decide (e.2.tbind.toNat / 2 ^ (5 * b) % 32 = want)).length) 0

/-- The field rules of R247 fail. -/
def State.badWalk (s : State) (cove chan : Nat) (t : LineBits) (load : Bool) : Bool :=
  decide (16 < tmplCount t 0) || decide (tmplGather t = some 0) || decide (tmplOp t ≠ 0) || decide (tmplEsize t ≠ 1)
    || decide (tmplMcast t ≠ 0) || (tmplArrive t).isSome || (tmplSlot t).isSome
    || decide (s.roleCount cove chan (!load) ≠ 1)
    || (if load then decide (tmplDbase t % 8 = 7) || decide (tmplDbase t % 2 ^ 32 / 8 ≠ 0)
        else decide (tmplSbase t % 2 ^ 32 ≠ 0))

/-- The codec descriptor of a Haar walk (R394). -/
def tmplCodec (t : LineBits) : W32 := BitVec.ofNat 32 (tmplBits t 720 16)

/-- The field rules of R394 fail. -/
def State.badHaarWalk (s : State) (cove chan : Nat) (t : LineBits) : Bool :=
  let d := codecDesc (tmplCodec t)
  decide (d.l = 0) || decide (4 < d.l) || decide (d.ef = 3) || decide (d.c ≠ 1) || decide (d.th ≠ 0) || d.rc
    || decide (tmplDbase t % 65536 ≠ 0) || decide (tmplOp t ≠ 0) || decide (tmplEsize t ≠ 8) || decide (tmplNlvl t ≠ 0)
    || decide (64 < tmplCount t 0) || decide (s.roleCount cove chan false = 0)

/-- The lowest-numbered defective field of a template below field 15, if any (R247, R313, R394). -/
def State.tmplDefectLow (s : State) (cove chan : Nat) (t : LineBits) : Option Nat :=
  let kind := tmplKind t
  if kind = .storeWalk ∧ s.badWalk cove chan t false then some 4
  else if kind ≠ .storeWalk ∧ tmplSbase t % tmplEsize t ≠ 0 then some 4
  else if kind = .loadWalk ∧ s.badWalk cove chan t true then some 5
  else if kind = .haarWalk ∧ s.badHaarWalk cove chan t then some 5
  else if kind ≠ .loadWalk ∧ tmplDbase t % tmplEsize t ≠ 0 then some 5
  else if (tmplGather t).isSome ∧ tmplIdx t % 4 ≠ 0 then some 9
  else if (tmplOp t = 2 ∧ tmplEsize t ≠ 4) ∨ (tmplOp t = 3 ∧ tmplEsize t ≠ 2) then some 11
  else if (match tmplMark t with
      | some m => decide (tmplNlvl t < m) || (tmplEvent t).isNone
      | none => false) then some 13
  else if (match tmplGather t with
      | some g => decide (tmplNlvl t < g)
      | none => false) then some 14
  else none

/-- The rectangle of a partition on a die: its column, row, width and height (R316). The agent's partition is its
reserved cove. -/
def State.rectOf (s : State) (part d : Nat) : Option (Nat × Nat × Nat × Nat) :=
  if part = agentPart then
    match (s.hd.cmap.filter fun e => decide (e.2.cstate = 3) && decide (e.1 / 64 = d)).head? with
    | some e => some (e.1 % 8, e.1 / 8 % 8, 1, 1)
    | none => none
  else
    let o := (s.part part).origin.toNat / 2 ^ (16 * d) % 65536
    if o / 4096 % 2 = 0 then none else some (o % 8, o / 8 % 8, o / 64 % 8 + 1, o / 512 % 8 + 1)

/-- The cove that a partition's relative die and cove index name (R42, R240). -/
def State.relCove (s : State) (part d idx : Nat) : Option Nat :=
  match s.rectOf part d with
  | some (x, y, w, h) => if idx % 8 < w ∧ idx / 8 < h then some (d * 64 + (y + idx / 8) * 8 + x + idx % 8) else none
  | none => none

/-- The cove index of a cove relative to its partition's origin (R240). -/
def State.coveRel (s : State) (part cove : Nat) : Nat :=
  match s.rectOf part (cove / 64) with
  | some (x, y, _, _) => (cove / 8 % 8 - y) * 8 + (cove % 8 - x)
  | none => 0

/-- The coves that a multicast writes: the destination's own cove, and those that its bits name (R242, R312). -/
def mcastCoves (cove mask : Nat) : List Nat :=
  cove :: (((List.range 8).filter fun j => j ≠ 0 && mask.testBit j).map fun j => cove + j)

/-- The lowest-numbered defective field of a template (R247, R313). `home` is what DBASE's page translates to, where
MCAST asks for it. -/
def State.tmplDefect (s : State) (part cove chan : Nat) (t : LineBits) (home : Option Xl) : Option Nat :=
  match s.tmplDefectLow cove chan t with
  | some n => some n
  | none =>
    let mcBad := decide (tmplMcast t ≠ 0) && (match home with
      | some x =>
        match regionOf x.pa with
        | .pool c => decide (x.home ≠ 1) || (mcastCoves c (tmplMcast t)).any fun d =>
            decide (d / 64 ≠ c / 64) || decide (s.covePart d ≠ part)
        | _ => true
      | none => true)
    if mcBad then some 15
    else if (match tmplArrive t with
        | some (_, b) => decide (128 < b + tmplChunks t)
        | none => false) then some 16
    else if tmplReserved t then some 21
    else none

/-- F_TEMPLATE (R241). -/
def trapTemplate (idx field : Nat) : Trap := { code := 0x08, tval := BitVec.ofNat 32 (idx + field * 65536) }

/-! ## The command window (R240) -/

/-- The channel's M-tile that a window address of a tile's berth selects; none where R240 forbids the address. -/
def State.windowTile (s : State) (t : Nat) (addr : W32) : Option Nat :=
  let a := addr.toNat
  let chan := a / 2 ^ 7 % 8
  if a % 128 ≠ 0 ∨ a / 2 ^ 19 ≠ 0 ∨ 5 < chan then none
  else (s.relCove (s.tcfg t).part (a / 2 ^ 16 % 8) (a / 2 ^ 10 % 64)).map fun c => chanTile c chan

/-! ## Queues (R241, R268) -/

/-- The firings whose aperture store has been ordered and not yet queued: the M-tile and the context. -/
def State.openApertures (s : State) : List (Nat × Nat) :=
  s.tiles.flatMap fun e => e.2.slots.filterMap fun g =>
    match g.2.job with
    | some j =>
      match j.cont with
      | .aperture m _ _ => some (m, s.xlVf e.1 g.2.cx.toNat)
      | _ => none
    | none => none

/-- The BTE entries that a VF holds: queued, running, and ordered (R241, R268). -/
def State.bteHeld (s : State) (vf : Nat) : Nat :=
  let one (u : MUnit) : Nat :=
    (u.queue.filter fun c => decide (c.vf = vf)).length
      + (match u.run with
        | some c => if c.vf = vf then 1 else 0
        | none => 0)
  s.tiles.foldl (fun a e => a + one e.2.mu) 0 + (s.openApertures.filter fun p => decide (p.2 = vf)).length

/-- The command queue of a channel has a free entry. -/
def State.queueRoom (s : State) (m : Nat) : Bool :=
  decide ((s.tileAt m).mu.queue.length + (s.openApertures.filter fun p => decide (p.1 = m)).length < 16)

/-- An aperture store of a context on a tile need not wait (R241). The agent's chart has no quota. -/
def State.bteRoom (s : State) (m vf : Nat) : Bool :=
  s.queueRoom m && (decide (128 ≤ vf) || decide (s.bteHeld vf < (s.vf vf).qbte))

/-- The command clock of a channel orders a command at `pts` (R241): the state, and the command's cts. -/
def State.orderCmd (s : State) (m pts : Nat) : Nat × State :=
  let w := Nat.max pts (s.tileAt m).mu.qck + 1
  (w, s.modMu m fun u => { u with qck := w })

/-- A command joins its channel's queue. -/
def State.pushCmd (s : State) (m : Nat) (c : BteCmd) : State :=
  (s.modMu m fun u => { u with queue := u.queue ++ [c] }).after 1 .bteCommandStart { a := m }

/-- The line of a template in a VF's table (R312). -/
def State.tmplVa (s : State) (vf idx : Nat) : Nat := (s.vf vf).tbase + 128 * idx

end Sys2Proof.Machine
end

