-- ==== Sys2Proof/Machine/Jobs.lean ====
section
/-! DEFINITION. The memory accesses of a firing, line by line: translation, L1, the home, PEND waits and wounds, the berm
(R193, R197, R200, R207 to R212, R222 to R229, R309). -/

namespace Sys2Proof.Machine

/-! ## Addresses -/

/-- A fault whose TVAL is a VA (R325). -/
def trapVa (code : BitVec 8) (va : Nat) : Trap :=
  { code := code, tval := BitVec.ofNat 32 va, vahi := BitVec.ofNat 20 (va / 2 ^ 32) }

/-- Bytes `va` to `va + n - 1` cut at line boundaries, the first going to `dst`. -/
def splitLines (fuel va n dst : Nat) : List (Nat × Nat × Nat) :=
  match fuel with
  | 0 => []
  | f + 1 =>
    if n = 0 then []
    else
      let k := Nat.min n (128 - va % 128)
      (va, k, dst) :: splitLines f (vaAdd va k) (n - k) (dst + k)

/-- Loads of `n` bytes from `va` into the buffer at `dst`. -/
def loadOps (kind : OpKind) (va n dst : Nat) : List LineOp :=
  (splitLines 40 va n dst).map fun p => { kind := kind, va := p.1, len := p.2.1, dst := p.2.2 }

/-- Stores of bytes from `va`. -/
def storeOps (va : Nat) (bs : List Byte) : List LineOp :=
  (splitLines 40 va bs.length 0).map fun p =>
    let part := (bs.drop p.2.2).take p.2.1
    { kind := .store, va := p.1, len := p.2.1, mask := byteMask (p.1 % 128) p.2.1
      data := BitVec.ofNat 1024 ((lineOfBytes part).toNat * 2 ^ (8 * (p.1 % 128))) }

/-- A store joined to the stores of one access to its line, the later bytes over the earlier (R232). -/
def joinStore (l : List LineOp) (o : LineOp) : List LineOp :=
  match l with
  | [] => [o]
  | p :: r =>
    if p.va / 128 = o.va / 128 then
      let e := Nat.max (p.va + p.len) (o.va + o.len)
      { p with data := mergeLine p.data o.data o.mask, mask := p.mask ||| o.mask, len := e - p.va } :: r
    else p :: joinStore r o

/-- Stores of one access, one for each line in the order first touched. -/
def joinStores (l : List LineOp) : List LineOp := l.foldl joinStore []

/-- A piece of a line joined to the pieces of one access: for each line the first VA, and the bytes read. -/
def joinPiece (l : List (Nat × Nat × Nat)) (va n : Nat) : List (Nat × Nat × Nat) :=
  match l with
  | [] => [(va, va, va + n)]
  | (v, lo, hi) :: r =>
    if v / 128 = va / 128 then (v, Nat.min lo va, Nat.max hi (va + n)) :: r else (v, lo, hi) :: joinPiece r va n

/-- Loads of spans of bytes, one for each line in the order first touched; byte `a` goes to buffer place `a` mod 2^32.
`whole` reads the lines whole, as memory beyond the tile is accessed. -/
def spanOps (whole : Bool) (l : List (Nat × Nat)) : List LineOp :=
  let ps := l.flatMap fun p => (splitLines 40 p.1 p.2 0).map fun q => (q.1, q.2.1)
  (ps.foldl (fun a p => joinPiece a p.1 p.2) []).map fun e =>
    let lo := if whole then e.1 / 128 * 128 else e.2.1
    let hi := if whole then e.1 / 128 * 128 + 128 else e.2.2
    { kind := .load, va := e.1, len := hi - e.1, back := e.1 - lo, dst := e.1 % 2 ^ 32 }

end Sys2Proof.Machine

namespace Sys2Proof

/-- What an operation needs of its page (R307). -/
def LineOp.need (o : LineOp) : Machine.Need :=
  match o.kind with
  | .load => .read
  | .ldnc => .read
  | .peek => if o.mask = 0 then .read else .both
  | .tmpl => .config
  | .probe => .write
  | .cfg => .config
  | .store => .write
  | .rmw => if o.fn = .stnc then .write else .both
  | .ztst => .both

/-- The VA of the screen-tile record of a ZTST, which stands for its depth words: R253 gives those no VA (log 123). -/
def Job.recordVa (j : Job) : Nat :=
  match j.cont with
  | .ztstMask _ va => va
  | _ => 0

/-- Bytes put into an access's buffer. -/
def Job.fillBuf (j : Job) (dst : Nat) (bs : List Byte) : Job :=
  { j with buf := (Machine.enumFrom dst bs).foldl (fun m e => m.set 0 e.1 e.2) j.buf }

/-- The bytes of a line that an operation reads, whose byte `va` is byte `o` of the line, put into the buffer. -/
def Job.fillLine (j : Job) (op : LineOp) (o : Nat) (d : LineBits) : Job :=
  j.fillBuf (op.dst - op.back) (((Machine.bytesOfLine d).drop (o - op.back)).take (op.back + op.len))

end Sys2Proof

namespace Sys2Proof.Machine

/-! ## L1 (R197, R208) -/

/-- The L1 copy of a line on its M-tile, filled through its home (R195). -/
def State.l1Look (s : State) (m : Nat) (x : Xl) : Option L1Line := (s.tileAt m).mu.l1.find? fun e => e.place = placeKey x

/-- A line becomes most recent in its L1 set of 8 ways (R197). -/
def l1Install (l : List L1Line) (e : L1Line) : List L1Line :=
  let rest := l.filter fun x => !decide (x.place = e.place)
  let same := rest.filter fun x => decide (x.line / 6 % 64 = e.line / 6 % 64)
  match same.getLast? with
  | some old => if 8 ≤ same.length then e :: rest.filter (fun x => !decide (x.place = old.place)) else e :: rest
  | none => e :: rest

/-- The berm entry that a firing holds for a line at a home (R195, R209). -/
def State.heldEntry (s : State) (t k : Nat) (x : Xl) : Option BermEnt :=
  (s.tileAt (servingTile (coveOfTile t) x.pa)).mu.berm.find? fun e =>
    decide (e.place = placeKey x) && decide (e.tile = t) && decide (e.slot = k)

/-- A line's data with the held bytes of a firing over it (R209). -/
def State.withHeld (s : State) (t k : Nat) (x : Xl) (d : LineBits) : LineBits :=
  match s.heldEntry t k x with
  | some e => mergeLine d e.data e.mask
  | none => d

/-! ## Waits and wounds (R211, R228) -/

/-- The smallest reserved w of a firing, with `pendOnly` among its PEND lines. -/
def State.minW (s : State) (t k : Nat) (pendOnly : Bool) : Option Nat :=
  let l := (s.heldLines t k).filter fun e => !(pendOnly && decide (e.2.home = 3))
  (l.map fun e => e.2.w).min?

/-- A firing suspended by F_XLATE is never wounded (R226). -/
def State.isHeld (s : State) (t k : Nat) : Bool :=
  match s.firing t k with
  | some f =>
    match f.job with
    | some j => decide (j.stage = .held)
    | none => false
  | none => false

/-- A firing is wounded: it ends as YIELD does (R211). -/
def State.wound (s : State) (t k : Nat) : State :=
  match s.firing t k with
  | some f => s.yieldFiring t k f
  | none => s

/-- The wound rule for a waiting firing against one owner (R211). -/
def State.woundRule (s : State) (t k : Nat) (g : Nat × Nat) : State :=
  if g = (t, k) ∨ s.isHeld g.1 g.2 then s
  else
    match s.minW t k true, s.minW g.1 g.2 true with
    | some a, some b =>
      if a < b ∨ (a = b ∧ slotId t k < slotId g.1 g.2) then s.wound g.1 g.2 else s
    | _, _ => s

/-- The firing in a slot with its access changed. -/
def State.modJob (s : State) (t k : Nat) (g : Job → Job) : State :=
  s.modFiring t k fun f => { f with job := f.job.map g }

/-- An access that faults discards its firing; the record names the pc of the access (R28, R325). -/
def State.accessFault (s : State) (t k : Nat) (f : Firing) (e : Trap) : State :=
  s.takeFault t k { f with pc := (f.job.map fun j => j.pc).getD f.pc } e

/-- A firing waits on PEND lines of `owners`; `fill` says that it waits for room in L2 (R211). -/
def State.pendWait (s : State) (t k : Nat) (owners : List (Nat × Nat)) (fill : Bool) : State :=
  if fill && owners.contains (t, k) then s.wound t k
  else
    let s1 := s.modJob t k fun j => { j with stage := if fill then .fill owners.length else .pend owners.length }
    owners.foldl (fun a g => a.woundRule t k g) s1

/-- A store finds no free entry in its berm: the firing there with the youngest reservation ends (R228). -/
def State.bermWait (s : State) (t k m : Nat) : State :=
  let s1 := s.modJob t k fun j => { j with stage := .berm }
  let cand := (((s.tileAt m).mu.berm.map fun e => (e.tile, e.slot)).eraseDups).filter fun g => !s.isHeld g.1 g.2
  let key (g : Nat × Nat) : Nat := ((s.minW g.1 g.2 false).getD 0) * 2 ^ 20 + slotId g.1 g.2
  match cand.foldl (fun a g => match a with
      | none => some g
      | some h => if key h < key g then some g else some h) none with
  | none => s1
  | some g => s1.wound g.1 g.2

/-! ## Atomics (R233, R235, R250, R258, R361) -/

/-- What an atomic makes of a line: its new data, the old word, its flags; an illegal slot transition; or a SEQN that
waits. -/
inductive AtomRes where
  | ok (l : LineBits) (old : W32) (fl : Flags)
  | slotState
  | hold
  deriving DecidableEq, Repr

/-- A line with the word at byte `o` replaced. -/
def putWord (l : LineBits) (o : Nat) (x : W32) : LineBits :=
  mergeLine l (linePlace x.toNat o 4) (byteMask o 4)

/-- An atomic on a line, its operand at byte `o`. -/
def atomApply (fn : AtomFn) (a b : W32) (l : LineBits) (o : Nat) : AtomRes :=
  let old := BitVec.ofNat 32 (lineField l o 4)
  let word (x : W32) : AtomRes := .ok (putWord l o x) old 0
  match fn with
  | .add => word (old + b)
  | .min => word (if old.toInt ≤ b.toInt then old else b)
  | .max => word (if b.toInt ≤ old.toInt then old else b)
  | .and => word (old &&& b)
  | .or => word (old ||| b)
  | .xor => word (old ^^^ b)
  | .xch => word b
  | .cas => word (if old = a then b else old)
  | .fadd => .ok (putWord l o (addF old b).1) old (addF old b).2
  | .incw => word (if b.toNat ≤ old.toNat then 0 else old + 1)
  | .stnc => word b
  | .slclm =>
    if old.extractLsb' 0 2 ≠ 0 ∨ b.extractLsb' 0 24 = 0 then .slotState
    else
      let w0 : W32 := (old &&& 0xFC) ||| 1 ||| (b <<< 8)
      let w1 : W32 := BitVec.ofNat 32 (lineField l (o + 4) 4) &&& 0xFF000000
      .ok (putWord (putWord l o w0) (o + 4) w1) old 0
  | .slrel =>
    if !b.getLsbD 0 then
      if old.extractLsb' 0 2 = 2 then word (old ||| 3) else .slotState
    else if old.extractLsb' 0 2 = 3 then
      let w1 : W32 := BitVec.ofNat 32 (lineField l (o + 4) 4) &&& 0xFF000000
      let l1 := putWord (putWord l o (old &&& 0xFC)) (o + 4) w1
      .ok (mergeLine l1 0 (byteMask (o + 8) 6)) old 0
    else .slotState
  | .binapp =>
    if old.toNat < lineField l (o + 4) 4 then word (old + 1) else .ok l 0xFFFFFFFF 0
  | .seqn =>
    let nseq := lineField l (o + 4) 2
    let retc := lineField l o 2
    if 32767 ≤ (nseq + 65536 - retc) % 65536 then .hold
    else .ok (mergeLine l (linePlace ((nseq + 1) % 65536) (o + 4) 2) (byteMask (o + 4) 2)) (BitVec.ofNat 32 nseq) 0

/-- The bytes that an atomic works on. -/
def atomLen (fn : AtomFn) : Nat :=
  match fn with
  | .slclm => 16
  | .slrel => 16
  | .seqn => 8
  | _ => 4

/-! ## Finishing an access -/

/-- What follows the last reply: the view after the destination is written, or more operations. -/
inductive ContRes where
  | view (v : View)
  | more (v : View) (j : Job)
  deriving DecidableEq, Repr

/-- The quota of task entries and counters of a VF in a cove allows one more entry (R294, R315). -/
def State.spawnRoom (s : State) (cove vf cnt : Nat) : Bool :=
  let l := (s.coveAt cove).tasks.filter fun e => decide (e.2.vf = vf) && decide (e.2.state ≠ 0)
  if vf ≥ 128 then true
  else
    decide (l.length < (s.vf vf).qtask)
      && (decide (cnt = 0) || decide ((l.filter fun e => e.2.cntu).length < (s.vf vf).qcnt))

/-- What a TSPAWN reserved at issue is enough for its record (R294). -/
def spawned (got : Nat) (r : LineBits) : Bool := decide (got = 2) || (decide (got = 1) && decide (r.extractLsb' 3 8 = 0))

/-- A TSPAWN of the firing `f` on tile `t` reserves entry `entry` of its cove's task table, where it is free and the VF's quota
allows it, with a counter where the quota allows one (R294). -/
def State.reserveTask (s : State) (t : Nat) (f : Firing) (entry : Nat) : Nat × State :=
  let cove := coveOfTile t
  let vf := s.xlVf t f.cx.toNat
  if ((s.coveAt cove).tasks.get {} entry).state = 0 ∧ s.spawnRoom cove vf 0 then
    let got := if s.spawnRoom cove vf 1 then 2 else 1
    let ent : TaskEnt := { state := 1, vf := f.cx.toNat, cntu := decide (got = 2) }
    (got, s.modCove cove fun c => { c with tasks := c.tasks.set {} entry ent })
  else (0, s)

/-- A spawn record breaks R293; `chan` tells whether a tile of the cove and a port end a task channel. -/
def badRecord (r : LineBits) (chan : Nat → Nat → Bool) : Bool :=
  let tile := (r.extractLsb' 40 6).toNat
  let port := (r.extractLsb' 46 2).toNat
  let nsucc := (r.extractLsb' 11 5).toNat
  let succBad := (List.range (Nat.min 16 nsucc)).any fun k => decide (r.extractLsb' (640 + 16 * k + 9) 7 ≠ 0)
  let kind := kindAt tile
  decide (r.extractLsb' 16 16 ≠ 0) || decide (r.extractLsb' 96 32 ≠ 0) || decide (r.extractLsb' 896 128 ≠ 0)
    || decide (16 < nsucc) || succBad
    || (if isCompute r then decide (r.extractLsb' 48 16 ≠ 0) || !(decide (kind = .c) || decide (kind = .m)) || !chan tile port
        else decide (5 < (r.extractLsb' 64 3).toNat) || decide (r.extractLsb' 67 29 ≠ 0))

/-- A spawn record of a firing on tile `t` is refused (R293). -/
def State.badSpawn (s : State) (t : Nat) (r : LineBits) : Bool :=
  let cove := coveOfTile t
  badRecord r fun tile port =>
    s.cfg.chans.any fun e => decide (e.2.part = (s.tcfg t).part) && decide (e.2.src = .task cove) &&
      (match e.2.dst with
       | .berth u _ p => decide (u = tileOfCove cove tile) && decide (p = port)
       | _ => false)

/-- A scene descriptor is defective (R320, R321). -/
def badScene (d : Nat) : Bool :=
  let fld (lo n : Nat) : Nat := d / 2 ^ lo % 2 ^ n
  let ty := fld (96 + 28) 3
  decide (fld 0 7 ≠ 0) || decide (fld 52 12 ≠ 0) || decide (fld 64 32 = 0) || decide (ty = 0) || decide (4 < ty)
    || decide (fld 128 16 = 0) || decide (fld 144 16 ≠ 0) || decide (fld 160 8 ≠ 0)
    || decide (2 ^ 21 < fld 160 21 + 65536) || decide (fld 181 75 ≠ 0)
    || decide (fld 416 96 ≠ 0)

/-- Ring slots of a cove that are neither taken nor reserved by a firing (R268). -/
def State.ringRoom (s : State) (cove : Nat) : Nat :=
  let used := (s.coveAt cove).ring.length
  let held := (upFrom (cove * 64) 64).foldl (fun a t =>
    (s.tileAt t).slots.foldl (fun b e => b + e.2.rings) a) 0
  256 - used - held

/-- The bitmaps of the records that a codec load reads (R239). -/
def codecBitmaps (c : CodecDesc) (va : Nat) : List (Nat × Nat) := c.records.map fun r => (vaAdd va (r * c.stride), 8)

/-- What the continuation of an access does with its data. -/
def State.contView (s : State) (v : View) (j : Job) (k : Nat) : Except Trap ContRes :=
  match j.cont with
  | .none => .ok (.view v)
  | .scalar d size signed =>
    let n := j.num 0 size
    let x : W32 := if signed && decide (2 ^ (8 * size - 1) ≤ n) then BitVec.ofNat 32 (n + 2 ^ 32 - 2 ^ (8 * size))
      else BitVec.ofNat 32 n
    (v.put d x).map .view
  | .lanes d m => (v.vput d m { bits := BitVec.ofNat 512 (j.num 0 64) } []).map .view
  | .bcast d m => (v.vput d m { bits := splat (BitVec.ofNat 32 (j.num 0 4)) } []).map .view
  | .old d => (v.put d j.old).map .view
  | .oldFlags d => ((v.flag j.flags).put d j.old).map .view
  | .flags fl => .ok (.view (v.flag fl))
  | .gather d m addrs =>
    (v.vput d m { bits := ofLanes fun l => BitVec.ofNat 32 (j.num (lane addrs l).toNat 4) } []).map .view
  | .hld d desc va bitmaps =>
    let c := codecDesc desc
    let rd (r off n : Nat) : Nat := j.num ((va + r * c.stride + off) % 2 ^ 32) n
    if bitmaps then
      let far := decide (va / 2 ^ 16 ≠ 0)
      let seen := (spanOps far (codecBitmaps c va)).map fun o => o.va / 128
      let ops := spanOps far (c.records.flatMap fun r =>
        let bm := rd r 0 8
        if badBitmap bm c.l then []
        else [(vaAdd va (r * c.stride + 8), onesBelow bm 64 * c.c * c.esize)])
      let more := if far then ops.filter fun o => !seen.contains (o.va / 128) else ops
      .ok (.more v { j with ops := more, cont := .hld d desc va false, stage := .start })
    else
      let (x, tag, bad) := loadRecords c rd
      let v1 := if bad then { v with f := { v.f with err := true } } else v
      let v2 := if c.rc then { v1 with extra := v1.extra ++ [(56, c.records.length)] } else v1
      (v2.vput d 0xFFFF { bits := x, tag := tag } []).map .view
  | .tspawn pd entry va got =>
    let r : LineBits := BitVec.ofNat 1024 (j.num 0 128)
    if s.badSpawn v.tile r then .error (trapVa 0x04 va)
    else if spawned got r then
      .ok (.view ({ v with f := { v.f with staged := v.f.staged ++ [Staged.task (coveOfTile v.tile) entry r] } }.setPred pd.toNat true))
    else .ok (.view (v.setPred pd.toNat false))
  | .aperture m cmd probed =>
    let tm : LineBits := BitVec.ofNat 1024 (j.num 0 128)
    let idx := cmd.toNat % 65536
    let cove := coveOfTile m
    if !probed ∧ tmplMcast tm ≠ 0 ∧ (s.tmplDefectLow cove (tileChan m) tm).isNone then
      .ok (.more v { j with
        ops := [{ kind := .probe, va := tmplDbase tm }], cont := .aperture m cmd true, stage := .start, xl := none })
    else
      match s.tmplDefect (s.tcfg v.tile).part cove (tileChan m) tm j.xl with
      | some n => .error (trapTemplate idx n)
      | none => .ok (.view v)
  | .iscfg _ va => if badScene (j.num 0 64) then .error (trapVa 0x04 va) else .ok (.view v)
  | .sltst pd want =>
    let tag := j.num 0 1 % 4
    let hit := decide (tag = want.toNat)
    let v1 := v.setPred pd.toNat hit
    let cts := j.num 8 6
    .ok (.view (if hit && decide (want = 2) then { v1 with f := { v1.f with pts := Nat.max v1.f.pts cts } } else v1))
  | .binapp d val =>
    if j.old = 0xFFFFFFFF then (v.put d j.old).map .view
    else
      let list := vaAdd (v.b.wbase.toNat * 2 ^ 32) (j.num 8 4 + 4 * j.old.toNat)
      if list % 4 ≠ 0 then .error (trapVa 0x03 list)
      else .ok (.more v { j with ops := storeOps list (leBytes 4 val.toNat), cont := .binel d j.old, stage := .start })
  | .binel d count => (v.put d count).map .view
  | .seqn d _ =>
    match v.put d j.old with
    | .ok v1 => .ok (.view { v1 with f := { v1.f with sq := j.old.setWidth 16 } })
    | .error e => .error e
  | .ztst q d b va =>
    let o := if j.num 8 4 / 4 % 2 = 1 then false else true
    if o && decide (b.extractLsb' 6 2 ≠ 0) then .error (trapBounds b)
    else
      let blk := (b.extractLsb' 0 4).toNat
      let dep := j.num 20 4 % 2 ^ 21 + 4 * (256 * (b.extractLsb' 6 2).toNat + 64 * (blk / 4) + 4 * (blk % 4))
      let pa := poolAddr (coveOfTile v.tile) + dep
      .ok (.more v { j with
        ops := [{ kind := .ztst, va := pa, a := b, data := d.setWidth 1024, dst := q.toNat }]
        cont := .ztstMask q va, stage := .start })
  | .ztstMask q _ => .ok (.view (v.setMask q.toNat (j.old.setWidth 16)))
  | .blnd d q b =>
    let ntm1 := j.num 8 4 % 4
    let ms := j.num 8 4 / 4 % 2
    if (ms = 0 ∧ b.extractLsb' 6 2 ≠ 0) ∨ ntm1 < (b.extractLsb' 4 2).toNat then .error (trapBounds b)
    else
      let m := servingTile (coveOfTile v.tile) (j.xl.getD {}).pa
      let ahead := (v.f.sq.toNat + 65536 - j.num 0 2) % 65536
      if 32768 ≤ ahead then .error (trapBounds (v.f.sq.setWidth 32))
      else
        let (x, y) : VReg × VReg := match d with
          | .v n => (v.f.v.get {} n.toNat, v.f.v.get {} (n.toNat + 1))
          | .i n => ({ bits := (v.f.token n.toNat 0).words }, { bits := (v.f.token (n.toNat + 1) 0).words })
          | _ => ({}, {})
        let bt : Batch :=
          { recPa := (j.xl.getD {}).pa, sq := v.f.sq, block := (b.extractLsb' 0 4).toNat
            target := (b.extractLsb' 4 2).toNat, sample := (b.extractLsb' 6 2).toNat
            n := (b.extractLsb' 8 4).toNat + 1, mask := v.mask q.toNat, rg := x.bits, ba := y.bits
            vf := v.f.cx.toNat, tile := v.tile, slot := k }
        .ok (.view { v with f := { v.f with staged := v.f.staged ++ [.batch m (decide (ahead ≠ 0)) bt] } })
  | .occq val b =>
    let m := servingTile (coveOfTile v.tile) (j.xl.getD {}).pa
    let form := b.extractLsb' 0 2
    let at_ : BitVec 16 := if form = 1 then val.setWidth 16 else v.f.sq
    let ahead := (at_.toNat + 65536 - j.num 0 2) % 65536
    let o : Occq := { recPa := (j.xl.getD {}).pa, form := form, k := b.extractLsb' 2 2, val := val, seqAt := at_
                      vf := v.f.cx.toNat, tile := v.tile, slot := k }
    let held := decide (form ≠ 2) && decide (ahead ≠ 0) && decide (ahead < 32768)
    .ok (.view { v with f := { v.f with staged := v.f.staged ++ [.occq m held o] } })

/-! ## Requests -/

/-- A request joins the queue of a shared unit, which serves it in a calendar slot (R276, R277). Its length
has no bound here, and what makes no request of a firing takes no slot (log 105). -/
def State.unitJoin (s : State) (unit acct req : Nat) : State :=
  let old := s.hd.unitq.get [] unit
  let s1 := s.modHd fun h => { h with unitq := h.unitq.set [] unit (old ++ [(acct, req)]) }
  if old = [] then s1.after 1 .unitSlotService { a := unit } else s1

/-- The step that serves a translated operation at its home. -/
def homeEvent (o : LineOp) (x : Xl) : Instr :=
  if x.home = 3 then .memoryChannelOperation
  else
    match o.kind with
    | .store => .ownershipRequest
    | .rmw => .atomicHomeOperation
    | .ztst => .atomicHomeOperation
    | _ => .loadHomeRequest

/-- A translated operation goes to its home: through the calendar of an L2 slice or a memory channel, directly to a pool
(R275, R277). -/
def State.toHome (s : State) (t k : Nat) (f : Firing) (x : Xl) : State :=
  let acct := s.account t f.cx.toNat
  let s1 := (s.modJob t k fun j => { j with stage := .home, xl := some x }).markRoute (dieOfTile t) (homeDie x) acct
  if x.home = 1 then
    match f.job with
    | some j =>
      match j.ops with
      | o :: _ => s1.after 0 (homeEvent o x) { a := t, b := k }
      | [] => s1
    | none => s1
  else
    let unit := if x.home = 3 then channelUnit x.pa else 4096 + x.slice
    s1.unitJoin unit acct (slotId t k)

/-- A line lies where the operation wants it (R249, R252, R258). -/
def placeOk (o : LineOp) (x : Xl) (t : Nat) : Bool :=
  match o.place with
  | 0 => true
  | 1 => decide (x.home = 1)
  | _ => decide (x.home = 1) && decide (regionOf x.pa = .pool (coveOfTile t))

/-- A hold entry of the order unit is taken for the effect just staged; with none free the firing yields (R256, R360). -/
def State.takeHold (s : State) (t k : Nat) (e : Staged) : State :=
  let go (m : Nat) (held : Bool) : State :=
    if !held then s
    else if 32 ≤ (s.tileAt m).mu.hold.length then s.wound t k
    else s.modMu m fun u => { u with hold := u.hold ++ [.reserved t k] }
  match e with
  | .batch m held _ => go m held
  | .occq m held _ => go m held
  | _ => s

/-- Effects beyond the tile of an access that is complete (R294, R296). -/
def State.afterCont (s : State) (t k : Nat) (j : Job) : State :=
  match j.cont, s.firing t k with
  | .tspawn _ entry _ got, some f =>
    let r : LineBits := BitVec.ofNat 1024 (j.num 0 128)
    let ent : TaskEnt := { state := 1, vf := f.cx.toNat, cntu := decide (r.extractLsb' 3 8 ≠ 0), record := r }
    if got = 0 then s
    else s.modCove (coveOfTile t) fun c => { c with tasks := if spawned got r then c.tasks.set {} entry ent else c.tasks.drop entry }
  | .aperture m cmd _, some f =>
    let (id, s0) := s.fresh
    let s1 := s0.modMu m fun u => { u with qck := Nat.max u.qck f.pts }
    let c : BteCmd :=
      { id := id, tmpl := BitVec.ofNat 1024 (j.num 0 128), tidx := cmd.toNat % 65536, arg := cmd.toNat / 65536, cts := f.pts
        vf := s.xlVf t f.cx.toNat, gen := (s.vf f.cx.toNat).gen, tile := t, slot := k }
    (s1.setFiring t k { f with cmds := f.cmds ++ [id] }).pushCmd m c
  | .iscfg scene _, some f =>
    let cove := coveOfTile t
    let p : ScenePend := { tile := t, slot := k, scene := scene, desc := BitVec.ofNat 512 (j.num 0 64) }
    let s1 := s.modCove cove fun c => { c with pend := c.pend.put (slotId t k) p }
    (s1.setFiring t k { f with wait := .iscfg }).after 1 .iscfgDescriptorWrite { a := t, b := k }
  | .blnd _ _ _, some f =>
    match f.staged.getLast? with
    | some e => s.takeHold t k e
    | none => s
  | .occq _ _, some f =>
    match f.staged.getLast? with
    | some e => s.takeHold t k e
    | none => s
  | _, _ => s

/-- Element-local accesses (R193, R225, R229, R235): the firing, the tile and the access after one operation. -/
def localOp (x : Tile) (z : Nat) (f : Firing) (j : Job) (o : LineOp) : Except Trap (Tile × Firing × Job) :=
  let off := o.va % 65536
  let len := match o.kind with
    | .rmw => atomLen o.fn
    | _ => o.len
  if z < off + len ∨ o.place ≠ 0 then .error (trapVa 0x02 o.va)
  else if o.need.reads && x.damaged (eccByte (off - o.back)) (o.back + len) then .error (trapVa 0x0D o.va)
  else
    let base := off - off % 128
    let line : LineBits := lineOfBytes ((upFrom base 128).map fun i => x.scratch.get 0 i)
    let store (l : LineBits) (m : BitVec 128) : Map Byte :=
      (List.range 128).foldl (fun a i => if m.getLsbD i then a.set 0 (base + i) (lineByte l i) else a) x.scratch
    match o.kind with
    | .store =>
      let p := Nat.max f.pts x.lck + 1
      .ok ({ x with scratch := store o.data o.mask, lck := p }, { f with pts := p }, j)
    | .rmw =>
      let p := Nat.max f.pts x.lck + 1
      match atomApply o.fn o.a o.b line (off % 128) with
      | .ok l old fl =>
        .ok ({ x with scratch := store l (byteMask (off % 128) len), lck := p }, { f with pts := p },
          { j with old := old, flags := j.flags ||| fl })
      | _ => .error (trapVa 0x02 o.va)
    | _ =>
      let p := Nat.max f.pts x.lck
      .ok ({ x with lck := p }, { f with pts := p },
        j.fillBuf (o.dst - o.back) ((List.range (o.back + o.len)).map fun i => x.scratch.get 0 (off - o.back + i)))

/-- An access has done everything: its firing has none under way, and waits no longer. -/
def State.resume (s : State) (t k : Nat) (v : View) : State :=
  let f := { v.f with job := none, wait := .no }
  (s.setTile t { v.t with slots := v.t.slots.put k f }).charges t f.cx.toNat v.extra

/-- EC58 of a screen-tile or bin instruction, at the order unit of its record once it has reached it (R224, R360, R361). -/
def State.orderCharge (s : State) (t : Nat) (f : Firing) (j : Job) : State :=
  let m := servingTile (coveOfTile t) (j.xl.getD {}).pa
  match j.cont with
  | .blnd _ _ _ | .ztst _ _ _ _ | .binapp _ _ | .occq _ _ | .seqn _ _ => s.charge m f.cx.toNat 58 1
  | _ => s

/-- The template that the template cache of the channel's M-tile `o.b` holds under a lease that covers `pts` (R220). -/
def State.tcHit (s : State) (o : LineOp) (pts vf : Nat) : Option LineBits :=
  ((s.tileAt o.b.toNat).mu.tcache.find? fun e =>
    decide (e.vf = vf) && decide (e.idx = o.a.toNat) && decide (e.wts ≤ pts) && decide (pts ≤ e.rts)).map fun e => e.tmpl

/-- A template cache takes a template under its lease (R220). -/
def State.tcInstall (s : State) (m vf idx : Nat) (d : LineBits) (wts rts : Nat) : State :=
  let e : TcEnt := { vf := vf, idx := idx, tmpl := d, wts := wts, rts := rts }
  let rest (l : List TcEnt) : List TcEnt := l.filter fun x => !(decide (x.vf = vf) && decide (x.idx = idx))
  s.modMu m fun u => { u with tcache := e :: rest u.tcache }

/-- The access of a firing goes on from its first operation as far as it can without a reply: element-local operations,
L1 hits, and what follows the last operation (R223). -/
def State.jobRun (fuel : Nat) (s : State) (t k : Nat) : State :=
  match fuel with
  | 0 => s
  | n + 1 =>
    match s.firing t k with
    | none => s
    | some f =>
      match f.job with
      | none => s
      | some j =>
        match j.ops with
        | [] =>
          let s1 := s.orderCharge t f j
          let v : View := { tile := t, t := s1.tileAt t, f := f, c := s1.tcfg t, b := s1.berth t f.berth }
          match s1.contView v j k with
          | .error e => s1.accessFault t k f e
          | .ok (.more v2 j2) =>
            State.jobRun n (s1.setTile t { v2.t with slots := v2.t.slots.put k { v2.f with job := some j2 } }) t k
          | .ok (.view v2) => (s1.resume t k v2).afterCont t k j
        | o :: rest =>
          let nearVa := decide (o.va / 2 ^ 16 = 0) || decide (o.va / 2 ^ 32 = 0xFFFFF)
          if o.kind = .ztst then
            if (List.range 208).any fun i => s.lineDamaged (o.va + i) then s.accessFault t k f (trapVa 0x0D j.recordVa)
            else (s.modJob t k fun i => { i with stage := .home, xl := some { pa := o.va, home := 1 } }).after 0
              .atomicHomeOperation { a := t, b := k }
          else if o.kind = .tmpl ∧ (s.tcHit o f.pts (s.xlVf t f.cx.toNat)).isSome then
            let d := (s.tcHit o f.pts (s.xlVf t f.cx.toNat)).getD 0
            State.jobRun n (s.modJob t k fun i => { i.fillLine o 0 d with ops := rest, stage := .start }) t k
          else if o.kind = .probe ∧ nearVa then
            State.jobRun n (s.modJob t k fun i => { i with ops := rest, stage := .start, xl := none }) t k
          else if nearVa then
            if o.va / 2 ^ 32 = 0xFFFFF ∨ kindAt (t % 64) = .m ∨ o.kind = .tmpl then s.accessFault t k f (trapVa 0x02 o.va)
            else
              match localOp (s.tileAt t) (s.tcfg t).scratch f j o with
              | .error e => s.accessFault t k f e
              | .ok (x, f2, j2) =>
                let j3 := { j2 with ops := rest, stage := .start }
                State.jobRun n (s.setTile t { x with slots := x.slots.put k { f2 with job := some j3 } }) t k
          else
            let m := xlatTile t
            let q := (s.tileAt m).mu.inq
            if q ≠ [] ∧ q.head? ≠ some (t, k) then
              if q.contains (t, k) then s
              else (s.modMu m fun u => { u with inq := u.inq ++ [(t, k)] }).modJob t k fun i => { i with stage := .inq }
            else
              let vf := s.xlVf t f.cx.toNat
              match s.tlbAsk m vf o.va o.need with
              | .deny =>
                if o.kind = .probe then
                  State.jobRun n (s.modJob t k fun i => { i with ops := rest, stage := .start, xl := none }) t k
                else s.accessFault t k f (trapVa 0x02 o.va)
              | .miss => (s.modJob t k fun i => { i with stage := .walk }).after 1 .pageWalk { a := t, b := k }
              | .hit x e =>
                let s0 := s.modMu m fun u => { u with tlb := tlbTouch u.tlb e }
                let s1 := if q = [] then s0
                  else
                    let s2 := s0.modMu m fun u => { u with inq := u.inq.drop 1 }
                    match q.drop 1 with
                    | [] => s2
                    | g :: _ => s2.after 1 .accessRetry { a := g.1, b := g.2 }
                if o.kind = .probe then
                  State.jobRun n (s1.modJob t k fun i => { i with ops := rest, stage := .start, xl := some x }) t k
                else if !placeOk o x t then s1.accessFault t k f (trapVa 0x02 o.va)
                else if o.need.reads && s1.lineDamaged x.pa then s1.accessFault t k f (trapVa 0x0D o.va)
                else
                  let sm := servingTile (coveOfTile t) x.pa
                  let cachedLoad := (decide (o.kind = .load) || decide (o.kind = .cfg)) && decide (x.home ≠ 3)
                  match (if cachedLoad then s1.l1Look sm x else none) with
                  | some e =>
                    if e.wts ≤ f.pts ∧ f.pts ≤ e.rts then
                      let d := s1.withHeld t k x e.data
                      let s2 := (s1.modMu sm fun u => { u with l1 := l1Install u.l1 e }).charge sm f.cx.toNat 47 1
                      let s3 := s2.modJob t k fun i =>
                        { i.fillLine o (x.pa % 128) d with
                          ops := rest, stage := .start, xl := some x }
                      State.jobRun n s3 t k
                    else s1.toHome t k f x
                  | none => s1.toHome t k f x

/-- Operations, each of them once, and one more round for what follows. -/
def jobFuel : Nat := 400

/-- A firing starts an access: it goes on behind the instruction, and until the last reply issues only what may run beside the
access (R30, R223). Its loads take the LEASE that the tile has now (R111). -/
def State.startJob (s : State) (t k : Nat) (f : Firing) (j : Job) : State :=
  let j1 := { j with pc := f.pc, lease := (s.tileAt t).lease }
  State.jobRun jobFuel (s.setFiring t k { f.advance j.adv with job := some j1, wait := .access }) t k

/-- The operation of a firing that stands at its home, with its translation. -/
def State.atHome (s : State) (t k : Nat) : Option (Firing × Job × LineOp × Xl) :=
  match s.firing t k with
  | none => none
  | some f =>
    match f.job with
    | none => none
    | some j =>
      match j.ops, j.xl with
      | o :: _, some x => some (f, j, o, x)
      | _, _ => none

/-- The reply of a home reaches its firing in the step MEMORY_REPLY. -/
def State.reply (s : State) (t k : Nat) (pts : Nat) (g : Job → Job) : State :=
  let s1 := s.modFiring t k fun f =>
    { f with pts := Nat.max f.pts pts, job := f.job.map fun j => { g j with stage := .reply } }
  s1.after 0 .memoryReply { a := t, b := k }

/-- The data of a reply enter the buffer, the firing's held bytes over them (R209). -/
def State.replyData (s : State) (t k : Nat) (o : LineOp) (x : Xl) (d : LineBits) (pts : Nat) : State :=
  let d2 := s.withHeld t k x d
  s.reply t k pts fun j => j.fillLine o (x.pa % 128) d2

/-- The L1 of the serving M-tile installs a reply, and EC47 is charged (R191, R208). A renewal without data leaves the copy that was
filled, with the key select of its fill (R205). -/
def State.l1Reply (s : State) (t cx : Nat) (x : Xl) (d : LineBits) (wts rts : Nat) : State :=
  let m := servingTile (coveOfTile t) x.pa
  let key := match s.l1Look m x with
    | some e => if e.wts = wts then e.key else x.key
    | none => x.key
  let e : L1Line := { line := x.pa / 128, place := placeKey x, data := d, wts := wts, rts := rts, key := key }
  (s.modMu m fun u => { u with l1 := l1Install u.l1 e }).charge m cx 47 1

/-- A load at its home (R208, R209, R233). A template is ordered as data are: a wts above the pts raises it (R220; log 100). -/
def State.serveLoad (s : State) (t k : Nat) : State :=
  match s.atHome t k with
  | none => s
  | some (f, j, o, x) =>
    let c := s.account t f.cx.toNat
    let m := servingTile (coveOfTile t) x.pa
    if o.kind = .peek then
      let (d, s1) := s.homeData x c
      s1.replyData t k o x d 0
    else
      let own := match s.heldEntry t k x with
        | some e => decide (e.home ≠ 3)
        | none => false
      if own && decide (x.home ≠ 3) then
        let (d, s1) := s.homeData x c
        (s1.chargeHome x c 48).replyData t k o x d f.pts
      else
        let tm := decide (o.kind = .tmpl)
        let nc := decide (o.kind = .ldnc)
        let copy := if nc || tm then none else (s.l1Look m x).map fun e => e.wts
        match s.homeLoad x c f.pts (if nc then none else some (if tm then (s.tileAt o.b.toNat).lease else j.lease)) copy with
        | .pend g h => s.pendWait t k [(g, h)] false
        | .full => s.pendWait t k (s.pendOwners x.slice (x.pa / 128) c) true
        | .done s1 d ts wts rts =>
          let s2 := if nc ∨ x.home = 3 then s1
            else if tm then s1.tcInstall o.b.toNat (s.xlVf t f.cx.toNat) o.a.toNat d wts rts
            else s1.l1Reply t f.cx.toNat x d wts rts
          let s3 := if x.home = 1 ∧ !nc ∧ copy = some wts then s2.charge m f.cx.toNat 49 1 else s2
          s3.replyData t k o x d ts

/-- The lines, by their numbers at their homes, that the stores of an access still to do fall in, as far as their pages have a translation. -/
def State.storeLineSet (s : State) (t : Nat) (f : Firing) (j : Job) : List (Nat × Nat) :=
  let vf := s.xlVf t f.cx.toNat
  j.ops.filterMap fun o =>
    match s.tlbAsk (xlatTile t) vf o.va .write with
    | .hit x _ => some (o.va, placeKey x)
    | .deny => none
    | .miss =>
      match s.walk (xlatTile t) vf (s.account t f.cx.toNat) f.pts o.va .write with
      | .ok _ e => some (o.va, placeKey (e.at o.va))
      | _ => none

/-- The VA of the first line with which a store's lines would raise the firing's footprint above 128 (R227). -/
def State.overflowAt (s : State) (t k : Nat) (f : Firing) (j : Job) : Option Nat :=
  let held := (s.heldLines t k).map fun e => e.2.place
  if held.length + j.ops.length ≤ 128 then none
  else
    ((s.storeLineSet t f j).foldl (fun (a : List Nat × Option Nat) e =>
      if a.1.contains e.2 then a
      else if 128 ≤ a.1.length then (a.1, a.2 <|> some e.1)
      else (a.1 ++ [e.2], a.2)) (held, none)).2

/-- A held store at the home of its line (R209, R227, R228). A store that would hold more than 128 lines faults before it asks for
any. One to a line that its firing holds joins the entry; where the pts has passed the line's w, it first reserves the line
again (R207, R209; log 30), and firings that wait on it are held to the wound rule anew (R211). -/
def State.serveStore (s : State) (t k : Nat) : State :=
  match s.atHome t k with
  | none => s
  | some (f, j, o, x) =>
    let c := s.account t f.cx.toNat
    let m := servingTile (coveOfTile t) x.pa
    let line := x.pa / 128
    let mark (s : State) : State := match j.cont with
      | .binel _ _ => s.modFiring t k fun g => { g with bins := g.bins ++ [(m, placeKey x, x.pa % 128)] }
      | _ => s
    let join (s : State) (e : BermEnt) (w : Nat) : State :=
      let e2 := { e with data := mergeLine e.data o.data o.mask, mask := e.mask ||| o.mask, w := w }
      ((mark s).modMu m fun u => { u with berm := u.berm.map fun y => if y = e then e2 else y }).reply t k w id
    match s.overflowAt t k f j, s.heldEntry t k x with
    | some va, _ => s.accessFault t k f (trapVa 0x09 va)
    | none, some e =>
      if f.pts ≤ e.w then join s e e.w
      else
        match s.homeReserve x c f.pts t k with
        | .done s1 _ w _ _ => (join s1 e w).wakeWaiters
        | _ => s
    | none, none =>
      if 128 ≤ (s.tileAt m).mu.berm.length then s.bermWait t k m
      else
        match s.homeReserve x c f.pts t k with
        | .pend g h => s.pendWait t k [(g, h)] false
        | .full => s.pendWait t k (s.pendOwners x.slice line c) true
        | .done s1 _ w _ _ =>
          let e : BermEnt := { home := x.home, line := line, slice := x.slice, key := x.key, cmp := x.cmp
                               data := o.data, mask := o.mask, tile := t, slot := k, w := w }
          ((mark s1).modMu m fun u => { u with berm := u.berm ++ [e] }).reply t k w id

/-- An atomic at its home, or on the firing's own reservation of the line, which it reserves again (R211, R212). -/
def State.serveAtomic (s : State) (t k : Nat) : State :=
  match s.atHome t k with
  | none => s
  | some (f, _, o, x) =>
    let c := s.account t f.cx.toNat
    let m := servingTile (coveOfTile t) x.pa
    let line := x.pa / 128
    let off := x.pa % 128
    let (d0, sd) := s.homeData x c
    let seen := s.withHeld t k x d0
    let head := ((bytesOfLine seen).drop off).take 16
    match s.heldEntry t k x with
    | some e =>
      match atomApply o.fn o.a o.b seen off with
      | .slotState => s.accessFault t k f (trapVa 0x10 o.va)
      | .hold => s.modFiring t k fun g => { g with wait := .seqn }
      | .ok l old fl =>
        match sd.homeReserve x c f.pts t k with
        | .done s1 _ w _ _ =>
          let bm := byteMask off (atomLen o.fn)
          let e2 := { e with data := mergeLine e.data l bm, mask := e.mask ||| bm, w := w }
          ((s1.modMu m fun u => { u with berm := u.berm.map fun y => if y = e then e2 else y }).reply t k w
            fun j => { j.fillBuf 0 head with old := old, flags := j.flags ||| fl }).wakeWaiters
        | _ => s
    | none =>
      match atomApply o.fn o.a o.b d0 off with
      | .slotState =>
        let r := s.homeDir x
        if r.pend && decide (x.home ≠ 3) then s.pendWait t k [(r.tile, r.slot)] false
        else s.accessFault t k f (trapVa 0x10 o.va)
      | .hold =>
        let r := s.homeDir x
        if r.pend && decide (x.home ≠ 3) then s.pendWait t k [(r.tile, r.slot)] false
        else s.modFiring t k fun g => { g with wait := .seqn }
      | .ok l old fl =>
        match s.homeUpdate x c f.pts (fun _ => l) (byteMask off (atomLen o.fn)) with
        | .pend g h => s.pendWait t k [(g, h)] false
        | .full => s.pendWait t k (s.pendOwners x.slice line c) true
        | .done s1 _ w _ _ =>
          s1.reply t k w fun j => { j.fillBuf 0 head with old := old, flags := j.flags ||| fl }

/-- The depth compare of ZTST (R255). -/
def depthPass (cmp : Nat) (d z : W32) : Bool :=
  let a := unF32 d
  let b := unF32 z
  match cmp with
  | 0 => false
  | 1 => a.lt b
  | 2 => a.lt b || a.eqv b
  | 3 => a.eqv b
  | 4 => b.lt a
  | 5 => b.lt a || a.eqv b
  | 6 => !a.isNan && !b.isNan && !a.eqv b
  | _ => true

/-- The byte of lane `l`'s depth word, from the start of the line that holds the block's first word at its byte `o` (R253). -/
def depthByte (o l : Nat) : Nat := o + 64 * (l / 4) + 4 * (l % 4)

/-- ZTST on its lines at once (R255, R212): two, or three where a DBASE that is no multiple of 128 spreads the four rows. Where the
firing holds one of them PEND, all that change join its reservation, so that nothing sees one without the other. -/
def State.serveZtst (s : State) (t k : Nat) : State :=
  match s.atHome t k with
  | none => s
  | some (f, j, o, x) =>
    let c := s.account t f.cx.toNat
    let b := x.pa % 128
    let ls : List (Nat × Xl) := (List.range ((b + 207) / 128 + 1)).map fun i => (i, { pa := (x.pa / 128 + i) * 128, home := 1 })
    let m := (f.m.get 0xFFFF o.dst)
    match ls.find? fun e =>
        let r := s.homeDir e.2
        r.pend && !(decide (r.tile = t) && decide (r.slot = k)) with
    | some e => s.pendWait t k [((s.homeDir e.2).tile, (s.homeDir e.2).slot)] false
    | none =>
      let seen : BitVec 3072 := ls.foldl (fun a e =>
        a ||| ((s.withHeld t k e.2 (s.homeData e.2 c).1).setWidth 3072 <<< (1024 * e.1))) 0
      let pass (l : Nat) : Bool :=
        m.getLsbD l && depthPass (o.a.extractLsb' 8 3).toNat (lane (o.data.setWidth 512) l)
          (seen.extractLsb' (8 * depthByte b l) 32)
      let hits := (List.range 16).filter pass
      let wr := if o.a.getLsbD 11 then hits else []
      let after : BitVec 3072 × BitVec 384 := wr.foldl (fun a l =>
        let y := depthByte b l
        ((a.1 &&& ~~~((0xFFFFFFFF : BitVec 3072) <<< (8 * y))) ||| ((lane (o.data.setWidth 512) l).setWidth 3072 <<< (8 * y)),
          a.2 ||| ((0xF : BitVec 384) <<< y))) (seen, 0)
      let w := ls.foldl (fun a e => Nat.max a ((s.homeDir e.2).rts + 1)) f.pts
      let joins := (ls.any fun e => (s.homeDir e.2).pend) && !wr.isEmpty
      let new := if joins then ls.filter fun e => !(s.homeDir e.2).pend else []
      let full := new.find? fun e => decide (128 ≤ (s.tileAt (servingTile (coveOfTile t) e.2.pa)).mu.berm.length)
      let one (a : State) (e : Nat × Xl) : State :=
        let r := s.homeDir e.2
        let d := after.1.extractLsb' (1024 * e.1) 1024
        let bm := after.2.extractLsb' (128 * e.1) 128
        if r.pend then
          let sm := servingTile (coveOfTile t) e.2.pa
          let join (y : BermEnt) : BermEnt :=
            if y.place = placeKey e.2 ∧ y.tile = t ∧ y.slot = k then
              { y with data := mergeLine y.data d bm, mask := y.mask ||| bm, w := w }
            else y
          let a1 := a.modMu sm fun u => { u with berm := u.berm.map join }
          a1.setHomeDir e.2 { r with wts := w, rts := w }
        else if joins then
          let y : BermEnt := { home := 1, line := e.2.pa / 128, data := d, mask := bm, tile := t, slot := k, w := w }
          (a.modMu (servingTile (coveOfTile t) e.2.pa) fun u => { u with berm := u.berm ++ [y] }).setHomeDir e.2
            { wts := w, rts := w, own := BitVec.ofNat 9 (coveOfTile t), pend := true, tile := t, slot := k, base := r.wts }
        else (a.homeWrite e.2 d c).setHomeDir e.2 { r with wts := w, rts := w }
      if 128 < (s.heldLines t k).length + new.length then s.accessFault t k f (trapVa 0x09 j.recordVa)
      else
        match full with
        | some e => s.bermWait t k (servingTile (coveOfTile t) e.2.pa)
        | none =>
          let s1 := (ls.foldl one s).reply t k w fun j => { j with old := BitVec.ofNat 32 (hits.foldl (fun a l => a + 2 ^ l) 0) }
          if joins then s1.wakeWaiters else s1

/-- An operation at a memory channel or the CXL port (R200, R235, R391). -/
def State.serveChannel (s : State) (t k : Nat) : State :=
  match s.atHome t k with
  | none => s
  | some (_, _, o, _) =>
    match o.kind with
    | .store => s.serveStore t k
    | .rmw => s.serveAtomic t k
    | _ => s.serveLoad t k

end Sys2Proof.Machine
end

