-- ==== Sys2Proof/Machine/Tokens.lean ====
section
/-! DEFINITION. Sending tokens, activations, tasks, permits, rays and grid requests (R287 to R297, R302, R356). -/

namespace Sys2Proof.Machine

/-! ## Sends (R287 to R290) -/

/-- The payload and tag that a source field builds for port `po` (R287). -/
def View.payload (v : View) (po : BitVec 2) (o : Opnd) : Except Trap VReg :=
  match o with
  | .z => .ok (v.f.o.get {} po.toNat)
  | .v n => .ok (v.f.v.get {} n.toNat)
  | .i n => .ok { bits := (v.f.token n.toNat 0).words, tag := (v.f.token n.toNat 0).haar }
  | _ => do
    let x ← v.src o
    let p := v.f.o.get {} po.toNat
    .ok { bits := mergeLanes 1 p.bits (splat x), tag := 0 }

/-- ITAG and STAG of a sent token (R288). -/
def View.tags (v : View) (top : BitVec 3) (timm : BitVec 8) : Except Trap (BitVec 12 × BitVec 16) :=
  match top.toNat with
  | 0 => .ok (v.f.itag, v.f.stag)
  | 1 => .ok (v.f.itag + timm.setWidth 12, v.f.stag)
  | 2 => .ok ((v.f.w.get 0 timm.toNat).setWidth 12, v.f.stag)
  | 3 => .ok (timm.setWidth 12, v.f.stag)
  | 4 =>
    match v.f.tagn with
    | some g => .ok (g, v.f.stag)
    | none => .error (trapBounds 0xFFFFFFFF)
  | _ => .ok (v.f.itag, v.f.sq)

/-- The rate of output port `p` (R311). -/
def View.outRate (v : View) (p : Nat) : Nat := v.b.rates.toNat / 2 ^ (12 + 3 * p) % 8

/-- `n` tokens are counted against the rate of a port (R29). -/
def View.count (v : View) (p n : Nat) : Except Trap View :=
  let sent := v.f.sent.get 0 p + n
  if v.outRate p < sent then .error (trapBounds (BitVec.ofNat 32 p))
  else .ok { v with f := { v.f with sent := v.f.sent.set 0 p sent } }

/-- Effects are staged until END (R28). -/
def View.stage (v : View) (l : List Staged) : View := { v with f := { v.f with staged := v.f.staged ++ l } }

/-- The class of a channel (R310). -/
def State.chanClass (s : State) (c : Nat) : BitVec 8 :=
  match s.chan c with
  | some x => x.cls
  | none => 0

/-- A token is staged on every channel of `chans`, counting once against port `p` (R288, R289). -/
def View.send (v : View) (s : State) (p : Nat) (all : Bool) (pay : VReg) (tags : BitVec 12 × BitVec 16)
    (kind : BitVec 2) (level : BitVec 3) (nflit : BitVec 3) (err : Bool) (mark : BitVec 3) : Except Trap View := do
  let cs := s.chansFrom v.tile v.f.berth p
  let v1 ← v.count p 1
  let k : Token := { ctx := v.f.cx, err := v.f.err || err, kind := kind, level := level, itag := tags.1, stag := tags.2
                     dport := mark, nflit := nflit, haar := pay.tag, pay := pay.bits }
  .ok (v1.stage ((if all then cs else cs.take 1).map fun c => Staged.token c { k with cls := s.chanClass c }))

/-- SEND and STEER (R289). -/
def View.sendData (v : View) (s : State) (po : BitVec 2) (used : Nat) (all : Bool) (o : Opnd) (top : BitVec 3)
    (timm : BitVec 8) (fl : BitVec 3) : Except Trap View := do
  let x ← v.payload po o
  let g ← v.tags top timm
  v.send s used all x g 0 0 fl false 0

/-- The port whose head token MERGE forwards: p1 chooses it, the first MERGE of a firing chooses for all (R289). -/
def View.mergePort (v : View) (n : BitVec 2) : BitVec 2 :=
  match v.f.merge with
  | some other => other ^^^ 1
  | none => if v.pred 1 then n else n ^^^ 1

/-- MERGE (R289). -/
def View.merge (v : View) (s : State) (po n : BitVec 2) (top : BitVec 3) (timm : BitVec 8) (fl : BitVec 3) :
    Except Trap View := do
  let port := v.mergePort n
  let k := v.f.token port.toNat 0
  let g ← v.tags top timm
  let v1 : View := { v with f := { v.f with merge := some (port ^^^ 1) } }
  v1.send s po.toNat false { bits := k.words, tag := k.haar } g k.kind k.level (if k.kind = 1 then 0 else fl) k.err 0

/-- LOOPC (R290). A staged LOOPC carries DPORT 7 until it is sent. -/
def View.loopCarry (v : View) (s : State) (po : BitVec 2) (o : Opnd) (top : BitVec 3) (timm : BitVec 8) (fl : BitVec 3) :
    Except Trap View := do
  if v.f.loopc then .error (trapBounds 0xFFFFFFFE)
  else
    let x ← v.payload po o
    let g ← v.tags top timm
    if (s.run v.tile v.f.berth).live.contains g.1 then .error (trapBounds (g.1.setWidth 32))
    else
      let v1 : View := { v with f := { v.f with loopc := true } }
      v1.send s po.toNat false x g 0 0 fl false 7

/-- SEND (R289). -/
def execSend (p : BitVec 2) (o : Opnd) (t : BitVec 3) (m : BitVec 8) (f : BitVec 3) (s : State) :
    Host.Outcome State Fault Refusal :=
  s.runView 59 2 fun v => v.sendData s p p.toNat false o t m f

/-- SENDE (R289). -/
def execSende (p : BitVec 2) (t : BitVec 3) (m : BitVec 8) (l : BitVec 3) (s : State) :
    Host.Outcome State Fault Refusal :=
  s.runView 59 2 fun v => do
    let x ← v.payload p .z
    let g ← v.tags t m
    v.send s p.toNat false x g 1 l 0 false 0

/-- SENDM (R289). -/
def execSendm (p : BitVec 2) (o : Opnd) (t : BitVec 3) (m : BitVec 8) (f : BitVec 3) (s : State) :
    Host.Outcome State Fault Refusal :=
  s.runView 59 2 fun v => v.sendData s p p.toNat true o t m f

/-- STEER (R289). -/
def execSteer (p : BitVec 2) (o : Opnd) (t : BitVec 3) (m : BitVec 8) (f : BitVec 3) (s : State) :
    Host.Outcome State Fault Refusal :=
  s.runView 59 2 fun v => v.sendData s p (if v.pred 1 then p else p ^^^ 1).toNat false o t m f

/-- MERGE (R289). -/
def execMerge (p n : BitVec 2) (t : BitVec 3) (m : BitVec 8) (f : BitVec 3) (s : State) :
    Host.Outcome State Fault Refusal :=
  s.runView 59 2 fun v => v.merge s p n t m f

/-- LOOPC (R290). -/
def execLoopc (p : BitVec 2) (o : Opnd) (t : BitVec 3) (m : BitVec 8) (f : BitVec 3) (s : State) :
    Host.Outcome State Fault Refusal :=
  s.runView 59 2 fun v => v.loopCarry s p o t m f

/-- C.SEND (R64). -/
def execCSend (p : BitVec 2) (y : BitVec 5) (s : State) : Host.Outcome State Fault Refusal :=
  s.runView 59 1 fun v => v.sendData s p p.toNat false (.w y) 0 0 1

/-! ## Activations (R37, R291, R292) -/

/-- The tile and berth at the consumer end of an output port (R291). -/
def State.consumerOf (s : State) (t b p : Nat) : Option (Nat × Nat) :=
  match s.chansFrom t b p with
  | c :: _ =>
    match s.chan c with
    | some x =>
      match x.dst with
      | .berth u d _ => some (u, d)
      | _ => none
    | none => none
  | [] => none

/-- TAGN and FALLOC send a control token to the consumer tile; the firing waits for the reply, `2h + 2` fc later (R291). The token and
its reply are one flit each (R281; log 110). -/
def State.askFrame (s : State) (f : Firing) (d : Opnd) (p : Nat) (g : Option (BitVec 12)) : State :=
  match s.consumerOf s.tile f.berth p with
  | none => s
  | some (u, b) =>
    ((s.setFiring s.tile s.slot { f with wait := .frame d u b p g }).charge s.tile f.cx.toNat 60 (hops s.tile u)).after
      (hops s.tile u + 1) .frameAllocRequest { a := s.tile, b := s.slot }

/-- TAGN (R291). -/
def execTagn (d : Opnd) (p : BitVec 2) (s : State) : Host.Outcome State Fault Refusal :=
  s.runFiring 59 fun t f => .ok (t.askFrame f d p.toNat none)

/-- FALLOC (R291). -/
def execFalloc (d : Opnd) (p : BitVec 2) (b : Opnd) (s : State) : Host.Outcome State Fault Refusal :=
  s.runFiring 59 fun t f => do
    let x ← (t.view f).src b
    .ok (t.askFrame f d p.toNat (some (x.setWidth 12)))

/-- The first tag from `g` on without a frame (R291). -/
def freeTag (fuel : Nat) (t : Tile) (b : Nat) (g : BitVec 12) : BitVec 12 :=
  match fuel with
  | 0 => g
  | n + 1 => if (t.frameOf b g).isNone then g else freeTag n t b (g + 1)

/-- The request of the firing in slot `k` of tile `t` at its consumer tile: the frame is allocated and the reply goes back,
or the firing keeps waiting for space (R37, R291). -/
def State.frameRequest (s : State) (t k : Nat) : State :=
  match s.firing t k with
  | none => s
  | some f =>
    match f.wait with
    | .frame d u b p g =>
      let x := s.tileAt u
      let answer (s : State) (val : W32) (tag : Option (BitVec 12)) : State :=
        ((s.setFiring t k { f with wait := .frameReply d val tag }).charge u f.cx.toNat 60 (hops t u)).after (hops t u + 1)
          .frameAllocReply { a := t, b := k }
      let size := (s.berth u b).frame.toNat
      match g with
      | some tag =>
        if (x.frameOf b tag).isSome then answer s 0 none
        else
          match x.allocFrame (s.tcfg u) b tag size with
          | some y => answer (s.setTile u y) 1 none
          | none => s
      | none =>
        let tag := freeTag 64 x b ((s.run t f.berth).ctr.get 0 p)
        match x.allocFrame (s.tcfg u) b tag size with
        | some y =>
          answer ((s.setTile u y).modRun t f.berth fun r => { r with ctr := r.ctr.set 0 p (tag + 1) }) (tag.setWidth 32)
            (some tag)
        | none => s
    | _ => s

/-- The firing that waits for a frame takes the reply and goes on (R291). -/
def State.frameReply (s : State) (t k : Nat) : State :=
  match s.firing t k with
  | none => s
  | some f =>
    match f.wait with
    | .frameReply d val tag =>
      let v : View := { tile := t, t := s.tileAt t, f := f, c := s.tcfg t, b := s.berth t f.berth }
      match v.put d val with
      | .error e => s.takeFault t k f e
      | .ok v1 =>
        let f1 := { v1.f.advance 2 with wait := .no, tagn := if tag.isSome then tag else v1.f.tagn }
        s.setTile t { v1.t with slots := v1.t.slots.put k f1 }
    | _ => s

/-- FRAME_ALLOC_REQUEST (R291): the request of slot `ev.b` of tile `ev.a` reaches its consumer tile. -/
def execFrameAllocRequest (s : State) : Host.Outcome State Fault Refusal := .next (s.frameRequest s.ev.a s.ev.b)

/-- FRAME_ALLOC_REPLY (R291): the reply reaches slot `ev.b` of tile `ev.a`. -/
def execFrameAllocReply (s : State) : Host.Outcome State Fault Refusal := .next (s.frameReply s.ev.a s.ev.b)

/-- FRAME_SPACE_RESUME (R37): the waiting request of slot `ev.b` of tile `ev.a` is tried again at the consumer tile. -/
def execFrameSpaceResume (s : State) : Host.Outcome State Fault Refusal := .next (s.frameRequest s.ev.a s.ev.b)

/-- The frame of tag `g` of the issuing berth is freed, with its operands (R292). -/
def State.freeFrame (s : State) (t b k : Nat) (g : BitVec 12) (vf : Nat) : State :=
  let here (w : Waiting) : Bool := decide (w.berth = b) && decide (w.tok.itag = g) && decide (w.place ≠ .pool)
  let n := ((s.tileAt t).wait.filter here).length
  ((s.modTile t fun x => { x.dropFrame k with wait := x.wait.filter fun w => !here w }).countDrop vf n).wakeFrames t

/-- FFREE (R292). -/
def execFfree (d a : Opnd) (s : State) : Host.Outcome State Fault Refusal :=
  s.runFiring 59 fun t f => do
    let x ← (t.view f).src a
    let g : BitVec 12 := x.setWidth 12
    let found := (t.tileAt t.tile).frameOf f.berth g
    let v ← (t.view (if found.isSome && decide (g = f.itag) then { f with freeAtEnd := true } else f)).put d
      (if found.isSome then 1 else 0)
    let t1 := t.writeBack { v with f := v.f.advance 2 }
    match found with
    | some k => .ok (if g = f.itag then t1 else t1.freeFrame t.tile f.berth k g f.cx.toNat)
    | none => .ok t1

/-! ## Tasks and permits (R293 to R295, R356) -/

/-- The VA of a scalar address (R222). -/
def View.addr (v : View) (x : W32) : Nat := v.b.wbase.toNat * 2 ^ 32 + x.toNat

/-- TSPAWN (R293, R294): the entry is reserved at issue, the record is read as configuration loads (R307); what follows is in
`contView`. -/
def execTspawn (p : BitVec 3) (a b : Opnd) (s : State) : Host.Outcome State Fault Refusal :=
  s.runFiring 61 fun t f => do
    let v := t.view f
    let x ← v.src a
    let y ← v.src b
    if x.toNat % 64 ≠ 0 then .error (trapVa 0x03 (v.addr x))
    else
      let r := t.reserveTask t.tile f (y.toNat % 512)
      let j : Job := { ops := loadOps .cfg (v.addr x) 128 0, cont := .tspawn p (y.toNat % 512) (v.addr x) r.1 }
      .ok (r.2.startJob t.tile t.slot f j)

/-- The VF that event groups of a cove belong to: the one resident in its partition (R356). -/
def State.coveVf (s : State) (cove : Nat) : Option Nat :=
  if s.covePart cove = agentPart then none else some (s.part (s.covePart cove)).occ

/-- F_PROT with a task entry or event group in TVAL (R356). -/
def trapEntry (x : Nat) : Trap := { code := 0x02, tval := BitVec.ofNat 32 x }

/-- TDEC (R353, R356). -/
def execTdec (a b : Opnd) (s : State) : Host.Outcome State Fault Refusal :=
  s.runFiring 61 fun t f => do
    let v := t.view f
    let x ← v.src a
    let y ← v.src b
    let e := x.toNat % 512
    let n := y.toNat % 256
    let c := t.coveAt (coveOfTile t.tile)
    let ent := c.tasks.get {} e
    let t1 := t.writeBack { v with f := v.f.advance 2 }
    if 2 ≤ ent.state ∧ ent.vf ≠ f.cx.toNat then .error (trapEntry e)
    else if n = 0 then .ok t1
    else
      match c.decrement e n f.pts with
      | some d => .ok ((t1.setCove (coveOfTile t.tile) d).lookTasks (coveOfTile t.tile))
      | none => .error { code := 0x07, tval := underflowVal c e }

/-- The largest ETS of the set bits of a group. -/
def Cove.groupTime (c : Cove) (g : Nat) (val : W32) : Nat :=
  (List.range 32).foldl (fun a i => if val.getLsbD i then Nat.max a (c.ets.get 0 (32 * g + i)) else a) 0

/-- EVSET and EVCLR: the group before the change, and the bits of `b` set or cleared (R354, R356). -/
def State.eventGroup (t : State) (f : Firing) (d a b : Opnd) (set : Bool) : Except Trap State := do
  let v := t.view f
  let x ← v.src a
  let y ← v.src b
  let g := x.toNat % 8
  let cove := coveOfTile t.tile
  let c := t.coveAt cove
  if (match t.coveVf cove with
      | some u => decide (u ≠ f.cx.toNat)
      | none => false) then .error (trapEntry g)
  else
    let old : W32 := c.events.extractLsb' (32 * g) 32
    let v1 ← v.put d old
    let pts := Nat.max f.pts (c.groupTime g old)
    let bits := (List.range 32).filter fun i => y.getLsbD i
    let t1 := t.writeBack { v1 with f := { v1.f.advance 2 with pts := pts } }
    .ok ((t1.modCove cove fun c =>
      bits.foldl (fun e i => if set then e.setEvent (32 * g + i) f.pts else e.clearEvent (32 * g + i)) c).lookTasks cove)

/-- EVSET (R356). -/
def execEvset (d a b : Opnd) (s : State) : Host.Outcome State Fault Refusal :=
  s.runFiring 61 fun t f => t.eventGroup f d a b true

/-- EVCLR (R356). -/
def execEvclr (d a b : Opnd) (s : State) : Host.Outcome State Fault Refusal :=
  s.runFiring 61 fun t f => t.eventGroup f d a b false

/-- A channel of a cove is bound in a role by some berth of the cove's X-tiles (R169, R311). -/
def State.hasRole (s : State) (cove chan : Nat) (storer : Bool) : Bool :=
  let want := chan + (if storer then 8 else 0) + 16
  (upFrom (cove * 64) 64).any fun t => (s.tcfg t).berths.any fun e =>
    (List.range 4).any fun b => decide (e.2.tbind.toNat / 2 ^ (5 * b) % 32 = want)

/-- PERMIT (R295). -/
def execPermit (a b : Opnd) (s : State) : Host.Outcome State Fault Refusal :=
  s.runView 59 2 fun v => do
    let x ← v.src a
    let y ← v.src b
    let chan := x.toNat % 8
    let n := y.toNat % 32
    let cove := coveOfTile v.tile
    if 5 < chan ∨ !s.hasRole cove chan false then .error (trapBounds x)
    else if n = 0 ∨ 16 < n then .error (trapBounds y)
    else .ok (v.stage [.permit cove chan n])

/-! ## Rays and grid requests (R296, R297, R302) -/

/-- The payload of a ray as RAYS stages it; NODE and a default BUDG follow at injection (R298). -/
def rayPay (x : VBits) : VBits :=
  ofLanes fun l =>
    if l = 9 then lane x 9 &&& 0xFFFF00FF
    else if l < 10 then lane x l
    else if l = 14 then 0xFFFFFFFF
    else 0

/-- RAYS (R297). -/
def execRays (p : BitVec 2) (a b : Opnd) (s : State) : Host.Outcome State Fault Refusal :=
  s.runView 59 2 fun v => do
    let x ← v.vec a
    let y ← v.src b
    let v1 ← v.count p.toNat 1
    .ok (v1.stage (((s.chansFrom v.tile v.f.berth p.toNat).take 1).map fun c =>
      Staged.ray c (y.toNat % 4) (rayPay x.bits) v.f.itag v.f.sq))

/-- FGLK (R302). -/
def execFglk (p : BitVec 2) (a b : Opnd) (s : State) : Host.Outcome State Fault Refusal :=
  s.runView 59 2 fun v => do
    let x ← v.vec a
    let y ← v.vec (nextReg a 1)
    let z ← v.vec (nextReg a 2)
    let q ← v.src b
    let xt := q.toNat / 256 % 64
    if kindAt xt ≠ .x then .error (trapBounds q)
    else
      let v1 ← v.count p.toNat 3
      let k : Token := { ctx := v.f.cx, err := v.f.err, itag := v.f.itag, stag := v.f.stag, nflit := 4 }
      let cls0 : BitVec 8 := q.setWidth 8 &&& 0x7F
      let l : List Token :=
        [{ k with cls := cls0, pay := x.bits }, { k with cls := BitVec.ofNat 8 xt, pay := y.bits }, { k with pay := z.bits }]
      .ok (v1.stage (((s.chansFrom v.tile v.f.berth p.toNat).take 1).flatMap fun c => l.map fun t => Staged.token c t))
where
  /-- The v register `n` after one. -/
  nextReg (o : Opnd) (n : BitVec 4) : Opnd :=
    match o with
    | .v i => .v (i + n)
    | _ => o

/-- ISCFG (R296): the descriptor is read as configuration loads (R307); what follows is in `contView` and `afterCont`. -/
def execIscfg (a b : Opnd) (s : State) : Host.Outcome State Fault Refusal :=
  s.runFiring 59 fun t f => do
    let v := t.view f
    let x ← v.src a
    let y ← v.src b
    if x.toNat % 64 ≠ 0 then .error (trapVa 0x03 (v.addr x))
    else
      let j : Job := { ops := loadOps .cfg (v.addr x) 64 0, cont := .iscfg (y.toNat % 4) (v.addr x) }
      let p : ScenePend := { tile := t.tile, slot := t.slot, scene := y.toNat % 4 }
      let t1 := t.modCove (coveOfTile t.tile) fun c => { c with pend := c.pend.put (slotId t.tile t.slot) p }
      .ok (t1.startJob t.tile t.slot f j)

/-- No ray of a scene slot circulates in a cove. -/
def Cove.idle (c : Cove) (scene : Nat) : Bool := c.ring.all fun e => !(e.2.flying && decide (e.2.scene = scene))

/-- The descriptor of a pending ISCFG is written when no ray of its slot circulates; the held rays are injected and the
firing goes on (R296). A ray that leaves the ring lets the pending ISCFGs look again. -/
def State.writeScene (s : State) (t k : Nat) : State :=
  let cove := coveOfTile t
  match (s.coveAt cove).pend.look (slotId t k), s.firing t k with
  | some p, some f =>
    if f.wait = .iscfg ∧ (s.coveAt cove).idle p.scene then
      let s1 := s.modCove cove fun c =>
        { c with scenes := c.scenes.set 0 p.scene p.desc, pend := c.pend.drop (slotId t k) }
      (s1.injectHeld cove p.scene).setFiring t k { f with wait := .no }
    else s
  | _, _ => s

/-- ISCFG_DESCRIPTOR_WRITE (R296): the ISCFG of slot `ev.b` of tile `ev.a`. -/
def execIscfgDescriptorWrite (s : State) : Host.Outcome State Fault Refusal := .next (s.writeScene s.ev.a s.ev.b)

end Sys2Proof.Machine
end

