-- ==== Sys2Proof/Machine/Matrix.lean ====
section
/-! DEFINITION. The matrix tile: tile registers, products, folding, accumulators, sort mode and the issue of owed writes
(R87 to R94, R105 to R108, R168 to R188). -/

namespace Sys2Proof.Machine

/-! ## Tile registers (R87, R88, R105, R106) -/

/-- Row `r` of tile register `n`. -/
def XRegs.row (x : XRegs) (n r : Nat) : VBits := x.t.get 0 (16 * n + r)
/-- `x` with a row written. -/
def XRegs.setRow (x : XRegs) (n r : Nat) (b : VBits) : XRegs := { x with t := x.t.set 0 (16 * n + r) b }
/-- Row `r` of tile register `n` as a matrix instruction reads it: rows above NROW are zero (R106). -/
def XRegs.inUse (x : XRegs) (n r : Nat) : VBits := if r ≤ (x.shape.get 0xFFFF00F0 n).toNat / 16 % 16 then x.row n r else 0
/-- The scale-plane entries of a row. -/
def XRegs.scaleRow (x : XRegs) (n r : Nat) : BitVec 128 := x.scale.get 0 (16 * n + r)
/-- `x` with the scale plane of a row written. -/
def XRegs.setScale (x : XRegs) (n r : Nat) (b : BitVec 128) : XRegs := { x with scale := x.scale.set 0 (16 * n + r) b }
/-- The shape word of a tile register. -/
def XRegs.shapeOf (x : XRegs) (n : Nat) : W32 := x.shape.get 0xFFFF00F0 n
/-- `x` with a shape word written. -/
def XRegs.setShape (x : XRegs) (n : Nat) (w : W32) : XRegs := { x with shape := x.shape.set 0xFFFF00F0 n w }
/-- The row error flags of a tile register. -/
def XRegs.errOf (x : XRegs) (n : Nat) : BitVec 16 := x.rowErr.get 0 n
/-- `x` with row error flags written. -/
def XRegs.setErr (x : XRegs) (n : Nat) (e : BitVec 16) : XRegs := { x with rowErr := x.rowErr.set 0 n e }

/-- FMT of a shape word. -/
def shapeFmt (w : W32) : Nat := w.toNat % 8
/-- NROW. -/
def shapeRows (w : W32) : Nat := w.toNat / 16 % 16
/-- HAARL and AXIS as a tag. -/
def shapeTag (w : W32) : BitVec 6 := (w.extractLsb' 8 3).setWidth 6 <<< 3 ||| (w.extractLsb' 11 3).setWidth 6
/-- SURV. -/
def shapeSurv (w : W32) : BitVec 16 := w.extractLsb' 16 16
/-- A shape word from its fields. -/
def mkShape (fmt rows : Nat) (tag : BitVec 6) (surv : BitVec 16) : W32 :=
  BitVec.ofNat 32 (fmt % 8 + rows % 16 * 16 + tag.toNat / 8 * 256 + tag.toNat % 8 * 2048 + surv.toNat * 65536)

/-- Row `m` of a tile register is in use and survives (R174). -/
def XRegs.valid (x : XRegs) (n m : Nat) : Bool :=
  decide (m ≤ shapeRows (x.shapeOf n)) && (shapeSurv (x.shapeOf n)).getLsbD m

/-- A row is valid and not in error. -/
def XRegs.good (x : XRegs) (n m : Nat) : Bool := x.valid n m && !(x.errOf n).getLsbD m

/-- A tile register whose rows, scale plane, shape and flags are those of a tile (R170). -/
def XRegs.putTile (x : XRegs) (n : Nat) (t : MTile) : XRegs :=
  let y := (List.range 16).foldl (fun a r => (a.setRow n r (t.rows.get 0 r)).setScale n r (t.scale.get 0 r)) x
  (y.setShape n t.shape).setErr n t.errf

/-! ## Accumulators (R105, R108, R181) -/

/-- The rows of an accumulator. -/
def XRegs.accRows (x : XRegs) (k : Nat) : List VBits := (List.range 16).map fun m => x.acc.get 0 (16 * k + m)
/-- `x` with an accumulator's rows written. -/
def XRegs.setAcc (x : XRegs) (k : Nat) (l : List VBits) : XRegs :=
  { x with acc := (enumFrom 0 l).foldl (fun a e => a.set 0 (16 * k + e.1) e.2) x.acc }
/-- The descriptor of an accumulator. -/
def XRegs.descOf (x : XRegs) (k : Nat) : W32 := x.adesc.get 0 k
/-- `x` with a descriptor written. -/
def XRegs.setDesc (x : XRegs) (k : Nat) (w : W32) : XRegs := { x with adesc := x.adesc.set 0 k w }
/-- RTAG. -/
def descRtag (w : W32) : BitVec 6 := w.setWidth 6
/-- CTAG. -/
def descCtag (w : W32) : BitVec 6 := w.extractLsb' 6 6
/-- ERRF. -/
def descErr (w : W32) : BitVec 16 := w.extractLsb' 16 16
/-- A descriptor from its fields. -/
def mkDesc (rt ct : BitVec 6) (e : BitVec 16) : W32 := rt.setWidth 32 ||| (ct.setWidth 32 <<< 6) ||| (e.setWidth 32 <<< 16)

/-- A matrix cell. -/
def cellOf (l : List VBits) (m n : Nat) : W32 := lane (l.getD m 0) n

/-- Rows and columns exchanged. -/
def transpose (l : List VBits) : List VBits := (List.range 16).map fun n => ofLanes fun m => cellOf l m n

/-- The inverse transform along the columns of each row (R181 step 2). -/
def reconCols (l : List VBits) (tag : BitVec 6) : List VBits :=
  if tagLevel tag = 0 then l else l.map fun r => (reconstruct r tag).1

/-- recon of R181. -/
def recon (l : List VBits) (rt ct : BitVec 6) : List VBits :=
  let a := if tagLevel rt = 0 then l else transpose ((transpose l).map fun r => (reconstruct r rt).1)
  reconCols a ct

/-- Every row of a segment that holds a row in error is in error (R181 step 5). -/
def spreadErr (e : BitVec 16) (tag : BitVec 6) : BitVec 16 :=
  let n := 2 ^ tagLevel tag
  BitVec.ofNat 16 ((List.range 16).foldl (fun a m =>
    if (List.range n).any (fun i => e.getLsbD (m / n * n + i)) then a + 2 ^ m else a) 0)

/-- What an instruction adds to the cells of an accumulator: the new cells, rows in error, flags. -/
abbrev Contribution := List VBits → List VBits × BitVec 16 × Flags

/-- A cell rule applied to every cell, in row order. -/
def onCells (g : Nat → Nat → W32 → W32 × Flags) (l : List VBits) : List VBits × Flags :=
  let rs := (enumFrom 0 l).map fun e =>
    let cs := (List.range 16).map fun n => g e.1 n (lane e.2 n)
    (ofLaneList (cs.map fun c => c.1), orFlags cs)
  (rs.map fun r => r.1, orFlags rs)

/-- A view with its tile's registers changed. -/
def View.setX (v : View) (x : XRegs) : View := { v with t := { v.t with x := x } }

/-- Charges added to an instruction. -/
def View.pay (v : View) (c n : Nat) : View := if n = 0 then v else { v with extra := v.extra ++ [(c, n)] }

/-- The procedure of R181: contribution `c` with incoming tags `ra` and `cb` into accumulator `k`. -/
def View.accumulate (v : View) (k : Nat) (ra cb : BitVec 6) (c : Contribution) : View :=
  let x := v.t.x
  let a := x.accRows k
  let d := x.descOf k
  let rt := descRtag d
  let ct := descCtag d
  if a.all (fun r => decide (r = 0)) ∨ (rt = ra ∧ ct = cb) then
    let r := c a
    (v.setX ((x.setAcc k r.1).setDesc k (mkDesc ra cb (descErr d ||| r.2.1)))).flag r.2.2
  else
    let z := c (List.replicate 16 0)
    let a2 := recon a rt ct
    let z2 := recon z.1 ra cb
    let s := onCells (fun m n w => addF w (cellOf z2 m n)) a2
    let e := spreadErr (descErr d) rt ||| spreadErr z.2.1 ra
    let v1 := (v.setX ((x.setAcc k s.1).setDesc k (mkDesc 0 0 e))).flag (z.2.2 ||| s.2)
    v1.pay 28 (tagLevel rt + tagLevel ct + tagLevel ra + tagLevel cb)

/-! ## Issue on an X-tile (R168, R170) -/

/-- A register of the matrix tile: a tile register or an accumulator, in which an owed write can land, or a plane. -/
inductive XReg where
  | t (n : Nat)
  | a (k : Nat)
  | ps (p : Nat)
  deriving DecidableEq, Repr

/-- The register that an owed write lands in. -/
def owedTarget (o : Owed) : XReg :=
  match o.reg with
  | .tile n => .t n
  | .acc k => .a k
  | .feat n _ => .t n

/-- A register with a write still owed to it. -/
def Tile.owes (x : Tile) (r : XReg) : Bool := x.owed.any fun o => decide ((owedTarget o) = r)

/-- The number of a register in R188's TVAL. -/
def XReg.ecc (r : XReg) : Nat :=
  match r with
  | .t n => eccReg 0 n
  | .ps p => eccReg 1 p
  | .a k => eccReg 2 k

/-- The F_ECC of the first of the registers `rd` that holds an uncorrectable soft error (R188). -/
def Tile.eccTrap (x : Tile) (rd : List XReg) : Option Trap :=
  (rd.find? fun r => x.damaged r.ecc 1).map fun r => { code := 0x0D, tval := BitVec.ofNat 32 r.ecc }

/-- A matrix instruction that reads or writes registers `rs`, and reads `rd` of them or of the planes. It does not issue while
a write to one of them is owed (R168, R170), and one that reads a soft error is F_ECC (R188). -/
def State.runX (s : State) (cls : Nat) (rs rd : List XReg) (g : View → Except Trap View) :
    Host.Outcome State Fault Refusal :=
  match s.firing s.tile s.slot with
  | none => .refused .noFiring
  | some f =>
    if rs.any fun r => (s.tileAt s.tile).owes r then .next (s.setFiring s.tile s.slot { f with wait := .owed })
    else
      match (s.tileAt s.tile).eccTrap rd with
      | some e => s.runView cls 2 fun _ => .error e
      | none => s.runView cls 2 g

/-- The BTE channel of binding `b` of a berth (R311). -/
def bindChan (r : BerthRec) (b : Nat) : Nat := r.tbind.toNat / 2 ^ (5 * b) % 8

/-- The G-tile of grid binding `g` of a berth on tile `t` (R311). -/
def bindGrid (r : BerthRec) (t g : Nat) : Nat := tileOfCove (coveOfTile t) (r.gbind.toNat / 2 ^ (7 * g) % 64)

/-- The tiles of a load walk or Haar walk that have been delivered: those fetched that are no longer in the output buffer. Tiles that an
earlier walk left there stand before them. -/
def MUnit.delivered (u : MUnit) (c : BteCmd) : Nat := c.pos - u.outbuf.length

/-- A tile has left the output buffer: the mark of its pass and the completion actions of its walk follow (R244, R394). -/
def State.tileLeft (s : State) (m : Nat) : State :=
  match (s.tileAt m).mu.run with
  | none => s
  | some c =>
    if tmplKind c.tmpl = .loadWalk ∨ tmplKind c.tmpl = .haarWalk then
      let s1 := if (tmplMark c.tmpl).isSome then s.after 1 .btePassMark { a := m } else s
      if (s.tileAt m).mu.delivered c = walkTiles c.tmpl then s1.after 1 .bteCommandComplete { a := m } else s1
    else s

/-- Tiles waiting in the output buffer of a channel's walker go to the oldest owed writes that have none yet, those of one fc by lower
tile (R170; log 109). -/
def State.matchOwed (fuel : Nat) (s : State) (m : Nat) : State :=
  match fuel with
  | 0 => s
  | n + 1 =>
    match (s.tileAt m).mu.outbuf with
    | [] => s
    | d :: rest =>
      let want (o : Owed) : Bool :=
        o.data.isNone && decide (chanTile o.cove o.chan = m) && (match o.reg with
          | .feat _ _ => false
          | _ => true)
      let first (t : Nat) : Option Nat := ((s.tileAt t).owed.find? want).map fun o => o.since
      let oldest := (upFrom (coveOfTile m * 64) 64).foldl (fun (a : Option (Nat × Nat)) t => match a, first t with
        | some b, some n => if n < b.1 then some (n, t) else some b
        | none, some n => some (n, t)
        | _, none => a) none
      match oldest.map fun e => e.2 with
      | none => s
      | some t =>
        let give (l : List Owed) : List Owed :=
          let i := l.findIdx want
          (enumFrom 0 l).map fun e => if e.1 = i then { e.2 with data := some d } else e.2
        let s1 := s.modTile t fun x => { x with owed := give x.owed }
        let s2 := (s1.modMu m fun u => { u with outbuf := rest }).tileLeft m
        State.matchOwed n ((s2.after 1 .owedWriteLanding { a := t }).after 1 .loadWalkTile { a := m }) m

/-- Permits added to a channel; those past 64 are dropped and counted (R295). -/
def State.addPermits (s : State) (m cx n : Nat) : State :=
  let total := (s.tileAt m).mu.permits + n
  let s1 := s.modMu m fun u => { u with permits := Nat.min 64 total }
  (if 64 < total then s1.countDrop cx (total - 64) else s1).after 1 .loadWalkTile { a := m }

/-- A write owed by the walker of a loader binding (R170). -/
def State.oweWalk (s : State) (reg : OwedReg) (b : Nat) : Host.Outcome State Fault Refusal :=
  s.runFiring 30 fun t f =>
    let chan := bindChan (t.berth t.tile f.berth) b
    let o : Owed := { reg := reg, cove := coveOfTile t.tile, chan := chan, cx := f.cx.toNat, since := t.now }
    let m := chanTile (coveOfTile t.tile) chan
    let t1 := (t.setFiring t.tile t.slot (f.advance 2)).modTile t.tile fun x => { x with owed := x.owed ++ [o] }
    .ok (State.matchOwed 3 (t1.addPermits m f.cx.toNat 1) m)

/-! ## Shape, loads, stores, transposes (R171 to R173) -/

/-- MSHP (R171). -/
def execMshp (n : BitVec 4) (x h : BitVec 3) (r : BitVec 4) (f : BitVec 3) (s : State) :
    Host.Outcome State Fault Refusal :=
  s.runX 29 [.t n.toNat] [] fun v =>
    let w := v.t.x.shapeOf n.toNat
    .ok (v.setX (v.t.x.setShape n.toNat (mkShape f.toNat r.toNat (BitVec.ofNat 6 (h.toNat * 8 + x.toNat)) (shapeSurv w))))

/-- TLD (R170, R171). -/
def execTld (n : BitVec 4) (b : BitVec 2) (s : State) : Host.Outcome State Fault Refusal :=
  s.oweWalk (.tile n.toNat) b.toNat

/-- A TST on binding `b`: it waits while the store-walk buffer is full, and else hands over the tile that `g` forms (R172,
R247). -/
def State.storeTile (s : State) (b : Nat) (rs : List XReg) (g : View → View × MTile) :
    Host.Outcome State Fault Refusal :=
  match s.firing s.tile s.slot with
  | none => .refused .noFiring
  | some f =>
    let m := chanTile (coveOfTile s.tile) (bindChan (s.berth s.tile f.berth) b)
    if rs.any fun r => (s.tileAt s.tile).owes r then .next (s.setFiring s.tile s.slot { f with wait := .owed })
    else if 2 ≤ (s.tileAt m).mu.storebuf.length then .next (s.setFiring s.tile s.slot { f with wait := .storeBuffer })
    else
      s.runFiring 31 fun t f =>
        match (t.tileAt t.tile).eccTrap rs with
        | some e => .error e
        | none =>
          let r := g (t.view f)
          let t1 := t.writeBack { r.1 with f := r.1.f.advance 2 }
          .ok ((t1.modMu m fun u => { u with storebuf := u.storebuf ++ [r.2] }).after 1 .storeWalkTile { a := m })

/-- TST, tile form (R172). Rows above NROW are sent as zero, since every matrix instruction reads them so (R106).
Their scale-plane entries are sent as zero too, which neither R106 nor R172 says (log 118). -/
def execTstTile (n : BitVec 4) (b : BitVec 2) (s : State) : Host.Outcome State Fault Refusal :=
  s.storeTile b.toNat [.t n.toNat] fun v =>
    let x := v.t.x
    let k := n.toNat
    (v, { rows := (List.range 16).foldl (fun a r => a.set 0 r (x.inUse k r)) []
          scale := (List.range 16).foldl (fun a r => a.set 0 r (if r ≤ shapeRows (x.shapeOf k) then x.scaleRow k r else 0)) []
          shape := x.shapeOf k, errf := x.errOf k })

/-- The lanes of a Q row from the elements of its blocks, each a sign and magnitude of `1 + F` bits (R87). -/
def qLanes (fmt : Nat) (els : List Nat) : Nat :=
  let fb := qBits fmt
  let w := if fmt = 0 then 4 else 8
  els.foldr (fun x a => (x % 2 ^ fb + x / 2 ^ fb % 2 * 2 ^ (w - 1)) + 2 ^ w * a) 0

/-- The elements of an encoded block. -/
def qElems (fmt blk : Nat) : List Nat :=
  let n := 1 + qBits fmt
  (List.range 16).map fun j => blk / 65536 / 2 ^ (n * j) % 2 ^ n

/-- One accumulator row as a Q row of one block; a row with a NaN or in error is the error block (R172). -/
def accQRow (fmt : Nat) (r : VBits) (bad : Bool) : VBits × BitVec 128 × Flags :=
  let q := qEncode fmt (laneList r)
  if bad || (laneList r).any isNanF then (0, 255, 0)
  else (BitVec.ofNat 512 (qLanes fmt (qElems fmt q.1)), BitVec.ofNat 128 (q.1 % 65536), q.2)

/-- TST, accumulator form (R172). -/
def execTstAcc (k f : BitVec 3) (b : BitVec 2) (s : State) : Host.Outcome State Fault Refusal :=
  s.storeTile b.toNat [.a k.toNat] fun v =>
    let x := v.t.x
    let d := x.descOf k.toNat
    let rows := reconCols (x.accRows k.toNat) (descCtag d)
    let v1 := v.pay 28 (tagLevel (descCtag d))
    let shape := mkShape f.toNat 15 (descRtag d) 0xFFFF
    if f = 3 then
      (v1, { rows := (enumFrom 0 rows).foldl (fun a e => a.set 0 e.1 e.2) [], shape := shape, errf := descErr d, f32 := true })
    else
      let qs := (enumFrom 0 rows).map fun e => accQRow f.toNat e.2 ((descErr d).getLsbD e.1)
      (v1.flag (qs.foldl (fun a q => a ||| q.2.2) 0),
        { rows := (enumFrom 0 qs).foldl (fun a e => a.set 0 e.1 e.2.1) []
          scale := (enumFrom 0 qs).foldl (fun a e => a.set 0 e.1 e.2.2.1) []
          shape := shape, errf := descErr d, one := true })

/-- TZERO (R171). -/
def execTzero (n : BitVec 4) (s : State) : Host.Outcome State Fault Refusal :=
  s.runX 29 [.t n.toNat] [] fun v =>
    let x := v.t.x
    let k := n.toNat
    let y := (List.range 16).foldl (fun a r => (a.setRow k r 0).setScale k r 0) x
    .ok (v.setX ((y.setShape k (x.shapeOf k ||| 0xFFFF0000)).setErr k 0))

/-- A row with `n`-bit element `i` replaced by those of `g`, for the elements `lo` to `lo + 15`. -/
def putElems (n lo : Nat) (row : VBits) (g : Nat → Nat) : VBits :=
  let keep := row.toNat
  let new := (List.range 16).foldr (fun r a => g r % 2 ^ n + 2 ^ n * a) 0
  let old := keep / 2 ^ (n * lo) % 2 ^ (16 * n)
  BitVec.ofNat 512 (keep - old * 2 ^ (n * lo) + new * 2 ^ (n * lo))

/-- TTR (R173). `y` is dst and `w` src. -/
def execTtr (a d : BitVec 4) (y w : BitVec 2) (s : State) : Host.Outcome State Fault Refusal :=
  s.runX 32 [.t a.toNat, .t d.toNat] [.t a.toNat] fun v =>
    let x := v.t.x
    let sh := x.shapeOf a.toNat
    let row (r : Nat) : Nat := if r ≤ shapeRows sh then (x.row a.toNat r).toNat else 0
    let wide := decide (shapeFmt sh = 4) || decide (shapeFmt sh = 5)
    let n := if wide then 16 else 8
    let si := if wide then 16 * (w.toNat % 2) else 16 * w.toNat
    let di := if wide then 16 * (y.toNat % 2) else 16 * y.toNat
    if shapeTag sh ≠ 0 then .error (trapDomain (shapeTag sh))
    else
      let z := (List.range 16).foldl (fun b i =>
        b.setRow d.toNat i (putElems n di (x.row d.toNat i) fun r => row r / 2 ^ (n * (si + i)) % 2 ^ n)) x
      let z1 := z.setShape d.toNat ((x.shapeOf d.toNat &&& 0xFFFFFFF8) ||| BitVec.ofNat 32 (shapeFmt sh))
      let z2 := if shapeFmt sh ≤ 2 then (List.range 16).foldl (fun b r => b.setScale d.toNat r 0) z1 else z1
      .ok (v.setX z2)

/-- MSKR (R171). -/
def execMskr (n m : BitVec 4) (f : BitVec 2) (s : State) : Host.Outcome State Fault Refusal :=
  s.runX 29 (if f = 0 then [.t n.toNat] else [.t n.toNat, .t m.toNat]) [] fun v =>
    let x := v.t.x
    let w := x.shapeOf n.toNat
    let sm := shapeSurv (x.shapeOf m.toNat)
    let surv : BitVec 16 := if f = 0 then 0xFFFF else if f = 1 then sm else shapeSurv w &&& sm
    .ok (v.setX (x.setShape n.toNat ((w &&& 0xFFFF) ||| (surv.setWidth 32 <<< 16))))

/-! ## Products (R174 to R178) -/

/-- Sign and magnitude of Q element `j` of a row (R87). -/
def qElem (fmt : Nat) (row j : Nat) : Int :=
  if fmt = 0 then
    let x := row / 2 ^ (4 * j) % 16
    if 8 ≤ x then -((x % 4 : Nat) : Int) else ((x % 4 : Nat) : Int)
  else
    let x := row / 2 ^ (8 * j) % 256
    let m := if fmt = 1 then x % 16 else x % 128
    if 128 ≤ x then -(m : Int) else (m : Int)

/-- The exponent of block `b` of a row's scale plane; entries past a format's own read as zero (R88). -/
def scaleExp (fmt : Nat) (p : BitVec 128) (b : Nat) : Nat := if fmt ≠ 0 ∧ 4 ≤ b then 0 else p.toNat / 2 ^ (16 * b) % 256

/-- The micro-exponent of element `j`'s pair (R88). -/
def scaleMu (p : BitVec 128) (b j : Nat) : Nat := p.toNat / 2 ^ (16 * b + 8 + j % 16 / 2) % 2

/-- The sum of R89 over block `b` of two rows. -/
def blockSum (fa fb : Nat) (ra rb : Nat) (pa pb : BitVec 128) (b : Nat) : Int :=
  if scaleExp fa pa b = 0 ∨ scaleExp fb pb b = 0 then 0
  else
    (List.range 16).foldl (fun s i =>
      let j := 16 * b + i
      s + qElem fa ra j * qElem fb rb j * 2 ^ (2 - scaleMu pa b j - scaleMu pb b j)) 0

/-- A cell of a product: in error, live, or neither (R174). -/
def XRegs.cellErr (x : XRegs) (a b m n : Nat) : Bool :=
  x.valid a m && x.valid b n && ((x.errOf a).getLsbD m || (x.errOf b).getLsbD n)

/-- A live cell. -/
def XRegs.cellLive (x : XRegs) (a b m n : Nat) : Bool := x.good a m && x.good b n

/-- The live cells of a product. -/
def XRegs.liveCells (x : XRegs) (a b : Nat) : Nat :=
  ((List.range 16).filter (x.good a)).length * ((List.range 16).filter (x.good b)).length

/-- The rows of a partial-sum plane from a rule for live cells, with sentinels where cells are in error (R175, R176). -/
def XRegs.planeRows (x : XRegs) (a b : Nat) (g : Nat → Nat → Int) : List VBits :=
  (List.range 16).map fun m => ofLanes fun n =>
    if x.cellErr a b m n then 0x80000000
    else if x.cellLive a b m n then BitVec.ofInt 32 (g m n)
    else 0

/-- A partial-sum plane written. -/
def XRegs.setPlane (x : XRegs) (p : Nat) (l : List VBits) : XRegs :=
  { x with ps := (enumFrom 0 l).foldl (fun a e => a.set 0 (16 * p + e.1) e.2) x.ps }

/-- The scale side of block `b`: the exponents of the rows that are valid and not in error (R175). -/
def XRegs.side (x : XRegs) (n fmt b : Nat) : BitVec 128 :=
  BitVec.ofNat 128 ((List.range 16).foldr (fun r a =>
    (if x.good n r then scaleExp fmt (x.scaleRow n r) b else 0) + 256 * a) 0)

/-- MMQ2, MMQ4 and MMQ7 with formats `fa` and `fb` over `nb` blocks (R175, R178). -/
def View.mmq (v : View) (a b fa fb nb cls : Nat) : View :=
  let x := v.t.x
  let y := (List.range nb).foldl (fun z p =>
    let z1 := z.setPlane p (x.planeRows a b fun m n =>
      blockSum fa fb (x.row a m).toNat (x.row b n).toNat (x.scaleRow a m) (x.scaleRow b n) p)
    { z1 with sideA := z1.sideA.set 0 p (x.side a fa p), sideB := z1.sideB.set 0 p (x.side b fb p) }) x
  let pl : W32 := BitVec.ofNat 32 ((if nb = 8 then 0xFF else 0x0F) + 0x100 + fa * 2 ^ 10 + fb * 2 ^ 12)
  (v.setX { y with plane := pl }).pay cls (x.liveCells a b)

/-- The format of B that MMQ4 and MMQ7 read: 1 for Q4, 2 for Q7 (R174). -/
def XRegs.fmtB (x : XRegs) (b : Nat) : Nat := if shapeFmt (x.shapeOf b) = 1 then 1 else 2

/-- MMQ2 (R175). -/
def execMmq2 (a b : BitVec 4) (_k : BitVec 3) (s : State) : Host.Outcome State Fault Refusal :=
  s.runX 33 [.t a.toNat, .t b.toNat] [.t a.toNat, .t b.toNat] fun v => .ok (v.mmq a.toNat b.toNat 0 0 8 34)

/-- MMQ4 (R175). -/
def execMmq4 (a b : BitVec 4) (_k : BitVec 3) (s : State) : Host.Outcome State Fault Refusal :=
  s.runX 33 [.t a.toNat, .t b.toNat] [.t a.toNat, .t b.toNat] fun v =>
    let fb := v.t.x.fmtB b.toNat
    .ok (v.mmq a.toNat b.toNat 1 fb 4 (if fb = 1 then 35 else 36))

/-- MMQ7 (R175). -/
def execMmq7 (a b : BitVec 4) (_k : BitVec 3) (s : State) : Host.Outcome State Fault Refusal :=
  s.runX 33 [.t a.toNat, .t b.toNat] [.t a.toNat, .t b.toNat] fun v => .ok (v.mmq a.toNat b.toNat 2 (v.t.x.fmtB b.toNat) 4 36)

/-- The dot product of two S8 rows (R93). -/
def dotS8 (ra rb : VBits) : Int :=
  (List.range 64).foldl (fun s j => s + (ra.extractLsb' (8 * j) 8).toInt * (rb.extractLsb' (8 * j) 8).toInt) 0

/-- MMI8 (R176). -/
def execMmi8 (a b : BitVec 4) (_k : BitVec 3) (s : State) : Host.Outcome State Fault Refusal :=
  s.runX 33 [.t a.toNat, .t b.toNat] [.t a.toNat, .t b.toNat] fun v =>
    let x := v.t.x
    let y := x.setPlane 0 (x.planeRows a.toNat b.toNat fun m n => dotS8 (x.row a.toNat m) (x.row b.toNat n))
    .ok ((v.setX { y with plane := (x.plane &&& 0xFFFFFC00) ||| 0x201 }).pay 37 (x.liveCells a.toNat b.toNat))

/-- rne32 of the exact sum of R92 with its flags, or none where the sum is zero. -/
def dotHalf (f : Fmt) (ra rb : VBits) : Option (W32 × Flags) :=
  let ps := (List.range 32).map fun k =>
    (unpack f (ra.extractLsb' (16 * k) 16).toNat).mul (unpack f (rb.extractLsb' (16 * k) 16).toNat)
  let l := ps.map fun p => p.1
  let fl := orFlags ps
  let finite := l.all fun t => match t with
    | .fin _ _ _ => true
    | _ => false
  if finite && decide (exactSum l (leastExp l 0) = 0) then none
  else
    let r := sumTerms f32 0 l
    some (BitVec.ofNat 32 r.1, fl ||| r.2)

/-- The rows of A whose products are in error (R177). -/
def XRegs.errRows (x : XRegs) (a b : Nat) : BitVec 16 :=
  BitVec.ofNat 16 ((List.range 16).foldl (fun s m =>
    if (List.range 16).any (x.cellErr a b m) then s + 2 ^ m else s) 0)

/-- MMH and MMB in format `f` (R177). -/
def View.mmh (v : View) (f : Fmt) (a b k cls : Nat) : View :=
  let x := v.t.x
  let c : Contribution := fun l =>
    let r := onCells (fun m n w =>
      if x.cellLive a b m n then
        match dotHalf f (x.row a m) (x.row b n) with
        | none => (w, 0)
        | some p =>
          let q := addF w p.1
          (q.1, p.2 ||| q.2)
      else (w, 0)) l
    (r.1, x.errRows a b, r.2)
  (v.accumulate k (shapeTag (x.shapeOf a)) (shapeTag (x.shapeOf b)) c).pay cls (x.liveCells a b)

/-- MMH (R177). -/
def execMmh (a b : BitVec 4) (k : BitVec 3) (s : State) : Host.Outcome State Fault Refusal :=
  s.runX 33 [.t a.toNat, .t b.toNat, .a k.toNat] [.t a.toNat, .t b.toNat, .a k.toNat] fun v => .ok (v.mmh h16 a.toNat b.toNat k.toNat 38)

/-- MMB (R177). -/
def execMmb (a b : BitVec 4) (k : BitVec 3) (s : State) : Host.Outcome State Fault Refusal :=
  s.runX 33 [.t a.toNat, .t b.toNat, .a k.toNat] [.t a.toNat, .t b.toNat, .a k.toNat] fun v => .ok (v.mmh b16 a.toNat b.toNat k.toNat 39)

/-! ## Folding (R179, R180) -/

/-- The magnitude bits of a format code of FA or FB (R107). -/
def planeBits (c : Nat) : Nat := if c = 0 then 2 else if c = 1 then 4 else 7

/-- An integer times a power of two, rounded to F32. -/
def scaleInt (n : Int) (e : Int) : W32 × Flags :=
  let r := roundFin f32 0 (decide (n < 0)) n.natAbs e
  (BitVec.ofNat 32 r.1, r.2)

/-- The rows of a plane that hold a sentinel. -/
def XRegs.sentinels (x : XRegs) (p : Nat) : BitVec 16 :=
  BitVec.ofNat 16 ((List.range 16).foldl (fun a m =>
    if (List.range 16).any (fun n => decide (lane (x.ps.get 0 (16 * p + m)) n = 0x80000000)) then a + 2 ^ m else a) 0)

/-- One plane folded into the cells (R90, R179). -/
def XRegs.foldPlane (x : XRegs) (p : Nat) : Contribution := fun l =>
  let bits := planeBits (x.plane.toNat / 2 ^ 10 % 4) + planeBits (x.plane.toNat / 2 ^ 12 % 4)
  let r := onCells (fun m n w =>
    let q := lane (x.ps.get 0 (16 * p + m)) n
    let ea := (x.sideA.get 0 p).toNat / 2 ^ (8 * m) % 256
    let eb := (x.sideB.get 0 p).toNat / 2 ^ (8 * n) % 256
    if q = 0x80000000 ∨ ea = 0 ∨ eb = 0 ∨ q = 0 then (w, 0)
    else
      let t := scaleInt q.toInt ((ea : Int) + eb - 254 - 2 - bits)
      let a := addF w t.1
      (a.1, t.2 ||| a.2)) l
  (r.1, x.sentinels p, r.2)

/-- Contributions one after the other. -/
def seqContrib (l : List Contribution) : Contribution := fun cells =>
  l.foldl (fun a c =>
    let r := c a.1
    (r.1, a.2.1 ||| r.2.1, a.2.2 ||| r.2.2)) (cells, 0, 0)

/-- FILL and SRC cleared (R179, R180). -/
def XRegs.unfill (x : XRegs) : XRegs := { x with plane := x.plane &&& 0xFFFFFC00 }

/-- SCA (R179). -/
def execSca (a b : BitVec 4) (k : BitVec 3) (s : State) : Host.Outcome State Fault Refusal :=
  let w := (s.tileAt s.tile).x.plane
  let rd : List XReg := if w.toNat / 256 % 4 ≠ 1 then []
    else .a k.toNat :: ((List.range 8).filter fun p => w.getLsbD p).map XReg.ps
  s.runX 0 [.t a.toNat, .t b.toNat, .a k.toNat] rd fun v =>
    let x := v.t.x
    if x.plane.toNat / 256 % 4 ≠ 1 then .ok (v.pay 33 1)
    else
      let ps := (List.range 8).filter fun p => x.plane.getLsbD p
      let v1 := v.accumulate k.toNat (shapeTag (x.shapeOf a.toNat)) (shapeTag (x.shapeOf b.toNat))
        (seqContrib (ps.map x.foldPlane))
      .ok ((v1.setX v1.t.x.unfill).pay 40 ps.length)

/-- The rule of R94 on a cell. -/
def scaleCell (w r c : W32) (p : W32) : W32 × Flags :=
  let t0 := scaleInt p.toInt 0
  let t1 := mulF t0.1 r
  let t2 := mulF t1.1 c
  let fl := t0.2 ||| t1.2 ||| t2.2
  if isZeroF t2.1 then (w, fl)
  else
    let a := addF w t2.1
    (a.1, fl ||| a.2)

/-- SCAI (R180). It folds ps0 only while its FILL bit is set (R107). -/
def execScai (a b : BitVec 4) (k : BitVec 3) (j i : BitVec 4) (s : State) : Host.Outcome State Fault Refusal :=
  let w := (s.tileAt s.tile).x.plane
  let rd : List XReg := if w.toNat / 256 % 4 ≠ 2 then []
    else [.t a.toNat, .t b.toNat, .a k.toNat] ++ (if w.getLsbD 0 then [.ps 0] else [])
  s.runX 0 [.t a.toNat, .t b.toNat, .a k.toNat] rd fun v =>
    let x := v.t.x
    if x.plane.toNat / 256 % 4 ≠ 2 then .ok (v.pay 33 1)
    else
      let r := x.inUse a.toNat i.toNat
      let c := x.inUse b.toNat j.toNat
      let con : Contribution := fun l =>
        let q := onCells (fun m n w =>
          let p := lane (x.ps.get 0 m) n
          if p = 0x80000000 then (w, 0) else scaleCell w (lane r m) (lane c n) p) l
        (q.1, x.sentinels 0, q.2)
      let cons := if x.plane.getLsbD 0 then [con] else []
      let v1 := v.accumulate k.toNat (shapeTag (x.shapeOf a.toNat)) (shapeTag (x.shapeOf b.toNat)) (seqContrib cons)
      .ok ((v1.setX v1.t.x.unfill).pay 41 1)

/-! ## Accumulators (R182 to R184) -/

/-- An accumulator cleared (R182). -/
def XRegs.clearAcc (x : XRegs) (k : Nat) : XRegs := (x.setAcc k (List.replicate 16 0)).setDesc k 0

/-- The sort state as a chart leaves it at start (R185). -/
def XRegs.resetSort (x : XRegs) : XRegs := { x with sort := 0x00000FF0, next := 0, sortKeys := [] }

/-- ACLR (R182). -/
def execAclr (k : BitVec 3) (l : BitVec 1) (s : State) : Host.Outcome State Fault Refusal :=
  if l = 1 then
    s.runX 29 [.a 0, .a 1, .a 2, .a 3] [] fun v =>
      .ok (v.setX (((((v.t.x.clearAcc 0).clearAcc 1).clearAcc 2).clearAcc 3).resetSort))
  else s.runX 29 [.a k.toNat] [] fun v => .ok (v.setX (v.t.x.clearAcc k.toNat))

/-- AJOIN (R182). -/
def execAjoin (k : BitVec 3) (n : BitVec 2) (s : State) : Host.Outcome State Fault Refusal :=
  s.runX 42 [.a k.toNat, .a n.toNat] [.a k.toNat, .a n.toNat] fun v =>
    let x := v.t.x
    let src := x.accRows n.toNat
    let d := x.descOf n.toNat
    let con : Contribution := fun l => ((onCells (fun m c w => addF w (cellOf src m c)) l).1, descErr d, 0)
    let v1 := v.accumulate k.toNat (descRtag d) (descCtag d) con
    .ok { v1 with t := { v1.t with astat := v.t.astat } }

/-- ACPY (R182). -/
def execAcpy (k : BitVec 3) (n : BitVec 2) (s : State) : Host.Outcome State Fault Refusal :=
  s.runX 29 [.a k.toNat, .a n.toNat] [.a n.toNat] fun v =>
    let x := v.t.x
    .ok (v.setX ((x.setAcc k.toNat (x.accRows n.toNat)).setDesc k.toNat (x.descOf n.toNat)))

/-- AOUT (R183). -/
def execAout (n : BitVec 4) (k : BitVec 3) (h f : BitVec 1) (s : State) : Host.Outcome State Fault Refusal :=
  s.runX 43 [.t n.toNat, .a k.toNat] [.a k.toNat] fun v =>
    let x := v.t.x
    let d := x.descOf k.toNat
    let rows := reconCols (x.accRows k.toNat) (descCtag d)
    let fmt := if f = 1 then b16 else h16
    let w := x.shapeOf n.toNat
    let y := (enumFrom 0 rows).foldl (fun a e =>
      (a.setRow n.toNat e.1 (putElems 16 (16 * h.toNat) (x.row n.toNat e.1) fun c => (narrowF fmt 0 (lane e.2 c)).1)).setScale
        n.toNat e.1 0) x
    let z := y.setShape n.toNat (mkShape (4 + f.toNat) (shapeRows w) (descRtag d) (shapeSurv w))
    .ok ((v.setX (z.setErr n.toNat (descErr d))).pay 28 (tagLevel (descCtag d)))

/-- AIN (R170, R182). -/
def execAin (k : BitVec 3) (b : BitVec 2) (s : State) : Host.Outcome State Fault Refusal :=
  s.oweWalk (.acc k.toNat) b.toNat

/-- A payload of o`p` written whole (R184). -/
def View.payloadWrite (v : View) (p : Nat) (x : VReg) : View := { v with f := { v.f with o := v.f.o.set {} p x } }

/-- The firing has bound an error token (R41). -/
def View.markErr (v : View) (b : Bool) : View := if b then { v with f := { v.f with err := true } } else v

/-- ARD (R184). -/
def execArd (k : BitVec 3) (pl : BitVec 1) (p : BitVec 2) (c : BitVec 1) (i : BitVec 4) (s : State) :
    Host.Outcome State Fault Refusal :=
  s.runX 29 (if pl = 1 then [] else [.a k.toNat]) [if pl = 1 then .ps k.toNat else .a k.toNat] fun v =>
    let x := v.t.x
    let d := x.descOf k.toNat
    if pl = 1 then .ok (v.payloadWrite p.toNat { bits := x.ps.get 0 (16 * k.toNat + i.toNat) })
    else if c = 1 then
      let col := ofLanes fun m => cellOf (x.accRows k.toNat) m i.toNat
      .ok ((v.payloadWrite p.toNat { bits := col, tag := descRtag d }).markErr (decide (descErr d ≠ 0)))
    else
      .ok ((v.payloadWrite p.toNat { bits := (x.accRows k.toNat).getD i.toNat 0, tag := descCtag d }).markErr
        ((descErr d).getLsbD i.toNat))

/-! ## Sort mode (R185, R186) -/

/-- The number by which a key is ordered: KTYPE 00 N32, 01 S32, 10 F32 in total order (R185). -/
def keyRank (kt : Nat) (x : W32) : Nat :=
  if kt = 0 then x.toNat
  else if kt = 1 then (x ^^^ 0x80000000).toNat
  else if x.getLsbD 31 then (~~~x).toNat
  else (x ||| 0x80000000).toNat

/-- One key sorts before another (R185). -/
def keyBefore (kt : Nat) (desc : Bool) (a b : W32 × W32) : Bool :=
  let x := keyRank kt a.1
  let y := keyRank kt b.1
  if x = y then decide (a.2.toNat < b.2.toNat) else if desc then decide (y < x) else decide (x < y)

/-- A key put into its place. -/
def insertSort (kt : Nat) (desc : Bool) (a : W32 × W32) (l : List (W32 × W32)) : List (W32 × W32) :=
  match l with
  | [] => [a]
  | b :: r => if keyBefore kt desc a b then a :: b :: r else b :: insertSort kt desc a r

/-- HELD, SERR and NEXT cleared. -/
def XRegs.emptySort (x : XRegs) : XRegs := { x with sort := x.sort &&& 0x00000FFF, next := 0, sortKeys := [] }

/-- SRTCFG (R186). -/
def execSrtcfg (r : BitVec 8) (d : BitVec 1) (k : BitVec 2) (s : State) : Host.Outcome State Fault Refusal :=
  s.runX 29 [] [] fun v =>
    let w : W32 := BitVec.ofNat 32 (1 + k.toNat * 2 + d.toNat * 8 + r.toNat * 16)
    .ok (v.setX { v.t.x with sort := w, next := 0, sortKeys := [] })

/-- SRTK (R186). -/
def execSrtk (n : BitVec 4) (s : State) : Host.Outcome State Fault Refusal :=
  s.runX 0 [.t n.toNat] [.t n.toNat] fun v =>
    let x := v.t.x
    let rows := List.range (shapeRows (x.shapeOf n.toNat) + 1)
    let okRows := rows.filter fun r => !(x.errOf n.toNat).getLsbD r
    let v1 := v.pay 44 okRows.length
    if !x.sort.getLsbD 0 then .ok v1
    else
      let kt := x.sort.toNat / 2 % 4
      let desc := x.sort.getLsbD 3
      let keys := okRows.flatMap fun r => (List.range 16).map fun j =>
        (lane (x.row n.toNat r) j, x.next + BitVec.ofNat 32 (16 * r + j))
      let all := keys.foldl (fun a e => insertSort kt desc e a) x.sortKeys
      let kept := all.take (x.sort.toNat / 16 % 256 + 1)
      let serr := x.sort.getLsbD 21 || decide (okRows.length < rows.length)
      let w : W32 := BitVec.ofNat 32 (x.sort.toNat % 4096 + kept.length * 4096 + (if serr then 2 ^ 21 else 0))
      .ok (v1.setX { x with sort := w, next := x.next + BitVec.ofNat 32 (16 * rows.length), sortKeys := kept })

/-- SRTF (R186). -/
def execSrtf (z : BitVec 1) (i : BitVec 4) (q p : BitVec 2) (s : State) : Host.Outcome State Fault Refusal :=
  s.runX 45 [] [] fun v =>
    let x := v.t.x
    let at_ (j : Nat) : Option (W32 × W32) := x.sortKeys[16 * i.toNat + j]?
    let keys := ofLanes fun j => match at_ j with
      | some e => e.1
      | none => 0
    let idxs := ofLanes fun j => match at_ j with
      | some e => e.2
      | none => 0xFFFFFFFF
    let v1 := ((v.payloadWrite p.toNat { bits := keys }).payloadWrite q.toNat { bits := idxs }).markErr (x.sort.getLsbD 21)
    .ok (if z = 1 then v1.setX x.emptySort else v1)

/-! ## Feature-grid handoff (R187) -/

/-- TFEAT (R187). -/
def execTfeat (n : BitVec 4) (g : BitVec 1) (s : State) : Host.Outcome State Fault Refusal :=
  s.runFiring 46 fun t f =>
    let gt := bindGrid (t.berth t.tile f.berth) t.tile g.toNat
    let o : Owed := { reg := .feat n.toNat gt, cove := coveOfTile t.tile, cx := f.cx.toNat }
    let t1 := (t.setFiring t.tile t.slot (f.advance 2)).modTile t.tile fun x => { x with owed := x.owed ++ [o] }
    .ok (t1.after 1 .owedWriteLanding { a := t.tile })

/-! ## Landing (R168, R170, R187) -/

/-- A tile as it arrives on an owed write: a header with HAARL 5 to 7, an F32 tile for a TLD, or any other for an AIN, is
an error tile (R170, R247). The rules give no FMT to a TLD that an F32 tile serves, and FMT 110 cannot be written (R106): the model
gives it FMT 000 (log 99). -/
def tileFor (d : MTile) (acc : Bool) : MTile :=
  let w := d.shape
  if 4 < w.toNat / 256 % 8 ∨ d.f32 ≠ acc then
    { shape := mkShape (if acc then 0 else shapeFmt w) (shapeRows w) 0 0xFFFF, errf := 0xFFFF, f32 := acc }
  else d

/-- The registers after a walk's tile lands (R170, R182). -/
def XRegs.landTile (x : XRegs) (reg : OwedReg) (d : MTile) : XRegs :=
  match reg with
  | .tile n => x.putTile n (tileFor d false)
  | .acc k =>
    let e := tileFor d true
    let rows := (List.range 16).map fun m => e.rows.get 0 m
    (x.setAcc k rows).setDesc k (mkDesc (shapeTag e.shape) 0 e.errf)
  | .feat _ _ => x

/-- The registers after a feature batch lands (R187). -/
def XRegs.landBatch (x : XRegs) (n : Nat) (b : GBatch) : XRegs :=
  let y := (List.range 16).foldl (fun a r => a.setRow n r (if r < b.p then b.rows.get 0 r else 0)) x
  (y.setShape n (mkShape 4 (b.p - 1) 0 (BitVec.ofNat 16 (2 ^ b.p - 1)))).setErr n b.errf

/-- Owed write number `i` of a list may land: no earlier one is owed to its register, and for a TFEAT none earlier waits for
the same G-tile (R168, R187). -/
def mayLand (l : List Owed) (i : Nat) (o : Owed) : Bool :=
  (l.take i).all fun e => decide ((owedTarget e) ≠ (owedTarget o)) && (match e.reg, o.reg with
    | .feat _ g, .feat _ h => decide (g ≠ h)
    | _, _ => true)

/-- What lands for an owed write: its tile, or the oldest batch of its G-tile. -/
def Tile.landing (x : Tile) (o : Owed) : Bool :=
  match o.reg with
  | .feat _ g => x.gbuf.any fun b => decide (b.gtile = g)
  | _ => o.data.isSome

/-- Owed write number `i` lands whole: the tile after. -/
def Tile.land (x : Tile) (i : Nat) (o : Owed) : Tile :=
  let rest := x.owed.eraseIdx i
  match o.reg with
  | .feat n g =>
    match x.gbuf.find? fun b => decide (b.gtile = g) with
    | some b =>
      let j := x.gbuf.findIdx fun c => decide (c.gtile = g)
      { x with x := x.x.landBatch n b, owed := rest, gbuf := x.gbuf.eraseIdx j, astat := x.astat ||| b.flags }
    | none => x
  | reg =>
    match o.data with
    | some d => { x with x := x.x.landTile reg d, owed := rest }
    | none => x

/-- The first owed write of a tile that can land, lands; the tile's firings and berths look again (R170, R283). After a slack freeze
those of the image land in issue order, before the first issue on the tile (R335). -/
def State.landOwed (s : State) (t : Nat) : State :=
  let x := s.tileAt t
  match (enumFrom 0 x.owed).find? fun e => x.landing e.2 && mayLand x.owed e.1 e.2 && (!x.restoring || decide (e.1 = 0)) with
  | none => s
  | some (i, o) =>
    let y := x.land i o
    let wake (m : Map Firing) : Map Firing := m.map fun e => (e.1, if e.2.wait = .owed then { e.2 with wait := .no } else e.2)
    let s1 := s.setTile t { y with slots := wake y.slots, restoring := y.restoring && !y.owed.isEmpty }
    let s2 := s1.landedOn t
    let s3 := match o.reg with
      | .feat _ g => s2.after 1 .gridBatchSend { a := g }
      | _ => s2
    if y.owed = [] then s3 else s3.after 1 .owedWriteLanding { a := t }

/-- OWED_WRITE_LANDING (R170): an owed write of tile `ev.a` lands. -/
def execOwedWriteLanding (s : State) : Host.Outcome State Fault Refusal := .next (s.landOwed s.ev.a)

end Sys2Proof.Machine
end

