-- ==== Sys2Proof/Machine/Csr.lean ====
section
/-! DEFINITION. CSR reads and writes (R110 to R112, R331), the start of a privileged command (R314, R317, R332), EMRD and
EQT (R362, R363). -/

namespace Sys2Proof.Machine

/-! ## Counters as programs read them -/

/-- Word `h` of a 64-bit value. -/
def wordOf (x : BitVec 64) (h : Nat) : W32 := x.extractLsb' (32 * h) 32

/-- A 64-bit pair read word by word in one firing: a low read latches the high word, and a high read that follows takes it
(R110, R362). Key `k` names the pair; the latch of EXEC, key 5, serves every high read that follows. -/
def Firing.pair (f : Firing) (k : Nat) (val : BitVec 64) (high : Bool) : W32 × Firing :=
  if high then
    match f.latch.look k with
    | some x => (x, if k = 5 then f else { f with latch := f.latch.drop k })
    | none => (wordOf val 1, f)
  else (wordOf val 0, { f with latch := f.latch.put k (wordOf val 1) })

/-- Item 2 of R362: the tile's meter entry for an account. -/
def State.meterOf (s : State) (t c : Nat) : Nat := (s.tileAt t).meter.get 0 c

/-- EXEC of a VF and stage on a die (R358). -/
def execKey (die vf stage : Nat) : Nat := (die * 256 + vf) * 64 + stage

/-! ## Reading -/

/-- A field of the record that a handler firing reads (R110). -/
def recordField (f : Firing) (g : FaultRec → Nat) : W32 :=
  match f.handled with
  | some r => BitVec.ofNat 32 (g r)
  | none => 0

/-- What CSRR gives, and the firing after (R110, R314). TH0 to TH7 read what the tile holds; nothing
writes those of an X-tile, for which the manual gives none (R109; log 108). -/
def State.csrRead (s : State) (t : Nat) (f : Firing) (n : Nat) : W32 × Firing :=
  let acct := s.account t f.cx.toNat
  let a := s.acct acct
  match n with
  | 0x000 => (f.cx.setWidth 32, f)
  | 0x001 => ((s.vf f.cx.toNat).gen.setWidth 32, f)
  | 0x002 => (coordWord t, f)
  | 0x003 => (BitVec.ofNat 32 f.stage, f)
  | 0x004 => (BitVec.ofNat 32 (s.replicas t f.berth).length, f)
  | 0x005 => (f.itag.setWidth 32, f)
  | 0x010 => ((s.tileAt t).astat.setWidth 32, f)
  | 0x011 => (BitVec.ofNat 32 (s.tileAt t).lease, f)
  | 0x030 => f.pair 0 a.postCons false
  | 0x031 => f.pair 0 a.postCons true
  | 0x032 => f.pair 1 a.postBal false
  | 0x033 => f.pair 1 a.postBal true
  | 0x040 => (f.tstat, f)
  | 0x041 => (recordField f fun r => r.code.toNat, f)
  | 0x042 => (recordField f fun r => r.tval.toNat, f)
  | 0x043 => (recordField f fun r => r.itag.toNat + 2 ^ 12 * r.stag.toNat, f)
  | 0x044 => (recordField f fun r => r.rank.toNat, f)
  | 0x045 => (recordField f fun r => r.tpc.toNat, f)
  | 0x046 => (recordField f fun r => r.ttok.toNat, f)
  | 0x100 => (s.hd.win.psel, f)
  | 0x101 => (s.hd.win.pidx, f)
  | 0x102 => (s.hd.win.pdata.extractLsb' 0 32, f)
  | 0x103 => (s.hd.win.pdata.extractLsb' 32 32, f)
  | 0x104 => (s.hd.win.pdata.extractLsb' 64 32, f)
  | 0x105 => (s.hd.win.pdata.extractLsb' 96 32, f)
  | 0x106 => (Config.freeWord s.free, f)
  | 0x107 => ((if s.hd.win.busy then 1 else 0) ||| (s.hd.win.status.setWidth 32 <<< 8), f)
  | _ => (if 0x020 ≤ n ∧ n ≤ 0x027 then (s.tileAt t).th.get 0 (n - 0x020) else 0, f)

/-- The privileged numbers (R111). -/
def isPrivCsr (n : Nat) : Bool := decide (0x100 ≤ n) && decide (n ≤ 0x107)

/-- F_CSR_PRIV (R111). -/
def trapPriv (n : Nat) : Trap := { code := 0x0C, tval := BitVec.ofNat 32 n }

/-- CSRR (R331). A read of PCMD, to which the manual gives no value, draws a free word (log 9). -/
def execCsrr (d : Opnd) (n : BitVec 12) (s : State) : Host.Outcome State Fault Refusal :=
  s.runFiring 1 fun t f =>
    if isPrivCsr n.toNat ∧ (t.berth t.tile f.berth).rank.toNat < 6 then .error (trapPriv n.toNat)
    else do
      let r := t.csrRead t.tile f n.toNat
      let t1 := if n = 0x106 then { t with free := t.free + 1 } else t
      let v ← (t1.view r.2).put d r.1
      .ok (t1.writeBack { v with f := v.f.advance 2 })

/-! ## Privileged commands -/

/-- The statuses of R314, R332 and R348. -/
inductive PrivStatus where
  | ok | table | index | readOnly | inUse | noHouse | notPinned | value | resizeRefused | stateInvalid | drainTimeout
  | quotaExhausted
  deriving DecidableEq, Repr

/-- The value of a status. -/
def PrivStatus.code (c : PrivStatus) : BitVec 8 :=
  match c with
  | .ok => 0
  | .table => 1
  | .index => 2
  | .readOnly => 3
  | .inUse => 4
  | .noHouse => 5
  | .notPinned => 6
  | .value => 7
  | .resizeRefused => 8
  | .stateInvalid => 9
  | .drainTimeout => 10
  | .quotaExhausted => 11

/-- The entry that PIDX names (R314). -/
def PrivWin.entry (w : PrivWin) : Nat := w.pidx.toNat / 32

/-- The unit that PIDX names. -/
def PrivWin.unit (w : PrivWin) : Nat := w.pidx.toNat % 32

/-- A partition entry as 256 bits (R316). -/
def PartEnt.word (e : PartEnt) : Nat :=
  e.pstate + e.occ * 2 ^ 2 + e.save * 2 ^ 9 + e.fqbase * 2 ^ 57 + e.origin.toNat * 2 ^ 105

/-- A partition entry from its 256 bits. -/
def partOfWord (n : Nat) : PartEnt :=
  { pstate := n % 4, occ := n / 2 ^ 2 % 128, save := n / 2 ^ 9 % 2 ^ 48, fqbase := n / 2 ^ 57 % 2 ^ 48
    origin := BitVec.ofNat 128 (n / 2 ^ 105) }

/-- A 128-bit unit of a wider word replaced. -/
def setUnit (word u : Nat) (x : BitVec 128) : Nat :=
  word - word / 2 ^ (128 * u) % 2 ^ 128 * 2 ^ (128 * u) + x.toNat * 2 ^ (128 * u)

/-- The step of a PCMD 2 to the partition table, from the change that is written (R332). None where the write selects no
command: it stores SAVE and FQBASE, and in an empty entry the part of ORIGIN that a create will use. -/
def partCommand (old new : PartEnt) : Except PrivStatus (Option Instr) :=
  if old.pstate = 0 ∧ new.pstate = 1 then .ok (some .partitionCreate)
  else if old.pstate = 1 ∧ new.pstate = 2 then .ok (some .partitionEnter)
  else if old.pstate = 2 ∧ new.pstate = 2 ∧ new.occ ≠ old.occ then .ok (some .partitionSwitch)
  else if old.pstate = 2 ∧ new.pstate = 1 then .ok (some .partitionFreeze)
  else if old.pstate = 2 ∧ new.pstate = 3 then .ok (some .partitionDrain)
  else if old.pstate = 3 ∧ new.pstate = 2 then .ok (some .partitionResume)
  else if old.pstate = 1 ∧ new.pstate = 0 then .ok (some .partitionRelease)
  else if (old.pstate = 2 ∨ old.pstate = 3) ∧ new.pstate = old.pstate ∧ new.origin ≠ old.origin then
    .ok (some .partitionResize)
  else if new.pstate = old.pstate ∧ (old.pstate = 0 ∨ (new.occ = old.occ ∧ new.origin = old.origin)) then .ok none
  else .error .stateInvalid

/-- What a write of PCMD starts (R314, R317, R345): the step that performs it, or the status that answers at once. -/
def State.privCommand (s : State) (cmd : W32) : Except PrivStatus Instr :=
  let w := s.hd.win
  match w.psel.toNat, cmd.toNat with
  | 0, 1 => .ok .privVfRead
  | 0, 2 => if w.unit = 9 then .ok .privGrantWrite else if w.unit = 10 then .ok .privMapbWrite else .ok .privVfWrite
  | 1, 1 => .ok .privPartitionRead
  | 1, 2 =>
    if 64 ≤ w.entry ∨ 2 ≤ w.unit then .error .index
    else
      let old := s.part w.entry
      match partCommand old (partOfWord (setUnit old.word w.unit w.pdata)) with
      | .ok (some i) => .ok i
      | .ok none => .ok .partitionCreate
      | .error e => if s.hd.running.get false w.entry then .error .inUse else .error e
  | 2, 1 => .ok .privCoveMapRead
  | 3, 1 => .ok .privTideRead
  | 3, 2 => .ok .privTideWrite
  | 4, 1 => .ok .privKeyQuery
  | 4, 2 => .error .readOnly
  | 4, 3 => if w.pdata.getLsbD 8 then .ok .vfReset else .error .table
  | 5, 1 => .ok .privCostRead
  | 5, 2 => .error .readOnly
  | 6, 3 => .ok .privInvalidate
  | _, _ => .error .table

/-- The privileged window answers with a status (R314). -/
def State.privStatus (s : State) (c : PrivStatus) : State :=
  s.modHd fun h => { h with win := { h.win with busy := false, status := c.code } }

/-- The firing that wrote PCMD goes on, and PSTAT holds the status of its command (R314). -/
def State.privDone (s : State) (c : PrivStatus) : State :=
  let s1 := s.privStatus c
  s1.modFiring s1.hd.privTile s1.hd.privSlot fun f => if f.wait = .priv then { f with wait := .no } else f

/-- CSRW of PCMD (R314, R331): the firing is suspended until the command is done. -/
def State.startPriv (s : State) (f : Firing) (cmd : W32) : State :=
  let g := f.advance 2
  match s.privCommand cmd with
  | .error c => (s.setFiring s.tile s.slot g).privStatus c
  | .ok i =>
    let s1 := (s.setFiring s.tile s.slot { g with wait := .priv }).modHd fun h =>
      { h with win := { h.win with busy := true }, privTile := s.tile, privSlot := s.slot }
    s1.after 1 i { a := s.hd.win.entry, b := s.tile, c := s.slot }

/-! ## Writing -/

/-- LEASE as a write stores it (R111). -/
def clampLease (x : W32) : Nat := Nat.max 1 (Nat.min 1024 (x.toNat % 2048))

/-- A CSRW that is no PCMD (R81, R109, R111, R112, R314). A write of PSTAT changes nothing (log 125). -/
def State.csrWrite (s : State) (t : Nat) (f : Firing) (n : Nat) (x : W32) : State × Firing :=
  let win (g : PrivWin → PrivWin) : State := s.modHd fun h => { h with win := g h.win }
  let data (i : Nat) (p : BitVec 128) : BitVec 128 :=
    (p &&& ~~~((0xFFFFFFFF : BitVec 128) <<< (32 * i))) ||| (x.setWidth 128 <<< (32 * i))
  match n with
  | 0x010 => (s.modTile t fun y => { y with astat := x.setWidth 6 }, f)
  | 0x011 => (s.modTile t fun y => { y with lease := clampLease x }, f)
  | 0x040 => (s, { f with tstat := x })
  | 0x100 => (win fun w => { w with psel := x &&& 15 }, f)
  | 0x101 => (win fun w => { w with pidx := x }, f)
  | 0x102 => (win fun w => { w with pdata := data 0 w.pdata }, f)
  | 0x103 => (win fun w => { w with pdata := data 1 w.pdata }, f)
  | 0x104 => (win fun w => { w with pdata := data 2 w.pdata }, f)
  | 0x105 => (win fun w => { w with pdata := data 3 w.pdata }, f)
  | 0x107 => (s, f)
  | _ => (s.modTile t fun y => { y with th := y.th.set 0 (n - 0x020) x }, f)

/-- CSRW (R331). A write of PCMD while a command runs does not issue until that command is done (log 125). -/
def execCsrw (d : Opnd) (n : BitVec 12) (s : State) : Host.Outcome State Fault Refusal :=
  if n = 0x106 ∧ s.hd.win.busy then
    match s.firing s.tile s.slot with
    | none => .refused .noFiring
    | some f =>
      if (s.berth s.tile f.berth).rank.toNat < 6 then
        .next ((s.charge s.tile f.cx.toNat 1 1).takeFault s.tile s.slot f (trapPriv n.toNat))
      else .next s
  else
    s.runFiring 1 fun t f =>
      if isPrivCsr n.toNat ∧ (t.berth t.tile f.berth).rank.toNat < 6 then .error (trapPriv n.toNat)
      else do
        let x ← (t.view f).src d
        if n = 0x106 then .ok (t.startPriv f x)
        else
          let r := t.csrWrite t.tile f n.toNat x
          .ok (r.1.setFiring t.tile t.slot (r.2.advance 2))

/-! ## EMRD and EQT (R362, R363) -/

/-- The value of an EMRD item before its half is taken, or none where it raises F_BOUNDS (R362). -/
def State.emrdItem (s : State) (t : Nat) (f : Firing) (item : Nat) (b : W32) : Option (BitVec 64) :=
  let c := s.account t f.cx.toNat
  let a := s.acct c
  match item with
  | 0 => some a.postCons
  | 1 => some a.postBal
  | 2 => some (BitVec.ofNat 64 (s.meterOf t c))
  | 3 => some (s.hd.exec.get 0 (execKey (dieOfTile t) f.cx.toNat (b.toNat % 64)))
  | 4 => if 768 ≤ b.toNat % 1024 then none else some (BitVec.ofNat 64 (s.occ (dieOfTile t * 768 + b.toNat % 1024) c))
  | 5 => some (BitVec.ofNat 64 a.drop)
  | 6 => some (BitVec.ofNat 64 a.ingdrop)
  | _ => none

/-- EMRD (R362). Item 2 is read before this instruction's own charge. -/
def execEmrd (d a b : Opnd) (s : State) : Host.Outcome State Fault Refusal :=
  s.runFiring 1 fun t f => do
    let v := t.view f
    let x ← v.src a
    let y ← v.src b
    let item := x.toNat % 16
    let high := x.getLsbD 4
    match s.emrdItem s.tile f item y with
    | none => .error (trapBounds (if item = 4 then y else x))
    | some n =>
      let r := if item ≤ 3 then f.pair (2 + item) n high else (if high then 0 else wordOf n 0, f)
      let v1 ← (t.view r.2).put d r.1
      .ok (t.writeBack { v1 with f := v1.f.advance 2 })

/-- EQT (R363). -/
def execEqt (p : BitVec 3) (a b : Opnd) (s : State) : Host.Outcome State Fault Refusal :=
  s.runView 1 2 fun v => do
    let x ← v.src a
    let y ← v.src b
    let c := s.account s.tile v.f.cx.toNat
    let bal := (s.acct c).postBal.toInt - ((s.meterOf s.tile c / 16 : Nat) : Int)
    .ok (v.setPred p.toNat (decide (((x.toNat * 2 ^ (y.toNat % 32) : Nat) : Int) ≤ bal)))

end Sys2Proof.Machine
end

