-- ==== Sys2Proof/Machine/MemSys.lean ====
section
/-! DEFINITION. The steps between a firing's access and its reply: calendar slots (R275 to R277), homes and fills (R198 to
R200, R208 to R212), page walks and their faults (R226, R271, R305 to R309), waits that end. Operands: `ev.a` is the tile and
`ev.b` the slot of the firing, where a step says nothing else. -/

namespace Sys2Proof.Machine

/-! ## Calendars (R275 to R277) -/

/-- Entry `c` of a unit's tide table as it stands. Units without a written table hold house slots only (R275, R374). -/
def State.tideEntry (s : State) (unit c : Nat) : BitVec 16 := s.hd.tide.get 0 (unit * 256 + c)

/-- VF `v` owns a slot of a unit. -/
def State.ownsSlot (s : State) (unit v : Nat) : Bool :=
  (List.range 256).any fun c =>
    let e := s.tideEntry unit c
    e.getLsbD 7 && decide ((e.extractLsb' 0 7).toNat = v)

/-- The account whose queue a unit serves in slot `c` among those with requests (R276). 128 is the house. -/
def State.slotAccount (s : State) (unit c : Nat) (q : List (Nat × Nat)) : Option Nat :=
  let e := s.tideEntry unit c
  let has (v : Nat) : Bool := q.any fun r => decide (r.1 = v)
  let owner := (e.extractLsb' 0 7).toNat
  let alt := (e.extractLsb' 8 7).toNat
  if e.getLsbD 7 && has owner then some owner
  else if e.getLsbD 15 && has alt then some alt
  else if !e.getLsbD 7 then
    if has 128 then some 128
    else
      let rr := s.hd.unitRr.get 0 unit
      ((List.range 128).map fun i => (rr + i) % 128).find? fun v => has v && !s.ownsSlot unit v
  else none

/-- A queue without its first request of an account. -/
def dropFirst (acct : Nat) (q : List (Nat × Nat)) : List (Nat × Nat) :=
  match q with
  | [] => []
  | r :: rest => if r.1 = acct then rest else r :: dropFirst acct rest

/-- A request that has its calendar slot is served at its home. -/
def State.serveRequest (s : State) (req : Nat) : State :=
  match s.atHome (req / 8) (req % 8) with
  | none => s
  | some (_, _, o, x) => s.after 0 (homeEvent o x) { a := req / 8, b := req % 8 }

/-- A unit serves one request in this fc's slot, if a queue that the slot is open to holds one (R276). -/
def State.serveUnit (s : State) (unit : Nat) : State :=
  let q := s.hd.unitq.get [] unit
  let s1 := match s.slotAccount unit (s.now % 256) q with
    | none => s
    | some v =>
      match q.find? fun r => decide (r.1 = v) with
      | none => s
      | some r =>
        let turn := decide (v < 128) && !s.ownsSlot unit v
        let s2 := s.modHd fun h =>
          { h with
            unitq := h.unitq.set [] unit (dropFirst v q)
            unitRr := if turn then h.unitRr.set 0 unit ((v + 1) % 128) else h.unitRr }
        s2.serveRequest r.2
  if (s1.hd.unitq.get [] unit).isEmpty then s1 else s1.after 1 .unitSlotService { a := unit }

/-- UNIT_SLOT_SERVICE (R276): unit `ev.a`. -/
def execUnitSlotService (s : State) : Host.Outcome State Fault Refusal := .next (s.serveUnit s.ev.a)

/-- A written tide table takes effect whole, as it stood when its unit 31 was written (R275, R386). -/
def State.switchTide (s : State) (unit : Nat) : State :=
  s.modHd fun h =>
    { h with
      tide := (List.range 256).foldl (fun m c => m.set 0 (unit * 256 + c) (h.tideNext.get 0 (unit * 256 + c))) h.tide
      tideNext := h.tideNext.filter fun e => !decide (e.1 / 256 = unit)
      tideNew := h.tideNew.filter fun u => !decide (u = unit) }

/-- TIDE_TABLE_SWITCH (R275): unit `ev.a`. -/
def execTideTableSwitch (s : State) : Host.Outcome State Fault Refusal := .next (s.switchTide s.ev.a)

/-! ## Homes (R198 to R200, R208 to R212) -/

/-- The line of an operation must be filled into L2 before its home can serve it (R198, R199). -/
def State.needsFill (s : State) (x : Xl) (c : Nat) : Bool :=
  (decide (x.home = 0) || decide (x.home = 2)) && (s.l2Look x.slice (x.pa / 128)).isNone && decide (s.wayMask c ≠ 0)

/-- A request at its home: a fill comes first where the line is not in L2. -/
def State.atHomeOr (s : State) (t k : Nat) (g : State → State) : State :=
  match s.atHome t k with
  | none => s
  | some (f, j, o, x) =>
    if j.stage ≠ .home then s
    else if s.needsFill x (s.account t f.cx.toNat) && !decide (o.kind = .peek) then
      (s.modJob t k fun i => { i with stage := .fill 0 }).after 0 .l2Fill { a := t, b := k }
    else g s

/-- LOAD_HOME_REQUEST (R208). -/
def execLoadHomeRequest (s : State) : Host.Outcome State Fault Refusal :=
  .next (s.atHomeOr s.ev.a s.ev.b fun u => u.serveLoad s.ev.a s.ev.b)

/-- OWNERSHIP_REQUEST (R209, R227, R228). -/
def execOwnershipRequest (s : State) : Host.Outcome State Fault Refusal :=
  .next (s.atHomeOr s.ev.a s.ev.b fun u => u.serveStore s.ev.a s.ev.b)

/-- An atomic, STNC, or the depth test of ZTST at its home. -/
def State.serveAtom (s : State) (t k : Nat) : State :=
  match s.atHome t k with
  | none => s
  | some (_, _, o, _) => if o.kind = .ztst then s.serveZtst t k else s.serveAtomic t k

/-- ATOMIC_HOME_OPERATION (R212, R235). -/
def execAtomicHomeOperation (s : State) : Host.Outcome State Fault Refusal :=
  .next (s.atHomeOr s.ev.a s.ev.b fun u => u.serveAtom s.ev.a s.ev.b)

/-- MEMORY_CHANNEL_OPERATION (R200, R391): an access of home 11 at its channel or at the CXL port. -/
def execMemoryChannelOperation (s : State) : Host.Outcome State Fault Refusal :=
  .next (s.atHomeOr s.ev.a s.ev.b fun u => u.serveChannel s.ev.a s.ev.b)

/-- An operation that stood waiting goes to its home again. -/
def State.backHome (s : State) (t k : Nat) (o : LineOp) (x : Xl) : State :=
  (s.modJob t k fun i => { i with stage := .home }).after 0 (homeEvent o x) { a := t, b := k }

/-- The fill that an operation needs: the line enters L2, or the operation waits on the PEND lines in its way (R198, R199,
R211). -/
def State.tryFill (s : State) (t k : Nat) : State :=
  match s.atHome t k with
  | none => s
  | some (f, j, o, x) =>
    match j.stage with
    | .fill _ =>
      let c := s.account t f.cx.toNat
      match s.fill x c with
      | .here s1 => s1.backHome t k o x
      | .bare s1 => s1.backHome t k o x
      | .wait => s.pendWait t k (s.pendOwners x.slice (x.pa / 128) c) true
    | _ => s

/-- L2_FILL (R198, R199). -/
def execL2Fill (s : State) : Host.Outcome State Fault Refusal := .next (s.tryFill s.ev.a s.ev.b)

/-- FILL_WAIT_RESUME (R199): a fill that waited on PEND lines is tried again. -/
def execFillWaitResume (s : State) : Host.Outcome State Fault Refusal := .next (s.tryFill s.ev.a s.ev.b)

/-- A store that waited for a berm entry goes to its home again (R228). -/
def State.bermResume (s : State) (t k : Nat) : State :=
  match s.atHome t k with
  | some (_, j, o, x) => if j.stage = .berm then s.backHome t k o x else s
  | none => s

/-- BERM_WAIT_RESUME (R228). -/
def execBermWaitResume (s : State) : Host.Outcome State Fault Refusal := .next (s.bermResume s.ev.a s.ev.b)

/-- A SEQN that waited for its screen tile's retirements goes to its home again (R255). -/
def State.seqnResume (s : State) (t k : Nat) : State :=
  match s.firing t k, s.atHome t k with
  | some f, some (_, _, o, x) =>
    if f.wait = .seqn then (s.setFiring t k { f with wait := .access }).backHome t k o x else s
  | _, _ => s

/-- SEQN_RESUME (R255). -/
def execSeqnResume (s : State) : Host.Outcome State Fault Refusal := .next (s.seqnResume s.ev.a s.ev.b)

/-- The reply of an access reaches its firing: the next line operation, or what follows the last (R223). -/
def State.takeReply (s : State) (t k : Nat) : State :=
  match s.firing t k with
  | some f =>
    match f.job with
    | some j =>
      if j.stage = .reply then
        State.jobRun jobFuel (s.modJob t k fun i => { i with ops := i.ops.drop 1, stage := .start }) t k
      else s
    | none => s
  | none => s

/-- MEMORY_REPLY (R208, R209, R212, R223). -/
def execMemoryReply (s : State) : Host.Outcome State Fault Refusal := .next (s.takeReply s.ev.a s.ev.b)

/-! ## Retries (R210, R226, R309) -/

/-- An access starts over from its translation. -/
def State.restart (s : State) (t k : Nat) : State :=
  State.jobRun jobFuel (s.modJob t k fun i => { i with stage := .start }) t k

/-- A request in the input buffer of its M-tile goes on when it stands at its head. -/
def State.fromBuffer (s : State) (t k : Nat) : State :=
  if (s.tileAt (xlatTile t)).mu.inq.head? = some (t, k) then s.restart t k else s

/-- An access that waits tries again. `wake` tells a wake token, which alone releases a held access (R226). -/
def State.retry (s : State) (t k : Nat) (wake : Bool) : State :=
  match s.firing t k with
  | none => s
  | some f =>
    match f.job with
    | none => s
    | some j =>
      match j.stage with
      | .pend _ =>
        match j.ops, j.xl with
        | o :: _, some x => s.backHome t k o x
        | _, _ => s
      | .held => if wake then (s.modJob t k fun i => { i with stage := .inq }).fromBuffer t k else s
      | .inq => s.fromBuffer t k
      | _ => s

/-- ACCESS_RETRY (R210, R226): `ev.c` is 1 for a wake token. -/
def execAccessRetry (s : State) : Host.Outcome State Fault Refusal := .next (s.retry s.ev.a s.ev.b (decide (s.ev.c = 1)))

/-! ## Fault queue entries of recoverable records (R226, R271) -/

/-- A recoverable record joins those that wait for a free entry, and they are posted as far as there is room (R271). -/
def State.joinXlate (s : State) (part : Nat) (r : FaultRec) : State :=
  let l := (s.hd.faults.get {} part).waitXlate ++ [r]
  (s.modFault part fun v => { v with waitXlate := l }).postWaits part l

/-- A recoverable record is posted, or waits for a free entry behind those that wait already (R271), or for the lines of the ring
(R270). -/
def State.postXlate (s : State) (part : Nat) (r : FaultRec) : State :=
  if part = agentPart then s.agentRecord r none
  else
    let u := s.hd.faults.get {} part
    if u.waitPend ≠ [] then s.waitRing part r none
    else
      let s1 := s.joinXlate part r
      if u.waitXlate = [] ∧ (s1.hd.faults.get {} part).waitXlate ≠ [] then s1.after 1 .xlateRecordPost { a := part } else s1

/-- The records that came while the ring was PEND are posted in their order, up to one that must still wait (R216, R270, R271). -/
def State.postPend (s : State) (part : Nat) (l : List (FaultRec × Option (Nat × Nat))) : State :=
  match l with
  | [] => s
  | e :: rest =>
    if s.queuePend part e.1.vf.toNat then s
    else
      let s1 := s.modFault part fun v => { v with waitPend := rest }
      (if e.1.recov then s1.joinXlate part e.1 else s1.postNow part e.1 e.2).postPend part rest

/-- The waiting records take the entries that the handler has freed (R271), and those that waited for the ring follow (R270). -/
def State.postWaiting (s : State) (part : Nat) : State :=
  let s1 := s.postWaits part (s.hd.faults.get {} part).waitXlate
  let s2 := s1.postPend part (s1.hd.faults.get {} part).waitPend
  let u := s2.hd.faults.get {} part
  if u.waitXlate = [] ∧ u.waitPend = [] then s2 else s2.after 1 .xlateRecordPost { a := part }

/-- XLATE_RECORD_POST (R271): partition `ev.a`. -/
def execXlateRecordPost (s : State) : Host.Outcome State Fault Refusal := .next (s.postWaiting s.ev.a)

/-! ## Page walks (R226, R305 to R309) -/

/-- The 16 KiB page that the current operation of an access touches, with its tables. -/
def State.walkKey (s : State) (t : Nat) (f : Firing) : Option (Nat × Nat) :=
  match f.job with
  | some j =>
    match j.ops with
    | o :: _ => some (s.xlVf t f.cx.toNat, o.va / 2 ^ 14)
    | [] => none
  | none => none

/-- The request at the head of an M-tile's input buffer leaves it, and the next one goes on. -/
def State.leaveBuffer (s : State) (m t k : Nat) : State :=
  if (s.tileAt m).mu.inq.head? = some (t, k) then
    let s1 := s.modMu m fun u => { u with inq := u.inq.drop 1 }
    match (s1.tileAt m).mu.inq with
    | [] => s1
    | (a, b) :: _ => s1.after 1 .accessRetry { a := a, b := b }
  else s

/-- A miss joins the walk of its page, starts one, or waits in the input buffer for one of the 8 walks to end (R309). -/
def State.startWalk (s : State) (t k : Nat) : State :=
  match s.firing t k with
  | none => s
  | some f =>
    match s.walkKey t f with
    | none => s
    | some (vf, page) =>
      let m := xlatTile t
      let u := (s.tileAt m).mu
      if f.job.map (fun j => j.stage) ≠ some .walk then s
      else if u.walks.any fun w => decide (w.vf = vf) && decide (w.page = page) then s.leaveBuffer m t k
      else if u.walks.length < 8 then
        let s1 := s.modMu m fun v => { v with walks := v.walks ++ [{ vf := vf, page := page }] }
        (s1.leaveBuffer m t k).after 1 .pageWalkComplete { a := t, b := k, c := page, l := [vf, m] }
      else
        let q := if u.inq.contains (t, k) then u.inq else u.inq ++ [(t, k)]
        (s.modMu m fun v => { v with inq := q }).modJob t k fun i => { i with stage := .inq }

/-- PAGE_WALK (R307, R309). -/
def execPageWalk (s : State) : Host.Outcome State Fault Refusal := .next (s.startWalk s.ev.a s.ev.b)

/-- The firings whose accesses wait for the walk of a page at an M-tile, the one that started it first. -/
def State.walkers (s : State) (m vf page t k : Nat) : List (Nat × Nat) :=
  let l := s.tiles.flatMap fun e => e.2.slots.filterMap fun g =>
    match g.2.job with
    | some j =>
      if j.stage = .walk ∧ xlatTile e.1 = m ∧ s.walkKey e.1 g.2 = some (vf, page) then some (e.1, g.1) else none
    | none => none
  if l.contains (t, k) then (t, k) :: l.filter fun g => !decide (g = (t, k)) else l

/-- A walk leaves its slot, and a request that waits in the buffer for one goes on. -/
def State.endWalk (s : State) (m vf page : Nat) : State :=
  let s1 := s.modMu m fun u => { u with walks := u.walks.filter fun w => !(decide (w.vf = vf) && decide (w.page = page)) }
  match (s1.tileAt m).mu.inq with
  | [] => s1
  | (a, b) :: _ => s1.after 1 .accessRetry { a := a, b := b }

/-- Requests start over, in order. -/
def State.restartAll (s : State) (l : List (Nat × Nat)) : State := l.foldl (fun a g => a.restart g.1 g.2) s

/-- The requests that joined a walk without a leaf are held at the head of the input buffer, behind those held before
(R226, R309). -/
def State.holdAll (s : State) (m : Nat) (l : List (Nat × Nat)) : State :=
  let s1 := l.foldl (fun a g => a.modJob g.1 g.2 fun i => { i with stage := .held }) s
  s1.modMu m fun u =>
    let old := u.inq.takeWhile fun g => s.isHeld g.1 g.2
    { u with inq := old ++ l ++ u.inq.drop old.length }

/-- What is wrong with an access whose walk was bad (R225, R307, R325). -/
def walkTrap (code : BitVec 8) (va : Nat) (st2 : Bool) (lvl : Nat) : Trap :=
  { trapVa code va with wstg := st2, wlvl := BitVec.ofNat 3 lvl }

/-- A walk ends: its translation is installed and its requests go on; or its first request faults; or every request is held
with one record posted (R226, R305 to R309). A walk that an invalidation caught installs nothing (R308). -/
def State.finishWalk (s : State) (t k page vf m : Nat) : State :=
  let again : EvArg := { a := t, b := k, c := page, l := [vf, m] }
  match (s.tileAt m).mu.walks.find? fun w => decide (w.vf = vf) && decide (w.page = page) with
  | none => s
  | some w =>
    let l := s.walkers m vf page t k
    match l with
    | [] => s.endWalk m vf page
    | (a, b) :: rest =>
      if w.stale then (s.endWalk m vf page).restartAll l
      else
        match s.firing a b with
        | none => s
        | some f =>
          match f.job with
          | none => s
          | some j =>
            let o := j.ops.headD {}
            match s.walk m vf (s.account a f.cx.toNat) f.pts o.va o.need with
            | .wait _ _ => s.after 1 .pageWalkComplete again
            | .full => s.after 1 .pageWalkComplete again
            | .ok s1 e =>
              ((s1.modMu m fun u => { u with tlb := tlbInstall u.tlb e }).endWalk m vf page).restartAll l
            | .bad s1 code st2 lvl =>
              let e := walkTrap code o.va st2 lvl
              let s2 := s1.endWalk m vf page
              if o.kind = .probe then
                let s3 := s2.modJob a b fun i => { i with ops := i.ops.drop 1, stage := .start, xl := none }
                s3.restartAll l
              else if code = 0x01 then
                let r := { s2.firingRecord a { f with pc := j.pc } e with recov := true, who := slotId a b }
                ((s2.holdAll m l).turnUnits m (vf, page) true).postXlate (s2.tcfg a).part r
              else (s2.accessFault a b f e).restartAll rest

/-- PAGE_WALK_COMPLETE (R305 to R309): `ev.c` is the page, `ev.l` its tables and its M-tile. -/
def execPageWalkComplete (s : State) : Host.Outcome State Fault Refusal :=
  .next (s.finishWalk s.ev.a s.ev.b s.ev.c (s.ev.l.getD 0 0) (s.ev.l.getD 1 0))

end Sys2Proof.Machine
end

