-- ==== Sys2Proof/Machine/Rebase.lean ====
section
/-! DEFINITION. Every timestamp of the package, and the rebase that lowers them all (R221). -/

namespace Sys2Proof.Machine

/-! ## The largest timestamp -/

/-- The largest of some numbers. -/
def maxOf (l : List Nat) : Nat := l.foldl Nat.max 0

/-- The largest of what a list's elements hold. -/
def maxBy {α : Type} (f : α → Nat) (l : List α) : Nat := maxOf (l.map f)

/-- The largest of what a map's entries hold. -/
def maxVal {α : Type} (f : α → Nat) (m : Map α) : Nat := maxBy (fun e => f e.2) m

/-- The timestamps of a fault record, held back with it. -/
def recTs (r : FaultRec) : Nat := Nat.max r.lts r.prod

/-- The timestamps of a token. -/
def tokTs (k : Token) : Nat := Nat.max k.lts (maxBy recTs k.handled.toList)

/-- The timestamps of a staged effect. -/
def stagedTs (e : Staged) : Nat :=
  match e with
  | .token _ k => tokTs k
  | .batch _ _ b => b.cts
  | .occq _ _ o => o.cts
  | _ => 0

/-- The timestamps of a hold entry. -/
def holdTs (h : Hold) : Nat :=
  match h with
  | .batch b => b.cts
  | .occq o => o.cts
  | .reserved _ _ => 0

/-- The timestamps of a command. -/
def cmdTs (c : BteCmd) : Nat := maxOf [c.cts, c.wmax, maxVal (fun n => n) c.lw]

/-- The timestamps of a firing. -/
def firingTs (f : Firing) : Nat :=
  maxOf [f.pts, f.done, maxBy recTs f.handled.toList, maxVal (maxBy tokTs) f.bound, maxBy stagedTs f.staged]

/-- The timestamps of a tile. L1 lines and cached templates hold none that their homes do not. -/
def tileTs (x : Tile) : Nat :=
  maxOf [maxVal firingTs x.slots, maxVal (fun r => r.lastPts) x.runs, maxOf x.ctlq, maxBy (fun w => tokTs w.tok) x.wait, x.lck,
    maxBy (fun e => e.w) x.mu.berm, x.mu.qck, maxBy cmdTs x.mu.queue, maxBy cmdTs x.mu.run.toList, maxBy holdTs x.mu.hold,
    maxVal (fun n => n) x.mu.abCts, maxBy (fun e => e.2) x.mu.egWait.toList, maxBy (fun e => e.2.cts) x.mu.inbox, x.mu.lastDone,
    maxBy (fun g => maxOf [tokTs g.x, tokTs g.y, tokTs g.z]) x.gslots]

/-- The timestamp of a completion on its way to a task unit. -/
def changeTs (c : TaskChange) : Nat :=
  match c with
  | .finish _ ts lts => Nat.max ts lts
  | .event _ _ ts => ts
  | .dec _ _ ts r => Nat.max ts (recTs r)

/-- The timestamps of a cove. -/
def coveTs (c : Cove) : Nat :=
  maxOf [maxVal (fun e => e.cts) c.tasks, maxVal (fun n => n) c.ets, maxVal (fun r => r.lts) c.ring, maxBy changeTs c.due]

/-- The timestamps of a partition's fault unit. -/
def faultTs (u : FaultUnit) : Nat :=
  maxOf [maxBy recTs u.waitXlate, maxBy (fun e => recTs e.1) u.waitPend, maxVal (maxBy recTs) u.toEdge]

/-- The PA of the CTS of a slot entry, 48 bits (R251). -/
def slotCts (m : Map Byte) (pa : Nat) : Nat := (List.range 6).foldr (fun i a => (m.get 0 (pa + 8 + i)).toNat + 256 * a) 0

/-- The largest timestamp in the package (R221). -/
def State.maxTs (s : State) : Nat :=
  maxOf [maxVal tileTs s.tiles, maxVal coveTs s.coves, maxVal (fun d => Nat.max d.wts d.rts) s.mem.dir, maxVal (fun n => n) s.mem.mxr,
    maxVal (fun n => n) s.mem.cwts, maxBy (fun e => slotCts s.mem.pm e.1) s.mem.slots, maxVal (fun f => tokTs f.tok) s.net.flights,
    maxVal stagedTs s.net.orders, maxVal (fun n => n) s.hd.hck, maxVal (maxBy tokTs) s.hd.ingress, maxVal faultTs s.hd.faults,
    maxBy recTs s.hd.fintake, maxVal (fun r => r.start) s.hd.loads]

/-! ## Lowering -/

/-- A map with each entry changed. -/
def mapVal {α : Type} (f : α → α) (m : Map α) : Map α := m.map fun e => (e.1, f e.2)

/-- A map of numbers with each lowered; those that become 0 are not listed. -/
def mapNum (f : Nat → Nat) (m : Map Nat) : Map Nat := (mapVal f m).filter fun e => !decide (e.2 = 0)

/-- A fault record with its timestamps changed. -/
def recMap (f : Nat → Nat) (r : FaultRec) : FaultRec := { r with lts := f r.lts, prod := f r.prod }

/-- A token with its timestamps changed. -/
def tokMap (f : Nat → Nat) (k : Token) : Token := { k with lts := f k.lts, handled := k.handled.map (recMap f) }

/-- A staged effect with its timestamps changed. -/
def stagedMap (f : Nat → Nat) (e : Staged) : Staged :=
  match e with
  | .token c k => .token c (tokMap f k)
  | .batch m h b => .batch m h { b with cts := f b.cts }
  | .occq m h o => .occq m h { o with cts := f o.cts }
  | e => e

/-- A hold entry with its timestamps changed. -/
def holdMap (f : Nat → Nat) (h : Hold) : Hold :=
  match h with
  | .batch b => .batch { b with cts := f b.cts }
  | .occq o => .occq { o with cts := f o.cts }
  | h => h

/-- A command with its timestamps changed; the lines that it has written stay listed. -/
def cmdMap (f : Nat → Nat) (c : BteCmd) : BteCmd := { c with cts := f c.cts, wmax := f c.wmax, lw := mapVal f c.lw }

/-- A firing with its timestamps changed. -/
def firingMap (f : Nat → Nat) (g : Firing) : Firing :=
  { g with
    pts := f g.pts, done := f g.done, handled := g.handled.map (recMap f), bound := mapVal (fun l => l.map (tokMap f)) g.bound
    staged := g.staged.map (stagedMap f) }

/-- A tile with its timestamps changed, its L1 lines, grid lines and cached templates dropped (R221 steps 2 and 3). -/
def tileMap (f : Nat → Nat) (x : Tile) : Tile :=
  { x with
    slots := mapVal (firingMap f) x.slots
    runs := mapVal (fun r => { r with lastPts := f r.lastPts }) x.runs
    ctlq := x.ctlq.map f
    wait := x.wait.map fun w => { w with tok := tokMap f w.tok }
    lck := f x.lck
    gslots := x.gslots.map fun g => { g with x := tokMap f g.x, y := tokMap f g.y, z := tokMap f g.z }
    gcache := []
    mu := { x.mu with
      l1 := [], tcache := []
      berm := x.mu.berm.map fun e => { e with w := f e.w }
      qck := f x.mu.qck
      queue := x.mu.queue.map (cmdMap f)
      run := x.mu.run.map (cmdMap f)
      hold := x.mu.hold.map (holdMap f)
      abCts := mapNum f x.mu.abCts
      egWait := x.mu.egWait.map fun e => (e.1, f e.2)
      inbox := x.mu.inbox.map fun e => (e.1, { e.2 with cts := f e.2.cts })
      lastDone := f x.mu.lastDone } }

/-- A completion with its timestamps changed. -/
def changeMap (f : Nat → Nat) (c : TaskChange) : TaskChange :=
  match c with
  | .finish x ts lts => .finish x (f ts) (f lts)
  | .event m n ts => .event m n (f ts)
  | .dec m x ts r => .dec m x (f ts) (recMap f r)

/-- A cove with its timestamps changed. -/
def coveMap (f : Nat → Nat) (c : Cove) : Cove :=
  { c with
    tasks := mapVal (fun e => { e with cts := f e.cts }) c.tasks
    due := c.due.map (changeMap f)
    ets := mapNum f c.ets
    ring := mapVal (fun r => { r with lts := f r.lts }) c.ring }

/-- A partition's fault unit with its timestamps changed. -/
def faultMap (f : Nat → Nat) (u : FaultUnit) : FaultUnit :=
  { u with
    waitXlate := u.waitXlate.map (recMap f), waitPend := u.waitPend.map fun e => (recMap f e.1, e.2)
    toEdge := mapVal (fun l => l.map (recMap f)) u.toEdge }

/-- The CTS of a slot entry changed where it lies. -/
def slotMap (f : Nat → Nat) (m : Map Byte) (pa : Nat) : Map Byte :=
  let t := f (slotCts m pa)
  (List.range 6).foldl (fun (a : Map Byte) i => a.set 0 (pa + 8 + i) (BitVec.ofNat 8 (t / 256 ^ i))) m

/-- Directory records with their timestamps changed; those that become zero are not listed. -/
def dirMap (f : Nat → Nat) (m : Map DirRec) : Map DirRec :=
  (mapVal (fun d => { d with wts := f d.wts, rts := f d.rts, base := f d.base }) m).filter fun e => !decide (e.2 = {})

/-- The memories with their timestamps changed. -/
def memMap (f : Nat → Nat) (m : Mem) : Mem :=
  { m with
    dir := dirMap f m.dir
    mxr := mapNum f m.mxr
    cwts := mapNum f m.cwts
    pm := m.slots.foldl (fun a e => slotMap f a e.1) m.pm }

/-- Tokens and orders on their way with their timestamps changed. -/
def netMap (f : Nat → Nat) (n : Net) : Net :=
  { n with flights := mapVal (fun l => { l with tok := tokMap f l.tok }) n.flights, orders := mapVal (stagedMap f) n.orders }

/-- A save-area image with its timestamps changed, those of its pools' records and slot entries too. -/
def imageMap (f : Nat → Nat) (g : SaveImg) : SaveImg :=
  { g with
    tiles := mapVal (tileMap f) g.tiles
    coves := mapVal (coveMap f) g.coves
    flights := mapVal (fun l => { l with tok := tokMap f l.tok }) g.flights
    orders := mapVal (stagedMap f) g.orders
    pools := g.slots.foldl (fun a e => slotMap f a e.1) g.pools
    dirs := dirMap f g.dirs
    lastDone := f g.lastDone
    fault := faultMap f g.fault }

/-- The harbour with its timestamps changed. -/
def hdMap (f : Nat → Nat) (h : Harbour) : Harbour :=
  { h with
    hck := mapNum f h.hck
    ingress := mapVal (fun l => l.map (tokMap f)) h.ingress
    faults := mapVal (faultMap f) h.faults
    fintake := h.fintake.map (recMap f)
    images := mapVal (imageMap f) h.images
    loads := mapVal (fun r => { r with start := f r.start, old := imageMap f r.old }) h.loads }

/-- The rebase: every timestamp t becomes max(0, t − 2^45) (R221). No partition moves while it lasts, so that the freeze of its
steps 1 and 4 leaves nothing else behind. -/
def State.rebase (s : State) : State :=
  let f (t : Nat) : Nat := t - 2 ^ 45
  { s with tiles := mapVal (tileMap f) s.tiles, coves := mapVal (coveMap f) s.coves, mem := memMap f s.mem, net := netMap f s.net
           hd := hdMap f s.hd }

/-- TIMESTAMP_REBASE (R221). -/
def execTimestampRebase (s : State) : Host.Outcome State Fault Refusal := .next s.rebase

end Sys2Proof.Machine
end

