-- ==== Sys2Proof/Machine/Sched.lean ====
section
/-! DEFINITION. What happens next: readiness and admission (R20 to R26, R31, R264), the choice of the firing that issues
(R31, R118, R264), fetching an instruction (R58), the order of the steps of one fc, and the clock. -/

namespace Sys2Proof.Machine

/-! ## Readiness (R23, R24, R290) -/

/-- The rate of input port `p` of a berth (R311). -/
def inRate (b : BerthRec) (p : Nat) : Nat := b.rates.toNat / 2 ^ (3 * p) % 8

/-- The rate of output port `p` of a berth (R311). -/
def outRateOf (b : BerthRec) (p : Nat) : Nat := b.rates.toNat / 2 ^ (12 + 3 * p) % 8

/-- The used input ports of a berth. -/
def usedInputs (b : BerthRec) : List Nat := (List.range 4).filter fun p => decide (0 < inRate b p)

/-- The unbound tokens on port `p` of berth `b` that count towards readiness, in arrival order (R263, R264). -/
def State.landed (s : State) (t b p : Nat) : List Waiting :=
  (s.tileAt t).wait.filter fun w =>
    decide (w.berth = b) && decide (w.port = p) && !w.bound && decide (w.ready ≤ s.now)

/-- The operands of a tagged actor for one iteration tag, one on each used port, or none where a port lacks one. -/
def State.operandsFor (s : State) (t b : Nat) (g : BitVec 12) : Option (List (Nat × List Waiting)) :=
  let l := (usedInputs (s.berth t b)).map fun p => (p, ((s.landed t b p).filter fun w => decide (w.tok.itag = g)).take 1)
  if l.all fun e => !e.2.isEmpty then some l else none

/-- When the oldest operand of a set arrived, lower ports first (R24). -/
def oldestOf (l : List (Nat × List Waiting)) : Nat :=
  ((l.flatMap fun e => e.2.map fun w => w.since * 4 + e.1).min?).getD 0

/-- The inputs that a firing of berth `b` would bind: those of a stream actor, or of the tag whose oldest operand arrived
first (R23, R24). -/
def State.inputsFor (s : State) (t b : Nat) : Option (List (Nat × List Waiting)) :=
  let r := s.berth t b
  if s.isTagged t b then
    let tags := (((s.tileAt t).wait.filter fun w => decide (w.berth = b) && !w.bound).map fun w => w.tok.itag).eraseDups
    let sets := tags.filterMap fun g => if ((s.tileAt t).frameOf b g).isSome then s.operandsFor t b g else none
    sets.foldl (fun a l => match a with
      | none => some l
      | some m => if oldestOf l < oldestOf m then some l else some m) none
  else
    let l := (usedInputs r).map fun p => (p, (s.landed t b p).take (inRate r p))
    if (usedInputs r).all fun p => decide (inRate r p ≤ (s.landed t b p).length) then some l else none

/-- The output ports that the routines of a berth name in a RAYS, found by walking them (R58, R297). -/
def raysPorts (fuel : Nat) (code : List (BitVec 16)) : List Nat :=
  match fuel with
  | 0 => []
  | n + 1 =>
    match code with
    | [] => []
    | h :: r =>
      if h.getLsbD 15 then
        match r with
        | [] => []
        | l :: q =>
          let w := h.toNat * 65536 + l.toNat
          if w / 2 ^ 23 % 256 = 0xD0 then (w / 2 ^ 16 % 4) :: raysPorts n q else raysPorts n q
      else raysPorts n r

/-- Ring slots that admission of a berth reserves: the rate of each port that its routines use in a RAYS (R268, R297). -/
def State.rayRate (s : State) (t b : Nat) : Nat :=
  if kindAt (t % 64) ≠ .c then 0
  else
    let c := s.tcfg t
    let rs := (c.rtab.filter fun e => e.2.val && decide (e.2.berth.toNat = b)).flatMap fun e =>
      raysPorts 65536 ((c.code.drop e.2.start.toNat).take e.2.len.toNat)
    rs.eraseDups.foldl (fun a p => a + outRateOf (s.berth t b) p) 0

/-- Ring slots of a cove that are neither taken nor reserved by a firing (R268). -/
def State.ringFree (s : State) (cove : Nat) : Nat :=
  let held := (upFrom (cove * 64) 64).foldl (fun a t =>
    (s.tileAt t).slots.foldl (fun b e => b + e.2.rings) a) 0
  256 - (s.coveAt cove).ring.length - held

/-- The reservations of one output port: its rate on its channel, or on every channel of a multicast set (R23, R48, R262). -/
def State.portResv (s : State) (t b p : Nat) : Option (List Resv) :=
  let n := outRateOf (s.berth t b) p
  if n = 0 then some []
  else
    let l := (s.chansFrom t b p).map fun c =>
      let prep := match s.chan c with
        | some x => (s.srcTiles x).findIdx fun u => u = t
        | none => 0
      let r : Resv := { chan := c, crep := s.pickReplica c prep, prep := prep, port := p, n := n }
      r
    if l.all fun r => decide (n ≤ s.credits r.chan r.crep r.prep) then some l else none

/-- All output reservations of a berth. -/
def State.resvFor (s : State) (t b : Nat) : Option (List Resv) :=
  (List.range 4).foldr (fun p a => match s.portResv t b p, a with
    | some l, some m => some (l ++ m)
    | _, _ => none) (some [])

/-- The window of a loop-carry berth is open: fewer than W tags stay live when the firing has consumed its inputs (R290; log 91). -/
def State.windowOpen (s : State) (t b : Nat) (ins : List (Nat × List Waiting)) : Bool :=
  let w := (s.berth t b).window.toNat
  let kept := (s.run t b).live.filter fun g => !(ins.any fun e => e.2.any fun x => decide (x.tok.itag = g))
  decide (w = 0) || decide (kept.length < w)

/-- A berth of a tile may be admitted, but for its inputs: no firing of it in progress, not stopped, not backing off, its
sources not gated (R264, R283, R327, R337). -/
def State.berthFree (s : State) (t b : Nat) : Bool :=
  let r := s.run t b
  let x := s.tileAt t
  !(x.slots.any fun e => decide (e.2.berth = b)) && !r.stopped
    && (match r.backoff with
        | some n => decide (n ≤ s.now)
        | none => true)
    && (decide (s.rayRate t b = 0) || !s.hd.gated.get false (s.tcfg t).part)

/-- What the firing of a ready berth would take: its inputs, reservations and ring slots (R23, R24, R290). -/
def State.ready (s : State) (t b : Nat) : Option (List (Nat × List Waiting) × List Resv × Nat) :=
  if (s.tcfg t).berths.any (fun e => decide (e.1 = b)) && s.berthFree t b then
    match s.inputsFor t b, s.resvFor t b with
    | some i, some r =>
      let n := s.rayRate t b
      if s.windowOpen t b i && (decide (n = 0) || decide (n ≤ s.ringFree (coveOfTile t))) then some (i, r, n) else none
    | _, _ => none
  else none

/-- A berth put into a list in rising order of its key. -/
def insertKey (key : Nat → Nat) (b : Nat) (l : List Nat) : List Nat :=
  match l with
  | [] => [b]
  | a :: r => if key b < key a then b :: a :: r else a :: insertKey key b r

/-- The order of R31: higher stage first, then round-robin by berth index from position `rr`. Whether stages have positions of their own
is left open: a tile has one for issue and one for admission, over all stages (log 121). -/
def State.berthOrder (s : State) (t rr : Nat) (l : List Nat) : List Nat :=
  let key (b : Nat) : Nat := (63 - (s.berth t b).stage.toNat) * 16 + (b + 16 - rr % 16) % 16
  l.foldl (fun a b => insertKey key b a) []

/-- The lowest free firing slot of a tile. -/
def State.freeSlot (s : State) (t : Nat) : Option Nat :=
  (List.range (slotCount (kindAt (t % 64)))).find? fun k => (s.firing t k).isNone

/-- The tile runs: its start token is taken, nothing stalls it, and it is no tile of a stopped agent (R265, R327, R334). -/
def State.tileRuns (s : State) (t : Nat) : Bool :=
  (s.tileAt t).started && !(s.tileAt t).gate && !(s.hd.agentDown && decide ((s.tcfg t).part = agentPart))

/-- An instruction has issued in this fc: admission, which comes before issue, is over (R264, R282). -/
def State.hasIssued (s : State) : Bool := s.tiles.any fun e => decide (e.2.lastIssue = some s.now)

/-- The berth that a tile admits in this fc, if any (R31, R264). -/
def State.admits (s : State) (t : Nat) : Option Nat :=
  if s.tileRuns t && !s.hasIssued && !decide ((s.tileAt t).lastAdmit = some s.now) && (s.freeSlot t).isSome then
    let bs := (s.tcfg t).berths.map fun e => e.1
    (s.berthOrder t (s.tileAt t).rrAdmit bs).find? fun b => (s.ready t b).isSome
  else none

/-! ## Issue (R31, R118, R351) -/

/-- An instruction of the firing may issue: the firing waits for nothing, and it was admitted in an earlier fc (R31). -/
def Firing.eligible (f : Firing) (now : Nat) : Bool :=
  decide (f.wait = .no) && f.job.isNone && decide (f.admitted ≤ now)

/-- The governor lets the tiles of a die issue in this fc (R351). -/
def State.gateOpen (s : State) (t : Nat) : Bool := decide (s.now % 16 < (s.hd.gov.get {} (dieOfTile t)).k)

/-! ## Fetching (R58, R65) -/

/-- What the chart says of a berth, as the loader's checks want it. -/
def State.wfCtx (s : State) (t b : Nat) : WfCtx :=
  let r := s.berth t b
  let ports (g : ChanCfg → Bool) : BitVec 4 :=
    BitVec.ofNat 4 ((List.range 4).foldl (fun a p =>
      if (s.chansFrom t b p).any (fun c => match s.chan c with
        | some x => g x
        | none => false) then a + 2 ^ p else a) 0)
  { kind := kindAt (t % 64), isTagged := s.isTagged t b, rates := r.rates, window := r.window, tbind := r.tbind
    gbind := r.gbind, mcast := ports fun c => decide (c.mset ≠ 0)
    tagged := ports fun c => match c.dst with
      | .berth u d _ => s.isTagged u d
      | _ => false
    grid := ports fun c => match c.dst with
      | .grid u => decide (coveOfTile u = coveOfTile t)
      | _ => false }

/-- The halfwords of a firing's routine from its pc on. -/
def State.codeAt (s : State) (t : Nat) (f : Firing) : List (BitVec 16) :=
  (((s.tcfg t).code.drop f.start).take f.len).drop f.pc

/-- The instruction that a firing issues: none past its routine's end, or the status for which the loader would have
rejected it (R28, R65). -/
def State.fetch (s : State) (t : Nat) (f : Firing) : Except LoadStatus (Option Instr) :=
  match s.codeAt t f with
  | [] => .ok none
  | hs =>
    match checkHead (s.wfCtx t f.berth) hs with
    | .error e => .error e
    | .ok (i, _) => .ok (some i)

/-- A halfword of the instruction at a firing's pc holds an uncorrectable soft error (R66). -/
def State.codeDamaged (s : State) (t : Nat) (f : Firing) : Bool :=
  match s.codeAt t f with
  | [] => false
  | h :: _ => (s.tileAt t).damaged (eccCode (f.start + f.pc)) (if h.getLsbD 15 then 2 else 1)

/-! ## Issue beside an access (R223) -/

/-- The register that a send takes its ITAG or STAG from, if any (R288). -/
def tagOps (top : BitVec 3) (timm : BitVec 8) : List Opnd :=
  if top = 2 then [.w (timm.setWidth 5)] else if top = 5 then [.sq] else []

/-- The v register `n` after one. -/
def vAfter (o : Opnd) (n : BitVec 4) : Opnd :=
  match o with
  | .v i => .v (i + n)
  | _ => o

/-- A pair of v registers by its number (R165, R166). -/
def vPair (n : BitVec 3) : List Opnd := [.v (n.setWidth 4 <<< 1), .v (n.setWidth 4 <<< 1 ||| 1)]

/-- The operands of an instruction that may issue while an access of its own firing is under way: it is no memory instruction, commits
nothing, and waits for nothing else. Every other instruction waits for the last reply (R223, R356; log 103). -/
def besideOps (i : Instr) : Option (List Opnd) :=
  match i with
  | .br _ _ _ | .loopi _ _ | .plog _ _ _ _ | .mlog _ _ _ _ | .mshp _ _ _ _ _ | .tzero _ | .ttr _ _ _ _ | .mskr _ _ _ |
    .mmq2 _ _ _ | .mmq4 _ _ _ | .mmq7 _ _ _ | .mmi8 _ _ _ | .mmh _ _ _ | .mmb _ _ _ | .sca _ _ _ | .scai _ _ _ _ _ |
    .aclr _ _ | .ajoin _ _ | .acpy _ _ | .aout _ _ _ _ | .cBr _ _ _ | .cLoopi _ _ | .nop | .cNop => some []
  | .loop c _ => some [c]
  | .csrr d _ | .trap d => some [d]
  | .csrw d n => if n = 0x106 then none else some [d]
  | .rays _ a b => some [a, b, .sq]
  | .fglk _ a b => some [a, vAfter a 1, vAfter a 2, b]
  | .edge d a b _ => some (vPair d ++ [a, b])
  | .permit a b | .eqt _ a b | .switch a b | .pcmpEq _ a b | .pcmpNe _ a b | .pcmpLt _ a b | .pcmpLtu _ a b | .pfcmpEq _ a b | .pfcmpLt _ a b |
    .pfcmpLe _ a b | .pfcmpUn _ a b | .mcmpEq _ a b _ | .mcmpNe _ a b _ | .mcmpLt _ a b _ | .mcmpLtu _ a b _ |
    .mfcmpEq _ a b _ | .mfcmpLt _ a b _ | .mfcmpLe _ a b _ | .mfcmpUn _ a b _ => some [a, b]
  | .mpop d _ | .mfirst d _ | .li d _ | .lih d _ => some [d]
  | .add d a b | .sub d a b | .mul d a b | .mulh d a b | .mulhu d a b | .div d a b | .divu d a b | .rem d a b |
    .remu d a b | .and d a b | .or d a b | .xor d a b | .shl d a b | .shr d a b | .sra d a b | .min d a b |
    .max d a b | .bfx d a b | .bfxu d a b | .bfi d a b | .sel d a b | .agen d a b | .agen2 d a b | .vbcast d a b _ |
    .vext d a b | .vins d a b | .vperm d a b _ | .vrotl d a b _ | .vadd d a b _ | .vsub d a b _ | .vmul d a b _ |
    .vmulh d a b _ | .vmad d a b _ | .vand d a b _ | .vor d a b _ | .vxor d a b _ | .vshl d a b _ | .vshr d a b _ |
    .vsra d a b _ | .vmin d a b _ | .vmax d a b _ | .vsel d a b _ | .vadds d a b _ | .vsubs d a b _ | .vpack d a b _ |
    .vunpk d a b _ | .vfadd d a b _ | .vfsub d a b _ | .vfmul d a b _ | .vfma d a b _ | .vfmin d a b _ |
    .vfmax d a b _ | .vfdiv d a b _ | .vfrnd d a b _ | .vfclmp d a b _ | .vflrp d a b _ | .vhmul d a b _ |
    .vhfma d a b _ | .vbfma d a b _ | .fadd d a b | .fmul d a b | .ffma d a b | .cvtF2h d a b _ | .cvtF2b d a b _ |
    .emrd d a b | .hfwd d a b | .hthr d a b | .hpack d a b | .hunpk d a b | .htag d a b | .hsett d a b => some [d, a, b]
  | .addi d a _ | .shli d a _ | .shri d a _ | .srai d a _ | .clz d a | .popc d a | .brev d a | .mov d a _ |
    .vredAdd d a _ | .vredMin d a _ | .vredMax d a _ | .vscanAdd d a _ | .tget d a _ _ | .tset d a _ | .vclz d a _ |
    .vpopc d a _ | .vfabs d a _ | .vfneg d a _ | .vfrcp d a _ | .vfrsq d a _ | .vfsqrt d a _ | .vfexp2 d a _ |
    .vflog2 d a _ | .vfsin d a _ | .vftanh d a _ | .vfsig d a _ | .cvtF2i d a _ | .cvtI2f d a _ | .hinv d a |
    .hqry d a => some [d, a]
  | .cvtH2f d a n _ | .cvtB2f d a n _ | .cvtF2q d a n | .cvtQ2f d a n => some [d, a, n]
  | .send p s t m _ | .sendm p s t m _ | .steer p s t m _ | .loopc p s t m _ => some ([.o p, s] ++ tagOps t m)
  | .sende p t m _ | .merge p _ t m _ => some (.o p :: tagOps t m)
  | .cSend p y => some [.o p, .w y]
  | .attr d a b _ => some ([d, b] ++ vPair a)
  | .cMov x y | .cAdd x y | .cSub x y | .cAnd x y | .cOr x y | .cXor x y => some [.w x, .w y]
  | .cLi x _ | .cAddi x _ | .cShli x _ | .cShri x _ | .cTget x _ => some [.w x]
  | .cVfadd x y | .cVfmul x y | .cVfma x y | .cVadd x y => some [.v x, .v y]
  | _ => none

/-- The predicates that such an instruction reads or writes. -/
def besidePreds (i : Instr) : List Nat :=
  match i with
  | .br p _ _ | .cBr p _ _ | .eqt p _ _ | .pcmpEq p _ _ | .pcmpNe p _ _ | .pcmpLt p _ _ | .pcmpLtu p _ _ | .pfcmpEq p _ _ |
    .pfcmpLt p _ _ | .pfcmpLe p _ _ | .pfcmpUn p _ _ => [p.toNat]
  | .plog d a b _ => [d.toNat, a.toNat, b.toNat]
  | _ => []

/-- The lane masks that such an instruction reads or writes. -/
def besideMasks (i : Instr) : List Nat :=
  match i with
  | .mcmpEq d _ _ q | .mcmpNe d _ _ q | .mcmpLt d _ _ q | .mcmpLtu d _ _ q | .mfcmpEq d _ _ q | .mfcmpLt d _ _ q |
    .mfcmpLe d _ _ q | .mfcmpUn d _ _ q => [d.toNat, q.toNat]
  | .mlog d a b _ => [d.toNat, a.toNat, b.toNat]
  | .mpop _ q | .mfirst _ q | .mov _ _ q | .edge _ _ _ q | .attr _ _ _ q | .vredAdd _ _ q | .vredMin _ _ q | .vredMax _ _ q |
    .vscanAdd _ _ q | .vclz _ _ q | .vpopc _ _ q | .vfabs _ _ q | .vfneg _ _ q | .vfrcp _ _ q | .vfrsq _ _ q |
    .vfsqrt _ _ q | .vfexp2 _ _ q | .vflog2 _ _ q | .vfsin _ _ q | .vftanh _ _ q | .vfsig _ _ q => [q.toNat]
  | .vbcast _ _ _ q | .vperm _ _ _ q | .vrotl _ _ _ q | .vadd _ _ _ q | .vsub _ _ _ q | .vmul _ _ _ q | .vmulh _ _ _ q |
    .vmad _ _ _ q | .vand _ _ _ q | .vor _ _ _ q | .vxor _ _ _ q | .vshl _ _ _ q | .vshr _ _ _ q | .vsra _ _ _ q |
    .vmin _ _ _ q | .vmax _ _ _ q | .vsel _ _ _ q | .vfadd _ _ _ q | .vfsub _ _ _ q | .vfmul _ _ _ q | .vfma _ _ _ q |
    .vfmin _ _ _ q | .vfmax _ _ _ q | .vfdiv _ _ _ q | .vfrnd _ _ _ q | .vfclmp _ _ _ q | .vflrp _ _ _ q |
    .vhmul _ _ _ q | .vhfma _ _ _ q | .vbfma _ _ _ q => [q.toNat]
  | _ => []

end Sys2Proof.Machine

namespace Sys2Proof

/-- What the replies of an access will write, or still read: registers, a predicate and a lane mask (p0 and m0 for none). -/
structure Machine.ReplyRegs where
  ops : List Opnd := []
  pred : Nat := 0
  mask : Nat := 0
  deriving DecidableEq, Repr

/-- What the replies of an access will write or read, for an access beside which its firing may issue; none where the firing waits for
the reply in any case (R223, R296; log 103). -/
def Job.dest (j : Job) : Option Machine.ReplyRegs :=
  match j.cont with
  | .none | .flags _ | .aperture _ _ _ => some {}
  | .scalar d _ _ | .lanes d _ | .gather d _ _ | .bcast d _ | .old d | .oldFlags d | .hld d _ _ _ | .binapp d _ | .binel d _ =>
    some { ops := [d] }
  | .seqn d _ => some { ops := [d, .sq] }
  | .sltst p _ | .tspawn p _ _ _ => some { pred := p.toNat }
  | .ztst q _ _ _ | .ztstMask q _ => some { mask := q.toNat }
  | .blnd d q _ => some { ops := [d, Machine.vAfter d 1, .sq], mask := q.toNat }
  | .occq _ _ => some { ops := [.sq] }
  | .iscfg _ _ => none

/-- Requests of the access are on their way: none is held by a missing translation or waits for room in the berm (R226, R228). -/
def Job.onWay (j : Job) : Bool :=
  match j.stage with
  | .walk | .home | .pend _ | .fill _ | .reply => true
  | _ => false

end Sys2Proof

namespace Sys2Proof.Machine

/-- An instruction touches something that the replies of an access will write or still read. -/
def ReplyRegs.meets (r : ReplyRegs) (i : Instr) (l : List Opnd) : Bool :=
  l.any (fun o => r.ops.contains o) || (decide (r.pred ≠ 0) && (besidePreds i).contains r.pred)
    || (decide (r.mask ≠ 0) && (besideMasks i).contains r.mask)

/-- The next instruction of a firing may issue while the firing's access is under way: it touches nothing that the replies will write
(R223). -/
def State.beside (s : State) (t : Nat) (f : Firing) : Bool :=
  match f.job with
  | none => false
  | some j =>
    decide (f.wait = .access) && j.onWay &&
      match j.dest, s.fetch t f with
      | some d, .ok (some i) =>
        match besideOps i with
        | some l => !d.meets i l
        | none => false
      | _, _ => false

/-- The slot that issues on a tile in this fc, if any (R31, R223). -/
def State.issues (s : State) (t : Nat) : Option Nat :=
  let x := s.tileAt t
  if s.tileRuns t && !x.restoring && !decide (x.lastIssue = some s.now) && s.gateOpen t then
    let l := x.slots.filter fun e => e.2.eligible s.now || s.beside t e.2
    let bs := s.berthOrder t x.rrIssue (l.map fun e => e.2.berth)
    match bs with
    | [] => none
    | b :: _ => (l.find? fun e => decide (e.2.berth = b)).map fun e => e.1
  else none

/-- Whether the next instruction of a firing ends it, or acts on the cove's task table or events. In one fc the ends come
first and those come last, as R355 orders them. -/
def State.issueRank (s : State) (t k : Nat) : Nat :=
  match s.firing t k with
  | none => 1
  | some f =>
    match s.fetch t f with
    | .ok (some .endFiring) | .ok (some .endfFiring) | .ok (some .cEnd) => 0
    | .ok (some (.tdec _ _)) | .ok (some (.evset _ _ _)) | .ok (some (.evclr _ _ _)) => 2
    | _ => 1

/-! ## The order of the steps -/

/-- What the machine does next. -/
inductive Choice where
  | event (i : Instr) (s : State)
  | issue (t k : Nat)
  | tick

/-- The tiles and slots that have still to issue in this fc, with their ranks. -/
def State.issuers (s : State) : List (Nat × Nat × Nat) :=
  s.tiles.filterMap fun e => (s.issues e.1).map fun k => (s.issueRank e.1 k, e.1, k)

/-- A cove whose task unit has changes of this fc to apply (R355). -/
def State.nextDue (s : State) : Option Nat := (s.coves.find? fun e => !e.2.due.isEmpty).map fun e => e.1

/-- What issues next: the ends, then what the task units apply, then the other instructions, and last those that act on the
task table and the events, each by tile and slot (R355). -/
def State.chooseIssue (s : State) : Choice :=
  let l := s.issuers
  let at_ (r : Nat) : Option (Nat × Nat × Nat) := l.find? fun x => decide (x.1 = r)
  match at_ 0, s.nextDue, at_ 1, at_ 2 with
  | some (_, t, k), _, _, _ => .issue t k
  | none, some c, _, _ => .event .taskReady { s with ev := { a := c, c := 1 } }
  | none, none, some (_, t, k), _ => .issue t k
  | none, none, none, some (_, t, k) => .issue t k
  | none, none, none, none => .tick

/-- A berth whose back-off has run out (R283). -/
def State.nextBackoff (s : State) : Option (Nat × Nat) :=
  (s.tiles.flatMap fun e => e.2.runs.filterMap fun r =>
    match r.2.backoff with
    | some n => if n ≤ s.now then some (e.1, r.1) else none
    | none => none).head?

/-- What the tiles do in this fc once everything that arrives has landed (R264): back-offs end, berths are admitted,
instructions issue; then the fc is over. -/
def State.chooseTile (s : State) : Choice :=
  match s.nextBackoff with
  | some (t, b) => .event .yieldBackoffExpiry { s with ev := { a := t, b := b } }
  | none =>
    match (s.tiles.map fun e => e.1).find? fun t => (s.admits t).isSome with
    | some t => .event .firingAdmission { s with ev := { a := t } }
    | none => s.chooseIssue

/-- What happens next: what the outside world sent, then the steps that are due, then the tiles (log 1). -/
def State.choose (s : State) : Choice :=
  match s.inputs with
  | (i, e) :: r => .event i { s with inputs := r, ev := e }
  | [] =>
    if s.hd.frozenAll then .tick
    else
      match s.agenda with
      | (n, i, e) :: r => if n ≤ s.now then .event i { s with agenda := r, ev := e } else s.chooseTile
      | [] => s.chooseTile

/-- The step `i` goes before every step that is due. -/
def State.first (s : State) (i : Instr) (e : EvArg) : State := { s with agenda := (s.now, i, e) :: s.agenda }

/-- The steps that recur fall due in fc `n`: a roll-up every 2^16 fc (R344), tide samples every 4,096 (R45), governor
windows every 1,024 (R351), and written tide tables where c = 0 (R275). -/
def State.periodic (s : State) (n : Nat) : State :=
  let s1 := if n % 256 = 0 then s.hd.tideNew.foldl (fun a u => a.first .tideTableSwitch { a := u }) s else s
  let s2 := if n % 1024 = 0 then (List.range 8).foldl (fun a d => a.first .governorWindow { a := d }) s1 else s1
  let s3 := if n % 4096 = 0 then (List.range 8).foldl (fun a d => a.atFc n .tideSample { a := d }) s2 else s2
  if n % 65536 = 0 then s3.first .rollup {} else s3

/-- The clock advances by one fc. A timestamp above 2^46 makes the harbour rebase them all (R221). While a device reset or a thermal shutdown holds the dies, nothing recurs. -/
def State.tickClock (s : State) : State :=
  let s1 := { s with now := s.now + 1 }
  if s.hd.frozenAll then s1
  else
    let s2 := s1.periodic (s.now + 1)
    if 2 ^ 46 < s2.maxTs then s2.first .timestampRebase {} else s2

/-- The firing in slot `k` of tile `t` takes the issue of this fc; the round-robin position passes its berth (R31). -/
def State.beginIssue (s : State) (t k : Nat) : State :=
  let b := match s.firing t k with
    | some f => f.berth
    | none => 0
  let s1 := s.modTile t fun x => { x with lastIssue := some s.now, rrIssue := (b + 1) % 16 }
  { s1 with tile := t, slot := k }

/-- A firing whose pc has passed its routine's last halfword raises F_BOUNDS with the routine's start (R28). -/
def State.pastEnd (s : State) (t k : Nat) (f : Firing) : State :=
  s.takeFault t k f (trapBounds (BitVec.ofNat 32 f.start))

/-- A soft error in the instruction at the pc is F_ECC with the routine's start (R66). -/
def State.damagedFetch (s : State) (t k : Nat) (f : Firing) : State :=
  s.takeFault t k f { code := 0x0D, tval := BitVec.ofNat 32 f.start }

/-! ## A program of one word -/

/-- The tile on which the model runs a single instruction: an X-tile for those that only X-tiles have, else a C-tile. -/
def soloTile (i : Option Instr) : Nat :=
  match i with
  | some j => if j.kinds = .x then 18 else 1
  | none => 1

/-- The bindings of the berth that runs a single instruction: storers for TST, loaders otherwise (R311). -/
def soloBind (i : Option Instr) : BitVec 20 :=
  match i with
  | some (.tstTile _ _) => 0xC6318
  | some (.tstAcc _ _ _) => 0xC6318
  | _ => 0x84210

/-- The channels of the berth that runs a single instruction, one on each port: multicast for SENDM, to a G-tile for FGLK,
back to the berth otherwise. -/
def soloChans (i : Option Instr) (t : Nat) : Map ChanCfg :=
  (List.range 4).map fun p =>
    (p, { src := .berth t 0 p, dst := match i with
            | some (.fglk _ _ _) => .grid 0
            | _ => .berth t 0 p
          mset := match i with
            | some (.sendm _ _ _ _ _) => 1
            | _ => 0 })

/-- The configuration of a tile whose one routine holds the halfwords `hs`. -/
def soloCfg (i : Option Instr) (t : Nat) (hs : List (BitVec 16)) : TileCfg :=
  let r : BerthRec := { frame := if t = 1 then 256 else 0, window := 64, rates := 0x924249, tbind := soloBind i, gbind := 0x2040 }
  { used := true, code := hs, berths := [(0, r)], codeBytes := 2 * hs.length
    rtab := [(0, { val := true, len := BitVec.ofNat 16 hs.length })] }

/-- The state in which a tile of cove 0 of die 0 is about to issue a single instruction as the first of a firing. -/
def State.solo (s : State) (i : Option Instr) (hs : List (BitVec 16)) : State :=
  let t := soloTile i
  let x : Tile :=
    { started := true, slots := [(0, { len := hs.length, isTagged := decide (t = 1) })]
      frames := if t = 1 then [(0, { size := 256, off := 64, bytes := frameBytes 256 })] else [] }
  let c := { s.cfg with tiles := s.cfg.tiles.put t (soloCfg i t hs), chans := soloChans i t }
  let h := { s.hd with frozenAll := false, gov := s.hd.gov.drop 0 }
  { s with cfg := c, tiles := [(t, x)], hd := h, inputs := [], agenda := s.agenda.filter fun e => decide (s.now < e.1) }

end Sys2Proof.Machine
end

