-- ==== Sys2Proof/Machine/Mesh.lean ====
section
/-! DEFINITION. Tokens that arrive and firings that are admitted: arrival, operand places and timeouts (R34 to R38, R263),
credits (R261, R262), control tokens (R259, R265), admission (R24 to R26, R264, R328), lanes and links (R278, R279, R370). -/

namespace Sys2Proof.Machine

/-! ## Arrival (R34, R38, R263) -/

/-- A YIELD back-off of a berth ends when something lands for it (R283). -/
def State.arrived (s : State) (t b : Nat) : State := if (s.run t b).backoff.isSome then s.unbackoff t b else s

/-- A token lands at its consumer: in the FIFO of its channel, from which an operand of a tagged actor moves on (R34, R263).
A request of a G-tile waits for its other tokens (R302). -/
def State.land (s : State) (c : ChanCfg) (fl : Flight) : State :=
  let t := fl.tok.dest
  let (id, s1) := s.fresh
  let w : Waiting :=
    { chan := fl.chan, crep := fl.crep, tok := fl.tok, since := s.now, ready := s.now + fl.tok.nflit.toNat + 1, id := id }
  match c.dst with
  | .berth _ b p =>
    let s2 := (s1.modTile t fun x => { x with wait := x.wait ++ [{ w with berth := b, port := p }] }).arrived t b
    if s2.isTagged t b then (s2.atFc (s.now + 65536) .poolSlotTimeout { a := t, b := id }).placeOperands t else s2
  | .grid _ =>
    (s1.modTile t fun x => { x with wait := x.wait ++ [w] }).after (fl.tok.nflit.toNat + 1) .gridRequestTake { a := t }
  | .remote port => s.modHd fun h => { h with out := h.out ++ [.linkToken port fl.chan fl.tok] }
  | _ => s1

/-- A ray between dies reaches the next lane of its way, or its new ring slot, where it goes on (R301; log 113). What is no ray is of
a chart that has gone. -/
def State.arriveRay (s : State) (id : Nat) (fl : Flight) : State :=
  match fl.ray, fl.legs with
  | some r, l :: rest =>
    (s.modNet fun w => { w with flights := w.flights.put id { fl with legs := rest } }).laneJoin l r.vc id
  | some r, [] => (s.modNet fun w => { w with flights := w.flights.drop id }).after 0 .rayNodeVisit { a := r.cove, b := r.slot }
  | none, _ => s.modNet fun w => { w with flights := w.flights.drop id }

/-- A token's header lands, or the token reaches the next lane of its route. One whose generation is stale is discarded and
counted, and its place is free again (R38). Tokens of the agent's chart are of no VF (R384). -/
def State.arrive (s : State) (id : Nat) : State :=
  match s.net.flights.look id with
  | none => s
  | some fl =>
    match s.chan fl.chan with
    | none => s.arriveRay id fl
    | some c =>
      match fl.legs with
      | l :: rest =>
        (s.modNet fun w => { w with flights := w.flights.put id { fl with legs := rest } }).laneJoin l c.vc id
      | [] =>
        let s1 := s.modNet fun w => { w with flights := w.flights.drop id }
        let v := fl.tok.ctx.toNat
        if c.part ≠ agentPart ∧ fl.tok.gen ≠ (s.vf v).gen then (s1.countDrop v 1).freeCredit fl.tok.dest fl.chan fl.crep
        else s1.land c fl

/-- A token of 76 + 512 bits, its header in the low 128, comes in over the Oroti link port of a channel whose producer is on
another device (R51, R278): it goes on along the rest of its route, and each flit's hops and lanes on this device are charged to
its context (R281). A token on an untrained port is not there (R370). -/
def State.linkIn (s : State) (chan h pay : Nat) : State :=
  match s.chan chan with
  | none => s
  | some c =>
    match c.src, c.route with
    | .remote port, l :: rest =>
      if !(s.net.ports.get {} port).trained then s
      else
        let k := { Token.ofHeader (BitVec.ofNat 128 h) with pay := BitVec.ofNat 512 pay }
        let tiles := s.dstTiles c
        let crep := tiles.findIdx fun t => decide (t = k.dest)
        let crep := if crep < tiles.length then crep else 0
        let dt := tiles.getD crep 0
        let due := s.behind chan crep (rest.foldl (fun n e => n + laneCross e.lane) (s.now + routeHops (some l.inn) rest (some dt)))
        let (id, s1) := s.fresh
        let legs := rest.map fun e => e.lane
        let s2 := s1.modNet fun w =>
          { w with flights := w.flights.put id { chan := chan, crep := crep, tok := { k with dest := dt }, header := due, legs := legs.drop 1 } }
        let way := routeHops (some l.inn) rest (some dt) + rest.length
        let acct := if c.part = agentPart then 128 else k.ctx.toNat
        let s3 := (s2.charge dt acct 60 ((1 + k.nflit.toNat) * way)).markLink l.lane acct
        match legs with
        | e :: _ => s3.laneJoin e c.vc id
        | [] => s3.atFc due .tokenArrival { a := id }
    | _, _ => s

/-- TOKEN_ARRIVAL (R263): the token `ev.a`; with `ev.l` the header and payload of a token that comes in over an Oroti link port
on the channel `ev.a` (R51). -/
def execTokenArrival (s : State) : Host.Outcome State Fault Refusal :=
  match s.ev.l with
  | [h, pay] => .next (s.linkIn s.ev.a h pay)
  | _ => .next (s.arrive s.ev.a)

/-- OPERAND_RETRY (R34): tile `ev.a`. -/
def execOperandRetry (s : State) : Host.Outcome State Fault Refusal := .next (s.placeOperands s.ev.a)

/-- The record of an operand that stayed in its pool slot without a frame (R35). -/
def poolRecord (t : Nat) (w : Waiting) : FaultRec :=
  FaultRec.onTile
    { code := 0x05, src := 7, vf := w.tok.ctx, gen := w.tok.gen, berth := BitVec.ofNat 4 w.berth
      tval := w.tok.itag.setWidth 32, itag := w.tok.itag, stag := w.tok.stag
      ttok := w.tok.cls.setWidth 23 ||| (w.tok.dport.setWidth 23 <<< 8) ||| (w.tok.itag.setWidth 23 <<< 11)
      lts := w.tok.lts } t

/-- An operand that has stood in its pool slot for 2^16 fc is discarded when its frame is not allocated (R35). While the
frame is allocated it stays, and is looked at again. -/
def State.poolTimeout (s : State) (t id : Nat) : State :=
  match (s.tileAt t).wait.find? fun w => decide (w.id = id) with
  | none => s
  | some w =>
    if w.place ≠ .pool ∨ w.bound then s
    else if ((s.tileAt t).frameOf w.berth w.tok.itag).isSome then s.after 1 .poolSlotTimeout { a := t, b := id }
    else (s.consume t w).postRecord (s.tcfg t).part (poolRecord t w) none

/-- POOL_SLOT_TIMEOUT (R35): operand `ev.b` of tile `ev.a`. -/
def execPoolSlotTimeout (s : State) : Host.Outcome State Fault Refusal := .next (s.poolTimeout s.ev.a s.ev.b)

/-- A credit of channel `chan` towards consumer replica `crep` reaches producer replica `prep` (R261); units that wait for one
go on. One for a replica that has been removed is handed out again (R262). -/
def State.creditBack (s : State) (chan crep prep : Nat) : State :=
  match s.chan chan with
  | none => s
  | some c =>
    if (s.srcTiles c).getD prep gapTile = gapTile then s.freeCredit ((s.dstTiles c).getD crep 0) chan crep
    else
    let s1 := s.addCredits chan crep prep 1
    match c.src with
    | .berth _ b _ => s1.arrived ((s.srcTiles c).getD prep 0) b
    | .task cove => s1.after 0 .computeTaskDispatch { a := cove }
    | .ingress => s1.after 0 .ingressTokenDelivery { a := (s.part c.part).occ }
    | .rollup => s1.after 0 .rollupTokenSend {}
    | .fault rank =>
      let s2 := s1.after 0 .faultEdgeSend { a := c.part, b := rank }
      if c.part = agentPart then s2.after 0 .faultEdgeSend { a := agentPart, b := 6 } else s2
    | .grid _ => s1
    | .remote port => s.modHd fun h => { h with out := h.out ++ [.linkCredit port chan] }

/-- `n` credits that a firing reserved and did not use are its producer replica's again (R261). -/
def State.creditUnused (s : State) (chan crep prep n : Nat) : State :=
  match s.chan chan with
  | none => s
  | some c =>
    if (s.srcTiles c).getD prep gapTile = gapTile then (List.range n).foldl (fun (a : State) _ => a.creditBack chan crep prep) s
    else s.addCredits chan crep prep n

/-- CREDIT_RETURN (R261): channel `ev.a`, consumer replica `ev.b`, producer replica `ev.c`; with `ev.l` a number of credits
that were reserved and not used, else one that the consumer freed. -/
def execCreditReturn (s : State) : Host.Outcome State Fault Refusal :=
  match s.ev.l with
  | n :: _ => .next (s.creditUnused s.ev.a s.ev.b s.ev.c n)
  | [] => .next (s.creditBack s.ev.a s.ev.b s.ev.c)

/-- A tile's controller takes the oldest token of its control queue. The start token lets the tile look at its berths from
the next fc on (R259, R265), and its timestamp orders their firings after what the chart before did (R219). -/
def State.takeControl (s : State) (t : Nat) : State :=
  match (s.tileAt t).ctlq with
  | [] => s
  | ts :: rest =>
    let s0 := s.modTile t fun x => { x with ctlq := rest, started := true, lastAdmit := some s.now }
    let s1 := (s.tcfg t).berths.foldl (fun (a : State) e =>
      a.modRun t e.1 fun r => { r with lastPts := Nat.max r.lastPts ts }) s0
    if rest = [] then s1 else s1.after 1 .controlTokenTake { a := t }

/-- CONTROL_TOKEN_TAKE (R259, R265): tile `ev.a`. -/
def execControlTokenTake (s : State) : Host.Outcome State Fault Refusal := .next (s.takeControl s.ev.a)

/-! ## Fault edges (R327) -/

/-- The fault edge of the agent's chart on which its intake delivers: that of the lowest rank (R327; log 106). -/
def State.intakeEdge (s : State) : Option Nat := (List.range 6).findSome? fun n => s.faultEdge agentPart n

/-- The oldest record that waits for a fault edge leaves as a token when the edge has a free credit. Its LTS is above the w
of the record's PROD write. Rank 6 of the agent's partition is its fault intake. -/
def State.faultSend (s : State) (part rank : Nat) : State :=
  let intake := decide (part = agentPart) && decide (rank = 6)
  match (if intake then s.hd.fintake else (s.hd.faults.get {} part).toEdge.get [] rank),
      (if intake then s.intakeEdge else s.faultEdge part rank) with
  | r :: rest, some ch =>
    if s.credits ch 0 0 = 0 then s
    else
      let tok : Token :=
        { cls := match s.chan ch with
            | some c => c.cls
            | none => 0
          ctx := r.vf, itag := r.itag, stag := r.stag, nflit := 2, gen := (s.vf r.vf.toNat).gen, lts := r.prod + 1
          pay := BitVec.ofNat 512 (recordNat r), handled := some r }
      let s1 := if intake then s.modHd fun h => { h with fintake := rest }
        else s.modFault part fun u => { u with toEdge := u.toEdge.set [] rank rest }
      let s2 := (s1.takeCredits ch 0 0 1).sendToken 0 ch 0 tok
      if rest = [] then s2 else s2.after 1 .faultEdgeSend { a := part, b := rank }
  | _, _ => s

/-- FAULT_EDGE_SEND (R327): the edge of rank `ev.b` of partition `ev.a`. -/
def execFaultEdgeSend (s : State) : Host.Outcome State Fault Refusal := .next (s.faultSend s.ev.a s.ev.b)

/-! ## Admission (R24 to R26, R264, R328, R358) -/

/-- An operand as its firing reads it: one in a spill area as the frame now holds it (R33). -/
def Tile.operand (x : Tile) (w : Waiting) : Token :=
  match w.place with
  | .spill =>
    match x.frameOf w.berth w.tok.itag with
    | some k => (x.frames.get {} k).unspilled w.port w.tok
    | none => w.tok
  | _ => w.tok

/-- The routine that a berth runs for a trigger class: the entry of that berth and class, else the default routine (R25). -/
def TileCfg.routine (c : TileCfg) (b : Nat) (cls : BitVec 8) : RoutineEnt :=
  match c.rtab.find? fun e => e.2.val && decide (e.2.berth.toNat = b) && decide (e.2.cls = cls) with
  | some e => e.2
  | none => c.rtab.get {} (c.berths.get {} b).defr.toNat

/-- TSTAT at firing start (R112, R328). -/
def startTstat (rank : BitVec 3) (h : Option FaultRec) : W32 :=
  match h with
  | some r => rank.setWidth 32 ||| 8 ||| (r.code.setWidth 32 <<< 8)
  | none => rank.setWidth 32

/-- A firing as it enters its slot (R25, R26, R99, R101). An actor without an input port has no trigger token, and the manual does not say
which class, tags and context its firing takes: class 0, tags 0 and the VF of its tile (log 120). -/
def State.newFiring (s : State) (t b : Nat) (ins : List (Nat × List Token)) (rs : List Resv) (rings : Nat) : Firing :=
  let r := s.berth t b
  let all := ins.flatMap fun e => e.2
  let trig := all.headD { ctx := BitVec.ofNat 7 (s.tcfg t).vf }
  let e := (s.tcfg t).routine b trig.cls
  { berth := b, start := e.start.toNat, len := e.len.toNat, stage := r.stage.toNat, isTagged := s.isTagged t b
    admitted := s.now + 1, sq := trig.stag, itag := trig.itag, stag := trig.stag, cls := trig.cls, dport := trig.dport
    cx := trig.ctx, gen := (s.vf trig.ctx.toNat).gen
    fp := if s.isTagged t b then ((s.tileAt t).frameOf b trig.itag).getD 0 else 0
    pts := all.foldl (fun a k => Nat.max a k.lts) (s.run t b).lastPts
    tstat := startTstat r.rank trig.handled, handled := trig.handled, bound := ins, resv := rs, rings := rings
    err := all.any fun k => k.err }

/-- The berth that R31 chooses on a tile is admitted (R25, R26, R264): its reservations are taken, its inputs bound, and
EXEC of its context and stage rises (R358). -/
def State.admitNext (s : State) (t : Nat) : State :=
  match s.admits t, s.freeSlot t with
  | some b, some k =>
    match s.ready t b with
    | none => s
    | some (ins, rs, rings) =>
      let x := s.tileAt t
      let toks := ins.map fun e => (e.1, e.2.map x.operand)
      let ids := ins.flatMap fun e => e.2.map fun w => w.id
      let f := s.newFiring t b toks rs rings
      let s1 := rs.foldl (fun a r => a.takeCredits r.chan r.crep r.prep r.n) s
      let s2 := s1.modTile t fun y =>
        { y with
          wait := y.wait.map fun w => if ids.contains w.id then { w with bound := true } else w
          slots := y.slots.put k f
          lastAdmit := some s.now
          rrAdmit := (b + 1) % 16 }
      let key := execKey (dieOfTile t) f.cx.toNat f.stage
      (s2.modRun t b fun r => { r with backoff := none }).modHd fun h =>
        { h with exec := h.exec.set 0 key (h.exec.get 0 key + 1) }
  | _, _ => s

/-- FIRING_ADMISSION (R25): tile `ev.a`. -/
def execFiringAdmission (s : State) : Host.Outcome State Fault Refusal := .next (s.admitNext s.ev.a)

/-- YIELD_BACKOFF_EXPIRY (R283): berth `ev.b` of tile `ev.a` may be admitted again. -/
def execYieldBackoffExpiry (s : State) : Host.Outcome State Fault Refusal :=
  .next (s.modRun s.ev.a s.ev.b fun r => { r with backoff := none })

/-! ## Lanes (R278, R279) -/

/-- The Oroti link port of a lane. -/
def lanePort (l : Nat) : Option Nat := if l < 64 then none else some ((l - 64) / 2)

/-- A lane's port is trained (R370). -/
def State.laneUp (s : State) (l : Nat) : Bool :=
  match lanePort l with
  | some p => (s.net.ports.get {} p).trained
  | none => true

/-- One token crosses a lane. -/
def State.crossToken (s : State) (l id : Nat) : State :=
  match s.net.flights.look id with
  | none => s
  | some fl =>
    let soon := s.now + laneCross l
    let acct := if fl.chan / 4096 = agentPart ∨ fl.chan = rayChan agentPart then 128 else fl.tok.ctx.toNat
    (s.markLink l acct).atFc (if fl.legs = [] then Nat.max soon fl.header else soon) .tokenArrival { a := id }

/-- A lane sends up to 4 tokens that are ready on each virtual channel, in ascending index, and then its round marker on every virtual
channel (R279). -/
def State.sendRound (s : State) (l : Nat) : State :=
  let x := s.tlane l
  if !s.laneUp l then s.after 1 .roundMarkerSend { a := l }
  else if x.sentMarker then s
  else
    let go (v : Nat) : List Nat := ((x.vcs.get [] v).filter fun id => !s.laneHeld id).take 4
    let s1 := (List.range 8).foldl (fun a v => (go v).foldl (fun b id => b.crossToken l id) a) s
    let used := (List.range 8).filter fun v => !(go v).isEmpty
    let s2 := s1.modLane l fun y =>
      { y with
        vcs := (List.range 8).foldl (fun m v => m.set [] v ((m.get [] v).filter fun id => !(go v).contains id)) y.vcs
        sentMarker := true
        owing := y.owing ++ used.map fun v => 8 * y.round + v }
    (s2.after (laneCross l) .laneRoundAdvance { a := l, b := 1, c := x.round }).after 1 .laneRoundAdvance { a := l }

/-- ROUND_MARKER_SEND (R279): lane `ev.a`. -/
def execRoundMarkerSend (s : State) : Host.Outcome State Fault Refusal := .next (s.sendRound s.ev.a)

/-- A lane that stands in a round whose marker another lane still owes it waits for that lane. -/
def State.laneWaited (s : State) (l n : Nat) : Bool :=
  s.net.lanes.any fun e => e.2.sentMarker && e.2.feeds.contains l && decide (n ≤ e.2.round)

/-- The marker of round `n` of a lane has crossed it: its virtual channels owe no marker up to that round, and the lanes that
it feeds may advance. -/
def State.markerCrossed (s : State) (l n : Nat) : State :=
  let s1 := s.modLane l fun y => { y with crossed := n + 1, owing := y.owing.filter fun o => decide (n < o / 8) }
  (s1.net.lanes.filter fun e => e.2.sentMarker && e.2.feeds.contains l).foldl (fun a e =>
    a.after 0 .laneRoundAdvance { a := e.1 }) s1

/-- A lane enters its next round once the round's marker of every lane that feeds it has arrived (R279). -/
def State.advanceLane (s : State) (l : Nat) : State :=
  let x := s.tlane l
  if !x.sentMarker then s
  else
    let late := x.feeds.filter fun f => decide ((s.tlane f).crossed ≤ x.round)
    if late = [] then
      let s1 := s.modLane l fun y => { y with round := y.round + 1, sentMarker := false }
      if (x.vcs.any fun e => !e.2.isEmpty) || s.laneWaited l (x.round + 1) then s1.after 0 .roundMarkerSend { a := l } else s1
    else
      (late.filter fun f => !(s.tlane f).sentMarker && decide ((s.tlane f).round ≤ x.round)).foldl (fun a f =>
        a.after 1 .roundMarkerSend { a := f }) s

/-- LANE_ROUND_ADVANCE (R279): lane `ev.a` looks whether it may advance; with `ev.b` = 1 its marker of round `ev.c` has
crossed. -/
def execLaneRoundAdvance (s : State) : Host.Outcome State Fault Refusal :=
  .next (if s.ev.b = 1 then s.markerCrossed s.ev.a s.ev.c else s.advanceLane s.ev.a)

/-! ## Links (R370) -/

/-- `s` with a link port changed. -/
def State.modPort (s : State) (p : Nat) (f : Port → Port) : State :=
  s.modNet fun w => { w with ports := w.ports.set {} p (f (w.ports.get {} p)) }

/-- LINK_FLIT_RETRY (R370): flit `ev.c` of port `ev.a` fails its CRC and is sent again from the replay buffer, up to 8 times; then the
tokens `ev.l` that it carried are lost. `ev.b` is 0 for the first failure of a flit of that number. -/
def execLinkFlitRetry (s : State) : Host.Outcome State Fault Refusal :=
  let n := if s.ev.b = 0 then 0 else (s.net.ports.get {} s.ev.a).retries.get 0 s.ev.c
  if n < 8 then .next (s.modPort s.ev.a fun p => { p with retries := p.retries.set 0 s.ev.c (n + 1) })
  else .next (s.after 0 .linkTokenLost s.ev)

/-- The record of a lost token (R325, R370). -/
def linkRecord (vf gen : Nat) (lts : Nat) : FaultRec :=
  { code := 0x0F, src := 4, vf := BitVec.ofNat 7 vf, gen := BitVec.ofNat 4 gen, lts := lts }

/-- The tokens `ids` are lost on a port: none is delivered, each partition whose virtual channel carried one gets F_LINK, and
the port retrains. -/
def State.loseTokens (s : State) (p : Nat) (ids : List Nat) : State :=
  let parts := (ids.filterMap fun id =>
    match s.net.flights.look id with
    | some fl => (s.chan fl.chan).map fun c => c.part
    | none => none).eraseDups
  let keep (q : Nat × List Nat) : Option (Nat × List Nat) :=
    let l := q.2.filter fun id => !ids.contains id
    if l = [] then none else some (q.1, l)
  let s1 := s.modNet fun w =>
    { w with
      flights := w.flights.filter fun e => !ids.contains e.1
      lanes := w.lanes.map fun e => (e.1, { e.2 with vcs := e.2.vcs.filterMap keep }) }
  let s2 := parts.foldl (fun a q =>
    let v := (a.part q).occ
    a.postRecord q (linkRecord v (a.vf v).gen.toNat 0) none) s1
  (s2.modPort p fun x => { x with trained := false }).after 1 .portRetrain { a := p }

/-- LINK_TOKEN_LOST (R370): the tokens `ev.l` on port `ev.a`. -/
def execLinkTokenLost (s : State) : Host.Outcome State Fault Refusal := .next (s.loseTokens s.ev.a s.ev.l)

/-- A port trains with the device at its other end, which it is paired with; without one it stays untrained (R370). -/
def Port.train (p : Port) : Port := { trained := p.peer.isSome, peer := p.peer }

/-- PORT_RETRAIN (R370): port `ev.a` trains again, with the device that it is paired with, or where `ev.b` is not 0 with device
`ev.b` - 1, which is at its other end now. -/
def execPortRetrain (s : State) : Host.Outcome State Fault Refusal :=
  .next (s.modPort s.ev.a fun p => (if s.ev.b = 0 then p else { p with peer := some (s.ev.b - 1) }).train)

end Sys2Proof.Machine
end

