-- ==== Sys2Proof/Machine/Engines.lean ====
section
/-! DEFINITION. The engines: task dispatch (R50, R266, R267, R352), the BTE channels with copies and tile walks (R216 to R220,
R242 to R247, R251, R394), the egress ring, interrupts and the wrack queue (R272, R273, R367). -/

namespace Sys2Proof.Machine

/-! ## Accesses of an engine (R193, R216, R242) -/

/-- What an access of an engine gives: a value; a wait, on a PEND line of some firing, on a fill, with a walk of a page in flight, or
(`full`) in the M-tile's input buffer for one of 8 walks to end (R309); or a fault. -/
inductive EngRes (α : Type) where
  | ok (s : State) (a : α)
  | wait (owner page : Option (Nat × Nat)) (full : Bool)
  | bad (s : State) (e : Trap)
  deriving Repr

/-- The result of `x` handed on to `g`. -/
def EngRes.bind {α β : Type} (x : EngRes α) (g : State → α → EngRes β) : EngRes β :=
  match x with
  | .ok s a => g s a
  | .wait o p b => .wait o p b
  | .bad s e => .bad s e

/-- A miss of M-tile `m` on a page of a VF must wait: for the walk of that page in flight, which it joins, or for one of 8 walks
to end (R309). -/
def State.walkBusy (s : State) (m vf page : Nat) : Option (Option (Nat × Nat)) :=
  let l := (s.tileAt m).mu.walks
  if l.any fun w => decide (w.vf = vf) && decide (w.page = page) then some (some (vf, page))
  else if 8 ≤ l.length then some none
  else none

/-- A translation for an engine at M-tile `m` at timestamp `cts`. Element-local addresses, the command window and the walk
windows are never data of an engine (R193, R247). A line with an uncorrectable soft error is F_ECC for one that reads it
(R225, R245). -/
def State.engPage (s : State) (m vf cts va : Nat) (need : Need) : EngRes Xl :=
  if va / 2 ^ 16 = 0 ∨ va / 2 ^ 32 = 0xFFFFF ∨ va / 2 ^ 32 = 0xFFFFE then .bad s (trapVa 0x02 va)
  else
    match s.tlbAsk m vf va need, s.walkBusy m vf (va / 2 ^ 14) with
    | .miss, some p => .wait none p p.isNone
    | _, _ =>
      match s.xlate m vf vf cts va need with
      | .ok s1 x =>
        if need.reads && s1.lineDamaged x.pa then .bad s1 (trapVa 0x0D va)
        else .ok s1 x
      | .wait t k => .wait (some (t, k)) none false
      | .full => .wait none none false
      | .bad s1 code st2 lvl => .bad s1 (walkTrap code va st2 lvl)

/-- A translation for an engine's access to a line at its home, over the links there (R347). -/
def State.engXl (s : State) (m vf cts va : Nat) (need : Need) : EngRes Xl :=
  (s.engPage m vf cts va need).bind fun s1 x => .ok (s1.markRoute (dieOfTile m) (homeDie x) vf) x

/-- A line read by an engine with the ordering of LDNC at its cts (R216). -/
def State.engLine (s : State) (vf cts : Nat) (x : Xl) : EngRes LineBits :=
  match s.homeLoad x vf cts none with
  | .done s1 d _ _ _ => .ok s1 d
  | .pend t k => .wait (some (t, k)) none false
  | .full => .wait none none false

/-- `n` bytes read by an engine from `va`, each of their lines once. -/
def State.engRead (fuel : Nat) (s : State) (m vf cts va n : Nat) : EngRes (List Byte) :=
  match fuel with
  | 0 => .ok s []
  | k + 1 =>
    if n = 0 then .ok s []
    else
      let part := inLine va n
      (s.engXl m vf cts va .read).bind fun s1 x => (s1.engLine vf cts x).bind fun s2 d =>
        (s2.engRead k m vf cts (va + part) (n - part)).bind fun s3 r =>
          .ok s3 (((bytesOfLine d).drop (va % 128)).take part ++ r)

/-- One engine write to a line: `f` makes its new data in the bytes `mask` (R216). The w and the old data come back. -/
def State.engUpdate (s : State) (vf cts : Nat) (x : Xl) (f : LineBits → LineBits) (mask : BitVec 128) :
    EngRes (Nat × LineBits) :=
  match s.homeUpdate x vf cts f mask with
  | .done s1 d w _ _ => .ok s1 (w, d)
  | .pend t k => .wait (some (t, k)) none false
  | .full => .wait none none false

/-! ## Units in an input buffer (R309)

A miss of an engine that finds 8 walks in flight stands in the M-tile's input buffer among the requests of firings; it has a slot
number that no firing has. -/

/-- A channel's command, by its M-tile. -/
def cmdId (m : Nat) : Nat × Nat := (m, 8)
/-- The task unit, at the M-tile of a channel. -/
def taskId (m : Nat) : Nat × Nat := (m, 9)
/-- A G-tile's request. -/
def gridId (g : Nat) : Nat × Nat := (g, 10)
/-- A ray, by its I-tile and ring slot. -/
def rayId (tile n : Nat) : Nat × Nat := (tile, 16 + n)

/-- A unit joins the input buffer of an M-tile, in arrival order. -/
def State.standIn (s : State) (m : Nat) (id : Nat × Nat) : State :=
  if (s.tileAt m).mu.inq.contains id then s else s.modMu m fun u => { u with inq := u.inq ++ [id] }

/-- A unit that stands in the input buffer of an M-tile goes on when it is at its head and one of the 8 walks has ended: the state
without it, or none while it must stay. One that does not stand there goes on at once. -/
def State.fromInq (s : State) (m : Nat) (id : Nat × Nat) : Option State :=
  let u := (s.tileAt m).mu
  if !u.inq.contains id then some s
  else if u.inq.head? = some id ∧ u.walks.length < 8 then some (s.leaveBuffer m id.1 id.2)
  else none

/-! ## The interrupts of a VF (R272, R273, R366, R367) -/

/-- `s` with BAR0 of a VF changed. -/
def State.modBar (s : State) (v : Nat) (f : VfBar → VfBar) : State :=
  s.modHd fun h => { h with bars := h.bars.set {} v (f (h.bars.get {} v)) }

/-- Word `i` of a VF's MSI-X table: each entry's vector control word has its mask bit set at reset (log 8). -/
def VfBar.msixWord (b : VfBar) (i : Nat) : W32 := b.msix.get (if i % 4 = 3 then 1 else 0) i

/-- A vector of a resident VF is sent, or marked pending while it is masked (R367). -/
def State.sendVector (s : State) (vf vec : Nat) : State :=
  let b := s.hd.bars.get {} vf
  if (b.msixWord (4 * vec + 3)).getLsbD 0 then
    s.modBar vf fun c =>
      { c with
        pba := c.pba ||| BitVec.twoPow 64 vec
        pending := if c.pending.contains vec then c.pending else c.pending ++ [vec] }
  else s.modHd fun h => { h with out := h.out ++ [.msix vf vec] }

/-- A wrack-queue entry (R273). -/
def wrackEntry (vec gen src count lts : Nat) : Nat :=
  vec + gen * 2 ^ 8 + src * 2 ^ 12 + count * 2 ^ 16 + lts % 2 ^ 48 * 2 ^ 32

/-- The newest entry of a wrack queue with vector `vec`, among the `n` entries below index `p` (R273). -/
def State.wrackFind (fuel : Nat) (s : State) (vf base vec p : Nat) : Option (Nat × Nat) :=
  match fuel with
  | 0 => none
  | k + 1 =>
    let i := (p + 2 ^ 32 - 1) % 2 ^ 32
    let e := leNat (s.pinRead 2 vf 0 (base + 64 + 16 * (i % 1024)) 16).1
    if e % 64 = vec then some (i, e) else State.wrackFind k s vf base vec i

/-- An interrupt of a VF that is not resident is logged in its wrack queue (R273 rule 3). -/
def State.logVector (s : State) (vf vec gen src lts : Nat) : State :=
  let base := (s.vf vf).wqbase
  let (p, c, lost, s1) := s.ringHead vf base 1024
  if (p + 2 ^ 32 - c) % 2 ^ 32 = 1024 then
    match s1.wrackFind 1024 vf base vec p with
    | none => s1.ringLost vf base lost
    | some (i, e) =>
      let n := wrackEntry vec (e / 2 ^ 8 % 16) (e / 2 ^ 12 % 16) (Nat.min 0xFFFF (e / 2 ^ 16 % 2 ^ 16 + 1))
        (Nat.max (e / 2 ^ 32 % 2 ^ 48) lts)
      (s1.pinWrite 2 vf lts (base + 64 + 16 * (i % 1024)) (leBytes 16 n)).1
  else (s1.ringPut vf base 1024 16 p lts (leBytes 16 (wrackEntry vec gen src 1 lts))).1

/-- A vector is raised for a VF (R273). `src` is 0 for an egress notification. -/
def State.raiseVector (s : State) (vf vec gen src lts : Nat) : State :=
  if gen ≠ (s.vf vf).gen.toNat then s.countDrop vf 1
  else if (s.vf vf).state = 2 then s.sendVector vf vec
  else s.logVector vf vec gen src lts

/-! ## Tasks (R50, R266, R267, R352) -/

/-- A task of a cove whose condition holds enters the FIFO of its priority; its CTS takes the ETS of every bit it waits for
(R266, R352, R354). -/
def State.enterFifo (s : State) (cove x : Nat) : State :=
  let c := s.coveAt cove
  if !c.taskReady x then s
  else
    let e := c.tasks.get {} x
    let m := waitMask e.record
    let ets := (List.range 256).foldl (fun a n => if m.getLsbD n then Nat.max a (c.ets.get 0 n) else a) e.cts
    let p := taskPrio e.record
    (s.setCove cove
      { c with
        tasks := c.tasks.set {} x { e with state := 3, cts := ets }
        fifos := c.fifos.set [] p (c.fifos.get [] p ++ [(x, s.now)]) }).after 1 .computeTaskDispatch { a := cove }

/-- TASK_READY (R50, R266, R355): task `ev.b` of cove `ev.a` enters its FIFO; with `ev.c` = 1 the cove's task unit applies the
changes of this fc and looks which tasks are ready. -/
def execTaskReady (s : State) : Host.Outcome State Fault Refusal :=
  .next (if s.ev.c = 1 then s.applyDue s.ev.a else s.enterFifo s.ev.a s.ev.b)

/-- The task channel into the port that a compute task names (R293, R375). -/
def State.taskChan (s : State) (cove : Nat) (r : LineBits) : Option Nat :=
  let t := tileOfCove cove (r.extractLsb' 40 6).toNat
  let p := (r.extractLsb' 46 2).toNat
  (s.cfg.chans.find? fun e => decide (e.2.part = s.covePart cove) && decide (e.2.src = .task cove) &&
    (match e.2.dst with
     | .berth u _ q => decide (u = t) && decide (q = p)
     | _ => false)).map fun e => e.1

/-- The channel of a copy task, as its M-tile. -/
def copyTile (cove : Nat) (r : LineBits) : Nat := chanTile cove (r.extractLsb' 64 3).toNat

/-- The head of a priority's FIFO can be dispatched (R266, R267). -/
def State.canDispatch (s : State) (cove : Nat) (h : Nat × Nat) : Bool :=
  let c := s.coveAt cove
  let r := (c.tasks.get {} h.1).record
  decide (h.2 < s.now) && !c.stuck.contains h.1 &&
    (if isCompute r then
      match s.taskChan cove r with
      | some ch => decide (0 < s.credits ch 0 0)
      | none => false
     else s.queueRoom (copyTile cove r))

/-- The task that a cove dispatches in this fc, with its priority: none when it has dispatched one, while its partition's
sources are gated, or when no head can proceed (R266, R337). The heads in `skip` have been tried and wait. -/
def State.dispatchNext (s : State) (cove : Nat) (skip : List Nat) : Option (Nat × Nat) :=
  let c := s.coveAt cove
  if c.lastDispatch = some s.now ∨ s.hd.gated.get false (s.covePart cove) then none
  else
    [3, 2, 1, 0].findSome? fun p =>
      match c.fifos.get [] p with
      | h :: _ => if s.canDispatch cove h && !skip.contains h.1 then some (p, h.1) else none
      | [] => none

/-- The dispatcher of a cove looks at its FIFO heads in the next fc. -/
def State.lookHeads (s : State) (cove : Nat) : State :=
  if s.agenda.any fun e => decide (e.2.1 = .computeTaskDispatch) && decide (e.2.2.a = cove) && decide (s.now < e.1) then s
  else s.after 1 .computeTaskDispatch { a := cove }

/-- The head of a FIFO is dispatched at the dispatcher's tile (3,0): it leaves its FIFO, and the dispatcher looks again in the
next fc (R266, R281). -/
def State.popTask (s : State) (cove p x : Nat) : State :=
  let vf := ((s.coveAt cove).tasks.get {} x).vf
  ((s.modCove cove fun c =>
    { c with
      fifos := c.fifos.set [] p ((c.fifos.get [] p).drop 1)
      lastDispatch := some s.now, joins := c.joins.drop x
      tasks := c.tasks.set {} x { c.tasks.get {} x with state := 4 } }).charge (chanTile cove 4) vf 61 1).lookHeads cove

/-- A start token goes to the task's port, injected at the tile of BTE channel 4 (R267). -/
def State.dispatchCompute (s : State) (cove p x : Nat) : State :=
  let e := (s.coveAt cove).tasks.get {} x
  let r := e.record
  match s.taskChan cove r with
  | none => s
  | some ch =>
    let tok : Token :=
      { cls := r.extractLsb' 32 8, ctx := BitVec.ofNat 7 e.vf, nflit := 1, gen := (s.vf e.vf).gen, lts := e.cts
        pay := (r.extractLsb' 64 32).setWidth 512, task := some x }
    ((s.popTask cove p x).takeCredits ch 0 0 1).sendToken (chanTile cove 4) ch 0 tok

/-- COMPUTE_TASK_DISPATCH (R266, R267): the dispatcher of cove `ev.a` looks at its FIFO heads. A copy task that goes first is
dispatched by the step after. The heads `ev.l` have been tried and wait. -/
def execComputeTaskDispatch (s : State) : Host.Outcome State Fault Refusal :=
  match s.dispatchNext s.ev.a s.ev.l with
  | none => .next s
  | some (p, x) =>
    if isCompute ((s.coveAt s.ev.a).tasks.get {} x).record then .next (s.dispatchCompute s.ev.a p x)
    else .next (s.after 0 .copyTaskDispatch { a := s.ev.a, l := s.ev.l })

/-- The template `idx` of a VF, a configuration read at `cts` on the M-tile `m` through its template cache (R220, R307, R312):
the template, and `cts` raised to its wts (log 100). -/
def State.engTmpl (s : State) (m vf idx cts : Nat) : EngRes (LineBits × Nat) :=
  let o : LineOp := { kind := .tmpl, a := BitVec.ofNat 32 idx, b := BitVec.ofNat 32 m }
  match s.tcHit o cts vf with
  | some d => .ok s (d, cts)
  | none =>
    (s.engXl m vf cts (s.tmplVa vf idx) .config).bind fun s1 x =>
      match s1.homeLoad x vf cts (some (s1.tileAt m).lease) with
      | .done s2 d ts wts rts => .ok (s2.tcInstall m vf idx d wts rts) (d, ts)
      | .pend t k => .wait (some (t, k)) none false
      | .full => .wait none none false

/-- The record of a fault of the task unit for a copy task (R267, R325). -/
def State.taskRecord (s : State) (cove chan x : Nat) (e : Trap) (cts : Nat) : FaultRec :=
  let r := (s.coveAt cove).tasks.get {} x
  { FaultRec.onTile
      { code := e.code, src := 1, vf := BitVec.ofNat 7 r.vf, gen := (s.vf r.vf).gen, tval := e.tval, vahi := e.vahi
        wstg := e.wstg, wlvl := e.wlvl, chan := BitVec.ofNat 3 chan, tidx := r.record.extractLsb' 32 16, lts := cts } (cove * 64)
    with tile := 0 }

/-- A copy task whose template cannot be used fails, with its record (R267). -/
def State.failCopy (s : State) (cove p x chan cts : Nat) (e : Trap) : State :=
  ((s.popTask cove p x).taskFail cove x).postRecord (s.covePart cove) (s.taskRecord cove chan x e cts) none

/-- A copy task waits with the walk of a page in flight, or no longer (R309). -/
def State.joinTask (s : State) (cove x : Nat) (p : Option (Nat × Nat)) : State :=
  s.modCove cove fun c => { c with joins := match p with
    | some g => c.joins.put x g
    | none => c.joins.drop x }

/-- A FIFO head cannot proceed: the heads `skip` and it stay, and the others are looked at (R266). -/
def State.stay (s : State) (cove x : Nat) (skip : List Nat) : State :=
  (s.lookHeads cove).after 0 .computeTaskDispatch { a := cove, l := x :: skip }

/-- A copy task is dispatched: ordered by its channel's QCK, its template read and validated, its command queued (R241,
R267). A template that has no translation holds the task at its FIFO's head until the handler's TRET (R226). While a read
waits, the head cannot proceed: the heads `skip` and it stay, and the other FIFOs are looked at (R266). -/
def State.copyToQueue (s : State) (cove p x : Nat) (skip : List Nat) : State :=
  let e := (s.coveAt cove).tasks.get {} x
  let r := e.record
  let chan := (r.extractLsb' 64 3).toNat
  let m := chanTile cove chan
  let part := s.covePart cove
  let vf := if part = agentPart then 128 else e.vf
  let idx := (r.extractLsb' 32 16).toNat
  let (cts, s1) := s.orderCmd m e.cts
  if (s.vf vf).tcount ≤ idx then s1.failCopy cove p x chan cts (trapTemplate idx 0)
  else
    let probe (s : State) (d : LineBits) : EngRes (Option Xl) :=
      if tmplMcast d = 0 then .ok s none
      else
        match s.engXl m vf cts (tmplDbase d) .write with
        | .ok s2 x => .ok s2 (some x)
        | .wait o p b => .wait o p b
        | .bad s2 _ => .ok s2 none
    match (s1.engTmpl m vf idx cts).bind fun s2 d => (probe s2 d.1).bind fun s3 h => .ok s3 (d.1, d.2, h) with
    | .wait _ p b => ((if b then s.standIn m (taskId m) else s).joinTask cove x p).stay cove x skip
    | .bad s2 t =>
      if t.code = 0x01 then
        let s3 := (s.joinTask cove x none).modCove cove fun c => { c with stuck := c.stuck ++ [x] }
        s3.postXlate part { s.taskRecord cove chan x t cts with recov := true, who := 1 + cove * 512 + x }
      else s2.failCopy cove p x chan cts t
    | .ok s2 (d, ts, h) =>
      match s2.tmplDefect part cove chan d h with
      | some n => s2.failCopy cove p x chan cts (trapTemplate idx n)
      | none =>
        let (id, s3) := (s2.modMu m fun u => { u with qck := Nat.max u.qck ts }).fresh
        let c : BteCmd :=
          { id := id, tmpl := d, tidx := idx, arg := (r.extractLsb' 48 16).toNat, cts := ts, vf := vf
            gen := (s2.vf vf).gen, task := some x, tile := m, wmax := ts }
        (s3.popTask cove p x).pushCmd m c

/-- A copy task whose template's miss stands in the M-tile's input buffer is dispatched in its turn (R309). -/
def State.dispatchCopy (s : State) (cove p x : Nat) (skip : List Nat) : State :=
  let m := copyTile cove ((s.coveAt cove).tasks.get {} x).record
  match s.fromInq m (taskId m) with
  | none => s.stay cove x skip
  | some s1 => s1.copyToQueue cove p x skip

/-- COPY_TASK_DISPATCH (R267): the dispatcher of cove `ev.a` dispatches the copy task that goes first. -/
def execCopyTaskDispatch (s : State) : Host.Outcome State Fault Refusal :=
  match s.dispatchNext s.ev.a s.ev.l with
  | none => .next s
  | some (p, x) =>
    if isCompute ((s.coveAt s.ev.a).tasks.get {} x).record then .next s else .next (s.dispatchCopy s.ev.a p x s.ev.l)

/-! ## A channel's commands (R242 to R246) -/

/-- The step in which the running command of a kind goes on. -/
def kindStep (k : CmdKind) : Instr :=
  match k with
  | .copy => .engineWrite
  | .loadWalk => .loadWalkTile
  | .storeWalk => .storeWalkTile
  | .haarWalk => .haarWalkTile

/-- A channel with nothing running starts the oldest command of its queue; a queue entry is free again (R241, R242). -/
def State.startCommand (s : State) (m : Nat) : State :=
  match (s.tileAt m).mu.run, (s.tileAt m).mu.queue with
  | none, c :: rest =>
    let s1 := s.modMu m fun u => { u with run := some { c with wmax := c.cts }, queue := rest }
    (s1.wakeApertures.after 1 (kindStep (tmplKind c.tmpl)) { a := m }).after 1 .computeTaskDispatch { a := coveOfTile m }
  | _, _ => s

/-- BTE_COMMAND_START (R242): the channel of M-tile `ev.a`. -/
def execBteCommandStart (s : State) : Host.Outcome State Fault Refusal := .next (s.startCommand s.ev.a)

/-- `s` with the running command of a channel changed. -/
def State.modCmd (s : State) (m : Nat) (f : BteCmd → BteCmd) : State :=
  s.modMu m fun u => { u with run := u.run.map f }

/-- The record of a command (R245, R251, R325). -/
def State.cmdRecord (s : State) (m : Nat) (c : BteCmd) (e : Trap) : FaultRec :=
  { FaultRec.onTile
      { code := e.code, src := 1, vf := BitVec.ofNat 7 c.vf, gen := (s.vf c.vf).gen, tval := e.tval, vahi := e.vahi
        wstg := e.wstg, wlvl := e.wlvl, chan := BitVec.ofNat 3 (tileChan m), tidx := BitVec.ofNat 16 c.tidx, lts := c.cts } m
    with tile := 0 }

/-- The partition whose fault queue takes a channel's records. -/
def State.chanPart (s : State) (m : Nat) : Nat := s.covePart (coveOfTile m)

/-- A command waits: its step `i` is tried again in the next fc, and `page` is the walk that it waits with (R309). One that waits on
a line that its own firing holds PEND lets that firing's DRAIN look again (R245, R246). -/
def State.waitStep (s0 : State) (m : Nat) (c : BteCmd) (owner page : Option (Nat × Nat)) (full : Bool) (i : Instr) : State :=
  let s := if full then s0.standIn m (cmdId m) else s0
  let mine := c.task.isNone && decide (owner = some (c.tile, c.slot)) && (match s.firing c.tile c.slot with
    | some f => f.cmds.contains c.id
    | none => false)
  let s1 := s.modCmd m fun d => { d with own := mine, join := page }
  let s2 := if mine then s1.modFiring c.tile c.slot fun f => { f with wait := if f.wait = .drain then .no else f.wait } else s1
  s2.after 1 i { a := m }

/-- A running command waits. -/
def State.cmdWait (s : State) (m : Nat) (c : BteCmd) (owner page : Option (Nat × Nat)) (full : Bool) : State :=
  s.waitStep m c owner page full (kindStep (tmplKind c.tmpl))

/-- A command meets a fault: F_XLATE stalls the channel with a record (R242), any other stops the command (R245). -/
def State.cmdFault (s : State) (m : Nat) (c : BteCmd) (e : Trap) : State :=
  if e.code = 0x01 then
    (s.modCmd m fun d => { d with stalled := true, join := none }).postXlate (s.chanPart m) { s.cmdRecord m c e with recov := true }
  else (s.postRecord (s.chanPart m) (s.cmdRecord m c e) none).endCommand m false c.wmax

/-- A command completes its last write or delivery. -/
def State.cmdDone (s : State) (m : Nat) : State := s.after 1 .bteCommandComplete { a := m }

/-! ## Copies (R216, R242, R243) -/

/-- The bytes of elements of 16 bytes and more never cross a line; a smaller element may (R313). -/
def mayCross (k : Nat) : Bool := decide (k ≤ 8)

/-- The destination lines of element `n`: two when it crosses a line boundary. -/
def cmdLines (c : BteCmd) (n : Nat) : List Nat :=
  let a := tmplDst c.tmpl c.arg n
  let b := vaMove a ((tmplEsize c.tmpl - 1 : Nat) : Int)
  if a / 128 = b / 128 then [a / 128] else [a / 128, b / 128]

/-- Every destination line of element `n` has been written. -/
def cmdWritten (c : BteCmd) (n : Nat) : Bool := (cmdLines c n).all fun l => (c.lw.look l).isSome

/-- The w of element `n`: the largest of its lines'. -/
def cmdW (c : BteCmd) (n : Nat) : Nat := (cmdLines c n).foldl (fun a l => Nat.max a (c.lw.get 0 l)) 0

/-- The first element from `n` on of which a destination line is still to be written. -/
def cmdNext (fuel : Nat) (c : BteCmd) (n : Nat) : Nat :=
  match fuel with
  | 0 => n
  | k + 1 => if cmdWritten c n then cmdNext k c (n + 1) else n

/-- A gather index is read (R242). -/
def State.cmdIndex (s : State) (m : Nat) (c : BteCmd) (n : Nat) : EngRes Nat :=
  match tmplGatherVa c.tmpl n with
  | none => .ok s 0
  | some va => (s.engRead 2 m c.vf c.cts va 4).bind fun s1 l => .ok s1 (leNat l)

/-- `n` source bytes from `va`; `seen` holds the lines that this step has read. -/
def State.cmdRead (fuel : Nat) (s : State) (m : Nat) (c : BteCmd) (va n : Nat) (seen : List (Nat × LineBits)) :
    EngRes (List Byte × List (Nat × LineBits)) :=
  match fuel with
  | 0 => .ok s ([], seen)
  | k + 1 =>
    if n = 0 then .ok s ([], seen)
    else
      let part := inLine va n
      let line : EngRes (LineBits × List (Nat × LineBits)) :=
        match seen.find? fun e => decide (e.1 = va / 128) with
        | some e => .ok s (e.2, seen)
        | none =>
          (s.engXl m c.vf c.cts va .read).bind fun s1 x => (s1.engLine c.vf c.cts x).bind fun s2 d =>
            .ok s2 (d, seen ++ [(va / 128, d)])
      line.bind fun s1 r =>
        (s1.cmdRead k m c (vaMove va (part : Int)) (n - part) r.2).bind fun s2 q =>
          .ok s2 (((bytesOfLine r.1).drop (va % 128)).take part ++ q.1, q.2)

/-- The source bytes of an element. -/
def State.cmdSource (s : State) (m : Nat) (c : BteCmd) (n : Nat) (seen : List (Nat × LineBits)) :
    EngRes (List Byte × List (Nat × LineBits)) :=
  let k := tmplEsize c.tmpl
  if tmplOp c.tmpl = 1 then
    .ok s ((List.range k).map fun i => BitVec.ofNat 8 ((tmplFill c.tmpl).toNat / 2 ^ (8 * (i % 4))), seen)
  else
    (s.cmdIndex m c n).bind fun s1 g =>
      let va := tmplSrc c.tmpl c.arg n g
      if !mayCross k && decide (va % k ≠ 0) then .bad s1 (trapVa 0x03 va) else s1.cmdRead 2 m c va k seen

/-- The lines that one destination line stands for: one in each cove of a multicast (R242, R312). -/
def destXls (t : LineBits) (x : Xl) : List Xl :=
  if tmplMcast t = 0 then [x]
  else
    match regionOf x.pa with
    | .pool c => (mcastCoves c (tmplMcast t)).map fun d => { x with pa := poolAddr d + (x.pa - poolAddr c) }
    | _ => [x]

/-- The lines of a list are written, each as one home operation; `f j` makes the new data of the j-th
in the bytes `mask`. The largest w and the old
data come back. -/
def State.engUpdates (s : State) (vf cts : Nat) (xs : List Xl) (j : Nat) (f : Nat → LineBits → LineBits) (mask : BitVec 128) :
    EngRes (Nat × List LineBits) :=
  match xs with
  | [] => .ok s (cts, [])
  | x :: rest =>
    (s.engUpdate vf cts x (f j) mask).bind fun s1 w => (s1.engUpdates vf cts rest (j + 1) f mask).bind fun s2 v =>
      .ok s2 (Nat.max w.1 v.1, w.2 :: v.2)

/-- Lines read, each as one engine read. -/
def State.engLines (s : State) (vf cts : Nat) (xs : List Xl) : EngRes (List LineBits) :=
  match xs with
  | [] => .ok s []
  | x :: rest => (s.engLine vf cts x).bind fun s1 d => (s1.engLines vf cts rest).bind fun s2 l => .ok s2 (d :: l)

/-- The old bytes of a reduction's element that lie outside the line, for each copy. -/
def State.cmdFar (s : State) (m : Nat) (c : BteCmd) (va line : Nat) : EngRes (List (List Byte)) :=
  let k := tmplEsize c.tmpl
  let part := inLine va k
  if tmplOp c.tmpl < 2 ∨ part = k then .ok s []
  else
    let here := decide (va / 128 = line)
    let at_ := if here then vaMove va (part : Int) else va
    let n := if here then k - part else part
    (s.engXl m c.vf c.cts at_ .both).bind fun s1 x => (s1.engLines c.vf c.cts (destXls c.tmpl x)).bind fun s2 l =>
      .ok s2 (l.map fun d => ((bytesOfLine d).drop (at_ % 128)).take n)

/-- The state in which an element met a fault, with what the command had gathered before it (R242). -/
def EngRes.keep {α : Type} (x : EngRes α) (m : Nat) (g : BteCmd → BteCmd) : EngRes α :=
  match x with
  | .bad s e => .bad (s.modCmd m g) e
  | y => y

/-- What is to be written to a line: its elements in order, behind those gathered before. The elements before one that faults are
kept (R242). -/
def State.cmdElems (s : State) (m : Nat) (c : BteCmd) (line : Nat) (ns : List Nat) (seen : List (Nat × LineBits))
    (got : List CmdElem) : EngRes (List CmdElem × List (Nat × LineBits)) :=
  match ns with
  | [] => .ok s (got, seen)
  | n :: rest =>
    let va := tmplDst c.tmpl c.arg n
    match c.carry.find? fun e => decide (e.1 = n) with
    | some e => s.cmdElems m c line rest seen (got ++ [{ n := n, va := va, prev := some e.2 }])
    | none =>
      let one := (s.cmdSource m c n seen).bind fun s1 r => (s1.cmdFar m c va line).bind fun s2 far => .ok s2 (r, far)
      (one.keep m fun q => { q with got := got, seen := seen }).bind fun s2 p =>
        s2.cmdElems m c line rest p.1.2 (got ++ [{ n := n, va := va, src := p.1.1, far := p.2 }])

/-- The new bytes of an element (R242). Reductions round once and set no flag. -/
def elementNew (op : Nat) (old src : List Byte) : List Byte :=
  match op with
  | 2 => leBytes 4 (addF (BitVec.ofNat 32 (leNat old)) (BitVec.ofNat 32 (leNat src))).1.toNat
  | 3 => leBytes 2 (narrowF b16 0 (addF (widenF b16 (leNat old)).1 (widenF b16 (leNat src)).1).1).1
  | _ => src

/-- The bytes of an element of `k` bytes at `va` that lie in a line: the first of them, how many, and their place. -/
def elementPart (va k line : Nat) : Nat × Nat × Nat :=
  let part := inLine va k
  if va / 128 = line then (0, part, va % 128) else (part, k - part, 0)

/-- One element done in a line of copy `j`; with it come the new bytes of elements that go on in another line. -/
def elementDo (op k line j : Nat) (a : LineBits × List (Nat × List Byte)) (e : CmdElem) : LineBits × List (Nat × List Byte) :=
  let (i, m, o) := elementPart e.va k line
  let cur := ((bytesOfLine a.1).drop o).take m
  let far := e.far.getD j []
  let new := match e.prev with
    | some l => l.getD j []
    | none => elementNew op (if i = 0 then cur ++ far else far ++ cur) e.src
  (mergeLine a.1 (linePlace (leNat ((new.drop i).take m)) o m) (byteMask o m),
    if m < k ∧ e.prev = none then a.2 ++ [(e.n, new)] else a.2)

/-- A line of copy `j` after its elements. -/
def lineDo (op k line j : Nat) (l : List CmdElem) (d : LineBits) : LineBits × List (Nat × List Byte) :=
  l.foldl (elementDo op k line j) (d, [])

/-- The elements that go on in another line after this one, with their new bytes in every copy. -/
def lineCarry (op k line : Nat) (l : List CmdElem) (olds : List LineBits) : List (Nat × List (List Byte)) :=
  let rs := (enumFrom 0 olds).map fun e => (lineDo op k line e.1 l e.2).2
  (rs.headD []).map fun e => (e.1, rs.map fun r => ((r.find? fun q => decide (q.1 = e.1)).map fun q => q.2).getD [])

/-- The lines and chunks of the bytes of element `n` (R243); chunks count from the lowest destination byte. -/
def cmdPlaces (c : BteCmd) (base n : Nat) : List (Nat × Nat) :=
  let k := tmplEsize c.tmpl
  let off := (tmplDstOff c.tmpl n - (tmplSpan c.tmpl).1).toNat
  (if mayCross k then List.range k else [0]).map fun i =>
    (vaMove (tmplDst c.tmpl c.arg n) (Int.ofNat i) / 128, base + (off + i) / 512)

/-- Arrival bits are set on the M-tiles of the channel's number in the destination coves (R113, R243). -/
def State.setArrival (s : State) (m ab chunk ts : Nat) (coves : List Nat) : State :=
  coves.foldl (fun a cv =>
    let u := chanTile cv (tileChan m)
    let a1 := a.modMu u fun v =>
      { v with ab := v.ab.set 0 ab (v.ab.get 0 ab ||| BitVec.twoPow 128 chunk), abCts := v.abCts.set 0 ab (Nat.max (v.abCts.get 0 ab) ts) }
    a1.landedOn u) s

/-- The coves in which a line's arrival bits stand: those of the pools written, else the cove that issued the command, of tile
`t` (R243). -/
def arrivalCoves (t : Nat) (xs : List Xl) : List Nat :=
  xs.map fun x => match regionOf x.pa with
    | .pool c => c
    | _ => coveOfTile t

/-- The chunks that the elements `ns` have completed: every byte of the chunk lies in a line written (R243). -/
def chunksDone (c : BteCmd) (base : Nat) (ns : List Nat) : List (Nat × Nat) :=
  let all := (List.range (tmplTotal c.tmpl)).flatMap (cmdPlaces c base)
  ((ns.flatMap fun n => (cmdPlaces c base n).map fun e => e.2).eraseDups).filterMap fun k =>
    let mine := all.filter fun e => decide (e.2 = k)
    if mine.all fun e => (c.lw.look e.1).isSome then
      some (k, mine.foldl (fun a e => Nat.max a (c.lw.get 0 e.1)) c.cts)
    else none

/-- The elements of a pass of the mark level (R244). -/
def passLen (t : LineBits) : Option Nat :=
  (tmplMark t).map fun m => ((tmplLevels t).filter fun k => decide (k ≤ m)).foldl (fun a k => a * tmplCount t k) 1

/-- The step `g` of a channel's command, or its turn in the input buffer first (R309). -/
def State.inTurn (s : State) (m : Nat) (c : BteCmd) (g : State → State) : State :=
  match s.fromInq m (cmdId m) with
  | some s1 => g s1
  | none => s.after 1 (kindStep (tmplKind c.tmpl)) { a := m }

/-- A copy command writes its next destination line: every byte of the command that falls in it, as one home operation
(R216, R242). After an F_XLATE it goes on with the elements gathered before. Its arrival bits and marks follow as they are due. An element of 16 bytes or more that is not aligned to its
size is F_ALIGN (R245, R313; log 18). -/
def State.copyStep (s : State) (m : Nat) (c : BteCmd) : State :=
  let total := tmplTotal c.tmpl
  let n := cmdNext total c c.pos
  if total ≤ n then s.cmdDone m
  else
    let line := ((cmdLines c n).find? fun l => (c.lw.look l).isNone).getD 0
    let k := tmplEsize c.tmpl
    let op := tmplOp c.tmpl
    let ns := (List.range total).filter fun i => (cmdLines c i).contains line
    match ns.find? fun i => !mayCross k && decide (tmplDst c.tmpl c.arg i % k ≠ 0) with
    | some i => s.cmdFault m c (trapVa 0x03 (tmplDst c.tmpl c.arg i))
    | none =>
      let va := tmplDst c.tmpl c.arg n
      let run : EngRes (List Xl × List CmdElem × Nat × List LineBits) :=
        (s.cmdElems m c line (ns.drop c.got.length) c.seen c.got).bind fun s1 p =>
          let l := p.1
          let xl := s1.engXl m c.vf c.cts (if va / 128 = line then va else line * 128) (if 2 ≤ op then .both else .write)
          (xl.keep m fun q => { q with got := l, seen := p.2 }).bind fun s2 x =>
            let xs := destXls c.tmpl { x with pa := x.pa / 128 * 128 }
            let mask := l.foldl (fun a e =>
              let p := elementPart e.va k line
              a ||| byteMask p.2.2 p.2.1) (0 : BitVec 128)
            (s2.engUpdates c.vf c.cts xs 0 (fun j d => (lineDo op k line j l d).1) (if op < 2 then mask else 0)).bind fun s3 w =>
              .ok s3 (xs, l, w.1, w.2)
      match run with
      | .wait o p b => s.cmdWait m c o p b
      | .bad s1 e => s1.cmdFault m c e
      | .ok s1 (xs, l, w, olds) =>
        let fresh := l.filter fun e => decide (e.prev = none)
        let c1 := { c with
          lw := c.lw.put line w, wmax := Nat.max c.wmax w, own := false, join := none, got := [], seen := []
          carry := (c.carry.filter fun e => !ns.contains e.1) ++ lineCarry op k line l olds }
        let pos := cmdNext total c1 n
        let c2 := { c1 with pos := pos }
        let s2 := (s1.modCmd m fun _ => c2).charge m c.vf 57 fresh.length
        let s3 := match tmplArrive c.tmpl with
          | none => s2
          | some (ab, base) => (chunksDone c2 base ns).foldl (fun (a : State) (e : Nat × Nat) => a.setArrival m ab e.1 e.2 (arrivalCoves c.tile xs)) s2
        let s4 := match passLen c.tmpl with
          | some p => if c2.passes < pos / p then s3.after (if total ≤ pos then 1 else 0) .btePassMark { a := m } else s3
          | none => s3
        if total ≤ pos then s4.cmdDone m else s4.after 1 .engineWrite { a := m }

/-- ENGINE_WRITE (R216, R242): the command of M-tile `ev.a` goes on. -/
def execEngineWrite (s : State) : Host.Outcome State Fault Refusal :=
  match (s.tileAt s.ev.a).mu.run with
  | none => .next s
  | some c =>
    if c.stalled then .next s
    else if tmplKind c.tmpl = .copy then .next (s.inTurn s.ev.a c fun u => u.copyStep s.ev.a c)
    else .next (s.after 0 (kindStep (tmplKind c.tmpl)) { a := s.ev.a })

/-- The elements of a command that are done: those whose writes have landed, and for a walk the rows of the tiles delivered or
written whole (R244, R247); `u` is its channel. -/
def cmdReached (u : MUnit) (c : BteCmd) : Nat :=
  match tmplKind c.tmpl with
  | .copy => c.pos
  | .storeWalk => (c.part.foldl (fun a p => Nat.min a (p.tiles.headD a)) c.pos) * tmplCount c.tmpl 0
  | _ => u.delivered c * tmplCount c.tmpl 0

/-- The timestamp of a mark after `n` elements: the largest w of their writes, or cts (R217, R244). -/
def markTime (c : BteCmd) (n : Nat) : Nat :=
  if tmplKind c.tmpl = .copy then (List.range n).foldl (fun a i => Nat.max a (cmdW c i)) c.cts
  else (List.range (n / tmplCount c.tmpl 0)).foldl (fun a i => Nat.max a (c.lw.get 0 i)) c.cts

/-- The passes of a command that have ended since the last mark set its EVENT bit (R244). -/
def State.markPasses (s : State) (m : Nat) (c : BteCmd) : State :=
  match passLen c.tmpl, tmplEvent c.tmpl with
  | some p, some ev =>
    let n := cmdReached (s.tileAt m).mu c / p
    let cove := coveOfTile m
    if n ≤ c.passes then s
    else
      let s1 := s.modCmd m fun d => { d with passes := n }
      s1.dueChange cove (.event (tileChan m) ev (markTime c (n * p)))
  | _, _ => s

/-- BTE_PASS_MARK (R244): the command of M-tile `ev.a`. -/
def execBtePassMark (s : State) : Host.Outcome State Fault Refusal :=
  match (s.tileAt s.ev.a).mu.run with
  | none => .next s
  | some c => .next (s.markPasses s.ev.a c)

/-! ## Completion (R243, R251, R353, R354) -/

/-- The slot entry after `n` bytes have arrived at `ts`, or none when it is not filling (R251). A sum that ARR cannot hold has
no stated value: `open_` stands for it (log 9). -/
def slotArrive (e n ts open_ : Nat) : Option Nat :=
  if e % 4 ≠ 1 then none
  else
    let arr := e / 2 ^ 32 % 2 ^ 24 + n
    let dcnt := e / 2 ^ 8 % 2 ^ 24
    let kept := if arr < 2 ^ 24 then arr else open_ % 2 ^ 24
    let cts := e / 2 ^ 64 % 2 ^ 48
    let full := decide (dcnt ≤ arr)
    some ((if full then 2 else 1) + e / 4 % 64 * 4 + dcnt * 2 ^ 8 + kept * 2 ^ 32 + e / 2 ^ 56 % 256 * 2 ^ 56
      + Nat.max cts ts % 2 ^ 48 * 2 ^ 64 + e / 2 ^ 112 % 2 ^ 16 * 2 ^ 112)

/-- Slot completion: one engine write at the command's cts to the entry in the pool of the channel's cove, or a record (R216,
R251). -/
def State.completeSlot (s : State) (m : Nat) (c : BteCmd) (off : Nat) : EngRes Unit :=
  let x : Xl := { pa := poolAddr (coveOfTile m) + off, home := 1 }
  let bytes := tmplTotal c.tmpl * tmplEsize c.tmpl
  let at_ := x.pa % 128
  let (d, _) := s.homeData x c.vf
  let open_ := (Config.freeWord s.free).toNat
  match slotArrive (lineField d at_ 16) bytes c.wmax open_ with
  | none =>
    let e : Trap := { code := 0x10, tval := BitVec.ofNat 32 off }
    let dr := s.homeDir x
    if dr.pend then .wait (some (dr.tile, dr.slot)) none false
    else .ok (s.postRecord (s.chanPart m) { s.cmdRecord m c e with src := 3 } none) ()
  | some n =>
    (s.engUpdate c.vf c.cts x (fun l => mergeLine l (linePlace n at_ 16) (byteMask at_ 16)) (byteMask at_ 16)).bind fun s0 _ =>
      let s1 := { s0 with mem := { s0.mem with slots := s0.mem.slots.set false x.pa true } }
      .ok (if 2 ^ 24 ≤ lineField d (at_ + 4) 3 + bytes then { s1 with free := s1.free + 1 } else s1) ()

/-- The completion actions after every write has landed: slot, event bit, task decrement, egress notification, in that order
(R243). One whose slot entry lies in a line that its own firing holds PEND counts as waiting on it (R246). -/
def State.completeCmd (s : State) (m : Nat) (c : BteCmd) : State :=
  let cove := coveOfTile m
  let slot : EngRes Unit := match tmplSlot c.tmpl with
    | some off => s.completeSlot m c off
    | none => .ok s ()
  match slot with
  | .wait o p b => s.waitStep m c o p b .bteCommandComplete
  | .bad s1 e => s1.cmdFault m c e
  | .ok s0 _ =>
    let s1 := s0.modCmd m fun d => { d with own := false }
    let s2 := match tmplEvent c.tmpl with
      | some n => s1.dueChange cove (.event (tileChan m) n c.wmax)
      | none => s1
    let s3 := match tmplTask c.tmpl with
      | some x => s2.dueChange cove (.dec (tileChan m) x c.wmax (s2.cmdRecord m c { code := 0x07, tval := 0 }))
      | none => s2
    match tmplEgress c.tmpl with
    | some v =>
      if c.vf < 128 then (s3.modMu m fun u => { u with egWait := some (v, c.wmax) }).after 0 .egressEntryWrite { a := m }
      else s3.endCommand m true c.wmax
    | none => s3.endCommand m true c.wmax

/-- BTE_COMMAND_COMPLETE (R243): the command of M-tile `ev.a`. -/
def execBteCommandComplete (s : State) : Host.Outcome State Fault Refusal :=
  match (s.tileAt s.ev.a).mu.run with
  | none => .next s
  | some c => .next (s.completeCmd s.ev.a c)

/-- The egress entry of a command (R272). -/
def State.egressEntry (s : State) (m : Nat) (c : BteCmd) (vec : Nat) : Nat :=
  let cove := coveOfTile m
  c.tidx + c.arg * 2 ^ 16 + tileChan m * 2 ^ 32 + s.coveRel (s.covePart cove) cove % 64 * 2 ^ 35 + cove / 64 * 2 ^ 41
    + (s.vf c.vf).gen.toNat * 2 ^ 44 + c.wmax % 2 ^ 48 * 2 ^ 48 + vec * 2 ^ 96

/-- The log of a vector for a VF that is not resident must wait on a PEND line of its wrack queue, its header or an entry (R216, R270,
R273). -/
def State.vectorPend (s : State) (vf : Nat) : Bool :=
  decide ((s.vf vf).state ≠ 2) && (s.pinPend (s.vf vf).wqbase 12 || s.pinPend ((s.vf vf).wqbase + 64) 16384)

/-- The notification of a channel's command enters the VF's egress ring when it has room; then its vector is raised and the
channel goes on (R272). Both wait while a line that they write is PEND (R216, R270). -/
def State.writeEgress (s : State) (m : Nat) : State :=
  match (s.tileAt m).mu.run, (s.tileAt m).mu.egWait with
  | some c, some (vec, ts) =>
    let base := (s.vf c.vf).egbase
    let n := 2 ^ (6 + (s.vf c.vf).egk)
    let (p, k, _, s1) := s.ringHead c.vf base n
    if (p + 2 ^ 32 - k) % 2 ^ 32 = n ∨ s1.ringPend base n 16 p ∨ s1.vectorPend c.vf then s1.after 1 .egressEntryWrite { a := m }
    else
      let (s2, _) := s1.ringPut c.vf base n 16 p ts (leBytes 16 (s.egressEntry m c vec))
      (s2.raiseVector c.vf vec (s.vf c.vf).gen.toNat 0 ts).endCommand m true ts
  | _, _ => s

/-- EGRESS_ENTRY_WRITE (R272): the channel of M-tile `ev.a`. -/
def execEgressEntryWrite (s : State) : Host.Outcome State Fault Refusal := .next (s.writeEgress s.ev.a)

/-! ## Tile walks (R170, R247, R394) -/

/-- The bytes of a row's memory form, by format: 0 to 2 Q, 6 F32, else 64 (R247). -/
def rowBytes (fmt : Nat) : Nat :=
  match fmt with
  | 0 => 64
  | 1 => 48
  | 2 => 72
  | _ => 64

/-- The blocks of a Q row. -/
def rowBlocks (fmt : Nat) : Nat := if fmt = 0 then 8 else 4

/-- A row from its memory form: its lanes, its scale-plane entries, and whether a block is the error block (R85, R87, R88,
R247). -/
def rowOfBytes (fmt : Nat) (bs : List Byte) : VBits × BitVec 128 × Bool :=
  if 3 ≤ fmt then (BitVec.ofNat 512 (leNat bs), 0, false)
  else
    let nb := qBytes fmt
    let blk (b : Nat) : Nat := leNat ((bs.drop (b * nb)).take nb)
    let l := List.range (rowBlocks fmt)
    let els := l.flatMap fun b => qElems fmt (blk b)
    let sc := l.foldr (fun b a => blk b % 65536 + 65536 * a) 0
    if l.any fun b => decide (blk b % 256 = 255) then (0, 0, true)
    else (BitVec.ofNat 512 (qLanes fmt els), BitVec.ofNat 128 sc, false)

/-- Rows `i` to the last of a tile of a load walk, read at cts: the tile. Each charges EC57, and EC52 when it is decoded from Q blocks;
a row in F_PROT or F_ALIGN posts its record, a soft error none (R247). The rows before one that meets F_XLATE are kept (R242). -/
def State.loadRows (s : State) (m : Nat) (c : BteCmd) (fmt : Nat) (is : List Nat) (d : MTile) : EngRes MTile :=
  match is with
  | [] => .ok s d
  | i :: rest =>
    let n := c.pos * tmplCount c.tmpl 0 + i
    let errRow : MTile := { d with errf := d.errf ||| BitVec.twoPow 16 i }
    let row (s : State) : State := s.charge m c.vf 57 1
    let post (s : State) (e : Trap) : State := (row s).postRecord (s.chanPart m) (s.cmdRecord m c e) none
    let keep (q : BteCmd) : BteCmd := { q with form := d, row := i }
    ((s.cmdIndex m c n).keep m keep).bind fun s1 g =>
      let va := tmplSrc c.tmpl c.arg n g
      if va % 4 ≠ 0 then (post s1 (trapVa 0x03 va)).loadRows m c fmt rest errRow
      else
        match s1.engRead 3 m c.vf c.cts va (rowBytes fmt) with
        | .wait o p b => .wait o p b
        | .bad s2 e =>
          if e.code = 0x01 then .bad (s2.modCmd m keep) e
          else if e.code = 0x0D then (row s2).loadRows m c fmt rest errRow
          else (post s2 { trapVa e.code va with wstg := e.wstg, wlvl := e.wlvl }).loadRows m c fmt rest errRow
        | .ok s2 bs =>
          let r := rowOfBytes fmt bs
          let s3 := if fmt < 3 then (row s2).charge m c.vf 52 1 else row s2
          if r.2.2 then s3.loadRows m c fmt rest errRow
          else s3.loadRows m c fmt rest { d with rows := d.rows.set 0 i r.1, scale := d.scale.set 0 i r.2.1 }

/-- A permit and room in the output buffer let the walker fetch (R170). -/
def MUnit.mayFetch (u : MUnit) : Bool := decide (0 < u.permits) && decide (u.outbuf.length < 2)

/-- A tile has been fetched: it goes to the oldest owed write, or waits in the output buffer (R170). The mark of its pass and
the end of the walk follow its delivery (R244, R394). -/
def State.deliverTile (s : State) (m : Nat) (c : BteCmd) (d : MTile) : State :=
  let c1 := { c with pos := c.pos + 1, own := false, join := none, form := {}, row := 0, recs := [], seen := [] }
  let s1 := s.modMu m fun u => { u with permits := u.permits - 1, outbuf := u.outbuf ++ [d], run := some c1 }
  let s2 := State.matchOwed 3 s1 m
  if c1.pos = walkTiles c.tmpl then s2 else s2.after 1 (kindStep (tmplKind c.tmpl)) { a := m }

/-- A load walk fetches its next tile, after an F_XLATE from the row that met it (R242, R247). -/
def State.loadTile (s : State) (m : Nat) (c : BteCmd) : State :=
  let fmt := tmplDbase c.tmpl % 8
  let r := tmplCount c.tmpl 0
  if !(s.tileAt m).mu.mayFetch ∨ walkTiles c.tmpl ≤ c.pos then s
  else
    let d0 : MTile :=
      { shape := mkShape (if fmt = 6 then 0 else fmt) (r - 1) 0 0xFFFF, f32 := decide (fmt = 6) }
    match s.loadRows m c fmt ((List.range r).drop c.row) (if c.row = 0 then d0 else c.form) with
    | .wait o p b => s.cmdWait m c o p b
    | .bad s1 e => s1.cmdFault m c e
    | .ok s1 d => s1.deliverTile m c d

/-- LOAD_WALK_TILE (R247): the walker of M-tile `ev.a`. Permits that find a Haar walk running go to it. -/
def execLoadWalkTile (s : State) : Host.Outcome State Fault Refusal :=
  match (s.tileAt s.ev.a).mu.run with
  | none => .next s
  | some c =>
    if c.stalled then .next s
    else
      match tmplKind c.tmpl with
      | .loadWalk => .next (s.inTurn s.ev.a c fun u => u.loadTile s.ev.a c)
      | .haarWalk => .next (s.after 0 .haarWalkTile { a := s.ev.a })
      | _ => .next s

/-- A record of a Haar walk from its bytes: bits of `d`, read through `rd` (R237). -/
def haarRec (d : CodecDesc) (rd : Nat → Nat → Nat) : HaarRec :=
  if badBitmap (rd 0 8) d.l then { tree := List.replicate (2 ^ d.l) 0, bad := true }
  else { tree := recordTree d rd 0, bitmap := rd 0 8 }

/-- The records `ns` of a Haar walk, read at cts behind those read before: of each its bitmap, and then what survives. One that is not
8-byte aligned is F_ALIGN (R225, R237, R394). `seen` holds the lines of its column; the records before one that faults are kept
(R242). -/
def State.haarRecords (s : State) (m : Nat) (c : BteCmd) (d : CodecDesc) (ns : List Nat) (seen : List (Nat × LineBits))
    (got : List HaarRec) : EngRes (List HaarRec) :=
  match ns with
  | [] => .ok s got
  | n :: rest =>
    let k := 16 / 2 ^ d.l
    let seen := if n % k = 0 then [] else seen
    let va := vaMove (tmplSbase c.tmpl) (((n / k : Nat) : Int) * tmplSstr c.tmpl 0 + ((n % k * d.stride : Nat) : Int))
    if va % 8 ≠ 0 then .bad s (trapVa 0x03 va)
    else
      ((s.cmdRead 1 m c va 8 seen).keep m fun q => { q with recs := got, seen := seen }).bind fun s1 p =>
        let bm := leNat p.1
        let left := if badBitmap bm d.l then 0 else onesBelow bm 64 * d.esize
        ((s1.cmdRead 3 m c (vaMove va 8) left p.2).keep m fun q => { q with recs := got, seen := p.2 }).bind fun s2 r =>
          let bs := p.1 ++ r.1
          s2.haarRecords m c d rest r.2 (got ++ [haarRec d fun o n => leNat ((bs.drop o).take n)])

/-- The tile that the records of `cols` columns of a Haar walk form (R86, R394). -/
def haarTile (d : CodecDesc) (cols : Nat) (recs : List HaarRec) : MTile :=
  let n := 2 ^ d.l
  let rec_ (q g : Nat) : HaarRec := recs.getD (q * (16 / n) + g) {}
  let el (r q : Nat) : W32 := (rec_ q (r / n)).tree.getD (r % n) 0
  let rowBlk (r b : Nat) : Nat :=
    let xs := (List.range 16).map fun j => if 16 * b + j < cols then el r (16 * b + j) else 0
    if xs.any isNanF then 255 else (qEncode 1 xs).1
  let bad (r : Nat) : Bool :=
    ((List.range cols).any fun q => (rec_ q (r / n)).bad)
      || (List.range 4).any fun b => decide (rowBlk r b % 256 = 255)
  let row (r : Nat) : VBits := BitVec.ofNat 512 (qLanes 1 ((List.range 4).flatMap fun b => qElems 1 (rowBlk r b)))
  let sc (r : Nat) : BitVec 128 := BitVec.ofNat 128 ((List.range 4).foldr (fun b a => rowBlk r b % 65536 + 65536 * a) 0)
  let good := (List.range 16).filter fun r => !bad r
  let surv := (List.range 16).foldl (fun a r =>
    if (List.range cols).any fun q => (rec_ q (r / n)).bitmap.testBit (r % n) then a + 2 ^ r else a) 0
  { rows := good.foldl (fun a r => a.set 0 r (row r)) []
    scale := good.foldl (fun a r => a.set 0 r (sc r)) []
    shape := mkShape 1 15 (BitVec.ofNat 6 (d.l * 8 + d.axis)) (BitVec.ofNat 16 surv)
    errf := BitVec.ofNat 16 ((List.range 16).foldl (fun a r => if bad r then a + 2 ^ r else a) 0) }

/-- A Haar walk forms its tile (R394). -/
def State.haarWalk (s : State) (m : Nat) (c : BteCmd) : State :=
  let d := codecDesc (tmplCodec c.tmpl)
  let q := tmplCount c.tmpl 0
  if !(s.tileAt m).mu.mayFetch ∨ 1 ≤ c.pos then s
  else
    let total := q * (16 / 2 ^ d.l)
    match s.haarRecords m c d ((List.range total).drop c.recs.length) c.seen c.recs with
    | .wait o p b => s.cmdWait m c o p b
    | .bad s1 e => s1.cmdFault m c e
    | .ok s1 recs => (s1.charge m c.vf 56 total).deliverTile m c (haarTile d q recs)

/-- HAAR_WALK_TILE (R394): the walker of M-tile `ev.a`. -/
def execHaarWalkTile (s : State) : Host.Outcome State Fault Refusal :=
  match (s.tileAt s.ev.a).mu.run with
  | none => .next s
  | some c => if c.stalled ∨ tmplKind c.tmpl ≠ .haarWalk then .next s else .next (s.inTurn s.ev.a c fun u => u.haarWalk s.ev.a c)

/-- The block of a tile's row from its lanes and scale plane, or the error block (R84, R87, R88). -/
def blockOf (fmt : Nat) (row : VBits) (sc : BitVec 128) (b : Nat) (bad : Bool) : List Byte :=
  let fb := qBits fmt
  let w := if fmt = 0 then 4 else 8
  let el (j : Nat) : Nat :=
    let x := row.toNat / 2 ^ (w * (16 * b + j)) % 2 ^ w
    x % 2 ^ fb + x / 2 ^ (w - 1) * 2 ^ fb
  let pay := (List.range 16).foldr (fun j a => el j + 2 ^ (1 + fb) * a) 0
  leBytes (qBytes fmt) (if bad then 255 else sc.toNat / 2 ^ (16 * b) % 65536 + 65536 * pay)

/-- The memory form of row `i` of a stored tile (R172, R247). -/
def rowMem (d : MTile) (i : Nat) : List Byte :=
  let fmt := shapeFmt d.shape
  let row := d.rows.get 0 i
  let q := !d.f32 && decide (fmt < 3)
  if q then
    (List.range (if d.one then 1 else rowBlocks fmt)).flatMap fun b => blockOf fmt row (d.scale.get 0 i) b (d.errf.getLsbD i)
  else leBytes 64 row.toNat

/-- The rows of tile `n` in order, up to one whose address is not a multiple of 4: its address, if any, and the stores of the
others, one for each line in the order first touched (R247). -/
def tileStores (c : BteCmd) (n : Nat) (d : MTile) : List LineOp × Option Nat :=
  let r := tmplCount c.tmpl 0
  let vas := (List.range r).map fun i => (i, tmplDst c.tmpl c.arg (n * r + i))
  let ok := vas.takeWhile fun e => decide (e.2 % 4 = 0)
  (joinStores (ok.flatMap fun e => storeOps e.2 (rowMem d e.1)), (vas.drop ok.length).head?.map fun e => e.2)

/-- A tile's bytes of a line put over those held back for it. -/
def joinPart (n : Nat) (l : List PartLine) (o : LineOp) : List PartLine :=
  match l with
  | [] => [{ va := o.va, data := o.data, mask := o.mask, tiles := [n] }]
  | p :: rest =>
    if p.va / 128 = o.va / 128 then
      { p with data := mergeLine p.data o.data o.mask, mask := p.mask ||| o.mask
               tiles := if p.tiles.contains n then p.tiles else p.tiles ++ [n] } :: rest
    else p :: joinPart n rest o

/-- A row that the walk has not taken may write bytes of a line: a row takes at most 72 bytes. -/
def rowToCome (c : BteCmd) (line : Nat) : Bool :=
  let r := tmplCount c.tmpl 0
  c.stopAt.isNone && (upFrom (c.merged * r) ((walkTiles c.tmpl - c.merged) * r)).any fun i =>
    let a := tmplDst c.tmpl c.arg i
    decide (a / 128 = line) || decide (vaMove a 71 / 128 = line)

/-- The first line of those held back that no row to come can touch: every byte that the walk writes in it is known. -/
def partReady (c : BteCmd) : Option PartLine := c.part.find? fun p => !rowToCome c (p.va / 128)

/-- The oldest tile of the buffer is taken: its rows join the lines held back, and it is charged (R172, R247). -/
def State.takeTile (s : State) (m : Nat) (c : BteCmd) (d : MTile) : State :=
  let (ops, bad) := tileStores c c.merged d
  let n := match bad with
    | some _ => ((List.range (tmplCount c.tmpl 0)).takeWhile fun i =>
        decide (tmplDst c.tmpl c.arg (c.merged * tmplCount c.tmpl 0 + i) % 4 = 0)).length
    | none => tmplCount c.tmpl 0
  let q := !d.f32 && decide (shapeFmt d.shape < 3)
  let c1 := { c with
    part := ops.foldl (joinPart c.merged) c.part, merged := c.merged + 1, stopAt := bad, own := false, join := none }
  (((s.modCmd m fun _ => c1).charge m c.vf 57 n).charge m c.vf 52 (if q then n else 0)).after 1 .storeWalkTile { a := m }

/-- A line of a store walk is written, as one home operation with every byte that the walk writes in it (R216, R247). -/
def State.writePart (s : State) (m : Nat) (c : BteCmd) (p : PartLine) : State :=
  let run := (s.engXl m c.vf c.cts p.va .write).bind fun s1 x =>
    s1.engUpdate c.vf c.cts x (fun l => mergeLine l p.data p.mask) p.mask
  match run with
  | .wait o g b => s.cmdWait m c o g b
  | .bad s1 e => s1.cmdFault m c e
  | .ok s1 v =>
    let c1 := { c with
      part := c.part.filter fun q => !decide (q = p), wmax := Nat.max c.wmax v.1, own := false, join := none
      lw := p.tiles.foldl (fun a n => a.put n (Nat.max (a.get 0 n) v.1)) c.lw }
    (s1.modCmd m fun _ => c1).after 1 .storeWalkTile { a := m }

/-- The oldest tile leaves the buffer of a storer channel; TSTs that wait for its place look again (R170, R247). -/
def State.dropTile (s : State) (m : Nat) : State :=
  let wake (x : Map Firing) : Map Firing :=
    x.map fun e => (e.1, if e.2.wait = .storeBuffer then { e.2 with wait := .no } else e.2)
  (upFrom (coveOfTile m * 64) 64).foldl (fun a t =>
    if (a.tileAt t).slots.any fun e => decide (e.2.wait = .storeBuffer) then a.modTile t fun x => { x with slots := wake x.slots }
    else a) (s.modMu m fun u => { u with storebuf := u.storebuf.drop 1 })

/-- Marks of passes that have ended are set (R244); the last comes with the completion actions. -/
def State.storeMarks (s : State) (m : Nat) (last : Bool) : State :=
  match (s.tileAt m).mu.run with
  | some c =>
    match passLen c.tmpl with
    | some p => if c.passes < cmdReached (s.tileAt m).mu c / p then s.after (if last then 1 else 0) .btePassMark { a := m } else s
    | none => s
  | none => s

/-- A store walk goes on (R172, R247): a line that no row to come can touch is written; else it stops at a misaligned row, or the
tile taken leaves the buffer, or the next tile of the buffer is taken. -/
def State.storeWalk (s : State) (m : Nat) (c : BteCmd) : State :=
  match partReady c, c.stopAt with
  | some p, _ => s.writePart m c p
  | none, some va => s.cmdFault m c (trapVa 0x03 va)
  | none, none =>
    if c.pos < c.merged then
      let s1 := (s.modCmd m fun d => { d with pos := d.pos + 1 }).dropTile m
      if c.pos + 1 = walkTiles c.tmpl then (s1.storeMarks m true).cmdDone m
      else (s1.storeMarks m false).after 1 .storeWalkTile { a := m }
    else
      match (s.tileAt m).mu.storebuf with
      | [] => s
      | d :: _ => s.takeTile m c d

/-- STORE_WALK_TILE (R247): the walker of M-tile `ev.a`. -/
def execStoreWalkTile (s : State) : Host.Outcome State Fault Refusal :=
  match (s.tileAt s.ev.a).mu.run with
  | none => .next s
  | some c =>
    if c.stalled ∨ tmplKind c.tmpl ≠ .storeWalk ∨ walkTiles c.tmpl ≤ c.pos then .next s
    else .next (s.inTurn s.ev.a c fun u => u.storeWalk s.ev.a c)

end Sys2Proof.Machine
end

