-- ==== Sys2Proof/Machine/OrderUnit.lean ====
section
/-! DEFINITION. The order units of screen tiles: batches of BLND that arrive, retire in order of sequence tags or are
discarded (R252 to R257), and OCCQ effects (R359, R360). -/

namespace Sys2Proof.Machine

/-! ## Screen-tile records (R252, R359) -/

/-- The 64 bytes of a record as the order unit reads them. -/
def State.recordOf (s : State) (pa vf : Nat) : Nat :=
  let (d, _) := s.homeData { pa := pa, home := 1 } vf
  lineField d (pa % 128) 64

/-- RETC of a record. -/
def recRetc (r : Nat) : Nat := r % 2 ^ 16

/-- RCNT of a record. -/
def recRcnt (r : Nat) : Nat := r / 2 ^ 16 % 32

/-- Word `i` of a record. -/
def recWord (r i : Nat) : Nat := r / 2 ^ (32 * i) % 2 ^ 32

/-- How far a tag is ahead of RETC, modulo 2^16 (R38). -/
def aheadOf (sq : BitVec 16) (r : Nat) : Nat := (sq.toNat + 65536 - recRetc r) % 65536

/-- The tag is behind RETC (R38, R257). -/
def isBehind (sq : BitVec 16) (r : Nat) : Bool := decide (32768 ≤ aheadOf sq r)

/-- Word `i` of a record written by its order unit, an engine write at `cts` (R216). -/
def State.putRecWord (s : State) (pa vf cts i v : Nat) : State := (s.pinWrite 2 vf cts (pa + 4 * i) (leBytes 4 v)).1

/-! ## Blending (R253, R257) -/

/-- 1 − A, exactly. -/
def oneMinus (a : Fp) : Fp :=
  match a with
  | .nan q => .nan q
  | .inf s => .inf (!s)
  | .fin s m e =>
    let g := min e 0
    let v : Int := exactSum [.fin false 1 0, .fin (!s) m e] g
    .fin (decide (v < 0)) v.natAbs g

/-- A component of a pixel under a blend mode, from source, destination and the source's alpha as H16 values; a NaN is 0x7E00
(R257). -/
def blendHalf (mode src dst a : Nat) : Nat :=
  match mode with
  | 1 => (sumTerms h16 0 [unpack h16 src, ((unpack h16 dst).mul (oneMinus (unpack h16 a))).1]).1
  | 2 => (sumTerms h16 0 [unpack h16 src, unpack h16 dst]).1
  | _ => if (unpack h16 src).isNan then 0x7E00 else src

/-- A pixel of 8 bytes under a blend mode. -/
def blendPixel (mode src dst : Nat) : Nat :=
  let h (x k : Nat) : Nat := x / 2 ^ (16 * k) % 2 ^ 16
  (List.range 4).foldl (fun a k => a + blendHalf mode (h src k) (h dst k) (h src 3) * 2 ^ (16 * k)) 0

/-- Lane `l`'s source pixel of a batch. -/
def batchPixel (b : Batch) (l : Nat) : Nat := (lane b.rg l).toNat + (lane b.ba l).toNat * 2 ^ 32

/-- The PA of lane `l`'s pixel of a batch's target (R253). -/
def batchPixelPa (b : Batch) (cove r l : Nat) : Nat :=
  let s4 := if r / 2 ^ 66 % 2 = 1 then 4 else 1
  let x := 4 * (b.block % 4) + l % 4
  let y := 4 * (b.block / 4) + l / 4
  poolAddr cove + r / 2 ^ 128 % 2 ^ 21 + 2048 * s4 * b.target + 8 * (256 * b.sample + 16 * y + x)

/-- A line of colour with the pixels of a batch that lie in it blended. -/
def blendLine (b : Batch) (cove r line : Nat) (d : LineBits) : LineBits :=
  let mode := r / 2 ^ (96 + 2 * b.target) % 4
  (List.range 16).foldl (fun a l =>
    let pa := batchPixelPa b cove r l
    if b.mask.getLsbD l && decide (pa / 128 = line) then
      let o := pa % 128
      mergeLine a (linePlace (blendPixel mode (batchPixel b l) (lineField a o 8)) o 8) (byteMask o 8)
    else a) d

/-- The colour lines that a batch touches. -/
def batchLines (b : Batch) (cove r : Nat) : List Nat :=
  ((List.range 16).filter fun l => b.mask.getLsbD l).foldl (fun a l =>
    let n := batchPixelPa b cove r l / 128
    if a.contains n then a else a ++ [n]) []

/-- A line of the pool of an order unit's cove, as the unit names it. -/
def unitLine (line : Nat) : Xl := { pa := line * 128, home := 1, key := 128 }

/-- A colour line of a batch is written, one engine write (R216, R257). -/
def State.blendOne (s : State) (b : Batch) (cove r line : Nat) : State :=
  match s.homeUpdate (unitLine line) b.vf b.cts (blendLine b cove r line) 0 with
  | .done s1 _ _ _ _ => s1
  | _ => s

/-! ## OCCQ effects (R360) -/

/-- The COMMIT row of R359: pending counts join the committed ones. -/
def State.occCommit (s : State) (pa vf cts : Nat) : State :=
  let r := s.recordOf pa vf
  let occ := (recWord r 10 + recWord r 11 * 2 ^ 32 + recWord r 6) % 2 ^ 64
  let up (i n : Nat) : Nat := (recWord r i + n) % 2 ^ 32
  let ws := [0, 0, 0, 0, occ % 2 ^ 32, occ / 2 ^ 32, up 12 (recWord r 7), up 13 (recWord r 8), up 14 (recWord r 9), up 15 1]
  (s.pinWrite 2 vf cts (pa + 24) (ws.flatMap (leBytes 4))).1

/-- An OCCQ effect is applied. -/
def State.applyOccq (s : State) (o : Occq) : State :=
  match o.form.toNat with
  | 0 =>
    let i := 6 + o.k.toNat
    s.putRecWord o.recPa o.vf o.cts i ((recWord (s.recordOf o.recPa o.vf) i + o.val.toNat) % 2 ^ 32)
  | 1 => s.occCommit o.recPa o.vf o.cts
  | _ => (s.pinWrite 2 o.vf o.cts (o.recPa + 24) (leBytes 16 0)).1

/-- A hold entry that is an OCCQ of form `form` on a record, waiting for RETC as it stands. -/
def occWaits (pa r : Nat) (form : BitVec 2) (h : Hold) : Option Occq :=
  match h with
  | .occq o => if o.landed ∧ o.recPa = pa ∧ o.form = form ∧ aheadOf o.seqAt r = 0 then some o else none
  | _ => none

/-- The held OCCQs that RETC has reached are applied, COMMITs before ADDs, and their entries freed (R360). -/
def State.reachOccqs (s : State) (m pa vf : Nat) : State :=
  let r := s.recordOf pa vf
  let go (s : State) (form : BitVec 2) : State :=
    ((s.tileAt m).mu.hold.filterMap (occWaits pa r form)).foldl (fun (a : State) o =>
      (a.applyOccq o).modMu m fun u => { u with hold := u.hold.erase (.occq o) }) s
  go (go s 1) 0

/-! ## Retirement (R257) -/

/-- Firings whose SEQN waits for RETC look again in the next fc (R361). -/
def State.wakeSeqn (s : State) : State :=
  let l := s.tiles.flatMap fun e => e.2.slots.filterMap fun g => if g.2.wait = .seqn then some (e.1, g.1) else none
  l.foldl (fun a x => a.after 1 .seqnResume { a := x.1, b := x.2 }) s

/-- RCNT rises; when it reaches the batch's n, RETC rises and RCNT is 0 again. What waits for RETC goes on. -/
def State.countBatch (s : State) (m : Nat) (b : Batch) : State :=
  let r := s.recordOf b.recPa b.vf
  let n := recRcnt r + 1
  if n = b.n then
    let s1 := s.putRecWord b.recPa b.vf b.cts 0 ((recRetc r + 1) % 65536)
    (s1.reachOccqs m b.recPa b.vf).wakeSeqn
  else s.putRecWord b.recPa b.vf b.cts 0 (recRetc r + n % 32 * 65536)

/-- A batch retires: its covered pixels are blended, and it is counted. -/
def State.retire (s : State) (m : Nat) (b : Batch) : State :=
  let cove := coveOfTile m
  let r := s.recordOf b.recPa b.vf
  let s1 := (batchLines b cove r).foldl (fun (a : State) n => a.blendOne b cove r n) s
  s1.countBatch m b

/-- The record of a batch that is discarded because its tag is behind RETC (R257). -/
def batchRecord (b : Batch) (gen : BitVec 4) : FaultRec :=
  FaultRec.onTile
    { code := 0x04, src := 5, vf := BitVec.ofNat 7 b.vf, gen := gen, tval := b.sq.setWidth 32, lts := b.cts } b.tile

/-- A batch behind RETC is discarded, with its record. -/
def State.discardBatch (s : State) (m : Nat) (b : Batch) : State :=
  s.postRecord (s.covePart (coveOfTile m)) (batchRecord b (s.vf b.vf).gen) none

/-- The batches that stand at an order unit: held ones in commit order, then those newly committed, by the fc in which they
came, tile and slot. -/
def MUnit.batches (u : MUnit) : List Batch :=
  let held := u.hold.filterMap fun h => match h with
    | .batch b => if b.landed then some b else none
    | _ => none
  let key (e : Nat × Batch) : Nat := (e.1 * 2 ^ 16 + e.2.tile) * 8 + e.2.slot
  let put (l : List (Nat × Batch)) (e : Nat × Batch) : List (Nat × Batch) :=
    (l.filter fun x => decide (key x ≤ key e)) ++ e :: l.filter fun x => decide (key e < key x)
  held ++ (u.inbox.foldl put []).map fun e => e.2

/-- A batch leaves its order unit. -/
def MUnit.dropBatch (u : MUnit) (b : Batch) : MUnit :=
  { u with hold := u.hold.erase (.batch b), inbox := u.inbox.filter fun e => !decide (e.2 = b) }

/-- The order unit looks in this fc or, after a retirement, in the next. -/
def State.lookRetire (s : State) (m d : Nat) : State :=
  if s.agenda.any fun e => decide (e.2.1 = .batchRetire) && decide (e.2.2.a = m) then s
  else s.after d .batchRetire { a := m }

/-- A line that a batch's retirement writes is held PEND by a firing: its engine writes wait (R216). -/
def State.retireWaits (s : State) (m : Nat) (b : Batch) : Bool :=
  (b.recPa / 128 :: batchLines b (coveOfTile m) (s.recordOf b.recPa b.vf)).any fun n => (s.homeDir (unitLine n)).pend

/-- One batch of the record at `pa` retires, if one is eligible and its lines are not PEND. -/
def State.retireOne (s : State) (m pa : Nat) : State :=
  let l := (s.tileAt m).mu.batches.filter fun b => decide (b.recPa = pa)
  match l.find? fun b => decide (aheadOf b.sq (s.recordOf pa b.vf) = 0) with
  | none => s
  | some b => if s.retireWaits m b then s else (s.modMu m fun u => u.dropBatch b).retire m b

/-- The batches of an order unit that RETC has passed are discarded. -/
def State.discardPassed (s : State) (m : Nat) : State :=
  ((s.tileAt m).mu.batches.filter fun b => isBehind b.sq (s.recordOf b.recPa b.vf)).foldl (fun (a : State) b =>
    (a.modMu m fun u => u.dropBatch b).discardBatch m b) s

/-- An order unit retires at most one batch for each screen tile in an fc (R257). It goes on in the next fc while a batch is
eligible. Commits that reach it in this fc come first. -/
def State.retireAll (s : State) (m : Nat) : State :=
  let due := s.agenda.any fun e => decide (e.1 ≤ s.now) && (decide (e.2.1 = .batchOrderArrival) || decide (e.2.1 = .occqArrival))
  if due then s.lookRetire m 0
  else
    let pas := ((s.tileAt m).mu.batches.map fun b => b.recPa).eraseDups
    let s1 := (pas.foldl (fun (a : State) pa => a.retireOne m pa) s).discardPassed m
    if (s1.tileAt m).mu.batches.any fun b => decide (aheadOf b.sq (s1.recordOf b.recPa b.vf) = 0) then s1.lookRetire m 1
    else s1

/-- BATCH_RETIRE (R257): the order unit of M-tile `ev.a`. -/
def execBatchRetire (s : State) : Host.Outcome State Fault Refusal := .next (s.retireAll s.ev.a)

/-- A committed batch reaches its order unit (R257). -/
def State.batchArrives (s : State) (m : Nat) (held : Bool) (b : Batch) : State :=
  let c := { b with landed := true }
  if held then
    (s.modMu m fun u => { u with hold := u.hold.erase (.batch b) ++ [.batch c] }).lookRetire m 0
  else if isBehind b.sq (s.recordOf b.recPa b.vf) then s.discardBatch m b
  else (s.modMu m fun u => { u with inbox := u.inbox ++ [(s.now, c)] }).lookRetire m 0

/-- A committed OCCQ reaches its order unit: it is applied, or waits for RETC in its entry (R360). -/
def State.occqArrives (s : State) (m : Nat) (held : Bool) (o : Occq) : State :=
  let n := aheadOf o.seqAt (s.recordOf o.recPa o.vf)
  let c := { o with landed := true }
  if held ∧ n ≠ 0 ∧ n < 32768 then
    s.modMu m fun u => { u with hold := u.hold.erase (.occq o) ++ [.occq c] }
  else (s.modMu m fun u => { u with hold := if held then u.hold.erase (.occq o) else u.hold }).applyOccq o

/-- What stands under identity `id` on its way to an order unit arrives there. -/
def State.oneArrival (s : State) (id : Nat) : State :=
  let s1 := s.modNet fun w => { w with orders := w.orders.drop id }
  match s.net.orders.look id with
  | some (.batch m held b) => s1.batchArrives m held b
  | some (.occq m held o) => s1.occqArrives m held o
  | _ => s

/-- The M-tile to which a batch or an OCCQ goes, with the tile and slot of its firing as one number. -/
def orderKey (e : Staged) : Option (Nat × Nat) :=
  match e with
  | .batch m _ b => some (m, b.tile * 8 + b.slot)
  | .occq m _ o => some (m, o.tile * 8 + o.slot)
  | _ => none

/-- What reaches the order unit `m` of the arrival `id` in this fc, by lower tile and then lower slot (R257). -/
def State.arrivalsWith (s : State) (id m : Nat) : List Nat :=
  let due := (s.agenda.filter fun e =>
    decide (e.1 ≤ s.now) && (decide (e.2.1 = .batchOrderArrival) || decide (e.2.1 = .occqArrival))).map fun e => e.2.2.a
  let key (n : Nat) : Option (Nat × Nat) := (s.net.orders.look n).bind orderKey
  ((id :: due).eraseDups.filter fun n => decide ((key n).map (fun k => k.1) = some m)).foldl
    (fun l n => insertKey (fun j => ((key j).map fun k => k.2).getD 0) n l) []

/-- What reaches an order unit in the fc of the arrival `id` arrives there. -/
def State.orderArrival (s : State) (id : Nat) : State :=
  match (s.net.orders.look id).bind orderKey with
  | some (m, _) => (s.arrivalsWith id m).foldl (fun (a : State) n => a.oneArrival n) s
  | none => s

/-- BATCH_ORDER_ARRIVAL (R257): the batch `ev.a`. -/
def execBatchOrderArrival (s : State) : Host.Outcome State Fault Refusal := .next (s.orderArrival s.ev.a)

/-- OCCQ_ARRIVAL (R360): the OCCQ `ev.a`. -/
def execOccqArrival (s : State) : Host.Outcome State Fault Refusal := .next (s.orderArrival s.ev.a)

end Sys2Proof.Machine
end

