-- ==== Sys2Proof/Machine/RayGrid.lean ====
section
/-! DEFINITION. The swash ring (R268, R296 to R301, R320 to R322) and the feature grid (R187, R302, R303, R323, R402). -/

namespace Sys2Proof.Machine

/-! ## F32 in the order written (R299, R303) -/

/-- Sum, rounded once. -/
def fadd (a b : W32) : W32 := (addF a b).1
/-- Difference, rounded once. -/
def fsub (a b : W32) : W32 := (subF a b).1
/-- Product, rounded once. -/
def fmul (a b : W32) : W32 := (mulF a b).1
/-- Reciprocal, rounded once. -/
def finv (a : W32) : W32 := BitVec.ofNat 32 (divFmt f32 (unF32 0x3F800000) (unF32 a)).1
/-- `a ≤ b` by value; false with a NaN. -/
def fle (a b : W32) : Bool := !isNanF a && !isNanF b && !(unF32 b).lt (unF32 a)
/-- `a < b` by value. -/
def flt (a b : W32) : Bool := (unF32 a).lt (unF32 b)
/-- The smaller of two. -/
def fmin (a b : W32) : W32 := (minF a b).1
/-- The larger of two. -/
def fmax (a b : W32) : W32 := (maxF a b).1
/-- A natural number below 2^24 as F32. -/
def fnat (n : Nat) : W32 := (i2f 0 n).1

/-- A point or a direction. -/
structure V3 where
  x : W32 := 0
  y : W32 := 0
  z : W32 := 0
  deriving DecidableEq, Repr

/-- Componentwise difference. -/
def V3.sub (a b : V3) : V3 := ⟨fsub a.x b.x, fsub a.y b.y, fsub a.z b.z⟩
/-- Componentwise sum. -/
def V3.add (a b : V3) : V3 := ⟨fadd a.x b.x, fadd a.y b.y, fadd a.z b.z⟩
/-- A scaled vector. -/
def V3.scale (k : W32) (a : V3) : V3 := ⟨fmul k a.x, fmul k a.y, fmul k a.z⟩
/-- Dot product, left to right. -/
def V3.dot (a b : V3) : W32 := fadd (fadd (fmul a.x b.x) (fmul a.y b.y)) (fmul a.z b.z)
/-- Cross product. -/
def V3.cross (a b : V3) : V3 :=
  ⟨fsub (fmul a.y b.z) (fmul a.z b.y), fsub (fmul a.z b.x) (fmul a.x b.z), fsub (fmul a.x b.y) (fmul a.y b.x)⟩
/-- Componentwise minimum. -/
def V3.min (a b : V3) : V3 := ⟨fmin a.x b.x, fmin a.y b.y, fmin a.z b.z⟩
/-- Componentwise maximum. -/
def V3.max (a b : V3) : V3 := ⟨fmax a.x b.x, fmax a.y b.y, fmax a.z b.z⟩

/-! ## The ray payload (R298) -/

/-- A payload with word `i` written. -/
def setWord (p : VBits) (i : Nat) (x : W32) : VBits := ofLanes fun l => if l = i then x else lane p l
/-- ORG. -/
def rayOrg (p : VBits) : V3 := ⟨lane p 0, lane p 1, lane p 2⟩
/-- DIR. -/
def rayDir (p : VBits) : V3 := ⟨lane p 3, lane p 4, lane p 5⟩
/-- BUDG. -/
def rayBudget (p : VBits) : Nat := (lane p 9).toNat / 65536
/-- SDEP. -/
def rayDepth (p : VBits) : Nat := (lane p 9).toNat / 4096 % 16
/-- A payload with BUDG reduced by one. -/
def raySpend (p : VBits) : VBits := setWord p 9 (lane p 9 - 0x10000)
/-- A payload with SDEP written. -/
def raySetDepth (p : VBits) (d : Nat) : VBits := setWord p 9 ((lane p 9 &&& 0xFFFF0FFF) ||| BitVec.ofNat 32 (d * 4096))

/-! ## Intersection tests (R299) -/

/-- One slab of the box test: near and far. A NaN gives −∞ and +∞. -/
def slab (lo hi o d : W32) : W32 × W32 :=
  let inv := finv d
  let t0 := fmul (fsub lo o) inv
  let t1 := fmul (fsub hi o) inv
  if isNanF t0 || isNanF t1 then (0xFF800000, 0x7F800000) else (fmin t0 t1, fmax t0 t1)

/-- The box test: tn on a hit. -/
def boxTest (p : VBits) (lo hi : V3) : Option W32 :=
  let o := rayOrg p
  let d := rayDir p
  let a := slab lo.x hi.x o.x d.x
  let b := slab lo.y hi.y o.y d.y
  let c := slab lo.z hi.z o.z d.z
  let tn := fmax (fmax (fmax (lane p 6) a.1) b.1) c.1
  let tf := fmin (fmin (fmin (lane p 7) a.2) b.2) c.2
  if fle tn tf then some tn else none

/-- The triangle test: t, u and v on a hit. -/
def triTest (p : VBits) (p0 p1 p2 : V3) : Option (W32 × W32 × W32) :=
  let dir := rayDir p
  let e1 := p1.sub p0
  let e2 := p2.sub p0
  let pv := dir.cross e2
  let det := e1.dot pv
  if isZeroF det || isNanF det then none
  else
    let inv := finv det
    let tv := (rayOrg p).sub p0
    let u := fmul (tv.dot pv) inv
    let qv := tv.cross e1
    let v := fmul (dir.dot qv) inv
    let t := fmul (e2.dot qv) inv
    if fle 0 u && fle 0 v && fle (fadd u v) 0x3F800000 && fle (lane p 6) t && flt t (lane p 7) then some (t, u, v) else none

/-- A payload after a hit (R298). -/
def rayHit (p : VBits) (t prim : W32) (u v : Nat) : VBits :=
  setWord (setWord (setWord p 7 t) 14 prim) 15 (BitVec.ofNat 32 (u % 65536 + v % 65536 * 65536))

/-! ## Nodes (R321) -/

/-- Word `i` of a node. -/
def nodeWord (d : LineBits) (i : Nat) : W32 := BitVec.ofNat 32 (lineField d (4 * i) 4)
/-- Three words of a node from word `i`. -/
def nodeV3 (d : LineBits) (i : Nat) : V3 := ⟨nodeWord d i, nodeWord d (i + 1), nodeWord d (i + 2)⟩
/-- TYPE of a node pointer. -/
def ptrType (w : W32) : Nat := w.toNat / 2 ^ 28 % 8
/-- INDEX of a node pointer. -/
def ptrIndex (w : W32) : Nat := w.toNat % 2 ^ 28

/-- Words `lo` to `hi - 1` of a node are zero. -/
def zeroWords (d : LineBits) (lo hi : Nat) : Bool := (upFrom lo (hi - lo)).all fun i => decide (nodeWord d i = 0)

/-- A node is of its pointer's type with its reserved fields zero (R321). -/
def nodeOk (ty : Nat) (d : LineBits) : Bool :=
  let w := (nodeWord d 0).toNat
  decide (w % 8 = ty) &&
    (match ty with
     | 1 => decide (w / 8 = 0) && zeroWords d 1 4
     | 2 => decide (w / 32 = 0) && decide (w / 8 % 4 ≠ 3) && decide ((nodeWord d 2).toNat / 2 ^ 24 = 0) && zeroWords d 3 4
        && zeroWords d 31 32
     | 3 => decide (w / 2 ^ 15 = 0) && zeroWords d 24 32
     | _ => decide (w / 8 % 2 = 0) && decide (w / 256 = 0) && zeroWords d 2 32)

/-- A pointer passes the bounds and type check of a descriptor (R299, R321). -/
def ptrOk (desc : Nat) (w : W32) : Bool :=
  !w.getLsbD 31 && decide (1 ≤ ptrType w) && decide (ptrType w ≤ 4) && decide (ptrIndex w < desc / 2 ^ 64 % 2 ^ 32)

/-- The VA of node `i`. -/
def nodeVa (desc i : Nat) : Nat := desc % 2 ^ 52 + 128 * i

/-! ## Reading at an I-tile (R208, R299) -/

/-- A line of the current version for a reader at timestamp `lts` through the L1 of its cove: the data, and the timestamp
raised to its wts (R208, R297). `tile` is the reader. -/
def State.coveLine (s : State) (tile vf lts va : Nat) : EngRes (LineBits × Nat) :=
  (s.engPage (xlatTile tile) vf lts va .read).bind fun s1 x =>
    let m := servingTile (coveOfTile tile) x.pa
    let c := s1.l1Look m x
    let hit := match c with
      | some e => decide (x.home ≠ 3) && decide (e.wts ≤ lts) && decide (lts ≤ e.rts)
      | none => false
    match hit, c with
    | true, some e => .ok ((s1.modMu m fun u => { u with l1 := l1Install u.l1 e }).charge m vf 47 1) (e.data, lts)
    | _, _ =>
      match (s1.markRoute (dieOfTile tile) (homeDie x) vf).homeLoad x vf lts (some (s1.tileAt tile).lease) (c.map fun e => e.wts) with
      | .pend t k => .wait (some (t, k)) none false
      | .full => .wait none none false
      | .done s2 d ts wts rts =>
        if x.home = 3 then .ok s2 (d, ts) else .ok (s2.l1Reply tile vf x d wts rts) (d, ts)

/-- The translation tables and account that work of VF `vf` in a cove uses. -/
def State.coveTables (s : State) (cove vf : Nat) : Nat := if s.covePart cove = agentPart then 128 else vf

/-! ## The short stack and the spill record (R298) -/

/-- The stack of a ray with its record's count: a pointer pushed, or none where both are full. -/
def State.rayPush (s : State) (cove desc n : Nat) (r : Ray) (w : W32) : Option (State × Ray) :=
  let p := r.pay
  let d := rayDepth p
  let shifted (p : VBits) : VBits := setWord (setWord (setWord p 13 (lane p 12)) 12 (lane p 11)) 11 w
  if d < 3 then some (s, { r with pay := raySetDepth (shifted p) (d + 1) })
  else
    let a := spillAddr cove desc n
    let (l, s1) := s.pinRead 2 r.vf r.lts a 4
    let k := leNat l
    if 63 ≤ k then none
    else
      let (s2, _) := s1.pinWrite 2 r.vf r.lts (a + 4 + 4 * k) (leBytes 4 (lane p 13).toNat)
      let (s3, _) := s2.pinWrite 2 r.vf r.lts a (leBytes 4 (k + 1))
      some (s3, { r with pay := shifted p })

/-- The pointer on top of a ray's stack, if any. -/
def State.rayPop (s : State) (cove desc n : Nat) (r : Ray) : Option (State × Ray × W32) :=
  let p := r.pay
  let d := rayDepth p
  if 0 < d then
    let q := setWord (setWord (setWord p 11 (lane p 12)) 12 (lane p 13)) 13 0
    some (s, { r with pay := raySetDepth q (d - 1) }, lane p 11)
  else
    let a := spillAddr cove desc n
    let (l, s1) := s.pinRead 2 r.vf r.lts a 4
    let k := leNat l
    if k = 0 then none
    else
      let (e, s2) := s1.pinRead 2 r.vf r.lts (a + 4 * k) 4
      let (s3, _) := s2.pinWrite 2 r.vf r.lts a (leBytes 4 (k - 1))
      some (s3, r, BitVec.ofNat 32 (leNat e))

/-! ## Patches (R322) -/

/-- The midpoint of two grid vertices. -/
def midpoint (a b : GridPt) : GridPt := ⟨(a.i + b.i) / 2, (a.j + b.j) / 2⟩

/-- The children of a sub-triangle, in order. -/
def childrenOf (t : SubTri) : List SubTri :=
  let ab := midpoint t.a t.b
  let bc := midpoint t.b t.c
  let ca := midpoint t.c t.a
  let ch (k : Nat) (a b c : GridPt) : SubTri := { level := t.level + 1, entry := 4 * t.entry + k, a := a, b := b, c := c }
  [ch 0 t.a ab ca, ch 1 ab t.b bc, ch 2 ca bc t.c, ch 3 bc ca ab]

/-- The height of a code: BIAS + SCALE·code, each rounded. -/
def patchHeight (d : LineBits) (code : Nat) : W32 := fadd (nodeWord d 3) (fmul (nodeWord d 2) (fnat code))

/-- The point of a grid vertex at a height. -/
def patchPoint (d : LineBits) (depth : Nat) (g : GridPt) (h : W32) : V3 :=
  let k := fnat (2 ^ depth)
  let quo (n : Nat) : W32 := BitVec.ofNat 32 (divFmt f32 (unF32 (fnat n)) (unF32 k)).1
  let b1 := quo g.i
  let b2 := quo g.j
  let b0 := fsub (fsub 0x3F800000 b1) b2
  let mix (x y z : V3) : V3 := ((x.scale b0).add (y.scale b1)).add (z.scale b2)
  (mix (nodeV3 d 4) (nodeV3 d 7) (nodeV3 d 10)).add ((mix (nodeV3 d 13) (nodeV3 d 16) (nodeV3 d 19)).scale h)
where
  /-- The vector scaled by a weight written first. -/
  V3.scale (v : V3) (k : W32) : V3 := ⟨fmul k v.x, fmul k v.y, fmul k v.z⟩

/-- What a patch walk carries: the ray with the lines that its visit has read, whether data lay outside the node region, the fault
that a read met, and the fault that stopped the walk with the sub-triangles still to visit. -/
structure PatchSt where
  ray : Ray := {}
  bad : Bool := false
  halt : Option Trap := none
  stop : Option (Trap × List SubTri) := none
  deriving DecidableEq, Repr

/-- A code of `w` bytes at byte `o` of the data that begins at node `base` (R322). A fault of its reading leaves the lines read before
it, with their wts, to the ray (R297). -/
def State.patchCode (s : State) (tile vf desc base o w : Nat) (st : PatchSt) : EngRes (Nat × PatchSt) :=
  let n := base + o / 128
  if st.halt.isSome then .ok s (0, st)
  else if desc / 2 ^ 64 % 2 ^ 32 ≤ n then .ok s (0, { st with bad := true })
  else
    match st.ray.seen.find? fun e => decide (e.1 = n) with
    | some e => .ok s (lineField e.2 (o % 128) w, st)
    | none =>
      match s.coveLine tile vf st.ray.lts (nodeVa desc n) with
      | .wait h p b => .wait h p b
      | .bad s1 e => .ok s1 (0, { st with halt := some e })
      | .ok s1 r =>
        .ok s1 (lineField r.1 (o % 128) w,
          { st with ray := { st.ray with lts := Nat.max st.ray.lts r.2, seen := st.ray.seen ++ [(n, r.1)] } })

/-- The code of a grid vertex. -/
def State.vertexCode (s : State) (tile vf desc : Nat) (d : LineBits) (depth : Nat) (g : GridPt) (st : PatchSt) :
    EngRes (Nat × PatchSt) :=
  let w := if (nodeWord d 0).getLsbD 6 then 2 else 1
  let idx := g.j * (2 * 2 ^ depth + 3 - g.j) / 2 + g.i
  s.patchCode tile vf desc (nodeWord d 22).toNat (w * idx) w st

/-- The box of a sub-triangle: its corners at the least and greatest heights. -/
def subBox (d : LineBits) (depth : Nat) (t : SubTri) (lo hi : Nat) : V3 × V3 :=
  let hl := patchHeight d lo
  let hh := patchHeight d hi
  let ps := [t.b, t.c].flatMap fun g => [patchPoint d depth g hl, patchPoint d depth g hh]
  let a0 := patchPoint d depth t.a hl
  let a1 := patchPoint d depth t.a hh
  (ps.foldl V3.min (a0.min a1), ps.foldl V3.max (a0.max a1))

/-- The coarse barycentric `(n ± u)/2^d`, rounded to H16 (R299, R322). -/
def coarse (depth n : Nat) (u : W32) (neg : Bool) : Nat :=
  let down (x : Fp) : Fp := match x with
    | .fin s m e => .fin s m (e - depth)
    | y => y
  (sumTerms h16 0 [down (.fin false n 0), down (if neg then (unF32 u).neg else unF32 u)]).1

/-- A micro-triangle is tested with its own corners' heights, which must lie in the node region (R322). -/
def State.microTest (s : State) (tile vf desc : Nat) (d : LineBits) (depth : Nat) (t : SubTri) (st : PatchSt) :
    EngRes PatchSt :=
  (s.vertexCode tile vf desc d depth t.a st).bind fun s1 a =>
    (s1.vertexCode tile vf desc d depth t.b a.2).bind fun s2 b =>
      (s2.vertexCode tile vf desc d depth t.c b.2).bind fun s3 c =>
        let pt (g : GridPt) (code : Nat) : V3 := patchPoint d depth g (patchHeight d code)
        let st1 := c.2
        if st1.bad || st1.halt.isSome then .ok s3 st1
        else
        match triTest st1.ray.pay (pt t.a a.1) (pt t.b b.1) (pt t.c c.1) with
        | none => .ok s3 st1
        | some (tt, u, v) =>
          let inv := decide (t.b.i + 1 = t.a.i)
          let pay := rayHit st1.ray.pay tt (nodeWord d 1) (coarse depth t.a.i u inv) (coarse depth t.a.j v inv)
          .ok s3 { st1 with ray := { st1.ray with pay := pay } }

/-- A sub-triangle is visited: a box by the pyramid's codes, a micro-triangle by its test. Its children to visit come back. -/
def State.subVisit (s : State) (tile vf desc : Nat) (d : LineBits) (depth : Nat) (t : SubTri) (st : PatchSt) :
    EngRes (PatchSt × List SubTri) :=
  if t.level = depth then (s.microTest tile vf desc d depth t st).bind fun s1 st1 => .ok s1 (st1, [])
  else
    let w := if (nodeWord d 0).getLsbD 6 then 2 else 1
    let o := 2 * w * ((4 ^ t.level - 1) / 3 + t.entry)
    (s.patchCode tile vf desc (nodeWord d 23).toNat o w st).bind fun s1 a =>
      (s1.patchCode tile vf desc (nodeWord d 23).toNat (o + w) w a.2).bind fun s2 b =>
        let bx := subBox d depth t a.1 b.1
        .ok s2 (b.2, if !b.2.bad && b.2.halt.isNone && (boxTest b.2.ray.pay bx.1 bx.2).isSome then childrenOf t else [])

/-- The sub-triangles of a patch are visited, each for one unit of budget, the first of them paid for already (`paid`). The answer
tells a ray that ran out of budget or of the node region; a fault stops the walk where it stands (R226, R299, R300). -/
def State.patchWalk (fuel : Nat) (s : State) (tile vf desc : Nat) (d : LineBits) (depth : Nat) (l : List SubTri) (paid : Bool)
    (st : PatchSt) : EngRes (PatchSt × Bool) :=
  match fuel, l with
  | _, [] => .ok s (st, true)
  | 0, _ => .ok s (st, true)
  | n + 1, t :: rest =>
    if !paid && decide (rayBudget st.ray.pay = 0) then .ok s (st, false)
    else
      let st1 := if paid then st else { st with ray := { st.ray with pay := raySpend st.ray.pay } }
      let s0 := if paid then s else s.charge tile vf 62 1
      match s0.subVisit tile vf desc d depth t st1 with
      | .wait o p b => .wait o p b
      | .bad s1 e => .ok s1 ({ st1 with stop := some (e, l) }, true)
      | .ok s1 x =>
        match x.1.halt with
        | some e => .ok s1 ({ st1 with ray := { st1.ray with lts := x.1.ray.lts, seen := x.1.ray.seen }, stop := some (e, l) }, true)
        | none => if x.1.bad then .ok s1 (x.1, false) else s1.patchWalk n tile vf desc d depth (x.2 ++ rest) false x.1

/-! ## A visit (R299 to R301) -/

/-- How a visit leaves its ray: at a node, at the target of a link, at its end, or in a patch at a fault with the sub-triangles
still to visit. -/
inductive VisitEnd where
  | fault (e : Trap) (todo : List SubTri)
  | at_ (w : W32)
  | pop
  | link (cove : Nat) (root : W32)
  | bad
  deriving DecidableEq, Repr

/-- A hit child put in the order of R299: tn ascending, ties by child index. -/
def insertHit (e : W32 × W32) (l : List (W32 × W32)) : List (W32 × W32) :=
  match l with
  | [] => [e]
  | f :: r => if flt e.1 f.1 then e :: f :: r else f :: insertHit e r

/-- Pointers pushed in order, the last to be the top; false where one finds the stack and its record full. -/
def State.rayPushAll (s : State) (cove desc n : Nat) (r : Ray) (l : List W32) : State × Ray × Bool :=
  match l with
  | [] => (s, r, true)
  | w :: rest =>
    match s.rayPush cove desc n r w with
    | none => (s, r, false)
    | some (s1, r1) => s1.rayPushAll cove desc n r1 rest

/-- A box node (R298, R299). -/
def State.visitBox (s : State) (cove desc n : Nat) (r : Ray) (d : LineBits) : State × Ray × VisitEnd :=
  let kids := (List.range 4).filterMap fun k =>
    let w := nodeWord d (28 + k)
    if ptrType w = 0 then none
    else (boxTest r.pay (nodeV3 d (4 + 6 * k)) (nodeV3 d (7 + 6 * k))).map fun t => (t, w)
  match kids.foldl (fun a e => insertHit e a) [] with
  | [] => (s, r, .pop)
  | e :: rest =>
    let (s1, r1, ok) := s.rayPushAll cove desc n r (rest.reverse.map fun x => x.2)
    (s1, r1, if ok then .at_ e.2 else .bad)

/-- A triangle leaf (R299, R321). -/
def visitLeaf (r : Ray) (d : LineBits) : Ray :=
  (List.range ((nodeWord d 0).toNat / 8 % 4 + 1)).foldl (fun a j =>
    let m := (nodeWord d 2).toNat / 2 ^ (8 * j) % 256
    if ((lane a.pay 9).toNat % 256) &&& m = 0 then a
    else
      match triTest a.pay (nodeV3 d (4 + 9 * j)) (nodeV3 d (7 + 9 * j)) (nodeV3 d (10 + 9 * j)) with
      | none => a
      | some (t, u, v) =>
        { a with pay := rayHit a.pay t (nodeWord d 1 + BitVec.ofNat 32 j) (narrowF h16 0 u).1 (narrowF h16 0 v).1 }) r

/-- What a visit of the node that holds `d` does (R299, R301). `todo` is what a fault left of a patch. -/
def State.visitNode (s : State) (cove tile vf desc n : Nat) (r : Ray) (d : LineBits) (todo : List SubTri) :
    EngRes (Ray × VisitEnd) :=
  let w0 := (nodeWord d 0).toNat
  match w0 % 8 with
  | 1 =>
    let x := s.visitBox cove desc n r d
    .ok x.1 x.2
  | 2 => .ok s (visitLeaf r d, .pop)
  | 3 =>
    let depth := w0 / 8 % 8
    if ((lane r.pay 9).toNat % 256) &&& (w0 / 128 % 256) = 0 then .ok s (r, .pop)
    else
      let root : SubTri := { a := ⟨0, 0⟩, b := ⟨2 ^ depth, 0⟩, c := ⟨0, 2 ^ depth⟩ }
      (s.patchWalk 32768 tile vf desc d depth (if todo = [] then [root] else todo) (decide (todo ≠ [])) { ray := r }).bind fun s1 x =>
        .ok s1 (x.1.ray, match x.1.stop with
          | some (e, l) => .fault e l
          | none => if x.2 then .pop else .bad)
  | _ =>
    let p := w0 / 16 % 16
    if !desc.testBit (400 + p) then .ok s (r, .bad)
    else
      let e := desc / 2 ^ (256 + 9 * p) % 512
      match s.relCove (s.covePart cove) (e / 64) (e % 64) with
      | none => .ok s (r, .bad)
      | some c => .ok s (r, .link c (nodeWord d 1))

/-- The ray in ring slot `n` goes on from a node. -/
def State.rayTo (s : State) (cove n : Nat) (r : Ray) (w : W32) : State :=
  (s.modCove cove fun c => { c with ring := c.ring.put n { r with pay := setWord r.pay 10 w } }).after 1 .rayNodeVisit
    { a := cove, b := n }

/-- The record of a ray's fault (R300, R325). -/
def State.rayRecord (s : State) (tile : Nat) (r : Ray) (e : Trap) : FaultRec :=
  FaultRec.onTile
    { code := e.code, src := 2, vf := BitVec.ofNat 7 r.vf, gen := (s.vf r.vf).gen, tval := e.tval, vahi := e.vahi
      wstg := e.wstg, wlvl := e.wlvl, itag := r.itag, stag := r.stag, lts := r.lts } tile

/-- A fault of a visit: F_XLATE stalls the ray where it stands, any other ends it with MALFORMED (R226, R300). -/
def State.rayFault (s : State) (cove n : Nat) (r : Ray) (e : Trap) : State :=
  if e.code = 0x01 then
    let s1 := s.modCove cove fun c => { c with ring := c.ring.put n { r with stalled := true, join := none } }
    s1.postXlate (s.covePart cove) { s.rayRecord (ringTile cove n) r e with recov := true, who := cove * 256 + n }
  else (s.postRecord (s.covePart cove) (s.rayRecord (ringTile cove n) r e) none).endRay cove n r 3

/-- What follows a visit of the node `d`: the next node, a migration, a fault, or the ray's end. -/
def State.rayNext (s : State) (cove desc n : Nat) (d : LineBits) (r : Ray) (v : VisitEnd) : State :=
  match v with
  | .fault e todo => s.rayFault cove n { r with paid := true, node := some d, todo := todo } e
  | .at_ w => s.rayTo cove n r w
  | .bad => s.endRay cove n r 3
  | .link c w =>
    if c = cove then s.rayTo cove n r w
    else
      (s.modCove cove fun d => { d with ring := d.ring.put n { r with target := some (c, w) } }).after 1 .rayMigration
        { a := cove, b := n }
  | .pop =>
    match s.rayPop cove desc n r with
    | some (s1, r1, w) => s1.rayTo cove n r1 w
    | none => s.endRay cove n r (if lane r.pay 14 = 0xFFFFFFFF then 2 else 1)

/-- A ray visits one node: it takes a unit of budget, reads the node, and goes on (R299, R300). One that waits is tried again in the
next fc; one that F_XLATE stalled goes on where it stopped (R226). -/
def State.visitRay (s : State) (cove n : Nat) : State :=
  let tile := ringTile cove n
  match (s.coveAt cove).ring.look n, s.fromInq (xlatTile tile) (rayId tile n) with
  | none, _ => s
  | some _, none => s.after 1 .rayNodeVisit { a := cove, b := n }
  | some r, some s =>
    let desc := (s.coveAt cove).scene r.scene
    let vf := s.coveTables cove r.vf
    let node := lane r.pay 10
    if r.stalled then s
    else if desc = 0 ∨ !ptrOk desc node ∨ (!r.paid && decide (rayBudget r.pay = 0)) then s.endRay cove n r 3
    else
      let s0 := if r.paid then s else s.charge tile vf 62 1
      let r1 := { r with
        pay := if r.paid then r.pay else raySpend r.pay
        join := none, paid := false, node := none, todo := [], seen := if r.node.isSome then r.seen else [] }
      let read : EngRes (LineBits × Nat) := match r.node with
        | some d => .ok s0 (d, r.lts)
        | none => s0.coveLine tile vf r.lts (nodeVa desc (ptrIndex node))
      let run := read.bind fun s1 d =>
        let r2 := { r1 with lts := Nat.max r1.lts d.2 }
        if nodeOk (ptrType node) d.1 then
          (s1.visitNode cove tile vf desc n r2 d.1 r.todo).bind fun s2 x => .ok s2 (d.1, x)
        else .ok s1 (d.1, r2, .bad)
      match run with
      | .ok s1 x => s1.rayNext cove desc n x.1 x.2.1 x.2.2
      | .wait _ p b =>
        let s1 := if b then s.standIn (xlatTile tile) (rayId tile n) else s
        (s1.modCove cove fun c => { c with ring := c.ring.put n { r with join := p } }).after 1 .rayNodeVisit { a := cove, b := n }
      | .bad s1 e => s1.rayFault cove n { r1 with paid := true } e

/-- RAY_NODE_VISIT (R299): the ray in ring slot `ev.b` of cove `ev.a`. -/
def execRayNodeVisit (s : State) : Host.Outcome State Fault Refusal := .next (s.visitRay s.ev.a s.ev.b)

/-- The virtual channel of a ray between dies: the lowest on which no other partition's cut edge takes one of its lanes (R278; log 113). -/
def State.rayVc (s : State) (part : Nat) (legs : List Nat) : Nat :=
  ((List.range 8).find? fun v => !s.cfg.chans.any fun e =>
    decide (e.2.part ≠ part) && decide (e.2.vc = v) && e.2.route.any fun l => legs.contains l.lane).getD 0

/-- A ray leaves its I-tile for slot `k` of cove `c`'s ring: over the mesh, or over the lanes of the die edges between, in their
rounds (R279, R301; log 113). Its flits' hops are charged to its context (R281). -/
def State.moveRay (s : State) (src dst c k : Nat) (r : Ray) : State :=
  let part := s.covePart c
  let legs := dieRoute (dieOfTile src) (dieOfTile dst)
  let s1 := s.charge src r.vf 60 (rayFlits * (hops src dst + legs.length))
  match legs with
  | [] => s1.after (1 + hops src dst) .rayNodeVisit { a := c, b := k }
  | l :: rest =>
    let (id, s2) := s1.fresh
    let vc := s.rayVc part legs
    let fl : Flight :=
      { chan := rayChan part, tok := { ctx := BitVec.ofNat 7 r.vf, itag := r.itag, stag := r.stag, nflit := 4, gen := r.gen, lts := r.lts }
        header := s.now + 1 + hops src dst + 12 * legs.length, legs := rest, ray := some { cove := c, slot := k, vc := vc } }
    (s2.modNet fun w => { w with flights := w.flights.put id fl }).laneJoin l vc id

/-- A ray that has met a link to another cove takes a slot of that cove's ring, with its spill record, and goes on at the root
there; it keeps its own slot until then (R268, R301; log 113). An unconfigured slot of that cove has no spill area. -/
def State.migrateRay (s : State) (cove n : Nat) : State :=
  match (s.coveAt cove).ring.look n with
  | none => s
  | some r =>
    match r.target with
    | none => s
    | some (c, w) =>
      if s.ringRoom c = 0 then s.after 1 .rayMigration { a := cove, b := n }
      else
        let k := freeRing (s.coveAt c).ring 0 256
        let src := ringTile cove n
        let dst := ringTile c k
        let (bs, s1) := s.pinRead 4 r.vf r.lts (spillAddr cove ((s.coveAt cove).scene r.scene) n) 256
        let dest := (s.coveAt c).scene r.scene
        let s2 := if dest = 0 then s1 else (s1.pinWrite 4 r.vf r.lts (spillAddr c dest k) bs).1
        let s3 := s2.charge src (s.coveTables cove r.vf) 57 2
        let r1 := { r with target := none, pay := setWord r.pay 10 w }
        let s4 := s3.modCove c fun d => { d with ring := d.ring.put k r1 }
        let s5 := (s4.modCove cove fun d => { d with ring := d.ring.drop n }).wakeScenes cove
        s5.moveRay src dst c k r1

/-- RAY_MIGRATION (R301): the ray in ring slot `ev.b` of cove `ev.a`. -/
def execRayMigration (s : State) : Host.Outcome State Fault Refusal := .next (s.migrateRay s.ev.a s.ev.b)

/-! ## Feature-grid requests (R302, R402) -/

/-- The three tokens of the oldest request that has arrived whole at a G-tile. -/
def State.gridHead (s : State) (g : Nat) : Option (Waiting × Waiting × Waiting) :=
  let l := (s.tileAt g).wait.filter fun w => decide (w.ready ≤ s.now)
  l.findSome? fun w =>
    match l.filter fun v => decide (v.chan = w.chan) && decide (v.crep = w.crep) with
    | a :: b :: c :: _ => some (a, b, c)
    | _ => none

/-- A G-tile takes a request, all three tokens together, while one of its 4 result slots is free (R402). -/
def State.takeRequest (s : State) (g : Nat) : State :=
  if 4 ≤ (s.tileAt g).gslots.length then s
  else
    match s.gridHead g with
    | none => s
    | some (a, b, c) =>
      let s1 := ((s.consume g a).consume g b).consume g c
      let s2 := s1.modTile g fun x => { x with gslots := x.gslots ++ [{ x := a.tok, y := b.tok, z := c.tok }] }
      (s2.after 1 .gridBatchSend { a := g }).after 1 .gridRequestTake { a := g }

/-- GRID_REQUEST_TAKE (R402): G-tile `ev.a`. -/
def execGridRequestTake (s : State) : Host.Outcome State Fault Refusal := .next (s.takeRequest s.ev.a)

/-! ## Lookups (R303, R323) -/

/-- NLEV + 1 of a grid descriptor. -/
def gridLevels (d : VBits) : Nat := d.toNat % 16 + 1
/-- Resolution of level `k`. -/
def gridRes (d : VBits) (k : Nat) : Nat := d.toNat / 2 ^ (64 + 21 * k) % 65536
/-- T of level `k`. -/
def gridT (d : VBits) (k : Nat) : Nat := d.toNat / 2 ^ (80 + 21 * k) % 32
/-- The VA of level `k`'s table. -/
def gridBase (d : VBits) (k : Nat) : Nat :=
  d.toNat / 2 ^ 12 % 2 ^ 52 + 4 * (List.range k).foldl (fun a j => a + 2 ^ gridT d j) 0

/-- The entry index of a corner (R303). -/
def gridIndex (r t cx cy cz : Nat) : Nat :=
  if (r + 1) ^ 3 ≤ 2 ^ t then cx + (r + 1) * (cy + (r + 1) * cz)
  else Nat.xor (Nat.xor cx (cy * 0x9E3779B1 % 2 ^ 32)) (cz * 0x85EBCA77 % 2 ^ 32) % 2 ^ t

/-- The cell and the fraction of a coordinate at resolution `r`. -/
def gridCell (c : W32) (r : Nat) : Nat × W32 :=
  let x := fmul (fmin (fmax c 0) 0x3F800000) (fnat r)
  let fl := match unF32 x with
    | .fin _ m e => (roundAt 1 false m e 0).1
    | _ => 0
  let i := Nat.min fl (r - 1)
  (i, fsub x (fnat i))

/-- A line held by a grid cache becomes most recent; it holds 512 lines, 64 KiB. -/
def gridInstall (l : List L1Line) (e : L1Line) : List L1Line :=
  (e :: l.filter fun x => !decide (x.line = e.line)).take 512

/-- An entry of a feature table, a configuration read at the request's LTS through the grid cache with a lease of 16 (R307, R323). -/
def State.gridEntry (s : State) (g vf lts va : Nat) : EngRes Nat :=
  (s.engPage (xlatTile g) vf lts va .config).bind fun s1 x =>
    let line := x.pa / 128
    let c := (s1.tileAt g).gcache.find? fun e => e.line = line
    let hit := match c with
      | some e => decide (x.home ≠ 3) && decide (e.wts ≤ lts) && decide (lts ≤ e.rts)
      | none => false
    match hit, c with
    | true, some e => .ok (s1.modTile g fun y => { y with gcache := gridInstall y.gcache e }) (lineField e.data (x.pa % 128) 4)
    | _, _ =>
      match (s1.markRoute (dieOfTile g) (homeDie x) vf).homeLoad x vf lts (some 16) (c.map fun e => e.wts) with
      | .pend t k => .wait (some (t, k)) none false
      | .full => .wait none none false
      | .done s2 d _ wts rts =>
        let s3 := if x.home = 3 then s2
          else s2.modTile g fun y => { y with gcache := gridInstall y.gcache { line := line, data := d, wts := wts, rts := rts, key := x.key } }
        .ok s3 (lineField d (x.pa % 128) 4)

/-- The sums of both features over corners `q` on (R303). -/
def State.gridCorners (s : State) (g vf lts : Nat) (d : VBits) (k : Nat) (c : (Nat × W32) × (Nat × W32) × (Nat × W32))
    (qs : List Nat) (acc : W32 × W32) : EngRes (W32 × W32) :=
  match qs with
  | [] => .ok s acc
  | q :: rest =>
    let bit (n : Nat) : Nat := q / 2 ^ n % 2
    let wt (n : Nat) (f : W32) : W32 := if bit n = 1 then f else fsub 0x3F800000 f
    let idx := gridIndex (gridRes d k) (gridT d k) (c.1.1 + bit 0) (c.2.1.1 + bit 1) (c.2.2.1 + bit 2)
    let w := fmul (fmul (wt 0 c.1.2) (wt 1 c.2.1.2)) (wt 2 c.2.2.2)
    (s.gridEntry g vf lts (gridBase d k + 4 * idx)).bind fun s1 e =>
      let feat (n : Nat) : W32 := (widenF h16 (e / 2 ^ (16 * n) % 65536)).1
      s1.gridCorners g vf lts d k c rest (fadd acc.1 (fmul w (feat 0)), fadd acc.2 (fmul w (feat 1)))

/-- The halfwords of a point's row for levels `ks`, with the flags of their rounding. -/
def State.gridRow (s : State) (g vf lts : Nat) (d : VBits) (x y z : W32) (ks : List Nat) (row : Nat) (fl : Flags) :
    EngRes (Nat × Flags) :=
  match ks with
  | [] => .ok s (row, fl)
  | k :: rest =>
    let r := gridRes d k
    let c := (gridCell x r, gridCell y r, gridCell z r)
    (s.gridCorners g vf lts d k c (List.range 8) (0, 0)).bind fun s1 a =>
      let p := narrowF h16 0 a.1
      let q := narrowF h16 0 a.2
      s1.gridRow g vf lts d x y z rest (row + (p.1 + q.1 * 65536) * 2 ^ (32 * k)) (fl ||| p.2 ||| q.2)

/-- What one point of a request gives: a row, a row in error, or a wait or a fault of its reading. -/
inductive PointRes where
  | row (s : State) (r : Nat) (fl : Flags)
  | err (s : State) (e : Option Trap)
  | wait (page : Option (Nat × Nat)) (full : Bool)
  | held (e : Trap)

/-- Point `k` of a request is looked up. A soft error zeroes its row, as a NaN does (R303). -/
def State.gridPoint (s : State) (g vf : Nat) (d : VBits) (q : GSlot) (k : Nat) : PointRes :=
  let x := lane q.x.pay k
  let y := lane q.y.pay k
  let z := lane q.z.pay k
  let s0 := s.charge g vf 63 (gridLevels d)
  if isNanF x || isNanF y || isNanF z || q.abandon.contains k then .err s0 none
  else
    match s0.gridRow g vf q.x.lts d x y z (List.range (gridLevels d)) 0 0 with
    | .ok s1 r => .row s1 r.1 r.2
    | .wait _ p b => .wait p b
    | .bad s1 e => if e.code = 0x01 then .held e else .err s1 (if e.code = 0x0D then none else some e)

/-- The record of a request's fault (R303, R325). -/
def State.gridRecord (s : State) (g : Nat) (q : GSlot) (e : Trap) : FaultRec :=
  FaultRec.onTile
    { code := e.code, src := 6, vf := q.x.ctx, gen := (s.vf q.x.ctx.toNat).gen, tval := e.tval, vahi := e.vahi
      wstg := e.wstg, wlvl := e.wlvl, itag := q.x.itag, stag := q.x.stag, lts := q.x.lts } g

/-- What the lookup of a whole request gives. -/
inductive LookRes where
  | done (s : State) (b : GBatch) (fs : List Trap)
  | wait (page : Option (Nat × Nat)) (full : Bool)
  | held (k : Nat) (e : Trap)

/-- The points `ks` of a request are looked up into its batch. -/
def State.gridPoints (s : State) (g vf : Nat) (d : VBits) (q : GSlot) (ks : List Nat) (b : GBatch) (fs : List Trap) : LookRes :=
  match ks with
  | [] => .done s b fs
  | k :: rest =>
    match s.gridPoint g vf d q k with
    | .row s1 r fl => s1.gridPoints g vf d q rest { b with rows := b.rows.set 0 k (BitVec.ofNat 512 r), flags := b.flags ||| fl } fs
    | .err s1 e => s1.gridPoints g vf d q rest { b with errf := b.errf ||| BitVec.twoPow 16 k } (fs ++ e.toList)
    | .wait p b => .wait p b
    | .held e => .held k e

/-- `s` with the oldest result slot of a G-tile changed. -/
def State.modGslot (s : State) (g : Nat) (f : GSlot → GSlot) : State :=
  s.modTile g fun x => { x with gslots := match x.gslots with
    | q :: rest => f q :: rest
    | [] => [] }

/-- The oldest request of a G-tile is looked up (R303, R323). -/
def State.gridLookup (s : State) (g : Nat) (q : GSlot) : State :=
  let cls := q.x.cls.toNat
  let p := cls % 16 + 1
  let cove := coveOfTile g
  let vf := s.coveTables cove q.x.ctx.toNat
  let d := (s.tcfg g).grid.get 0 (cls / 16 % 8)
  let b : GBatch := { gtile := g, xtile := tileOfCove cove (q.y.cls.toNat % 64), vf := q.x.ctx.toNat, p := p }
  if !d.getLsbD 4 then
    (s.modGslot g fun x => { x with out := some { b with errf := 0xFFFF } }).after 1 .gridBatchSend { a := g }
  else
    match s.gridPoints g vf d q (List.range p) b [] with
    | .wait p b =>
      let s1 := if b then s.standIn (xlatTile g) (gridId g) else s
      (s1.modGslot g fun x => { x with join := p }).after 1 .gridBatchSend { a := g }
    | .held k e =>
      (s.modGslot g fun x => { x with held := true, join := none }).postXlate (s.covePart cove)
        { s.gridRecord g q e with recov := true, who := g * 16 + k }
    | .done s1 b2 fs =>
      let s2 := fs.foldl (fun a e => a.postRecord (a.covePart cove) (a.gridRecord g q e) none) s1
      (s2.modGslot g fun x => { x with out := some b2, join := none }).after 1 .gridBatchSend { a := g }

/-- An X-tile has a berth with a grid binding that names a G-tile (R311, R402). -/
def State.gridBound (s : State) (xt g : Nat) : Bool :=
  (s.tcfg xt).berths.any fun e => (List.range 2).any fun i =>
    e.2.gbind.getLsbD (7 * i + 6) && decide (bindGrid e.2 xt i = g)

/-- The batch buffer for a G-tile at an X-tile has room for one more (R402). -/
def State.gridRoom (s : State) (xt g : Nat) : Bool :=
  let here (b : GBatch) : Bool := decide (b.gtile = g) && decide (b.xtile = xt)
  decide (((s.tileAt xt).gbuf.filter here).length + (s.net.batches.filter fun e => here e.2).length < 2)

/-- A result slot frees. -/
def State.freeGslot (s : State) (g : Nat) : State :=
  ((s.modTile g fun x => { x with gslots := x.gslots.drop 1 }).after 1 .gridBatchSend { a := g }).after 1 .gridRequestTake { a := g }

/-- The oldest result slot of a G-tile: its request is looked up, then its batch is sent when its buffer has room, or
discarded where no binding takes it (R402). -/
def State.gridSend (s : State) (g : Nat) : State :=
  match (s.tileAt g).gslots with
  | [] => s
  | q :: _ =>
    if q.held || q.sent then s
    else
      match q.out with
      | none =>
        match s.fromInq (xlatTile g) (gridId g) with
        | some s1 => s1.gridLookup g q
        | none => s.after 1 .gridBatchSend { a := g }
      | some b =>
        if !s.gridBound b.xtile g then (s.countDrop b.vf 1).freeGslot g
        else if s.gridRoom b.xtile g then
          let (id, s1) := s.fresh
          let s2 := s1.modNet fun w => { w with batches := w.batches.put id b }
          let s3 := s2.charge g b.vf 60 ((1 + 4 * b.p) * hops g b.xtile)
          let s4 := s3.after (2 + hops g b.xtile + 4 * b.p) .gridBatchArrival { a := b.xtile, b := id }
          (s4.modGslot g fun x => { x with sent := true }).after (1 + 4 * b.p) .gridBatchSend { a := g, b := 1 }
        else s

/-- GRID_BATCH_SEND (R402): G-tile `ev.a`; with `ev.b` = 1 the last flit of the batch being sent has left. -/
def execGridBatchSend (s : State) : Host.Outcome State Fault Refusal :=
  .next (if s.ev.b = 1 then s.freeGslot s.ev.a else s.gridSend s.ev.a)

/-- GRID_BATCH_ARRIVAL (R187, R402): batch `ev.b` enters the buffer of X-tile `ev.a`. -/
def execGridBatchArrival (s : State) : Host.Outcome State Fault Refusal :=
  match s.net.batches.look s.ev.b with
  | none => .next s
  | some b =>
    let s1 := s.modNet fun w => { w with batches := w.batches.drop s.ev.b }
    .next ((s1.modTile s.ev.a fun x => { x with gbuf := x.gbuf ++ [b] }).after 0 .owedWriteLanding { a := s.ev.a })

end Sys2Proof.Machine
end

