-- ==== Sys2Proof/Machine/Parts.lean ====
section
/-! DEFINITION. Partitions as sets of coves (R16, R316): what belongs to one, the emptying of its tiles and queues, L1
lines and PEND records that go with a cove (R205, R206), and the ebb tree (R337). -/

namespace Sys2Proof.Machine

/-! ## Places -/

/-- The coves of a partition on a die, in row-major order of its rectangle (R316). -/
def State.dieCoves (s : State) (part d : Nat) : List Nat :=
  match s.rectOf part d with
  | some (x, y, w, h) => (upFrom y h).flatMap fun r => (upFrom x w).map fun c => d * 64 + r * 8 + c
  | none => []

/-- The coves of a partition, die by die in row-major order. -/
def State.partCoves (s : State) (part : Nat) : List Nat := (List.range 8).flatMap fun d => s.dieCoves part d

/-- The cove belongs to the partition. -/
def State.inPart (s : State) (part cove : Nat) : Bool := (s.dieCoves part (cove / 64)).contains cove

/-- The tiles of a partition. -/
def State.partTiles (s : State) (part : Nat) : List Nat := (s.partCoves part).flatMap fun c => upFrom (c * 64) 64

/-- A tile of the partition's chart, named relative to its origin (R42, R72). -/
def State.absTile (s : State) (part t : Nat) : Option Nat :=
  (s.relCove part (t / 4096) (t / 64 % 64)).map fun c => tileOfCove c (t % 64)

/-- A channel belongs to a partition's chart. -/
def State.chanIn (s : State) (part c : Nat) : Bool :=
  match s.chan c with
  | some x => decide (x.part = part)
  | none => false

/-- A token or ray on its way is of a partition's chart. -/
def State.flightIn (s : State) (part : Nat) (f : Flight) : Bool :=
  if f.ray.isSome then decide (f.chan = rayChan part) else s.chanIn part f.chan

/-- What stands on its way to an order unit goes to a tile of the partition. -/
def State.orderIn (s : State) (part : Nat) (e : Staged) : Bool :=
  match e with
  | .batch m _ _ => s.inPart part (coveOfTile m)
  | .occq m _ _ => s.inPart part (coveOfTile m)
  | _ => false

/-- A step that is due belongs to a partition: it acts on its tiles, coves, channels or queues. Requests at shared units
belong to none (R334 step 2). -/
def State.eventIn (s : State) (part : Nat) (i : Instr) (e : EvArg) : Bool :=
  match i with
  | .tokenArrival =>
    match s.net.flights.look e.a with
    | some f => s.flightIn part f
    | none => false
  | .creditReturn => s.chanIn part e.a
  | .gridBatchArrival =>
    match s.net.batches.look e.b with
    | some b => s.inPart part (coveOfTile b.gtile)
    | none => false
  | .batchOrderArrival | .occqArrival =>
    match s.net.orders.look e.a with
    | some o => s.orderIn part o
    | none => false
  | .taskReady | .computeTaskDispatch | .copyTaskDispatch | .rayNodeVisit | .rayMigration => s.inPart part e.a
  | .xlateRecordPost | .faultEdgeSend | .replicaRelease => decide (e.a = part)
  | .controlTokenTake | .operandRetry | .poolSlotTimeout | .memoryReply | .bermWaitResume | .fillWaitResume | .accessRetry
  | .pageWalk | .pageWalkComplete | .owedWriteLanding | .frameAllocRequest | .frameAllocReply | .frameSpaceResume
  | .seqnResume | .iscfgDescriptorWrite | .gridRequestTake | .gridBatchSend | .bteCommandStart | .engineWrite
  | .btePassMark | .bteCommandComplete | .egressEntryWrite | .loadWalkTile | .storeWalkTile | .haarWalkTile
  | .batchRetire => s.inPart part (coveOfTile e.a)
  | _ => false

/-! ## Firings and lines of a cove -/

/-- The firings of some tiles, with their tile and slot. -/
def State.firingsOf (s : State) (ts : List Nat) : List (Nat × Nat × Firing) :=
  ts.flatMap fun t => (s.tileAt t).slots.map fun f => (t, f.1, f.2)

/-- The L1 lines and leased templates of some coves are invalidated (R206, R334 step 4). -/
def State.dropL1 (s : State) (coves : List Nat) : State :=
  coves.foldl (fun a c => (List.range 6).foldl (fun b n =>
    b.modMu (chanTile c n) fun u => { u with l1 := [], tcache := [] }) a) s

/-- PEND clears on every record whose OWN names one of the coves, and OWN becomes 0 (R206); firings that waited go on. Without
`all`, records of firings that are frozen in an image stand (R334). -/
def State.clearPend (s : State) (coves : List Nat) (all : Bool) : State :=
  let dir := s.mem.dir.foldl (fun (m : Map DirRec) e =>
    let d := if coves.contains e.2.own.toNat && (all || decide (e.2.tile < 2 ^ 20)) then { e.2 with own := 0, pend := false, tile := 0, slot := 0, base := 0 } else e.2
    Map.set m {} e.1 d) []
  State.wakeWaiters { s with mem := { s.mem with dir := dir } }

/-- PEND records of the partition's firings are set apart while their VF is frozen or a chart loads in their place, and
brought back when they return: their lines stay PEND (R44, R334, R336). -/
def State.tagPend (s : State) (coves : List Nat) (v : Nat) (away : Bool) : State :=
  let off := 2 ^ 20 * (v + 1)
  let f (d : DirRec) : DirRec :=
    if d.pend ∧ coves.contains d.own.toNat then
      if away ∧ d.tile < 2 ^ 20 then { d with tile := d.tile + off }
      else if !away ∧ off ≤ d.tile ∧ d.tile < off + 2 ^ 20 then { d with tile := d.tile - off }
      else d
    else d
  { s with mem := { s.mem with dir := s.mem.dir.map fun e => (e.1, f e.2) } }

/-- Lines that were set apart for firings of VF `v` which a new chart has replaced are PEND no longer, and those that waited go on
(R43, R44). -/
def State.dropAway (s : State) (coves : List Nat) (v : Nat) : State :=
  let off := 2 ^ 20 * (v + 1)
  let f (d : DirRec) : DirRec :=
    if d.pend ∧ coves.contains d.own.toNat ∧ off ≤ d.tile ∧ d.tile < off + 2 ^ 20 then
      { d with own := 0, pend := false, tile := 0, slot := 0, base := 0 }
    else d
  State.wakeWaiters { s with mem := { s.mem with dir := s.mem.dir.map fun e => (e.1, f e.2) } }

/-- The pools of some coves are zero-filled; no place in them is a slot entry any more. -/
def State.zeroPools (s : State) (coves : List Nat) : State :=
  let inPool (a : Nat) : Bool := match regionOf a with
    | .pool c => coves.contains c
    | _ => false
  { s with mem := { s.mem with
      pm := s.mem.pm.filter fun e => !inPool e.1, ecc := s.mem.ecc.filter fun e => !inPool (e.1 * 128)
      slots := s.mem.slots.filter fun e => !inPool e.1 } }

/-! ## Emptying a partition (R43, R206, R340) -/

/-- A tile with its registers, queues, firings and local clock at their reset values (R105, R114, R193). Its meter, its TLB and
its channel's clocks stand. -/
def freshTile (x : Tile) (lease : Nat) : Tile :=
  { lease := lease, meter := x.meter, mu := { l1 := x.mu.l1, tlb := x.mu.tlb, qck := x.mu.qck, lastDone := x.mu.lastDone } }

/-- A cove with its task unit, events and ring empty; its roll-up unit's totals stand. -/
def freshCove (c : Cove) : Cove := { flushed := c.flushed }

/-- The tokens of some flights leave the virtual channels of the lanes. -/
def laneWithout (ids : List Nat) (l : Lane) : Lane :=
  let keep (q : Nat × List Nat) : Option (Nat × List Nat) :=
    let r := q.2.filter fun id => !ids.contains id
    if r.isEmpty then none else some (q.1, r)
  { l with vcs := l.vcs.filterMap keep }

/-- The flights of a partition's channels and rays. -/
def State.flightsIn (s : State) (part : Nat) : List Nat :=
  (s.net.flights.filter fun e => s.flightIn part e.2).map fun e => e.1

/-- The configuration queues without a partition's commands. -/
def cfgWithout (part : Nat) (m : Map (List CfgCmd)) : Map (List CfgCmd) :=
  m.filterMap fun e =>
    let l := e.2.filter fun c => !decide (c.part = part)
    if l.isEmpty then none else some (e.1, l)

/-- Every token, firing, command, ray, task and batch of a partition is taken away, and the registers of its tiles are reset.
Requests at shared units complete and find no firing. -/
def State.wipePart (s : State) (part lease : Nat) : State :=
  let coves := s.partCoves part
  let ts := s.partTiles part
  let s1 := (s.firingsOf ts).foldl (fun (a : State) e => a.purge e.1 e.2.1) s
  let ids := s1.flightsIn part
  let agenda := s1.agenda.filter fun e => !s1.eventIn part e.2.1 e.2.2
  let s2 := s1.modNet fun w =>
    { w with
      flights := w.flights.filter fun e => !ids.contains e.1
      batches := w.batches.filter fun e => !s1.inPart part (coveOfTile e.2.gtile)
      orders := w.orders.filter fun e => !s1.orderIn part e.2
      credits := w.credits.filter fun e => !s1.chanIn part (e.1 / 4096)
      creditRr := w.creditRr.filter fun e => !s1.chanIn part (e.1 / 64)
      lanes := w.lanes.map fun e => (e.1, laneWithout ids e.2) }
  let s3 := ts.foldl (fun (a : State) t => a.modTile t fun x => freshTile x lease) { s2 with agenda := agenda }
  let s4 := coves.foldl (fun (a : State) c => a.modCove c freshCove) s3
  (s4.modFault part fun u => { posted := u.posted }).modHd fun h =>
    { h with
      stages := h.stages.filter fun e => !decide (e.1 / 512 = part)
      cfgq := cfgWithout part h.cfgq
      rollq := if part = agentPart then [] else h.rollq }

/-- A partition is emptied and its lines are PEND no longer. -/
def State.emptyPart (s : State) (part lease : Nat) (all : Bool) : State :=
  (s.wipePart part lease).clearPend (s.partCoves part) all

/-- The chart of a partition is gone: what the configuration network had written, and its channels. -/
def State.dropChart (s : State) (part : Nat) : State :=
  let ts := s.partTiles part
  let c : Cfg :=
    { tiles := s.cfg.tiles.filter fun e => !ts.contains e.1
      chans := s.cfg.chans.filter fun e => !decide (e.2.part = part)
      charts := s.cfg.charts.drop part }
  { s with cfg := c }

/-! ## The ebb tree (R337) -/

/-- A tile holds work: a firing, a token in a FIFO, a pool slot or the matching store, a command, a held batch, an owed write, or a
request of a G-tile. An operand spilled into its frame does not count (R337). -/
def Tile.busy (x : Tile) : Bool :=
  !x.slots.isEmpty || x.wait.any (fun w => !decide (w.place = .spill)) || !x.owed.isEmpty || !x.gbuf.isEmpty || !x.gslots.isEmpty || x.mu.run.isSome
    || !x.mu.queue.isEmpty || !x.mu.hold.isEmpty || !x.mu.inbox.isEmpty

/-- A virtual channel that a partition's cut edges use holds a token, or waits for the marker after its last one (R279,
R337). -/
def State.lanesBusy (s : State) (part : Nat) : Bool :=
  (s.cfg.chans.filter fun e => decide (e.2.part = part)).any fun e =>
    e.2.route.any fun l =>
      let x := s.tlane l.lane
      !(x.vcs.get [] e.2.vc).isEmpty || x.owing.any fun o => decide (o % 8 = e.2.vc)

/-- The OR of the ebb tree is zero. -/
def State.ebbEmpty (s : State) (part : Nat) : Bool :=
  (s.partTiles part).all (fun t => !(s.tileAt t).busy)
    && (s.partCoves part).all (fun c => (s.coveAt c).ring.isEmpty)
    && (s.flightsIn part).isEmpty
    && s.net.batches.all (fun e => !s.inPart part (coveOfTile e.2.gtile))
    && s.net.orders.all (fun e => !s.orderIn part e.2)
    && !s.lanesBusy part

end Sys2Proof.Machine
end

