-- ==== Sys2Proof/Machine/ChartCheck.lean ====
section
/-! DEFINITION. The validation of a chart image (R43 step 1, R44): its header and pages (R310), its routines (R65), and its
records (R16, R20 to R22, R45, R53, R260, R311, R323, R326, R382, R385, R400). -/

namespace Sys2Proof.Machine

/-- A rejected item: its byte offset in the image and its status. -/
abbrev Reject := Nat × LoadStatus

/-- The item at `off` is rejected when `c` holds. -/
def reject (c : Bool) (off : Nat) (st : LoadStatus) : List Reject := if c then [(off, st)] else []

/-! ## The header (R310) -/

/-- The record bytes of the twelve sections; code and register data are counted apart. The section table itself is part of the
64-byte header (R310). -/
def sectionBytes : List Nat := [16, 8, 16, 8, 8, 16, 8, 80, 16, 8, 128, 64]

/-- The byte ranges that the header and the sections fill at least. A section without records fills none, at its offset: it breaks
R310 when that lies past the image or inside another range. -/
def imgRanges (img : ChartImage) : List (Nat × Nat) :=
  let code := img.patterns.foldl (fun a p => a + 2 * p.code.length) 0
  let data := img.regs.foldl (fun a r => a + r.bytes) 0
  (0, 64) :: (enumFrom 0 img.sections).map fun e =>
    let n := e.2.1 * sectionBytes.getD e.1 0 + (if e.1 = 0 then code else if e.1 = 8 then data else 0)
    (16 * e.2.2, 16 * e.2.2 + n)

/-- Two of some byte ranges overlap. -/
def overlaps (l : List (Nat × Nat)) : Bool :=
  match l with
  | [] => false
  | a :: r => r.any (fun b => decide (a.1 < b.2) && decide (b.1 < a.2)) || overlaps r

/-- The dies whose header byte has bit 6 set. -/
def usedDies (img : ChartImage) : List Nat :=
  (List.range 8).filter fun d => (img.dieBytes.getD d 0).getLsbD 6

/-- The header is invalid (R310). -/
def badHeader (img : ChartImage) : Bool :=
  decide (img.magic ≠ 0x4F524331) || decide (img.version ≠ 1) || decide (img.dies ≠ (usedDies img).length)
    || (imgRanges img).any (fun r => decide (img.size < r.2)) || overlaps (imgRanges img)

/-! ## Pages (R307, R310) -/

/-- The pages of an image are walked to, with `fuel`, up to the first without C, whose offset it gives (R310). The state after the
walks is in the second place. -/
def State.walkPages (fuel : Nat) (s : State) (vf : Nat) (va left off : Nat) : Option Nat × State :=
  match fuel with
  | 0 => (none, s)
  | n + 1 =>
    if left = 0 then (none, s)
    else
      let k := Nat.min left (16384 - va % 16384)
      match s.walk (chanTile 63 0) vf vf 0 va .config with
      | .bad t _ _ _ => (some off, t)
      | .ok t _ => State.walkPages n t vf (va + k) (left - k) (off + k)
      | _ => State.walkPages n s vf (va + k) (left - k) (off + k)

/-- The offset of the first page of an image without C (R310). -/
def State.badPage (s : State) (vf va size : Nat) : Option Nat := (s.walkPages (size / 16384 + 2) vf va size 0).1

/-- `s` with what walks leave behind: the memories with the A and D bits that they set, their charges, the links that they used
(R307, R309, R347). -/
def State.walked (s t : State) : State := { s with mem := t.mem, hd := { s.hd with umeter := t.hd.umeter, linkUsed := t.hd.linkUsed } }

/-- `s` after the loader's walks to the pages of an image. -/
def State.readPages (s : State) (vf va size : Nat) : State := s.walked (s.walkPages (size / 16384 + 2) vf va size 0).2

/-! ## The image in memory (R304, R310) -/

/-- The bytes of an image from a VA on, as a configuration read finds them; a page without C gives zeros, and is rejected
anyway. -/
def State.imgBytes (fuel : Nat) (s : State) (vf va n : Nat) : List Byte :=
  match fuel with
  | 0 => []
  | k + 1 =>
    if n = 0 then []
    else
      let m := inLine va n
      let l : List Byte := match s.walk (chanTile 63 0) vf vf 0 va .config with
        | .ok t e => ((bytesOfLine (t.homeData (e.at va) vf).1).drop (va % 128)).take m
        | _ => List.replicate m 0
      l ++ State.imgBytes k s vf (va + m) (n - m)

/-- `n` bytes of an image at an offset. -/
def State.imgPart (s : State) (vf : Nat) (img : ChartImage) (off n : Nat) : List Byte := s.imgBytes (n / 128 + 2) vf (img.va + off) n

/-- One step of the CRC-32 of IEEE 802.3, over `k` bits. -/
def crcBits (k c : Nat) : Nat :=
  match k with
  | 0 => c
  | n + 1 => crcBits n (if c % 2 = 1 then (c / 2) ^^^ 0xEDB88320 else c / 2)

/-- The CRC-32 of IEEE 802.3 (R369). -/
def crc32 (l : List Byte) : Nat := (l.foldl (fun c b => crcBits 8 (c ^^^ b.toNat)) 0xFFFFFFFF) ^^^ 0xFFFFFFFF

/-- Some bytes cut into records of `k` bytes, as numbers in little-endian order. -/
def cutNats (n k : Nat) (l : List Byte) : List Nat := (List.range n).map fun i => leNat ((l.drop (k * i)).take k)

/-- A berth record from its 16 bytes (R311). -/
def berthOfNat (n : Nat) : BerthRec :=
  let f (k w : Nat) : Nat := n / 2 ^ k % 2 ^ w
  { stage := BitVec.ofNat 6 n, rank := BitVec.ofNat 3 (f 6 3), frame := BitVec.ofNat 9 (f 9 9), window := BitVec.ofNat 7 (f 18 7)
    rates := BitVec.ofNat 24 (f 25 24), wbase := BitVec.ofNat 20 (f 49 20), tbind := BitVec.ofNat 20 (f 69 20)
    gbind := BitVec.ofNat 14 (f 89 14), defr := BitVec.ofNat 6 (f 103 6), rsv := decide (f 109 19 ≠ 0) }

/-- A routine table entry from its 8 bytes (R311). -/
def entryOfNat (n : Nat) : RoutineEnt :=
  let f (k w : Nat) : Nat := n / 2 ^ k % 2 ^ w
  { berth := BitVec.ofNat 4 n, cls := BitVec.ofNat 8 (f 4 8), val := n.testBit 12, start := BitVec.ofNat 16 (f 16 16)
    len := BitVec.ofNat 16 (f 32 16), rsv := decide (f 13 3 ≠ 0) || decide (f 48 16 ≠ 0) }

/-- A pattern with its code, berth records and routine entries as the image's bytes give them. -/
def State.readPattern (s : State) (vf : Nat) (img : ChartImage) (p : PatternRec) : PatternRec :=
  { p with
    code := (cutNats p.code.length 2 (s.imgPart vf img p.codeOff (2 * p.code.length))).map (BitVec.ofNat 16)
    berths := (cutNats p.berths.length 16 (s.imgPart vf img p.berthOff (16 * p.berths.length))).map berthOfNat
    rtab := (cutNats p.rtab.length 8 (s.imgPart vf img p.rtabOff (8 * p.rtab.length))).map entryOfNat }

/-- An image as the loader reads it from memory: everything whose bits the manual lays out comes from the bytes of the image's pages,
the header of R310, the code, and the records of R311. For the other records R310 gives contents and no bits: they come with the
step (log 4). -/
def State.readImage (s : State) (vf : Nat) (img : ChartImage) : ChartImage :=
  let h := s.imgPart vf img 0 64
  let n (o k : Nat) : Nat := leNat ((h.drop o).take k)
  { img with
    magic := BitVec.ofNat 32 (n 0 4), version := BitVec.ofNat 16 (n 4 2), dies := n 6 1, dieBytes := (h.drop 8).take 8
    sections := (List.range 12).map fun k => (n (16 + 4 * k) 2, n (18 + 4 * k) 2)
    patterns := img.patterns.map (s.readPattern vf img)
    crc := crc32 (s.imgPart vf img 0 img.size) }

/-- The image that a load of a VF takes: from its pages, or as it comes, where the load waits after its read (R219, R304) and for the
agent's chart, which comes with the firmware (R384). -/
def State.loadImage (s : State) (part vf : Nat) (img : ChartImage) (seen : Bool) : ChartImage :=
  if seen || decide (part = agentPart) then img else s.readImage vf img

/-! ## What lies where -/

/-- The tiles of a rectangle, relative to the partition. -/
def rectTiles (r : RectRec) : List Nat :=
  (upFrom r.y0 (r.y1 + 1 - r.y0)).flatMap fun y => (upFrom r.x0 (r.x1 + 1 - r.x0)).map fun x => r.cove * 64 + y * 8 + x

/-- The tiles of pattern `k`. -/
def patTiles (img : ChartImage) (k : Nat) : List Nat := (img.rects.filter fun r => decide (r.pat = k)).flatMap rectTiles

/-- The pattern of a tile. -/
def patOf (img : ChartImage) (t : Nat) : Option Nat := (img.rects.find? fun r => (rectTiles r).contains t).map fun r => r.pat

/-- The berth record of a berth of a tile. -/
def imgBerth (img : ChartImage) (t b : Nat) : Option BerthRec :=
  match patOf img t with
  | some k => (img.patterns.getD k {}).berths[b]?
  | none => none

/-- The channels that leave a port. -/
def imgFrom (img : ChartImage) (t b p : Nat) : List ChanRec := img.chans.filter fun c => decide (c.src = .berth t b p)

/-- The channels that lead into a port. -/
def imgInto (img : ChartImage) (t b p : Nat) : List ChanRec := img.chans.filter fun c => decide (c.dst = .berth t b p)

/-! ## Routines (R65) -/

/-- The instructions of a routine: the halfword offset of each, and the halfwords from there on. -/
def scanCode (fuel : Nat) (code : List (BitVec 16)) (pc : Nat) : List (Nat × List (BitVec 16)) :=
  match fuel with
  | 0 => []
  | n + 1 =>
    match code with
    | [] => []
    | h :: _ =>
      let step := if h.getLsbD 15 then 2 else 1
      (pc, code) :: scanCode n (code.drop step) (pc + step)

/-- The instruction at the head of some halfwords, if they decode. -/
def headInstr (code : List (BitVec 16)) : Option Instr :=
  match decode code with
  | .ok (i, _) => some i
  | .error _ => none

/-- The body of a loop instruction at `pc`, by its first and its end. -/
def loopBody (pc : Nat) (i : Instr) : Option (Nat × Nat) :=
  match i with
  | .loop _ l => some (pc + 2, pc + 2 + l.toNat)
  | .loopi _ l => some (pc + 2, pc + 2 + l.toNat)
  | .cLoopi _ l => some (pc + 1, pc + 1 + l.toNat)
  | _ => none

/-- The target of a branch at `pc`. -/
def branchTarget (pc : Nat) (i : Instr) : Option Int :=
  match i with
  | .br _ _ o => some ((pc : Int) + o.toInt)
  | .cBr _ _ o => some ((pc : Int) + o.toInt)
  | _ => none

/-- An instruction's jump breaks the bounds of its routine of `len` halfwords, whose instructions start at `at_` (R22, R60,
R285). `loops` are the bodies of the loop instructions before it: of two whose bodies overlap the later one is told, which R65 and
R285 leave open (log 96). -/
def badJump (len pc : Nat) (at_ : List Nat) (loops : List (Nat × Nat)) (i : Instr) : Bool :=
  (match branchTarget pc i with
   | some t => decide (t < 0) || !at_.contains t.toNat
   | none => false) ||
  (match loopBody pc i with
   | some (a, b) =>
     (decide (b ≠ len) && !at_.contains b)
       || loops.any (fun l => decide (l.1 < a) && decide (a < l.2) && decide (l.2 < b))
       || decide (4 ≤ (loops.filter fun l => decide (l.1 ≤ pc) && decide (pc < l.2)).length)
   | none => false)

/-- The status of lowest value in a list (the order of R65). -/
def firstStatus (l : List LoadStatus) : Option LoadStatus :=
  l.foldl (fun a e => match a with
    | none => some e
    | some b => if e.code < b.code then some e else some b) none

/-- The status of an instruction on the tiles that `cs` describe: the first of R65's table that holds on one of them. -/
def headStatus (cs : List WfCtx) (code : List (BitVec 16)) : Option LoadStatus :=
  firstStatus (cs.filterMap fun c => match checkHead c code with
    | .ok _ => none
    | .error e => some e)

/-- The status of an instruction of a pattern that lies on no tile: no kind refuses it, and it is refused when it would be on every
kind that runs it (R63, R65; log 95). -/
def looseStatus (c : WfCtx) (code : List (BitVec 16)) : Option LoadStatus :=
  let l := [Kind.c, .x, .m].map fun k => headStatus [{ c with kind := k }] code
  let l := l.filter fun e => decide (e ≠ some .kindInvalid)
  if l.contains none then none else (l.headD none)

/-- The first defective instruction of a routine whose first byte is at `off` (R65); `status` tells what each instruction's own
defect is. -/
def routineReject (status : List (BitVec 16) → Option LoadStatus) (code : List (BitVec 16)) (off : Nat) : Option Reject :=
  let l := scanCode (code.length + 1) code 0
  let at_ := l.map fun e => e.1
  let loops := l.filterMap fun e => (headInstr e.2).bind fun i => (loopBody e.1 i).map fun b => (e.1, b)
  l.findSome? fun e =>
    match status e.2, headInstr e.2 with
    | some st, _ => some (off + 2 * e.1, st)
    | none, some i =>
      let before := (loops.filter fun x => decide (x.1 < e.1)).map fun x => x.2
      if badJump code.length e.1 at_ before i then some (off + 2 * e.1, .routineBounds) else none
    | none, none => none

/-- What the loader's checks know of berth `b` of a tile (R65). -/
def imgCtx (img : ChartImage) (t b : Nat) (r : BerthRec) : WfCtx :=
  let ports (g : ChanRec → Bool) : BitVec 4 :=
    BitVec.ofNat 4 ((List.range 4).foldl (fun a p => if (imgFrom img t b p).any g then a + 2 ^ p else a) 0)
  { kind := kindAt (t % 64), isTagged := decide (r.frame ≠ 0), rates := r.rates, window := r.window, tbind := r.tbind
    gbind := r.gbind, mcast := ports fun c => decide (c.mset ≠ 0)
    tagged := ports fun c => match c.dst with
      | .berth u d _ => match imgBerth img u d with
        | some q => decide (q.frame ≠ 0)
        | none => false
      | _ => false
    grid := ports fun c => match c.dst with
      | .grid u => decide (u / 64 = t / 64)
      | _ => false }

/-! ## Patterns, berths and routine entries (R17, R20 to R22, R33, R73, R311, R400) -/

/-- The berths that a tile of a kind holds (R17). -/
def berthCount (k : Kind) : Nat :=
  match k with
  | .c => 16
  | .x => 4
  | .m => 8
  | .i => 0
  | .g => 0

/-- The smallest frame of a tagged actor: 20 slots for each input port up to the highest used one (R33). -/
def leastFrame (rates : List Nat) : Nat :=
  (enumFrom 0 (rates.take 4)).foldl (fun a e => if e.2 = 0 then a else 20 * e.1 + 20) 0

/-- A constant record names no k register, or one that a record before it gives another value (R73). -/
def badConst (p : PatternRec) (k : Nat) (e : Nat × W32) : Bool :=
  decide (31 < e.1) || (p.consts.take k).any fun a => decide (a.1 = e.1) && decide (a.2 ≠ e.2)

/-- The stage of a berth is elastic on the die of a tile (R45). -/
def isElastic (img : ChartImage) (b : BerthRec) (t : Nat) : Bool :=
  img.stages.any fun r =>
    decide (r.stage = b.stage.toNat) && decide (r.die = t / 4096) && decide (0 < r.lo) && decide (r.lo < r.hi)

/-- A berth record breaks R21, R33 or R311. -/
def badBerth (p : PatternRec) (b : Nat) (r : BerthRec) (top : Nat) : Bool :=
  let rates := (List.range 8).map fun k => r.rates.toNat / 2 ^ (3 * k) % 8
  let bind (k : Nat) : Nat := r.tbind.toNat / 2 ^ (5 * k) % 32
  let g (k : Nat) : Nat := r.gbind.toNat / 2 ^ (7 * k) % 128
  let d := p.rtab.getD r.defr.toNat {}
  r.rsv || rates.any (fun n => decide (4 < n)) || decide (top < r.rank.toNat)
    || decide (256 < r.frame.toNat) || decide (64 < r.window.toNat)
    || (decide (r.frame ≠ 0) && decide (r.frame.toNat < leastFrame rates))
    || (decide (r.frame ≠ 0) && (rates.take 4).any fun n => decide (1 < n))
    || (List.range 4).any (fun k => decide (16 ≤ bind k) && decide (5 < bind k % 8))
    || (List.range 2).any (fun k => decide (64 ≤ g k) && decide (kindAt (g k % 64) ≠ .g))
    || !d.val || decide (d.berth.toNat ≠ b)

/-- A routine entry of a pattern is malformed, or has the berth and class of one before it (R22, R311). -/
def badEntry (p : PatternRec) (k : Nat) (e : RoutineEnt) : Bool :=
  e.rsv || decide (63 < k) || (e.val && (decide (p.code.length < e.start.toNat + e.len.toNat)
    || (p.rtab.take k).any fun a => a.val && decide (a.berth = e.berth) && decide (a.cls = e.cls)))

/-- The code bytes of a pattern, in whole 64-byte units (R400). -/
def codeBytesOf (p : PatternRec) : Nat := (2 * p.code.length + 63) / 64 * 64

/-- The bytes that the frames of a tile take (R400). -/
def framesBytes (img : ChartImage) (t : Nat) : Nat :=
  (img.frames.filter fun f => decide (f.tile = t)).foldl (fun a f =>
    a + frameBytes ((imgBerth img t f.berth).getD {}).frame.toNat) 0

/-- The storage of a pattern is too small on a tile (R17, R22, R400). An I- or G-tile holds no routine and no code: one whose
instructions R65 does not reject is rejected here (R17, R18). -/
def badStorage (img : ChartImage) (p : PatternRec) (t : Nat) : Bool :=
  match kindAt (t % 64) with
  | .c => decide (65536 < codeBytesOf p + p.scratch + framesBytes img t) || decide (p.scratch % 64 ≠ 0)
  | .i | .g => p.rtab.all (fun e => !e.val || decide (e.len = 0)) && (p.rtab.any (fun e => e.val) || decide (p.code ≠ []))
  | _ => decide (8192 < 2 * p.code.length) || decide (p.scratch ≠ 0)

/-- The other tiles of a die that hold the elastic stage of the berth record `r`: they may share the channels of `t` (R45, R48;
log 94). -/
def mates (img : ChartImage) (t : Nat) (r : BerthRec) : List Nat :=
  if isElastic img r t then
    match patOf img t with
    | some k => (patTiles img k).filter fun u => decide (u ≠ t) && decide (u / 4096 = t / 4096)
    | none => []
  else []

/-- The tiles at an end of a channel: an elastic stage's tiles share it, but for those that it leaves a channel of their own there
(R45, R48; log 94). Ends without a tile have none. -/
def imgEnds (img : ChartImage) (src : Bool) (e : EndPt) : List Nat :=
  match e with
  | .berth t b p => t :: (mates img t ((imgBerth img t b).getD {})).filter fun u => ((if src then imgFrom else imgInto) img u b p).isEmpty
  | .grid t => [t]
  | _ => []

/-- A used port without a channel, several channels where one belongs (R20). A replica shares the channels of its stage's other
tiles. -/
def badPorts (img : ChartImage) (t b : Nat) (r : BerthRec) : Bool :=
  (List.range 4).any fun p =>
    let i := r.rates.toNat / 2 ^ (3 * p) % 8
    let o := r.rates.toNat / 2 ^ (12 + 3 * p) % 8
    let ins := (imgInto img t b p).length
    let outs := imgFrom img t b p
    let lacks (f : Nat → List ChanRec) : Bool := (f t).isEmpty && (mates img t r).all fun u => (f u).isEmpty
    decide (i ≠ 0 ∧ 1 < ins) || (decide (i ≠ 0) && lacks fun u => imgInto img u b p)
      || (decide (o ≠ 0) && lacks fun u => imgFrom img u b p)
      || (decide (1 < outs.length) && outs.any fun c => decide (c.mset = 0))

/-- The rejects of pattern `k`. -/
def patRejects (img : ChartImage) (top k : Nat) (p : PatternRec) : List Reject :=
  let ts := patTiles img k
  let each (f : Nat → Bool) : Bool := ts.any f
  reject (each (badStorage img p)) p.off .fieldReserved
  ++ (enumFrom 0 p.berths).flatMap (fun e =>
    reject (badBerth p e.1 e.2 top || each fun t => decide (berthCount (kindAt (t % 64)) < p.berths.length)
      || (decide (e.2.frame ≠ 0) && (decide (kindAt (t % 64) ≠ .c) || isElastic img e.2 t)) || badPorts img t e.1 e.2) (p.berthOff + 16 * e.1) .fieldReserved)
  ++ (enumFrom 0 p.rtab).flatMap (fun e => reject (badEntry p e.1 e.2) (p.rtabOff + 8 * e.1) .fieldReserved)
  ++ (enumFrom 0 p.consts).flatMap (fun e => reject (badConst p e.1 e.2) (p.constOff + 8 * e.1) .fieldReserved)

/-- What the loader's checks know of a berth of a pattern that lies on no tile: no channel of it can be looked at. -/
def looseCtx (r : BerthRec) : WfCtx :=
  { isTagged := decide (r.frame ≠ 0), rates := r.rates, window := r.window, tbind := r.tbind, gbind := r.gbind, tagged := 15, grid := 15 }

/-- The first defect of each routine of a pattern, with the offset at which the routine starts (R65). -/
def patRoutines (img : ChartImage) (k : Nat) (p : PatternRec) : List (Nat × Reject) :=
  let ts := patTiles img k
  (p.rtab.filter fun e => e.val).filterMap fun e =>
    let r := p.berths.getD e.berth.toNat {}
    let off := p.codeOff + 2 * e.start.toNat
    let status := if ts.isEmpty then looseStatus (looseCtx r) else headStatus (ts.map fun t => imgCtx img t e.berth.toNat r)
    (routineReject status ((p.code.drop e.start.toNat).take e.len.toNat) off).map fun x => (off, x)

/-- The first defective instruction of a chart: of the first routine, in the order of the image, that has one (R65). -/
def routineVerdict (img : ChartImage) : Option Reject :=
  (((enumFrom 0 img.patterns).flatMap fun e => patRoutines img e.1 e.2).foldl (fun (a : Option (Nat × Reject)) e => match a with
    | none => some e
    | some b => if e.1 < b.1 then some e else some b) none).map fun e => e.2

/-- A rectangle is malformed, lies outside the partition, names no pattern, or covers a tile of another pattern (R74). -/
def State.badRect (s : State) (part : Nat) (img : ChartImage) (r : RectRec) : Bool :=
  decide (r.x1 < r.x0) || decide (r.y1 < r.y0) || decide (7 < r.x1) || decide (7 < r.y1)
    || decide (img.patterns.length ≤ r.pat) || (s.relCove part (r.cove / 64) (r.cove % 64)).isNone
    || img.rects.any fun q => decide (q.pat ≠ r.pat) && (rectTiles q).any fun t => (rectTiles r).contains t

/-! ## Channels (R16, R20, R51, R260, R326, R382, R385, R397) -/

/-- An end of a channel lies outside the partition or names no berth of the chart (R16). -/
def State.badEnd (s : State) (part : Nat) (img : ChartImage) (e : EndPt) (src : Bool) : Bool :=
  match e with
  | .berth t b p => (s.absTile part t).isNone || (imgBerth img t b).isNone || decide (3 < p)
  | .grid t => src || (s.absTile part t).isNone || decide (kindAt (t % 64) ≠ .g)
  | .task c => !src || (s.relCove part (c / 64) (c % 64)).isNone
  | .fault r => !src || decide (5 < r)
  | .ingress => !src
  | .rollup => !src || decide (part ≠ agentPart)
  | .remote p => decide (7 < p)

/-- The neighbour of a die over its edge `k`: E 0, W 1, V 2, X 3 (R9). -/
def dieOver (d k : Nat) : Nat :=
  let r := d / 4
  let c := d % 4
  match k with
  | 0 => 4 * r + (c + 1) % 4
  | 1 => 4 * r + (c + 3) % 4
  | 2 => 4 * (1 - r) + c
  | _ => 4 * (1 - r) + (c + 2) % 4

/-- The place at which a crossing of a route ends, when it begins at `d`: a die, 8 for HD, or 9 + p for the device beyond Oroti
port `p`. It must leave and enter a die's mesh at boundary tiles of coves (R15, R399). An Oroti port may stand on any die, since no
rule places them (log 92). -/
def legEnd (d : Nat) (l : Leg) : Option Nat :=
  let edge (t : Nat) : Bool := decide (t % 8 = 0 ∨ t % 8 = 7 ∨ t / 8 % 8 = 0 ∨ t / 8 % 8 = 7)
  let n := l.lane
  let out (e : Nat) : Bool := decide (d = e ∧ dieOfTile l.out = e) && edge l.out
  let inn (e : Nat) : Bool := decide (dieOfTile l.inn = e) && edge l.inn
  if n < 32 then if out (n / 4) && inn (dieOver (n / 4) (n % 4)) then some (dieOver (n / 4) (n % 4)) else none
  else if n < 48 then
    let k := (n - 32) / 2
    if n % 2 = 0 then if out k then some 8 else none
    else if d = 8 ∧ inn k then some k else none
  else if 64 ≤ n ∧ n < 80 then
    let p := (n - 64) / 2
    if n % 2 = 0 then if d = 8 ∨ (d < 8 ∧ out d) then some (9 + p) else none
    else if d = 9 + p ∧ dieOfTile l.inn < 8 ∧ inn (dieOfTile l.inn) then some (dieOfTile l.inn) else none
  else none

/-- The place at which a route that begins at `d` ends. -/
def routeEnd (d : Nat) (r : List Leg) : Option Nat :=
  match r with
  | [] => some d
  | l :: r => (legEnd d l).bind fun e => routeEnd e r

/-- The die of an end of a channel, as `legEnd` counts places; ends without a tile lie on HD. -/
def State.endDie (s : State) (part : Nat) (e : EndPt) : Option Nat :=
  match e with
  | .berth t _ _ | .grid t => (s.absTile part t).map dieOfTile
  | .task c => (s.relCove part (c / 64) (c % 64)).map fun k => k / 64
  | .remote p => some (9 + p)
  | _ => some 8

/-- A tile of a cut edge's route as the chart names it (R42, R399): relative to the origin of the partition's rectangle on its die, or
to the die's where the partition has none there. It need not lie in the rectangle (log 92). -/
def State.portTile (s : State) (part t : Nat) : Option Nat :=
  match s.rectOf part (dieOfTile t) with
  | none => some t
  | some (x, y, _, _) =>
    let c := coveOfTile t
    if x + c % 8 < 8 ∧ y + c / 8 % 8 < 8 then some (t + 64 * (8 * y + x)) else none

/-- A crossing of a cut edge with its package tiles; a tile that lies off its die is none that a crossing can have. -/
def State.absLeg (s : State) (part : Nat) (l : Leg) : Leg :=
  { l with out := (s.portTile part l.out).getD 9, inn := (s.portTile part l.inn).getD 9 }

/-- A channel's route does not lead from its producer's die to its consumer's. It is a cut edge, with a route, exactly when these
differ (R51). -/
def State.badRoute (s : State) (part : Nat) (c : ChanRec) : Bool :=
  match s.endDie part c.src, s.endDie part c.dst with
  | some a, some b => decide (routeEnd a (c.route.map (s.absLeg part)) ≠ some b) || decide (c.route ≠ [] ∧ a = b)
  | _, _ => false

/-- A virtual channel of a lane on the route belongs to another partition: it carries a cut edge of its chart (R278; log 92). -/
def State.badVc (s : State) (part : Nat) (c : ChanRec) : Bool :=
  s.cfg.chans.any fun e => decide (e.2.part ≠ part) && decide (e.2.vc = c.vc) &&
    e.2.route.any fun l => c.route.any fun m => decide (l.lane = m.lane)

/-- The largest production rate that feeds a channel (R20). -/
def feedRate (img : ChartImage) (c : ChanRec) : Nat :=
  match c.src with
  | .berth t b p => ((imgBerth img t b).getD {}).rates.toNat / 2 ^ (12 + 3 * p) % 8
  | _ => 1

/-- A channel leaves or enters an unused port (R20). -/
def unusedPort (img : ChartImage) (c : ChanRec) : Bool :=
  let rate (t b k : Nat) : Nat := ((imgBerth img t b).getD {}).rates.toNat / 2 ^ (3 * k) % 8
  (match c.src with
   | .berth t b p => decide (rate t b (4 + p) = 0)
   | _ => false) ||
  (match c.dst with
   | .berth t b p => decide (rate t b p = 0)
   | _ => false)

/-- A channel record is malformed. One whose two ends both lie on other devices is: the manual lets a route cross Oroti links (R399),
and does not say whether a cut edge may pass through a device that holds neither of its ends (log 92). -/
def State.badChan (s : State) (part : Nat) (img : ChartImage) (c : ChanRec) : Bool :=
  s.badEnd part img c.src true || s.badEnd part img c.dst false || unusedPort img c || decide (c.depth = 0) || decide (64 < c.depth)
    || decide (c.depth < feedRate img c) || decide (7 < c.vc) || s.badRoute part c || s.badVc part c
    || (match c.src, c.dst with
        | .remote _, .remote _ => true
        | _, _ => false)
    || (decide (c.src = .ingress) && decide ((img.chans.find? fun d => decide (d.src = .ingress)) ≠ some c))

/-- A fault edge leads to a berth whose rank is not above its own, or another edge names its rank (R326). -/
def badFaultEdge (img : ChartImage) (c : ChanRec) : Bool :=
  match c.src with
  | .fault n =>
    (match c.dst with
     | .berth t b _ => decide (((imgBerth img t b).getD {}).rank.toNat ≤ n)
     | _ => false) || decide ((img.chans.find? fun d => decide (d.src = .fault n)) ≠ some c)
  | _ => false

/-- The depths of the channels into one tile pass 64 with this channel: into the tile that it names, or one that shares it (R17,
R260). -/
def passesPool (img : ChartImage) (k : Nat) (c : ChanRec) : Bool :=
  (imgEnds img false c.dst).any fun t =>
    let n := ((img.chans.take k).filter fun d => (imgEnds img false d.dst).contains t).foldl (fun a d => a + d.depth) 0
    decide (n ≤ 64) && decide (64 < n + c.depth)

/-! ## Cycles (R53) -/

/-- The edges between actors that R53 looks at: no initial token on them, no loop-carry actor at their ends. A channel that replicas
share is an edge of each. -/
def plainEdges (img : ChartImage) : List (Nat × Nat × ChanRec) :=
  let node (t b : Nat) : Option Nat :=
    if ((imgBerth img t b).getD {}).window = 0 then some (t * 16 + b) else none
  (enumFrom 0 img.chans).flatMap fun e =>
    match e.2.src, e.2.dst with
    | .berth _ b _, .berth _ d _ =>
      if img.toks.any fun k => decide (k.chan = e.1) then []
      else
        let ys := (imgEnds img false e.2.dst).filterMap fun u => node u d
        ((imgEnds img true e.2.src).filterMap fun t => node t b).flatMap fun x => ys.map fun y => (x, y, e.2)
    | _, _ => []

/-- The edges that remain when those from actors without a remaining input or to actors without a remaining output are taken away, `fuel` times. -/
def onCycles (fuel : Nat) (l : List (Nat × Nat × ChanRec)) : List (Nat × Nat × ChanRec) :=
  match fuel with
  | 0 => l
  | n + 1 => onCycles n (l.filter fun e => (l.any fun f => decide (f.2.1 = e.1)) && l.any fun f => decide (f.1 = e.2.1))

/-! ## The other records -/

/-- A grid descriptor is malformed (R323). -/
def badGrid (d : VBits) : Bool :=
  let n := d.toNat
  let lev (k : Nat) : Nat := n / 2 ^ (64 + 21 * k) % 2 ^ 21
  decide (n / 2 ^ 5 % 128 ≠ 0) || decide (n / 2 ^ 400 ≠ 0) || decide (n / 2 ^ 12 % 4 ≠ 0)
    || (List.range (n % 16 + 1)).any fun k =>
      decide (lev k % 65536 = 0) || decide (lev k / 65536 = 0) || decide (22 < lev k / 65536)

/-- An initial register value names a register that its tile does not have (R42, R105, R109), or gives a format or level that
cannot be written (R106, R107, R143). -/
def badReg (r : InitReg) : Bool :=
  match r with
  | .trow t n row _ _ => decide (kindAt (t % 64) ≠ .x) || decide (15 < n) || decide (15 < row)
  | .tshape t n w => decide (kindAt (t % 64) ≠ .x) || decide (15 < n) || decide (5 < w.toNat % 8) || decide (4 < w.toNat / 256 % 8)
  | .terr t n _ => decide (kindAt (t % 64) ≠ .x) || decide (15 < n)
  | .psum t n row _ => decide (kindAt (t % 64) ≠ .x) || decide (7 < n) || decide (15 < row)
  | .side t n _ _ => decide (kindAt (t % 64) ≠ .x) || decide (7 < n)
  | .plane t w =>
    let f (k : Nat) : Nat := w.toNat / 2 ^ k % 4
    decide (kindAt (t % 64) ≠ .x) || decide (f 8 = 3) || decide (f 10 = 3) || decide (f 12 = 3)
  | .acc t n row _ => decide (kindAt (t % 64) ≠ .x) || decide (3 < n) || decide (15 < row)
  | .accDesc t n _ => decide (kindAt (t % 64) ≠ .x) || decide (3 < n)
  | .th t n _ => !(decide (kindAt (t % 64) = .c) || decide (kindAt (t % 64) = .m)) || decide (7 < n)
  | .lease _ v => decide (v.toNat = 0) || decide (1024 < v.toNat)

/-- The rejects of stage records, initial tokens, registers, frames, tasks and grid descriptors (R45, R72, R310, R323,
R377). -/
def State.recordRejects (s : State) (part : Nat) (img : ChartImage) : List Reject :=
  img.stages.flatMap (fun r => reject (decide (r.hi ≠ 0 ∧ r.hi ≤ r.lo) || decide (63 < r.stage) || decide (7 < r.die)) r.off
    .fieldReserved)
  ++ img.toks.flatMap (fun k =>
    let c := img.chans.getD k.chan {}
    let n := (img.toks.filter fun j => decide (j.chan = k.chan)).length
    reject (decide (img.chans.length ≤ k.chan) || decide (4 < k.nflit.toNat) || decide (c.depth < n)) k.off .fieldReserved)
  ++ img.regs.flatMap (fun r => reject (badReg r.reg) r.off .fieldReserved)
  ++ img.frames.flatMap (fun f =>
    let r := (imgBerth img f.tile f.berth).getD {}
    let n := (img.frames.filter fun g => decide (g.tile = f.tile)).length
    reject (decide (r.frame = 0) || decide (32 < n) || (s.absTile part f.tile).isNone) f.off .fieldReserved)
  ++ img.tasks.flatMap (fun t =>
    let chan (tile port : Nat) : Bool := img.chans.any fun c => decide (c.src = .task t.cove) &&
      (match c.dst with
       | .berth u _ p => decide (u = t.cove * 64 + tile) && decide (p = port)
       | _ => false)
    reject (decide (511 < t.idx) || (s.relCove part (t.cove / 64) (t.cove % 64)).isNone || badRecord t.record chan) t.off
      .fieldReserved)
  ++ img.grids.flatMap (fun g =>
    reject (decide (kindAt (g.tile % 64) ≠ .g) || decide (7 < g.slot) || badGrid g.desc || (s.absTile part g.tile).isNone) g.off
      .fieldReserved)

/-! ## The verdict -/

/-- Everything for which a chart is rejected, for the occupant `vf` of a partition (R43, R44). The manual names no status for
R16, R20 to R22, R53 and R74: the model answers LOAD_FIELD_RESERVED, as R311 does (log 14). -/
def State.chartRejects (s : State) (part : Nat) (img : ChartImage) : List Reject :=
  let top := if part = agentPart then 6 else 5
  (enumFrom 0 img.patterns).flatMap (fun e => patRejects img top e.1 e.2)
  ++ img.rects.flatMap (fun r => reject (s.badRect part img r) r.off .fieldReserved)
  ++ (enumFrom 0 img.chans).flatMap (fun e =>
    reject (s.badChan part img e.2) e.2.off .fieldReserved
    ++ reject (passesPool img e.1 e.2) e.2.off .poolExceeded
    ++ reject (badFaultEdge img e.2) e.2.off .faultEdge)
  ++ (let l := plainEdges img
      (onCycles (l.length + 1) l).flatMap fun e => reject true e.2.2.off .fieldReserved)
  ++ s.recordRejects part img ++ (routineVerdict img).toList

/-- The reject with the least offset, the first among equals (R44). -/
def firstReject (l : List Reject) : Option Reject :=
  l.foldl (fun a e => match a with
    | none => some e
    | some b => if e.1 < b.1 then some e else some b) none

/-- The status and offset with which a load is rejected, if it is. A header that cannot be read or is invalid tells before
anything else. -/
def State.loadVerdict (s : State) (part vf : Nat) (img : ChartImage) : Option Reject :=
  let page := if part = agentPart then none else s.badPage vf img.va img.size
  if badHeader img && !decide (page = some 0) then some (0, .imageInvalid)
  else
    match page with
    | some off => some (off, .imageUnreadable)
    | none => firstReject (s.chartRejects part img)

end Sys2Proof.Machine
end

