-- ==== Sys2Proof/Machine/ChartLoad.lean ====
section
/-! DEFINITION. Loading a chart (R43, R44, R75, R265, R269, R304, R400), elastic stages (R45 to R49), and what a drain image
restores (R338). -/

namespace Sys2Proof.Machine

/-! ## What the configuration network writes (R43 step 2, R75, R400) -/

/-- What a tile holds of pattern `k`. -/
def tileCfgOf (img : ChartImage) (part vf k t : Nat) : TileCfg :=
  let p := img.patterns.getD k {}
  { part := part, vf := vf, used := true, pat := k, code := p.code, rtab := enumFrom 0 p.rtab, berths := enumFrom 0 p.berths
    consts := p.consts.foldl (fun (m : Map W32) e => m.set 0 e.1 e.2) []
    codeBytes := codeBytesOf p, scratch := if kindAt (t % 64) = .c then p.scratch else 0 }

/-- A shape word without its reserved bits, and without an axis at level 0 (R106). -/
def cleanShape (w : W32) : W32 := if w &&& 0x700 = 0 then w &&& 0xFFFF00F7 else w &&& 0xFFFF3FF7

/-- One initial register value on its tile (R42); reserved bits stay zero (R6, R106 to R108). -/
def initReg (x : Tile) (r : InitReg) : Tile :=
  match r with
  | .trow _ n row bits sc => { x with x := (x.x.setRow n row bits).setScale n row sc }
  | .tshape _ n w => { x with x := x.x.setShape n (cleanShape w) }
  | .terr _ n e => { x with x := x.x.setErr n e }
  | .psum _ p row bits => { x with x := { x.x with ps := x.x.ps.set 0 (16 * p + row) bits } }
  | .side _ p ofB bits =>
    { x with x := if ofB then { x.x with sideB := x.x.sideB.set 0 p bits } else { x.x with sideA := x.x.sideA.set 0 p bits } }
  | .plane _ w => { x with x := { x.x with plane := w &&& 0x3FFF } }
  | .acc _ n row bits => { x with x := { x.x with acc := x.x.acc.set 0 (16 * n + row) bits } }
  | .accDesc _ n w => { x with x := x.x.setDesc n (w &&& 0xFFFF0FFF) }
  | .th _ n w => { x with th := x.th.set 0 n w }
  | .lease _ w => { x with lease := w.toNat }

/-- The tile that an initial register value names. -/
def regTile (r : InitReg) : Nat :=
  match r with
  | .trow t _ _ _ _ => t
  | .tshape t _ _ => t
  | .terr t _ _ => t
  | .psum t _ _ _ => t
  | .side t _ _ _ => t
  | .plane t _ => t
  | .acc t _ _ _ => t
  | .accDesc t _ _ => t
  | .th t _ _ => t
  | .lease t _ => t

/-- A tile at chart start: registers, initial values and frames of the tile `rel` of the image (R43, R114, R400). At a resume its
registers stand at their reset values, and its drain image gives it the rest (R114, R338). -/
def startTile (img : ChartImage) (c : TileCfg) (rel lease : Nat) (resume : Bool) (old : Tile) : Tile :=
  if resume then freshTile old lease
  else
    let x := ((img.regs.filter fun r => decide (regTile r.reg = rel)).map fun r => r.reg).foldl initReg (freshTile old lease)
    (img.frames.filter fun f => decide (f.tile = rel)).foldl (fun y f =>
      (y.allocFrame c f.berth f.tag (c.berths.get {} f.berth).frame.toNat).getD y) x

/-- The LEASE that a chart of a VF starts with (R110, R315); the agent's is the reset value. No rule says what a LEASE0 outside
1 to 1024 gives, or refuses it: it is taken as it stands (log 97). -/
def State.startLease (s : State) (vf : Nat) : Nat := if vf < 128 then (s.vf vf).lease0 else 16

/-- The image's tile that a tile of a partition stands for. -/
def State.relTile (s : State) (part t : Nat) : Nat :=
  (dieOfTile t * 64 + s.coveRel part (coveOfTile t)) * 64 + t % 64

/-- Pattern `k` is written into a tile. -/
def State.writeTile (s : State) (part vf k t : Nat) (img : ChartImage) (resume : Bool) : State :=
  let c := tileCfgOf img part vf k t
  let s1 := { s with cfg := { s.cfg with tiles := s.cfg.tiles.put t c } }
  s1.modTile t (startTile img c (s.relTile part t) (s.startLease vf) resume)

/-- The tile at which a tile of the chart is placed. `moved` gives the tiles that took the places of those a resize removed (R339
step 2). -/
def State.placeTile (s : State) (part : Nat) (moved : Map Nat) (t : Nat) : Option Nat :=
  match s.absTile part t with
  | some u => some u
  | none => moved.look t

/-- An end of a channel with its package tile or cove. -/
def State.absEnd (s : State) (part : Nat) (moved : Map Nat) (e : EndPt) : EndPt :=
  match e with
  | .berth t b p => .berth ((s.placeTile part moved t).getD 0) b p
  | .grid t => .grid ((s.placeTile part moved t).getD 0)
  | .task c => .task ((s.relCove part (c / 64) (c % 64)).getD 0)
  | e => e

/-- The key of channel `k` of a partition. -/
def chanKey (part k : Nat) : Nat := part * 4096 + k

/-- The channels of a chart as they are written for a partition. -/
def State.chansOf (s : State) (part : Nat) (img : ChartImage) (moved : Map Nat) : Map ChanCfg :=
  (enumFrom 0 img.chans).map fun e =>
    let c := e.2
    (chanKey part e.1,
      { part := part, src := s.absEnd part moved c.src, dst := s.absEnd part moved c.dst, depth := c.depth, cls := c.cls, mset := c.mset
        vc := c.vc, route := c.route.map (s.absLeg part) })

/-- The lanes of a cut edge's route: each feeds the next (R278, R279). -/
def feedLanes (s : State) (l : List Nat) : State :=
  match l with
  | a :: b :: r =>
    feedLanes (s.modLane b fun x => { x with feeds := if x.feeds.contains a then x.feeds else x.feeds ++ [a] }) (b :: r)
  | _ => s

/-- The grid descriptor slots of a chart (R323). -/
def State.writeGrids (s : State) (part vf : Nat) (img : ChartImage) : State :=
  img.grids.foldl (fun (a : State) g =>
    let t := (s.absTile part g.tile).getD 0
    let c := a.tcfg t
    { a with cfg := { a.cfg with tiles := a.cfg.tiles.put t { c with part := part, vf := vf, grid := c.grid.set 0 g.slot g.desc } } }) s

/-- Initial register values for tiles that no pattern covers: such a tile, as an M-tile whose template cache has a LEASE, runs no
program (R42, R114, R220). A resume takes registers from its image instead. -/
def State.writeLoose (s : State) (part : Nat) (img : ChartImage) (resume : Bool) : State :=
  if resume then s
  else (img.regs.filter fun r => (patOf img (regTile r.reg)).isNone).foldl (fun (a : State) r =>
    match a.absTile part (regTile r.reg) with
    | some t => a.modTile t fun x => initReg x r.reg
    | none => a) s

/-! ## Loading (R43, R44, R269) -/

/-- `s` with a command in the configuration queue of a die (R269). -/
def State.pushCfg (s : State) (d : Nat) (c : CfgCmd) : State :=
  let old := s.hd.cfgq.get [] d
  let s1 := s.modHd fun h => { h with cfgq := h.cfgq.set [] d (old ++ [c]) }
  if s.agenda.any fun e => decide (e.2.1 = .configPatternWrite) && decide (e.2.2.a = d) then s1
  else s1.after 1 .configPatternWrite { a := d }

/-- The pattern commands of a chart: once a die for each pattern (R75). -/
def State.cfgCmds (s : State) (part : Nat) (img : ChartImage) (moved : Map Nat) : List (Nat × CfgCmd) :=
  (enumFrom 0 img.patterns).flatMap fun e =>
    let ts := (patTiles img e.1).filterMap (s.placeTile part moved)
    (List.range 8).filterMap fun d =>
      let l := ts.filter fun t => decide (dieOfTile t = d)
      if l.isEmpty then none else some (d, { part := part, pat := e.1, tiles := l })

/-- The Oroti ports that the cut edges of a chart use (R52). Only the devices behind them are waited for: the manual names no relay of
acknowledgements between devices that no cut edge of this one joins (log 92). -/
def loadPorts (img : ChartImage) : List Nat :=
  (img.chans.flatMap fun c => c.route.filterMap fun l => if l.lane < 64 then none else some ((l.lane - 64) / 2)).eraseDups

/-- The dies, and the devices behind Oroti ports (0x100 + port), that take part in a chart. -/
def loadParties (img : ChartImage) : List Nat := usedDies img ++ (loadPorts img).map fun p => 0x100 + p

/-- The configuration timeout starts when the last multicast has left the queue (R44). -/
def State.startTimeout (s : State) (part id : Nat) : State := s.atFc (s.now + 2 ^ 22) .configTimeout { a := part, b := id }

/-- The largest completion timestamp of the commands of a partition's channels: its reconfiguration token carries a larger one
(R219). -/
def State.lastDone (s : State) (part : Nat) : Nat :=
  (s.partTiles part).foldl (fun a t => Nat.max a (s.tileAt t).mu.lastDone) 0

/-! ## Templates and initial memory images (R72, R378) -/

/-- The translation of a VA for the loader, with the state after its walk, if the VF maps it with the permission needed (R307). -/
def State.dataXl (s : State) (vf va : Nat) (need : Need) : Option (Xl × State) :=
  match s.walk (chanTile 63 0) vf vf 0 va need with
  | .ok t e => some (e.at va, s.walked t)
  | _ => none

/-- Bytes are written at a VA of a VF, line by line, as an engine writes them. -/
def State.dataWrite (fuel : Nat) (s : State) (vf va : Nat) (bs : List Byte) : State :=
  match fuel with
  | 0 => s
  | n + 1 =>
    if bs = [] then s
    else
      let k := inLine va bs.length
      let o := va % 128
      let d : LineBits := BitVec.ofNat 1024 ((lineOfBytes (bs.take k)).toNat * 2 ^ (8 * o))
      let s1 := match s.dataXl vf va .write with
        | none => s
        | some (x, s) =>
          match s.homeUpdate x vf 0 (fun l => mergeLine l d (byteMask o k)) (byteMask o k) with
          | .done t _ _ _ _ => t
          | _ =>
            let (old, t) := s.homeData x vf
            t.homeWrite x (mergeLine old d (byteMask o k)) vf
      State.dataWrite n s1 vf (va + k) (bs.drop k)

/-- What a chart writes to memory: its templates at TBASE, and its initial images. -/
def State.imgWrites (s : State) (vf : Nat) (img : ChartImage) : List (Nat × List Byte) :=
  (img.templates.map fun e => (s.tmplVa vf e.1, bytesOfLine e.2)) ++ img.data

/-- A template of a chart is defective, for the tiles and bindings that the chart itself places (R313, R378). A command's
channel is not known before it is queued: a template is good when it is for one channel of the partition. -/
def State.badTemplates (s : State) (part vf : Nat) (img : ChartImage) : Bool :=
  let s1 := (enumFrom 0 img.patterns).foldl (fun (a : State) e =>
    ((patTiles img e.1).filterMap (s.absTile part)).foldl (fun (b : State) t =>
      { b with cfg := { b.cfg with tiles := b.cfg.tiles.put t (tileCfgOf img part vf e.1 t) } }) a)
    { s with cfg := { s.cfg with tiles := s.cfg.tiles.filter fun e => !decide (e.2.part = part) } }
  img.templates.any fun e =>
    decide ((s.vf vf).tcount ≤ e.1) || !((s.partCoves part).any fun c => (List.range 6).any fun k =>
      decide (s1.tmplDefect part c k e.2 ((s.dataXl vf (tmplDbase e.2) .read).map fun x => x.1) = none))

/-- Some byte that a chart writes lies on a page that its VF may not write. -/
def State.badWrites (s : State) (vf : Nat) (img : ChartImage) : Bool :=
  (s.imgWrites vf img).any fun e =>
    (List.range ((e.1 % 16384 + e.2.length + 16383) / 16384)).any fun k =>
      (s.dataXl vf (Nat.max e.1 (e.1 / 16384 * 16384 + 16384 * k)) .write).isNone

/-- Step 6 of a device reset (R374), once the agent's reserved cove is started: CXL.cache and CXL.mem are enabled and PFSTAT reads OK; one
that PFCMD 2 began completes (R368). An agent whose chart cannot be loaded does not hold the device up (log 10). -/
def State.bootEnd (s : State) : State :=
  if s.hd.boot = 0 then s
  else s.modHd fun h =>
    { h with
      boot := 0, cxlOn := true
      pf := { h.pf with busy := false, stat := 0 }
      out := if h.boot = 2 then h.out ++ [.pfVector 1] else h.out }

/-- The host learns how a load ended (R44). -/
def State.loadReport (s : State) (vf st off : Nat) : State :=
  let s1 := s.modHd fun h => { h with out := h.out ++ [.loadStatus vf st off] }
  if vf = 128 then s1.bootEnd else s1

/-- This device's acknowledgement goes out over the trained Oroti ports of a chart (R52, R370). -/
def State.sendAcks (s : State) (part : Nat) (img : ChartImage) : State :=
  let l := (loadPorts img).filter fun p => (s.net.ports.get {} p).trained
  s.modHd fun h => { h with out := h.out ++ l.map fun p => .linkAck p part }

/-- A party of a load acknowledges, a device as soon as its own dies have: it waits for no other device, since the manual names no relay
(log 92). After the last one the load goes on to step 4 (R43). A device answers over a trained
port only (R370), and this device answers to the others when its last die has (R52). -/
def State.loadAck (s : State) (part who : Nat) : State :=
  match s.hd.loads.look part with
  | none => s
  | some r =>
    if 0x100 ≤ who ∧ !(s.net.ports.get {} (who - 0x100)).trained then s
    else
      let w := r.waiting.filter fun n => !decide (n = who)
      let here (l : List Nat) : Bool := l.any fun n => decide (n < 0x100)
      let s0 := if here r.waiting && !here w then s.sendAcks part r.img else s
      let s1 := s0.modHd fun h => { h with loads := h.loads.put part { r with waiting := w } }
      if w.isEmpty ∧ r.left = 0 ∧ r.waiting ≠ w then s1.after 1 .startTokenDelivery { a := part } else s1

/-- CHART_LOAD_ACK (R43, R52): party `ev.b` of the load of partition `ev.a`. -/
def execChartLoadAck (s : State) : Host.Outcome State Fault Refusal := .next (s.loadAck s.ev.a s.ev.b)

/-! ## The configuration network (R75, R269) -/

/-- A load's pattern command is written: its die acknowledges after its last one, and the timeout starts after the last of
all. -/
def State.loadWritten (s : State) (d : Nat) (c : CfgCmd) : State :=
  match s.hd.loads.look c.part with
  | none => s
  | some r =>
    let s1 := c.tiles.foldl (fun (a : State) t => a.writeTile c.part r.vf c.pat t r.img r.resume.isSome) s
    let s2 := s1.modHd fun h => { h with loads := h.loads.put c.part { r with left := r.left - 1 } }
    let more := (s2.hd.cfgq.get [] d).any fun e => decide (e.part = c.part) && e.clone.isNone
    let s3 := if more then s2 else s2.after 1 .chartLoadAck { a := c.part, b := d }
    if r.left = 1 then s3.startTimeout c.part r.id else s3

/-- The controllers neither clone nor remove replicas of a partition: it is frozen, draining or loading (R49). -/
def State.stagesHeld (s : State) (part : Nat) : Bool :=
  (s.hd.freezes.look part).isSome || (s.hd.drains.look part).isSome || (s.hd.loads.look part).isSome
    || (decide (part ≠ agentPart) && decide ((s.part part).pstate ≠ 2))

/-- A clone's pattern is written on its tile; it joins its stage at the next sample boundary (R46, R269). A clone whose partition
drains meanwhile is given up (R49). -/
def State.cloneWritten (s : State) (c : CfgCmd) (key : Nat) : State :=
  match s.cfg.charts.look c.part, s.hd.stages.look key with
  | none, _ | _, none => s
  | some img, some e =>
    if s.stagesHeld c.part then s.modHd fun h => { h with stages := h.stages.put key { e with cloning := none, written := false } }
    else
    let vf := (s.part c.part).occ
    let s1 := c.tiles.foldl (fun (a : State) t =>
      let k := tileCfgOf img c.part vf c.pat t
      let b := { a with cfg := { a.cfg with tiles := a.cfg.tiles.put t k } }
      b.modTile t fun x => { freshTile x (s.startLease vf) with ctlq := [0] }) s
    s1.modHd fun h => { h with stages := h.stages.put key { e with written := true } }

/-- The configuration network of a die writes the command at the head of its queue. -/
def State.writePattern (s : State) (d : Nat) : State :=
  match s.hd.cfgq.get [] d with
  | [] => s
  | c :: rest =>
    let s1 := s.modHd fun h => { h with cfgq := h.cfgq.set [] d rest }
    let s2 := match c.clone with
      | some key => s1.cloneWritten c key
      | none => s1.loadWritten d c
    if rest.isEmpty then s2 else s2.after 1 .configPatternWrite { a := d }

/-- CONFIG_PATTERN_WRITE (R269): die `ev.a`. -/
def execConfigPatternWrite (s : State) : Host.Outcome State Fault Refusal := .next (s.writePattern s.ev.a)

/-! ## Image slots (R333) -/

/-- The PA of the header word of image slot `k` (R333). Images are kept under it. -/
def slotPa (save k : Nat) : Nat := save + 64 + 8 * k

/-- The header word of a slot. -/
def State.slotWord (s : State) (save k : Nat) : Nat := leNat (s.pinRead 2 128 0 (slotPa save k) 8).1

/-- SVALID of the slot whose header word is at `pa` is cleared (R333). -/
def State.clearValid (s : State) (pa : Nat) : State :=
  let w := leNat (s.pinRead 2 128 0 pa 8).1
  (s.pinWrite 2 128 0 pa (leBytes 8 (w - w / 128 % 2 * 128))).1

/-! ## Residency (R272, R273, R347) -/

/-- The fc since which a partition's occupant has been resident in this interval are added to its coves (R347). -/
def State.countResident (s : State) (part : Nat) : State :=
  match s.hd.entered.look part with
  | none => s
  | some n =>
    let v := (s.part part).occ
    (s.partCoves part).foldl (fun (a : State) c => a.modHd fun h =>
      { h with resident := h.resident.set 0 (c * 129 + v) (h.resident.get 0 (c * 129 + v) + (s.now - n)) })
      (s.modHd fun h => { h with entered := h.entered.drop part })

/-- The entries of a wrack queue from index `c` on, `n` of them, raise their vectors (R273). -/
def State.replayFrom (n : Nat) (s : State) (vf base c : Nat) : State :=
  match n with
  | 0 => s
  | k + 1 =>
    let (bs, s1) := s.pinRead 2 vf 0 (base + 64 + 16 * (c % 1024)) 16
    let e := leNat bs
    let s2 := if e / 2 ^ 8 % 16 = (s1.vf vf).gen.toNat then s1.sendVector vf (e % 64) else s1.countDrop vf 1
    State.replayFrom k s2 vf base ((c + 1) % 2 ^ 32)

/-- A VF's wrack queue is replayed at its entry, and CONS becomes PROD (R273). -/
def State.replayWrack (s : State) (vf : Nat) : State :=
  let base := (s.vf vf).wqbase
  let (p, c, _, s1) := s.ringHead vf base 1024
  if p = c then s1
  else
    let s2 := s1.replayFrom ((p + 2 ^ 32 - c) % 2 ^ 32) vf base c
    (s2.pinWrite 2 vf 0 (base + 4) (leBytes 4 p)).1

/-- VF `v` is resident in a partition from now on: its interrupts go straight out, after those logged (R273, R332, R367). -/
def State.makeResident (s : State) (part v : Nat) : State :=
  let s1 := s.modPart part fun e => { e with pstate := 2, occ := v }
  let s2 := (s1.modVf v fun e => { e with state := 2 }).modHd fun h => { h with entered := h.entered.put part s.now }
  s2.replayWrack v

/-! ## The start (R43 step 4, R265, R338) -/

/-- An initial token at its consumer (R42, R72). -/
def State.placeInit (s : State) (part vf : Nat) (k : InitTok) : State :=
  match s.chan (chanKey part k.chan) with
  | none => s
  | some c =>
    match c.dst with
    | .berth t b p =>
      let (id, s1) := s.fresh
      let tok : Token :=
        { cls := c.cls, ctx := BitVec.ofNat 7 vf, dport := BitVec.ofNat 3 p, nflit := k.nflit, dest := t, gen := (s.vf vf).gen
          pay := k.pay }
      let w : Waiting :=
        { chan := chanKey part k.chan, crep := (s.dstTiles c).findIdx fun u => u = t, berth := b, port := p, tok := tok
          since := s.now, ready := s.now, id := id }
      (s1.modTile t fun x => { x with wait := x.wait ++ [w] }).placeOperands t
    | _ => s

/-- The producers of each channel hold its depth in credits towards every replica of the consumer, less the initial tokens on the
tile that the channel names (R260 to R262). The credits of a producer on another device are there. -/
def State.startCredits (s : State) (part : Nat) (img : ChartImage) (fresh : Bool) : State :=
  (enumFrom 0 img.chans).foldl (fun (a : State) e =>
    match a.chan (chanKey part e.1) with
    | none => a
    | some c =>
      let n := if fresh then (img.toks.filter fun k => decide (k.chan = e.1)).length else 0
      let away : Bool := match c.src with
        | .remote _ => true
        | _ => false
      if away then a
      else (enumFrom 0 (a.dstTiles c)).foldl (fun (b : State) k =>
        b.shareCredits c (chanKey part e.1) k.1 (c.depth - if k.2 = endTile c.dst then n else 0)) a) s

/-- A task image as an entry of its cove's task table (R310, R352). -/
def State.placeTask (s : State) (part vf : Nat) (t : TaskImg) : State :=
  match s.relCove part (t.cove / 64) (t.cove % 64) with
  | none => s
  | some c =>
    let n := (t.record.extractLsb' 3 8).toNat
    let e : TaskEnt := { state := 2, count := n, cntu := decide (n ≠ 0), vf := vf, record := t.record }
    s.modCove c fun v => { v with tasks := v.tasks.set {} t.idx e }

/-- The elastic stages of a chart, one a die: their replicas are the tiles that hold a berth of the stage (R45). -/
def State.startStages (s : State) (part : Nat) (img : ChartImage) : State :=
  img.stages.foldl (fun (a : State) r =>
    let ts := (s.partTiles part).filter fun t =>
      decide (dieOfTile t = r.die) && (s.tcfg t).berths.any fun e => decide (e.2.stage.toNat = r.stage)
    if 0 < r.lo ∧ r.lo < r.hi ∧ !ts.isEmpty then
      a.modHd fun h =>
        { h with stages := h.stages.put (stageKey part r.stage r.die) { stage := r.stage, hi := r.hi, lo := r.lo, tiles := ts } }
    else a) s

/-- EXEC of a VF is zero when its chart starts (R358). -/
def State.zeroExec (s : State) (vf : Nat) : State :=
  s.modHd fun h => { h with exec := h.exec.filter fun e => !decide (e.1 / 64 % 256 = vf) }

/-- The cove and tile of a drain image's place `k`: the k-th cove of the partition in row-major order (R338, R339). -/
def State.kthCove (s : State) (part k : Nat) : Nat := (s.partCoves part).getD k 0

/-- A tile takes back what a drain saves: accumulators, thresholds, LEASE and live frames with the operands spilled into them (R33,
R338). -/
def restoreTile (x y : Tile) : Tile :=
  { x with
    x := { x.x with acc := y.x.acc, adesc := y.x.adesc }
    th := y.th, lease := y.lease, frames := y.frames, wait := y.wait, mu := { x.mu with qck := y.mu.qck } }

/-- A drain image is restored onto the partition's coves: pools, registers, frames, undispatched tasks, events, QCK
(R338). -/
def State.restoreDrain (s : State) (part : Nat) (g : SaveImg) : State :=
  let s1 := g.tiles.foldl (fun (a : State) e =>
    a.modTile (tileOfCove (s.kthCove part (e.1 / 64)) (e.1 % 64)) fun x => restoreTile x e.2) s
  let s2 := g.coves.foldl (fun (a : State) e =>
    a.modCove (s.kthCove part e.1) fun c =>
      { c with tasks := e.2.tasks, fifos := e.2.fifos, events := e.2.events, ets := e.2.ets }) s1
  let s3 := s2.zeroPools (s2.partCoves part)
  let there (a : Nat) : Nat := poolAddr (s.kthCove part (a / 2 ^ 21)) + a % 2 ^ 21
  { s3 with mem := { s3.mem with
      pm := g.pools.foldl (fun (m : Map Byte) e => m.set 0 (there e.1) e.2) s3.mem.pm
      slots := g.slots.foldl (fun (m : Map Bool) e => m.set false (there e.1) true) s3.mem.slots } }

/-- The sources of a partition start again: task dispatch and ingress delivery (R337, R338). -/
def State.ungate (s : State) (part : Nat) : State :=
  let s1 := s.modHd fun h => { h with gated := h.gated.drop part }
  let s2 := (s.partCoves part).foldl (fun (a : State) c => (a.lookTasks c).after 1 .computeTaskDispatch { a := c }) s1
  s2.after 1 .ingressTokenDelivery { a := (s.part part).occ }

/-- The step-4 effects of a load: a new chart gets its initial tokens and task images, a resumed one what its drain image
holds and is resident from now on; then every participating tile gets its start token (R43, R265, R332, R338). -/
def State.deliverStart (s : State) (part : Nat) : State :=
  match s.hd.loads.look part with
  | none => s
  | some r =>
    let s00 := match r.resume with
      | some pa => (if (s.part part).pstate = 3 then s.makeResident part r.vf else s).clearValid pa
      | none => s
    let s0 := s00.modHd fun h =>
      { h with
        loads := h.loads.drop part
        rolls := if part = agentPart then 0 else h.rolls
        rollq := if part = agentPart then [] else h.rollq }
    let s1 := s0.startStages part r.img
    let s2 := match r.resume.bind fun k => s.hd.images.look k with
      | some g => (s1.startCredits part r.img false).restoreDrain part g
      | none =>
        let a := ((s1.startCredits part r.img true).zeroExec r.vf)
        let b := r.img.toks.foldl (fun (a : State) k => a.placeInit part r.vf k) a
        r.img.tasks.foldl (fun (a : State) t => a.placeTask part r.vf t) b
    let ts := (s2.cfg.tiles.filter fun e => e.2.used && decide (e.2.part = part)).map fun e => e.1
    let s3 := ts.foldl (fun (a : State) t =>
      (a.modTile t fun x => { x with ctlq := [r.start] }).after 1 .controlTokenTake { a := t }) s2
    let s4 := match r.resume with
      | some k => s3.modHd fun h => { h with images := h.images.drop k, running := h.running.drop part }
      | none => s3
    let s5 := (if r.agent then s4.privDone .ok else s4).dropAway (s.partCoves part) (s.part part).occ
    (s5.ungate part).loadReport r.vf 0 0

/-- START_TOKEN_DELIVERY (R43, R265): partition `ev.a`. -/
def execStartTokenDelivery (s : State) : Host.Outcome State Fault Refusal := .next (s.deliverStart s.ev.a)

end Sys2Proof.Machine
end

