-- ==== Sys2Proof/Machine/Elastic.lean ====
section
/-! DEFINITION. The tide controllers' elastic stages: sampling, clones, and the removal of replicas (R45 to R49, R262). -/

namespace Sys2Proof.Machine

/-- The berths of a stage on a tile. -/
def State.stageBerths (s : State) (t stage : Nat) : List (Nat × BerthRec) :=
  (s.tcfg t).berths.filter fun e => decide (e.2.stage.toNat = stage)

/-- Berth `b` of tile `t` is one of a stage's. -/
def State.holdsStage (s : State) (t stage b : Nat) : Bool := (s.stageBerths t stage).any fun e => decide (e.1 = b)

/-- The tokens held in the trigger-port FIFOs of a stage's replicas, over every berth of the stage on their tiles (R31, R45). -/
def State.stageDepth (s : State) (e : StageSt) : Nat :=
  e.tiles.foldl (fun a t =>
    (s.stageBerths t e.stage).foldl (fun n x =>
      match usedInputs x.2 with
      | [] => n
      | p :: _ => n + ((s.tileAt t).wait.filter fun w => decide (w.berth = x.1) && decide (w.port = p)).length) a) 0

/-- The numbers of replicas that an elastic stage has on its die, those being removed among them (R46). -/
def StageSt.count (e : StageSt) : Nat := (e.tiles.filter fun t => !decide (t = gapTile)).length

/-- The replicas in the distribution set of a stage (R47). -/
def StageSt.members (e : StageSt) : List Nat := e.tiles.filter fun t => !decide (t = gapTile) && !e.removing.contains t

/-- Replica numbers with a clone at the lowest free one. -/
def putReplica (l : List Nat) (t : Nat) : List Nat :=
  match l with
  | [] => [t]
  | u :: r => if u = gapTile then t :: r else u :: putReplica r t

/-- Replica numbers without one tile's; no free number stands last. -/
def dropReplica (l : List Nat) (t : Nat) : List Nat :=
  l.foldr (fun u a => let v := if u = t then gapTile else u
    if v = gapTile ∧ a.isEmpty then [] else v :: a) []

/-- A tile of the partition's die is free: of the kind, without a berth, and not the target of a clone (R46). -/
def State.isFreeTile (s : State) (k : Kind) (t : Nat) : Bool :=
  decide (kindAt (t % 64) = k) && !(s.tcfg t).used && !(s.hd.stages.any fun e => decide (e.2.cloning = some t))

/-- The nearest of some tiles to a tile by mesh hops, ties to the lowest cove and then tile index (R46). -/
def nearestTile (dst : Nat) (l : List Nat) : Option Nat :=
  l.foldl (fun a t => match a with
    | none => some t
    | some b => if hops t dst < hops b dst ∨ (hops t dst = hops b dst ∧ t < b) then some t else some b) none

/-- The stage at `key` starts a clone, if a tile is free (R46). -/
def State.startClone (s : State) (key : Nat) (e : StageSt) : State :=
  let part := key / 512
  let first := e.tiles.headD 0
  let free := (s.partTiles part).filter fun t =>
    decide (dieOfTile t = dieOfTile first) && s.isFreeTile (kindAt (first % 64)) t
  match nearestTile first free with
  | none => s
  | some t =>
    let c : CfgCmd := { part := part, pat := (s.tcfg first).pat, tiles := [t], clone := some key }
    (s.modHd fun h => { h with stages := h.stages.put key { e with above := 0, cloning := some t } }).pushCfg (dieOfTile t) c

/-- A clone whose pattern is written joins its stage: the credits of the FIFOs of each of its berths of the stage go to the producers,
and its tile takes its start token (R46, R260, R262, R269). -/
def State.joinClone (s : State) (key t : Nat) (e : StageSt) : State :=
  let e1 := { e with tiles := putReplica e.tiles t, cloning := none, written := false, above := 0 }
  let s1 := s.modHd fun h => { h with stages := h.stages.put key e1 }
  let into : List (Nat × ChanCfg) := s1.cfg.chans.filter fun c => match c.2.dst with
    | .berth u d _ => decide (c.2.part = key / 512) && s1.holdsStage t e.stage d && e.tiles.contains u && (s1.dstTiles c.2).contains t
    | _ => false
  let s2 := into.foldl (fun (a : State) c =>
    a.shareCredits c.2 c.1 ((a.dstTiles c.2).findIdx fun u => u = t) c.2.depth) s1
  s2.after 1 .controlTokenTake { a := t }

/-- The stage at `key` takes its highest-numbered replica out of its distribution set (R47). R47 does not say whether the count of
low samples goes on: it starts again, as R46 has it for a clone (log 114). -/
def State.startRemoval (s : State) (key : Nat) (e : StageSt) : State :=
  let s1 := s.modHd fun h => { h with stages := h.stages.put key { e with below := 0, removing := e.removing ++ e.members.getLast?.toList } }
  if e.removing.isEmpty then s1.after 1 .replicaRelease { a := key / 512, b := key } else s1

/-- One sample of one stage (R45 to R47). The manual does not say whether a stage is sampled while a clone of it is on its way: no sample
is taken then, nor at the boundary at which the clone joins (log 114). -/
def State.sampleStage (s : State) (key : Nat) (e : StageSt) : State :=
  if s.stagesHeld (key / 512) then s
  else
    match e.cloning with
    | some t => if e.written then s.joinClone key t e else s
    | none =>
      let d := s.stageDepth e
      let up := if e.hi < d then e.above + 1 else 0
      let down := if d < e.lo then e.below + 1 else 0
      let e1 := { e with above := up, below := down }
      let s1 := s.modHd fun h => { h with stages := h.stages.put key e1 }
      if 3 ≤ up ∧ e1.count < 64 then s1.startClone key e1
      else if 8 ≤ down ∧ 1 < e1.members.length then s1.startRemoval key e1
      else s1

/-- TIDE_SAMPLE (R45 to R47): die `ev.a`. -/
def execTideSample (s : State) : Host.Outcome State Fault Refusal :=
  .next ((s.hd.stages.filter fun e => decide (e.1 % 8 = s.ev.a)).foldl (fun (a : State) e => a.sampleStage e.1 e.2) s)

/-- Credits towards consumer replica `crep` of a channel that are free, at any of `n` producers. -/
def State.freeTowards (s : State) (chan crep n : Nat) : Nat :=
  (List.range n).foldl (fun a p => a + s.credits chan crep p) 0

/-- Every credit towards the removed replica on tile `t` is free: no token is on its way to it and no firing holds a
reservation. -/
def State.unreserved (s : State) (t : Nat) (chans : List (Nat × ChanCfg)) : Bool :=
  chans.all fun c => decide (c.2.depth ≤ s.freeTowards c.1 ((s.dstTiles c.2).findIdx fun u => u = t) (s.srcTiles c.2).length)

/-- The channels of a stage whose end there may stand on tile `t`: into its berths of the stage, or with `src` out of them. -/
def State.stageChans (s : State) (key : Nat) (e : StageSt) (t : Nat) (src : Bool) : List (Nat × ChanCfg) :=
  s.cfg.chans.filter fun c => decide (c.2.part = key / 512) && (s.endTiles src (if src then c.2.src else c.2.dst)).contains t &&
    match (if src then c.2.src else c.2.dst) with
    | .berth u d _ => s.holdsStage t e.stage d && e.tiles.contains u
    | _ => false

/-- The replica on tile `t` of the stage at `key`, which is being removed, holds nothing and nothing is on its way to it. While the
partition drains or loads a chart, it stays (R47, R49). -/
def State.hasDrained (s : State) (key : Nat) (e : StageSt) (t : Nat) : Bool :=
  !s.stagesHeld (key / 512) && (s.tileAt t).slots.isEmpty && (s.tileAt t).wait.isEmpty && s.unreserved t (s.stageChans key e t false)

/-- The tile of a removed replica that has drained goes back to the partition's free tiles; its free credits are handed out again
(R47, R262). -/
def State.releaseTile (s : State) (key : Nat) (e : StageSt) (t : Nat) : State :=
  let held := (s.stageChans key e t true).flatMap fun c => (enumFrom 0 (s.dstTiles c.2)).map fun k => (c, k)
  let s1 := held.foldl (fun (a : State) y =>
    let p := (s.srcTiles y.1.2).findIdx fun u => u = t
    let n := a.credits y.1.1 y.2.1 p
    (List.range n).foldl (fun (b : State) _ => b.freeCredit y.2.2 y.1.1 y.2.1) (a.takeCredits y.1.1 y.2.1 p n)) s
  let s2 := (s.stageChans key e t false).foldl (fun (a : State) c =>
    let k := (s.dstTiles c.2).findIdx fun u => u = t
    (List.range (a.srcTiles c.2).length).foldl (fun (b : State) p => b.takeCredits c.1 k p (b.credits c.1 k p)) a) s1
  let e1 := { e with tiles := dropReplica e.tiles t, removing := e.removing.filter fun u => !decide (u = t) }
  let s3 := s2.modHd fun h => { h with stages := h.stages.put key e1 }
  let s4 := s3.modTile t fun y => freshTile y (s.startLease (s.part (key / 512)).occ)
  { s4 with cfg := { s4.cfg with tiles := s4.cfg.tiles.drop t } }

/-- The replicas that a stage removes are looked at, and again in the next fc while one has not drained (R47). -/
def State.releaseReplica (s : State) (key : Nat) : State :=
  match s.hd.stages.look key with
  | none => s
  | some e =>
    let s1 := e.removing.foldl (fun (a : State) t =>
      match a.hd.stages.look key with
      | some e1 => if a.hasDrained key e1 t then a.releaseTile key e1 t else a
      | none => a) s
    let left := match s1.hd.stages.look key with
      | some e1 => e1.removing
      | none => []
    if left.isEmpty then s1 else s1.after 1 .replicaRelease { a := key / 512, b := key }

/-- REPLICA_RELEASE (R47): the stage at key `ev.b` of partition `ev.a`. -/
def execReplicaRelease (s : State) : Host.Outcome State Fault Refusal := .next (s.releaseReplica s.ev.b)

end Sys2Proof.Machine
end

