-- ==== Sys2Proof/Machine/Save.lean ====
section
/-! DEFINITION. Save areas and their images (R333, R338), the stall and the save of a slack freeze (R334, R335), the restore
of an image (R336), wrack-queue replay (R273), and the start and the failure of a chart load (R43, R44). -/

namespace Sys2Proof.Machine

/-! ## Save areas (R333) -/

/-- The length in bytes that a save area's header gives (R333). -/
def State.areaLen (s : State) (save : Nat) : Nat := 16384 * leNat (s.pinRead 2 128 0 (save + 4) 4).1

/-- The header marks the area pinned. -/
def State.isPinned (s : State) (save : Nat) : Bool := decide (leNat (s.pinRead 2 128 0 save 4).1 = 0x50494E31)

/-- An area lies wholly in one populated tier region (R194, R333). -/
def inOneTier (base len : Nat) : Bool :=
  decide (0 < len) && decide (regionOf base = regionOf (base + len - 1)) &&
    (match regionOf base with
     | .tier1 _ => true
     | .tier2 => true
     | _ => false)

/-- The area overlaps the save area of another partition that is not empty (R333). -/
def State.areaClash (s : State) (part base len : Nat) : Bool :=
  s.hd.parts.any fun e => decide (e.1 ≠ part) && decide (e.2.pstate ≠ 0) && decide (base < e.2.save + s.areaLen e.2.save)
    && decide (e.2.save < base + len)

/-- ISIZE of a partition: 64 KiB and 8 MiB for each cove, in 16 KiB units (R333). -/
def State.imageUnits (s : State) (part : Nat) : Nat := 4 + 512 * (s.partCoves part).length

/-- The slot that holds an image of a VF. -/
def State.ownSlot (s : State) (save v : Nat) : Option Nat :=
  (List.range 8).find? fun k => decide (s.slotWord save k % 128 = v) && decide (s.slotWord save k / 128 % 2 = 1)

/-- The slot to be used for a save: the VF's own, else the lowest free one (R333). -/
def State.slotFor (s : State) (save v : Nat) : Option Nat :=
  match s.ownSlot save v with
  | some k => some k
  | none => (List.range 8).find? fun k => decide (s.slotWord save k / 128 % 2 = 0)

/-- A save of VF `v` can be made in the partition's area (R333). -/
def State.canSave (s : State) (part v : Nat) : Bool :=
  let base := (s.part part).save
  let len := s.areaLen base
  s.isPinned base && inOneTier base len && !s.areaClash part base len &&
    (match s.slotFor base v with
     | some k => decide (16384 * (1 + (k + 1) * s.imageUnits part) ≤ len)
     | none => false)

/-- The `n` bytes of an image slot at PA `a` take the bytes of a new image (R333). -/
def State.sealSlot (s : State) (a n : Nat) : State :=
  let (id, s1) := s.fresh
  let out (x : Nat) : Bool := decide (x < a) || decide (a + n ≤ x)
  { s1 with mem := { s1.mem with
      pm := s1.mem.pm.filter fun e => out e.1
      skey := s1.mem.skey.filter fun e => out (32 * e.1)
      sealed := s1.mem.sealed.put (a / 32) (n / 32, 2 ^ 64 + id) } }

/-- An image is stored in a slot, with its header word and ISIZE (R333, R334 step 4). -/
def State.putImage (s : State) (part v : Nat) (g : SaveImg) : State :=
  let base := (s.part part).save
  match s.slotFor base v with
  | none => s
  | some k =>
    let w := v + 2 ^ 7 + (if g.kind then 2 ^ 8 else 0) + g.gen.toNat * 2 ^ 9
    let s1 := (s.pinWrite 2 128 0 (base + 8) (leBytes 4 (s.imageUnits part))).1
    let s2 := (s1.pinWrite 2 128 0 (slotPa base k) (leBytes 8 w)).1
    let s2 := s2.sealSlot (base + 16384 + 16384 * k * s.imageUnits part) (16384 * s.imageUnits part)
    s2.modHd fun h => { h with images := h.images.put (slotPa base k) g }

/-- A slot holds no image any more. -/
def State.freeSlotWord (s : State) (base k : Nat) : State :=
  (s.clearValid (slotPa base k)).modHd fun h => { h with images := h.images.drop (slotPa base k) }

/-! ## Charges of saving and scrubbing (R206, R334) -/

/-- The bytes of one cove that a save copies: element-local memories, routine stores, berms and the pool (R17, R191, R334). -/
def saveBytes : Nat := 36 * 65536 + 22 * 8192 + 6 * 16384 + 2 ^ 21

/-- The bits of the registers of a tile, as R99, R101, R104, R105 and R109 to R113 give them: the slots', the tile's own, on an X-tile
the matrix registers, and on an M-tile the 32 arrival bitmaps of 128 bits with their CTS. -/
def regBits (k : Kind) : Nat :=
  let slot := 32 * 32 + 16 * (512 + 6) + 7 + 3 * 16 + 4 * (512 + 6) + 16 + 32 + 8 + 32 + 28 + 3 + 16 + 23
  let own := 32 * 32 + 6 + 11
  match k with
  | .c => 4 * slot + own + 8 * 32
  | .m => 4 * slot + own + 8 * 32 + 32 * (128 + 48)
  | .x => 2 * slot + own + 16 * (16 * 512 + 16 * 128 + 32 + 16) + 8 * (16 * 512 + 256) + 32 + 4 * (16 * 512 + 32)
  | .i => 0
  | .g => 0

/-- The bytes of one cove that a scrub zero-fills: the pool, the element-local memories, the routine stores and the registers of
every tile (R206). -/
def scrubBytes : Nat :=
  2 ^ 21 + 36 * 65536 + 22 * 8192 + (36 * regBits .c + 16 * regBits .x + 6 * regBits .m) / 8

/-- EC53 for every 128 of `n` bytes, at the save engine on HD (R206, R334, R342). -/
def State.chargeScrub (s : State) (vf n : Nat) : State := s.chargeUnit 308 8 vf 53 (n / 128)

/-! ## The stall (R334 step 1) -/

/-- The steps of a partition that are due are held back. -/
def State.holdEvents (s : State) (part : Nat) : State :=
  match s.hd.freezes.look part with
  | none => s
  | some f =>
    let l := s.agenda.filter fun e => s.eventIn part e.2.1 e.2.2
    let rest := s.agenda.filter fun e => !s.eventIn part e.2.1 e.2.2
    ({ s with agenda := rest }).modHd fun h =>
      { h with freezes := h.freezes.put part { f with agenda := f.agenda ++ l } }

/-- The tokens of a partition on the lanes' virtual channels, keyed 8·lane + channel. -/
def State.laneToks (s : State) (part : Nat) : Map (List Nat) :=
  let ids := s.flightsIn part
  s.net.lanes.foldl (fun (m : Map (List Nat)) e => e.2.vcs.foldl (fun (n : Map (List Nat)) q =>
    n.set [] (e.1 * 8 + q.1) (q.2.filter fun i => ids.contains i)) m) []

/-- In one fc, everything of a partition stands still (R334 step 1). -/
def State.stall (s : State) (part : Nat) (next : Option Nat) (timeout : Bool) : State :=
  let ids := s.flightsIn part
  let cmds := s.hd.cfgq.filterMap fun e =>
    let l := e.2.filter fun c => decide (c.part = part)
    if l.isEmpty then none else some (e.1, l)
  let f : Freeze := { next := next, timeout := timeout, since := s.now, lanes := s.laneToks part, cfgq := cmds }
  let s1 := s.modHd fun h =>
    { h with freezes := h.freezes.put part f, gated := h.gated.put part true, cfgq := cfgWithout part h.cfgq }
  let s2 := (s.partTiles part).foldl (fun (a : State) t => a.modTile t fun x => { x with gate := true }) s1
  (s2.modNet fun w => { w with lanes := w.lanes.map fun e => (e.1, laneWithout ids e.2) }).holdEvents part

/-- A slack freeze starts (R334). -/
def State.startFreeze (s : State) (part : Nat) (next : Option Nat) (timeout : Bool) : State :=
  (s.stall part next timeout).after 1 .freezeSave { a := part }

/-- A request of the partition stands at a shared unit (R334 step 2). -/
def State.outstanding (s : State) (part : Nat) : Bool :=
  (s.firingsOf (s.partTiles part)).any fun e => match e.2.2.job with
    | some j => decide (j.stage = .home)
    | none => false

/-! ## Images -/

/-- A record number of `s` is that of a line of the pools of some coves. -/
def poolKey (coves : List Nat) (n : Nat) : Bool :=
  match regionOf (n * 128) with
  | .pool c => coves.contains c
  | _ => false

/-- The pools of some coves are saved: no record of their lines is PEND any more, and no place in them is a slot entry, until an
image brings both back (R198, R334). -/
def State.clearPools (s : State) (coves : List Nat) : State :=
  { s with mem := { s.mem with
      dir := s.mem.dir.map fun e =>
        (e.1, if poolKey coves e.1 && e.2.pend then { e.2 with pend := false, own := 0, tile := 0, slot := 0, base := 0 } else e.2)
      slots := s.mem.slots.filter fun e => !poolKey coves (e.1 / 128) } }

/-- A slack-freeze image of a partition: everything that R334 saves, in place. -/
def State.freezeImage (s : State) (part : Nat) (f : Freeze) : SaveImg :=
  let v := (s.part part).occ
  let ts := s.partTiles part
  let coves := s.partCoves part
  let inPool (a : Nat) : Bool := match regionOf a with
    | .pool c => coves.contains c
    | _ => false
  let ids := s.flightsIn part
  { kind := false, vf := v, gen := (s.vf v).gen, rects := (s.part part).origin, since := f.since
    tiles := s.tiles.filter fun e => ts.contains e.1
    coves := s.coves.filter fun e => coves.contains e.1
    pools := s.mem.pm.filter fun e => inPool e.1
    dirs := s.mem.dir.filter fun e => poolKey coves e.1
    slots := s.mem.slots.filter fun e => poolKey coves (e.1 / 128)
    cfg := s.cfg.tiles.filter fun e => ts.contains e.1
    chans := s.cfg.chans.filter fun e => decide (e.2.part = part)
    chart := s.cfg.charts.look part
    stages := s.hd.stages.filter fun e => decide (e.1 / 512 = part)
    credits := s.net.credits.filter fun e => s.chanIn part (e.1 / 4096)
    creditRr := s.net.creditRr.filter fun e => s.chanIn part (e.1 / 64)
    flights := s.net.flights.filter fun e => ids.contains e.1
    batches := s.net.batches.filter fun e => s.inPart part (coveOfTile e.2.gtile)
    orders := s.net.orders.filter fun e => s.orderIn part e.2
    lanes := f.lanes, agenda := f.agenda, cfgq := f.cfgq, fault := s.hd.faults.get {} part }

/-- A drain image of a partition: what R338 names, keyed by the cove's place in row-major order. -/
def State.drainImage (s : State) (part : Nat) : SaveImg :=
  let v := (s.part part).occ
  let coves := enumFrom 0 (s.partCoves part)
  let ts := coves.flatMap fun e => (List.range 64).map fun i => (e.1 * 64 + i, s.tileAt (tileOfCove e.2 i))
  let keep (x : Tile) : Tile :=
    { x := { acc := x.x.acc, adesc := x.x.adesc }, th := x.th, lease := x.lease, frames := x.frames, wait := x.wait.filter (fun w => decide (w.place = .spill)), mu := { qck := x.mu.qck } }
  let keepCove (c : Cove) : Cove :=
    { tasks := c.tasks.filter fun e => decide (e.2.state = 2) || decide (e.2.state = 3)
      fifos := c.fifos, events := c.events, ets := c.ets }
  { kind := true, vf := v, gen := (s.vf v).gen, rects := (s.part part).origin
    tiles := ts.map fun e => (e.1, keep e.2)
    coves := coves.map fun e => (e.1, keepCove (s.coveAt e.2))
    pools := coves.flatMap fun e =>
      (s.mem.pm.filter fun b => decide (poolAddr e.2 ≤ b.1) && decide (b.1 < poolAddr e.2 + 2 ^ 21)).map fun b =>
        (e.1 * 2 ^ 21 + (b.1 - poolAddr e.2), b.2)
    slots := coves.flatMap fun e =>
      (s.mem.slots.filter fun b => decide (poolAddr e.2 ≤ b.1) && decide (b.1 < poolAddr e.2 + 2 ^ 21)).map fun b =>
        (e.1 * 2 ^ 21 + (b.1 - poolAddr e.2), b.2)
    chart := s.cfg.charts.look part, lastDone := s.lastDone part }

/-- The entries of `m` put over `old`. -/
def overlay {α : Type} (old m : Map α) : Map α := m.foldl (fun (a : Map α) e => a.put e.1 e.2) old

/-- What a tile holds of absolute time, moved on by the fc that the stall lasted. -/
def shiftTile (d : Nat) (x : Tile) : Tile :=
  { x with
    gate := false
    wait := x.wait.map fun w => { w with since := w.since + d, ready := w.ready + d }
    slots := x.slots.map fun e => (e.1, { e.2 with admitted := e.2.admitted + d })
    runs := x.runs.map fun e => (e.1, { e.2 with backoff := e.2.backoff.map fun n => n + d }) }

/-- A stall lifts in one fc: held steps fall due again, tokens go back to their lanes, tiles run (R336). -/
def State.liftStall (s : State) (part since : Nat) (lanes : Map (List Nat)) (agenda : List (Nat × Instr × EvArg)) : State :=
  let d := s.now - since
  let s1 := (s.partTiles part).foldl (fun (a : State) t => a.modTile t (shiftTile d)) s
  let s2 := agenda.foldl (fun (a : State) e => a.atFc (Nat.max (e.1 + d) s.now) e.2.1 e.2.2) s1
  let s3 := lanes.foldl (fun (a : State) e => e.2.foldl (fun (b : State) id => b.laneJoin (e.1 / 8) (e.1 % 8) id) a) s2
  let s4 := s3.modHd fun h => { h with freezes := h.freezes.drop part }
  (s4.ungate part).wakeWaiters

/-- A slack-freeze image is written back, and the stall lifts (R336). With `keep`, the L1 lines and templates that the tiles held
come back as well (R44). -/
def State.restoreFreeze (s : State) (part : Nat) (g : SaveImg) (keep : Bool) : State :=
  let c := { s.cfg with
    tiles := overlay s.cfg.tiles g.cfg
    chans := overlay s.cfg.chans g.chans
    charts := match g.chart with
      | some i => s.cfg.charts.put part i
      | none => s.cfg.charts }
  let d := s.now - g.since
  let s1 := g.tiles.foldl (fun (a : State) e =>
    a.modTile e.1 fun x =>
      { e.2 with
        meter := x.meter
        restoring := !keep && !e.2.owed.isEmpty
        mu := { e.2.mu with tlb := x.mu.tlb, l1 := if keep then e.2.mu.l1 else [], tcache := if keep then e.2.mu.tcache else [] } })
    { s with cfg := c }
  let s2 := g.coves.foldl (fun (a : State) e => a.modCove e.1 fun x => { e.2 with flushed := x.flushed }) s1
  let s3 := s2.modNet fun w =>
    { w with
      flights := overlay w.flights (g.flights.map fun e => (e.1, { e.2 with header := e.2.header + d }))
      batches := overlay w.batches g.batches
      orders := overlay w.orders g.orders
      credits := overlay w.credits g.credits
      creditRr := overlay w.creditRr g.creditRr }
  let s3 := s3.zeroPools (s3.partCoves part)
  let coves := s3.partCoves part
  let s4 := { s3 with mem := { s3.mem with
    pm := g.pools.foldl (fun (m : Map Byte) (e : Nat × Byte) => m.set 0 e.1 e.2) s3.mem.pm
    dir := overlay (s3.mem.dir.filter fun e => !poolKey coves e.1) g.dirs
    slots := overlay s3.mem.slots g.slots } }
  let s5 := (s4.modFault part fun u => { g.fault with posted := u.posted }).modHd fun h =>
    { h with stages := overlay h.stages g.stages }
  let s6 := g.cfgq.foldl (fun (a : State) e => e.2.foldl (fun (b : State) c => b.pushCfg e.1 c) a) s5
  (s6.tagPend (s6.partCoves part) g.vf false).liftStall part g.since g.lanes g.agenda

/-! ## The start and the failure of a load (R43, R44) -/

/-- What a partition holds as a load begins, as a stall finds it; its pools stay where they are (R44). -/
def State.beforeLoad (s : State) (part : Nat) : SaveImg :=
  let t := s.stall part none false
  match t.hd.freezes.look part with
  | some f => { t.freezeImage part f with pools := [], dirs := [], slots := [] }
  | none => {}

/-- A valid chart starts to load: what the partition held is discarded, the channels are written, and the patterns join the
configuration queues. `resume` names a drain image to restore at the start. -/
def State.beginLoad (s : State) (part vf : Nat) (img : ChartImage) (resume : Option Nat) (agent : Bool) : State :=
  let s1 := ((s.tagPend (s.partCoves part) (s.part part).occ true).emptyPart part (s.startLease vf) false).dropChart part
  let (id, s2) := s1.fresh
  let g := resume.bind fun k => s.hd.images.look k
  let moved := (g.map fun x => x.moved).getD []
  let done := Nat.max (s.lastDone part) ((g.map fun x => x.lastDone).getD 0)
  let cmds := s2.cfgCmds part img moved
  let run : LoadRun :=
    { vf := vf, img := img, waiting := loadParties img, left := cmds.length, resume := resume, agent := agent, id := id
      old := s.beforeLoad part
      start := if done = 0 then 0 else done + 1
      moved := moved, qdrn := (s.acct vf).qdrn }
  let c := { s2.cfg with
    chans := (s2.chansOf part img moved).foldl (fun (m : Map ChanCfg) e => m.put e.1 e.2) s2.cfg.chans
    charts := s2.cfg.charts.put part img }
  let s3 := (({ s2 with cfg := c }.writeGrids part vf img).writeLoose part img resume.isSome).modHd fun h => { h with loads := h.loads.put part run }
  let s4 := img.chans.foldl (fun (a : State) c => feedLanes a (c.route.map fun l => l.lane)) s3
  let s5 := cmds.foldl (fun (a : State) e => a.pushCfg e.1 e.2) s4
  let idle := (usedDies img).filter fun d => !cmds.any fun e => decide (e.1 = d)
  let s6 := idle.foldl (fun (a : State) d => a.after 1 .chartLoadAck { a := part, b := d }) s5
  if cmds.isEmpty then s6.startTimeout part id else s6

/-- An engine of the partition has a command to do or to complete (R219). -/
def State.enginesBusy (s : State) (part : Nat) : Bool :=
  (s.partTiles part).any (fun t => (s.tileAt t).mu.run.isSome || !(s.tileAt t).mu.queue.isEmpty) ||
    s.agenda.any fun e => (match e.2.1 with
      | .btePassMark | .bteCommandComplete | .egressEntryWrite => true
      | _ => false) && s.inPart part (coveOfTile e.2.2.a)

/-- A chart that a VF's guest submits: it loads when the VF is resident in the partition, and waits for the VF's entry
otherwise (R332). A chart that passes waits until the engines bound to the outgoing chart have drained (R219; log 97); `seen` tells
that its image has been read. -/
def State.chartLoad (s : State) (part vf : Nat) (ev : ChartImage) (seen : Bool) : State :=
  if part ≠ agentPart ∧ ¬((s.part part).pstate = 2 ∧ (s.part part).occ = vf) then
    s.modHd fun h => { h with submitted := h.submitted.put vf ev }
  else
    let img := s.loadImage part vf ev seen
    let r := if seen || decide (part = agentPart) then s else s.readPages vf img.va img.size
    match s.loadVerdict part vf img with
    | some (off, st) => r.loadReport vf st.code off
    | none =>
      if s.badTemplates part vf img || s.badWrites vf img then r.loadReport vf LoadStatus.fieldReserved.code 0
      else if s.enginesBusy part then r.after 1 .chartLoad { a := part, b := vf, c := 1, img := img }
      else
        (r.imgWrites vf img).foldl (fun (a : State) e => State.dataWrite (e.2.length / 128 + 2) a vf e.1 e.2)
          (r.beginLoad part vf img none false)

/-- CHART_LOAD (R43, R44, R65): the image `ev.img` for VF `ev.b` in partition `ev.a`; `ev.c` is 1 once the image has been read. -/
def execChartLoad (s : State) : Host.Outcome State Fault Refusal := .next (s.chartLoad s.ev.a s.ev.b s.ev.img (decide (s.ev.c = 1)))

/-- A partition returns to what it held before a load: what was under way goes on, and a request that stood at its home is made
again. Its sources stay gated when they were (R44), and its stages' sample counts restart (R49). -/
def State.undoLoad (s : State) (part : Nat) (g : SaveImg) : State :=
  let inPool (a : Nat) : Bool := match regionOf a with
    | .pool c => s.inPart part c
    | _ => false
  let s0 := s.restoreFreeze part
    { g with pools := s.mem.pm.filter fun e => inPool e.1, dirs := s.mem.dir.filter fun e => inPool (e.1 * 128)
             slots := s.mem.slots.filter fun e => inPool e.1 } true
  let s1 := s0.modHd fun h =>
    { h with stages := h.stages.map fun e => (e.1, if e.1 / 512 = part then { e.2 with above := 0, below := 0 } else e.2) }
  let s2 := (s1.firingsOf (s1.partTiles part)).foldl (fun (a : State) e => match e.2.2.job with
    | some j => if j.stage = .home then a.restart e.1 e.2.1 else a
    | none => a) s1
  if s.hd.gated.get false part then s2.modHd fun h => { h with gated := h.gated.put part true } else s2

/-- The load `id` of a partition has not been acknowledged in time: the tiles return to their state before it (R44). A resume that
fails so leaves its partition drained, and its image where it is (R332). -/
def State.loadTimeout (s : State) (part id : Nat) : State :=
  match s.hd.loads.look part with
  | none => s
  | some r =>
    if r.id ≠ id ∨ r.waiting.isEmpty then s
    else
      let s1 := (s.wipePart part (s.startLease r.vf)).dropChart part
      let s2 := s1.modHd fun h =>
        { h with loads := h.loads.drop part, running := if r.resume.isSome then h.running.drop part else h.running }
      let s3 := s2.undoLoad part r.old
      let s3 := if r.resume.isSome then s3.modAcct r.vf fun a => { a with qdrn := r.qdrn } else s3
      (if r.agent then s3.privDone .stateInvalid else s3).loadReport r.vf LoadStatus.linkTimeout.code (r.waiting.headD 0)

/-- CONFIG_TIMEOUT (R44): load `ev.b` of partition `ev.a`. -/
def execConfigTimeout (s : State) : Host.Outcome State Fault Refusal := .next (s.loadTimeout s.ev.a s.ev.b)

end Sys2Proof.Machine
end

