-- ==== Sys2Proof/Machine/Partition.lean ====
section
/-! DEFINITION. The partition commands (R332 to R339, R348, R349), release and scrubbing (R206), and VF reset (R205,
R340). -/

namespace Sys2Proof.Machine

/-! ## Commands (R314, R332, R387) -/

/-- The entry that a PCMD 2 to the partition table writes. -/
def State.newPart (s : State) (p : Nat) : PartEnt :=
  partOfWord (setUnit (s.part p).word s.hd.win.unit s.hd.win.pdata)

/-- Bits that R316 reserves, or a rectangle that leaves its die. -/
def badOrigin (o : BitVec 128) : Bool :=
  (List.range 8).any fun d =>
    let x := o.toNat / 2 ^ (16 * d) % 65536
    decide (8192 ≤ x) || (decide (x / 4096 % 2 = 1) &&
      (decide (8 ≤ x % 8 + x / 64 % 8) || decide (8 ≤ x / 8 % 8 + x / 512 % 8)))

/-- The data of a PCMD 2 to the partition table sets a reserved bit. -/
def State.badPartData (s : State) (p : Nat) : Bool :=
  (decide (s.hd.win.unit = 1) && decide (s.hd.win.pdata.toNat / 2 ^ 105 ≠ 0)) || badOrigin (s.newPart p).origin

/-- SAVE and FQBASE as a write leaves them; they change only while the partition is not running (R316). A SAVE whose area
overlaps another's is refused (R333). -/
def State.writeFields (s : State) (p : Nat) : Except PrivStatus State :=
  let new := s.newPart p
  let old := s.part p
  if new.save = old.save ∧ new.fqbase = old.fqbase then .ok s
  else if old.pstate = 2 then .error .inUse
  else if new.save % 16384 ≠ 0 ∨ new.fqbase % 64 ≠ 0 then .error .value
  else if new.save ≠ old.save ∧ s.areaClash p new.save (s.areaLen new.save) then .error .value
  else
    let s1 := s.modPart p fun e => { e with save := new.save, fqbase := new.fqbase }
    .ok (if new.fqbase = old.fqbase then s1 else s1.ringInit 128 new.fqbase)

/-- A command starts unless another runs on the partition (R332); the SAVE and FQBASE that its write gives are stored (R316). `g`
answers the state after, or the status of a failure, which changes nothing. QDRN of the partition's VF is 0 after a command of the
agent (R345, R349). -/
def State.partCmd (s : State) (p : Nat) (g : State → Except PrivStatus State) : State :=
  if s.hd.running.get false p then s.privDone .inUse
  else if s.badPartData p then s.privDone .value
  else
    match (s.writeFields p).bind g with
    | .error e => s.privDone e
    | .ok t => if 2 ≤ (s.part p).pstate then t.modAcct (s.part p).occ fun a => { a with qdrn := false } else t

/-- A partition command is under way. -/
def State.markRunning (s : State) (p : Nat) (on : Bool) : State :=
  s.modHd fun h => { h with running := h.running.set false p on }

/-! ## Create and release (R206, R316, R332) -/

/-- The coves of a rectangle list. -/
def originCoves (o : BitVec 128) : List Nat :=
  (List.range 8).flatMap fun d =>
    let x := o.toNat / 2 ^ (16 * d) % 65536
    if x / 4096 % 2 = 0 then []
    else (upFrom (x / 8 % 8) (x / 512 % 8 + 1)).flatMap fun r => (upFrom (x % 8) (x / 64 % 8 + 1)).map fun c => d * 64 + r * 8 + c

/-- `s` with cove-map entries written. -/
def State.mapCoves (s : State) (l : List Nat) (e : CmapEnt) : State :=
  l.foldl (fun (a : State) c => a.modHd fun h => { h with cmap := h.cmap.set {} c e }) s

/-- A partition is created (R332, R333). A write to an empty entry that creates nothing stores ORIGIN, half of which lies in a unit of
its own (log 98); OCC and PSTATE stand. -/
def State.createPart (s : State) (p : Nat) : Except PrivStatus State :=
  let old := s.part p
  let new := s.newPart p
  if old.pstate = 0 ∧ new.pstate = 1 then
    let l := originCoves new.origin
    if l.any fun c => decide ((s.hd.cmap.get {} c).cstate ≠ 0) then .error .value
    else if s.areaClash p new.save (s.areaLen new.save) then .error .value
    else .ok ((s.modPart p fun _ => { new with occ := old.occ }).mapCoves l { cpart := p, cstate := 1 })
  else if old.pstate = 0 then .ok (s.modPart p fun e => { e with origin := new.origin })
  else .ok s

/-- PARTITION_CREATE (R332): entry `ev.a`. A write that selects no command stores its fields too. -/
def execPartitionCreate (s : State) : Host.Outcome State Fault Refusal :=
  .next (s.partCmd s.ev.a fun t => (t.createPart s.ev.a).map fun u => u.privDone .ok)

/-- Tile `t` with the registers of a matrix tile zero-filled: only a chart start sets the reset values of R105 (R114, R206). -/
def zeroX (t : Nat) (x : Tile) : Tile :=
  if kindAt (t % 64) = .x then { x with x := { shape := (List.range 16).map fun n => (n, 0), sort := 0 } } else x

/-- Coves are scrubbed, at the charge of a VF: their tiles, pools and lines are cleared, and they are free after 2,048 fc
(R206, R316); they belong to no partition from now on, and CPART reads 0. -/
def State.scrub (s : State) (l : List Nat) (vf : Nat) : State :=
  let s1 := ((s.zeroPools l).dropL1 l).clearPend l true
  let s2 := l.foldl (fun (a : State) c =>
    let b := (upFrom (c * 64) 64).foldl (fun (b : State) t =>
      b.modTile t fun x => zeroX t { freshTile x (s.vf vf).lease0 with mu := { tlb := x.mu.tlb, qck := x.mu.qck } }) a
    (b.modHd fun h => { h with cmap := h.cmap.set {} c { cstate := 2 } }).atFc (s.now + 2048)
      .coveScrubEnd { a := c }) s1
  s2.chargeScrub vf (l.length * scrubBytes)

/-- An idle partition is released (R206, R332). -/
def State.releasePart (s : State) (p : Nat) : Except PrivStatus State :=
  let v := (s.part p).occ
  let l := s.partCoves p
  let s1 := (s.emptyPart p (s.vf v).lease0 true).dropChart p
  .ok ((s1.scrub l v).modPart p fun e => { e with pstate := 0 })

/-- PARTITION_RELEASE (R206, R332): entry `ev.a`. -/
def execPartitionRelease (s : State) : Host.Outcome State Fault Refusal :=
  .next (s.partCmd s.ev.a fun t => (t.releasePart s.ev.a).map fun u => u.privDone .ok)

/-- COVE_SCRUB_END (R206): cove `ev.a` is free. -/
def execCoveScrubEnd (s : State) : Host.Outcome State Fault Refusal :=
  let e := s.hd.cmap.get {} s.ev.a
  .next (if e.cstate = 2 then s.mapCoves [s.ev.a] { e with cstate := 0 } else s)

/-! ## Enter, switch, freeze (R332, R334 to R336, R348) -/

/-- Width, height and use of the rectangles of an ORIGIN, die by die, for the dies used. -/
def originShape (o : BitVec 128) : List Nat :=
  ((List.range 8).map fun d => o.toNat / 2 ^ (16 * d + 6) % 128).filter fun x => decide (64 ≤ x)

/-- Another partition's save area holds a slack-freeze image of VF `v`: it lies on other coves (R336). -/
def State.frozenElsewhere (s : State) (p v : Nat) : Bool :=
  s.hd.parts.any fun e => decide (e.1 ≠ p) && s.isPinned e.2.save && ((s.ownSlot e.2.save v).bind fun k =>
    (s.hd.images.look (slotPa e.2.save k)).map fun g => !g.kind).getD false

/-- A drain image is resumed: its chart is loaded again and the image restored at the chart's start; an image of a VF that had
no chart is restored at once (R338). A drained partition runs again when its chart starts, so that a load that fails has changed
nothing (R332). -/
def State.resumeImage (s : State) (p v base k : Nat) (g : SaveImg) (agent : Bool) : State :=
  match g.chart with
  | some img =>
    let s1 := if (s.part p).pstate = 3 then s else s.makeResident p v
    (s1.markRunning p true).beginLoad p v img (some (slotPa base k)) agent
  | none =>
    let s0 := (s.wipePart p (s.startLease v)).makeResident p v
    let s1 := ((s0.restoreDrain p g).freeSlotWord base k).ungate p
    if agent then s1.privDone .ok else s1

/-- VF `v` enters a partition: its image is restored, or the chart that its guest submitted starts (R332, R336, R338,
R348). A partition of more coves than its QCOVE is refused, as is a resize beyond it; R315 names no status for that (log 115). -/
def State.enterVf (s : State) (p v : Nat) : Except PrivStatus State :=
  let base := (s.part p).save
  let slot := if s.isPinned base then s.ownSlot base v else none
  if (s.acct v).exh then .error .quotaExhausted
  else if (s.vf v).state ≠ 1 then .error .stateInvalid
  else if (s.vf v).qcove < (s.partCoves p).length then .error .value
  else
    match slot.bind fun k => (s.hd.images.look (slotPa base k)).map fun g => (k, g) with
    | none =>
      if s.frozenElsewhere p v then .error .stateInvalid
      else
      let s1 := s.makeResident p v
      .ok ((match s1.hd.submitted.look v with
        | some img => s1.after 1 .chartLoad { a := p, b := v, img := img }
        | none => s1).after 1 .ingressTokenDelivery { a := v })
    | some (k, g) =>
      if g.kind then
        if originShape g.rects ≠ originShape (s.part p).origin then .error .stateInvalid else .ok (s.resumeImage p v base k g false)
      else if g.rects ≠ (s.part p).origin then .error .stateInvalid
      else
        let s1 := ((s.wipePart p (s.startLease v)).makeResident p v).restoreFreeze p g false
        .ok (s1.freeSlotWord base k)

/-- PARTITION_ENTER (R332): the VF that the write puts into OCC of entry `ev.a`. -/
def execPartitionEnter (s : State) : Host.Outcome State Fault Refusal :=
  let p := s.ev.a
  let v := (s.newPart p).occ
  .next (s.partCmd p fun t => (t.enterVf p v).map fun u => (u.modAcct v fun a => { a with qdrn := false }).privDone .ok)

/-- PARTITION_SWITCH (R332): the occupant of entry `ev.a` freezes, then the VF that the write names enters. -/
def execPartitionSwitch (s : State) : Host.Outcome State Fault Refusal :=
  let p := s.ev.a
  let v := (s.newPart p).occ
  .next (s.partCmd p fun t =>
    if !t.canSave p (t.part p).occ then .error .notPinned
    else
      match t.enterVf p v with
      | .error e => .error e
      | .ok _ => .ok ((t.startFreeze p (some v) false).markRunning p true))

/-- PARTITION_FREEZE (R332, R334): the occupant of entry `ev.a`. -/
def execPartitionFreeze (s : State) : Host.Outcome State Fault Refusal :=
  let p := s.ev.a
  .next (s.partCmd p fun t =>
    if !t.canSave p (t.part p).occ then .error .notPinned
    else .ok ((t.startFreeze p none false).markRunning p true))

/-- A freeze is given up before anything is saved: the stall lifts. -/
def State.unfreeze (s : State) (p : Nat) (f : Freeze) : State :=
  let s1 := f.cfgq.foldl (fun (a : State) e => e.2.foldl (fun (b : State) c => b.pushCfg e.1 c) a) s
  (s1.liftStall p f.since f.lanes f.agenda).markRunning p false

/-- The save of a slack freeze, once no request is outstanding (R334 steps 2 to 4). -/
def State.saveFrozen (s : State) (p : Nat) (f : Freeze) : State :=
  let v := (s.part p).occ
  let coves := s.partCoves p
  let s1 := (s.tagPend coves v true).clearPools coves
  let s2 := (s1.putImage p v (s.freezeImage p f)).chargeScrub v (coves.length * saveBytes)
  let s3 := (((s2.dropL1 coves).countResident p).wipePart p (s.vf v).lease0).dropChart p
  let s4 := (s3.modVf v fun e => { e with state := 1 }).modPart p fun e => { e with pstate := 1 }
  s4.modHd fun h =>
    { h with freezes := h.freezes.drop p, gated := h.gated.drop p, running := h.running.drop p, drains := h.drains.drop p }

/-- A frozen partition is saved when its requests are done; what was to follow then happens. A switch whose entry could no longer be
made changes nothing (R332), and a drain that no command started completes none (R348). -/
def State.freezeStep (s : State) (p : Nat) : State :=
  let s1 := s.holdEvents p
  match s1.hd.freezes.look p with
  | none => s
  | some f =>
    if s1.outstanding p then s1.after 1 .freezeSave { a := p }
    else
      let s2 := s1.saveFrozen p f
      let quota := ((s1.hd.drains.look p).map fun d => d.quota).getD false
      match f.next with
      | none => if quota then s2 else if f.timeout then s2.privDone .drainTimeout else s2.privDone .ok
      | some v =>
        match s2.enterVf p v with
        | .ok t => (t.modAcct v fun a => { a with qdrn := false }).privDone .ok
        | .error e => (s1.unfreeze p f).privDone e

/-- FREEZE_SAVE (R334): partition `ev.a`. -/
def execFreezeSave (s : State) : Host.Outcome State Fault Refusal := .next (s.freezeStep s.ev.a)

/-! ## Drains (R337, R338, R348, R349) -/

/-- A breakwater drain starts: the sources are gated, and the ebb tree is looked at in every fc (R337). The limit is in units
of 2^16 fc, 0 meaning 2^16. -/
def State.startDrain (s : State) (p limit : Nat) (d : Drain) : State :=
  let due := s.now + 65536 * (if limit = 0 then 65536 else limit)
  let v := (s.part p).occ
  let s1 := (s.countResident p).modHd fun h =>
    { h with drains := h.drains.put p { d with due := due }, gated := h.gated.put p true, running := h.running.put p true }
  let s2 := (s1.modPart p fun e => { e with pstate := 3 }).modVf v fun e => { e with state := 3 }
  (s2.after 1 .drainComplete { a := p }).atFc due .drainTimeout { a := p }

/-- PARTITION_DRAIN (R332, R337): the occupant of entry `ev.a`, with the limit of PDATA0. -/
def execPartitionDrain (s : State) : Host.Outcome State Fault Refusal :=
  let p := s.ev.a
  .next (s.partCmd p fun t =>
    if !t.canSave p (t.part p).occ then .error .notPinned
    else .ok (t.startDrain p (t.hd.win.pdata.toNat % 2 ^ 32) {}))

/-- A partition resumes from its drain image: the chart is loaded again, and the image restored at its start (R338). -/
def State.resumePart (s : State) (p : Nat) (agent : Bool) : Except PrivStatus State :=
  let v := (s.part p).occ
  let base := (s.part p).save
  match (s.ownSlot base v).bind fun k => (s.hd.images.look (slotPa base k)).map fun g => (k, g) with
  | none => .error .stateInvalid
  | some (k, g) =>
    if g.kind ∧ originShape g.rects = originShape (s.part p).origin then .ok (s.resumeImage p v base k g agent)
    else .error .stateInvalid

/-- PARTITION_RESUME (R332, R338, R348): entry `ev.a`. -/
def execPartitionResume (s : State) : Host.Outcome State Fault Refusal :=
  let p := s.ev.a
  .next (s.partCmd p fun t => if (t.acct (t.part p).occ).exh then .error .quotaExhausted else t.resumePart p true)

/-! ## Resize (R339) -/

/-- The coves that stage-2 leaves of a VF map as home-01 pages, below the table at `base` (R305, R339). -/
def State.pinnedPools (s : State) (base : Nat) (ls : List (Nat × Nat)) : List Nat :=
  match ls with
  | [] => []
  | (_, n) :: rest =>
    (List.range (2 ^ n)).flatMap fun i =>
      let x := pinnedXl (base + 8 * i)
      let e := lineField (s.homeData x 128).1 (x.pa % 128) 8
      if !e.testBit 0 then []
      else if e.testBit 1 then
        if e / 256 % 4 = 1 then
          match regionOf (e / 2 ^ 12 % 2 ^ 34 * 2 ^ 14) with
          | .pool c => [c]
          | _ => []
        else []
      else State.pinnedPools s (e % 2 ^ 48 / 128 * 128) rest

/-- The image of a drained partition whose tiles a resize has emptied, with its chart. -/
def State.drainedChart (s : State) (p : Nat) : Option (SaveImg × ChartImage) :=
  if s.cfg.tiles.any fun e => e.2.used && decide (e.2.part = p) then none
  else
    ((s.ownSlot (s.part p).save (s.part p).occ).bind fun k => s.hd.images.look (slotPa (s.part p).save k)).bind fun g =>
      g.chart.map fun i => (g, i)

/-- Where the chart of such a partition will stand: each tile of the chart, its package tile, its berths. -/
def State.drainedTiles (s : State) (p : Nat) (g : SaveImg) (img : ChartImage) : List (Nat × Nat × List BerthRec) :=
  (enumFrom 0 img.patterns).flatMap fun e =>
    (patTiles img e.1).filterMap fun t => (s.placeTile p g.moved t).map fun u => (t, u, e.2.berths)

/-- The tiles among those that hold a stage on a die. -/
def stageTiles (l : List (Nat × Nat × List BerthRec)) (stage die : Nat) : List (Nat × Nat × List BerthRec) :=
  l.filter fun x => decide (dieOfTile x.2.1 = die) && x.2.2.any fun b => decide (b.stage.toNat = stage)

/-- A fixed berth, or every replica of an elastic stage, lies on a removed cove (R339). -/
def State.losesBerth (s : State) (p : Nat) (gone : List Nat) : Bool :=
  let lost (t : Nat) : Bool := gone.contains (coveOfTile t)
  match s.drainedChart p with
  | some (g, img) =>
    let l := s.drainedTiles p g img
    l.any fun x => lost x.2.1 && x.2.2.any fun b =>
      !isElastic img b x.1 || (stageTiles l b.stage.toNat (dieOfTile x.2.1)).all fun y => lost y.2.1
  | none =>
    (s.cfg.tiles.filter fun e => e.2.used && decide (e.2.part = p) && lost e.1).any fun e =>
      e.2.berths.any fun b => (s.replicas e.1 b.1).all lost

/-- A resize is refused (R339). -/
def State.resizeRefused (s : State) (p : Nat) (new : List Nat) : Bool :=
  let old := s.partCoves p
  let gone := old.filter fun c => !new.contains c
  s.losesBerth p gone || (decide (new.length < old.length) &&
    (s.pinnedPools ((s.vf (s.part p).occ).s2root * 2 ^ 13) walkLevels).any fun c => gone.contains c)

/-- The bytes of a cove's pool moved to another's. -/
def State.movePool (s : State) (m : Map Byte) (src dst : Nat) : Map Byte :=
  let l := s.mem.pm.filter fun b => decide (poolAddr src ≤ b.1) && decide (b.1 < poolAddr src + 2 ^ 21)
  l.foldl (fun (a : Map Byte) b => a.set 0 (poolAddr dst + (b.1 - poolAddr src)) b.2) m

/-- TLB entries of a VF are dropped on every M-tile (R308, R339, R340). -/
def State.dropTlb (s : State) (v : Nat) : State :=
  { s with tiles := s.tiles.map fun e =>
      (e.1, { e.2 with mu := { e.2.mu with tlb := e.2.mu.tlb.filter fun x => !decide (x.vf = v) } }) }

/-- The place, in the row-major order of rectangles `n`, of the cove that has the same die and place in its rectangle as the k-th of
rectangles `o`. -/
def sameCove (o n : BitVec 128) (k : Nat) : Option Nat :=
  let rel (r : BitVec 128) (c : Nat) : Nat × Nat × Nat :=
    let x := r.toNat / 2 ^ (16 * (c / 64)) % 65536
    (c / 64, c % 8 - x % 8, c / 8 % 8 - x / 8 % 8)
  let l := originCoves n
  let i := l.findIdx fun c => decide (rel n c = rel o ((originCoves o).getD k 0))
  if i < l.length then some i else none

/-- A drain image after its partition's rectangles became `n`: the k-th old pool is the k-th new one's (R339), and what a tile or a
cove's task unit held goes with the place in the rectangle at which the chart puts it again (log 98). -/
def SaveImg.resized (g : SaveImg) (n : BitVec 128) (moved : Map Nat) : SaveImg :=
  let l := (originCoves n).length
  let at_ (k : Nat) : Option Nat := sameCove g.rects n k
  { g with
    rects := n
    moved := moved
    tiles := g.tiles.foldl (fun (m : Map Tile) e => match at_ (e.1 / 64) with
      | some k => m.put (k * 64 + e.1 % 64) e.2
      | none => m) []
    coves := g.coves.foldl (fun (m : Map Cove) e => match at_ e.1 with
      | some k => m.put k e.2
      | none => m) []
    pools := g.pools.filter fun e => decide (e.1 / 2 ^ 21 < l)
    slots := g.slots.filter fun e => decide (e.1 / 2 ^ 21 < l) }

/-- For each replica of an elastic stage on a removed cove, keyed by its tile of the chart, the first replica that stays: it takes the
place of the other in its distribution set (R339 step 2). A second resize goes on from the places that the first one gave. -/
def State.movedTiles (s : State) (p : Nat) (gone : List Nat) : Map Nat :=
  match s.drainedChart p with
  | some (g, img) =>
    let l := s.drainedTiles p g img
    (img.stages.filter fun r => decide (0 < r.lo) && decide (r.lo < r.hi)).foldl (fun (m : Map Nat) r =>
      let ts := stageTiles l r.stage r.die
      match ts.find? fun x => !gone.contains (coveOfTile x.2.1) with
      | none => m
      | some u => (ts.filter fun x => gone.contains (coveOfTile x.2.1)).foldl (fun (n : Map Nat) x => n.put x.1 u.2.1) m) g.moved
  | none => (s.hd.stages.filter fun e => decide (e.1 / 512 = p)).foldl (fun (m : Map Nat) e =>
    match e.2.tiles.find? fun t => !gone.contains (coveOfTile t) with
    | none => m
    | some u => (e.2.tiles.filter fun t => gone.contains (coveOfTile t)).foldl (fun (n : Map Nat) t => n.put (s.relTile p t) u) m) []

/-- The steps of a resize after its drain (R339 steps 2 to 5). -/
def State.applyResize (s : State) (p : Nat) (o : BitVec 128) : State :=
  let v := (s.part p).occ
  let old := s.partCoves p
  let new := originCoves o
  let gone := old.filter fun c => !new.contains c
  let s1 := ((s.wipePart p (s.vf v).lease0).clearPend old true).dropChart p
  let pm := ((List.range (Nat.min old.length new.length)).map fun k => (old.getD k 0, new.getD k 0)).foldl
    (fun (m : Map Byte) e => s1.movePool m e.1 e.2) (s1.zeroPools (old ++ new)).mem.pm
  let s2 := { s1 with mem := { s1.mem with pm := pm } }.dropTlb v
  let s3 := (s2.mapCoves new { cpart := p, cstate := 1 }).scrub gone v
  let moved := s.movedTiles p gone
  let s4 := match s.ownSlot (s.part p).save v with
    | some k => s3.modHd fun h => { h with
        images := match h.images.look (slotPa (s.part p).save k) with
          | some g => h.images.put (slotPa (s.part p).save k) (g.resized o moved)
          | none => h.images }
    | none => s3
  s4.modPart p fun e => { e with origin := o, pstate := 3 }

/-- PARTITION_RESIZE (R339): entry `ev.a`. -/
def execPartitionResize (s : State) : Host.Outcome State Fault Refusal :=
  let p := s.ev.a
  let o := (s.newPart p).origin
  let new := originCoves o
  .next (s.partCmd p fun t =>
    if new.any fun c => decide ((t.hd.cmap.get {} c).cstate ≠ 0) && !t.inPart p c then .error .value
    else if (t.partCoves p).length < new.length ∧ (t.vf (t.part p).occ).qcove < new.length then .error .value
    else if t.resizeRefused p new then .error .resizeRefused
    else if !t.canSave p (t.part p).occ then .error .notPinned
    else if (t.part p).pstate = 3 then .ok ((t.applyResize p o).privDone .ok)
    else .ok (t.startDrain p (t.hd.win.pdata.toNat % 2 ^ 32) { after := 1, origin := o }))

/-! ## The end of a drain (R337, R338, R348, R349) -/

/-- The partition in which a VF is resident. -/
def State.residentPart (s : State) (v : Nat) : Option Nat :=
  (s.hd.parts.find? fun e => decide (e.2.occ = v) && (decide (e.2.pstate = 2) || decide (e.2.pstate = 3))).map fun e => e.1

/-- A drained partition is saved; a resize, an automatic resume or nothing follows (R338, R339, R349). -/
def State.finishDrain (s : State) (p : Nat) (d : Drain) : State :=
  let v := (s.part p).occ
  let s1 := (s.putImage p v (s.drainImage p)).modHd fun h =>
    { h with drains := h.drains.drop p, running := h.running.drop p }
  if d.after = 1 then (s1.applyResize p d.origin).privDone .ok
  else if !d.quota then s1.privDone .ok
  else if (s1.acct v).qdrn && !(s1.acct v).exh then
    match s1.resumePart p false with
    | .ok t => t.modAcct v fun a => { a with qdrn := false }
    | .error _ => s1
  else s1

/-- The ebb tree of a draining partition in this fc: it reports after 64 empty fc (R337). -/
def State.drainStep (s : State) (p : Nat) : State :=
  match s.hd.drains.look p with
  | none => s
  | some d =>
    if (s.hd.freezes.look p).isSome then s
    else
      let since := if s.ebbEmpty p then some (d.emptySince.getD s.now) else none
      match since with
      | some n =>
        if 63 ≤ s.now - n then s.finishDrain p d
        else (s.modHd fun h => { h with drains := h.drains.put p { d with emptySince := since } }).after 1 .drainComplete { a := p }
      | none =>
        (s.modHd fun h => { h with drains := h.drains.put p { d with emptySince := none } }).after 1 .drainComplete { a := p }

/-- A VF whose quota is exhausted is drained, when no command runs on its partition and a save can be made (R332, R348). -/
def State.quotaDrain (s : State) (v : Nat) : State :=
  match s.residentPart v with
  | none => s
  | some p =>
    if !(s.acct v).exh ∨ (s.part p).pstate ≠ 2 then s
    else if s.hd.running.get false p then s.after 1 .drainComplete { a := v, b := 1 }
    else if !s.canSave p v then s
    else (s.startDrain p 0 { quota := true }).modAcct v fun a => { a with qdrn := true }

/-- DRAIN_COMPLETE (R337, R338): partition `ev.a` is looked at; with `ev.b` = 1, the drain of VF `ev.a` that had to wait for a
command starts (R348). -/
def execDrainComplete (s : State) : Host.Outcome State Fault Refusal :=
  .next (if s.ev.b = 1 then s.quotaDrain s.ev.a else s.drainStep s.ev.a)

/-- A drain past its limit becomes a slack freeze (R337). -/
def State.drainOver (s : State) (p : Nat) : State :=
  match s.hd.drains.look p with
  | none => s
  | some d =>
    if d.due ≠ s.now ∨ (s.hd.freezes.look p).isSome then s
    else s.startFreeze p none true

/-- DRAIN_TIMEOUT (R337): partition `ev.a`. -/
def execDrainTimeout (s : State) : Host.Outcome State Fault Refusal := .next (s.drainOver s.ev.a)

/-- EXH of a VF has cleared: a drained partition resumes (R349). -/
def State.quotaCleared (s : State) (v : Nat) : State :=
  match s.residentPart v with
  | none => s
  | some p =>
    if (s.acct v).qdrn && (s.hd.drains.look p).isNone && !s.hd.running.get false p then
      match s.resumePart p false with
      | .ok t => t.modAcct v fun a => { a with qdrn := false }
      | .error _ => s
    else s

/-! ## VF reset (R205, R340) -/

/-- A line in L2 was filled or written under key `v` (R205). -/
def L2Line.isUnder (e : L2Line) (v : Nat) : Bool := decide (e.key = v) || e.under.contains v

/-- The cache lines filled or written under a key are dropped without write-back, and the key is replaced (R205). -/
def State.resetKey (s : State) (v : Nat) : State :=
  let s1 : State := { s with tiles := s.tiles.map fun e =>
      (e.1, { e.2 with
        mu := { e.2.mu with l1 := e.2.mu.l1.filter fun x => !decide (x.key = v) }
        gcache := e.2.gcache.filter fun x => !decide (x.key = v) }) }
  let l := s1.mem.l2.flatMap fun e => (e.2.filter fun x => x.isUnder v).map fun x => (e.1, x.line)
  let s2 := l.foldl (fun (a : State) e => a.l2Drop e.1 e.2 false) s1
  s2.modHd fun h => { h with keyEpoch := h.keyEpoch.set 0 v (h.keyEpoch.get 0 v + 1) }

/-- The images of a VF are cleared in every save area that is marked pinned (R340 step 5). -/
def State.clearImages (s : State) (v : Nat) : State :=
  s.hd.parts.foldl (fun (a : State) e =>
    if a.isPinned e.2.save then
      match a.ownSlot e.2.save v with
      | some k => a.freeSlotWord e.2.save k
      | none => a
    else a) s

/-- The steps of a VF reset (R340). A vector that is pending behind its mask has the old GEN, and its message is never sent (R273,
R367). -/
def State.resetVf (s : State) (v : Nat) : State :=
  let s0 := s.modVf v fun e => { e with state := 4 }
  let (s1, coves) := match s0.residentPart v with
    | none => (s0, [])
    | some p =>
      let a := ((s0.countResident p).emptyPart p (s0.vf v).lease0 true).dropChart p
      let a := (s0.partTiles p).foldl (fun (b : State) t => b.modTile t (zeroX t)) a
      (a.modHd fun h => { h with gated := h.gated.drop p, loads := h.loads.drop p, freezes := h.freezes.drop p }, s0.partCoves p)
  let s2 := s1.resetKey v
  let s3 := ((s2.zeroPools coves).dropL1 coves).chargeScrub v (coves.length * scrubBytes)
  let s4 := ((s3.clearImages v).dropTlb v).zeroExec v
  let s5 := (s4.modVf v fun e => { e with gen := e.gen + 1, state := 1 }).modBar v fun b => { b with pba := 0, pending := [] }
  match s0.residentPart v with
  | some p => s5.modPart p fun e => { e with pstate := 1 }
  | none => s5

/-- A VF reset waits for a command that runs on the VF's partition (R332). -/
def State.tryReset (s : State) (v : Nat) (i : Instr) (e : EvArg) (priv : Bool) : State :=
  let busy := match s.residentPart v with
    | some p => s.hd.running.get false p
    | none => false
  if busy then s.after 1 i e
  else if priv then (s.resetVf v).privDone .ok
  else s.resetVf v

/-- VF_RESET (R317, R340): PCMD 3 on the key-control table, for the VF of PDATA0. A number that names no VF is another use of the table,
and PRIV_READ_ONLY the first of the two statuses that R317 gives such a use (log 98). -/
def execVfReset (s : State) : Host.Outcome State Fault Refusal :=
  let v := s.hd.win.pdata.toNat % 256
  if 128 ≤ v then .next (s.privDone .readOnly) else .next (s.tryReset v .vfReset s.ev true)

/-- VF_FLR (R365): a function-level reset of VF `ev.a`. A VF that is not enabled is absent and takes none. -/
def execVfFlr (s : State) : Host.Outcome State Fault Refusal :=
  .next (if s.hd.vfOn ≤ s.ev.a then s else s.tryReset s.ev.a .vfFlr s.ev false)

end Sys2Proof.Machine
end

