-- ==== Sys2Proof/Machine/Tables.lean ====
section
/-! DEFINITION. The harbour tables behind the privileged window (R314 to R318, R345, R346, R386, R387), and TLB invalidation
(R308). Operands: `ev.a` is the entry of PIDX. -/

namespace Sys2Proof.Machine

/-- The window answers a read: PDATA takes a 128-bit unit (R314). -/
def State.privRead (s : State) (x : Nat) : State :=
  (s.modHd fun h => { h with win := { h.win with pdata := BitVec.ofNat 128 x } }).privDone .ok

/-- Unit `u` of a word of 128-bit units. -/
def unitOf (word u : Nat) : Nat := word / 2 ^ (128 * u) % 2 ^ 128

/-! ## The VF table (R315, R345, R346, R387) -/

/-- The configuration fields of a VF-table entry as 512 bits (R315). -/
def VfEnt.word (e : VfEnt) : Nat :=
  e.state + e.gen.toNat * 2 ^ 3 + e.part * 2 ^ 7 + e.s1root * 2 ^ 13 + e.s2root * 2 ^ 48 + e.tbase * 2 ^ 83
    + e.tcount * 2 ^ 135 + e.egbase * 2 ^ 152 + e.egk * 2 ^ 200 + e.wqbase * 2 ^ 204 + e.lease0 * 2 ^ 252
    + e.wm.toNat * 2 ^ 263 + e.sl * 2 ^ 279 + e.qcove * 2 ^ 290 + e.qtask * 2 ^ 299 + e.qcnt * 2 ^ 309 + e.qbte * 2 ^ 319

/-- A VF-table entry from its configuration fields. -/
def vfOfWord (n : Nat) : VfEnt :=
  let f (lo w : Nat) : Nat := n / 2 ^ lo % 2 ^ w
  { state := f 0 3, gen := BitVec.ofNat 4 (f 3 4), part := f 7 6, s1root := f 13 35, s2root := f 48 35, tbase := f 83 52
    tcount := f 135 17, egbase := f 152 48, egk := f 200 4, wqbase := f 204 48, lease0 := f 252 11
    wm := BitVec.ofNat 16 (f 263 16), sl := f 279 11, qcove := f 290 9, qtask := f 299 10, qcnt := f 309 10, qbte := f 319 8 }

/-- An account as the 512 bits of units 8 to 11; GRANT reads 0 (R345). -/
def Acct.word (a : Acct) : Nat :=
  a.cons.toNat + a.bal.toNat * 2 ^ 64 + a.frac * 2 ^ 128 + (if a.exh then 2 ^ 132 else 0) + (if a.qdrn then 2 ^ 133 else 0)
    + a.drop * 2 ^ 256 + a.mapb1.toNat * 2 ^ 288 + a.mapb2.toNat * 2 ^ 320

/-- PRIV_VF_READ (R314, R315, R345). -/
def execPrivVfRead (s : State) : Host.Outcome State Fault Refusal :=
  let v := s.ev.a
  let u := s.hd.win.unit
  .next (if 128 ≤ v then s.privDone .index
    else if u < 4 then s.privRead (unitOf (s.vf v).word u)
    else if 8 ≤ u ∧ u < 12 then s.privRead (unitOf (s.acct v).word (u - 8))
    else s.privDone .index)

/-- A field that R315 lets change only while the VF is not resident differs. -/
def fixedChange (old new : VfEnt) : Bool :=
  decide (old.part ≠ new.part) || decide (old.s1root ≠ new.s1root) || decide (old.s2root ≠ new.s2root)
    || decide (old.egbase ≠ new.egbase) || decide (old.egk ≠ new.egk) || decide (old.wqbase ≠ new.wqbase)

/-- A reserved value in the data of a VF write (R315, R387). -/
def badVfValue (old new : VfEnt) (word : Nat) : Bool :=
  decide (new.gen ≠ old.gen) || (decide (new.state ≠ old.state) && decide (new.state ≠ 1)) || decide (word / 2 ^ 327 ≠ 0)
    || decide (65536 < new.tcount) || decide (10 < new.egk) || decide (1024 < new.sl)
    || decide (new.tbase % 128 ≠ 0) || decide (new.egbase % 64 ≠ 0)

/-- The rings that a write of VF `v`'s entry installs get an empty header (R270; log 111). -/
def State.installRings (s : State) (v : Nat) (old new : VfEnt) : State :=
  let s1 := if new.egbase ≠ old.egbase ∨ new.egk ≠ old.egk then s.ringInit v new.egbase else s
  if new.wqbase ≠ old.wqbase then s1.ringInit v new.wqbase else s1

/-- PRIV_VF_WRITE (R315, R345, R346, R387). Fills take a new WM from the next fc on (R199). -/
def execPrivVfWrite (s : State) : Host.Outcome State Fault Refusal :=
  let v := s.ev.a
  let u := s.hd.win.unit
  let old := s.vf v
  let word := setUnit old.word u s.hd.win.pdata
  let new := { vfOfWord word with
    wmOld := if old.wmFc = some s.now ∨ (vfOfWord word).wm = old.wm then old.wmOld else old.wm
    wmFc := if (vfOfWord word).wm = old.wm then old.wmFc else some s.now }
  .next (if 128 ≤ v then s.privDone .index
    else if u = 8 ∨ u = 11 then s.privDone .readOnly
    else if 4 ≤ u then s.privDone .index
    else if badVfValue old new word then s.privDone .value
    else if old.state = 2 && fixedChange old new then s.privDone .inUse
    else ((s.modVf v fun _ => new).installRings v old new).privDone .ok)

/-- A grant changes BAL; EXH follows its sign (R346, R348, R349). -/
def State.grant (s : State) (v : Nat) (g : BitVec 64) : State :=
  let old := (s.acct v).bal
  let bal := old + g
  let neg := bal.msb && !old.msb
  let pos := decide (0 < bal.toInt) && (s.acct v).exh
  let s1 := s.modAcct v fun a =>
    { a with bal := bal, postBal := bal, exh := if neg then true else if pos then false else a.exh }
  if neg then s1.quotaDrain v else if pos then s1.quotaCleared v else s1

/-- PRIV_GRANT_WRITE (R346): GRANT is the upper half of unit 9. A roll-up in the same fc goes first. -/
def execPrivGrantWrite (s : State) : Host.Outcome State Fault Refusal :=
  if 128 ≤ s.ev.a then .next (s.privDone .index)
  else if s.agenda.any fun e => decide (e.1 ≤ s.now) && decide (e.2.1 = .rollup) then .next (s.after 0 .privGrantWrite s.ev)
  else .next ((s.grant s.ev.a (s.hd.win.pdata.extractLsb' 64 64)).privDone .ok)

/-- PRIV_MAPB_WRITE (R346): MAPB1 and MAPB2 of unit 10. -/
def execPrivMapbWrite (s : State) : Host.Outcome State Fault Refusal :=
  let d := s.hd.win.pdata
  if 128 ≤ s.ev.a then .next (s.privDone .index)
  else .next ((s.modAcct s.ev.a fun a => { a with mapb1 := d.extractLsb' 32 32, mapb2 := d.extractLsb' 64 32 }).privDone .ok)

/-! ## Partition table, cove map, keys, costs (R316 to R318, R345) -/

/-- PRIV_PARTITION_READ (R316). -/
def execPrivPartitionRead (s : State) : Host.Outcome State Fault Refusal :=
  .next (if 64 ≤ s.ev.a ∨ 2 ≤ s.hd.win.unit then s.privDone .index
    else s.privRead (unitOf (s.part s.ev.a).word s.hd.win.unit))

/-- PRIV_COVE_MAP_READ (R316). -/
def execPrivCoveMapRead (s : State) : Host.Outcome State Fault Refusal :=
  let e := s.hd.cmap.get {} s.ev.a
  .next (if 512 ≤ s.ev.a ∨ s.hd.win.unit ≠ 0 then s.privDone .index else s.privRead (e.cpart + e.cstate * 64))

/-- PRIV_KEY_QUERY (R317): whether the key of the entry is present. -/
def execPrivKeyQuery (s : State) : Host.Outcome State Fault Refusal :=
  .next (if 128 < s.ev.a then s.privDone .index else s.privRead 1)

/-- The energy cost table of die `d` (8: HD) as 16 units (R318). -/
def State.costWord (s : State) (d : Nat) : Nat :=
  (List.range 64).foldr (fun c a => s.cost d c % 2 ^ 20 + 2 ^ 32 * a) 0

/-- PRIV_COST_READ (R314, R318, R345): entries 0 to 8 are the cost tables, entry 9 the house account. -/
def execPrivCostRead (s : State) : Host.Outcome State Fault Refusal :=
  let u := s.hd.win.unit
  .next (if s.ev.a < 9 ∧ u < 16 then s.privRead (unitOf (s.costWord s.ev.a) u)
    else if s.ev.a = 9 ∧ u < 4 then s.privRead (unitOf (s.acct 128).word u)
    else s.privDone .index)

/-! ## Tide tables (R275, R314, R386) -/

/-- The number names a shared unit (R314). -/
def isUnit (u : Nat) : Bool := decide (u < 306) || (decide (4096 ≤ u) && decide (u < 4096 + 6144))

/-- PRIV_TIDE_READ (R314): eight slots of a unit's table as it stands. -/
def execPrivTideRead (s : State) : Host.Outcome State Fault Refusal :=
  let u := s.hd.win.unit
  let x := (List.range 8).foldr (fun j a => (s.tideEntry s.ev.a (8 * u + j)).toNat + 2 ^ 16 * a) 0
  .next (if isUnit s.ev.a then s.privRead x else s.privDone .index)

/-- Eight slots of a shadow table written. -/
def State.putShadow (s : State) (unit u : Nat) : Map (BitVec 16) :=
  (List.range 8).foldl (fun (m : Map (BitVec 16)) j =>
    m.set 0 (unit * 256 + 8 * u + j) (s.hd.win.pdata.extractLsb' (16 * j) 16)) s.hd.shadow

/-- A table has the house slots that R275 asks for. -/
def houseOk (unit : Nat) (m : Map (BitVec 16)) : Bool :=
  let n := ((List.range 256).filter fun c => !(m.get 0 (unit * 256 + c)).getLsbD 7).length
  decide ((if unit < 224 then 16 else 8) ≤ n)

/-- PRIV_TIDE_WRITE (R275, R386): a shadow takes effect when its unit 31 is written. -/
def execPrivTideWrite (s : State) : Host.Outcome State Fault Refusal :=
  let unit := s.ev.a
  let u := s.hd.win.unit
  let m := s.putShadow unit u
  .next (if !isUnit unit then s.privDone .index
    else if u < 31 then (s.modHd fun h => { h with shadow := m }).privDone .ok
    else if !houseOk unit m then s.privDone .noHouse
    else (s.modHd fun h =>
      { h with
        shadow := m
        tideNew := if h.tideNew.contains unit then h.tideNew else h.tideNew ++ [unit]
        tideNext := (List.range 256).foldl (fun n c => n.set 0 (unit * 256 + c) (m.get 0 (unit * 256 + c))) h.tideNext }).privDone .ok)

/-! ## TLB invalidation (R308, R366) -/

/-- What an invalidation covers: stage 1 or 2, one page's address or everything. -/
structure InvalOf where
  vf : Nat := 0
  two : Bool := false
  all : Bool := false
  addr : Nat := 0
  deriving DecidableEq, Repr

/-- The invalidation covers a TLB entry. -/
def InvalOf.hits (i : InvalOf) (e : TlbEnt) : Bool :=
  decide (e.vf = i.vf) && (i.all ||
    (if i.two then decide (e.ipa / 2 ^ e.ipaBits = i.addr / 2 ^ e.ipaBits) else decide (e.va / 2 ^ e.bits = i.addr / 2 ^ e.bits)))

/-- The accesses that used an entry which the invalidation drops, and have no reply yet: their slot and how many line
operations are left to them. -/
def State.invalWaits (s : State) (i : InvalOf) (coves : List Nat) : List (Nat × Nat) :=
  (s.firingsOf (coves.flatMap fun c => upFrom (c * 64) 64)).filterMap fun e =>
    match e.2.2.job with
    | none => none
    | some j =>
      let m := xlatTile e.1
      let va := (j.ops.headD {}).va
      let used := j.xl.isSome && (s.tileAt m).mu.tlb.any fun x => i.hits x && x.hits i.vf x.gen va
      if used ∧ e.2.2.cx.toNat = i.vf then some (slotId e.1 e.2.1, j.ops.length) else none

/-- An invalidation is accepted: entries drop on every M-tile of the VF's partition, and walks in flight install nothing
(R308). -/
def State.invalidate (s : State) (i : InvalOf) (host : Option Nat) : State :=
  let coves := s.partCoves (s.vf i.vf).part
  let w := s.invalWaits i coves
  let s1 := coves.foldl (fun (a : State) c => (List.range 6).foldl (fun (b : State) n =>
    b.modMu (chanTile c n) fun u =>
      { u with
        tlb := u.tlb.filter fun x => !i.hits x
        walks := u.walks.map fun k => if k.vf = i.vf then { k with stale := true } else k }) a) s
  let (id, s2) := s1.fresh
  (s2.modHd fun h => { h with invals := h.invals.put id { host := host, waits := w } }).after 1 .invalidationComplete { a := id }

/-- An access still waits for its reply. -/
def State.stillWaits (s : State) (w : Nat × Nat) : Bool :=
  match s.firing (w.1 / 8) (w.1 % 8) with
  | none => false
  | some f =>
    match f.job with
    | none => false
    | some j => decide (j.ops.length = w.2) && decide (j.stage ≠ .start) && decide (j.stage ≠ .walk)

/-- An invalidation completes when nothing waits any more: TLBBUSY clears, or the agent's command is done (R308, R366). -/
def State.endInval (s : State) (id : Nat) : State :=
  match s.hd.invals.look id with
  | none => s
  | some i =>
    let w := i.waits.filter s.stillWaits
    if !w.isEmpty then
      (s.modHd fun h => { h with invals := h.invals.put id { i with waits := w } }).after 1 .invalidationComplete { a := id }
    else
      let s1 := s.modHd fun h => { h with invals := h.invals.drop id }
      match i.host with
      | some v => s1.modBar v fun b => { b with tlbbusy := false }
      | none => s1.privDone .ok

/-- INVALIDATION_COMPLETE (R308): invalidation `ev.a`. -/
def execInvalidationComplete (s : State) : Host.Outcome State Fault Refusal := .next (s.endInval s.ev.a)

/-- PRIV_INVALIDATE (R308, R314): the VF is the entry of PIDX. The manual does not lay out PDATA: the model takes the stage − 1
in bit 0, "everything" in bit 1, and the address in the upper 64 bits (log 15). -/
def execPrivInvalidate (s : State) : Host.Outcome State Fault Refusal :=
  let d := s.hd.win.pdata
  let i : InvalOf := { vf := s.ev.a, two := d.getLsbD 0, all := d.getLsbD 1, addr := (d.extractLsb' 64 64).toNat }
  if 128 ≤ s.ev.a then .next (s.privDone .index) else .next (s.invalidate i none)

/-- A stage-1 invalidation that a host write of `w` to offset 0x4018 of VF `v` started, for the TLBVA of that write, is taken once every
earlier host write of the VF has reached its home (R214, R366). -/
def State.takeInval (s : State) (v w va : Nat) : State :=
  if s.agenda.any fun e => decide (e.2.1 = .hostWrite) && decide (e.2.2.a = v) then
    s.after 1 .hostTlbInvalidate { a := v, b := w, c := 1, l := [va] }
  else s.invalidate { vf := v, all := w.testBit 0, addr := va % 2 ^ 52 / 2 ^ 14 * 2 ^ 14 } (some v)

/-- HOST_TLB_INVALIDATE (R308, R366): a write of `ev.b` to offset 0x4018 of VF `ev.a`: TLBBUSY is 1 from now on, and TLBVA stands as it
is. One while TLBBUSY is 1 is ignored and counted. `ev.c` = 1 tells one that has waited, with its TLBVA in `ev.l`. -/
def execHostTlbInvalidate (s : State) : Host.Outcome State Fault Refusal :=
  let v := s.ev.a
  let b := s.hd.bars.get {} v
  if s.hd.vfOn ≤ v then .next s
  else if s.ev.c = 1 then .next (s.takeInval v s.ev.b (s.ev.l.headD 0))
  else if b.tlbbusy then .next (s.countDrop v 1)
  else .next ((s.modBar v fun x => { x with tlball := s.ev.b.testBit 0, tlbbusy := true }).takeInval v s.ev.b b.tlbva)

end Sys2Proof.Machine
end

