-- ==== Sys2Proof/Machine/Energy.lean ====
section
/-! DEFINITION. Roll-ups and their tokens (R343, R344, R347, R385), the energy cost table (R318), the power governor (R351)
and the thermal limits (R373). -/

namespace Sys2Proof.Machine

/-! ## Meters (R343, R344) -/

/-- Two lists of amounts added. -/
def addMap (m n : Map Nat) : Map Nat := n.foldl (fun (a : Map Nat) e => a.set 0 e.1 (a.get 0 e.1 + e.2)) m

/-- What every meter and roll-up unit holds for each party of the interval. -/
def State.meterTotals (s : State) : Map Nat :=
  let t := s.tiles.foldl (fun a e => addMap a e.2.meter) []
  let c := s.coves.foldl (fun a e => addMap a e.2.flushed) t
  s.hd.umeter.foldl (fun a e => addMap a e.2) c

/-- Every meter emptied. -/
def State.emptyMeters (s : State) : State :=
  { s with
    tiles := mapVal (fun x => { x with meter := [] }) s.tiles
    coves := mapVal (fun c => { c with flushed := [] }) s.coves
    hd := { s.hd with umeter := [] } }

/-! ## Shared pools (R347) -/

/-- The whole weight of a pool. -/
def weightSum (ws : Map Nat) : Nat := ws.foldl (fun a e => a + e.2) 0

/-- How many parties come before party `e` when the units left over are given out: a larger remainder, then a lower index. -/
def before (p w : Nat) (ws : Map Nat) (e : Nat × Nat) : Nat :=
  (ws.filter fun f => decide (p * e.2 % w < p * f.2 % w) || (decide (p * f.2 % w = p * e.2 % w) && decide (f.1 < e.1))).length

/-- How a pool of `p` is split by weights (R347). -/
def poolShares (p : Nat) (ws : Map Nat) : Map Nat :=
  let w := weightSum ws
  if w = 0 then [(128, p)]
  else
    let left := p - ws.foldl (fun a e => a + p * e.2 / w) 0
    ws.map fun e => (e.1, p * e.2 / w + if before p w ws e < left then 1 else 0)

/-- The VFs' weights with what is left of `cap` as the weight of the house. -/
def withHouse (cap : Nat) (ws : Map Nat) : Map Nat := ws ++ [(128, cap - weightSum ws)]

/-- The weights by mapped bytes. -/
def State.mapWeights (s : State) (f : Acct → W32) : Map Nat :=
  (s.hd.accts.filter fun e => decide (e.1 < 128)).map fun e => (e.1, (f e.2).toNat)

/-- The lines that each VF holds in the slices of a die. -/
def State.occWeights (s : State) (d : Nat) : Map Nat :=
  (s.mem.occ.filter fun e => decide (e.1 / 129 / 768 = d) && decide (e.1 % 129 < 128)).foldl (fun (m : Map Nat) e =>
    addMap m [(e.1 % 129, e.2)]) []

/-- The fc for which each VF was resident in a cove's partition. -/
def State.coveWeights (s : State) (c : Nat) : Map Nat :=
  (s.hd.resident.filter fun e => decide (e.1 / 129 = c)).map fun e => (e.1 % 129, e.2)

/-- The VFs that sent traffic in a direction of a link. -/
def State.linkWeights (s : State) (l : Nat) : Map Nat :=
  let ws := (s.hd.linkUsed.filter fun e => decide (e.1 / 129 = l) && e.2).map fun e => (e.1 % 129, 1)
  if ws = [] then [(128, 1)] else ws

/-- The directions of the package's links (R9, R370): die edges, harbour links, Oroti ports, the CXL port. -/
def linkDirs : List Nat := upFrom 0 48 ++ upFrom 64 18

/-- The pools of an interval, each split (R347). The numbers of the pool kinds are the model's. -/
def State.poolTotals (s : State) (n : Nat) : Map Nat :=
  let amt := Config.poolAmount n
  let l := [(amt 0 0, withHouse 11718750 (s.mapWeights fun a => a.mapb1)),
            (amt 1 0, withHouse 187500000 (s.mapWeights fun a => a.mapb2))]
    ++ (List.range 8).map (fun d => (amt 2 d, withHouse 786432 (s.occWeights d)))
    ++ (List.range 512).map (fun c => (amt 3 c, withHouse 65536 (s.coveWeights c)))
    ++ linkDirs.map (fun d => (amt 4 d, s.linkWeights d))
    ++ (List.range 3).map (fun k => (amt 5 k, [(128, 1)]))
  l.foldl (fun a e => addMap a (poolShares e.1 e.2)) []

/-- The fc for which VFs are resident are counted up to this boundary, where a new interval begins. -/
def State.countAll (s : State) : State :=
  let l := s.hd.entered.map fun e => e.1
  let s1 := l.foldl (fun (a : State) p => a.countResident p) s
  s1.modHd fun h => { h with entered := l.foldl (fun (m : Map Nat) p => m.put p s.now) h.entered }

/-! ## The roll-up (R344) -/

/-- An account after the roll-up of `units` (R344). -/
def rollAcct (v units : Nat) (a : Acct) : Acct :=
  let x := a.frac + units
  let cons := a.cons + BitVec.ofNat 64 (x / 16)
  let bal := if v < 128 then a.bal - BitVec.ofNat 64 (x / 16) else a.bal
  { a with
    cons := cons, frac := x % 16, bal := bal, postCons := cons, postBal := bal, rollBal := bal
    exh := a.exh || (decide (v < 128) && !a.bal.msb && bal.msb) }

/-- A party's account is rolled up; a VF whose balance goes below 0 is drained (R344, R348). -/
def State.rollParty (s : State) (v units : Nat) : State :=
  let s1 := s.modAcct v (rollAcct v units)
  if (s1.acct v).exh && !(s.acct v).exh then s1.quotaDrain v else s1

/-- A rewritten cost table takes effect (R318). -/
def State.applyCosts (s : State) : State :=
  s.modHd fun h =>
    { h with
      costsNew := []
      costs := h.costsNew.foldl (fun (m : Map Nat) t =>
        (enumFrom 0 (t.2.take 64)).foldl (fun (a : Map Nat) e =>
          if e.1 = 0 then a else a.put (t.1 * 64 + e.1) (e.2 % 2 ^ 20)) m) h.costs }

/-- The channel on which the agent's chart takes roll-up tokens (R385). -/
def State.rollupChan (s : State) : Option Nat :=
  (s.cfg.chans.find? fun e => decide (e.2.part = agentPart) && decide (e.2.src = .rollup)).map fun e => e.1

/-- A roll-up token joins its queue; one more than 16 is dropped (R385). -/
def State.queueRollup (s : State) : State :=
  match s.rollupChan with
  | none => s
  | some _ =>
    let n := s.hd.rolls + 1
    (s.modHd fun h => { h with rolls := n, rollq := if h.rollq.length < 16 then h.rollq ++ [n] else h.rollq }).after 1
      .rollupTokenSend {}

/-- A roll-up: meters are read and emptied, pools split, accounts changed, and the agent's chart told (R344, R347, R385). -/
def State.rollUp (s : State) : State :=
  let s1 := s.countAll
  let units := addMap s1.meterTotals (s1.poolTotals (s.now / 65536))
  let s2 := (s1.emptyMeters.modHd fun h => { h with resident := [], linkUsed := [] }).applyCosts
  (units.foldl (fun (a : State) e => a.rollParty e.1 e.2) s2).queueRollup

/-- ROLLUP (R344). -/
def execRollup (s : State) : Host.Outcome State Fault Refusal := .next s.rollUp

/-- The oldest roll-up token leaves when its channel has a free credit (R385). -/
def State.sendRollup (s : State) : State :=
  match s.hd.rollq, s.rollupChan with
  | n :: rest, some ch =>
    if s.credits ch 0 0 = 0 then s
    else
      let tok : Token :=
        { cls := match s.chan ch with
            | some c => c.cls
            | none => 0
          nflit := 1, pay := BitVec.ofNat 512 (n % 2 ^ 32) }
      let s1 := s.modHd fun h => { h with rollq := rest }
      let s2 := (s1.takeCredits ch 0 0 1).sendToken 0 ch 0 tok
      if rest.isEmpty then s2 else s2.after 1 .rollupTokenSend {}
  | _, _ => s

/-- ROLLUP_TOKEN_SEND (R385). -/
def execRollupTokenSend (s : State) : Host.Outcome State Fault Refusal := .next s.sendRollup

/-- COST_TABLE_REWRITE (R318): the 64 costs `ev.l` for die `ev.a` (8: HD), used from the next roll-up boundary on. -/
def execCostTableRewrite (s : State) : Host.Outcome State Fault Refusal :=
  .next (s.modHd fun h => { h with costsNew := h.costsNew ++ [(s.ev.a, s.ev.l)] })

/-! ## The governor and the thermal limits (R351, R373) -/

/-- A governor at the end of a window (R351). -/
def Gov.window (g : Gov) : Gov :=
  { g with
    energy := 0
    k := if g.cap < (27 * g.energy : Nat) then Nat.max 8 (g.k - 1)
      else if ((270 * g.energy : Nat) : Int) < 9 * g.cap then Nat.min 16 (g.k + 1) else g.k }

/-- `s` with the governor of a die changed. -/
def State.modGov (s : State) (d : Nat) (f : Gov → Gov) : State :=
  s.modHd fun h => { h with gov := h.gov.set {} d (f (h.gov.get {} d)) }

/-- GOVERNOR_WINDOW (R351): die `ev.a`. -/
def execGovernorWindow (s : State) : Host.Outcome State Fault Refusal := .next (s.modGov s.ev.a Gov.window)

/-- The management core lowers a die's cap by 10 W (R373). -/
def Gov.lower (g : Gov) : Gov := { g with cap := g.cap - 117964800000 }

/-- THERMAL_LIMIT (R373): the junction of die `ev.a` goes above 95 °C, or with `ev.b` = 1 is at 95 °C or below again, which
ends the steps of its cap. -/
def execThermalLimit (s : State) : Host.Outcome State Fault Refusal :=
  let d := s.ev.a
  if s.ev.b = 1 then
    .next ({ s with agenda := s.agenda.filter fun e => !(decide (e.2.1 = Instr.thermalCapStep) && decide (e.2.2.a = d)) }.modHd
      fun h => { h with hot := h.hot.drop d })
  else if s.hd.hot.get false d then .next s
  else
    .next (((s.modGov d Gov.lower).modHd fun h => { h with hot := h.hot.put d true, out := h.out ++ [.pfVector 2] }).after 65536
      .thermalCapStep { a := d })

/-- THERMAL_CAP_STEP (R373): die `ev.a`, while it is above 95 °C. -/
def execThermalCapStep (s : State) : Host.Outcome State Fault Refusal :=
  let d := s.ev.a
  if s.hd.hot.get false d then .next ((s.modGov d Gov.lower).after 65536 .thermalCapStep { a := d }) else .next s

/-- THERMAL_SHUTDOWN (R373): every die is held in reset until a device reset. -/
def execThermalShutdown (s : State) : Host.Outcome State Fault Refusal :=
  .next (s.modHd fun h => { h with frozenAll := true, vfOn := 0, cxlOn := false })

end Sys2Proof.Machine
end

