-- ==== Sys2Proof/Machine/HostSide.lean ====
section
/-! DEFINITION. What the host does: memory accesses and snoops (R214, R215), doorbells (R274), the registers of BAR0
(R365 to R367), PF0's commands with RESYNC and firmware (R368, R369, R371), SPDM (R372), link training (R364), and the
device reset (R374, R384). -/

namespace Sys2Proof.Machine

/-- CXL.cache and CXL.mem answer: they are enabled, and the dies run (R371, R373, R374). -/
def State.hostUp (s : State) : Bool := s.hd.cxlOn && !s.hd.frozenAll

/-- `s` with something that the host sees. -/
def State.emit (s : State) (o : HostOut) : State := s.modHd fun h => { h with out := h.out ++ [o] }

/-! ## Accesses to memory (R194 to R196, R204, R214) -/

/-- The lines of memory from `base` on, `n` bytes, of which a byte has been written. -/
def State.writtenLines (s : State) (base n : Nat) : List Nat :=
  let inside (l : Nat) : Bool := decide (base / 128 ≤ l) && decide (l * 128 < base + n)
  let ls : List Nat := (s.mem.pm.map fun (e : Nat × Byte) => e.1 / 128) ++ s.mem.skey.map fun (e : Nat × Nat) => e.1 / 4
  (ls.filter inside).eraseDups

/-- The stage-2 leaf below the table at `base` whose page holds `pa`, with its output at `pa` (R195, R305, R306). -/
def State.leafBelow (s : State) (ls : List (Nat × Nat)) (base pa : Nat) : Option Leaf :=
  match ls with
  | [] => none
  | (lo, n) :: rest =>
    (s.writtenLines base (8 * 2 ^ n)).findSome? fun l =>
      let x := pinnedXl (l * 128)
      let d := (s.homeData x 128).1
      (List.range 16).findSome? fun i =>
        let e := lineField d (8 * i) 8
        if !e.testBit 0 then none
        else if e.testBit 1 then
          let lf := leafOf x e lo pa
          if lf.out = pa ∧ lf.home ≠ 1 ∧ !badLeaf e lo true then some lf else none
        else s.leafBelow rest (e % 2 ^ 48 / 128 * 128) pa

/-- The stage-2 leaf of the page of `pa`: of VF `v`, or of any other VF that maps the page. All of them name one home (R195). -/
def State.pageLeaf (s : State) (v pa : Nat) : Option Leaf :=
  ((v :: s.hd.vfs.map fun e => e.1).filter fun n => decide ((s.vf n).s2root ≠ 0)).findSome? fun n =>
    s.leafBelow walkLevels ((s.vf n).s2root * 2 ^ 13) pa

/-- Where a host access of VF `v` to device memory is served (R195, R196, R204): the pool of a pool line; elsewhere the home of the
page, under the hypervisor key. A page that no stage-2 table maps is served at its hashed slice (log 17). -/
def State.hostXl (s : State) (v pa : Nat) : Option Xl :=
  match regionOf pa with
  | .pool _ => some { pa := pa, home := 1, key := 128 }
  | .tier1 _ | .tier2 =>
    match s.pageLeaf v pa with
    | some l => some { l.xl with key := 128 }
    | none => some { pa := pa, slice := homeSlice pa none, key := 128 }
  | _ => none

/-- The address is one of host memory. -/
def isHost (pa : Nat) : Bool := decide (regionOf pa = .host)

/-- HCK of a VF (R214). -/
def State.hck (s : State) (v : Nat) : Nat := s.hd.hck.get 0 v

/-- HCK rises to `t` (R214). -/
def State.raiseHck (s : State) (v t : Nat) : State :=
  s.modHd fun h => { h with hck := h.hck.set 0 v (Nat.max (h.hck.get 0 v) t) }

/-- The L2 slices that hold a host line: that of its hash, or one that its page names (R195, R215). -/
def State.hostSlices (s : State) (pa : Nat) : List Nat :=
  (s.mem.l2.filter fun e => e.2.any fun x => decide (x.line = pa / 128)).map fun e => e.1

/-- The data of a host line that L2 holds, as the host sees it (R215). -/
def State.heldHost (s : State) (pa : Nat) : Option LineBits :=
  (s.hostSlices pa).findSome? fun sl => (s.l2Look sl (pa / 128)).map fun e => e.data

/-- Ownership of a host line is taken away: the L2 line goes, its data back to the host; a PEND record stays for its owner
(R215). -/
def State.takeHost (s : State) (pa : Nat) : State :=
  (s.hostSlices pa).foldl (fun (a : State) sl => a.l2Drop sl (pa / 128) true) s

/-- The address that a host access of VF `v` to host address `a` reaches: through the HDM decoder that takes it (R364), host memory where
none does, and no address of the device where some decoder is on, or where the VF is not enabled and so absent (R365). The manual does not
say what the address is while no decoder is on: the model takes it for a PA (log 124). -/
def State.hostPa (s : State) (v a : Nat) : Option Nat :=
  match (List.range 4).find? fun n => let d := s.hd.hdm.get {} n; d.on && decide (d.base ≤ a) && decide (a < d.base + d.size) with
  | some n => if s.hd.vfOn ≤ v ∧ v < 128 then none else some ((s.hd.hdm.get {} n).dpa + (a - (s.hd.hdm.get {} n).base))
  | none =>
    if isHost a then some a
    else if (s.hd.vfOn ≤ v ∧ v < 128) || ((List.range 4).any fun n => (s.hd.hdm.get {} n).on) then none
    else some a

/-- The bytes of an access that lie in its first line are written by the host, and the rest follows. -/
def State.hostWrite (s : State) (e : EvArg) : Host.Outcome State Fault Refusal :=
  match s.hostPa e.a e.b with
  | none => .next s
  | some pa =>
  let bs := e.l.map fun n => BitVec.ofNat 8 n
  let k := inLine pa bs.length
  let rest : EvArg := { e with b := e.b + k, l := e.l.drop k }
  let go (t : State) : State := if rest.l.isEmpty then t else t.after 0 .hostWrite rest
  if bs.isEmpty ∨ !s.hostUp then .next s
  else if isHost pa then .next (go ((s.takeHost pa).pmPut pa (bs.take k)))
  else
    match s.hostXl e.a pa with
    | none => .fault (.noSuchAddress pa)
    | some x =>
      let o := pa % 128
      let d : LineBits := BitVec.ofNat 1024 ((lineOfBytes (bs.take k)).toNat * 2 ^ (8 * o))
      match (s.markRoute 8 (homeDie x) e.a).homeUpdate x e.a (s.hck e.a) (fun l => mergeLine l d (byteMask o k)) (byteMask o k) with
      | .done s1 _ w _ _ => .next (go ((s1.raiseHck e.a w).markLink 80 e.a))
      | _ => .next (s.after 1 .hostWrite e)

/-- HOST_WRITE (R214): VF `ev.a` writes the bytes `ev.l` from PA `ev.b`. A PEND line is waited for. -/
def execHostWrite (s : State) : Host.Outcome State Fault Refusal := s.hostWrite s.ev

/-- The bytes of a read that lie in its first line are answered, and the rest follows; HCK rises to the line's wts, that of a PEND
line too (R214). `e.l` holds the length, and the bytes read so far. -/
def State.hostRead (s : State) (e : EvArg) : Host.Outcome State Fault Refusal :=
  let n := e.l.headD 0
  let got := e.l.tail
  match s.hostPa e.a (e.b + got.length) with
  | none => .next (s.emit (.readData e.b (List.replicate n 0xFF)))
  | some pa =>
  let k := inLine pa (n - got.length)
  let go (t : State) (d : LineBits) : State :=
    let more := got ++ (((bytesOfLine d).drop (pa % 128)).take k).map fun b => b.toNat
    if n ≤ more.length then t.emit (.readData e.b (more.map fun b => BitVec.ofNat 8 b))
    else t.after 0 .hostRead { e with l := n :: more }
  if n ≤ got.length ∨ !s.hostUp then .next s
  else if isHost pa then .next (go s ((s.heldHost pa).getD (lineOfBytes (s.pmBytes (pa / 128 * 128) 128))))
  else
    match s.hostXl e.a pa with
    | none => .fault (.noSuchAddress pa)
    | some x =>
      let r := s.homeDir x
      match (s.markRoute 8 (homeDie x) e.a).homeLoad x e.a (s.hck e.a) none with
      | .done s1 d _ wts _ => .next (go ((s1.raiseHck e.a (if r.pend then r.wts else wts)).markLink 81 e.a) d)
      | _ => .next (s.after 1 .hostRead e)

/-- Half `h` of a 64-bit register, as a word. -/
def halfWord (x h : Nat) : W32 := BitVec.ofNat 32 (x / 2 ^ (32 * h))

/-- A word of PF0's command registers (R368). -/
def PfBar.read (p : PfBar) (off : Nat) : W32 :=
  if off = 0 then BitVec.ofNat 32 (p.cmd % 256)
  else if off = 8 then halfWord p.arg 0
  else if off = 12 then halfWord p.arg 1
  else if off = 16 then BitVec.ofNat 32 ((if p.busy then 1 else 0) + p.stat % 256 * 256)
  else 0

/-- A word of BAR0 of VF `v`, or of PF0 for 128, as a host read of offset `off` finds it (R366, R368). A VF that is not enabled reads as
absent (R365): all ones, as PCIe has it (log 124). -/
def State.barRead (s : State) (v off : Nat) : W32 :=
  let b := s.hd.bars.get {} v
  if v = 128 then s.hd.pf.read off
  else if s.hd.vfOn ≤ v then BitVec.allOnes 32
  else if off = 0x4000 then
    BitVec.ofNat 32 ((s.vf v).state % 8 + (s.vf v).gen.toNat * 8 + (if (s.acct v).exh then 128 else 0))
  else if off = 0x4004 then BitVec.ofNat 32 (s.acct v).ingdrop
  else if off = 0x4008 then BitVec.ofNat 32 (s.acct v).drop
  else if off = 0x4010 ∨ off = 0x4014 then halfWord b.tlbva ((off - 0x4010) / 4)
  else if off = 0x4018 then BitVec.ofNat 32 ((if b.tlball then 1 else 0) + (if b.tlbbusy then 2 ^ 31 else 0))
  else if 0x8000 ≤ off ∧ off < 0x8400 ∧ off % 4 = 0 then b.msixWord ((off - 0x8000) / 4)
  else if off = 0x9000 ∨ off = 0x9004 then halfWord b.pba.toNat ((off - 0x9000) / 4)
  else 0

/-- The features of R364 in the order of its table, then the ones that it names as not supported, by number; every number from 8 on is an
optional feature that the table does not list. -/
def cxlFeatures : List Bool := [true, true, true, true, true, true, false, false]

/-- The device's capability structures report feature `n`: CXL.io, CXL.cache, CXL.mem, HDM-D decoders, IDE of CXL.cachemem, IDE of PCIe;
and then back-invalidation and HDM-DB, with all others absent (R364). -/
def hasFeature (n : Nat) : Bool := cxlFeatures.getD n false

/-- HOST_READ (R214, R364, R366, R368): VF `ev.a` reads from host address `ev.b` as many bytes as `ev.l` says. With `ev.c` = 1 the
read is of the word at offset `ev.b` of its BAR0, and with 2 of feature `ev.b` in the capability structures. -/
def execHostRead (s : State) : Host.Outcome State Fault Refusal :=
  if s.ev.c = 1 then .next (s.emit (.barData s.ev.a s.ev.b (s.barRead s.ev.a s.ev.b)))
  else if s.ev.c = 2 then .next (s.emit (.capability s.ev.b (hasFeature s.ev.b)))
  else s.hostRead s.ev

/-- HOST_SNOOP (R215): the host snoops the line of PA `ev.a`, and takes ownership away when `ev.b` is 1. A line that no L2 slice
holds answers no data. -/
def execHostSnoop (s : State) : Host.Outcome State Fault Refusal :=
  let pa := s.ev.a
  if !s.hostUp then .next s
  else if !isHost pa then .fault (.noSuchAddress pa)
  else
    match s.heldHost pa with
    | none => .next (s.emit (.snoopData pa []))
    | some d =>
      let s1 := s.emit (.snoopData pa (bytesOfLine d))
      .next (if s.ev.b = 1 then s1.takeHost pa else s1)

/-! ## Doorbells (R214, R274) -/

/-- A host write of a VF has not reached its home yet. -/
def State.hostPending (s : State) (v : Nat) : Bool :=
  s.agenda.any fun e => decide (e.2.1 = .hostWrite) && decide (e.2.2.a = v)

/-- A doorbell of a VF waits for earlier host writes. -/
def State.bellPending (s : State) (v : Nat) : Bool :=
  s.agenda.any fun e => decide (e.2.1 = .ingressDoorbellWrite) && decide (e.2.2.a = v)

/-- What a doorbell write does: a token in the VF's ingress queue, or a dropped write that is counted (R274). -/
def State.ringBell (s : State) (v off : Nat) (bytes : List Nat) : State :=
  let n := bytes.length
  let q := s.hd.ingress.get [] v
  if off % 64 = 0 ∧ 4 ≤ n ∧ n ≤ 64 ∧ n % 4 = 0 ∧ q.length < 64 then
    let tok : Token :=
      { cls := BitVec.ofNat 8 (off / 64), ctx := BitVec.ofNat 7 v, nflit := BitVec.ofNat 3 ((n + 15) / 16), gen := (s.vf v).gen
        lts := s.hck v + 1, pay := BitVec.ofNat 512 (leNat (bytes.map fun b => BitVec.ofNat 8 b)) }
    (s.modHd fun h => { h with ingress := h.ingress.set [] v (q ++ [tok]) }).after 0 .ingressTokenDelivery { a := v }
  else s.modAcct v fun a => { a with ingdrop := Nat.min 0xFFFFFFFF (a.ingdrop + 1) }

/-- INGRESS_DOORBELL_WRITE (R214, R274): VF `ev.a` writes the bytes `ev.l` at offset `ev.b` of its ingress aperture. It waits for
the host writes before it; `ev.c` = 1 tells one that has waited. -/
def execIngressDoorbellWrite (s : State) : Host.Outcome State Fault Refusal :=
  let e := s.ev
  if s.hd.vfOn ≤ e.a ∨ 0x4000 ≤ e.b ∨ s.hd.frozenAll then .next s
  else if s.hostPending e.a || (decide (e.c = 0) && s.bellPending e.a) then .next (s.after 1 .ingressDoorbellWrite { e with c := 1 })
  else .next (s.ringBell e.a e.b e.l)

/-- The ingress channel of a partition's chart. -/
def State.ingressChan (s : State) (p : Nat) : Option Nat :=
  (s.cfg.chans.find? fun e => decide (e.2.part = p) && decide (e.2.src = .ingress)).map fun e => e.1

/-- The head of a VF's ingress queue leaves on the ingress channel of the VF's chart when the VF is resident, its sources run,
and a credit is free (R274, R337). -/
def State.deliverIngress (s : State) (v : Nat) : State :=
  match s.residentPart v, s.hd.ingress.get [] v with
  | some p, tok :: rest =>
    match s.ingressChan p with
    | none => s
    | some ch =>
      if s.credits ch 0 0 = 0 ∨ s.hd.gated.get false p ∨ (s.part p).pstate ≠ 2 then s
      else
        let s1 := s.modHd fun h => { h with ingress := h.ingress.set [] v rest }
        let s2 := (s1.takeCredits ch 0 0 1).sendToken 0 ch 0 tok
        if rest.isEmpty then s2 else s2.after 1 .ingressTokenDelivery { a := v }
  | _, _ => s

/-- INGRESS_TOKEN_DELIVERY (R274): VF `ev.a`. -/
def execIngressTokenDelivery (s : State) : Host.Outcome State Fault Refusal := .next (s.deliverIngress s.ev.a)

/-! ## BAR0 (R365 to R367) -/

/-- An unmasked vector that is pending sends its message (R367). -/
def State.sendPending (s : State) (v vec : Nat) : State :=
  let b := s.hd.bars.get {} v
  if b.pending.contains vec && !(b.msixWord (4 * vec + 3)).getLsbD 0 then
    (s.modBar v fun c =>
      { c with pba := c.pba &&& ~~~(BitVec.twoPow 64 vec), pending := c.pending.filter fun n => !decide (n = vec) }).emit (.msix v vec)
  else s

/-- MSIX_TABLE_WRITE (R367): VF `ev.a` writes word `ev.c` at offset `ev.b` of its BAR0. -/
def execMsixTableWrite (s : State) : Host.Outcome State Fault Refusal :=
  let v := s.ev.a
  let i := (s.ev.b - 0x8000) / 4
  if s.hd.vfOn ≤ v ∨ s.ev.b < 0x8000 ∨ 256 ≤ i then .next s
  else .next ((s.modBar v fun b => { b with msix := b.msix.put i (BitVec.ofNat 32 s.ev.c) }).sendPending v (i / 4))

/-- Word `h` of a 64-bit value replaced. -/
def setHalf (x h n : Nat) : Nat := if h = 0 then x / 2 ^ 32 * 2 ^ 32 + n % 2 ^ 32 else x % 2 ^ 32 + n % 2 ^ 32 * 2 ^ 32

/-- An HDM decoder with field `k` written: its base, its size, the PA that it leads to, and whether it is on (R364; log 124). -/
def HdmDec.write (d : HdmDec) (k x : Nat) : HdmDec :=
  match k with
  | 0 => { d with base := x }
  | 1 => { d with size := x }
  | 2 => { d with dpa := x }
  | _ => { d with on := x.testBit 0 }

/-- HOST_REGISTER_WRITE (R364, R366, R368): word `ev.c` at offset `ev.b` of BAR0 of VF `ev.a`, or of PF0 when `ev.a` is 128. TLBVA and
PFARG take it; every other offset ignores it. With `ev.a` = 129, field `ev.b` % 4 of HDM decoder `ev.b` / 4 takes `ev.c`. -/
def execHostRegisterWrite (s : State) : Host.Outcome State Fault Refusal :=
  let v := s.ev.a
  let off := s.ev.b
  if v = 128 then
    .next (if off = 8 ∨ off = 12 then
      s.modHd fun h => { h with pf := { h.pf with arg := setHalf h.pf.arg ((off - 8) / 4) s.ev.c } } else s)
  else if v = 129 then
    .next (if off < 16 then
      s.modHd fun h => { h with hdm := h.hdm.set {} (off / 4) ((h.hdm.get {} (off / 4)).write (off % 4) s.ev.c) } else s)
  else if s.hd.vfOn ≤ v then .next s
  else
    .next (if off = 0x4010 ∨ off = 0x4014 then
      s.modBar v fun b => { b with tlbva := setHalf b.tlbva ((off - 0x4010) / 4) s.ev.c } else s)

/-- VF_ENABLE (R365, R371, R374): SR-IOV enables the first `ev.a` VFs. None is enabled in recovery, while the dies are held, or before
step 6 of a device reset. -/
def execVfEnable (s : State) : Host.Outcome State Fault Refusal :=
  if s.hd.fw.recovery || s.hd.frozenAll || decide (s.hd.boot ≠ 0) then .next s
  else .next (s.modHd fun h => { h with vfOn := Nat.min 128 s.ev.a })

/-! ## PF0's commands (R368) -/

/-- A command of PF0 completes with a status, and raises vector 1 (R368). -/
def State.pfDone (s : State) (stat : Nat) : State :=
  (s.modHd fun h => { h with pf := { h.pf with busy := false, stat := stat } }).emit (.pfVector 1)

/-- A PFCMD write while a command runs completes with BUSY and leaves it alone (R368). -/
def State.pfBusy (s : State) : State :=
  (s.modHd fun h => { h with pf := { h.pf with stat := 0x10 } }).emit (.pfVector 1)

/-- A PFCMD write of `n`: BUSY while another runs, else `g`. -/
def State.pfCmd (s : State) (n : Nat) (g : State → State) : State :=
  if s.hd.pf.busy then s.pfBusy else g (s.modHd fun h => { h with pf := { h.pf with cmd := n, busy := true } })

/-- The entry of a VF in the summary record (R369); its energy figures are those of the last roll-up. -/
def State.vfSummary (s : State) (v : Nat) : List Byte :=
  let e := s.vf v
  let a := s.acct v
  let w := s.pinRead 2 v 0 e.wqbase 12
  let p := leNat (w.1.take 4)
  let c := leNat ((w.1.drop 4).take 4)
  leBytes 4 (e.state % 8 + e.gen.toNat * 8 + e.part * 128 + (if (s.residentPart v).isSome then 2 ^ 31 else 0))
    ++ leBytes 8 a.postCons.toNat ++ leBytes 8 a.rollBal.toNat ++ leBytes 4 a.drop ++ leBytes 4 a.ingdrop
    ++ leBytes 2 ((p + 2 ^ 32 - c) % 2 ^ 32) ++ leBytes 1 (s.hd.ingress.get [] v).length ++ leBytes 1 0

/-- The entry of a partition in the summary record (R369). -/
def State.partSummary (s : State) (p : Nat) : List Byte :=
  let e := s.part p
  let ring := if e.pstate = 0 then List.replicate 12 0 else (s.pinRead 2 128 0 e.fqbase 12).1
  let img := s.cfg.charts.look p
  leBytes 2 (e.pstate + e.occ * 4) ++ leBytes 2 0 ++ leBytes 16 e.origin.toNat ++ ring
    ++ leBytes 4 (s.hd.faults.get {} p).posted
    ++ leBytes 4 ((img.map fun i => i.crc).getD 0) ++ leBytes 4 ((img.map fun i => i.version.toNat).getD 0)
    ++ leBytes 20 0

/-- The CRC-32 of the tide tables of some units, in order. -/
def State.tideCrc (s : State) (us : List Nat) : Nat :=
  crc32 (us.flatMap fun u => (List.range 256).flatMap fun c => leBytes 2 (s.tideEntry u c).toNat)

/-- The summary record before its CRC (R369). -/
def State.summary (s : State) : List Byte :=
  let head := leBytes 4 0x5253594E ++ leBytes 4 16384 ++ leBytes 8 s.now ++ leBytes 4 s.hd.fw.running.version
    ++ leBytes 4 s.hd.fw.running.svn ++ leBytes 4 (s.hd.pf.resyncs + 1) ++ leBytes 36 0
  let body := head ++ (List.range 128).flatMap s.vfSummary ++ (List.range 64).flatMap s.partSummary
    ++ (List.range 512).flatMap (fun c => leBytes 2 ((s.hd.cmap.get {} c).cpart + (s.hd.cmap.get {} c).cstate * 64))
    ++ (List.range 306).flatMap (fun u => leBytes 4 (s.tideCrc [u]))
    ++ (List.range 8).flatMap (fun d => leBytes 4 (s.tideCrc (upFrom (4096 + 768 * d) 768)))
  body ++ leBytes (16380 - body.length) 0

/-- The home of a host line: the slice that holds it, or that of its hash (R196, R215). -/
def State.hostHome (s : State) (pa : Nat) : Xl := { pa := pa, slice := (s.hostSlices pa).headD (homeSlice pa none), key := 128 }

/-- The bytes of a RESYNC record are written as engine writes at their host home, line by line and the CRC last; one that meets a PEND
line waits for it. The command is done, and vector 1 raised, after the last has been written (R215, R216, R369). -/
def State.writeRecord (fuel : Nat) (s : State) (pa ts : Nat) (l : List Byte) : State :=
  match fuel with
  | 0 => s
  | n + 1 =>
    if l.isEmpty then s.pfDone 0
    else
      let k := if l.length ≤ 4 then l.length else Nat.min (inLine pa l.length) (l.length - 4)
      let x := s.hostHome pa
      let o := pa % 128
      let d : LineBits := BitVec.ofNat 1024 ((lineOfBytes (l.take k)).toNat * 2 ^ (8 * o))
      match (s.markRoute 8 (homeDie x) 128).homeUpdate x 128 ts (fun y => mergeLine y d (byteMask o k)) (byteMask o k) with
      | .done s1 _ w _ _ => s1.writeRecord n (pa + k) w (l.drop k)
      | _ => s.after 1 .resync { a := pa, b := ts, c := 2, l := l.map fun b => b.toNat }

/-- The summary record of this fc is written to PFARG (R369). -/
def State.writeSummary (s : State) : State :=
  let r := s.summary
  (s.modHd fun h => { h with pf := { h.pf with resyncs := h.pf.resyncs + 1 } }).writeRecord 256 s.hd.pf.arg 0 (r ++ leBytes 4 (crc32 r))

/-- RESYNC runs once no partition command is running (R369). -/
def State.resync (s : State) : State :=
  if s.hd.running.any fun e => e.2 then s.after 1 .resync { c := 1 } else s.writeSummary

/-- RESYNC (R368, R369, R371, R373): PFCMD 1; `ev.c` = 1 continues one that has waited for a partition command, and 2 one whose write
waits for a line, with what is left to write. In recovery, and while a thermal shutdown holds the dies, CXL.cache is not there to write
the record: the model answers BAD_ARG (log 79). -/
def execResync (s : State) : Host.Outcome State Fault Refusal :=
  .next (if s.ev.c = 2 then s.writeRecord 256 s.ev.a s.ev.b (s.ev.l.map fun n => BitVec.ofNat 8 n)
    else if s.ev.c = 1 then s.resync
    else s.pfCmd 1 fun t =>
      if t.hd.fw.recovery ∨ t.hd.frozenAll ∨ t.hd.pf.arg % 4096 ≠ 0 ∨ !isHost t.hd.pf.arg ∨ !isHost (t.hd.pf.arg + 16383) then t.pfDone 0x11
      else t.resync)

/-- PF_UNKNOWN_COMMAND (R368): a PFCMD of value `ev.a` that names no command. -/
def execPfUnknownCommand (s : State) : Host.Outcome State Fault Refusal := .next (s.pfCmd s.ev.a fun t => t.pfDone 0x11)

/-! ## Firmware (R371) -/

/-- `n` bytes of host memory from `pa` on, as the host sees them (R215). -/
def State.hostBytes (s : State) (pa n : Nat) : List Byte :=
  (upFrom pa n).map fun a => match s.heldHost a with
    | some d => (bytesOfLine d).getD (a % 128) 0
    | none => s.pmByte a

/-- The firmware image in host memory at `pa`: its header gives its length (R371). -/
def State.readFw (s : State) (pa : Nat) : FwImage := Config.fwDecode (s.hostBytes pa (Config.fwLength (s.hostBytes pa 64)))

/-- A signature of an image, by a key whose hash is fused (R371). -/
def signedBy (kind key hash sig : Nat) (body : List Byte) : Bool :=
  decide (Config.keyHash kind key = hash) && Config.verifies kind key body sig

/-- The boot ROM accepts an image: magic and length, both signatures over the whole image, and its SVN (R371). -/
def fwOk (f : Firmware) (i : FwImage) : Bool :=
  decide (i.magic = Config.fwMagic) && decide (i.length = i.body.length) && signedBy 0 i.edKey f.edHash i.edSig i.body
    && signedBy 1 i.mlKey f.mlHash i.mlSig i.body && decide (f.minSvn ≤ i.svn)

/-- A firmware update that has read image `i`: flash takes an image that the checks pass, and the fused minimum rises to its SVN; else
IMAGE_REJECTED (R371). -/
def State.takeFw (s : State) (i : FwImage) : State :=
  if fwOk s.hd.fw i then (s.modHd fun h => { h with fw := { h.fw with flash := i, minSvn := i.svn } }).pfDone 0 else s.pfDone 0x12

/-- FIRMWARE_UPDATE (R368, R371): PFCMD 3 with the image at the host PA in PFARG. -/
def execFirmwareUpdate (s : State) : Host.Outcome State Fault Refusal :=
  .next (s.pfCmd 3 fun t =>
    if t.hd.pf.arg % 64 ≠ 0 ∨ !isHost t.hd.pf.arg then t.pfDone 0x11 else t.takeFw (t.readFw t.hd.pf.arg))

/-- MANAGEMENT_CORE_FAULT (R327, R371): the device goes into recovery. -/
def execManagementCoreFault (s : State) : Host.Outcome State Fault Refusal :=
  .next (s.modHd fun h => { h with fw := { h.fw with recovery := true }, vfOn := 0, cxlOn := false, frozenAll := true })

/-! ## Device reset (R374, R384) -/

/-- The words of the agent's tables in the firmware image, put where they belong (R384). -/
def State.placeTables (s : State) (l : List (Nat × Nat)) : State :=
  l.foldl (fun (a : State) e => (a.pinWrite 2 128 0 e.1 (leBytes 8 e.2)).1) s

/-- The energy cost tables as calibrated: of the compute dies, and of HD as die 8 (R318, R374). -/
def calibratedCosts (n : Nat) : Map Nat :=
  (List.range 9).flatMap fun d => (upFrom 1 63).map fun c => (d * 64 + c, Config.calibrated n d c % 2 ^ 20)

/-- The ports as they train: port `p` pairs with device `l[p]` - 1, and stays untrained where that is 0 (R370). -/
def trainPorts (l : List Nat) : Map Port :=
  (List.range 8).filterMap fun p => match l.getD p 0 with
    | 0 => none
    | n + 1 => some (p, Port.train { peer := some n })

/-- Steps 1 and 2 of R374: every die held and everything at its reset values, but for host memory, flash and fuses, what the host has
seen, and the keys, which are new; the boot ROM verifies the image. Without good firmware the device stays in recovery (R371). The fc
count goes on. -/
def State.resetAll (s : State) (r : State) : State :=
  let fw := s.hd.fw
  let ok := fwOk fw fw.flash
  let keys : Map Nat := (List.range 129).map fun k => (k, s.hd.keyEpoch.get 0 k + 1)
  let h := { r.hd with
    keyEpoch := keys, out := s.hd.out
    fw := { fw with running := if ok then fw.flash else fw.running, recovery := !ok }
    frozenAll := true, cxlOn := false }
  { r with mem := { r.mem with pm := s.mem.pm.filter fun e => isHost e.1 }, hd := h, now := s.now, free := s.free, next := s.next }

/-- Steps 3 to 5 of R374: the firmware runs, the cost tables are calibrated, the ports train with the peers `l`, and the agent's chart starts
to load from the firmware image, under its own stage tables (R384). Step 6 follows its start, or comes at once where the image holds no
chart. -/
def State.bootUp (s : State) (l : List Nat) (boot : Nat) : State :=
  let i := s.hd.fw.running
  let s1 := s.modHd fun h => { h with frozenAll := false, costs := calibratedCosts s.now, boot := boot }
  let s2 := s1.modNet fun w => { w with ports := trainPorts l }
  let s3 := (s2.modVf 128 fun v => { v with s1root := i.s1root, s2root := i.s2root }).placeTables i.tables
  if i.chart.patterns.isEmpty then s3.bootEnd else s3.after 1 .chartLoad { a := agentPart, b := 128, img := i.chart }

/-- The device reset (R374). -/
def State.deviceReset (s : State) (l : List Nat) (boot : Nat) : State :=
  let s1 := s.resetAll State.reset
  if s1.hd.fw.recovery then s1 else s1.bootUp l boot

/-- DEVICE_RESET (R365, R370, R374, R384): a conventional or hot reset, or a function-level reset of PF0. `ev.l` says which device is at
the other end of each Oroti port, plus 1. -/
def execDeviceReset (s : State) : Host.Outcome State Fault Refusal := .next (s.deviceReset s.ev.l 1)

/-- PF_DEVICE_RESET (R368, R371, R374): PFCMD 2, ignored in steps 1 to 5 of a device reset. It completes at step 6, or where the device stays
in recovery. In recovery PF0 offers PFCMD 3 only. -/
def execPfDeviceReset (s : State) : Host.Outcome State Fault Refusal :=
  .next (if s.hd.boot ≠ 0 then s
    else if s.hd.pf.busy then s.pfBusy
    else if s.hd.fw.recovery then s.pfDone 0x11
    else
      let t := s.deviceReset s.ev.l 2
      if t.hd.fw.recovery then t.emit (.pfVector 1) else t)

/-- CXL_LINK_TRAINING (R364): the port trains at `ev.a` GT/s with `ev.b` lanes. -/
def execCxlLinkTraining (s : State) : Host.Outcome State Fault Refusal :=
  let ok := [64, 32, 16].contains s.ev.a && [16, 8, 4].contains s.ev.b
  .next (if ok then s.modHd fun h => { h with rate := s.ev.a, width := s.ev.b } else s)

/-! ## SPDM (R372) -/

/-- The messages that PF0 offers, by their numbers here. -/
def spdmOffer : List Nat := upFrom 1 9

/-- The transcript after message `msg` with its request and its answer: a version query begins it. -/
def transcript (old : List Nat) (msg : Nat) (req body : List Nat) : List Nat := (if msg = 1 then [] else old) ++ msg :: req ++ body

/-- The alias key of the kind (0 Ed25519, 1 ML-DSA-65): from the fused secret and the measurement of the running image. -/
def Firmware.alias_ (f : Firmware) (kind : Nat) : Nat :=
  Config.aliasKey kind f.secret (Config.measurement 2 (f.running.body.map fun b => b.toNat))

/-- The certificate chain: the public parts of the identity keys, which are derived from the fused secret alone, and of the alias keys. -/
def Firmware.chain (f : Firmware) : List Nat :=
  [Config.publicKey (Config.identityKey 0 f.secret), Config.publicKey (Config.identityKey 1 f.secret),
   Config.publicKey (f.alias_ 0), Config.publicKey (f.alias_ 1)]

/-- An answer without signature. -/
def State.spdmPlain (s : State) (msg : Nat) (body : List Nat) : State :=
  (s.modHd fun h => { h with spdm := transcript h.spdm msg s.ev.l body }).emit (.spdm msg body 0 0)

/-- An answer with the Ed25519 signature of the alias key and, in its OpaqueData, the ML-DSA-65 one over the same transcript hash. -/
def State.spdmSigned (s : State) (msg : Nat) (body : List Nat) : State :=
  let t := transcript s.hd.spdm msg s.ev.l body
  let sig (kind : Nat) : Nat := Config.spdmSignature (s.hd.fw.alias_ kind) (Config.spdmHash t)
  (s.modHd fun h => { h with spdm := t }).emit (.spdm msg body (sig 0) (sig 1))

/-- The four measurement blocks: the boot ROM, the firmware image, the SVN and fuse state, the energy cost tables. -/
def State.measurements (s : State) : List Nat :=
  let f := s.hd.fw
  [Config.measurement 1 [], Config.measurement 2 (f.running.body.map fun b => b.toNat),
   Config.measurement 3 [f.running.svn, f.minSvn, f.edHash, f.mlHash], Config.measurement 4 ((List.range 9).map s.costWord)]

/-- GET_VERSION (R372): SPDM 1.3. -/
def execGetVersion (s : State) : Host.Outcome State Fault Refusal := .next (s.spdmPlain 1 [0x13])

/-- GET_CAPABILITIES (R372): the messages offered. -/
def execGetCapabilities (s : State) : Host.Outcome State Fault Refusal := .next (s.spdmPlain 2 spdmOffer)

/-- NEGOTIATE_ALGORITHMS (R372): the base asymmetric algorithm is EdDSA Ed25519, bit 10 of SPDM's BaseAsymSel (log 82). -/
def execNegotiateAlgorithms (s : State) : Host.Outcome State Fault Refusal := .next (s.spdmPlain 3 [0x400])

/-- GET_DIGESTS (R372): the digest of the certificate chain. -/
def execGetDigests (s : State) : Host.Outcome State Fault Refusal := .next (s.spdmPlain 4 [Config.spdmHash s.hd.fw.chain])

/-- GET_CERTIFICATE (R372): the certificate chain. -/
def execGetCertificate (s : State) : Host.Outcome State Fault Refusal := .next (s.spdmPlain 5 s.hd.fw.chain)

/-- CHALLENGE (R372), with the nonce in `ev.l`. -/
def execChallenge (s : State) : Host.Outcome State Fault Refusal := .next (s.spdmSigned 6 [Config.spdmHash s.hd.fw.chain])

/-- GET_MEASUREMENTS (R372), with the nonce in `ev.l`. -/
def execGetMeasurements (s : State) : Host.Outcome State Fault Refusal := .next (s.spdmSigned 7 s.measurements)

/-- KEY_EXCHANGE (R372), with the requester's part in `ev.l`: the device's part, from which the session key follows. -/
def execKeyExchange (s : State) : Host.Outcome State Fault Refusal :=
  let t := Config.spdmHash (transcript s.hd.spdm 8 s.ev.l [])
  let part := Config.exchange s.hd.fw.secret t
  .next ((s.modHd fun h => { h with session := some (Config.sessionKey part t) }).spdmPlain 8 [part])

/-- FINISH (R364, R372): the session is there, and the AES-GCM-256 keys of the two links are set over it. The manual names no message that
sets them (log 82). -/
def execFinish (s : State) : Host.Outcome State Fault Refusal :=
  .next ((s.modHd fun h => { h with ide := match h.session with
    | some k => [(0, Config.ideKey 0 k), (1, Config.ideKey 1 k)]
    | none => h.ide }).spdmPlain 9 [])

end Sys2Proof.Machine
end

