-- ==== Sys2Proof/Machine/MemOps.lean ====
section
/-! DEFINITION. Instructions on memories: loads, stores, atomics, the Haar codec, aperture stores, arrival bitmaps, slot
tags and screen tiles (R222 to R258, R359 to R361), with the compact aliases of R64. -/

namespace Sys2Proof.Machine

/-! ## Shared forms -/

/-- The VA that a memory instruction names, checked for alignment (R222). -/
def View.target (v : View) (a : Opnd) (off : Int) (align : Nat) : Except Trap Nat := do
  let x ← v.src a
  let addr : W32 := x + BitVec.ofInt 32 off
  let va := v.b.wbase.toNat * 2 ^ 32 + addr.toNat
  if addr.toNat % align ≠ 0 then .error (trapVa 0x03 va) else .ok va

/-- A memory instruction of `adv` halfwords: the view after its sources are read, and its access (R223). `cls` is the class of its
issue, 0 for those that the order unit charges (R224, `State.orderCharge`). -/
def State.memory (s : State) (cls adv : Nat) (g : View → Except Trap (View × Job)) : Host.Outcome State Fault Refusal :=
  s.runFiring cls fun t f => do
    let r ← g (t.view f)
    .ok ((t.writeBack r.1).startJob t.tile t.slot r.1.f { r.2 with adv := adv })

/-- A load of `n` bytes (R222). -/
def loadOp (kind : OpKind) (va n : Nat) : LineOp := { kind := kind, va := va, len := n }

/-- A scalar load (R230). -/
def View.load (v : View) (d a : Opnd) (off : Int) (size : Nat) (signed : Bool) : Except Trap (View × Job) := do
  let va ← v.target a (off * size) size
  .ok (v, { ops := [loadOp .load va size], cont := .scalar d size signed })

/-- A scalar store outside the command window (R230). -/
def View.store (v : View) (d a : Opnd) (off : Int) (size : Nat) : Except Trap (View × Job) := do
  let x ← v.src d
  let va ← v.target a (off * size) size
  .ok (v, { ops := storeOps va (leBytes size x.toNat) })

/-- An atomic on the word that `a` names (R235). -/
def View.atomic (v : View) (fn : AtomFn) (d a b : Opnd) : Except Trap (View × Job) := do
  let x ← if fn = .cas then v.src d else .ok 0
  let y ← v.src b
  let va ← v.target a 0 4
  .ok (v, { ops := [{ kind := .rmw, va := va, len := 4, fn := fn, a := x, b := y }]
            cont := if fn = .fadd then .oldFlags d else .old d })

/-- The VA of each lane of a strided or indexed access (R232). -/
def View.laneVas (v : View) (base : W32) (off : Nat → W32) : List (Nat × Nat) :=
  (List.range 16).map fun l => (l, v.b.wbase.toNat * 2 ^ 32 + (base + off l).toNat)

/-- A VA of a word is one that no access of a tile with `z` bytes of scratch may have: in the command window, or near it and not in
its element-local memory (R193, R240). -/
def badNear (t z va : Nat) : Bool :=
  decide (va / 2 ^ 32 = 0xFFFFF) || (decide (va / 2 ^ 16 = 0) && (decide (kindAt (t % 64) = .m) || decide (z < va % 65536 + 4)))

/-- The enabled lanes of such an access, checked for alignment and then for R193: the lowest that fails raises F_ALIGN or F_PROT
(R222, R232). -/
def View.checkLanes (v : View) (l : List (Nat × Nat)) (m : BitVec 16) : Except Trap (List (Nat × Nat)) :=
  let on := l.filter fun e => m.getLsbD e.1
  match on.find? fun e => decide (e.2 % 4 ≠ 0), on.find? fun e => badNear v.tile v.c.scratch e.2 with
  | some e, _ => .error (trapVa 0x03 e.2)
  | none, some e => .error (trapVa 0x02 e.2)
  | none, none => .ok on

/-- LDVS and LDVG: one word for each enabled lane (R232). -/
def View.gatherLanes (v : View) (d : Opnd) (m : BitVec 16) (l : List (Nat × Nat)) : Except Trap (View × Job) := do
  let on ← v.checkLanes l m
  let addrs := ofLanes fun i => BitVec.ofNat 32 ((l.getD i (0, 0)).2)
  .ok (v, { ops := spanOps false (on.map fun e => (e.2, 4)), cont := .gather d m addrs })

/-- STVS and STVX: one held word for each enabled lane (R232). -/
def View.scatterLanes (v : View) (d : Opnd) (m : BitVec 16) (l : List (Nat × Nat)) : Except Trap (View × Job) := do
  if m = 0 then .ok (v, {})
  else
    let x ← v.spatial d
    let on ← v.checkLanes l m
    .ok (v.bill [d], { ops := joinStores (on.flatMap fun e => storeOps e.2 (leBytes 4 (lane x e.1).toNat)) })

/-! ## Scalar loads and stores (R230, R233) -/

/-- LDB (R230). -/
def execLdb (d a : Opnd) (o : BitVec 9) (s : State) : Host.Outcome State Fault Refusal :=
  s.memory 55 2 fun v => v.load d a o.toInt 1 true

/-- LDBU (R230). -/
def execLdbu (d a : Opnd) (o : BitVec 9) (s : State) : Host.Outcome State Fault Refusal :=
  s.memory 55 2 fun v => v.load d a o.toInt 1 false

/-- LDH (R230). -/
def execLdh (d a : Opnd) (o : BitVec 9) (s : State) : Host.Outcome State Fault Refusal :=
  s.memory 55 2 fun v => v.load d a o.toInt 2 true

/-- LDHU (R230). -/
def execLdhu (d a : Opnd) (o : BitVec 9) (s : State) : Host.Outcome State Fault Refusal :=
  s.memory 55 2 fun v => v.load d a o.toInt 2 false

/-- LDW (R230). -/
def execLdw (d a : Opnd) (o : BitVec 9) (s : State) : Host.Outcome State Fault Refusal :=
  s.memory 55 2 fun v => v.load d a o.toInt 4 false

/-- STB (R230). -/
def execStb (d a : Opnd) (o : BitVec 9) (s : State) : Host.Outcome State Fault Refusal :=
  s.memory 55 2 fun v => v.store d a o.toInt 1

/-- STH (R230). -/
def execSth (d a : Opnd) (o : BitVec 9) (s : State) : Host.Outcome State Fault Refusal :=
  s.memory 55 2 fun v => v.store d a o.toInt 2

/-- An STW or STNC to the command window that has to wait for a queue or quota entry (R241). -/
def State.mustWait (s : State) (f : Firing) (a : Opnd) (off : Int) : Bool :=
  let v := s.view f
  if v.b.wbase ≠ 0xFFFFF then false
  else
    match v.target a (off * 4) 4 with
    | .error _ => false
    | .ok va =>
      match s.windowTile s.tile (BitVec.ofNat 32 va) with
      | none => false
      | some m => !s.bteRoom m (s.xlVf s.tile f.cx.toNat)

/-- An aperture store of `adv` halfwords whose command `x` goes to the window address `va` (R240, R241): it is ordered by
the channel's QCK, and then its template is read at pts = cts. -/
def State.aperture (s : State) (f : Firing) (va : Nat) (x : W32) (adv : Nat) : Except Trap State :=
  match s.windowTile s.tile (BitVec.ofNat 32 va) with
  | none => .error (trapVa 0x02 va)
  | some m =>
    let r := s.orderCmd m f.pts
    let f1 := { f with pts := r.1 }
    let vf := s.xlVf s.tile f.cx.toNat
    let idx := x.toNat % 65536
    if (s.vf vf).tcount ≤ idx then .ok (r.2.takeFault s.tile s.slot f1 (trapTemplate idx 0))
    else
      let o : LineOp :=
        { kind := .tmpl, va := s.tmplVa vf idx, len := 128, a := BitVec.ofNat 32 idx, b := BitVec.ofNat 32 m }
      .ok (r.2.startJob s.tile s.slot f1 { ops := [o], cont := .aperture m x false, adv := adv })

/-- STW and STNC of `adv` halfwords: in the command window an aperture store, elsewhere what `g` gives (R230, R233,
R240). -/
def State.storeWord (s : State) (d a : Opnd) (off : Int) (adv : Nat) (g : View → Except Trap (View × Job)) :
    Host.Outcome State Fault Refusal :=
  match s.firing s.tile s.slot with
  | none => .refused .noFiring
  | some f =>
    if s.mustWait f a off then .next (s.setFiring s.tile s.slot { f with wait := .aperture })
    else if (s.berth s.tile f.berth).wbase = 0xFFFFF then
      s.runFiring 55 fun t f => do
        let x ← (t.view f).src d
        let va ← (t.view f).target a (off * 4) 4
        t.aperture f va x adv
    else s.memory 55 adv g

/-- STW (R230, R241). -/
def execStw (d a : Opnd) (o : BitVec 9) (s : State) : Host.Outcome State Fault Refusal :=
  s.storeWord d a o.toInt 2 fun v => v.store d a o.toInt 4

/-- LDNC (R233). -/
def execLdnc (d a : Opnd) (o : BitVec 9) (s : State) : Host.Outcome State Fault Refusal :=
  s.memory 55 2 fun v => do
    let va ← v.target a (o.toInt * 4) 4
    .ok (v, { ops := [loadOp .ldnc va 4], cont := .scalar d 4 false })

/-- STNC (R233, R241). -/
def execStnc (d a : Opnd) (o : BitVec 9) (s : State) : Host.Outcome State Fault Refusal :=
  s.storeWord d a o.toInt 2 fun v => do
    let x ← v.src d
    let va ← v.target a (o.toInt * 4) 4
    .ok (v, { ops := [{ kind := .rmw, va := va, len := 4, fn := .stnc, b := x }] })

/-! ## Vector loads and stores (R231, R232) -/

/-- LDV (R231). -/
def execLdv (d a : Opnd) (q : BitVec 2) (o : BitVec 7) (s : State) : Host.Outcome State Fault Refusal :=
  s.memory 55 2 fun v => do
    if v.mask q.toNat = 0 then .ok (v, {})
    else
      let va ← v.target a (o.toInt * 64) 64
      .ok (v, { ops := [loadOp .load va 64], cont := .lanes d (v.mask q.toNat) })

/-- LDVB (R231). -/
def execLdvb (d a : Opnd) (q : BitVec 2) (o : BitVec 7) (s : State) : Host.Outcome State Fault Refusal :=
  s.memory 55 2 fun v => do
    if v.mask q.toNat = 0 then .ok (v, {})
    else
      let va ← v.target a (o.toInt * 4) 4
      .ok (v, { ops := [loadOp .load va 4], cont := .bcast d (v.mask q.toNat) })

/-- The byte mask of the enabled lanes of a vector at byte `o` of a line. -/
def laneBytes (m : BitVec 16) (o : Nat) : BitVec 128 :=
  (List.range 16).foldl (fun a l => if m.getLsbD l then a ||| byteMask (o + 4 * l) 4 else a) 0

/-- STV (R231). -/
def execStv (d a : Opnd) (q : BitVec 2) (o : BitVec 7) (s : State) : Host.Outcome State Fault Refusal :=
  s.memory 55 2 fun v => do
    if v.mask q.toNat = 0 then .ok (v, {})
    else
      let x ← v.spatial d
      let va ← v.target a (o.toInt * 64) 64
      .ok (v.bill [d], { ops := (storeOps va (leBytes 64 x.toNat)).map fun op =>
        { op with mask := laneBytes (v.mask q.toNat) (va % 128) } })

/-- LDVS (R232). -/
def execLdvs (d a b : Opnd) (q : BitVec 2) (s : State) : Host.Outcome State Fault Refusal :=
  s.memory 55 2 fun v => do
    let x ← v.src a
    let y ← v.src b
    v.gatherLanes d (v.mask q.toNat) (v.laneVas x fun l => BitVec.ofNat 32 l * y)

/-- LDVG (R232). -/
def execLdvg (d a b : Opnd) (q : BitVec 2) (s : State) : Host.Outcome State Fault Refusal :=
  s.memory 55 2 fun v => do
    let x ← v.src a
    let y ← v.vec b
    v.gatherLanes d (v.mask q.toNat) (v.laneVas x fun l => lane y.bits l)

/-- STVS (R232). -/
def execStvs (d a b : Opnd) (q : BitVec 2) (s : State) : Host.Outcome State Fault Refusal :=
  s.memory 55 2 fun v => do
    let x ← v.src a
    let y ← v.src b
    v.scatterLanes d (v.mask q.toNat) (v.laneVas x fun l => BitVec.ofNat 32 l * y)

/-- STVX (R232). -/
def execStvx (d a b : Opnd) (q : BitVec 2) (s : State) : Host.Outcome State Fault Refusal :=
  s.memory 55 2 fun v => do
    let x ← v.src a
    let y ← v.vec b
    v.scatterLanes d (v.mask q.toNat) (v.laneVas x fun l => lane y.bits l)

/-! ## Frame slots (R234) -/

/-- FLD (R234). -/
def execFld (d : Opnd) (n : BitVec 8) (s : State) : Host.Outcome State Fault Refusal :=
  s.runView 55 2 fun v => do
    let x ← v.slot n.toNat
    v.put d x

/-- FST (R234). -/
def execFst (d : Opnd) (n : BitVec 8) (s : State) : Host.Outcome State Fault Refusal :=
  s.runView 55 2 fun v => do
    let x ← v.src d
    v.setSlot n.toNat x

/-! ## Atomics (R235) -/

/-- AADD (R235). -/
def execAadd (d a b : Opnd) (s : State) : Host.Outcome State Fault Refusal := s.memory 55 2 fun v => v.atomic .add d a b

/-- AMIN (R235). -/
def execAmin (d a b : Opnd) (s : State) : Host.Outcome State Fault Refusal := s.memory 55 2 fun v => v.atomic .min d a b

/-- AMAX (R235). -/
def execAmax (d a b : Opnd) (s : State) : Host.Outcome State Fault Refusal := s.memory 55 2 fun v => v.atomic .max d a b

/-- AAND (R235). -/
def execAand (d a b : Opnd) (s : State) : Host.Outcome State Fault Refusal := s.memory 55 2 fun v => v.atomic .and d a b

/-- AOR (R235). -/
def execAor (d a b : Opnd) (s : State) : Host.Outcome State Fault Refusal := s.memory 55 2 fun v => v.atomic .or d a b

/-- AXOR (R235). -/
def execAxor (d a b : Opnd) (s : State) : Host.Outcome State Fault Refusal := s.memory 55 2 fun v => v.atomic .xor d a b

/-- AXCH (R235). -/
def execAxch (d a b : Opnd) (s : State) : Host.Outcome State Fault Refusal := s.memory 55 2 fun v => v.atomic .xch d a b

/-- ACAS (R235). -/
def execAcas (d a b : Opnd) (s : State) : Host.Outcome State Fault Refusal := s.memory 55 2 fun v => v.atomic .cas d a b

/-- AFADD (R235). -/
def execAfadd (d a b : Opnd) (s : State) : Host.Outcome State Fault Refusal := s.memory 55 2 fun v => v.atomic .fadd d a b

/-- AINCW (R235). -/
def execAincw (d a b : Opnd) (s : State) : Host.Outcome State Fault Refusal := s.memory 55 2 fun v => v.atomic .incw d a b

/-! ## The Haar codec (R236 to R239) -/

/-- F_DOMAIN with a codec descriptor (R236). -/
def trapCodec (b : W32) : Trap := { code := 0x06, tval := b }

/-- HLD (R239): the bitmaps of the records are read first; what follows is in `contView`. -/
def execHld (d a b : Opnd) (s : State) : Host.Outcome State Fault Refusal :=
  s.memory 55 2 fun v => do
    let y ← v.src b
    let c := codecDesc y
    if c.bad false then .error (trapCodec y)
    else
      let va ← v.target a 0 8
      .ok (v, { ops := spanOps (decide (va / 2 ^ 16 ≠ 0)) (codecBitmaps c va), cont := .hld d y va true })

/-- The coefficient trees that HST stores: the lanes as they stand when their tag fits, else the transform of the spatial
values, with its flags; and whether a transform was made (R238). -/
def View.hstTrees (v : View) (d : Opnd) (c : CodecDesc) : Except Trap (List (List (List W32) × Flags) × Bool) := do
  let x ← v.vec d
  if x.tag = BitVec.ofNat 6 (c.l * 8 + c.axis) ∧ c.c = 1 then
    .ok ((List.range (16 / 2 ^ c.l)).map (fun g =>
      ([(List.range (2 ^ c.l)).map fun p => lane x.bits (g * 2 ^ c.l + p)], 0)), false)
  else
    let y ← x.spatial
    .ok (segmentTrees c y, true)

/-- HST (R238). -/
def execHst (d a b : Opnd) (s : State) : Host.Outcome State Fault Refusal :=
  s.memory 55 2 fun v => do
    let y ← v.src b
    let c := codecDesc y
    if c.bad true then .error (trapCodec y)
    else
      let va ← v.target a 0 8
      let r ← v.hstTrees d c
      let v1 := if r.2 then v.bill [d] else v
      let v2 := if r.2 then { v1 with extra := v1.extra ++ [(56, r.1.length)] } else v1
      let th := v.t.th.get 0 c.th
      let recs := r.1.map fun t => (storeRecord c th t.1, t.2)
      let fl := recs.foldl (fun a e => a ||| e.1.2 ||| e.2) 0
      .ok (v2, { ops := joinStores ((enumFrom 0 recs).flatMap fun e => storeOps (vaAdd va (e.1 * c.stride)) e.2.1.1)
                 cont := .flags fl })

/-! ## Waiting for copies, arrival bitmaps (R246, R248) -/

/-- The commands of a firing that are neither done nor stopped: how many, and how many of them wait on a line that the
firing holds PEND, or stand behind such a command (R246). -/
def State.openCmds (s : State) (f : Firing) : Nat × Nat :=
  let own := s.tiles.flatMap fun e =>
    match e.2.mu.run with
    | some c => if c.own && f.cmds.contains c.id then c.id :: e.2.mu.queue.map fun q => q.id else []
    | none => []
  (f.cmds.length, (f.cmds.filter fun n => own.contains n).length)

/-- DRAIN (R246): the firing waits while a command of its own is under way. -/
def execDrain (d : Opnd) (s : State) : Host.Outcome State Fault Refusal :=
  match s.firing s.tile s.slot with
  | none => .refused .noFiring
  | some f =>
    let n := s.openCmds f
    if n.2 < n.1 then .next (s.setFiring s.tile s.slot { f with wait := .drain })
    else
      s.runView 55 2 fun v =>
        ({ v with f := { v.f with pts := Nat.max v.f.pts v.f.done } } : View).put d
          (BitVec.ofNat 32 (n.2 % 65536 + v.f.stopped % 65536 * 65536))

/-- CHKB (R248): it sees the bits that have landed, and waits for none (log 101). -/
def execChkb (p : BitVec 3) (a b : Opnd) (s : State) : Host.Outcome State Fault Refusal :=
  s.runFiring 55 fun t f => do
    let v := t.view f
    let x ← v.src a
    let y ← v.src b
    let chan := x.toNat / 32 % 8
    let c0 := y.toNat % 128
    let n := y.toNat / 256 % 128 + 1
    if 5 < chan then .error (trapBounds x)
    else if 127 < c0 + n - 1 then .error (trapBounds y)
    else
      let m := chanTile (coveOfTile t.tile) chan
      let i := x.toNat % 32
      let u := (t.tileAt m).mu
      let bits := u.ab.get 0 i
      let mk := byteMask c0 n
      let all := decide (bits &&& mk = mk)
      let v1 := v.setPred p.toNat all
      let f1 := if all then { v1.f with pts := Nat.max v1.f.pts (u.abCts.get 0 i) } else v1.f
      let t1 := t.writeBack { v1 with f := f1.advance 2 }
      if all && x.getLsbD 8 then
        let left := bits &&& ~~~mk
        .ok (t1.modMu m fun w =>
          { w with ab := w.ab.set 0 i left, abCts := if left = 0 then w.abCts.set 0 i 0 else w.abCts })
      else .ok t1

/-! ## Slot tags (R249, R250) -/

/-- SLCLM (R250). -/
def execSlclm (a b : Opnd) (s : State) : Host.Outcome State Fault Refusal :=
  s.memory 55 2 fun v => do
    let y ← v.src b
    let va ← v.target a 0 16
    .ok (v, { ops := [{ kind := .rmw, va := va, len := 16, fn := .slclm, b := y, place := 1 }] })

/-- SLREL (R250). -/
def execSlrel (a b : Opnd) (s : State) : Host.Outcome State Fault Refusal :=
  s.memory 55 2 fun v => do
    let y ← v.src b
    let va ← v.target a 0 16
    .ok (v, { ops := [{ kind := .rmw, va := va, len := 16, fn := .slrel, b := y, place := 1 }] })

/-- SLTST (R250). -/
def execSltst (p : BitVec 3) (a b : Opnd) (s : State) : Host.Outcome State Fault Refusal :=
  s.memory 55 2 fun v => do
    let y ← v.src b
    let va ← v.target a 0 16
    .ok (v, { ops := [{ kind := .ldnc, va := va, len := 16, place := 1 }], cont := .sltst p (y.setWidth 2) })

/-! ## Screen tiles (R252 to R258, R360, R361) -/

/-- The order unit's look at a screen-tile record; `write` asks for a page that may be written too. -/
def peekOp (va : Nat) (write : Bool) : LineOp :=
  { kind := .peek, va := va, len := 64, place := 2, mask := if write then 1 else 0 }

/-- BLND (R256): the record is looked at; what follows is in `contView` and `afterCont`. -/
def execBlnd (d a b : Opnd) (q : BitVec 2) (s : State) : Host.Outcome State Fault Refusal :=
  s.memory 0 2 fun v => do
    let y ← v.src b
    let va ← v.target a 0 64
    .ok (v, { ops := [peekOp va false], cont := .blnd d q y })

/-- ZTST (R255): the record is looked at; what follows is in `contView`. -/
def execZtst (d a b : Opnd) (q : BitVec 2) (s : State) : Host.Outcome State Fault Refusal :=
  s.memory 0 2 fun v => do
    let x ← v.spatial d
    let y ← v.src b
    let va ← v.target a 0 64
    .ok (v.bill [d], { ops := [peekOp va true], cont := .ztst q x y va })

/-- BINAPP (R258). -/
def execBinapp (d a b : Opnd) (s : State) : Host.Outcome State Fault Refusal :=
  s.memory 0 2 fun v => do
    let y ← v.src b
    let va ← v.target a 0 16
    .ok (v, { ops := [{ kind := .rmw, va := va, len := 4, fn := .binapp, place := 2 }], cont := .binapp d y })

/-- OCCQ (R360). -/
def execOccq (d a b : Opnd) (s : State) : Host.Outcome State Fault Refusal :=
  s.memory 0 2 fun v => do
    let x ← v.src d
    let y ← v.src b
    if y.toNat % 4 = 3 then .error (trapBounds y)
    else
      let va ← v.target a 0 64
      .ok (v, { ops := [peekOp va false], cont := .occq x y })

/-- SEQN (R361). -/
def execSeqn (d a : Opnd) (s : State) : Host.Outcome State Fault Refusal :=
  s.memory 0 2 fun v => do
    let va ← v.target a 0 64
    .ok (v, { ops := [{ kind := .rmw, va := va, len := 8, fn := .seqn, place := 2 }], cont := .seqn d va })

/-! ## Compact aliases (R64) -/

/-- C.LDW (R64). -/
def execCLdw (x y : BitVec 5) (s : State) : Host.Outcome State Fault Refusal :=
  s.memory 55 1 fun v => v.load (.w x) (.w y) 0 4 false

/-- C.STW (R64). -/
def execCStw (x y : BitVec 5) (s : State) : Host.Outcome State Fault Refusal :=
  s.storeWord (.w x) (.w y) 0 1 fun v => v.store (.w x) (.w y) 0 4

/-- C.FLD (R64). -/
def execCFld (x y : BitVec 5) (s : State) : Host.Outcome State Fault Refusal :=
  s.runView 55 1 fun v => do
    let z ← v.slot y.toNat
    v.put (.w x) z

/-- C.FST (R64). -/
def execCFst (x y : BitVec 5) (s : State) : Host.Outcome State Fault Refusal :=
  s.runView 55 1 fun v => do
    let z ← v.src (.w x)
    v.setSlot y.toNat z

end Sys2Proof.Machine
end

