-- ==== Sys2Proof/Machine/VectorFloat.lean ====
section
/-! DEFINITION. The floating-point, conversion, Haar and raster instructions on registers (R143 to R166), with the compact
aliases of R64. -/

namespace Sys2Proof.Machine

/-! ## Reading sources (R144, R145) -/

/-- A source whose values are read: HAARL 5 to 7 raises F_DOMAIN (R144); it is reconstructed when `live` (R116). -/
def View.valueOf (v : View) (live : Bool) (o : Opnd) : Except Trap VBits := do
  let x ← v.vec o
  if 4 < tagLevel x.tag then .error (trapDomain x.tag)
  else .ok (if live && decide (x.tag ≠ 0) then (reconstruct x.bits x.tag).1 else x.bits)

/-- The operand is a broadcast: a scalar in a vector position (R145). -/
def isBroadcast (o : Opnd) : Bool :=
  match o with
  | .v _ => false
  | .i _ => false
  | .o _ => false
  | .lx => false
  | _ => true

/-- Lane `l` is an approximation lane of a tag (R143). -/
def isApprox (t : BitVec 6) (l : Nat) : Bool := decide (l % 2 ^ tagLevel t = 0)

/-- A word and flags from a result in bits. -/
def word32 (r : Nat × Flags) : W32 × Flags := (BitVec.ofNat 32 r.1, r.2)

/-! ## Shared forms -/

/-- One source, lane by lane, with result tag 0. -/
def View.float1 (v : View) (d a : Opnd) (q : BitVec 2) (g : W32 → W32 × Flags) : Except Trap View := do
  let m := v.mask q.toNat
  let x ← v.valueOf (decide (m ≠ 0)) a
  let r := laneResults m fun l => g (lane x l)
  ((v.billIf (decide (m ≠ 0)) [a]).flag r.2).vput d m { bits := r.1 } [a]

/-- Two sources, lane by lane, with result tag 0. -/
def View.float2 (v : View) (d a b : Opnd) (q : BitVec 2) (g : W32 → W32 → W32 × Flags) : Except Trap View := do
  let m := v.mask q.toNat
  let x ← v.valueOf (decide (m ≠ 0)) a
  let y ← v.valueOf (decide (m ≠ 0)) b
  let r := laneResults m fun l => g (lane x l) (lane y l)
  ((v.billIf (decide (m ≠ 0)) [a, b]).flag r.2).vput d m { bits := r.1 } [a, b]

/-- Two sources and a destination that is read, lane by lane, with result tag 0. -/
def View.float3 (v : View) (d a b : Opnd) (q : BitVec 2) (g : W32 → W32 → W32 → W32 × Flags) : Except Trap View := do
  let m := v.mask q.toNat
  let x ← v.valueOf (decide (m ≠ 0)) a
  let y ← v.valueOf (decide (m ≠ 0)) b
  let z ← v.valueOf (decide (m ≠ 0)) d
  let r := laneResults m fun l => g (lane z l) (lane x l) (lane y l)
  ((v.billIf (decide (m ≠ 0)) [d, a, b]).flag r.2).vput d m { bits := r.1 } [d, a, b]

/-- A lane-wise result on coefficients as they stand, which keeps the tag `t` (R146). Where the masked write reconstructs the result,
its segments hold the disabled lanes as well (R117); the flags are those of the enabled lanes. -/
def View.keepTag (v : View) (d : Opnd) (q : BitVec 2) (t : BitVec 6) (g : Nat → W32 × Flags) : Except Trap View :=
  let m := v.mask q.toNat
  (v.flag (laneResults m g).2).vput d m { bits := ofLanes fun l => (g l).1, tag := t } []

/-- VFADD and VFSUB (R146, R148); `neg` is the bit by which VFSUB inverts copied detail lanes of b. -/
def View.addSub (v : View) (d a b : Opnd) (q : BitVec 2) (g : W32 → W32 → W32 × Flags) (neg : W32) :
    Except Trap View := do
  let ta := v.tagOf a
  let tb := v.tagOf b
  let x ← v.valueOf false a
  let y ← v.valueOf false b
  if ta ≠ 0 ∧ ta = tb then v.keepTag d q ta fun l => g (lane x l) (lane y l)
  else if ta ≠ 0 ∧ isBroadcast b then
    v.keepTag d q ta fun l => if isApprox ta l then g (lane x l) (lane y l) else (lane x l, 0)
  else if tb ≠ 0 ∧ isBroadcast a then
    v.keepTag d q tb fun l => if isApprox tb l then g (lane x l) (lane y l) else (lane y l ^^^ neg, 0)
  else v.float2 d a b q g

/-- VFMUL (R146, R148). -/
def View.times (v : View) (d a b : Opnd) (q : BitVec 2) : Except Trap View := do
  let ta := v.tagOf a
  let tb := v.tagOf b
  let x ← v.valueOf false a
  let y ← v.valueOf false b
  if ta ≠ 0 ∧ isBroadcast b then v.keepTag d q ta fun l => mulF (lane x l) (lane y l)
  else if tb ≠ 0 ∧ isBroadcast a then v.keepTag d q tb fun l => mulF (lane x l) (lane y l)
  else v.float2 d a b q mulF

/-- VFMA (R146, R148). -/
def View.multiplyAdd (v : View) (d a b : Opnd) (q : BitVec 2) : Except Trap View := do
  let td := v.tagOf d
  let ta := v.tagOf a
  let tb := v.tagOf b
  let x ← v.valueOf false a
  let y ← v.valueOf false b
  let z ← v.valueOf false d
  if td ≠ 0 ∧ ((ta = td ∧ isBroadcast b) ∨ (tb = td ∧ isBroadcast a)) then
    v.keepTag d q td fun l => fmaF (lane z l) (lane x l) (lane y l)
  else if td ≠ 0 ∧ isBroadcast a ∧ isBroadcast b then
    v.keepTag d q td fun l => if isApprox td l then fmaF (lane z l) (lane x l) (lane y l) else (lane z l, 0)
  else v.float3 d a b q fmaF

/-- A scalar float operation on two words (R156). -/
def View.scalarFloat (v : View) (d a b : Opnd) (g : W32 → W32 → W32 × Flags) : Except Trap View := do
  let x ← v.src a
  let y ← v.src b
  let r := g x y
  (v.flag r.2).put d r.1

/-- Both halves of a word through an H16 operation (R154). -/
def onHalves (g : Nat → Nat × Flags) : W32 × Flags :=
  let lo := g 0
  let hi := g 1
  (BitVec.ofNat 32 (lo.1 % 65536 + 65536 * hi.1), lo.2 ||| hi.2)

/-- Half `k` of a word as a value of a 16-bit format. -/
def halfOf (f : Fmt) (x : W32) (k : Nat) : Fp := unpack f (elemOf 16 x k).toNat

/-- A conversion of one word, in scalar or vector form (R157). -/
def View.convert1 (v : View) (d a : Opnd) (g : W32 → W32 × Flags) : Except Trap View :=
  if vectorForm d a then v.float1 d a 0 g
  else do
    let x ← v.src a
    (v.flag (g x).2).put d (g x).1

/-- A conversion of two words, in scalar or vector form (R157). -/
def View.convert2 (v : View) (d a b : Opnd) (g : W32 → W32 → W32 × Flags) : Except Trap View :=
  if vectorForm d a then v.float2 d a b 0 g else v.scalarFloat d a b g

/-- A conversion whose scalar `n` picks a half (R158). The source is read before it (log 87). -/
def View.convertHalf (v : View) (d a n : Opnd) (f : Fmt) : Except Trap View := do
  let _ ← if vectorForm d a then v.valueOf false a else (v.src a).map splat
  let h ← v.src n
  v.convert1 d a fun x => widenF f (elemOf 16 x (h.toNat % 2)).toNat

/-- Two words narrowed into one (R158). -/
def narrowPair (f : Fmt) (mode : Nat) (x y : W32) : W32 × Flags :=
  let lo := narrowF f mode x
  let hi := narrowF f mode y
  (BitVec.ofNat 32 (lo.1 % 65536 + 65536 * hi.1), lo.2 ||| hi.2)

/-- The tag that a b operand gives, read from a 6-bit field (R160). -/
def tagField (x : BitVec 6) : Except Trap (BitVec 6) :=
  if tagLevel x = 0 then .ok 0 else if 4 < tagLevel x then .error (trapDomain x) else .ok x

/-- All lanes written with a tag. -/
def View.whole (v : View) (d : Opnd) (x : VBits) (t : BitVec 6) (paid : List Opnd) : Except Trap View :=
  v.vput d 0xFFFF { bits := x, tag := t } paid

/-- The thresholded lanes of a tagged vector (R162). -/
def threshold (th : W32) (x : VReg) : VBits :=
  ofLanes fun l =>
    let c := lane x.bits (l - l % 2 ^ tagLevel x.tag)
    if isApprox x.tag l || survives th (absF c) (absF (lane x.bits l)) (isNanF (lane x.bits l)) then lane x.bits l else 0

/-- The word HQRY gives (R163). -/
def queryWord (x : VReg) : W32 :=
  let haar := decide (1 ≤ tagLevel x.tag) && decide (tagLevel x.tag ≤ 4)
  let bits := laneTest 0xFFFF fun l => (haar && isApprox x.tag l) || !isZeroF (lane x.bits l)
  bits.setWidth 32 ||| (x.tag.setWidth 32 <<< 16)

/-- The lanes whose bits are set in a mask. -/
def setLanes (m : BitVec 16) : List Nat := (List.range 16).filter fun l => m.getLsbD l

/-- HPACK (R163). -/
def packMask (m : BitVec 16) (x : VBits) : VBits := ofLaneList ((setLanes m).map fun l => lane x l)

/-- HUNPK (R163). -/
def unpackMask (m : BitVec 16) (x : VBits) : VBits :=
  ofLanes fun l => if m.getLsbD l then lane x ((setLanes m).filter fun i => decide (i < l)).length else 0

/-- The edge functions of EDGE at the pixel of lane `l` of a block (R165). -/
def edgeAt (c : VBits) (org : W32) (l k : Nat) : Int :=
  let x : Int := 256 * ((org.toNat % 65536 + l % 4 : Nat) : Int) + 128
  let y : Int := 256 * ((org.toNat / 65536 + l / 4 : Nat) : Int) + 128
  (lane c (3 * k)).toInt * x + (lane c (3 * k + 1)).toInt * y + (lane c (3 * k + 2)).toInt

/-- A pixel on an edge belongs to it when the edge is a top or left one (R165). -/
def topLeft (c : VBits) (k : Nat) : Bool :=
  let a := (lane c (3 * k)).toInt
  decide (0 < a) || (decide (a = 0) && decide (0 < (lane c (3 * k + 1)).toInt))

/-- The sum of the edge functions at a lane. -/
def edgeSum (c : VBits) (org : W32) (l : Nat) : Int := edgeAt c org l 0 + edgeAt c org l 1 + edgeAt c org l 2

/-- The lane is covered (R165). -/
def covered (c : VBits) (org : W32) (l : Nat) : Bool :=
  decide (0 < edgeSum c org l) && (List.range 3).all fun k =>
    decide (0 < edgeAt c org l k) || (decide (edgeAt c org l k = 0) && topLeft c k)

/-- A barycentric coordinate of a lane, with its flags (R165). -/
def lambda (c : VBits) (org : W32) (k l : Nat) : W32 × Flags :=
  let t := edgeSum c org l
  let e := edgeAt c org l k
  if t ≤ 0 then (0, 0) else word32 (divRound f32 0 (decide (e < 0)) e.natAbs t.natAbs 0)

/-- The v register after one. -/
def nextV (o : Opnd) : Opnd :=
  match o with
  | .v n => .v (n + 1)
  | _ => o

/-! ## Vector floating point (R148 to R155) -/

/-- VFADD (R146, R148). -/
def execVfadd (d a b : Opnd) (q : BitVec 2) (s : State) : Host.Outcome State Fault Refusal :=
  s.runView 14 2 fun v => v.addSub d a b q addF 0

/-- VFSUB (R146, R148). -/
def execVfsub (d a b : Opnd) (q : BitVec 2) (s : State) : Host.Outcome State Fault Refusal :=
  s.runView 14 2 fun v => v.addSub d a b q subF 0x80000000

/-- VFMUL (R146, R148). -/
def execVfmul (d a b : Opnd) (q : BitVec 2) (s : State) : Host.Outcome State Fault Refusal :=
  s.runView 14 2 fun v => v.times d a b q

/-- VFMA (R146, R148). -/
def execVfma (d a b : Opnd) (q : BitVec 2) (s : State) : Host.Outcome State Fault Refusal :=
  s.runView 15 2 fun v => v.multiplyAdd d a b q

/-- VFMIN (R149). -/
def execVfmin (d a b : Opnd) (q : BitVec 2) (s : State) : Host.Outcome State Fault Refusal :=
  s.runView 13 2 fun v => v.float2 d a b q minF

/-- VFMAX (R149). -/
def execVfmax (d a b : Opnd) (q : BitVec 2) (s : State) : Host.Outcome State Fault Refusal :=
  s.runView 13 2 fun v => v.float2 d a b q maxF

/-- VFABS (R149). -/
def execVfabs (d a : Opnd) (q : BitVec 2) (s : State) : Host.Outcome State Fault Refusal :=
  s.runView 13 2 fun v => v.float1 d a q fun x => (absF x, 0)

/-- VFNEG (R146, R148). -/
def execVfneg (d a : Opnd) (q : BitVec 2) (s : State) : Host.Outcome State Fault Refusal :=
  s.runView 13 2 fun v => do
    let x ← v.valueOf false a
    v.keepTag d q (v.tagOf a) fun l => (lane x l ^^^ 0x80000000, 0)

/-- VFRCP (R151). -/
def execVfrcp (d a : Opnd) (q : BitVec 2) (s : State) : Host.Outcome State Fault Refusal :=
  s.runView 17 2 fun v => v.float1 d a q fun x => word32 (divFmt f32 (unF32 0x3F800000) (unF32 x))

/-- VFRSQ (R151). -/
def execVfrsq (d a : Opnd) (q : BitVec 2) (s : State) : Host.Outcome State Fault Refusal :=
  s.runView 17 2 fun v => v.float1 d a q fun x => word32 (rsqFmt f32 (unF32 x))

/-- VFSQRT (R151). -/
def execVfsqrt (d a : Opnd) (q : BitVec 2) (s : State) : Host.Outcome State Fault Refusal :=
  s.runView 17 2 fun v => v.float1 d a q fun x => word32 (sqrtFmt f32 (unF32 x))

/-- VFDIV (R151). -/
def execVfdiv (d a b : Opnd) (q : BitVec 2) (s : State) : Host.Outcome State Fault Refusal :=
  s.runView 18 2 fun v => v.float2 d a b q fun x y => word32 (divFmt f32 (unF32 x) (unF32 y))

/-- VFEXP2 (R152). -/
def execVfexp2 (d a : Opnd) (q : BitVec 2) (s : State) : Host.Outcome State Fault Refusal :=
  s.runView 19 2 fun v => v.float1 d a q exp2F

/-- VFLOG2 (R152). -/
def execVflog2 (d a : Opnd) (q : BitVec 2) (s : State) : Host.Outcome State Fault Refusal :=
  s.runView 19 2 fun v => v.float1 d a q log2F

/-- VFSIN (R152). -/
def execVfsin (d a : Opnd) (q : BitVec 2) (s : State) : Host.Outcome State Fault Refusal :=
  s.runView 19 2 fun v => v.float1 d a q sinPiF

/-- VFTANH (R152). -/
def execVftanh (d a : Opnd) (q : BitVec 2) (s : State) : Host.Outcome State Fault Refusal :=
  s.runView 19 2 fun v => v.float1 d a q tanhF

/-- VFSIG (R152). -/
def execVfsig (d a : Opnd) (q : BitVec 2) (s : State) : Host.Outcome State Fault Refusal :=
  s.runView 19 2 fun v => v.float1 d a q sigF

/-- VFRND (R150). -/
def execVfrnd (d a b : Opnd) (q : BitVec 2) (s : State) : Host.Outcome State Fault Refusal :=
  s.runView 14 2 fun v => do
    let _ ← v.valueOf false a
    let r ← v.src b
    v.float1 d a q (rndF (r.toNat % 4))

/-- VFCLMP (R149). -/
def execVfclmp (d a b : Opnd) (q : BitVec 2) (s : State) : Host.Outcome State Fault Refusal :=
  s.runView 13 2 fun v => v.float3 d a b q fun z x y =>
    let t := maxF z x
    let r := minF t.1 y
    (r.1, t.2 ||| r.2)

/-- VFLRP (R153). -/
def execVflrp (d a b : Opnd) (q : BitVec 2) (s : State) : Host.Outcome State Fault Refusal :=
  s.runView 15 2 fun v => v.float3 d a b q fun z x y =>
    let t := subF y x
    let r := fmaF x z t.1
    (r.1, t.2 ||| r.2)

/-- VHMUL (R154). -/
def execVhmul (d a b : Opnd) (q : BitVec 2) (s : State) : Host.Outcome State Fault Refusal :=
  s.runView 16 2 fun v => v.float2 d a b q fun x y => onHalves fun k => mulFmt h16 0 (halfOf h16 x k) (halfOf h16 y k)

/-- VHFMA (R154). -/
def execVhfma (d a b : Opnd) (q : BitVec 2) (s : State) : Host.Outcome State Fault Refusal :=
  s.runView 16 2 fun v => v.float3 d a b q fun z x y =>
    onHalves fun k => dotTerms h16 (halfOf h16 z k) [(halfOf h16 x k, halfOf h16 y k)]

/-- VBFMA (R155). -/
def execVbfma (d a b : Opnd) (q : BitVec 2) (s : State) : Host.Outcome State Fault Refusal :=
  s.runView 16 2 fun v => v.float3 d a b q fun z x y =>
    word32 (dotTerms f32 (unF32 z) [(halfOf b16 x 0, halfOf b16 y 0), (halfOf b16 x 1, halfOf b16 y 1)])

/-! ## Scalar floating point (R156) -/

/-- FADD (R156). -/
def execFadd (d a b : Opnd) (s : State) : Host.Outcome State Fault Refusal :=
  s.runView 20 2 fun v => v.scalarFloat d a b addF

/-- FMUL (R156). -/
def execFmul (d a b : Opnd) (s : State) : Host.Outcome State Fault Refusal :=
  s.runView 20 2 fun v => v.scalarFloat d a b mulF

/-- FFMA (R156). -/
def execFfma (d a b : Opnd) (s : State) : Host.Outcome State Fault Refusal :=
  s.runView 20 2 fun v => do
    let x ← v.src a
    let y ← v.src b
    let z ← v.src d
    let r := fmaF z x y
    (v.flag r.2).put d r.1

/-! ## Conversions (R157 to R159) -/

/-- CVT.F2I (R158). -/
def execCvtF2i (d a : Opnd) (r : BitVec 2) (s : State) : Host.Outcome State Fault Refusal :=
  s.runView 21 2 fun v => v.convert1 d a (f2i r.toNat)

/-- CVT.I2F (R158). -/
def execCvtI2f (d a : Opnd) (r : BitVec 2) (s : State) : Host.Outcome State Fault Refusal :=
  s.runView 21 2 fun v => v.convert1 d a fun x => i2f r.toNat x.toInt

/-- CVT.F2H (R158). -/
def execCvtF2h (d a b : Opnd) (r : BitVec 2) (s : State) : Host.Outcome State Fault Refusal :=
  s.runView 21 2 fun v => v.convert2 d a b (narrowPair h16 r.toNat)

/-- CVT.H2F (R158); its `q` has no effect. -/
def execCvtH2f (d a n : Opnd) (_q : BitVec 2) (s : State) : Host.Outcome State Fault Refusal :=
  s.runView 21 2 fun v => v.convertHalf d a n h16

/-- CVT.F2B (R158). -/
def execCvtF2b (d a b : Opnd) (r : BitVec 2) (s : State) : Host.Outcome State Fault Refusal :=
  s.runView 21 2 fun v => v.convert2 d a b (narrowPair b16 r.toNat)

/-- CVT.B2F (R158); its `q` has no effect. -/
def execCvtB2f (d a n : Opnd) (_q : BitVec 2) (s : State) : Host.Outcome State Fault Refusal :=
  s.runView 21 2 fun v => v.convertHalf d a n b16

/-- CVT.F2Q (R159). -/
def execCvtF2q (d a n : Opnd) (s : State) : Host.Outcome State Fault Refusal :=
  s.runView 22 2 fun v => do
    let x ← v.valueOf true a
    let k ← v.src n
    let r := if k.toNat % 4 = 3 then (255, fNV) else qEncode (k.toNat % 4) (laneList x)
    ((v.bill [a]).flag r.2).whole d (BitVec.ofNat 512 r.1) 0 [a]

/-- CVT.Q2F (R159). -/
def execCvtQ2f (d a n : Opnd) (s : State) : Host.Outcome State Fault Refusal :=
  s.runView 22 2 fun v => do
    let x ← v.valueOf true a
    let k ← v.src n
    let r := if k.toNat % 4 = 3 then ([], true) else qDecode (k.toNat % 4) x.toNat
    let v1 := v.bill [a]
    let v2 := if r.2 then { v1 with f := { v1.f with err := true } } else v1
    v2.whole d (ofLaneList r.1) 0 [a]

/-! ## The Haar group (R160 to R164) -/

/-- HFWD (R161). For a target tag of HAARL 0 whose AXIS is not 0 the manual does not say which TVAL F_DOMAIN takes: the six bits as
they were read, as R160 has it for HAARL 5 to 7 (log 117). -/
def execHfwd (d a b : Opnd) (s : State) : Host.Outcome State Fault Refusal :=
  s.runView 23 2 fun v => do
    let x ← v.valueOf true a
    let k ← v.src b
    let raw : BitVec 6 := k.extractLsb' 0 6
    let t ← tagField raw
    if t = 0 then .error (trapDomain raw)
    else
      let r := onSegments (tagLevel t) (haarFwd (tagLevel t)) x
      let v1 := (v.bill [a]).flag r.2
      { v1 with extra := v1.extra ++ [(23, tagLevel t - 1)] }.whole d r.1 t [a]

/-- HINV (R161). -/
def execHinv (d a : Opnd) (s : State) : Host.Outcome State Fault Refusal :=
  s.runView 23 2 fun v => do
    let x ← v.valueOf false a
    let t := v.tagOf a
    let r := if t = 0 then (x, 0) else reconstruct x t
    let v1 := v.flag r.2
    { v1 with extra := v1.extra ++ [(23, tagLevel t - 1)] }.whole d r.1 0 [a]

/-- HTHR (R162). -/
def execHthr (d a b : Opnd) (s : State) : Host.Outcome State Fault Refusal :=
  s.runView 24 2 fun v => do
    let x ← v.valueOf false a
    let n ← v.src b
    let t := v.tagOf a
    v.whole d (if t = 0 then x else threshold (v.t.th.get 0 (n.toNat % 8)) { bits := x, tag := t }) t []

/-- HPACK (R163). -/
def execHpack (d a b : Opnd) (s : State) : Host.Outcome State Fault Refusal :=
  s.runView 24 2 fun v => do
    let x ← v.vec a
    let k ← v.src b
    v.whole d (packMask (k.extractLsb' 0 16) x.bits) 0 []

/-- HUNPK (R163). -/
def execHunpk (d a b : Opnd) (s : State) : Host.Outcome State Fault Refusal :=
  s.runView 24 2 fun v => do
    let x ← v.vec a
    let k ← v.src b
    let t ← tagField (k.extractLsb' 16 6)
    v.whole d (unpackMask (k.extractLsb' 0 16) x.bits) t []

/-- HTAG (R163). -/
def execHtag (d a b : Opnd) (s : State) : Host.Outcome State Fault Refusal :=
  s.runView 25 2 fun v => do
    let x ← v.vec a
    let k ← v.src b
    let t ← tagField (k.extractLsb' 0 6)
    v.whole d x.bits t []

/-- HQRY (R163). -/
def execHqry (d a : Opnd) (s : State) : Host.Outcome State Fault Refusal :=
  s.runView 25 2 fun v => do
    let x ← v.vec a
    v.put d (queryWord x)

/-- HSETT (R164). -/
def execHsett (d a b : Opnd) (s : State) : Host.Outcome State Fault Refusal :=
  s.runView 25 2 fun v => do
    let x ← v.src a
    let k ← v.src b
    let n := k.toNat % 8
    let v1 ← v.put d (v.t.th.get 0 n)
    .ok { v1 with t := { v1.t with th := v1.t.th.set 0 n x } }

/-! ## Raster arithmetic (R165, R166) -/

/-- EDGE (R165). -/
def execEdge (d : BitVec 3) (a b : Opnd) (q : BitVec 2) (s : State) : Host.Outcome State Fault Refusal :=
  s.runView 26 2 fun v => do
    let c ← v.vec a
    let org ← v.src b
    let r1 := laneResults 0xFFFF (lambda c.bits org 1)
    let r2 := laneResults 0xFFFF (lambda c.bits org 2)
    let dst : Opnd := .v (d.setWidth 4 <<< 1)
    let v1 ← (v.flag (r1.2 ||| r2.2)).whole dst r1.1 0 []
    let v2 ← v1.whole (nextV dst) r2.1 0 []
    .ok (v2.setMask q.toNat (laneTest 0xFFFF (covered c.bits org)))

/-- ATTR (R166). -/
def execAttr (d : Opnd) (a : BitVec 3) (b : Opnd) (q : BitVec 2) (s : State) : Host.Outcome State Fault Refusal :=
  s.runView 27 2 fun v => do
    let m := v.mask q.toNat
    let live := decide (m ≠ 0)
    let src : Opnd := .v (a.setWidth 4 <<< 1)
    let l1 ← v.valueOf live src
    let l2 ← v.valueOf live (nextV src)
    let f ← v.valueOf live b
    let g1 := subF (lane f 1) (lane f 0)
    let g2 := subF (lane f 2) (lane f 0)
    let r := laneResults m fun l =>
      let x := word32 (dotTerms f32 (unF32 (lane f 0))
        [(unF32 (lane l1 l), unF32 g1.1), (unF32 (lane l2 l), unF32 g2.1)])
      (x.1, x.2 ||| g1.2 ||| g2.2)
    ((v.billIf live [src, nextV src, b]).flag r.2).vput d m { bits := r.1 } [src, nextV src, b]

/-! ## Compact aliases (R64) -/

/-- C.VFADD (R64). -/
def execCVfadd (x y : BitVec 4) (s : State) : Host.Outcome State Fault Refusal :=
  s.runView 14 1 fun v => v.addSub (.v x) (.v x) (.v y) 0 addF 0

/-- C.VFMUL (R64). -/
def execCVfmul (x y : BitVec 4) (s : State) : Host.Outcome State Fault Refusal :=
  s.runView 14 1 fun v => v.times (.v x) (.v x) (.v y) 0

/-- C.VFMA (R64). -/
def execCVfma (x y : BitVec 4) (s : State) : Host.Outcome State Fault Refusal :=
  s.runView 15 1 fun v => v.multiplyAdd (.v x) (.v x) (.v y) 0

end Sys2Proof.Machine
end

