-- ==== Sys2Proof/Machine/Dispatch.lean ====
section
/-! DEFINITION. One arm per constructor: the meaning of each instruction and of each step of the table. -/

namespace Sys2Proof.Machine

def exec (i : Instr) (s : State) : Host.Outcome State Fault Refusal :=
  match i with
  | .br x0 x1 x2 => Sys2Proof.Machine.execBr x0 x1 x2 s
  | .loop x0 x1 => Sys2Proof.Machine.execLoop x0 x1 s
  | .loopi x0 x1 => Sys2Proof.Machine.execLoopi x0 x1 s
  | .switch x0 x1 => Sys2Proof.Machine.execSwitch x0 x1 s
  | .pcmpEq x0 x1 x2 => Sys2Proof.Machine.execPcmpEq x0 x1 x2 s
  | .pcmpNe x0 x1 x2 => Sys2Proof.Machine.execPcmpNe x0 x1 x2 s
  | .pcmpLt x0 x1 x2 => Sys2Proof.Machine.execPcmpLt x0 x1 x2 s
  | .pcmpLtu x0 x1 x2 => Sys2Proof.Machine.execPcmpLtu x0 x1 x2 s
  | .pfcmpEq x0 x1 x2 => Sys2Proof.Machine.execPfcmpEq x0 x1 x2 s
  | .pfcmpLt x0 x1 x2 => Sys2Proof.Machine.execPfcmpLt x0 x1 x2 s
  | .pfcmpLe x0 x1 x2 => Sys2Proof.Machine.execPfcmpLe x0 x1 x2 s
  | .pfcmpUn x0 x1 x2 => Sys2Proof.Machine.execPfcmpUn x0 x1 x2 s
  | .plog x0 x1 x2 x3 => Sys2Proof.Machine.execPlog x0 x1 x2 x3 s
  | .mcmpEq x0 x1 x2 x3 => Sys2Proof.Machine.execMcmpEq x0 x1 x2 x3 s
  | .mcmpNe x0 x1 x2 x3 => Sys2Proof.Machine.execMcmpNe x0 x1 x2 x3 s
  | .mcmpLt x0 x1 x2 x3 => Sys2Proof.Machine.execMcmpLt x0 x1 x2 x3 s
  | .mcmpLtu x0 x1 x2 x3 => Sys2Proof.Machine.execMcmpLtu x0 x1 x2 x3 s
  | .mfcmpEq x0 x1 x2 x3 => Sys2Proof.Machine.execMfcmpEq x0 x1 x2 x3 s
  | .mfcmpLt x0 x1 x2 x3 => Sys2Proof.Machine.execMfcmpLt x0 x1 x2 x3 s
  | .mfcmpLe x0 x1 x2 x3 => Sys2Proof.Machine.execMfcmpLe x0 x1 x2 x3 s
  | .mfcmpUn x0 x1 x2 x3 => Sys2Proof.Machine.execMfcmpUn x0 x1 x2 x3 s
  | .mlog x0 x1 x2 x3 => Sys2Proof.Machine.execMlog x0 x1 x2 x3 s
  | .mpop x0 x1 => Sys2Proof.Machine.execMpop x0 x1 s
  | .mfirst x0 x1 => Sys2Proof.Machine.execMfirst x0 x1 s
  | .add x0 x1 x2 => Sys2Proof.Machine.execAdd x0 x1 x2 s
  | .sub x0 x1 x2 => Sys2Proof.Machine.execSub x0 x1 x2 s
  | .addi x0 x1 x2 => Sys2Proof.Machine.execAddi x0 x1 x2 s
  | .mul x0 x1 x2 => Sys2Proof.Machine.execMul x0 x1 x2 s
  | .mulh x0 x1 x2 => Sys2Proof.Machine.execMulh x0 x1 x2 s
  | .mulhu x0 x1 x2 => Sys2Proof.Machine.execMulhu x0 x1 x2 s
  | .div x0 x1 x2 => Sys2Proof.Machine.execDiv x0 x1 x2 s
  | .divu x0 x1 x2 => Sys2Proof.Machine.execDivu x0 x1 x2 s
  | .rem x0 x1 x2 => Sys2Proof.Machine.execRem x0 x1 x2 s
  | .remu x0 x1 x2 => Sys2Proof.Machine.execRemu x0 x1 x2 s
  | .and x0 x1 x2 => Sys2Proof.Machine.execAnd x0 x1 x2 s
  | .or x0 x1 x2 => Sys2Proof.Machine.execOr x0 x1 x2 s
  | .xor x0 x1 x2 => Sys2Proof.Machine.execXor x0 x1 x2 s
  | .shl x0 x1 x2 => Sys2Proof.Machine.execShl x0 x1 x2 s
  | .shr x0 x1 x2 => Sys2Proof.Machine.execShr x0 x1 x2 s
  | .sra x0 x1 x2 => Sys2Proof.Machine.execSra x0 x1 x2 s
  | .shli x0 x1 x2 => Sys2Proof.Machine.execShli x0 x1 x2 s
  | .shri x0 x1 x2 => Sys2Proof.Machine.execShri x0 x1 x2 s
  | .srai x0 x1 x2 => Sys2Proof.Machine.execSrai x0 x1 x2 s
  | .min x0 x1 x2 => Sys2Proof.Machine.execMin x0 x1 x2 s
  | .max x0 x1 x2 => Sys2Proof.Machine.execMax x0 x1 x2 s
  | .clz x0 x1 => Sys2Proof.Machine.execClz x0 x1 s
  | .popc x0 x1 => Sys2Proof.Machine.execPopc x0 x1 s
  | .brev x0 x1 => Sys2Proof.Machine.execBrev x0 x1 s
  | .bfx x0 x1 x2 => Sys2Proof.Machine.execBfx x0 x1 x2 s
  | .bfxu x0 x1 x2 => Sys2Proof.Machine.execBfxu x0 x1 x2 s
  | .bfi x0 x1 x2 => Sys2Proof.Machine.execBfi x0 x1 x2 s
  | .sel x0 x1 x2 => Sys2Proof.Machine.execSel x0 x1 x2 s
  | .mov x0 x1 x2 => Sys2Proof.Machine.execMov x0 x1 x2 s
  | .li x0 x1 => Sys2Proof.Machine.execLi x0 x1 s
  | .lih x0 x1 => Sys2Proof.Machine.execLih x0 x1 s
  | .agen x0 x1 x2 => Sys2Proof.Machine.execAgen x0 x1 x2 s
  | .agen2 x0 x1 x2 => Sys2Proof.Machine.execAgen2 x0 x1 x2 s
  | .vbcast x0 x1 x2 x3 => Sys2Proof.Machine.execVbcast x0 x1 x2 x3 s
  | .vext x0 x1 x2 => Sys2Proof.Machine.execVext x0 x1 x2 s
  | .vins x0 x1 x2 => Sys2Proof.Machine.execVins x0 x1 x2 s
  | .vperm x0 x1 x2 x3 => Sys2Proof.Machine.execVperm x0 x1 x2 x3 s
  | .vrotl x0 x1 x2 x3 => Sys2Proof.Machine.execVrotl x0 x1 x2 x3 s
  | .vredAdd x0 x1 x2 => Sys2Proof.Machine.execVredAdd x0 x1 x2 s
  | .vredMin x0 x1 x2 => Sys2Proof.Machine.execVredMin x0 x1 x2 s
  | .vredMax x0 x1 x2 => Sys2Proof.Machine.execVredMax x0 x1 x2 s
  | .vscanAdd x0 x1 x2 => Sys2Proof.Machine.execVscanAdd x0 x1 x2 s
  | .tget x0 x1 x2 x3 => Sys2Proof.Machine.execTget x0 x1 x2 x3 s
  | .tset x0 x1 x2 => Sys2Proof.Machine.execTset x0 x1 x2 s
  | .vadd x0 x1 x2 x3 => Sys2Proof.Machine.execVadd x0 x1 x2 x3 s
  | .vsub x0 x1 x2 x3 => Sys2Proof.Machine.execVsub x0 x1 x2 x3 s
  | .vmul x0 x1 x2 x3 => Sys2Proof.Machine.execVmul x0 x1 x2 x3 s
  | .vmulh x0 x1 x2 x3 => Sys2Proof.Machine.execVmulh x0 x1 x2 x3 s
  | .vmad x0 x1 x2 x3 => Sys2Proof.Machine.execVmad x0 x1 x2 x3 s
  | .vand x0 x1 x2 x3 => Sys2Proof.Machine.execVand x0 x1 x2 x3 s
  | .vor x0 x1 x2 x3 => Sys2Proof.Machine.execVor x0 x1 x2 x3 s
  | .vxor x0 x1 x2 x3 => Sys2Proof.Machine.execVxor x0 x1 x2 x3 s
  | .vshl x0 x1 x2 x3 => Sys2Proof.Machine.execVshl x0 x1 x2 x3 s
  | .vshr x0 x1 x2 x3 => Sys2Proof.Machine.execVshr x0 x1 x2 x3 s
  | .vsra x0 x1 x2 x3 => Sys2Proof.Machine.execVsra x0 x1 x2 x3 s
  | .vmin x0 x1 x2 x3 => Sys2Proof.Machine.execVmin x0 x1 x2 x3 s
  | .vmax x0 x1 x2 x3 => Sys2Proof.Machine.execVmax x0 x1 x2 x3 s
  | .vsel x0 x1 x2 x3 => Sys2Proof.Machine.execVsel x0 x1 x2 x3 s
  | .vadds x0 x1 x2 x3 => Sys2Proof.Machine.execVadds x0 x1 x2 x3 s
  | .vsubs x0 x1 x2 x3 => Sys2Proof.Machine.execVsubs x0 x1 x2 x3 s
  | .vpack x0 x1 x2 x3 => Sys2Proof.Machine.execVpack x0 x1 x2 x3 s
  | .vunpk x0 x1 x2 x3 => Sys2Proof.Machine.execVunpk x0 x1 x2 x3 s
  | .vclz x0 x1 x2 => Sys2Proof.Machine.execVclz x0 x1 x2 s
  | .vpopc x0 x1 x2 => Sys2Proof.Machine.execVpopc x0 x1 x2 s
  | .vfadd x0 x1 x2 x3 => Sys2Proof.Machine.execVfadd x0 x1 x2 x3 s
  | .vfsub x0 x1 x2 x3 => Sys2Proof.Machine.execVfsub x0 x1 x2 x3 s
  | .vfmul x0 x1 x2 x3 => Sys2Proof.Machine.execVfmul x0 x1 x2 x3 s
  | .vfma x0 x1 x2 x3 => Sys2Proof.Machine.execVfma x0 x1 x2 x3 s
  | .vfmin x0 x1 x2 x3 => Sys2Proof.Machine.execVfmin x0 x1 x2 x3 s
  | .vfmax x0 x1 x2 x3 => Sys2Proof.Machine.execVfmax x0 x1 x2 x3 s
  | .vfabs x0 x1 x2 => Sys2Proof.Machine.execVfabs x0 x1 x2 s
  | .vfneg x0 x1 x2 => Sys2Proof.Machine.execVfneg x0 x1 x2 s
  | .vfrcp x0 x1 x2 => Sys2Proof.Machine.execVfrcp x0 x1 x2 s
  | .vfrsq x0 x1 x2 => Sys2Proof.Machine.execVfrsq x0 x1 x2 s
  | .vfsqrt x0 x1 x2 => Sys2Proof.Machine.execVfsqrt x0 x1 x2 s
  | .vfdiv x0 x1 x2 x3 => Sys2Proof.Machine.execVfdiv x0 x1 x2 x3 s
  | .vfexp2 x0 x1 x2 => Sys2Proof.Machine.execVfexp2 x0 x1 x2 s
  | .vflog2 x0 x1 x2 => Sys2Proof.Machine.execVflog2 x0 x1 x2 s
  | .vfsin x0 x1 x2 => Sys2Proof.Machine.execVfsin x0 x1 x2 s
  | .vftanh x0 x1 x2 => Sys2Proof.Machine.execVftanh x0 x1 x2 s
  | .vfsig x0 x1 x2 => Sys2Proof.Machine.execVfsig x0 x1 x2 s
  | .vfrnd x0 x1 x2 x3 => Sys2Proof.Machine.execVfrnd x0 x1 x2 x3 s
  | .vfclmp x0 x1 x2 x3 => Sys2Proof.Machine.execVfclmp x0 x1 x2 x3 s
  | .vflrp x0 x1 x2 x3 => Sys2Proof.Machine.execVflrp x0 x1 x2 x3 s
  | .vhmul x0 x1 x2 x3 => Sys2Proof.Machine.execVhmul x0 x1 x2 x3 s
  | .vhfma x0 x1 x2 x3 => Sys2Proof.Machine.execVhfma x0 x1 x2 x3 s
  | .vbfma x0 x1 x2 x3 => Sys2Proof.Machine.execVbfma x0 x1 x2 x3 s
  | .fadd x0 x1 x2 => Sys2Proof.Machine.execFadd x0 x1 x2 s
  | .fmul x0 x1 x2 => Sys2Proof.Machine.execFmul x0 x1 x2 s
  | .ffma x0 x1 x2 => Sys2Proof.Machine.execFfma x0 x1 x2 s
  | .cvtF2i x0 x1 x2 => Sys2Proof.Machine.execCvtF2i x0 x1 x2 s
  | .cvtI2f x0 x1 x2 => Sys2Proof.Machine.execCvtI2f x0 x1 x2 s
  | .cvtF2h x0 x1 x2 x3 => Sys2Proof.Machine.execCvtF2h x0 x1 x2 x3 s
  | .cvtH2f x0 x1 x2 x3 => Sys2Proof.Machine.execCvtH2f x0 x1 x2 x3 s
  | .cvtF2b x0 x1 x2 x3 => Sys2Proof.Machine.execCvtF2b x0 x1 x2 x3 s
  | .cvtB2f x0 x1 x2 x3 => Sys2Proof.Machine.execCvtB2f x0 x1 x2 x3 s
  | .cvtF2q x0 x1 x2 => Sys2Proof.Machine.execCvtF2q x0 x1 x2 s
  | .cvtQ2f x0 x1 x2 => Sys2Proof.Machine.execCvtQ2f x0 x1 x2 s
  | .hfwd x0 x1 x2 => Sys2Proof.Machine.execHfwd x0 x1 x2 s
  | .hinv x0 x1 => Sys2Proof.Machine.execHinv x0 x1 s
  | .hthr x0 x1 x2 => Sys2Proof.Machine.execHthr x0 x1 x2 s
  | .hpack x0 x1 x2 => Sys2Proof.Machine.execHpack x0 x1 x2 s
  | .hunpk x0 x1 x2 => Sys2Proof.Machine.execHunpk x0 x1 x2 s
  | .htag x0 x1 x2 => Sys2Proof.Machine.execHtag x0 x1 x2 s
  | .hqry x0 x1 => Sys2Proof.Machine.execHqry x0 x1 s
  | .hsett x0 x1 x2 => Sys2Proof.Machine.execHsett x0 x1 x2 s
  | .ldb x0 x1 x2 => Sys2Proof.Machine.execLdb x0 x1 x2 s
  | .ldbu x0 x1 x2 => Sys2Proof.Machine.execLdbu x0 x1 x2 s
  | .ldh x0 x1 x2 => Sys2Proof.Machine.execLdh x0 x1 x2 s
  | .ldhu x0 x1 x2 => Sys2Proof.Machine.execLdhu x0 x1 x2 s
  | .ldw x0 x1 x2 => Sys2Proof.Machine.execLdw x0 x1 x2 s
  | .stb x0 x1 x2 => Sys2Proof.Machine.execStb x0 x1 x2 s
  | .sth x0 x1 x2 => Sys2Proof.Machine.execSth x0 x1 x2 s
  | .stw x0 x1 x2 => Sys2Proof.Machine.execStw x0 x1 x2 s
  | .ldv x0 x1 x2 x3 => Sys2Proof.Machine.execLdv x0 x1 x2 x3 s
  | .ldvs x0 x1 x2 x3 => Sys2Proof.Machine.execLdvs x0 x1 x2 x3 s
  | .ldvg x0 x1 x2 x3 => Sys2Proof.Machine.execLdvg x0 x1 x2 x3 s
  | .ldvb x0 x1 x2 x3 => Sys2Proof.Machine.execLdvb x0 x1 x2 x3 s
  | .stv x0 x1 x2 x3 => Sys2Proof.Machine.execStv x0 x1 x2 x3 s
  | .stvs x0 x1 x2 x3 => Sys2Proof.Machine.execStvs x0 x1 x2 x3 s
  | .stvx x0 x1 x2 x3 => Sys2Proof.Machine.execStvx x0 x1 x2 x3 s
  | .aadd x0 x1 x2 => Sys2Proof.Machine.execAadd x0 x1 x2 s
  | .amin x0 x1 x2 => Sys2Proof.Machine.execAmin x0 x1 x2 s
  | .amax x0 x1 x2 => Sys2Proof.Machine.execAmax x0 x1 x2 s
  | .aand x0 x1 x2 => Sys2Proof.Machine.execAand x0 x1 x2 s
  | .aor x0 x1 x2 => Sys2Proof.Machine.execAor x0 x1 x2 s
  | .axor x0 x1 x2 => Sys2Proof.Machine.execAxor x0 x1 x2 s
  | .axch x0 x1 x2 => Sys2Proof.Machine.execAxch x0 x1 x2 s
  | .acas x0 x1 x2 => Sys2Proof.Machine.execAcas x0 x1 x2 s
  | .afadd x0 x1 x2 => Sys2Proof.Machine.execAfadd x0 x1 x2 s
  | .aincw x0 x1 x2 => Sys2Proof.Machine.execAincw x0 x1 x2 s
  | .hld x0 x1 x2 => Sys2Proof.Machine.execHld x0 x1 x2 s
  | .hst x0 x1 x2 => Sys2Proof.Machine.execHst x0 x1 x2 s
  | .fld x0 x1 => Sys2Proof.Machine.execFld x0 x1 s
  | .fst x0 x1 => Sys2Proof.Machine.execFst x0 x1 s
  | .ldnc x0 x1 x2 => Sys2Proof.Machine.execLdnc x0 x1 x2 s
  | .stnc x0 x1 x2 => Sys2Proof.Machine.execStnc x0 x1 x2 s
  | .drain x0 => Sys2Proof.Machine.execDrain x0 s
  | .chkb x0 x1 x2 => Sys2Proof.Machine.execChkb x0 x1 x2 s
  | .slclm x0 x1 => Sys2Proof.Machine.execSlclm x0 x1 s
  | .slrel x0 x1 => Sys2Proof.Machine.execSlrel x0 x1 s
  | .sltst x0 x1 x2 => Sys2Proof.Machine.execSltst x0 x1 x2 s
  | .mshp x0 x1 x2 x3 x4 => Sys2Proof.Machine.execMshp x0 x1 x2 x3 x4 s
  | .tld x0 x1 => Sys2Proof.Machine.execTld x0 x1 s
  | .tstTile x0 x1 => Sys2Proof.Machine.execTstTile x0 x1 s
  | .tstAcc x0 x1 x2 => Sys2Proof.Machine.execTstAcc x0 x1 x2 s
  | .tzero x0 => Sys2Proof.Machine.execTzero x0 s
  | .ttr x0 x1 x2 x3 => Sys2Proof.Machine.execTtr x0 x1 x2 x3 s
  | .mskr x0 x1 x2 => Sys2Proof.Machine.execMskr x0 x1 x2 s
  | .mmq2 x0 x1 x2 => Sys2Proof.Machine.execMmq2 x0 x1 x2 s
  | .mmq4 x0 x1 x2 => Sys2Proof.Machine.execMmq4 x0 x1 x2 s
  | .mmq7 x0 x1 x2 => Sys2Proof.Machine.execMmq7 x0 x1 x2 s
  | .mmi8 x0 x1 x2 => Sys2Proof.Machine.execMmi8 x0 x1 x2 s
  | .mmh x0 x1 x2 => Sys2Proof.Machine.execMmh x0 x1 x2 s
  | .mmb x0 x1 x2 => Sys2Proof.Machine.execMmb x0 x1 x2 s
  | .sca x0 x1 x2 => Sys2Proof.Machine.execSca x0 x1 x2 s
  | .scai x0 x1 x2 x3 x4 => Sys2Proof.Machine.execScai x0 x1 x2 x3 x4 s
  | .aclr x0 x1 => Sys2Proof.Machine.execAclr x0 x1 s
  | .ajoin x0 x1 => Sys2Proof.Machine.execAjoin x0 x1 s
  | .acpy x0 x1 => Sys2Proof.Machine.execAcpy x0 x1 s
  | .aout x0 x1 x2 x3 => Sys2Proof.Machine.execAout x0 x1 x2 x3 s
  | .ain x0 x1 => Sys2Proof.Machine.execAin x0 x1 s
  | .ard x0 x1 x2 x3 x4 => Sys2Proof.Machine.execArd x0 x1 x2 x3 x4 s
  | .srtcfg x0 x1 x2 => Sys2Proof.Machine.execSrtcfg x0 x1 x2 s
  | .srtk x0 => Sys2Proof.Machine.execSrtk x0 s
  | .srtf x0 x1 x2 x3 => Sys2Proof.Machine.execSrtf x0 x1 x2 x3 s
  | .tfeat x0 x1 => Sys2Proof.Machine.execTfeat x0 x1 s
  | .send x0 x1 x2 x3 x4 => Sys2Proof.Machine.execSend x0 x1 x2 x3 x4 s
  | .sende x0 x1 x2 x3 => Sys2Proof.Machine.execSende x0 x1 x2 x3 s
  | .sendm x0 x1 x2 x3 x4 => Sys2Proof.Machine.execSendm x0 x1 x2 x3 x4 s
  | .steer x0 x1 x2 x3 x4 => Sys2Proof.Machine.execSteer x0 x1 x2 x3 x4 s
  | .merge x0 x1 x2 x3 x4 => Sys2Proof.Machine.execMerge x0 x1 x2 x3 x4 s
  | .loopc x0 x1 x2 x3 x4 => Sys2Proof.Machine.execLoopc x0 x1 x2 x3 x4 s
  | .tagn x0 x1 => Sys2Proof.Machine.execTagn x0 x1 s
  | .falloc x0 x1 x2 => Sys2Proof.Machine.execFalloc x0 x1 x2 s
  | .ffree x0 x1 => Sys2Proof.Machine.execFfree x0 x1 s
  | .tspawn x0 x1 x2 => Sys2Proof.Machine.execTspawn x0 x1 x2 s
  | .tdec x0 x1 => Sys2Proof.Machine.execTdec x0 x1 s
  | .evset x0 x1 x2 => Sys2Proof.Machine.execEvset x0 x1 x2 s
  | .evclr x0 x1 x2 => Sys2Proof.Machine.execEvclr x0 x1 x2 s
  | .permit x0 x1 => Sys2Proof.Machine.execPermit x0 x1 s
  | .rays x0 x1 x2 => Sys2Proof.Machine.execRays x0 x1 x2 s
  | .fglk x0 x1 x2 => Sys2Proof.Machine.execFglk x0 x1 x2 s
  | .blnd x0 x1 x2 x3 => Sys2Proof.Machine.execBlnd x0 x1 x2 x3 s
  | .ztst x0 x1 x2 x3 => Sys2Proof.Machine.execZtst x0 x1 x2 x3 s
  | .binapp x0 x1 x2 => Sys2Proof.Machine.execBinapp x0 x1 x2 s
  | .edge x0 x1 x2 x3 => Sys2Proof.Machine.execEdge x0 x1 x2 x3 s
  | .attr x0 x1 x2 x3 => Sys2Proof.Machine.execAttr x0 x1 x2 x3 s
  | .occq x0 x1 x2 => Sys2Proof.Machine.execOccq x0 x1 x2 s
  | .seqn x0 x1 => Sys2Proof.Machine.execSeqn x0 x1 s
  | .iscfg x0 x1 => Sys2Proof.Machine.execIscfg x0 x1 s
  | .trap x0 => Sys2Proof.Machine.execTrap x0 s
  | .tret x0 => Sys2Proof.Machine.execTret x0 s
  | .csrr x0 x1 => Sys2Proof.Machine.execCsrr x0 x1 s
  | .csrw x0 x1 => Sys2Proof.Machine.execCsrw x0 x1 s
  | .emrd x0 x1 x2 => Sys2Proof.Machine.execEmrd x0 x1 x2 s
  | .eqt x0 x1 x2 => Sys2Proof.Machine.execEqt x0 x1 x2 s
  | .cBr x0 x1 x2 => Sys2Proof.Machine.execCBr x0 x1 x2 s
  | .cLoopi x0 x1 => Sys2Proof.Machine.execCLoopi x0 x1 s
  | .cMov x0 x1 => Sys2Proof.Machine.execCMov x0 x1 s
  | .cLi x0 x1 => Sys2Proof.Machine.execCLi x0 x1 s
  | .cAdd x0 x1 => Sys2Proof.Machine.execCAdd x0 x1 s
  | .cSub x0 x1 => Sys2Proof.Machine.execCSub x0 x1 s
  | .cAddi x0 x1 => Sys2Proof.Machine.execCAddi x0 x1 s
  | .cAnd x0 x1 => Sys2Proof.Machine.execCAnd x0 x1 s
  | .cOr x0 x1 => Sys2Proof.Machine.execCOr x0 x1 s
  | .cXor x0 x1 => Sys2Proof.Machine.execCXor x0 x1 s
  | .cShli x0 x1 => Sys2Proof.Machine.execCShli x0 x1 s
  | .cShri x0 x1 => Sys2Proof.Machine.execCShri x0 x1 s
  | .cLdw x0 x1 => Sys2Proof.Machine.execCLdw x0 x1 s
  | .cStw x0 x1 => Sys2Proof.Machine.execCStw x0 x1 s
  | .cSend x0 x1 => Sys2Proof.Machine.execCSend x0 x1 s
  | .cTget x0 x1 => Sys2Proof.Machine.execCTget x0 x1 s
  | .cVfadd x0 x1 => Sys2Proof.Machine.execCVfadd x0 x1 s
  | .cVfmul x0 x1 => Sys2Proof.Machine.execCVfmul x0 x1 s
  | .cVfma x0 x1 => Sys2Proof.Machine.execCVfma x0 x1 s
  | .cVadd x0 x1 => Sys2Proof.Machine.execCVadd x0 x1 s
  | .cFld x0 x1 => Sys2Proof.Machine.execCFld x0 x1 s
  | .cFst x0 x1 => Sys2Proof.Machine.execCFst x0 x1 s
  | .nop => Sys2Proof.Machine.execNop s
  | .endFiring => Sys2Proof.Machine.execEndFiring s
  | .endfFiring => Sys2Proof.Machine.execEndfFiring s
  | .yield => Sys2Proof.Machine.execYield s
  | .cNop => Sys2Proof.Machine.execCNop s
  | .cEnd => Sys2Proof.Machine.execCEnd s
  | .chartLoad => Sys2Proof.Machine.execChartLoad s
  | .chartLoadAck => Sys2Proof.Machine.execChartLoadAck s
  | .configTimeout => Sys2Proof.Machine.execConfigTimeout s
  | .startTokenDelivery => Sys2Proof.Machine.execStartTokenDelivery s
  | .controlTokenTake => Sys2Proof.Machine.execControlTokenTake s
  | .tokenArrival => Sys2Proof.Machine.execTokenArrival s
  | .operandRetry => Sys2Proof.Machine.execOperandRetry s
  | .poolSlotTimeout => Sys2Proof.Machine.execPoolSlotTimeout s
  | .creditReturn => Sys2Proof.Machine.execCreditReturn s
  | .firingAdmission => Sys2Proof.Machine.execFiringAdmission s
  | .yieldBackoffExpiry => Sys2Proof.Machine.execYieldBackoffExpiry s
  | .xlateRecordPost => Sys2Proof.Machine.execXlateRecordPost s
  | .faultEdgeSend => Sys2Proof.Machine.execFaultEdgeSend s
  | .memoryReply => Sys2Proof.Machine.execMemoryReply s
  | .loadHomeRequest => Sys2Proof.Machine.execLoadHomeRequest s
  | .ownershipRequest => Sys2Proof.Machine.execOwnershipRequest s
  | .atomicHomeOperation => Sys2Proof.Machine.execAtomicHomeOperation s
  | .bermWaitResume => Sys2Proof.Machine.execBermWaitResume s
  | .l2Fill => Sys2Proof.Machine.execL2Fill s
  | .fillWaitResume => Sys2Proof.Machine.execFillWaitResume s
  | .memoryChannelOperation => Sys2Proof.Machine.execMemoryChannelOperation s
  | .unitSlotService => Sys2Proof.Machine.execUnitSlotService s
  | .tideTableSwitch => Sys2Proof.Machine.execTideTableSwitch s
  | .hostWrite => Sys2Proof.Machine.execHostWrite s
  | .hostRead => Sys2Proof.Machine.execHostRead s
  | .hostSnoop => Sys2Proof.Machine.execHostSnoop s
  | .ingressDoorbellWrite => Sys2Proof.Machine.execIngressDoorbellWrite s
  | .ingressTokenDelivery => Sys2Proof.Machine.execIngressTokenDelivery s
  | .timestampRebase => Sys2Proof.Machine.execTimestampRebase s
  | .tideSample => Sys2Proof.Machine.execTideSample s
  | .replicaRelease => Sys2Proof.Machine.execReplicaRelease s
  | .configPatternWrite => Sys2Proof.Machine.execConfigPatternWrite s
  | .taskReady => Sys2Proof.Machine.execTaskReady s
  | .computeTaskDispatch => Sys2Proof.Machine.execComputeTaskDispatch s
  | .copyTaskDispatch => Sys2Proof.Machine.execCopyTaskDispatch s
  | .bteCommandStart => Sys2Proof.Machine.execBteCommandStart s
  | .engineWrite => Sys2Proof.Machine.execEngineWrite s
  | .btePassMark => Sys2Proof.Machine.execBtePassMark s
  | .bteCommandComplete => Sys2Proof.Machine.execBteCommandComplete s
  | .egressEntryWrite => Sys2Proof.Machine.execEgressEntryWrite s
  | .accessRetry => Sys2Proof.Machine.execAccessRetry s
  | .pageWalk => Sys2Proof.Machine.execPageWalk s
  | .pageWalkComplete => Sys2Proof.Machine.execPageWalkComplete s
  | .invalidationComplete => Sys2Proof.Machine.execInvalidationComplete s
  | .owedWriteLanding => Sys2Proof.Machine.execOwedWriteLanding s
  | .loadWalkTile => Sys2Proof.Machine.execLoadWalkTile s
  | .storeWalkTile => Sys2Proof.Machine.execStoreWalkTile s
  | .haarWalkTile => Sys2Proof.Machine.execHaarWalkTile s
  | .gridRequestTake => Sys2Proof.Machine.execGridRequestTake s
  | .gridBatchSend => Sys2Proof.Machine.execGridBatchSend s
  | .gridBatchArrival => Sys2Proof.Machine.execGridBatchArrival s
  | .frameAllocRequest => Sys2Proof.Machine.execFrameAllocRequest s
  | .frameAllocReply => Sys2Proof.Machine.execFrameAllocReply s
  | .iscfgDescriptorWrite => Sys2Proof.Machine.execIscfgDescriptorWrite s
  | .rayNodeVisit => Sys2Proof.Machine.execRayNodeVisit s
  | .rayMigration => Sys2Proof.Machine.execRayMigration s
  | .batchOrderArrival => Sys2Proof.Machine.execBatchOrderArrival s
  | .batchRetire => Sys2Proof.Machine.execBatchRetire s
  | .occqArrival => Sys2Proof.Machine.execOccqArrival s
  | .seqnResume => Sys2Proof.Machine.execSeqnResume s
  | .frameSpaceResume => Sys2Proof.Machine.execFrameSpaceResume s
  | .roundMarkerSend => Sys2Proof.Machine.execRoundMarkerSend s
  | .laneRoundAdvance => Sys2Proof.Machine.execLaneRoundAdvance s
  | .linkFlitRetry => Sys2Proof.Machine.execLinkFlitRetry s
  | .linkTokenLost => Sys2Proof.Machine.execLinkTokenLost s
  | .rollup => Sys2Proof.Machine.execRollup s
  | .rollupTokenSend => Sys2Proof.Machine.execRollupTokenSend s
  | .costTableRewrite => Sys2Proof.Machine.execCostTableRewrite s
  | .governorWindow => Sys2Proof.Machine.execGovernorWindow s
  | .thermalLimit => Sys2Proof.Machine.execThermalLimit s
  | .thermalCapStep => Sys2Proof.Machine.execThermalCapStep s
  | .thermalShutdown => Sys2Proof.Machine.execThermalShutdown s
  | .partitionCreate => Sys2Proof.Machine.execPartitionCreate s
  | .partitionEnter => Sys2Proof.Machine.execPartitionEnter s
  | .partitionSwitch => Sys2Proof.Machine.execPartitionSwitch s
  | .partitionFreeze => Sys2Proof.Machine.execPartitionFreeze s
  | .freezeSave => Sys2Proof.Machine.execFreezeSave s
  | .partitionDrain => Sys2Proof.Machine.execPartitionDrain s
  | .drainComplete => Sys2Proof.Machine.execDrainComplete s
  | .drainTimeout => Sys2Proof.Machine.execDrainTimeout s
  | .partitionResume => Sys2Proof.Machine.execPartitionResume s
  | .partitionResize => Sys2Proof.Machine.execPartitionResize s
  | .partitionRelease => Sys2Proof.Machine.execPartitionRelease s
  | .coveScrubEnd => Sys2Proof.Machine.execCoveScrubEnd s
  | .vfReset => Sys2Proof.Machine.execVfReset s
  | .vfFlr => Sys2Proof.Machine.execVfFlr s
  | .privVfRead => Sys2Proof.Machine.execPrivVfRead s
  | .privVfWrite => Sys2Proof.Machine.execPrivVfWrite s
  | .privGrantWrite => Sys2Proof.Machine.execPrivGrantWrite s
  | .privMapbWrite => Sys2Proof.Machine.execPrivMapbWrite s
  | .privPartitionRead => Sys2Proof.Machine.execPrivPartitionRead s
  | .privCoveMapRead => Sys2Proof.Machine.execPrivCoveMapRead s
  | .privTideRead => Sys2Proof.Machine.execPrivTideRead s
  | .privTideWrite => Sys2Proof.Machine.execPrivTideWrite s
  | .privKeyQuery => Sys2Proof.Machine.execPrivKeyQuery s
  | .privCostRead => Sys2Proof.Machine.execPrivCostRead s
  | .privInvalidate => Sys2Proof.Machine.execPrivInvalidate s
  | .hostTlbInvalidate => Sys2Proof.Machine.execHostTlbInvalidate s
  | .msixTableWrite => Sys2Proof.Machine.execMsixTableWrite s
  | .hostRegisterWrite => Sys2Proof.Machine.execHostRegisterWrite s
  | .resync => Sys2Proof.Machine.execResync s
  | .pfDeviceReset => Sys2Proof.Machine.execPfDeviceReset s
  | .firmwareUpdate => Sys2Proof.Machine.execFirmwareUpdate s
  | .pfUnknownCommand => Sys2Proof.Machine.execPfUnknownCommand s
  | .deviceReset => Sys2Proof.Machine.execDeviceReset s
  | .getVersion => Sys2Proof.Machine.execGetVersion s
  | .getCapabilities => Sys2Proof.Machine.execGetCapabilities s
  | .negotiateAlgorithms => Sys2Proof.Machine.execNegotiateAlgorithms s
  | .getDigests => Sys2Proof.Machine.execGetDigests s
  | .getCertificate => Sys2Proof.Machine.execGetCertificate s
  | .challenge => Sys2Proof.Machine.execChallenge s
  | .getMeasurements => Sys2Proof.Machine.execGetMeasurements s
  | .keyExchange => Sys2Proof.Machine.execKeyExchange s
  | .finish => Sys2Proof.Machine.execFinish s
  | .managementCoreFault => Sys2Proof.Machine.execManagementCoreFault s
  | .cxlLinkTraining => Sys2Proof.Machine.execCxlLinkTraining s
  | .portRetrain => Sys2Proof.Machine.execPortRetrain s
  | .vfEnable => Sys2Proof.Machine.execVfEnable s

end Sys2Proof.Machine
end

