-- ==== Sys2Proof/Machine/Step.lean ====
section
/-! DEFINITION. The step of the machine: the next thing that happens (`Sched`), with the instruction that a firing
issues fetched and decoded from its routine. -/

namespace Sys2Proof.Machine

/-- One step: an event, the issue of one instruction of a firing, or the end of an fc (log 1). -/
def step (s : State) : Host.Outcome State Fault Refusal :=
  match s.choose with
  | .event i s1 => exec i s1
  | .tick => .next s.tickClock
  | .issue t k =>
    let s1 := s.beginIssue t k
    match s1.firing t k with
    | none => .refused .noFiring
    | some f =>
      if s1.codeDamaged t f then .next (s1.damagedFetch t k f)
      else match s1.fetch t f with
      | .error e => .refused (.loadRejects e.code)
      | .ok none => .next (s1.pastEnd t k f)
      | .ok (some i) => exec i s1

/-- `s` with one instruction loaded where the next step fetches: the routine of a firing that is ready to issue on a tile
of cove 0 (log 3). -/
def State.withFetchWord (s : State) (nbits w : Nat) : State := s.solo (decodeTableWord nbits w) (wordHalves nbits w)

end Sys2Proof.Machine
end

