-- ==== Sys2Proof/Safety.lean ====
section
/-! DEFINITION. The terms in which claims are stated: what an instruction of a firing leaves behind, what a destination
takes, what a discarding fault leaves, and the invariant of the memories. -/

namespace Sys2Proof.Machine

/-! ## Instructions of a firing -/

/-- The firing `f` is the one that issues. -/
def State.runs (s : State) (f : Firing) : Prop := s.firing s.tile s.slot = some f

/-- What an instruction of class `cls` of firing `f` sees: its charge has been taken (R342). -/
def State.seen (s : State) (f : Firing) (cls : Nat) : View := (s.charge s.tile f.cx.toNat cls 1).view f

/-- The state after an instruction of `n` halfwords and class `cls` of firing `f` that leaves the view `v`: the firing
stands behind the instruction. -/
def State.ran (s : State) (f : Firing) (cls n : Nat) (v : View) : State :=
  (s.charge s.tile f.cx.toNat cls 1).writeBack { v with f := v.f.advance n }

/-- The state after an instruction of class `cls` of firing `f` that sets the pc itself and leaves the view `v`. -/
def State.jumped (s : State) (f : Firing) (cls : Nat) (v : View) : State :=
  (s.charge s.tile f.cx.toNat cls 1).writeBack v

/-- The state after a discarding fault that an instruction of class `cls` of firing `f` raises. -/
def State.trapped (s : State) (f : Firing) (cls : Nat) (e : Trap) : State :=
  (s.charge s.tile f.cx.toNat cls 1).takeFault s.tile s.slot f e

/-- A scalar destination takes a write without a fault. -/
def View.takes (v : View) (d : Opnd) : Bool :=
  match v.put d 0 with
  | .ok _ => true
  | .error _ => false

/-- The view after a word is written to a scalar destination that takes it. -/
def View.wrote (v : View) (d : Opnd) (x : W32) : View :=
  match v.put d x with
  | .ok w => w
  | .error _ => v

/-- A vector destination takes a masked write of a vector tagged `t` without a fault. -/
def View.vtakes (v : View) (d : Opnd) (m : BitVec 16) (t : BitVec 6) : Bool :=
  match v.vput d m { tag := t } [] with
  | .ok _ => true
  | .error _ => false

/-- The view after a masked write to a vector destination that takes it. -/
def View.vwrote (v : View) (d : Opnd) (m : BitVec 16) (x : VReg) (paid : List Opnd) : View :=
  match v.vput d m x paid with
  | .ok w => w
  | .error _ => v

/-! ## Accesses -/

/-- The state after a memory instruction of class `cls` of firing `f` that leaves the view `v` and starts the access `j`. -/
def State.accesses (s : State) (f : Firing) (cls : Nat) (v : View) (j : Job) : State :=
  ((s.charge s.tile f.cx.toNat cls 1).writeBack v).startJob s.tile s.slot v.f j

/-- The little-endian number of `n` bytes of a tile's scratch from `a`. -/
def Tile.num (x : Tile) (a n : Nat) : Nat := (List.range n).foldr (fun i r => (x.scratch.get 0 (a + i)).toNat + 256 * r) 0

/-- The state after a memory instruction of `n` halfwords of firing `f` on its tile's own scratch, at timestamp `p`: the
scratch is `m`, and `g` makes the view that the firing goes on with (R193). -/
def State.worked (s : State) (f : Firing) (cls n p : Nat) (m : Map Byte) (g : View → View) : State :=
  let v := s.seen f cls
  s.ran f cls n (g { v with
    t := { v.t with lck := p, scratch := m }
    f := { f with pts := p, job := none, wait := .no } })

/-! ## What stays -/

/-- Beyond tile `t`, its cove's roll-up totals and the energy of its die, nothing differs. -/
def State.localTo (s u : State) (t : Nat) : Prop :=
  u.mem = s.mem ∧ u.cfg = s.cfg ∧ u.net = s.net ∧ u.now = s.now ∧ u.agenda = s.agenda ∧ u.inputs = s.inputs
    ∧ (∀ k, k ≠ t → u.tileAt k = s.tileAt k)
    ∧ (∀ c, { u.coveAt c with flushed := [] } = { s.coveAt c with flushed := [] })
    ∧ { u.hd with gov := [] } = { s.hd with gov := [] }

/-- On tile `t`, the registers and queues that no register instruction touches are the same. -/
def State.tileKept (s u : State) (t k : Nat) : Prop :=
  let a := s.tileAt t
  let b := u.tileAt t
  (∀ j, j ≠ k → b.slots.look j = a.slots.look j)
    ∧ { b with slots := [], astat := 0, meter := [], frames := [], th := [] }
      = { a with slots := [], astat := 0, meter := [], frames := [], th := [] }

/-- Beyond the destination `d` of an instruction of firing `f`, the firing's pc and loops, and the charges, nothing of the machine differs
but the tile's flags. -/
def State.keeps (s u : State) (f : Firing) (d : Opnd) : Prop :=
  let a := s.tileAt s.tile
  let b := u.tileAt s.tile
  s.localTo u s.tile ∧ s.tileKept u s.tile s.slot ∧ b.th = a.th ∧ ((∀ n, d ≠ .f n) → b.frames = a.frames)
    ∧ ∃ g, u.firing s.tile s.slot = some g ∧ { g with pc := f.pc, loops := f.loops, w := f.w, v := f.v, o := f.o, sq := f.sq } = f
      ∧ (∀ n : BitVec 5, d ≠ .w n → g.w.get 0 n.toNat = f.w.get 0 n.toNat)
      ∧ (∀ n : BitVec 4, d ≠ .v n → g.v.get {} n.toNat = f.v.get {} n.toNat)
      ∧ (∀ n : BitVec 2, d ≠ .o n → g.o.get {} n.toNat = f.o.get {} n.toNat) ∧ (d ≠ .sq → g.sq = f.sq)

/-! ## Memory -/

/-- The memories are in canonical form. -/
def State.memOk (s : State) : Prop := Memory.wf s.mem = true

end Sys2Proof.Machine
end

