-- ==== Sys2Proof/Certificates/Slice0/Obligations.lean ====
section
/-! DEFINITION. The statements about the machine. Each names the rule of spec/ that it comes from. `s.ran f c n v` is the state
after an instruction of class EC`c` and `n` halfwords of the firing `f`, which leaves the view `v`; `s.seen f c` is what that
instruction sees. -/

open Sys2Proof Sys2Proof.Machine

/-! ## Encodings -/

/-- The routine of R73's example and three words of the programs of spec/ each decode to the instruction they stand for; the
32-bit opcodes 0xE0 to 0xFF and the compact op5 0x18 to 0x1F are refused by name, and so is a 32-bit instruction without its
second halfword (R58, R65). -/
def Obligations.SampleWordsDecode : Prop :=
  decode [0x4420, 0x8E04] = .ok (.cTget 1 0, 1) ∧ decode [0x8E04, 0x030C] = .ok (.add (.w 4) (.w 1) (.k 3), 2)
    ∧ decode [0x4004] = .ok (.cSend 0 4, 1) ∧ decode [0x8080, 0x0000] = .ok (.endFiring, 2)
    ∧ decode [0x82C8, 0x0018] = .ok (.loop (.k 8) 24, 2) ∧ decode [0xE600, 0x0208] = .ok (.tdec (.w 1) (.w 2), 2)
    ∧ (∀ (h l : BitVec 16) (r : List (BitVec 16)), 0xF000 ≤ h.toNat → decode (h :: l :: r) = .error .opcodeUnassigned)
    ∧ (∀ (h : BitVec 16) (r : List (BitVec 16)), 0x6000 ≤ h.toNat → h.toNat < 0x8000 →
        decode (h :: r) = .error .compactUnassigned)
    ∧ ∀ h : BitVec 16, 0x8000 ≤ h.toNat → decode [h] = .error .routineBounds

/-- Decoding what the encoder makes of any instruction that has an encoding gives that instruction back, with its length. -/
def Obligations.DecodeAfterEncode : Prop :=
  ∀ (i : Instr) (n w : Nat) (rest : List (BitVec 16)), encodeWord i = some (n, w) →
    decode (encode i ++ rest) = .ok (i, n / 16)

/-- No two words stand for one instruction: encoding what the decoder reads gives the halfwords back. -/
def Obligations.EncodeAfterDecode : Prop :=
  ∀ (code : List (BitVec 16)) (i : Instr) (n : Nat), decode code = .ok (i, n) → encode i = code.take n

/-- When the next thing that happens is the issue of an instruction, and the halfwords at the firing's pc decode to an
instruction that its berth may hold, the step is that instruction's meaning, in the state in which the tile's issue of
this fc is taken (R31). A word that the loader rejects is refused by its status, and a pc behind the routine's last
halfword is F_BOUNDS with the routine's start (R28). On a tile without soft errors (log 53). The order in which things happen is the model's (log 1), and the
fc of results is left out (log 2). -/
def Obligations.StepRunsDecoded : Prop :=
  ∀ (s : State) (t k : Nat) (f : Firing), s.choose = .issue t k → (s.beginIssue t k).firing t k = some f → (s.tileAt t).ecc = [] →
    let u := s.beginIssue t k
    let code := (((s.tcfg t).code.drop f.start).take f.len).drop f.pc
    (∀ i n, decode code = .ok (i, n) → i.check (u.wfCtx t f.berth) = none → step s = exec i u)
      ∧ (∀ i n e, decode code = .ok (i, n) → i.check (u.wfCtx t f.berth) = some e → step s = .refused (.loadRejects e.code))
      ∧ (∀ e, code ≠ [] → decode code = .error e → ∃ st : LoadStatus, step s = .refused (.loadRejects st.code))
      ∧ (code = [] → step s = .next (u.takeFault t k f { code := 0x04, tval := BitVec.ofNat 32 f.start }))


/-! ## Scalar results -/

/-- The instructions of two scalar sources: each ends with its firing behind it and its result in its destination (R125, R127,
R129, R133), on every operand that can be read and every destination that takes a word. Products, quotients and shifts are
stated on the integers that the words stand for; a bit field stands at b[4:0], is b[9:5] bits wide, 0 meaning 32, and ends at
bit 31. DIV, DIVU, REM and REMU (R127): the quotient rounds toward zero, the remainder has the sign of the dividend, a zero
divisor gives all ones and the dividend, and the most negative number over -1 gives itself and 0. BFI and AGEN2, which read
their destination before they write it (R129, R133): BFI takes the bits outside the field from the destination and the field
from a; AGEN2 adds the two scaled offsets. -/
def Obligations.ScalarResults : Prop :=
  (∀ (s : State) (f : Firing) (d a b : Opnd) (x y : W32), s.runs f → (s.view f).src a = .ok x → (s.view f).src b = .ok y →
    (s.view f).takes d = true →
    let done (cls : Nat) (r : W32) : Host.Outcome State Fault Refusal := .next (s.ran f cls 2 ((s.seen f cls).wrote d r))
    let pos := y.toNat % 32
    let wide := Nat.min (if y.toNat / 32 % 32 = 0 then 32 else y.toNat / 32 % 32) (32 - pos)
    exec (.add d a b) s = done 1 (x + y) ∧ exec (.sub d a b) s = done 1 (x - y)
      ∧ exec (.mul d a b) s = done 3 (x * y)
      ∧ exec (.mulh d a b) s = done 3 (BitVec.ofInt 32 (x.toInt * y.toInt / 2 ^ 32))
      ∧ exec (.mulhu d a b) s = done 3 (BitVec.ofNat 32 (x.toNat * y.toNat / 2 ^ 32))
      ∧ exec (.and d a b) s = done 1 (x &&& y) ∧ exec (.or d a b) s = done 1 (x ||| y)
      ∧ exec (.xor d a b) s = done 1 (x ^^^ y)
      ∧ exec (.shl d a b) s = done 1 (BitVec.ofNat 32 (x.toNat * 2 ^ (y.toNat % 32)))
      ∧ exec (.shr d a b) s = done 1 (BitVec.ofNat 32 (x.toNat / 2 ^ (y.toNat % 32)))
      ∧ exec (.sra d a b) s = done 1 (BitVec.ofInt 32 (x.toInt / 2 ^ (y.toNat % 32)))
      ∧ exec (.min d a b) s = done 1 (if y.toInt < x.toInt then y else x)
      ∧ exec (.max d a b) s = done 1 (if x.toInt < y.toInt then y else x)
      ∧ exec (.agen d a b) s = done 2 (x + BitVec.ofInt 32 ((y.toNat / 2 ^ 16 : Nat) * (y.setWidth 16).toInt))
      ∧ exec (.bfxu d a b) s = done 1 (BitVec.ofNat 32 (x.toNat / 2 ^ pos % 2 ^ wide))
      ∧ exec (.bfx d a b) s = done 1 (BitVec.ofInt 32 ((BitVec.ofNat wide (x.toNat / 2 ^ pos)).toInt)))
  ∧ (∀ (s : State) (f : Firing) (d a b : Opnd) (x y : W32), s.runs f → (s.view f).src a = .ok x → (s.view f).src b = .ok y →
    (s.view f).takes d = true →
    let done (r : W32) : Host.Outcome State Fault Refusal := .next (s.ran f 4 2 ((s.seen f 4).wrote d r))
    ∃ q r qu ru : W32, exec (.div d a b) s = done q ∧ exec (.rem d a b) s = done r
      ∧ exec (.divu d a b) s = done qu ∧ exec (.remu d a b) s = done ru
      ∧ (y = 0 → q = 0xFFFFFFFF ∧ r = x ∧ qu = 0xFFFFFFFF ∧ ru = x)
      ∧ (x = 0x80000000 → y = 0xFFFFFFFF → q = 0x80000000 ∧ r = 0)
      ∧ (y ≠ 0 → ¬(x = 0x80000000 ∧ y = 0xFFFFFFFF) →
          x.toInt = q.toInt * y.toInt + r.toInt ∧ r.toInt.natAbs < y.toInt.natAbs ∧ (r = 0 ∨ (r.toInt < 0 ↔ x.toInt < 0)))
      ∧ (y ≠ 0 → x.toNat = qu.toNat * y.toNat + ru.toNat ∧ ru.toNat < y.toNat))
  ∧ (∀ (s : State) (f : Firing) (d a b : Opnd) (x y z : W32), s.runs f → (s.view f).src a = .ok x → (s.view f).src b = .ok y →
    (s.view f).src d = .ok z → (s.view f).takes d = true →
    let pos := y.toNat % 32
    let wide := Nat.min (if y.toNat / 32 % 32 = 0 then 32 else y.toNat / 32 % 32) (32 - pos)
    (∃ r : W32, exec (.bfi d a b) s = .next (s.ran f 1 2 ((s.seen f 1).wrote d r)) ∧ ∀ k, k < 32 →
        r.getLsbD k = if pos ≤ k ∧ k < pos + wide then x.getLsbD (k - pos) else z.getLsbD k)
      ∧ exec (.agen2 d a b) s = .next (s.ran f 2 2 ((s.seen f 2).wrote d
          (BitVec.ofNat 32 (x.toNat + y.toNat / 2 ^ 16 * (z.toNat % 2 ^ 24) + y.toNat % 2 ^ 16 * 2 ^ (z.toNat / 2 ^ 24 % 8))))))


/-- R126, R128 and R130 whole: ADDI, SHLI, SHRI and SRAI; CLZ, POPC and BREV; SEL, which reads its destination before it
writes it. With the opcodes, the words, the tile kinds, the classes and the destinations of SEL. -/
def Obligations.ImmediatesCountsAndSelect : Prop :=
  ((∀ (s : State) (f : Firing) (d a : Opnd) (x : W32) (i : BitVec 9) (j : BitVec 5), s.runs f → (s.view f).src a = .ok x →
    (s.view f).takes d = true →
    let done (r : W32) : Host.Outcome State Fault Refusal := .next (s.ran f 1 2 ((s.seen f 1).wrote d r))
    exec (.addi d a i) s = done (BitVec.ofInt 32 (x.toInt + i.toInt))
      ∧ exec (.shli d a j) s = done (BitVec.ofNat 32 (x.toNat * 2 ^ j.toNat))
      ∧ exec (.shri d a j) s = done (BitVec.ofNat 32 (x.toNat / 2 ^ j.toNat))
      ∧ exec (.srai d a j) s = done (BitVec.ofInt 32 (x.toInt / 2 ^ j.toNat)))
  ∧ ∀ (d a : Opnd) (i : BitVec 9) (j : BitVec 5),
    let word (op imm : Nat) : Option (Nat × Nat) :=
      some (32, 2 ^ 31 + op * 2 ^ 23 + d.num * 2 ^ 16 + a.num * 2 ^ 9 + imm)
    encodeWord (.addi d a i) = word 0x1E i.toNat ∧ encodeWord (.shli d a j) = word 0x2C j.toNat
      ∧ encodeWord (.shri d a j) = word 0x2D j.toNat ∧ encodeWord (.srai d a j) = word 0x2E j.toNat
      ∧ (Instr.addi d a i).kinds = .cxm ∧ (Instr.shli d a j).kinds = .cxm ∧ (Instr.shri d a j).kinds = .cxm
      ∧ (Instr.srai d a j).kinds = .cxm)
  ∧ ((∀ (s : State) (f : Firing) (d a : Opnd) (x : W32), s.runs f → (s.view f).src a = .ok x → (s.view f).takes d = true →
    let done (r : W32) : Host.Outcome State Fault Refusal := .next (s.ran f 1 2 ((s.seen f 1).wrote d r))
    (∃ r : W32, exec (.clz d a) s = done r ∧ r.toNat ≤ 32 ∧ (x = 0 → r.toNat = 32)
        ∧ (x ≠ 0 → r.toNat < 32 ∧ x.getLsbD (31 - r.toNat) = true) ∧ ∀ k, k < r.toNat → x.getLsbD (31 - k) = false)
      ∧ exec (.popc d a) s = done (BitVec.ofNat 32 (((List.range 32).filter fun k => x.getLsbD k).length))
      ∧ ∃ r : W32, exec (.brev d a) s = done r ∧ ∀ k, k < 32 → r.getLsbD k = x.getLsbD (31 - k))
  ∧ ∀ d a : Opnd,
    let word (op : Nat) : Option (Nat × Nat) := some (32, 2 ^ 31 + op * 2 ^ 23 + d.num * 2 ^ 16 + a.num * 2 ^ 9)
    encodeWord (.clz d a) = word 0x31 ∧ encodeWord (.popc d a) = word 0x32 ∧ encodeWord (.brev d a) = word 0x33
      ∧ (Instr.clz d a).kinds = .cxm ∧ (Instr.popc d a).kinds = .cxm ∧ (Instr.brev d a).kinds = .cxm)
  ∧ ((∀ (s : State) (f : Firing) (d a b : Opnd) (x y z : W32), s.runs f → (s.view f).src a = .ok x →
    (s.view f).src b = .ok y → (s.view f).src d = .ok z → (s.view f).takes d = true →
    exec (.sel d a b) s = .next (s.ran f 1 2 ((s.seen f 1).wrote d (if z = 0 then y else x))))
  ∧ (∀ d a b : Opnd, encodeWord (.sel d a b) =
      some (32, 2 ^ 31 + 0x37 * 2 ^ 23 + d.num * 2 ^ 16 + a.num * 2 ^ 9 + b.num * 2 ^ 2) ∧ (Instr.sel d a b).kinds = .cxm)
  ∧ ∀ (c : WfCtx) (d a b : Opnd), (Instr.sel d a b).check c = none → c.src d = true)


/-- MOV between scalars, LI and LIH (R131, R132), and TGET of a word of a bound token (R57, R137). The compact register
instructions (R64) are one halfword long and do what the 32-bit ones do on w registers. -/
def Obligations.MovesAndCompacts : Prop :=
  (∀ (s : State) (f : Firing) (d a : Opnd) (x z : W32) (i : BitVec 16) (q : BitVec 2), s.runs f →
    (s.view f).takes d = true →
    ((s.view f).src a = .ok x → isV d = false → isV a = false → ¬(isO d = true ∧ isI a = true) →
        exec (.mov d a q) s = .next (s.ran f 1 2 ((s.seen f 1).wrote d x)))
      ∧ exec (.li d i) s = .next (s.ran f 1 2 ((s.seen f 1).wrote d (BitVec.ofInt 32 i.toInt)))
      ∧ ((s.view f).src d = .ok z → exec (.lih d i) s =
          .next (s.ran f 1 2 ((s.seen f 1).wrote d (BitVec.ofNat 32 (i.toNat * 2 ^ 16 + z.toNat % 2 ^ 16)))))
      ∧ ∀ (n t : BitVec 2) (w : BitVec 5), exec (.tget d (.i n) t w) s =
          .next (s.ran f 12 2 ((s.seen f 12).wrote d ((f.token n.toNat t.toNat).word w.toNat))))
  ∧ (∀ (s : State) (f : Firing) (x y : BitVec 5), s.runs f →
    let X := f.w.get 0 x.toNat
    let Y := f.w.get 0 y.toNat
    let done (r : W32) : Host.Outcome State Fault Refusal := .next (s.ran f 1 1 ((s.seen f 1).wrote (.w x) r))
    exec (.cMov x y) s = done Y ∧ exec (.cLi x y) s = done (BitVec.ofInt 32 y.toInt)
      ∧ exec (.cAdd x y) s = done (X + Y) ∧ exec (.cSub x y) s = done (X - Y)
      ∧ exec (.cAddi x y) s = done (BitVec.ofInt 32 (X.toInt + y.toInt))
      ∧ exec (.cAnd x y) s = done (X &&& Y) ∧ exec (.cOr x y) s = done (X ||| Y) ∧ exec (.cXor x y) s = done (X ^^^ Y)
      ∧ exec (.cShli x y) s = done (BitVec.ofNat 32 (X.toNat * 2 ^ y.toNat))
      ∧ exec (.cShri x y) s = done (BitVec.ofNat 32 (X.toNat / 2 ^ y.toNat))
      ∧ exec (.cTget x y) s = .next (s.ran f 12 1 ((s.seen f 12).wrote (.w x) ((f.token 0 0).word y.toNat)))
      ∧ exec .cNop s = .next (s.ran f 59 1 (s.seen f 59)) ∧ exec .nop s = .next (s.ran f 59 2 (s.seen f 59)))


/-! ## Predicates and masks -/

/-- PCMP, PFCMP and PLOG write a predicate (R120, R121, R123); p0 takes nothing (R101). An F32 comparison with a NaN is false,
and zeros of either sign are equal. The mask compares, MLOG, MPOP and MFIRST (R122 to R124). A compare sets the bits of the
enabled lanes that satisfy it and clears the others. -/
def Obligations.PredicatesAndMasks : Prop :=
  (∀ (s : State) (f : Firing) (p : BitVec 3) (a b : Opnd) (x y : W32), s.runs f → (s.view f).src a = .ok x →
    (s.view f).src b = .ok y →
    let done (cls : Nat) (r : Bool) : Host.Outcome State Fault Refusal := .next (s.ran f cls 2 ((s.seen f cls).setPred p.toNat r))
    exec (.pcmpEq p a b) s = done 5 (decide (x = y)) ∧ exec (.pcmpNe p a b) s = done 5 (decide (x ≠ y))
      ∧ exec (.pcmpLt p a b) s = done 5 (decide (x.toInt < y.toInt))
      ∧ exec (.pcmpLtu p a b) s = done 5 (decide (x.toNat < y.toNat))
      ∧ (isNanF x = true ∨ isNanF y = true → exec (.pfcmpEq p a b) s = done 6 false
          ∧ exec (.pfcmpLt p a b) s = done 6 false ∧ exec (.pfcmpLe p a b) s = done 6 false ∧ exec (.pfcmpUn p a b) s = done 6 true)
      ∧ (isNanF x = false → isNanF y = false → exec (.pfcmpUn p a b) s = done 6 false
          ∧ exec (.pfcmpEq p a b) s = done 6 (decide (x = y) || isZeroF x && isZeroF y)
          ∧ exec (.pfcmpLt p a b) s = done 6 ((unF32 x).lt (unF32 y))
          ∧ exec (.pfcmpLe p a b) s = done 6 ((unF32 x).lt (unF32 y) || (unF32 x).eqv (unF32 y)))
      ∧ ∀ (u v : BitVec 3) (t : BitVec 4), exec (.plog p u v t) s = done 5
          (t.getLsbD (2 * (if (s.view f).pred u.toNat then 1 else 0) + if (s.view f).pred v.toNat then 1 else 0)))
  ∧ (∀ (s : State) (f : Firing) (m : BitVec 2) (a b : Opnd) (x y : VBits) (q : BitVec 2), s.runs f →
    (s.view f).spatial a = .ok x → (s.view f).spatial b = .ok y →
    let bits (g : W32 → W32 → Bool) (r : BitVec 16) : Prop :=
      ∀ l, l < 16 → r.getLsbD l = (((s.view f).mask q.toNat).getLsbD l && g (lane x l) (lane y l))
    let done (r : BitVec 16) : Host.Outcome State Fault Refusal :=
      .next (s.ran f 7 2 (((s.seen f 7).bill [a, b]).setMask m.toNat r))
    (∃ r, exec (.mcmpEq m a b q) s = done r ∧ bits (fun u v => decide (u = v)) r)
      ∧ (∃ r, exec (.mcmpNe m a b q) s = done r ∧ bits (fun u v => decide (u ≠ v)) r)
      ∧ (∃ r, exec (.mcmpLt m a b q) s = done r ∧ bits (fun u v => decide (u.toInt < v.toInt)) r)
      ∧ (∃ r, exec (.mcmpLtu m a b q) s = done r ∧ bits (fun u v => decide (u.toNat < v.toNat)) r)
      ∧ (∃ r, exec (.mfcmpEq m a b q) s = done r ∧ bits FCond.eq.holds r)
      ∧ (∃ r, exec (.mfcmpLt m a b q) s = done r ∧ bits FCond.lt.holds r)
      ∧ (∃ r, exec (.mfcmpLe m a b q) s = done r ∧ bits FCond.le.holds r)
      ∧ (∃ r, exec (.mfcmpUn m a b q) s = done r ∧ bits FCond.un.holds r)
      ∧ (∀ (u v : BitVec 2) (t : BitVec 4), ∃ r : BitVec 16,
          exec (.mlog m u v t) s = .next (s.ran f 7 2 ((s.seen f 7).setMask m.toNat r)) ∧ ∀ l, l < 16 →
            r.getLsbD l = t.getLsbD (2 * (if ((s.view f).mask u.toNat).getLsbD l then 1 else 0)
              + if ((s.view f).mask v.toNat).getLsbD l then 1 else 0))
      ∧ ∀ d : Opnd, (s.view f).takes d = true →
          exec (.mpop d q) s = .next (s.ran f 7 2 ((s.seen f 7).wrote d
            (BitVec.ofNat 32 (((List.range 16).filter fun l => ((s.view f).mask q.toNat).getLsbD l).length))))
          ∧ exec (.mfirst d q) s = .next (s.ran f 7 2 ((s.seen f 7).wrote d
            (BitVec.ofNat 32 (((List.range 16).find? fun l => ((s.view f).mask q.toNat).getLsbD l).getD 16)))))


/-! ## Vectors -/

/-- VBCAST, VEXT, VINS, VPERM, VROTL, TSET and the vector form of MOV (R131, R134, R135, R137): lane numbers are taken modulo
16, VEXT and MOV read stored bits, MOV copies the tag, VINS and TSET write one lane. -/
def Obligations.LaneMoves : Prop :=
  ∀ (s : State) (f : Firing) (d a b : Opnd) (q : BitVec 2) (n : W32) (x y : VBits) (st : VReg), s.runs f →
    let m := (s.view f).mask q.toNat
    let live := decide (m ≠ 0)
    let into (cls : Nat) (l : List Opnd) (r : VBits) : Host.Outcome State Fault Refusal :=
      .next (s.ran f cls 2 (((s.seen f cls).billIf live l).vwrote d m { bits := r } l))
    ((s.view f).lanesOf live a = .ok x → (s.view f).src b = .ok n → (s.view f).vtakes d m 0 = true →
        (∃ r, exec (.vbcast d a b q) s = into 8 [a] r ∧ ∀ l, l < 16 → lane r l = lane x (n.toNat % 16))
        ∧ ∃ r, exec (.vrotl d a b q) s = into 10 [a] r ∧ ∀ l, l < 16 → m.getLsbD l = true →
            lane r l = lane x ((l + n.toNat % 16) % 16))
      ∧ ((s.view f).lanesOf live a = .ok x → (s.view f).lanesOf live b = .ok y → (s.view f).vtakes d m 0 = true →
        ∃ r, exec (.vperm d a b q) s = into 10 [a, b] r ∧ ∀ l, l < 16 → m.getLsbD l = true →
          lane r l = lane x ((lane y l).toNat % 16))
      ∧ ((s.view f).vec a = .ok st → (s.view f).src b = .ok n → (s.view f).takes d = true →
        exec (.vext d a b) s = .next (s.ran f 10 2 ((s.seen f 10).wrote d (lane st.bits (n.toNat % 16)))))
      ∧ (isV d = true ∨ isV a = true ∨ (isO d = true ∧ isI a = true) → (s.view f).vec a = .ok st →
        (s.view f).vtakes d m st.tag = true →
        exec (.mov d a q) s = .next (s.ran f 8 2 ((s.seen f 8).vwrote d m st [])))
      ∧ ∀ z : W32, (s.view f).src a = .ok z →
        ((s.view f).src b = .ok n → (s.view f).vtakes d (BitVec.twoPow 16 (n.toNat % 16)) 0 = true →
          ∃ r, exec (.vins d a b) s = .next (s.ran f 10 2 ((s.seen f 10).vwrote d (BitVec.twoPow 16 (n.toNat % 16)) { bits := r } []))
            ∧ lane r (n.toNat % 16) = z)
        ∧ ∀ w : BitVec 4, (s.view f).vtakes d (BitVec.twoPow 16 w.toNat) 0 = true →
          ∃ r, exec (.tset d a w) s = .next (s.ran f 12 2 ((s.seen f 12).vwrote d (BitVec.twoPow 16 w.toNat) { bits := r } []))
            ∧ lane r w.toNat = z

/-- VRED and VSCAN.ADD (R136): sum, least and greatest enabled lane, what they are when no lane is enabled, and the
running sums. That `a` is read under an empty mask too is the model's reading (log 86). -/
def Obligations.Reductions : Prop :=
  ∀ (s : State) (f : Firing) (d a : Opnd) (q : BitVec 2) (x : VBits), s.runs f →
    let m := (s.view f).mask q.toNat
    let on (l : Nat) : List Nat := (List.range l).filter fun k => m.getLsbD k
    let sum (l : Nat) : W32 := ((on l).map fun k => lane x k).sum
    ((s.view f).spatial a = .ok x → (s.view f).takes d = true →
      let done (r : W32) : Host.Outcome State Fault Refusal := .next (s.ran f 11 2 (((s.seen f 11).bill [a]).wrote d r))
      ∃ lo hi : W32, exec (.vredAdd d a q) s = done (sum 16) ∧ exec (.vredMin d a q) s = done lo
        ∧ exec (.vredMax d a q) s = done hi
        ∧ (on 16 = [] → lo = 0x7FFFFFFF ∧ hi = 0x80000000)
        ∧ (on 16 ≠ [] → (∃ k ∈ on 16, lo = lane x k) ∧ (∃ k ∈ on 16, hi = lane x k)
            ∧ ∀ k ∈ on 16, lo.toInt ≤ (lane x k).toInt ∧ (lane x k).toInt ≤ hi.toInt))
    ∧ ((s.view f).lanesOf (decide (m ≠ 0)) a = .ok x → (s.view f).vtakes d m 0 = true →
      ∃ r, exec (.vscanAdd d a q) s =
          .next (s.ran f 11 2 (((s.seen f 11).billIf (decide (m ≠ 0)) [a]).vwrote d m { bits := r } [a]))
        ∧ ∀ l, l < 16 → m.getLsbD l = true → lane r l = sum (l + 1))

/-- The lane-wise integer instructions and VMAD, which reads its destination (R138, R139): each enabled lane is computed as the scalar instruction computes, and the
result is written under the lane mask with tag 0. VMAD reconstructs d whatever the mask,
the empty one too (R139 before R117: log 88). C.VADD is one halfword long and works on v registers without a mask. -/
def Obligations.VectorIntegerResults : Prop :=
  ∀ (s : State) (f : Firing) (d a b : Opnd) (q : BitVec 2) (x y z : VBits), s.runs f →
    let m := (s.view f).mask q.toNat
    let live := decide (m ≠ 0)
    let lanes (g : W32 → W32 → W32) (r : VBits) : Prop :=
      ∀ l, l < 16 → m.getLsbD l = true → lane r l = g (lane x l) (lane y l)
    let done (cls : Nat) (l : List Opnd) (r : VBits) : Host.Outcome State Fault Refusal :=
      .next (s.ran f cls 2 (((s.seen f cls).billIf live l).vwrote d m { bits := r } l))
    ((s.view f).lanesOf live a = .ok x → (s.view f).lanesOf live b = .ok y → (s.view f).vtakes d m 0 = true →
      (∃ r, exec (.vadd d a b q) s = done 8 [a, b] r ∧ lanes (fun u v => u + v) r)
        ∧ (∃ r, exec (.vsub d a b q) s = done 8 [a, b] r ∧ lanes (fun u v => u - v) r)
        ∧ (∃ r, exec (.vmul d a b q) s = done 9 [a, b] r ∧ lanes (fun u v => u * v) r)
        ∧ (∃ r, exec (.vmulh d a b q) s = done 9 [a, b] r ∧
            lanes (fun u v => BitVec.ofInt 32 (u.toInt * v.toInt / 2 ^ 32)) r)
        ∧ (∃ r, exec (.vand d a b q) s = done 8 [a, b] r ∧ lanes (fun u v => u &&& v) r)
        ∧ (∃ r, exec (.vor d a b q) s = done 8 [a, b] r ∧ lanes (fun u v => u ||| v) r)
        ∧ (∃ r, exec (.vxor d a b q) s = done 8 [a, b] r ∧ lanes (fun u v => u ^^^ v) r)
        ∧ (∃ r, exec (.vshl d a b q) s = done 8 [a, b] r ∧
            lanes (fun u v => BitVec.ofNat 32 (u.toNat * 2 ^ (v.toNat % 32))) r)
        ∧ (∃ r, exec (.vshr d a b q) s = done 8 [a, b] r ∧
            lanes (fun u v => BitVec.ofNat 32 (u.toNat / 2 ^ (v.toNat % 32))) r)
        ∧ (∃ r, exec (.vsra d a b q) s = done 8 [a, b] r ∧
            lanes (fun u v => BitVec.ofInt 32 (u.toInt / 2 ^ (v.toNat % 32))) r)
        ∧ (∃ r, exec (.vmin d a b q) s = done 8 [a, b] r ∧ lanes (fun u v => if v.toInt < u.toInt then v else u) r)
        ∧ (∃ r, exec (.vmax d a b q) s = done 8 [a, b] r ∧ lanes (fun u v => if u.toInt < v.toInt then v else u) r))
    ∧ ((s.view f).lanesOf live a = .ok x → (s.view f).vtakes d m 0 = true →
      (∃ r, exec (.vpopc d a q) s = done 8 [a] r ∧
          lanes (fun u _ => BitVec.ofNat 32 (((List.range 32).filter fun k => u.getLsbD k).length)) r)
        ∧ ∃ r, exec (.vclz d a q) s = done 8 [a] r ∧ ∀ l, l < 16 → m.getLsbD l = true →
            (lane r l).toNat ≤ 32 ∧ (lane x l = 0 → (lane r l).toNat = 32)
              ∧ (lane x l ≠ 0 → (lane r l).toNat < 32 ∧ (lane x l).getLsbD (31 - (lane r l).toNat) = true)
              ∧ ∀ k, k < (lane r l).toNat → (lane x l).getLsbD (31 - k) = false)
    ∧ ((s.view f).lanesOf live a = .ok x → (s.view f).lanesOf live b = .ok y → (s.view f).spatial d = .ok z →
      (s.view f).vtakes d m 0 = true → ∃ r, exec (.vmad d a b q) s =
          .next (s.ran f 9 2 (((s.seen f 9).bill (if m = 0 then [d] else [d, a, b])).vwrote d m { bits := r } [d, a, b]))
        ∧ ∀ l, l < 16 → m.getLsbD l = true → lane r l = lane z l + lane x l * lane y l)
    ∧ ∀ u v : BitVec 4, (s.view f).spatial (.v u) = .ok x → (s.view f).spatial (.v v) = .ok y →
      ∃ r, exec (.cVadd u v) s = .next (s.ran f 8 1 (((s.seen f 8).bill [.v u, .v v]).vwrote (.v u) 0xFFFF { bits := r } [.v u, .v v]))
        ∧ ∀ l, l < 16 → lane r l = lane x l + lane y l

/-- R140: VSEL selects by the mask that q names and writes all lanes; with m0 it copies spatial(a). Its opcode, its tile kind
and its class. -/
def Obligations.VectorSelect : Prop :=
  (∀ (s : State) (f : Firing) (d a b : Opnd) (q : BitVec 2) (x y : VBits), s.runs f →
    (s.view f).spatial a = .ok x → (s.view f).spatial b = .ok y →
    ∃ r, exec (.vsel d a b q) s =
        .next (s.ran f 8 2 (((s.seen f 8).bill [a, b]).vwrote d 0xFFFF { bits := r } [a, b]))
      ∧ (∀ l, l < 16 → lane r l = if ((s.view f).mask q.toNat).getLsbD l then lane x l else lane y l)
      ∧ (q = 0 → r = x))
  ∧ ∀ (d a b : Opnd) (q : BitVec 2), encodeWord (.vsel d a b q) =
      some (32, 2 ^ 31 + 0x55 * 2 ^ 23 + d.num * 2 ^ 16 + a.num * 2 ^ 9 + b.num * 2 ^ 2 + q.toNat)
      ∧ (Instr.vsel d a b q).kinds = .c

/-- VADDS, VSUBS, VPACK and VUNPK (R141, R142) on 8-bit and 16-bit elements: every value is clamped to its element, and
VUNPK sign-extends the half that b names. Element `i` of width `n` of a vector is `vecElem n v i` (R80). -/
def Obligations.PackedResults : Prop :=
  ∀ (s : State) (f : Firing) (d a b : Opnd) (e : BitVec 1) (x y : VBits) (h : W32), s.runs f →
    (s.view f).spatial a = .ok x →
    let n := if e = 0 then 8 else 16
    let clamp (z : Int) : Int := max (-(2 : Int) ^ (n - 1)) (min z (2 ^ (n - 1) - 1))
    let done (cls : Nat) (r : VBits) : Host.Outcome State Fault Refusal :=
      .next (s.ran f cls 2 (((s.seen f cls).bill [a, b]).vwrote d 0xFFFF { bits := r } [a, b]))
    ((s.view f).spatial b = .ok y →
      (∃ r, exec (.vadds d a b e) s = done 8 r ∧ ∀ i, i < 512 / n →
          (vecElem n r i).toInt = clamp ((vecElem n x i).toInt + (vecElem n y i).toInt))
        ∧ (∃ r, exec (.vsubs d a b e) s = done 8 r ∧ ∀ i, i < 512 / n →
          (vecElem n r i).toInt = clamp ((vecElem n x i).toInt - (vecElem n y i).toInt))
        ∧ ∃ r, exec (.vpack d a b e) s = done 10 r ∧ ∀ i, i < 256 / n →
          (vecElem n r i).toInt = clamp (vecElem (2 * n) x i).toInt
            ∧ (vecElem n r (256 / n + i)).toInt = clamp (vecElem (2 * n) y i).toInt)
    ∧ ((s.view f).src b = .ok h →
      ∃ r, exec (.vunpk d a b e) s = .next (s.ran f 10 2 (((s.seen f 10).bill [a]).vwrote d 0xFFFF { bits := r } [a]))
        ∧ ∀ i, i < 256 / n → (vecElem (2 * n) r i).toInt = (vecElem n x (h.toNat % 2 * (256 / n) + i)).toInt)

/-! ## Destinations -/

/-- What a masked write leaves in a v register or a staging payload (R117): nothing changes under an empty mask; disabled
lanes keep their bits when the tags agree or every lane is enabled; else both sides become spatial and the tag 0, or a
tag of more than four levels is F_DOMAIN, the old one first. No other register of the kind changes. -/
def Obligations.MaskedWrite : Prop :=
  ∀ (v : View) (o : Opnd) (m : BitVec 16) (old x : VReg) (paid : List Opnd), isV o = true ∨ isO o = true →
    v.vec o = .ok old →
    (m = 0 → v.vput o m x paid = .ok v)
      ∧ (m ≠ 0 → m = 0xFFFF ∨ old.tag = x.tag → ∃ new : VReg, (v.vwrote o m x paid).vec o = .ok new ∧ new.tag = x.tag
          ∧ ∀ l, l < 16 → lane new.bits l = if m.getLsbD l then lane x.bits l else lane old.bits l)
      ∧ (m ≠ 0 → m ≠ 0xFFFF → old.tag ≠ x.tag → ∀ p r : VBits, old.spatial = .ok p → x.spatial = .ok r →
          ∃ new : VReg, (v.vwrote o m x paid).vec o = .ok new ∧ new.tag = 0
            ∧ ∀ l, l < 16 → lane new.bits l = if m.getLsbD l then lane r l else lane p l)
      ∧ (m ≠ 0 → m ≠ 0xFFFF → old.tag ≠ x.tag → 4 < tagLevel old.tag ∨ 4 < tagLevel x.tag →
          v.vput o m x paid = .error { code := 0x06
                                       tval := if 4 < tagLevel old.tag then old.tag.setWidth 32 else x.tag.setWidth 32 })
      ∧ ∀ k : Opnd, k ≠ o → isV k = true ∨ isO k = true → (v.vwrote o m x paid).vec k = v.vec k

/-- What a scalar source reads and a scalar destination takes (R26, R32, R57, R61, R103, R115): registers, word 0 of a bound
token, the special operands, constants and frame slots. A frame slot beyond the frame is F_BOUNDS and an absent one
F_FRAME_ABSENT, with the slot's number; z and the other special operands take nothing. An operand that cannot be read stops a
register instruction: no destination is written and the firing ends in that fault (R28, R119). Stated for the instructions of
two sources, on either operand. That the sources are read in order, each of them, is the model's reading (logs 84, 85 and 87).
-/
def Obligations.Operands : Prop :=
  ((∀ (s : State) (f : Firing) (n : BitVec 5) (i : BitVec 2) (k : BitVec 4),
    let v := s.view f
    v.src (.w n) = .ok (f.w.get 0 n.toNat) ∧ v.src (.v k) = .ok (lane (f.v.get {} k.toNat).bits 0)
      ∧ v.src (.i i) = .ok (if (f.token i.toNat 0).nflit = 0 then 0 else lane (f.token i.toNat 0).pay 0)
      ∧ v.src (.o i) = .ok (lane (f.o.get {} i.toNat).bits 0) ∧ v.src .z = .ok 0
      ∧ v.src .fp = .ok (BitVec.ofNat 32 f.fp) ∧ v.src .it = .ok (f.itag.setWidth 32) ∧ v.src .sq = .ok (f.sq.setWidth 32)
      ∧ v.src .st = .ok (BitVec.ofNat 32 f.stage) ∧ v.src .cx = .ok (f.cx.setWidth 32)
      ∧ v.src (.k n) = .ok ((s.tcfg s.tile).consts.get 0 n.toNat)
      ∧ (v.frame.size ≤ n.toNat → v.src (.f n) = .error { code := 0x04, tval := n.setWidth 32 })
      ∧ (n.toNat < v.frame.size → v.frame.pres.get false n.toNat = false →
          v.src (.f n) = .error { code := 0x05, tval := n.setWidth 32 })
      ∧ (n.toNat < v.frame.size → v.frame.pres.get false n.toNat = true → v.src (.f n) = .ok (v.frame.slots.get 0 n.toNat)))
  ∧ (∀ (v : View) (x : W32) (n : BitVec 5),
    ((v.wrote (.w n) x).f.w.get 0 n.toNat = x ∧ ∀ k, k ≠ n.toNat → (v.wrote (.w n) x).f.w.get 0 k = v.f.w.get 0 k)
      ∧ v.wrote .sq x = { v with f := { v.f with sq := x.setWidth 16 } }
      ∧ (∀ o ∈ [Opnd.z, .lx, .fp, .it, .xy, .st, .cx, .k n], v.wrote o x = v)
      ∧ (n.toNat < v.frame.size → ∃ u, v.put (.f n) x = .ok u ∧ u.src (.f n) = .ok x ∧ u.f = v.f
          ∧ ∀ k : BitVec 5, k ≠ n → u.src (.f k) = v.src (.f k))
      ∧ (v.frame.size ≤ n.toNat → v.put (.f n) x = .error { code := 0x04, tval := n.setWidth 32 })
      ∧ ∀ k : BitVec 2, (v.f.o.get {} k.toNat).tag = 0 →
          let new := (v.wrote (.o k) x).f.o.get {} k.toNat
          new.tag = 0 ∧ lane new.bits 0 = x ∧ ∀ l, 0 < l → l < 16 → lane new.bits l = lane (v.f.o.get {} k.toNat).bits l))
  ∧ (∀ (s : State) (f : Firing) (d a b : Opnd) (x : W32) (e : Trap), s.runs f →
    ((s.view f).src a = .error e ∨ ((s.view f).src a = .ok x ∧ (s.view f).src b = .error e)) →
    ∀ c ∈ [(Instr.add d a b, 1), (.sub d a b, 1), (.mul d a b, 3), (.mulh d a b, 3), (.mulhu d a b, 3), (.div d a b, 4),
        (.divu d a b, 4), (.rem d a b, 4), (.remu d a b, 4), (.and d a b, 1), (.or d a b, 1), (.xor d a b, 1),
        (.shl d a b, 1), (.shr d a b, 1), (.sra d a b, 1), (.min d a b, 1), (.max d a b, 1), (.bfx d a b, 1),
        (.bfxu d a b, 1), (.bfi d a b, 1), (.sel d a b, 1), (.agen d a b, 2), (.agen2 d a b, 2), (.fadd d a b, 20),
        (.fmul d a b, 20)],
      exec c.1 s = .next (s.trapped f c.2 e))


/-! ## Floating point -/

/-- `r` holds the results of the enabled lanes and `fl` the OR of their flags. -/
def lanesAre (m : BitVec 16) (g : Nat → W32 × Flags) (r : VBits) (fl : Flags) : Prop :=
  (∀ l, l < 16 → m.getLsbD l = true → lane r l = (g l).1)
    ∧ ∀ j, j < 6 → (fl.getLsbD j = true ↔ ∃ l, l < 16 ∧ m.getLsbD l = true ∧ (g l).2.getLsbD j = true)

/-- The rounding of R78 to F32, to nearest: when the result is no infinity, no finite F32 value lies nearer to the exact value
`(-1)^s·m·2^e`, and of two that lie as near the one with an even last bit is taken; NX says exactly that the result differs from
the exact value. The special operands of sums, products, quotients, roots and functions of F32 words (R77, R78, R151, R152):
opposite infinities and 0·∞ give the canonical NaN with NV, a NaN gives the canonical NaN, with NV exactly when one is
signalling; an exact zero sum is −0 only for two −0. -/
def Obligations.RoundingAndSpecials : Prop :=
  (∀ (s : Bool) (m : Nat) (e : Int) (x : W32), m ≠ 0 →
    let value (sx : Bool) (mx : Nat) (ex : Int) : ℚ := (if sx then -1 else 1) * (mx : ℚ) * (2 : ℚ) ^ ex
    let r := roundFin f32 0 s m e
    ∀ (sr : Bool) (mr : Nat) (er : Int) (sx : Bool) (mx : Nat) (ex : Int), unpack f32 r.1 = .fin sr mr er →
      unF32 x = .fin sx mx ex →
      |value sr mr er - value s m e| ≤ |value sx mx ex - value s m e|
        ∧ (|value sr mr er - value s m e| = |value sx mx ex - value s m e| → value sx mx ex ≠ value sr mr er → mr % 2 = 0)
        ∧ (r.2.getLsbD 4 = true ↔ value sr mr er ≠ value s m e))
  ∧ ((∀ x y : W32,
    (unF32 x = .inf false → unF32 y = .inf true → addF x y = (0x7FC00000, fNV))
      ∧ (unF32 x = .inf true → unF32 y = .inf false → addF x y = (0x7FC00000, fNV))
      ∧ (∀ t : Bool, isZeroF x = true → unF32 y = .inf t → mulF x y = (0x7FC00000, fNV) ∧ mulF y x = (0x7FC00000, fNV)
          ∧ ∀ z : W32, isNanF z = false → fmaF z x y = (0x7FC00000, fNV))
      ∧ (isNanF x = true ∨ isNanF y = true → (addF x y).1 = 0x7FC00000 ∧ (subF x y).1 = 0x7FC00000
          ∧ (mulF x y).1 = 0x7FC00000
          ∧ ((addF x y).2 = fNV ↔ unF32 x = .nan true ∨ unF32 y = .nan true)
          ∧ ((mulF x y).2 = fNV ↔ unF32 x = .nan true ∨ unF32 y = .nan true))
      ∧ (isZeroF x = true → isZeroF y = true → addF x y = (if x = 0x80000000 ∧ y = 0x80000000 then 0x80000000 else 0, 0)
          ∧ mulF x y = (if x = y then 0 else 0x80000000, 0))
      ∧ (∀ (t : Bool) (m : Nat) (e : Int), unF32 x = .fin t m e → m ≠ 0 → subF x x = (0, 0)))
  ∧ word32 (divFmt f32 (unF32 0x3F800000) (unF32 0)) = (0x7F800000, fDZ)
  ∧ word32 (divFmt f32 (unF32 0x3F800000) (unF32 0x80000000)) = (0xFF800000, fDZ)
  ∧ word32 (rsqFmt f32 (unF32 0x80000000)) = (0xFF800000, fDZ) ∧ word32 (sqrtFmt f32 (unF32 0x80000000)) = (0x80000000, 0)
  ∧ (∀ x : W32, unF32 x = .nan false → word32 (sqrtFmt f32 (unF32 x)) = (0x7FC00000, 0) ∧ exp2F x = (0x7FC00000, 0)
        ∧ log2F x = (0x7FC00000, 0) ∧ sinPiF x = (0x7FC00000, 0) ∧ tanhF x = (0x7FC00000, 0) ∧ sigF x = (0x7FC00000, 0))
  ∧ (∀ x : W32, unF32 x = .nan true → word32 (sqrtFmt f32 (unF32 x)) = (0x7FC00000, fNV) ∧ exp2F x = (0x7FC00000, fNV)
        ∧ log2F x = (0x7FC00000, fNV) ∧ sinPiF x = (0x7FC00000, fNV) ∧ tanhF x = (0x7FC00000, fNV) ∧ sigF x = (0x7FC00000, fNV))
  ∧ (∀ (x : W32) (m : Nat) (e : Int), unF32 x = .fin true m e → m ≠ 0 →
        word32 (sqrtFmt f32 (unF32 x)) = (0x7FC00000, fNV) ∧ word32 (rsqFmt f32 (unF32 x)) = (0x7FC00000, fNV)
          ∧ log2F x = (0x7FC00000, fNV))
  ∧ exp2F 0xFF800000 = (0, 0) ∧ exp2F 0x7F800000 = (0x7F800000, 0) ∧ log2F 0 = (0xFF800000, fDZ) ∧ log2F 0x3F800000 = (0, 0)
  ∧ sinPiF 0x7F800000 = (0x7FC00000, fNV) ∧ tanhF 0x7F800000 = (0x3F800000, 0) ∧ tanhF 0xFF800000 = (0xBF800000, 0)
  ∧ sigF 0xFF800000 = (0, 0) ∧ sigF 0x7F800000 = (0x3F800000, 0) ∧ sigF 0 = (0x3F000000, 0) ∧ sigF 0x80000000 = (0x3F000000, 0))


/-- VFADD, VFSUB, VFMUL and VFMA where R146 keeps no tag, VFNEG, and the compact forms (R64, R148): each enabled lane is
computed on spatial values with one rounding, its flags are set, and the write has tag 0; VFNEG inverts the sign bits of
the stored lanes and keeps the tag. -/
def Obligations.VectorArithmetic : Prop :=
  ∀ (s : State) (f : Firing) (d a b : Opnd) (q : BitVec 2) (x y z : VBits), s.runs f →
    let m := (s.view f).mask q.toNat
    let live := decide (m ≠ 0)
    let ta := (s.view f).tagOf a
    let tb := (s.view f).tagOf b
    let td := (s.view f).tagOf d
    let does (i : Instr) (cls n : Nat) (l : List Opnd) (g : Nat → W32 × Flags) : Prop :=
      ∃ r fl, exec i s = .next (s.ran f cls n ((((s.seen f cls).billIf live l).flag fl).vwrote d m { bits := r } l))
        ∧ lanesAre m g r fl
    let short (u v : BitVec 4) : Prop := d = .v u ∧ a = .v u ∧ b = .v v ∧ q = 0
    ((s.view f).valueOf live a = .ok x → (s.view f).valueOf live b = .ok y → (s.view f).vtakes d m 0 = true →
      (¬(ta ≠ 0 ∧ (ta = tb ∨ isBroadcast b = true)) → ¬(tb ≠ 0 ∧ isBroadcast a = true) →
        does (.vfadd d a b q) 14 2 [a, b] (fun l => addF (lane x l) (lane y l))
          ∧ does (.vfsub d a b q) 14 2 [a, b] (fun l => subF (lane x l) (lane y l))
          ∧ ∀ u v, short u v → does (.cVfadd u v) 14 1 [a, b] (fun l => addF (lane x l) (lane y l)))
      ∧ (¬(ta ≠ 0 ∧ isBroadcast b = true) → ¬(tb ≠ 0 ∧ isBroadcast a = true) →
        does (.vfmul d a b q) 14 2 [a, b] (fun l => mulF (lane x l) (lane y l))
          ∧ ∀ u v, short u v → does (.cVfmul u v) 14 1 [a, b] (fun l => mulF (lane x l) (lane y l)))
      ∧ ((s.view f).valueOf live d = .ok z →
        ¬(td ≠ 0 ∧ ((ta = td ∧ isBroadcast b = true) ∨ (tb = td ∧ isBroadcast a = true)
          ∨ (isBroadcast a = true ∧ isBroadcast b = true))) →
        does (.vfma d a b q) 15 2 [d, a, b] (fun l => fmaF (lane z l) (lane x l) (lane y l))
          ∧ ∀ u v, short u v → does (.cVfma u v) 15 1 [d, a, b] (fun l => fmaF (lane z l) (lane x l) (lane y l))))
    ∧ ∀ u : VReg, (s.view f).vec a = .ok u → tagLevel u.tag ≤ 4 → (s.view f).vtakes d m u.tag = true →
      ∃ r, exec (.vfneg d a q) s = .next (s.ran f 13 2 ((s.seen f 13).vwrote d m { bits := r, tag := u.tag } []))
        ∧ ∀ l, l < 16 → lane r l = lane u.bits l ^^^ 0x80000000

/-- Where VFADD, VFSUB, VFMUL, VFMA and the compact forms keep a Haar tag (R146): the coefficients are computed as they
stand, and with a broadcast addend only the approximation lanes, while detail lanes take the Haar operand's bits and set no
flag. The lanes that the mask disables are computed too, without flags, because a masked write may reconstruct the result (R117). -/
def Obligations.HaarArithmetic : Prop :=
  ∀ (s : State) (f : Firing) (d a b : Opnd) (q : BitVec 2) (u v w : VReg), s.runs f →
    let m := (s.view f).mask q.toNat
    (s.view f).vec a = .ok u → (s.view f).vec b = .ok v → (s.view f).vec d = .ok w →
    tagLevel u.tag ≤ 4 → tagLevel v.tag ≤ 4 → tagLevel w.tag ≤ 4 →
    let keeps (i : Instr) (cls n : Nat) (t : BitVec 6) (g : Nat → W32 × Flags) : Prop := ∃ r fl,
      exec i s = .next (s.ran f cls n (((s.seen f cls).flag fl).vwrote d m { bits := r, tag := t } [])) ∧ lanesAre m g r fl
        ∧ ∀ l, l < 16 → lane r l = (g l).1
    let coarse (x : VReg) (g : W32 × Flags) (l : Nat) (detail : W32) : W32 × Flags :=
      if l % 2 ^ tagLevel x.tag = 0 then g else (detail, 0)
    let add (l : Nat) : W32 × Flags := addF (lane u.bits l) (lane v.bits l)
    let sub (l : Nat) : W32 × Flags := subF (lane u.bits l) (lane v.bits l)
    let mul (l : Nat) : W32 × Flags := mulF (lane u.bits l) (lane v.bits l)
    let fma (l : Nat) : W32 × Flags := fmaF (lane w.bits l) (lane u.bits l) (lane v.bits l)
    let short (j k : BitVec 4) : Prop := d = .v j ∧ a = .v j ∧ b = .v k ∧ q = 0
    (u.tag ≠ 0 → v.tag = u.tag → (s.view f).vtakes d m u.tag = true →
        keeps (.vfadd d a b q) 14 2 u.tag add ∧ keeps (.vfsub d a b q) 14 2 u.tag sub
          ∧ ∀ j k, short j k → keeps (.cVfadd j k) 14 1 u.tag add)
      ∧ (u.tag ≠ 0 → isBroadcast b = true → (s.view f).vtakes d m u.tag = true →
        keeps (.vfadd d a b q) 14 2 u.tag (fun l => coarse u (add l) l (lane u.bits l))
          ∧ keeps (.vfsub d a b q) 14 2 u.tag (fun l => coarse u (sub l) l (lane u.bits l))
          ∧ keeps (.vfmul d a b q) 14 2 u.tag mul)
      ∧ (v.tag ≠ 0 → isBroadcast a = true → (s.view f).vtakes d m v.tag = true →
        keeps (.vfadd d a b q) 14 2 v.tag (fun l => coarse v (add l) l (lane v.bits l))
          ∧ keeps (.vfsub d a b q) 14 2 v.tag (fun l => coarse v (sub l) l (lane v.bits l ^^^ 0x80000000))
          ∧ keeps (.vfmul d a b q) 14 2 v.tag mul)
      ∧ (w.tag ≠ 0 → (u.tag = w.tag ∧ isBroadcast b = true) ∨ (v.tag = w.tag ∧ isBroadcast a = true) →
        (s.view f).vtakes d m w.tag = true → keeps (.vfma d a b q) 15 2 w.tag fma)
      ∧ (w.tag ≠ 0 → isBroadcast a = true → isBroadcast b = true → (s.view f).vtakes d m w.tag = true →
        keeps (.vfma d a b q) 15 2 w.tag (fun l => coarse w (fma l) l (lane w.bits l)))

/-- The lane-wise instructions that always read spatial values and write tag 0 (R149 to R152, R154, R155): minimum, maximum,
clamp, absolute value, the correctly rounded functions, VFRND in the mode of b, VHMUL and VHFMA on H16 halves, VBFMA on B16
pairs. VFDIV, VFSQRT and VFRSQ of finite operands are the exact value rounded once (R151): no F32 value lies nearer to it than
the result's. -/
def Obligations.VectorFunctions : Prop :=
  (∀ (s : State) (f : Firing) (d a b : Opnd) (q : BitVec 2) (x y z : VBits) (n : W32), s.runs f →
    let m := (s.view f).mask q.toNat
    let live := decide (m ≠ 0)
    let done (cls : Nat) (l : List Opnd) (r : VBits) (fl : Flags) : Host.Outcome State Fault Refusal :=
      .next (s.ran f cls 2 ((((s.seen f cls).billIf live l).flag fl).vwrote d m { bits := r } l))
    let runs1 (i : Instr) (cls : Nat) (g : W32 → W32 × Flags) : Prop :=
      ∃ r fl, exec i s = done cls [a] r fl ∧ lanesAre m (fun l => g (lane x l)) r fl
    let runs2 (i : Instr) (cls : Nat) (g : W32 → W32 → W32 × Flags) : Prop :=
      ∃ r fl, exec i s = done cls [a, b] r fl ∧ lanesAre m (fun l => g (lane x l) (lane y l)) r fl
    let runs3 (i : Instr) (cls : Nat) (g : W32 → W32 → W32 → W32 × Flags) : Prop :=
      ∃ r fl, exec i s = done cls [d, a, b] r fl ∧ lanesAre m (fun l => g (lane z l) (lane x l) (lane y l)) r fl
    (s.view f).valueOf live a = .ok x → (s.view f).vtakes d m 0 = true →
    runs1 (.vfabs d a q) 13 (fun u => (u &&& 0x7FFFFFFF, 0))
      ∧ runs1 (.vfrcp d a q) 17 (fun u => word32 (divFmt f32 (unF32 0x3F800000) (unF32 u)))
      ∧ runs1 (.vfrsq d a q) 17 (fun u => word32 (rsqFmt f32 (unF32 u)))
      ∧ runs1 (.vfsqrt d a q) 17 (fun u => word32 (sqrtFmt f32 (unF32 u)))
      ∧ runs1 (.vfexp2 d a q) 19 exp2F ∧ runs1 (.vflog2 d a q) 19 log2F ∧ runs1 (.vfsin d a q) 19 sinPiF
      ∧ runs1 (.vftanh d a q) 19 tanhF ∧ runs1 (.vfsig d a q) 19 sigF
      ∧ ((s.view f).src b = .ok n → runs1 (.vfrnd d a b q) 14 (rndF (n.toNat % 4)))
      ∧ ((s.view f).valueOf live b = .ok y →
        runs2 (.vfmin d a b q) 13 minF ∧ runs2 (.vfmax d a b q) 13 maxF
          ∧ runs2 (.vfdiv d a b q) 18 (fun u v => word32 (divFmt f32 (unF32 u) (unF32 v)))
          ∧ runs2 (.vhmul d a b q) 16 (fun u v => onHalves fun k => mulFmt h16 0 (halfOf h16 u k) (halfOf h16 v k))
          ∧ ((s.view f).valueOf live d = .ok z →
            runs3 (.vfclmp d a b q) 13 (fun w u v => ((minF (maxF w u).1 v).1, (maxF w u).2 ||| (minF (maxF w u).1 v).2))
              ∧ runs3 (.vhfma d a b q) 16 (fun w u v =>
          onHalves fun k => dotTerms h16 (halfOf h16 w k) [(halfOf h16 u k, halfOf h16 v k)])
              ∧ runs3 (.vbfma d a b q) 16 (fun w u v =>
          word32 (dotTerms f32 (unF32 w) [(halfOf b16 u 0, halfOf b16 v 0), (halfOf b16 u 1, halfOf b16 v 1)])))))
  ∧ (∀ (x y r u : W32) (sx sy sr su : Bool) (mx my mr mu : Nat) (ex ey er eu : Int),
    unF32 x = .fin sx mx ex → unF32 y = .fin sy my ey → unF32 u = .fin su mu eu → mx ≠ 0 → my ≠ 0 → unF32 r = .fin sr mr er →
    let value (s : Bool) (m : Nat) (e : Int) : ℝ := (if s then -1 else 1) * (m : ℝ) * (2 : ℝ) ^ e
    let nearest (exact : ℝ) : Prop := |value sr mr er - exact| ≤ |value su mu eu - exact|
    ((word32 (divFmt f32 (unF32 x) (unF32 y))).1 = r → nearest (value sx mx ex / value sy my ey))
      ∧ (sx = false → (word32 (sqrtFmt f32 (unF32 x))).1 = r → nearest (Real.sqrt (value sx mx ex)))
      ∧ (sx = false → (word32 (rsqFmt f32 (unF32 x))).1 = r → nearest (1 / Real.sqrt (value sx mx ex))))


/-- R153: VFLRP rounds b − a, then d·g + a once more, on the spatial values of its three sources; its opcode and the
destinations it refuses. -/
def Obligations.VectorInterpolate : Prop :=
  (∀ (s : State) (f : Firing) (d a b : Opnd) (q : BitVec 2) (x y z : VBits), s.runs f →
    let m := (s.view f).mask q.toNat
    let live := decide (m ≠ 0)
    (s.view f).valueOf live d = .ok z → (s.view f).valueOf live a = .ok x → (s.view f).valueOf live b = .ok y →
    (s.view f).vtakes d m 0 = true →
    ∃ r fl, exec (.vflrp d a b q) s =
        .next (s.ran f 15 2 ((((s.seen f 15).billIf live [d, a, b]).flag fl).vwrote d m { bits := r } [d, a, b]))
      ∧ lanesAre m (fun l =>
          let g := subF (lane y l) (lane x l)
          let t := fmaF (lane x l) (lane z l) g.1
          (t.1, g.2 ||| t.2)) r fl)
  ∧ ∀ (c : WfCtx) (d a b : Opnd) (q : BitVec 2),
    encodeWord (.vflrp d a b q) = some (32, 2 ^ 31 + 0x6F * 2 ^ 23 + d.num * 2 ^ 16 + a.num * 2 ^ 9 + b.num * 2 ^ 2 + q.toNat)
      ∧ ((Instr.vflrp d a b q).check c = none → isO d = false)

/-- FADD, FMUL and FFMA (R156), and the scalar forms of the conversions (R157, R158). -/
def Obligations.ScalarFloatResults : Prop :=
  ∀ (s : State) (f : Firing) (d a b : Opnd) (x y z : W32) (r : BitVec 2), s.runs f → (s.view f).src a = .ok x →
    (s.view f).takes d = true →
    let done (cls : Nat) (p : W32 × Flags) : Host.Outcome State Fault Refusal :=
      .next (s.ran f cls 2 (((s.seen f cls).flag p.2).wrote d p.1))
    ((s.view f).src b = .ok y →
      exec (.fadd d a b) s = done 20 (addF x y) ∧ exec (.fmul d a b) s = done 20 (mulF x y)
        ∧ ((s.view f).src d = .ok z → exec (.ffma d a b) s = done 20 (fmaF z x y)))
    ∧ (isV d = false → isV a = false → ¬(isO d = true ∧ isI a = true) →
      exec (.cvtF2i d a r) s = done 21 (f2i r.toNat x) ∧ exec (.cvtI2f d a r) s = done 21 (i2f r.toNat x.toInt)
        ∧ ((s.view f).src b = .ok y →
          exec (.cvtF2h d a b r) s = done 21 (narrowPair h16 r.toNat x y)
            ∧ exec (.cvtF2b d a b r) s = done 21 (narrowPair b16 r.toNat x y)
            ∧ exec (.cvtH2f d a b r) s = done 21 (widenF h16 (x.toNat / 2 ^ (16 * (y.toNat % 2)) % 2 ^ 16))
            ∧ exec (.cvtB2f d a b r) s = done 21 (widenF b16 (x.toNat / 2 ^ (16 * (y.toNat % 2)) % 2 ^ 16))))

/-- The vector forms of the conversions, and CVT.F2Q and CVT.Q2F, which have no other (R157 to R159): all 16 lanes are
written; an error block marks the firing. -/
def Obligations.VectorConversions : Prop :=
  ∀ (s : State) (f : Firing) (d a b : Opnd) (x y : VBits) (n : W32) (r : BitVec 2), s.runs f →
    (s.view f).valueOf true a = .ok x →
    let done (cls : Nat) (v : View) (l : List Opnd) (w : VBits) (fl : Flags) : Host.Outcome State Fault Refusal :=
      .next (s.ran f cls 2 (((v.bill l).flag fl).vwrote d 0xFFFF { bits := w } l))
    (isV d = true ∨ isV a = true ∨ (isO d = true ∧ isI a = true) →
      (∃ w fl, exec (.cvtF2i d a r) s = done 21 (s.seen f 21) [a] w fl ∧ lanesAre 0xFFFF (fun l => f2i r.toNat (lane x l)) w fl)
        ∧ (∃ w fl, exec (.cvtI2f d a r) s = done 21 (s.seen f 21) [a] w fl
          ∧ lanesAre 0xFFFF (fun l => i2f r.toNat (lane x l).toInt) w fl)
        ∧ ((s.view f).valueOf true b = .ok y →
          (∃ w fl, exec (.cvtF2h d a b r) s = done 21 (s.seen f 21) [a, b] w fl
            ∧ lanesAre 0xFFFF (fun l => narrowPair h16 r.toNat (lane x l) (lane y l)) w fl)
          ∧ ∃ w fl, exec (.cvtF2b d a b r) s = done 21 (s.seen f 21) [a, b] w fl
            ∧ lanesAre 0xFFFF (fun l => narrowPair b16 r.toNat (lane x l) (lane y l)) w fl)
        ∧ ((s.view f).src b = .ok n →
          (∃ w fl, exec (.cvtH2f d a b r) s = done 21 (s.seen f 21) [a] w fl
            ∧ lanesAre 0xFFFF (fun l => widenF h16 ((lane x l).toNat / 2 ^ (16 * (n.toNat % 2)) % 2 ^ 16)) w fl)
          ∧ ∃ w fl, exec (.cvtB2f d a b r) s = done 21 (s.seen f 21) [a] w fl
            ∧ lanesAre 0xFFFF (fun l => widenF b16 ((lane x l).toNat / 2 ^ (16 * (n.toNat % 2)) % 2 ^ 16)) w fl))
    ∧ ((s.view f).src b = .ok n →
      (n.toNat % 4 = 3 → exec (.cvtF2q d a b) s = done 22 (s.seen f 22) [a] 255 fNV)
        ∧ (n.toNat % 4 ≠ 3 → exec (.cvtF2q d a b) s = done 22 (s.seen f 22) [a]
            (BitVec.ofNat 512 (qEncode (n.toNat % 4) ((List.range 16).map (lane x))).1)
            (qEncode (n.toNat % 4) ((List.range 16).map (lane x))).2)
        ∧ ((n.toNat % 4 = 3 ∨ x.toNat % 256 = 255) → exec (.cvtQ2f d a b) s =
            .next (s.ran f 22 2 (let v := (s.seen f 22).bill [a]
              { v with f := { v.f with err := true } }.vwrote d 0xFFFF { bits := 0 } [a])))
        ∧ (n.toNat % 4 ≠ 3 → x.toNat % 256 ≠ 255 → ∃ w, exec (.cvtQ2f d a b) s = done 22 (s.seen f 22) [a] w 0
            ∧ ∀ l, l < 16 → lane w l = (qDecode (n.toNat % 4) x.toNat).1.getD l 0))

/-- Integer conversion (R79): in range, CVT.F2I gives the integer nearest in the mode's sense; beyond it the nearest limit with
NV; a NaN gives 0 with NV. -/
def Obligations.FloatToInteger : Prop :=
  ∀ (x : W32) (mode : Nat), mode < 4 →
    (isNanF x = true → f2i mode x = (0, fNV))
      ∧ (∀ t : Bool, unF32 x = .inf t → f2i mode x = (if t then 0x80000000 else 0x7FFFFFFF, fNV))
      ∧ ∀ (t : Bool) (m : Nat) (e : Int), unF32 x = .fin t m e →
          let v : ℚ := (if t then -1 else 1) * (m : ℚ) * (2 : ℚ) ^ e
          let i : Int := match mode with
            | 0 => if Int.fract v = 1 / 2 then (if ⌊v⌋ % 2 = 0 then ⌊v⌋ else ⌈v⌉) else ⌊v + 1 / 2⌋
            | 1 => if v < 0 then ⌈v⌉ else ⌊v⌋
            | 2 => ⌊v⌋
            | _ => ⌈v⌉
          f2i mode x = if i < -2147483648 then (0x80000000, fNV) else if 2147483647 < i then (0x7FFFFFFF, fNV)
            else (BitVec.ofInt 32 i, if (i : ℚ) = v then 0 else fNX)

/-! ## The Haar group and raster arithmetic -/

/-- HFWD, HINV, HTHR, HPACK, HUNPK, HTAG, HQRY and HSETT (R160 to R164). A target tag of no level or of more than four is
F_DOMAIN where the rules say so. -/
def Obligations.HaarGroup : Prop :=
  ∀ (s : State) (f : Firing) (d a b : Opnd) (u : VReg) (x : VBits) (n z : W32), s.runs f → (s.view f).vec a = .ok u →
    (s.view f).src b = .ok n →
    let t : BitVec 6 := n.extractLsb' 0 6
    let h : BitVec 6 := n.extractLsb' 16 6
    let put (cls : Nat) (v : View) (r : VBits) (t : BitVec 6) (l : List Opnd) : Host.Outcome State Fault Refusal :=
      .next (s.ran f cls 2 (v.vwrote d 0xFFFF { bits := r, tag := t } l))
    ((s.view f).valueOf true a = .ok x →
      (1 ≤ tagLevel t → tagLevel t ≤ 4 → ∃ r fl, onSegments (tagLevel t) (haarFwd (tagLevel t)) x = (r, fl)
          ∧ exec (.hfwd d a b) s = put 23 { ((s.seen f 23).bill [a]).flag fl with
              extra := (((s.seen f 23).bill [a]).flag fl).extra ++ [(23, tagLevel t - 1)] } r t [a])
        ∧ (tagLevel t = 0 ∨ 4 < tagLevel t → exec (.hfwd d a b) s = .next (s.trapped f 23 { code := 0x06, tval := t.setWidth 32 })))
    ∧ (u.tag = 0 → exec (.hinv d a) s = put 23 { s.seen f 23 with extra := [(23, 0)] } u.bits 0 [a]
        ∧ exec (.hthr d a b) s = put 24 (s.seen f 24) u.bits 0 [])
    ∧ (u.tag ≠ 0 → tagLevel u.tag ≤ 4 →
        exec (.hinv d a) s = put 23 { (s.seen f 23).flag (reconstruct u.bits u.tag).2 with extra := [(23, tagLevel u.tag - 1)] }
            (reconstruct u.bits u.tag).1 0 [a]
          ∧ ∃ r, exec (.hthr d a b) s = put 24 (s.seen f 24) r u.tag [] ∧ ∀ l, l < 16 →
            let c := lane u.bits (l - l % 2 ^ tagLevel u.tag)
            let th := (s.tileAt s.tile).th.get 0 (n.toNat % 8)
            lane r l = if l % 2 ^ tagLevel u.tag = 0
                ∨ survives th (absF c) (absF (lane u.bits l)) (isNanF (lane u.bits l)) = true then lane u.bits l else 0)
    ∧ (4 < tagLevel u.tag → exec (.hinv d a) s = .next (s.trapped f 23 { code := 0x06, tval := u.tag.setWidth 32 })
        ∧ exec (.hthr d a b) s = .next (s.trapped f 24 { code := 0x06, tval := u.tag.setWidth 32 }))
    ∧ (∃ r, exec (.hpack d a b) s = put 24 (s.seen f 24) r 0 []
        ∧ (∀ k, k < 16 → ((List.range 16).filter fun j => n.getLsbD j).length ≤ k → lane r k = 0)
        ∧ ∀ l, l < 16 → n.getLsbD l = true →
          lane r ((List.range l).filter fun k => n.getLsbD k).length = lane u.bits l)
    ∧ (tagLevel h ≤ 4 → ∃ r, exec (.hunpk d a b) s = put 24 (s.seen f 24) r (if tagLevel h = 0 then 0 else h) []
        ∧ ∀ l, l < 16 → lane r l =
            if n.getLsbD l then lane u.bits ((List.range l).filter fun k => n.getLsbD k).length else 0)
    ∧ (4 < tagLevel h → exec (.hunpk d a b) s = .next (s.trapped f 24 { code := 0x06, tval := h.setWidth 32 }))
    ∧ (tagLevel t ≤ 4 → exec (.htag d a b) s = put 25 (s.seen f 25) u.bits (if tagLevel t = 0 then 0 else t) [])
    ∧ (4 < tagLevel t → exec (.htag d a b) s = .next (s.trapped f 25 { code := 0x06, tval := t.setWidth 32 }))
    ∧ ((s.view f).takes d = true →
      (∃ r : W32, exec (.hqry d a) s = .next (s.ran f 25 2 ((s.seen f 25).wrote d r))
        ∧ r.extractLsb' 16 6 = u.tag ∧ r.extractLsb' 22 10 = 0 ∧ ∀ l, l < 16 → (r.getLsbD l = true ↔
            (1 ≤ tagLevel u.tag ∧ tagLevel u.tag ≤ 4 ∧ l % 2 ^ tagLevel u.tag = 0) ∨ isZeroF (lane u.bits l) = false))
      ∧ ((s.view f).src a = .ok z →
        exec (.hsett d a b) s = .next (s.ran f 25 2 (
          let v := (s.seen f 25).wrote d ((s.tileAt s.tile).th.get 0 (n.toNat % 8))
          { v with t := { v.t with th := v.t.th.set 0 (n.toNat % 8) z } }))))

/-- EDGE and ATTR (R165, R166). A lane is covered when the exact sum of its three edge functions is above zero and each is above
zero, or zero on a top or left edge; the coordinates are E1/S and E2/S, zero where S is not above zero. -/
def Obligations.RasterResults : Prop :=
  ∀ (s : State) (f : Firing), s.runs f →
    (∀ (d : BitVec 3) (a b : Opnd) (q : BitVec 2) (c : VReg) (o : W32), (s.view f).vec a = .ok c → (s.view f).src b = .ok o →
      let co (k : Nat) : Int := (lane c.bits k).toInt
      let X (l : Nat) : Int := 256 * ((o.toNat % 2 ^ 16 + l % 4 : Nat) : Int) + 128
      let Y (l : Nat) : Int := 256 * ((o.toNat / 2 ^ 16 + l / 4 : Nat) : Int) + 128
      let E (k l : Nat) : Int := co (3 * k) * X l + co (3 * k + 1) * Y l + co (3 * k + 2)
      let S (l : Nat) : Int := E 0 l + E 1 l + E 2 l
      let dst (k : Nat) : Opnd := .v (BitVec.ofNat 4 (2 * d.toNat + k))
      let part (k l : Nat) : W32 × Flags :=
        if S l ≤ 0 then (0, 0) else word32 (divRound f32 0 (decide (E k l < 0)) (E k l).natAbs (S l).natAbs 0)
      ∃ (r1 r2 : VBits) (fl1 fl2 : Flags) (m : BitVec 16),
        exec (.edge d a b q) s = .next (s.ran f 26 2 (((((s.seen f 26).flag (fl1 ||| fl2)).vwrote (dst 0) 0xFFFF
            { bits := r1 } []).vwrote (dst 1) 0xFFFF { bits := r2 } []).setMask q.toNat m))
          ∧ lanesAre 0xFFFF (part 1) r1 fl1 ∧ lanesAre 0xFFFF (part 2) r2 fl2
          ∧ ∀ l, l < 16 → (m.getLsbD l = true ↔ 0 < S l ∧ ∀ k, k < 3 → 0 < E k l
              ∨ (E k l = 0 ∧ (0 < co (3 * k) ∨ (co (3 * k) = 0 ∧ 0 < co (3 * k + 1))))))
    ∧ ∀ (d : Opnd) (a : BitVec 3) (b : Opnd) (q : BitVec 2) (l1 l2 x : VBits),
      let m := (s.view f).mask q.toNat
      let live := decide (m ≠ 0)
      let src (k : Nat) : Opnd := .v (BitVec.ofNat 4 (2 * a.toNat + k))
      (s.view f).valueOf live (src 0) = .ok l1 → (s.view f).valueOf live (src 1) = .ok l2 → (s.view f).valueOf live b = .ok x →
      (s.view f).vtakes d m 0 = true →
      let g1 := subF (lane x 1) (lane x 0)
      let g2 := subF (lane x 2) (lane x 0)
      ∃ r fl, exec (.attr d a b q) s =
          .next (s.ran f 27 2 ((((s.seen f 27).billIf live [src 0, src 1, b]).flag fl).vwrote d m { bits := r } [src 0, src 1, b]))
        ∧ lanesAre m (fun l =>
            let t := word32 (dotTerms f32 (unF32 (lane x 0)) [(unF32 (lane l1 l), unF32 g1.1), (unF32 (lane l2 l), unF32 g2.1)])
            (t.1, g1.2 ||| g2.2 ||| t.2)) r fl

/-! ## Control of a firing -/

/-- BR, SWITCH and the loops (R284 to R286), with C.BR and C.LOOPI. A taken branch ends the loops whose bodies do not hold its
target, with all nested in them; a loop of count 0 skips its body; an instruction that is no taken branch goes back to the
start of a loop that has passes left. Nothing else of the firing changes. -/
def Obligations.BranchesAndLoops : Prop :=
  (∀ (s : State) (f : Firing), s.runs f →
    let leaves (i : Instr) (g : Firing) : Prop := exec i s = .next (s.jumped f 59 { s.seen f 59 with f := g })
    let to_ (g : Firing) (pc : Nat) : Prop := g = { f with pc := pc, loops := g.loops } ∧ g.loops <:+ f.loops
      ∧ (∀ l ∈ g.loops, l.start ≤ pc ∧ pc < l.endp)
      ∧ ∀ t, t <:+ f.loops → (∀ l ∈ t, l.start ≤ pc ∧ pc < l.endp) → t.length ≤ g.loops.length
    let enter (i : Instr) (n count len : Nat) : Prop :=
      (count ≠ 0 → leaves i { f with pc := f.pc + n, loops := ⟨f.pc + n, f.pc + n + len, count⟩ :: f.loops })
        ∧ (count = 0 → leaves i (f.advance (n + len)))
    (∀ (p : BitVec 3) (n : BitVec 1) (o : BitVec 19) (o2 : BitVec 6),
        ((s.view f).pred p.toNat ≠ decide (n = 1) →
          (∃ g, leaves (.br p n o) g ∧ to_ g ((f.pc : Int) + o.toInt).toNat)
            ∧ ∃ g, leaves (.cBr p n o2) g ∧ to_ g ((f.pc : Int) + o2.toInt).toNat)
        ∧ ((s.view f).pred p.toNat = decide (n = 1) →
          leaves (.br p n o) (f.advance 2) ∧ leaves (.cBr p n o2) (f.advance 1)))
      ∧ (∀ (c : Opnd) (x : W32) (l : BitVec 16), (s.view f).src c = .ok x → enter (.loop c l) 2 x.toNat l.toNat)
      ∧ (∀ (n : BitVec 11) (l : BitVec 12), enter (.loopi n l) 2 n.toNat l.toNat)
      ∧ (∀ n l : BitVec 5, enter (.cLoopi n l) 1 n.toNat l.toNat)
      ∧ ∀ (a b : Opnd) (x y : W32), (s.view f).src a = .ok x → (s.view f).src b = .ok y →
        let tgt := f.pc + 2 + 2 * Nat.min x.toNat (y.toNat % 256)
        let isWord := wordAt (f.len + 1) (((s.tcfg s.tile).code.drop f.start).take f.len) 0 tgt
        (isWord = true → ∃ g, leaves (.switch a b) g ∧ to_ g tgt)
          ∧ (isWord = false →
            exec (.switch a b) s = .next (s.trapped f 59 { code := 0x04, tval := BitVec.ofNat 32 tgt })))
  ∧ ∀ (f : Firing) (n : Nat), let g := f.advance n
    g = { f with pc := g.pc, loops := g.loops } ∧ g.loops.length ≤ f.loops.length
      ∧ ((g.pc = f.pc + n ∧ g.loops <:+ f.loops)
        ∨ ∃ l r, l :: r <:+ f.loops ∧ l.endp = f.pc + n ∧ 1 < l.remaining ∧ g.pc = l.start
            ∧ g.loops = { l with remaining := l.remaining - 1 } :: r)

/-- END, ENDF, C.END and YIELD (R28, R36, R282, R283): the slot is free; END and ENDF consume the bound tokens of the berth,
and ENDF frees a tagged actor's frame, which END keeps; YIELD discards what was staged, leaves the berth's tokens in place
unbound and backs off for 65 fc. -/
def Obligations.EndsOfFirings : Prop :=
  ∀ (s : State) (f : Firing), s.runs f →
    let slots (x : Tile) (k : Nat) : Option Frame := (x.frames.look k).map fun r => { r with pres := [] }
    let gone (u : State) : Prop := u.firing s.tile s.slot = none
      ∧ ∀ w ∈ (u.tileAt s.tile).wait, w ∈ ((s.tileAt s.tile).wait.map fun x => if x.berth = f.berth then { x with bound := false } else x)
          ∧ (f.merge = none → ∀ x ∈ (s.tileAt s.tile).wait, x.id = w.id → ¬(x.berth = f.berth ∧ x.bound = true))
    (∀ i ∈ [Instr.endFiring, .cEnd], ∃ u, exec i s = .next u ∧ gone u
        ∧ (f.freeAtEnd = false → ∀ k, slots (u.tileAt s.tile) k = slots (s.tileAt s.tile) k))
      ∧ (∃ u, exec .endfFiring s = .next u ∧ gone u
        ∧ (f.isTagged = true → (u.tileAt s.tile).frames.look f.fp = none)
        ∧ ∀ k, k ≠ f.fp → slots (u.tileAt s.tile) k = slots (s.tileAt s.tile) k)
      ∧ ∃ u, exec .yield s = .next u ∧ u.firing s.tile s.slot = none ∧ u.net.flights = s.net.flights
        ∧ (u.tileAt s.tile).frames = (s.tileAt s.tile).frames
        ∧ (u.tileAt s.tile).wait = (s.tileAt s.tile).wait.map (fun w => if w.berth = f.berth then { w with bound := false } else w)
        ∧ (u.run s.tile f.berth).backoff = some (s.now + 65)

/-- R329: TRAP puts bits 7 to 0 of its source into TNUM and raises F_TRAP with the source in TVAL, which discards the
firing. Its word, its tile kinds and its class. -/
def Obligations.TrapTaken : Prop :=
  (∀ (s : State) (f : Firing) (a : Opnd) (x : W32), s.runs f → (s.view f).src a = .ok x →
    ∃ st : W32, st.extractLsb' 16 8 = x.extractLsb' 0 8 ∧ st.extractLsb' 0 16 = f.tstat.extractLsb' 0 16
      ∧ st.extractLsb' 24 8 = f.tstat.extractLsb' 24 8
      ∧ exec (.trap a) s = .next ((s.charge s.tile f.cx.toNat 59 1).takeFault s.tile s.slot { f with tstat := st }
          { code := 0x0E, tval := x }))
  ∧ ∀ a : Opnd, encodeWord (.trap a) = some (32, 0xED000000 + a.num * 2 ^ 9) ∧ (Instr.trap a).kinds = .cxm

/-- TRET (R330): outside a handler F_TRET_CONTEXT at the rank above the stored one, at most 7; a status word with reserved bits
set is F_STATUS_WORD; else the firing ends as at END, and hold 0 lets the berth that a discarding record of a firing (SRC 0) names go on. -/
def Obligations.ReturnFromHandler : Prop :=
  ∀ (s : State) (f : Firing) (a : Opnd) (x : W32), s.runs f → (s.view f).src a = .ok x →
    let st := f.tstat
    (st.getLsbD 3 = false → exec (.tret a) s = .next (s.trapped f 59 
        { code := 0x0A, tval := st, rank := some (BitVec.ofNat 3 (Nat.min 7 (st.toNat % 8 + 1))) }))
      ∧ (st.getLsbD 3 = true → st.extractLsb' 4 4 ≠ 0 ∨ st.extractLsb' 24 8 ≠ 0 →
        exec (.tret a) s = .next (s.trapped f 59 { code := 0x0B, tval := st }))
      ∧ (st.getLsbD 3 = true → st.extractLsb' 4 4 = 0 → st.extractLsb' 24 8 = 0 →
        ∃ u, exec (.tret a) s = .next u ∧ u.firing s.tile s.slot = none
          ∧ ∀ r, f.handled = some r → r.recov = false → r.src = 0 → x.getLsbD 0 = false →
            (u.run (tileOfCove (r.die.toNat * 64 + r.cove.toNat) r.tile.toNat) r.berth.toNat).stopped = false)

/-! ## Control registers and meters -/

/-- CSRR of every register (R110, R111, R314, R331), and of the privileged ones below rank 6, which is F_CSR_PRIV. A pair is
read word by word: the low read latches the high word. A read of PCMD, to which the manual gives no value, gives a free word
(log 9). TH0 to TH7 read the threshold that the tile holds, whatever its kind: that an X-tile holds them too is the model's
choice (log 108). EMRD and EQT (R362, R363). Items 0 to 3 are read word by word, the high word latched by the low read; items 4
to 6 have no high word; a slice of 768 or more and an item of 7 or more are F_BOUNDS. That items 3 and 4 complete at once, where
R362 suspends the firing until the answer arrives, is the model's timing (log 2). -/
def Obligations.ReadCsr : Prop :=
  (∀ (s : State) (f : Firing) (d : Opnd), s.runs f → (s.view f).takes d = true →
    let t := s.tileAt s.tile
    let rank := (s.berth s.tile f.berth).rank.toNat
    let acct := s.acct (s.account s.tile f.cx.toNat)
    let gives (n : BitVec 12) (x : W32) : Prop := exec (.csrr d n) s = .next (s.ran f 1 2 ((s.seen f 1).wrote d x))
    let rec_ (g : FaultRec → Nat) : W32 := match f.handled with
      | some r => BitVec.ofNat 32 (g r)
      | none => 0
    let w := s.hd.win
    gives 0x000 (f.cx.setWidth 32) ∧ gives 0x001 ((s.vf f.cx.toNat).gen.setWidth 32) ∧ gives 0x002 (coordWord s.tile)
      ∧ gives 0x003 (BitVec.ofNat 32 f.stage) ∧ gives 0x005 (f.itag.setWidth 32)
      ∧ gives 0x004 (BitVec.ofNat 32 (s.replicas s.tile f.berth).length)
      ∧ gives 0x010 (t.astat.setWidth 32) ∧ gives 0x011 (BitVec.ofNat 32 t.lease)
      ∧ (∀ n, n < 8 → gives (BitVec.ofNat 12 (0x020 + n)) (t.th.get 0 n))
      ∧ gives 0x040 f.tstat ∧ gives 0x041 (rec_ fun r => r.code.toNat) ∧ gives 0x042 (rec_ fun r => r.tval.toNat)
      ∧ gives 0x043 (rec_ fun r => r.itag.toNat + 2 ^ 12 * r.stag.toNat) ∧ gives 0x044 (rec_ fun r => r.rank.toNat)
      ∧ gives 0x045 (rec_ fun r => r.tpc.toNat) ∧ gives 0x046 (rec_ fun r => r.ttok.toNat)
      ∧ (∀ k, k < 2 → let x := if k = 0 then acct.postCons else acct.postBal
          exec (.csrr d (BitVec.ofNat 12 (0x030 + 2 * k))) s = .next (s.ran f 1 2
            ({ s.seen f 1 with f := { f with latch := f.latch.put k (x.extractLsb' 32 32) } }.wrote d (x.extractLsb' 0 32)))
          ∧ (f.latch.look k = none → gives (BitVec.ofNat 12 (0x031 + 2 * k)) (x.extractLsb' 32 32))
          ∧ ∀ y, f.latch.look k = some y → exec (.csrr d (BitVec.ofNat 12 (0x031 + 2 * k))) s =
            .next (s.ran f 1 2 ({ s.seen f 1 with f := { f with latch := f.latch.drop k } }.wrote d y)))
      ∧ (6 ≤ rank → gives 0x100 w.psel ∧ gives 0x101 w.pidx
          ∧ (∀ k, k < 4 → gives (BitVec.ofNat 12 (0x102 + k)) (w.pdata.extractLsb' (32 * k) 32))
          ∧ gives 0x107 ((if w.busy then 1 else 0) ||| (w.status.setWidth 32 <<< 8))
          ∧ ∃ u, exec (.csrr d 0x106) s = .next u ∧ u.free = s.free + 1
            ∧ { u with free := s.free } = s.ran f 1 2 ((s.seen f 1).wrote d (Config.freeWord s.free)))
      ∧ (rank < 6 → ∀ n, n < 8 → exec (.csrr d (BitVec.ofNat 12 (0x100 + n))) s =
          .next (s.trapped f 1 { code := 0x0C, tval := BitVec.ofNat 32 (0x100 + n) })))
  ∧ (∀ (s : State) (f : Firing) (d a b : Opnd) (x y : W32) (p : BitVec 3), s.runs f → (s.view f).src a = .ok x →
    (s.view f).src b = .ok y → (s.view f).takes d = true →
    let c := s.account s.tile f.cx.toNat
    let item := x.toNat % 16
    let wide : BitVec 64 := match item with
      | 0 => (s.acct c).postCons
      | 1 => (s.acct c).postBal
      | 2 => BitVec.ofNat 64 ((s.tileAt s.tile).meter.get 0 c)
      | _ => s.hd.exec.get 0 (execKey (dieOfTile s.tile) f.cx.toNat (y.toNat % 64))
    let narrow : Nat := match item with
      | 4 => s.occ (dieOfTile s.tile * 768 + y.toNat % 1024) c
      | 5 => (s.acct c).drop
      | _ => (s.acct c).ingdrop
    let gives (g : Firing) (r : W32) : Prop := exec (.emrd d a b) s = .next (s.ran f 1 2 ({ s.seen f 1 with f := g }.wrote d r))
    (item ≤ 3 → (x.getLsbD 4 = false → gives { f with latch := f.latch.put (2 + item) (wide.extractLsb' 32 32) } (wide.extractLsb' 0 32))
        ∧ (x.getLsbD 4 = true → f.latch.look (2 + item) = none → gives f (wide.extractLsb' 32 32))
        ∧ ∀ r, x.getLsbD 4 = true → f.latch.look (2 + item) = some r →
          gives (if item = 3 then f else { f with latch := f.latch.drop (2 + item) }) r)
      ∧ (4 ≤ item → item ≤ 6 → ¬(item = 4 ∧ 768 ≤ y.toNat % 1024) →
        gives f (if x.getLsbD 4 then 0 else BitVec.ofNat 32 narrow))
      ∧ (item = 4 → 768 ≤ y.toNat % 1024 → exec (.emrd d a b) s = .next (s.trapped f 1 { code := 0x04, tval := y }))
      ∧ (7 ≤ item → exec (.emrd d a b) s = .next (s.trapped f 1 { code := 0x04, tval := x }))
      ∧ exec (.eqt p a b) s = .next (s.ran f 1 2 ((s.seen f 1).setPred p.toNat
          (decide (((x.toNat * 2 ^ (y.toNat % 32) : Nat) : Int) ≤
            (s.acct c).postBal.toInt - (((s.tileAt s.tile).meter.get 0 c / 16 : Nat) : Int))))))

/-- CSRW (R81, R109, R111, R314, R331): ASTAT takes six bits, LEASE is clamped to 1 to 1,024, thN and TSTAT take the word; the
privileged window from rank 6, else F_CSR_PRIV. A write of PCMD suspends the firing until its command is done. The rules do not say
when: that an invalid command is answered at once and a valid one starts in the next fc is the model's timing (logs 1 and 2). Nor do
they say what a write of PCMD does while a command runs, or a write of PSTAT: that the first does not issue, and that the second changes
nothing, are the model's choices (log 125). -/
def Obligations.WriteCsr : Prop :=
  ∀ (s : State) (f : Firing) (d : Opnd) (x : W32), s.runs f → (s.view f).src d = .ok x →
    let rank := (s.berth s.tile f.berth).rank.toNat
    let c := s.charge s.tile f.cx.toNat 1 1
    let tile (n : BitVec 12) (g : Tile → Tile) : Prop :=
      exec (.csrw d n) s = .next ((c.modTile s.tile g).setFiring s.tile s.slot (f.advance 2))
    let win (n : BitVec 12) (g : PrivWin → PrivWin) : Prop := exec (.csrw d n) s =
      .next ((c.modHd fun h => { h with win := g h.win }).setFiring s.tile s.slot (f.advance 2))
    tile 0x010 (fun t => { t with astat := x.setWidth 6 })
      ∧ tile 0x011 (fun t => { t with lease := max 1 (min 1024 (x.toNat % 2048)) })
      ∧ (∀ n, n < 8 → tile (BitVec.ofNat 12 (0x020 + n)) fun t => { t with th := t.th.set 0 n x })
      ∧ exec (.csrw d 0x040) s = .next (c.setFiring s.tile s.slot { f.advance 2 with tstat := x })
      ∧ (rank < 6 → ∀ n, n < 8 → exec (.csrw d (BitVec.ofNat 12 (0x100 + n))) s =
          .next (s.trapped f 1 { code := 0x0C, tval := BitVec.ofNat 32 (0x100 + n) }))
      ∧ (6 ≤ rank → win 0x100 (fun w => { w with psel := x &&& 15 }) ∧ win 0x101 (fun w => { w with pidx := x })
        ∧ win 0x107 id
        ∧ (∀ k, k < 4 → ∃ p : BitVec 128, win (BitVec.ofNat 12 (0x102 + k)) (fun w => { w with pdata := p })
            ∧ ∀ j, j < 4 → p.extractLsb' (32 * j) 32 = if j = k then x else s.hd.win.pdata.extractLsb' (32 * j) 32)
        ∧ (s.hd.win.busy = true → exec (.csrw d 0x106) s = .next s)
        ∧ (s.hd.win.busy = false →
          (∀ e, s.privCommand x = .error e → ∃ u, exec (.csrw d 0x106) s = .next u
              ∧ u.hd.win = { s.hd.win with busy := false, status := e.code } ∧ u.firing s.tile s.slot = some (f.advance 2))
          ∧ ∀ i, s.privCommand x = .ok i → ∃ u, exec (.csrw d 0x106) s = .next u ∧ u.hd.win = { s.hd.win with busy := true }
              ∧ u.firing s.tile s.slot = some { f.advance 2 with wait := .priv }
              ∧ (s.now + 1, i, { a := s.hd.win.entry, b := s.tile, c := s.slot }) ∈ u.agenda))


/-! ## Tokens, activations, tasks -/

/-- The sends (R29, R287 to R290): each stages its token for END on its port's channel, with the tags that top selects, and
counts against the port's rate; SENDM stages one for every channel of its set; STEER and MERGE choose by p1; a LOOPC is the
firing's only one and its tag is not live. Beyond the rate it is F_BOUNDS with the port. The tags of a send and the payload it
takes (R287, R288). The choice of MERGE and the live set of LOOPC are the model's readings (logs 32 and 43). -/
def Obligations.SendsAndTags : Prop :=
  (∀ (s : State) (f : Firing) (o : Opnd) (x : VReg) (top : BitVec 3) (im : BitVec 8) (g : BitVec 12 × BitVec 16)
    (fl l : BitVec 3) (po n : BitVec 2), s.runs f →
    let v := s.view f
    let room (p : Nat) : Prop := f.sent.get 0 p + 1 ≤ v.b.rates.toNat / 2 ^ (12 + 3 * p) % 8
    let chans (p : Nat) (all : Bool) : List Nat := if all then s.chansFrom s.tile f.berth p else (s.chansFrom s.tile f.berth p).take 1
    let token (k : Token) (c : Nat) : Staged :=
      .token c { k with ctx := f.cx, itag := g.1, stag := g.2, cls := s.chanClass c }
    let sends (i : Instr) (adv p : Nat) (all : Bool) (h : Firing) (k : Token) : Prop :=
      (room p → exec i s = .next (s.ran f 59 adv { s.seen f 59 with
          f := { h with sent := f.sent.set 0 p (f.sent.get 0 p + 1), staged := f.staged ++ (chans p all).map (token k) } }))
        ∧ (¬room p → exec i s = .next (s.trapped f 59 { code := 0x04, tval := BitVec.ofNat 32 p }))
    let data : Token := { err := f.err, nflit := fl, haar := x.tag, pay := x.bits }
    let choice : BitVec 2 := match f.merge with
      | some other => other ^^^ 1
      | none => if v.pred 1 then n else n ^^^ 1
    let fwd := f.token choice.toNat 0
    v.tags top im = .ok g →
    (v.payload po o = .ok x → sends (.send po o top im fl) 2 po.toNat false f data
        ∧ sends (.sendm po o top im fl) 2 po.toNat true f data
        ∧ sends (.steer po o top im fl) 2 (if v.pred 1 then po else po ^^^ 1).toNat false f data
        ∧ (f.loopc = false → (s.run s.tile f.berth).live.contains g.1 = false →
          sends (.loopc po o top im fl) 2 po.toNat false { f with loopc := true } { data with dport := 7 })
        ∧ (f.loopc = true → exec (.loopc po o top im fl) s = .next (s.trapped f 59 { code := 0x04, tval := 0xFFFFFFFE }))
        ∧ (f.loopc = false → (s.run s.tile f.berth).live.contains g.1 = true →
          exec (.loopc po o top im fl) s = .next (s.trapped f 59 { code := 0x04, tval := g.1.setWidth 32 })))
      ∧ (v.payload po .z = .ok x → sends (.sende po top im l) 2 po.toNat false f
          { err := f.err, kind := 1, level := l, haar := x.tag, pay := x.bits })
      ∧ sends (.merge po n top im fl) 2 po.toNat false { f with merge := some (choice ^^^ 1) }
          { err := f.err || fwd.err, kind := fwd.kind, level := fwd.level, nflit := if fwd.kind = 1 then 0 else fl
            haar := fwd.haar, pay := fwd.words }
      ∧ ∀ y : BitVec 5, top = 0 → im = 0 → v.payload po (.w y) = .ok x → fl = 1 → sends (.cSend po y) 1 po.toNat false f data)
  ∧ (∀ (v : View) (im : BitVec 8) (po i : BitVec 2) (n : BitVec 4) (m : BitVec 5),
    v.tags 0 im = .ok (v.f.itag, v.f.stag) ∧ v.tags 1 im = .ok (v.f.itag + im.setWidth 12, v.f.stag)
      ∧ v.tags 2 (m.setWidth 8) = .ok ((v.f.w.get 0 m.toNat).setWidth 12, v.f.stag)
      ∧ v.tags 3 im = .ok (im.setWidth 12, v.f.stag) ∧ v.tags 5 im = .ok (v.f.itag, v.f.sq)
      ∧ (∀ t, v.f.tagn = some t → v.tags 4 im = .ok (t, v.f.stag))
      ∧ (v.f.tagn = none → v.tags 4 im = .error { code := 0x04, tval := 0xFFFFFFFF })
      ∧ v.payload po .z = .ok (v.f.o.get {} po.toNat) ∧ v.payload po (.v n) = .ok (v.f.v.get {} n.toNat)
      ∧ v.payload po (.i i) = .ok { bits := (v.f.token i.toNat 0).words, tag := (v.f.token i.toNat 0).haar }
      ∧ ∀ (o : Opnd) (x : W32), (∀ k, o ≠ .v k) → (∀ k, o ≠ .i k) → o ≠ .z → v.src o = .ok x →
        ∃ b : VBits, v.payload po o = .ok { bits := b, tag := 0 } ∧ lane b 0 = x
          ∧ ∀ l, 0 < l → l < 16 → lane b l = lane (v.f.o.get {} po.toNat).bits l)


/-- TAGN, FALLOC and FFREE (R291, R292): the request stands on its way to the consumer's tile, h + 1 fc away, and the
firing waits. TAGN completes with the least tag from CTR on that has no frame, FALLOC with 1, or with 0 where the frame exists: the
request allocates the frame, the reply comes h + 1 fc later, and the firing goes on behind the instruction with its destination written.
FFREE of another tag frees the frame at once with the operands it holds, which are counted as dropped, and of the firing's own tag at its
END, and answers 1, or 0 when there is no such frame. The frame that is taken is the model's choice (log 12). -/
def Obligations.Activations : Prop :=
  ∀ (s : State) (f : Firing) (d a b : Opnd) (po : BitVec 2) (x : W32), s.runs f →
    (∀ u k, s.consumerOf s.tile f.berth po.toNat = some (u, k) →
      let asks (i : Instr) (g : Option (BitVec 12)) : Prop := ∃ t, exec i s = .next t
        ∧ t.firing s.tile s.slot = some { f with wait := .frame d u k po.toNat g }
        ∧ (s.now + (hops s.tile u + 1), Instr.frameAllocRequest, { a := s.tile, b := s.slot }) ∈ t.agenda
      let e : EvArg := { a := s.tile, b := s.slot }
      let there := s.tileAt u
      let fits (g : BitVec 12) : Prop := (there.allocFrame (s.tcfg u) k g (s.berth u k).frame.toNat).isSome
      let completes (i : Instr) (val : W32) (tag : Option (BitVec 12)) (ctr : BitVec 12) (g : BitVec 12) : Prop :=
        ∃ t t2 t3 h, exec i s = .next t ∧ exec .frameAllocRequest { t with ev := e } = .next t2
          ∧ (s.now + (hops s.tile u + 1), Instr.frameAllocReply, e) ∈ t2.agenda
          ∧ exec .frameAllocReply { t2 with ev := e } = .next t3 ∧ t3.firing s.tile s.slot = some h
          ∧ h.wait = .no ∧ h.pc = (f.advance 2).pc ∧ h.loops = (f.advance 2).loops
          ∧ (∀ n : BitVec 5, d = .w n → h.w.get 0 n.toNat = val) ∧ h.tagn = (if tag.isSome then tag else f.tagn)
          ∧ ((t2.tileAt u).frameOf k g).isSome ∧ (t2.run s.tile f.berth).ctr.get 0 po.toNat = ctr
      let ctr := (s.run s.tile f.berth).ctr.get 0 po.toNat
      let given (g : BitVec 12) : Prop := (there.frameOf k g).isSome
      asks (.tagn d po) none ∧ ((s.view f).src b = .ok x → asks (.falloc d po b) (some (x.setWidth 12)))
      ∧ ((s.view f).takes d = true →
        (∀ n : Nat, n < 64 → (∀ m : Nat, m < n → given (ctr + BitVec.ofNat 12 m)) → ¬given (ctr + BitVec.ofNat 12 n) →
            fits (ctr + BitVec.ofNat 12 n) →
            completes (.tagn d po) ((ctr + BitVec.ofNat 12 n).setWidth 32) (some (ctr + BitVec.ofNat 12 n))
              (ctr + BitVec.ofNat 12 n + 1) (ctr + BitVec.ofNat 12 n))
        ∧ ((s.view f).src b = .ok x → ¬given (x.setWidth 12) → fits (x.setWidth 12) →
            completes (.falloc d po b) 1 none ctr (x.setWidth 12))
        ∧ ((s.view f).src b = .ok x → given (x.setWidth 12) → completes (.falloc d po b) 0 none ctr (x.setWidth 12))))
    ∧ ((s.view f).src a = .ok x → (s.view f).takes d = true →
      let found := (s.tileAt s.tile).frameOf f.berth (x.setWidth 12)
      (found = none → exec (.ffree d a) s = .next (s.ran f 59 2 ((s.seen f 59).wrote d 0)))
        ∧ (∀ k, found = some k → x.setWidth 12 = f.itag → exec (.ffree d a) s =
            .next (s.ran f 59 2 ({ s.seen f 59 with f := { f with freeAtEnd := true } }.wrote d 1)))
        ∧ ∀ k, found = some k → x.setWidth 12 ≠ f.itag → ∃ t, exec (.ffree d a) s = .next t
            ∧ t.firing s.tile s.slot = some (((s.seen f 59).wrote d 1).f.advance 2)
            ∧ (t.tileAt s.tile).frames.look k = none
            ∧ let lost (w : Waiting) : Bool := w.berth = f.berth ∧ w.tok.itag = x.setWidth 12 ∧ w.place ≠ .pool
              (t.tileAt s.tile).wait = (s.tileAt s.tile).wait.filter (fun w => !lost w)
                ∧ (t.acct f.cx.toNat).drop =
                    Nat.min 0xFFFFFFFF ((s.acct f.cx.toNat).drop + ((s.tileAt s.tile).wait.filter lost).length))

/-- TDEC, EVSET, EVCLR and PERMIT (R295, R353, R354, R356): a decrement of a task entry, an underflow, an entry of
another VF; the group of event bits before the change in the destination, the bits set or cleared in it; a staged
permit. Whose the event bits of a cove are, and the time of a set bit, are the model's readings (logs 33 and 34). -/
def Obligations.TasksAndEvents : Prop :=
  ∀ (s : State) (f : Firing) (d a b : Opnd) (x y : W32), s.runs f → (s.view f).src a = .ok x → (s.view f).src b = .ok y →
    let cove := coveOfTile s.tile
    let e := x.toNat % 512
    let ent := (s.coveAt cove).tasks.get {} e
    let n := y.toNat % 256
    (2 ≤ ent.state → ent.vf ≠ f.cx.toNat →
        exec (.tdec a b) s = .next (s.trapped f 61 { code := 0x02, tval := BitVec.ofNat 32 e }))
      ∧ (ent.state < 2 → n = 0 → exec (.tdec a b) s = .next (s.ran f 61 2 (s.seen f 61)))
      ∧ (2 ≤ ent.state → ent.vf = f.cx.toNat → n ≤ ent.count → ∃ t, exec (.tdec a b) s = .next t
          ∧ t.firing s.tile s.slot = some (f.advance 2)
          ∧ (n ≠ 0 → (t.coveAt cove).tasks.get {} e = { ent with
              count := ent.count - n, cts := max ent.cts f.pts, cntu := if ent.count = n then false else ent.cntu })
          ∧ ∀ k, k ≠ e → (t.coveAt cove).tasks.get {} k = (s.coveAt cove).tasks.get {} k)
      ∧ (2 ≤ ent.state → ent.vf = f.cx.toNat → ent.count < n →
          exec (.tdec a b) s = .next (s.trapped f 61 { code := 0x07, tval := BitVec.ofNat 32 e }))
      ∧ (ent.state < 2 → n ≠ 0 →
          exec (.tdec a b) s = .next (s.trapped f 61 { code := 0x07, tval := BitVec.ofNat 32 (e + 0x10000) }))
      ∧ (let g := x.toNat % 8
        let old : W32 := (s.coveAt cove).events.extractLsb' (32 * g) 32
        ((∃ u, s.coveVf cove = some u ∧ u ≠ f.cx.toNat) →
          exec (.evset d a b) s = .next (s.trapped f 61 { code := 0x02, tval := BitVec.ofNat 32 g })
            ∧ exec (.evclr d a b) s = .next (s.trapped f 61 { code := 0x02, tval := BitVec.ofNat 32 g }))
        ∧ ((∀ u, s.coveVf cove = some u → u = f.cx.toNat) → (s.view f).takes d = true →
          let acts (i : Instr) (bits : W32) : Prop := ∃ t h, exec i s = .next t ∧ t.firing s.tile s.slot = some h
            ∧ h = { ((s.seen f 61).wrote d old).f.advance 2 with pts := h.pts } ∧ f.pts ≤ h.pts
            ∧ (∀ k, k < 32 → old.getLsbD k = true → (s.coveAt cove).ets.get 0 (32 * g + k) ≤ h.pts)
            ∧ (t.coveAt cove).events.extractLsb' (32 * g) 32 = bits
            ∧ ∀ k, k < 256 → (k < 32 * g ∨ 32 * g + 32 ≤ k) →
                (t.coveAt cove).events.getLsbD k = (s.coveAt cove).events.getLsbD k
          acts (.evset d a b) (old ||| y) ∧ acts (.evclr d a b) (old &&& ~~~y)))
      ∧ (let chan := x.toNat % 8
        let m := y.toNat % 32
        (chan ≤ 5 → s.hasRole cove chan false = true → 1 ≤ m → m ≤ 16 → exec (.permit a b) s =
            .next (s.ran f 59 2 { s.seen f 59 with f := { f with staged := f.staged ++ [.permit cove chan m] } }))
          ∧ (5 < chan ∨ s.hasRole cove chan false = false →
            exec (.permit a b) s = .next (s.trapped f 59 { code := 0x04, tval := x }))
          ∧ (chan ≤ 5 → s.hasRole cove chan false = true → m = 0 ∨ 16 < m →
            exec (.permit a b) s = .next (s.trapped f 59 { code := 0x04, tval := y })))

/-- RAYS and FGLK stage a ray and a grid request for END (R297, R302); TSPAWN reserves its free task entry at issue, where the
VF's quota allows it (R294), TSPAWN and ISCFG start the loads of their records, and a record that is not 64-byte aligned is
F_ALIGN (R293, R296). -/
def Obligations.RaysAndRecords : Prop :=
  ∀ (s : State) (f : Firing) (a b : Opnd) (y : W32) (po : BitVec 2), s.runs f → (s.view f).src b = .ok y →
    let v := s.view f
    let chan := (s.chansFrom s.tile f.berth po.toNat).take 1
    let stages (i : Instr) (n : Nat) (l : List Staged) : Prop :=
      (f.sent.get 0 po.toNat + n ≤ v.b.rates.toNat / 2 ^ (12 + 3 * po.toNat) % 8 → exec i s = .next (s.ran f 59 2 { s.seen f 59 with
          f := { f with sent := f.sent.set 0 po.toNat (f.sent.get 0 po.toNat + n), staged := f.staged ++ l } }))
        ∧ (v.b.rates.toNat / 2 ^ (12 + 3 * po.toNat) % 8 < f.sent.get 0 po.toNat + n →
          exec i s = .next (s.trapped f 59 { code := 0x04, tval := BitVec.ofNat 32 po.toNat }))
    (∀ x : VReg, v.vec a = .ok x → ∃ pay : VBits,
        stages (.rays po a b) 1 (chan.map fun c => .ray c (y.toNat % 4) pay f.itag f.sq)
          ∧ (∀ l, l < 9 → lane pay l = lane x.bits l) ∧ lane pay 9 = lane x.bits 9 &&& 0xFFFF00FF ∧ lane pay 14 = 0xFFFFFFFF
          ∧ ∀ l, 10 ≤ l → l < 16 → l ≠ 14 → lane pay l = 0)
      ∧ (∀ n : BitVec 4, a = .v n →
        let tok (cls : BitVec 8) (k : BitVec 4) : Token :=
          { cls := cls, ctx := f.cx, err := f.err, itag := f.itag, stag := f.stag, nflit := 4
            pay := (f.v.get {} (n + k).toNat).bits }
        let xt := y.toNat / 256 % 64
        (kindAt xt = .x → stages (.fglk po a b) 3 (chan.flatMap fun c =>
            [.token c (tok (y.setWidth 8 &&& 0x7F) 0), .token c (tok (BitVec.ofNat 8 xt) 1), .token c (tok 0 2)]))
          ∧ (kindAt xt ≠ .x → exec (.fglk po a b) s = .next (s.trapped f 59 { code := 0x04, tval := y })))
      ∧ ∀ (x : W32) (p : BitVec 3), v.src a = .ok x → let va := v.b.wbase.toNat * 2 ^ 32 + x.toNat
        let c := s.charge s.tile f.cx.toNat 61 1
        let r := c.reserveTask s.tile f (y.toNat % 512)
        let cove := coveOfTile s.tile
        let e := y.toNat % 512
        (x.toNat % 64 = 0 → exec (.tspawn p a b) s = .next (r.2.startJob s.tile s.slot f
              { ops := loadOps .cfg va 128 0, cont := .tspawn p e va r.1 })
          ∧ (((c.coveAt cove).tasks.get {} e).state = 0 → c.spawnRoom cove (c.xlVf s.tile f.cx.toNat) 0 = true →
              r.1 ≠ 0 ∧ ((r.2.coveAt cove).tasks.get {} e).state = 1)
          ∧ (((c.coveAt cove).tasks.get {} e).state ≠ 0 ∨ c.spawnRoom cove (c.xlVf s.tile f.cx.toNat) 0 = false → r = (0, c))
          ∧ exec (.iscfg a b) s = .next (((s.charge s.tile f.cx.toNat 59 1).modCove (coveOfTile s.tile) fun c =>
              { c with pend := c.pend.put (slotId s.tile s.slot) { tile := s.tile, slot := s.slot, scene := y.toNat % 4 } }).startJob
                s.tile s.slot f { ops := loadOps .cfg va 64 0, cont := .iscfg (y.toNat % 4) va }))
        ∧ (x.toNat % 64 ≠ 0 → exec (.tspawn p a b) s = .next (s.trapped f 61 (trapVa 0x03 va))
          ∧ exec (.iscfg a b) s = .next (s.trapped f 59 (trapVa 0x03 va)))

/-! ## Memory instructions -/

/-- Addresses, and scalar loads and stores on element-local memory (R193, R222, R230, R233): the offset counts in units of the
size, an address that is not aligned is F_ALIGN with its VA, a load takes timestamp max(pts, LCK) and a store one more, and a
store changes its bytes and no others. LDNC and STNC do there what LDW and STW do; C.LDW and C.STW are one halfword long. On a
tile without soft errors (log 53). LDV, LDVB and STV on element-local memory (R231); under an empty mask they only move the
firing on. A store leaves the bytes of disabled lanes. -/
def Obligations.ScratchLoadsAndStores : Prop :=
  ((∀ (v : View) (a : Opnd) (x : W32) (off : Int) (n : Nat), 0 < n → v.src a = .ok x →
    let addr := (BitVec.ofInt 32 (x.toInt + off)).toNat
    let va := v.b.wbase.toNat * 2 ^ 32 + addr
    (addr % n = 0 → v.target a off n = .ok va) ∧ (addr % n ≠ 0 → v.target a off n = .error (trapVa 0x03 va)))
  ∧ ∀ (s : State) (f : Firing) (d a : Opnd) (o : BitVec 9) (i j : BitVec 5), s.runs f →
    kindAt (s.tile % 64) ≠ .m → (s.tileAt s.tile).ecc = [] →
    let t := s.tileAt s.tile
    let lies (a : Opnd) (off : Int) (n va : Nat) : Prop :=
      (s.view f).target a (off * n) n = .ok va ∧ va < 2 ^ 16 ∧ va + n ≤ (s.tcfg s.tile).scratch
    let loads (c : Instr) (a d : Opnd) (off : Int) (adv n : Nat) (signed : Bool) : Prop :=
      ∀ va, lies a off n va → (s.view f).takes d = true → exec c s =
        .next (s.worked f 55 adv (max f.pts t.lck) t.scratch fun v => v.wrote d
          (if signed then BitVec.ofInt 32 (BitVec.ofNat (8 * n) (t.num va n)).toInt else BitVec.ofNat 32 (t.num va n)))
    let stores (c : Instr) (a d : Opnd) (off : Int) (adv n : Nat) : Prop :=
      ∀ va x, lies a off n va → (s.view f).src d = .ok x → ∃ m : Map Byte,
        exec c s = .next (s.worked f 55 adv (max f.pts t.lck + 1) m id)
          ∧ ∀ k, m.get 0 k = if va ≤ k ∧ k < va + n then BitVec.ofNat 8 (x.toNat / 256 ^ (k - va)) else t.scratch.get 0 k
    loads (.ldb d a o) a d o.toInt 2 1 true ∧ loads (.ldbu d a o) a d o.toInt 2 1 false
      ∧ loads (.ldh d a o) a d o.toInt 2 2 true ∧ loads (.ldhu d a o) a d o.toInt 2 2 false
      ∧ loads (.ldw d a o) a d o.toInt 2 4 false ∧ loads (.ldnc d a o) a d o.toInt 2 4 false
      ∧ loads (.cLdw i j) (.w j) (.w i) 0 1 4 false
      ∧ stores (.stb d a o) a d o.toInt 2 1 ∧ stores (.sth d a o) a d o.toInt 2 2 ∧ stores (.stw d a o) a d o.toInt 2 4
      ∧ stores (.stnc d a o) a d o.toInt 2 4 ∧ stores (.cStw i j) (.w j) (.w i) 0 1 4)
  ∧ (∀ (s : State) (f : Firing) (d a : Opnd) (q : BitVec 2) (o : BitVec 7), s.runs f →
    kindAt (s.tile % 64) ≠ .m → (s.tileAt s.tile).ecc = [] →
    let t := s.tileAt s.tile
    let m := (s.view f).mask q.toNat
    let lies (n va : Nat) : Prop :=
      (s.view f).target a (o.toInt * n) n = .ok va ∧ va < 2 ^ 16 ∧ va + n ≤ (s.tcfg s.tile).scratch
    (m ≠ 0 → (s.view f).vtakes d m 0 = true →
        (∀ va, lies 64 va → ∃ r : VBits, exec (.ldv d a q o) s =
            .next (s.worked f 55 2 (max f.pts t.lck) t.scratch fun v => v.vwrote d m { bits := r } [])
          ∧ ∀ l, l < 16 → lane r l = BitVec.ofNat 32 (t.num (va + 4 * l) 4))
        ∧ ∀ va, lies 4 va → ∃ r : VBits, exec (.ldvb d a q o) s =
            .next (s.worked f 55 2 (max f.pts t.lck) t.scratch fun v => v.vwrote d m { bits := r } [])
          ∧ ∀ l, l < 16 → lane r l = BitVec.ofNat 32 (t.num va 4))
      ∧ (m ≠ 0 → ∀ va x, lies 64 va → (s.view f).spatial d = .ok x → ∃ sc : Map Byte,
        exec (.stv d a q o) s = .next (s.worked f 55 2 (max f.pts t.lck + 1) sc fun v => v.bill [d])
          ∧ (∀ k, k < 64 → sc.get 0 (va + k) = if m.getLsbD (k / 4) then BitVec.ofNat 8 ((lane x (k / 4)).toNat / 256 ^ (k % 4))
              else t.scratch.get 0 (va + k))
          ∧ ∀ k, k < va ∨ va + 64 ≤ k → sc.get 0 k = t.scratch.get 0 k)
      ∧ (m = 0 → ∀ i ∈ [Instr.ldv d a q o, .ldvb d a q o, .stv d a q o], exec i s =
          .next (s.ran f 55 2 { s.seen f 55 with f := { f with job := none, wait := .no } })))

/-- The atomics on element-local memory (R193, R235): the old word goes to the destination, the new one to memory, no
other byte changes, and AFADD sets its flags. On a tile without soft errors (log 53). -/
def Obligations.ScratchAtomics : Prop :=
  ∀ (s : State) (f : Firing) (d a b : Opnd) (y z : W32) (va : Nat), s.runs f →
    kindAt (s.tile % 64) ≠ .m → (s.tileAt s.tile).ecc = [] →
    (s.view f).src b = .ok y → (s.view f).takes d = true → (s.view f).target a 0 4 = .ok va → va < 2 ^ 16 →
    va + 4 ≤ (s.tcfg s.tile).scratch →
    let t := s.tileAt s.tile
    let old : W32 := BitVec.ofNat 32 (t.num va 4)
    let does (i : Instr) (new : W32) (fl : Flags) : Prop := ∃ m : Map Byte,
      exec i s = .next (s.worked f 55 2 (max f.pts t.lck + 1) m fun v => (v.flag fl).wrote d old)
        ∧ ∀ k, m.get 0 k = if va ≤ k ∧ k < va + 4 then BitVec.ofNat 8 (new.toNat / 256 ^ (k - va)) else t.scratch.get 0 k
    does (.aadd d a b) (old + y) 0 ∧ does (.amin d a b) (if old.toInt ≤ y.toInt then old else y) 0
      ∧ does (.amax d a b) (if y.toInt ≤ old.toInt then old else y) 0 ∧ does (.aand d a b) (old &&& y) 0
      ∧ does (.aor d a b) (old ||| y) 0 ∧ does (.axor d a b) (old ^^^ y) 0 ∧ does (.axch d a b) y 0
      ∧ ((s.view f).src d = .ok z → does (.acas d a b) (if old = z then y else old) 0)
      ∧ does (.afadd d a b) (addF old y).1 (addF old y).2
      ∧ does (.aincw d a b) (if y.toNat ≤ old.toNat then 0 else old + 1) 0


/-- What the memory instructions start when their operands can be read and their addresses are aligned (R222, R223,
R230 to R233, R235 to R239, R250, R252 to R258, R360, R361): the line operations of the access and what follows its
last reply. The firing stands behind the instruction, with the access under way. A misaligned address or lane is F_ALIGN, the lowest
lane in the command window or outside the element-local memory F_PROT, and a codec descriptor with a field out of place F_DOMAIN. How the record of a screen tile is looked
at is the model's choice (log 25), and which instructions issue beside an access is its reading (log 103). -/
def Obligations.AccessesStarted : Prop :=
  ∀ (s : State) (f : Firing) (d a b : Opnd) (q : BitVec 2) (p : BitVec 3) (x y : W32) (u : VBits), s.runs f →
    let v := s.view f
    let m := v.mask q.toNat
    let starts (i : Instr) (cls : Nat) (bill : List Opnd) (j : Job) : Prop :=
      exec i s = .next (s.accesses f cls ((s.seen f cls).bill bill) j)
    let word (n : Nat) (off : Nat → W32) (l : Nat) : Nat := n * 2 ^ 32 + (x + off l).toNat
    let on := (List.range 16).filter fun l => m.getLsbD l
    (v.src b = .ok y →
      (∀ va, v.target a 0 16 = .ok va →
        starts (.slclm a b) 55 [] { ops := [{ kind := .rmw, va := va, len := 16, fn := .slclm, b := y, place := 1 }] }
          ∧ starts (.slrel a b) 55 [] { ops := [{ kind := .rmw, va := va, len := 16, fn := .slrel, b := y, place := 1 }] }
          ∧ starts (.sltst p a b) 55 []
              { ops := [{ kind := .ldnc, va := va, len := 16, place := 1 }], cont := .sltst p (y.setWidth 2) }
          ∧ starts (.binapp d a b) 0 []
              { ops := [{ kind := .rmw, va := va, len := 4, fn := .binapp, place := 2 }], cont := .binapp d y })
      ∧ (∀ va, v.target a 0 64 = .ok va →
        starts (.blnd d a b q) 0 [] { ops := [{ kind := .peek, va := va, len := 64, place := 2 }], cont := .blnd d q y }
          ∧ (v.spatial d = .ok u → starts (.ztst d a b q) 0 [d]
              { ops := [{ kind := .peek, va := va, len := 64, place := 2, mask := 1 }], cont := .ztst q u y va })
          ∧ (y.toNat % 4 ≠ 3 → v.src d = .ok x → starts (.occq d a b) 0 []
              { ops := [{ kind := .peek, va := va, len := 64, place := 2 }], cont := .occq x y }))
      ∧ (∀ va, v.target a 0 8 = .ok va → (codecDesc y).bad false = false → starts (.hld d a b) 55 []
          { ops := spanOps (decide (va / 2 ^ 16 ≠ 0)) (codecBitmaps (codecDesc y) va), cont := .hld d y va true })
      ∧ ((codecDesc y).bad false = true → exec (.hld d a b) s = .next (s.trapped f 55 { code := 0x06, tval := y }))
      ∧ ((codecDesc y).bad true = true → exec (.hst d a b) s = .next (s.trapped f 55 { code := 0x06, tval := y }))
      ∧ (∀ va trees made, v.target a 0 8 = .ok va → (codecDesc y).bad true = false → v.hstTrees d (codecDesc y) = .ok (trees, made) →
          let c := codecDesc y
          let recs := trees.map fun t => (storeRecord c ((s.tileAt s.tile).th.get 0 c.th) t.1, t.2)
          let g := (s.seen f 55).bill [d]
          exec (.hst d a b) s = .next (s.accesses f 55
            (if made then { g with extra := g.extra ++ [(56, trees.length)] } else s.seen f 55)
            { ops := joinStores ((enumFrom 0 recs).flatMap fun e => storeOps (vaAdd va (e.1 * c.stride)) e.2.1.1)
              cont := .flags (recs.foldl (fun a e => a ||| e.1.2 ||| e.2) 0) }))
      ∧ ∀ e, v.target a 0 16 = .error e → exec (.slclm a b) s = .next (s.trapped f 55 e)
          ∧ exec (.slrel a b) s = .next (s.trapped f 55 e) ∧ exec (.sltst p a b) s = .next (s.trapped f 55 e)
          ∧ exec (.binapp d a b) s = .next (s.trapped f 0 e))
    ∧ (∀ va, v.target a 0 64 = .ok va → starts (.seqn d a) 0 []
        { ops := [{ kind := .rmw, va := va, len := 8, fn := .seqn, place := 2 }], cont := .seqn d va })
    ∧ (v.src a = .ok x →
      let wide (off : Nat → W32) (load store : Instr) : Prop :=
        let va := word v.b.wbase.toNat off
        let far (l : Nat) : Prop := badNear s.tile (s.tcfg s.tile).scratch (va l) = false
        ((∀ l ∈ on, va l % 4 = 0) → (∀ l ∈ on, far l) → (∃ addrs : VBits, (∀ l, l < 16 → lane addrs l = x + off l) ∧ starts load 55 []
              { ops := spanOps false (on.map fun l => (va l, 4)), cont := .gather d m addrs })
            ∧ (m ≠ 0 → v.spatial d = .ok u → starts store 55 [d]
              { ops := joinStores (on.flatMap fun l => storeOps (va l) (leBytes 4 (lane u l).toNat)) }))
          ∧ (∀ l ∈ on, va l % 4 ≠ 0 → (∀ k ∈ on, k < l → va k % 4 = 0) →
            exec load s = .next (s.trapped f 55 (trapVa 0x03 (va l)))
              ∧ (v.spatial d = .ok u → exec store s = .next (s.trapped f 55 (trapVa 0x03 (va l)))))
          ∧ ∀ l ∈ on, (∀ k ∈ on, va k % 4 = 0) → ¬far l → (∀ k ∈ on, k < l → far k) →
            exec load s = .next (s.trapped f 55 (trapVa 0x02 (va l)))
              ∧ (v.spatial d = .ok u → exec store s = .next (s.trapped f 55 (trapVa 0x02 (va l))))
      (v.src b = .ok y → wide (fun l => BitVec.ofNat 32 l * y) (.ldvs d a b q) (.stvs d a b q))
        ∧ ∀ z : VReg, v.vec b = .ok z → wide (fun l => lane z.bits l) (.ldvg d a b q) (.stvx d a b q))

/-- FLD and FST, with C.FLD and C.FST (R234): a slot of the frame is read or written with its presence; DRAIN (R246);
CHKB (R248), which tests chunks of an arrival bitmap and may clear them; and a store into the command window, which is
ordered by the channel's QCK and reads its template (R240, R241). Which commands DRAIN counts as ended and
that CHKB waits for none are the model's readings (logs 36 and 101). -/
def Obligations.FramesAndCopies : Prop :=
  ∀ (s : State) (f : Firing), s.runs f →
    let fr := (s.view f).frame
    (∀ (d : Opnd) (n : BitVec 8) (i j : BitVec 5),
        (fr.pres.get false n.toNat = true → n.toNat < fr.size → (s.view f).takes d = true →
          exec (.fld d n) s = .next (s.ran f 55 2 ((s.seen f 55).wrote d (fr.slots.get 0 n.toNat))))
        ∧ (j.toNat < fr.size → fr.pres.get false j.toNat = true → exec (.cFld i j) s =
            .next (s.ran f 55 1 ((s.seen f 55).wrote (.w i) (fr.slots.get 0 j.toNat))))
        ∧ (n.toNat < fr.size → fr.pres.get false n.toNat = false →
          exec (.fld d n) s = .next (s.trapped f 55 { code := 0x05, tval := n.setWidth 32 }))
        ∧ (fr.size ≤ n.toNat → exec (.fld d n) s = .next (s.trapped f 55 { code := 0x04, tval := n.setWidth 32 })
          ∧ ∀ x, (s.view f).src d = .ok x → exec (.fst d n) s = .next (s.trapped f 55 { code := 0x04, tval := n.setWidth 32 }))
        ∧ (∀ x, n.toNat < fr.size → (s.view f).src d = .ok x → ∃ v, exec (.fst d n) s = .next (s.ran f 55 2 v) ∧ v.f = f
          ∧ v.slot n.toNat = .ok x ∧ ∀ k, k ≠ n.toNat → v.slot k = (s.view f).slot k)
        ∧ (j.toNat < fr.size → ∃ v, exec (.cFst i j) s = .next (s.ran f 55 1 v) ∧ v.f = f
          ∧ v.slot j.toNat = .ok (f.w.get 0 i.toNat) ∧ ∀ k, k ≠ j.toNat → v.slot k = (s.view f).slot k))
      ∧ (∀ d : Opnd, (s.view f).takes d = true →
        ((s.openCmds f).1 ≤ (s.openCmds f).2 → exec (.drain d) s = .next (s.ran f 55 2
            ({ s.seen f 55 with f := { f with pts := max f.pts f.done } }.wrote d
              (BitVec.ofNat 32 ((s.openCmds f).2 % 2 ^ 16 + f.stopped % 2 ^ 16 * 2 ^ 16)))))
          ∧ ((s.openCmds f).2 < (s.openCmds f).1 →
            exec (.drain d) s = .next (s.setFiring s.tile s.slot { f with wait := .drain })))
      ∧ (∀ (p : BitVec 3) (a b : Opnd) (x y : W32), (s.view f).src a = .ok x → (s.view f).src b = .ok y →
        let chan := x.toNat / 32 % 8
        let lo := y.toNat % 128
        let n := y.toNat / 256 % 128 + 1
        let m := chanTile (coveOfTile s.tile) chan
        let i := x.toNat % 32
        let bits := (s.tileAt m).mu.ab.get 0 i
        let cts := (s.tileAt m).mu.abCts.get 0 i
        (5 < chan → exec (.chkb p a b) s = .next (s.trapped f 55 { code := 0x04, tval := x }))
          ∧ (chan ≤ 5 → 128 < lo + n → exec (.chkb p a b) s = .next (s.trapped f 55 { code := 0x04, tval := y }))
          ∧ (chan ≤ 5 → lo + n ≤ 128 →
            ((∃ k, lo ≤ k ∧ k < lo + n ∧ bits.getLsbD k = false) →
              exec (.chkb p a b) s = .next (s.ran f 55 2 ((s.seen f 55).setPred p.toNat false)))
            ∧ ((∀ k, lo ≤ k → k < lo + n → bits.getLsbD k = true) → ∃ u, exec (.chkb p a b) s = .next u
              ∧ u.firing s.tile s.slot = some
                  ({ ((s.seen f 55).setPred p.toNat true).f with pts := max f.pts cts }.advance 2)
              ∧ (x.getLsbD 8 = false → (u.tileAt m).mu.ab = (s.tileAt m).mu.ab)
              ∧ (x.getLsbD 8 = true → ∀ k, k < 128 → ((u.tileAt m).mu.ab.get 0 i).getLsbD k =
                  (bits.getLsbD k && !(decide (lo ≤ k) && decide (k < lo + n))))
              ∧ ∀ k, k ≠ i → (u.tileAt m).mu.ab.get 0 k = (s.tileAt m).mu.ab.get 0 k)))
      ∧ ∀ (d a : Opnd) (o : BitVec 9) (x : W32) (va m : Nat), (s.berth s.tile f.berth).wbase = 0xFFFFF →
        (s.view f).src d = .ok x → (s.view f).target a (o.toInt * 4) 4 = .ok va →
        s.windowTile s.tile (BitVec.ofNat 32 va) = some m →
        ∀ i ∈ [Instr.stw d a o, .stnc d a o],
          (s.bteRoom m (s.xlVf s.tile f.cx.toNat) = false →
            exec i s = .next (s.setFiring s.tile s.slot { f with wait := .aperture }))
          ∧ (s.bteRoom m (s.xlVf s.tile f.cx.toNat) = true → x.toNat % 2 ^ 16 < (s.vf (s.xlVf s.tile f.cx.toNat)).tcount →
            let c := s.charge s.tile f.cx.toNat 55 1
            let w := max f.pts (s.tileAt m).mu.qck + 1
            exec i s = .next ((c.modMu m fun u => { u with qck := w }).startJob s.tile s.slot { f with pts := w }
                { ops := [{ kind := .tmpl, va := s.tmplVa (s.xlVf s.tile f.cx.toNat) (x.toNat % 2 ^ 16), len := 128
                            a := BitVec.ofNat 32 (x.toNat % 2 ^ 16), b := BitVec.ofNat 32 m }]
                  cont := .aperture m x false }))

/-- What an atomic of the slot tags, bins and sequence numbers makes of its line (R249, R250, R258, R361), with the words
little-endian at byte `o` of the line: a transition from another tag is refused, and every byte of the line beside the
operand's stays. -/
def Obligations.SlotsBinsAndSequences : Prop :=
  ∀ (a b : W32) (l : LineBits) (o : Nat), o + 16 ≤ 128 →
    let old := lineField l o 4
    let keeps (r : LineBits) (n : Nat) : Prop := ∀ k, k < 128 → (k < o ∨ o + n ≤ k) → lineByte r k = lineByte l k
    let gives (fn : AtomFn) (x : W32) (n : Nat) (g : LineBits → Prop) : Prop :=
      ∃ r, atomApply fn a b l o = .ok r x 0 ∧ keeps r n ∧ g r
    (old % 4 ≠ 0 ∨ b.toNat % 2 ^ 24 = 0 → atomApply .slclm a b l o = .slotState)
      ∧ (old % 4 = 0 → b.toNat % 2 ^ 24 ≠ 0 → gives .slclm (BitVec.ofNat 32 old) 16 fun r =>
          lineField r o 1 % 4 = 1 ∧ lineField r (o + 1) 3 = b.toNat % 2 ^ 24 ∧ lineField r (o + 4) 3 = 0
            ∧ lineField r (o + 8) 8 = lineField l (o + 8) 8)
      ∧ (b.getLsbD 0 = false → (old % 4 = 2 → gives .slrel (BitVec.ofNat 32 old) 16 fun r =>
            lineField r o 1 % 4 = 3 ∧ lineField r (o + 1) 15 = lineField l (o + 1) 15)
          ∧ (old % 4 ≠ 2 → atomApply .slrel a b l o = .slotState))
      ∧ (b.getLsbD 0 = true → (old % 4 = 3 → gives .slrel (BitVec.ofNat 32 old) 16 fun r =>
            lineField r o 1 % 4 = 0 ∧ lineField r (o + 1) 3 = 0 ∧ lineField r (o + 4) 3 = 0 ∧ lineField r (o + 8) 6 = 0)
          ∧ (old % 4 ≠ 3 → atomApply .slrel a b l o = .slotState))
      ∧ (old < lineField l (o + 4) 4 → gives .binapp (BitVec.ofNat 32 old) 4 fun r => lineField r o 4 = old + 1)
      ∧ (lineField l (o + 4) 4 ≤ old → gives .binapp 0xFFFFFFFF 0 fun _ => True)
      ∧ (let ahead := (lineField l (o + 4) 2 + 2 ^ 16 - lineField l o 2) % 2 ^ 16
        (32767 ≤ ahead → atomApply .seqn a b l o = .hold)
          ∧ (ahead < 32767 → gives .seqn (BitVec.ofNat 32 (lineField l (o + 4) 2)) 8 fun r =>
            lineField r (o + 4) 2 = (lineField l (o + 4) 2 + 1) % 2 ^ 16 ∧ lineField r o 4 = old
              ∧ lineField r (o + 6) 2 = lineField l (o + 6) 2))

/-! ## The matrix tile -/

/-- MSHP, TZERO, MSKR, TTR and AOUT (R171, R173, R183): what they write of one tile register, that no other tile
register and nothing else of the matrix tile changes, and the F_DOMAIN of a TTR of a tagged register. On a tile
without soft errors (log 53). -/
def Obligations.TileRegisters : Prop :=
  ∀ (s : State) (f : Firing) (n m r : BitVec 4) (a h g : BitVec 3) (ds ss : BitVec 2) (hf b : BitVec 1),
    s.runs f → (s.tileAt s.tile).ecc = [] →
    let x := (s.tileAt s.tile).x
    let free (q : XReg) : Prop := (s.tileAt s.tile).owes q = false
    let rest (y : XRegs) (k : Nat) : Prop :=
      { y with t := [], scale := [], shape := [], rowErr := [] } = { x with t := [], scale := [], shape := [], rowErr := [] }
        ∧ ∀ j l, j ≠ k → j < 16 → l < 16 → y.row j l = x.row j l ∧ y.scaleRow j l = x.scaleRow j l ∧ y.shapeOf j = x.shapeOf j
          ∧ y.errOf j = x.errOf j
    let lanesKept (y : XRegs) (k : Nat) : Prop := y.t = x.t ∧ y.scale = x.scale ∧ y.errOf k = x.errOf k
    let gives (i : Instr) (cls : Nat) (y : XRegs) : Prop := exec i s = .next (s.ran f cls 2 ((s.seen f cls).setX y))
    let k := n.toNat
    let w := x.shapeOf k
    let half (v : VBits) (i : Nat) : BitVec 16 := v.extractLsb' (16 * i) 16
    let byte (v : VBits) (i : Nat) : BitVec 8 := v.extractLsb' (8 * i) 8
    (free (.t k) →
      (∃ y, gives (.mshp n a h r g) 29 y ∧ rest y k ∧ lanesKept y k ∧ (y.shapeOf k).extractLsb' 0 3 = g
          ∧ (y.shapeOf k).extractLsb' 4 4 = r ∧ (y.shapeOf k).extractLsb' 8 3 = h ∧ (y.shapeOf k).extractLsb' 11 3 = a
          ∧ shapeSurv (y.shapeOf k) = shapeSurv w)
        ∧ (∃ y, gives (.tzero n) 29 y ∧ rest y k ∧ (∀ l, l < 16 → y.row k l = 0 ∧ y.scaleRow k l = 0) ∧ y.errOf k = 0
          ∧ (y.shapeOf k).extractLsb' 0 16 = w.extractLsb' 0 16 ∧ shapeSurv (y.shapeOf k) = 0xFFFF)
        ∧ ∃ y, gives (.mskr n 0 0) 29 y ∧ rest y k ∧ lanesKept y k
          ∧ (y.shapeOf k).extractLsb' 0 16 = w.extractLsb' 0 16 ∧ shapeSurv (y.shapeOf k) = 0xFFFF)
      ∧ (free (.t k) → free (.t m.toNat) →
        (∀ q ∈ [(1 : BitVec 2), 2], ∃ y, gives (.mskr n m q) 29 y ∧ rest y k ∧ lanesKept y k
          ∧ (y.shapeOf k).extractLsb' 0 16 = w.extractLsb' 0 16
          ∧ shapeSurv (y.shapeOf k) = if q = 1 then shapeSurv (x.shapeOf m.toNat) else shapeSurv w &&& shapeSurv (x.shapeOf m.toNat))
        ∧ (let sh := x.shapeOf m.toNat
          let src (l : Nat) : VBits := if l ≤ shapeRows sh then x.row m.toNat l else 0
          (shapeTag sh ≠ 0 → exec (.ttr m n ds ss) s = .next (s.trapped f 32 { code := 0x06, tval := (shapeTag sh).setWidth 32 }))
            ∧ (shapeTag sh = 0 → ∃ y, gives (.ttr m n ds ss) 32 y ∧ rest y k ∧ y.errOf k = x.errOf k
              ∧ (y.shapeOf k).extractLsb' 3 29 = w.extractLsb' 3 29 ∧ shapeFmt (y.shapeOf k) = shapeFmt sh
              ∧ (∀ l, l < 16 → y.scaleRow k l = if shapeFmt sh ≤ 2 then 0 else x.scaleRow k l)
              ∧ ∀ i c, i < 16 → c < 16 →
                if shapeFmt sh = 4 ∨ shapeFmt sh = 5 then
                  half (y.row k i) (16 * (ds.toNat % 2) + c) = half (src c) (16 * (ss.toNat % 2) + i)
                    ∧ half (y.row k i) (16 * (1 - ds.toNat % 2) + c) = half (x.row k i) (16 * (1 - ds.toNat % 2) + c)
                else
                  byte (y.row k i) (16 * ds.toNat + c) = byte (src c) (16 * ss.toNat + i)
                    ∧ ∀ e, e < 4 → e ≠ ds.toNat → byte (y.row k i) (16 * e + c) = byte (x.row k i) (16 * e + c))))
      ∧ (free (.t k) → free (.a a.toNat) →
        let d := x.descOf a.toNat
        let rows := reconCols (x.accRows a.toNat) (descCtag d)
        let fmt := if b = 1 then b16 else h16
        ∃ y, exec (.aout n a hf b) s = .next (s.ran f 43 2 (((s.seen f 43).setX y).pay 28 (tagLevel (descCtag d)))) ∧ rest y k
          ∧ (∀ i, i < 16 → y.scaleRow k i = 0) ∧ y.errOf k = descErr d
          ∧ shapeFmt (y.shapeOf k) = 4 + b.toNat ∧ shapeRows (y.shapeOf k) = shapeRows w ∧ shapeTag (y.shapeOf k) = descRtag d
          ∧ shapeSurv (y.shapeOf k) = shapeSurv w
          ∧ ∀ i c, i < 16 → c < 16 →
            half (y.row k i) (16 * hf.toNat + c) = BitVec.ofNat 16 (narrowF fmt 0 (cellOf rows i c)).1
              ∧ half (y.row k i) (16 * (1 - hf.toNat) + c) = half (x.row k i) (16 * (1 - hf.toNat) + c))

/-- ACLR, ACPY and ARD (R182, R184): accumulators cleared, the sort state with all of them; copied with the
descriptor; and a row, a column or a plane's row read into a payload with its tag, where a row in error marks the
firing. On a tile without soft errors (log 53). -/
def Obligations.Accumulators : Prop :=
  ∀ (s : State) (f : Firing) (k : BitVec 3) (n p : BitVec 2) (i : BitVec 4),
    s.runs f → (s.tileAt s.tile).ecc = [] →
    let x := (s.tileAt s.tile).x
    let free (q : Nat) : Prop := (s.tileAt s.tile).owes (.a q) = false
    let cell (y : XRegs) (j r c : Nat) : W32 := cellOf (y.accRows j) r c
    let kept (y : XRegs) (j : Nat) : Prop := y.accRows j = x.accRows j ∧ y.descOf j = x.descOf j
    let rest (y : XRegs) : Prop := { y with acc := [], adesc := [] } = { x with acc := [], adesc := [] }
    let zero (y : XRegs) (j : Nat) : Prop := y.descOf j = 0 ∧ ∀ r c, r < 16 → c < 16 → cell y j r c = 0
    let gives (j : Instr) (y : XRegs) : Prop := exec j s = .next (s.ran f 29 2 ((s.seen f 29).setX y))
    let reads (j : Instr) (b : VBits) (t : BitVec 6) (bad : Bool) : Prop := exec j s = .next (s.ran f 29 2
      { s.seen f 29 with f := { f with o := f.o.set {} p.toNat { bits := b, tag := t }, err := f.err || bad } })
    let d := x.descOf k.toNat
    (free k.toNat → (∃ y, gives (.aclr k 0) y ∧ rest y ∧ zero y k.toNat ∧ ∀ j, j < 4 → j ≠ k.toNat → kept y j)
        ∧ reads (.ard k 0 p 0 i) (ofLanes (cell x k.toNat i.toNat)) (descCtag d) ((descErr d).getLsbD i.toNat)
        ∧ reads (.ard k 0 p 1 i) (ofLanes fun r => cell x k.toNat r i.toNat) (descRtag d) (decide (descErr d ≠ 0)))
      ∧ (∀ q : BitVec 3, reads (.ard q 1 p 0 i) (x.ps.get 0 (16 * q.toNat + i.toNat)) 0 false)
      ∧ ((∀ j, j < 4 → free j) → ∃ y, gives (.aclr 0 1) y ∧ (∀ j, j < 4 → zero y j)
          ∧ y.sort = 0x00000FF0 ∧ y.next = 0 ∧ y.sortKeys = []
          ∧ { y with acc := [], adesc := [], sort := 0, next := 0, sortKeys := [] }
            = { x with acc := [], adesc := [], sort := 0, next := 0, sortKeys := [] })
      ∧ (free k.toNat → free n.toNat → ∃ y, gives (.acpy k n) y ∧ rest y ∧ y.descOf k.toNat = x.descOf n.toNat
          ∧ (∀ r c, r < 16 → c < 16 → cell y k.toNat r c = cell x n.toNat r c)
          ∧ ∀ j, j < 4 → j ≠ k.toNat → kept y j)

/-- MMQ2, MMQ4, MMQ7 and MMI8 (R175, R176, R178): the partial sums of live cells, the sentinel of cells in error, zero
elsewhere, the scale sides, the plane word, and the charge per live cell. Planes that are not named keep their
contents. On a tile without soft errors (log 53). -/
def Obligations.PartialSums : Prop :=
  ∀ (s : State) (f : Firing) (a b : BitVec 4) (k : BitVec 3),
    s.runs f → (s.tileAt s.tile).ecc = [] →
    let x := (s.tileAt s.tile).x
    (s.tileAt s.tile).owes (.t a.toNat) = false → (s.tileAt s.tile).owes (.t b.toNat) = false →
    let up (n m : Nat) : Bool := decide (m ≤ shapeRows (x.shapeOf n)) && (shapeSurv (x.shapeOf n)).getLsbD m
    let bad (n m : Nat) : Bool := (x.errOf n).getLsbD m
    let live := ((List.range 16).filter fun m => up a.toNat m && !bad a.toNat m).length
      * ((List.range 16).filter fun m => up b.toNat m && !bad b.toNat m).length
    let cells (y : XRegs) (p : Nat) (g : Nat → Nat → Int) : Prop := ∀ m n, m < 16 → n < 16 →
      lane (y.ps.get 0 (16 * p + m)) n =
        if up a.toNat m && up b.toNat n then
          if bad a.toNat m || bad b.toNat n then 0x80000000 else BitVec.ofInt 32 (g m n)
        else 0
    let side (z : BitVec 128) (n fmt p : Nat) : Prop := ∀ m, m < 16 →
      (z.extractLsb' (8 * m) 8).toNat = if up n m && !bad n m then scaleExp fmt (x.scaleRow n m) p else 0
    let rest (y : XRegs) (np : Nat) : Prop := (∀ j, 16 * np ≤ j → y.ps.get 0 j = x.ps.get 0 j)
      ∧ { y with ps := [], sideA := [], sideB := [], plane := 0 } = { x with ps := [], sideA := [], sideB := [], plane := 0 }
    let quad (i : Instr) (fa fb nb cls : Nat) : Prop :=
      ∃ y, exec i s = .next (s.ran f 33 2 (((s.seen f 33).setX y).pay cls live)) ∧ rest y nb
        ∧ y.plane.toNat = 2 ^ nb - 1 + 2 ^ 8 + fa * 2 ^ 10 + fb * 2 ^ 12
        ∧ ∀ p, p < nb → side (y.sideA.get 0 p) a.toNat fa p ∧ side (y.sideB.get 0 p) b.toNat fb p
          ∧ cells y p fun m n =>
            let ea := scaleExp fa (x.scaleRow a.toNat m) p
            let eb := scaleExp fb (x.scaleRow b.toNat n) p
            if ea = 0 ∨ eb = 0 then 0
            else ((List.range 16).map fun i => qElem fa (x.row a.toNat m).toNat (16 * p + i) * qElem fb (x.row b.toNat n).toNat (16 * p + i)
              * 2 ^ (2 - scaleMu (x.scaleRow a.toNat m) p (16 * p + i) - scaleMu (x.scaleRow b.toNat n) p (16 * p + i))).sum
    quad (.mmq2 a b k) 0 0 8 34
      ∧ (if shapeFmt (x.shapeOf b.toNat) = 1 then quad (.mmq4 a b k) 1 1 4 35 ∧ quad (.mmq7 a b k) 2 1 4 36
        else quad (.mmq4 a b k) 1 2 4 36 ∧ quad (.mmq7 a b k) 2 2 4 36)
      ∧ ∃ y, exec (.mmi8 a b k) s = .next (s.ran f 33 2 (((s.seen f 33).setX y).pay 37 live)) ∧ rest y 1
        ∧ y.sideA = x.sideA ∧ y.sideB = x.sideB ∧ y.plane.extractLsb' 0 10 = 0x201 ∧ y.plane.extractLsb' 10 22 = x.plane.extractLsb' 10 22
        ∧ cells y 0 fun m n => ((List.range 64).map fun j => ((x.row a.toNat m).extractLsb' (8 * j) 8).toInt
            * ((x.row b.toNat n).extractLsb' (8 * j) 8).toInt).sum

/-- MMH, MMB, SCA, SCAI and AJOIN add to an accumulator (R177, R179 to R182): into a cleared one, or one with the same
tags, each cell takes the contribution and the incoming tags stand; else both sides are reconstructed, added cell by
cell, and the tags are 0. A live cell of MMH and MMB takes one rounding of the sum and one of the addition, and stands
bit for bit where the sum is zero; SCAI takes rows above NROW as zero (R106); SCA and SCAI clear FILL and SRC, and change nothing when SRC is not theirs. On a
tile without soft errors (log 53). -/
def Obligations.AccumulatorSums : Prop :=
  ∀ (s : State) (f : Firing) (a b i j : BitVec 4) (k : BitVec 3) (n : BitVec 2),
    s.runs f → (s.tileAt s.tile).ecc = [] →
    let t := s.tileAt s.tile
    let x := t.x
    t.owes (.t a.toNat) = false → t.owes (.t b.toNat) = false → t.owes (.a k.toNat) = false → t.owes (.a n.toNat) = false →
    let ta := shapeTag (x.shapeOf a.toNat)
    let tb := shapeTag (x.shapeOf b.toNat)
    let d := x.descOf k.toNat
    let old := x.accRows k.toNat
    let grid (g : Nat → Nat → W32) : List VBits := (List.range 16).map fun r => ofLanes (g r)
    let adds (i : Instr) (cls : Nat) (ra cb : BitVec 6) (rule : Nat → Nat → W32 → W32) (bad : Nat → Bool)
        (pl : W32) (more : List (Nat × Nat)) : Prop :=
      ∃ (y : XRegs) (fl : Flags), { y with acc := [], adesc := [], plane := 0 } = { x with acc := [], adesc := [], plane := 0 }
        ∧ y.plane = pl ∧ (∀ q, q < 4 → q ≠ k.toNat → y.accRows q = x.accRows q ∧ y.descOf q = x.descOf q)
        ∧ (if old.all (fun r => decide (r = 0)) ∨ (descRtag d = ra ∧ descCtag d = cb) then
            exec i s = .next (s.ran f cls 2 { (s.seen f cls).setX y |>.flag fl with extra := more })
              ∧ y.accRows k.toNat = grid (fun m c => rule m c (cellOf old m c))
              ∧ descRtag (y.descOf k.toNat) = ra ∧ descCtag (y.descOf k.toNat) = cb
              ∧ ∀ m, m < 16 → (descErr (y.descOf k.toNat)).getLsbD m = ((descErr d).getLsbD m || bad m)
          else
            let p := recon old (descRtag d) (descCtag d)
            let q := recon (grid fun m c => rule m c 0) ra cb
            let lv := tagLevel (descRtag d) + tagLevel (descCtag d) + tagLevel ra + tagLevel cb
            exec i s = .next (s.ran f cls 2 { (s.seen f cls).setX y |>.flag fl with
                extra := (if lv = 0 then [] else [(28, lv)]) ++ more })
              ∧ y.accRows k.toNat = grid (fun m c => (addF (cellOf p m c) (cellOf q m c)).1)
              ∧ descRtag (y.descOf k.toNat) = 0 ∧ descCtag (y.descOf k.toNat) = 0
              ∧ ∀ m, m < 16 → (descErr (y.descOf k.toNat)).getLsbD m = ((List.range 16).any fun r =>
                (decide (r / 2 ^ tagLevel (descRtag d) = m / 2 ^ tagLevel (descRtag d)) && (descErr d).getLsbD r)
                  || (decide (r / 2 ^ tagLevel ra = m / 2 ^ tagLevel ra) && bad r)))
    let live (m c : Nat) : Bool := x.good a.toNat m && x.good b.toNat c
    let n0 := x.liveCells a.toNat b.toNat
    let bad (m : Nat) : Bool := (List.range 16).any (x.cellErr a.toNat b.toNat m)
    let dot (h : Fmt) (m c : Nat) (w : W32) : W32 :=
      if live m c then
        match dotHalf h (x.row a.toNat m) (x.row b.toNat c) with
        | none => w
        | some e => (addF w e.1).1
      else w
    let cost (c m : Nat) : List (Nat × Nat) := if m = 0 then [] else [(c, m)]
    let src := x.plane.extractLsb' 8 2
    let ps := (List.range 8).filter fun p => x.plane.getLsbD p
    let empty := x.plane &&& 0xFFFFFC00
    adds (.mmh a b k) 33 ta tb (dot h16) bad x.plane (cost 38 n0)
      ∧ adds (.mmb a b k) 33 ta tb (dot b16) bad x.plane (cost 39 n0)
      ∧ (src ≠ 1 → exec (.sca a b k) s = .next (s.ran f 0 2 { s.seen f 0 with extra := [(33, 1)] }))
      ∧ (src = 1 → adds (.sca a b k) 0 ta tb (fun m c w => ps.foldl (fun u p =>
            let q := lane (x.ps.get 0 (16 * p + m)) c
            let ea := ((x.sideA.get 0 p).extractLsb' (8 * m) 8).toNat
            let eb := ((x.sideB.get 0 p).extractLsb' (8 * c) 8).toNat
            if q = 0x80000000 ∨ q = 0 ∨ ea = 0 ∨ eb = 0 then u
            else (addF u (scaleInt q.toInt ((ea : Int) + eb - 256 - (planeBits (x.plane.extractLsb' 10 2).toNat
              + planeBits (x.plane.extractLsb' 12 2).toNat))).1).1) w)
          (fun m => ps.any fun p => (x.sentinels p).getLsbD m) empty (cost 40 ps.length))
      ∧ (src ≠ 2 → exec (.scai a b k j i) s = .next (s.ran f 0 2 { s.seen f 0 with extra := [(33, 1)] }))
      ∧ (src = 2 → adds (.scai a b k j i) 0 ta tb (fun m c w =>
            let p := lane (x.ps.get 0 m) c
            if p = 0x80000000 then w
            else (scaleCell w (lane (if i.toNat ≤ shapeRows (x.shapeOf a.toNat) then x.row a.toNat i.toNat else 0) m)
              (lane (if j.toNat ≤ shapeRows (x.shapeOf b.toNat) then x.row b.toNat j.toNat else 0) c) p).1)
          (fun m => (x.sentinels 0).getLsbD m) empty [(41, 1)])
      ∧ (adds (.ajoin k n) 42 (descRtag (x.descOf n.toNat)) (descCtag (x.descOf n.toNat))
          (fun m c w => (addF w (cellOf (x.accRows n.toNat) m c)).1)
          (fun m => (descErr (x.descOf n.toNat)).getLsbD m) x.plane [])

/-- Waiting for an owed write, TLD, AIN, TFEAT and TST (R168, R170, R172, R187). An instruction that reads or writes a
register to which a write is owed does not issue, and its firing waits. TLD, AIN and TFEAT complete in every state: the firing stands
behind the instruction and the write is owed at the end of the list; TLD and AIN grant their channel one permit, up to 64. Both forms
of TST complete where no write to their source is owed and the storer, which holds two tiles, has room: it takes the tile, with rows
above NROW as zero, as every matrix instruction reads them (R106), and the registers stand. Without room the firing waits. On a tile
without soft errors (log 53). -/
def Obligations.OwedWrites : Prop :=
  ∀ (s : State) (f : Firing) (a b i j : BitVec 4) (k g h : BitVec 3) (n : BitVec 2) (c e : BitVec 1),
    s.runs f → (s.tileAt s.tile).ecc = [] →
    let t := s.tileAt s.tile
    let r := s.berth s.tile f.berth
    let waits (q : Instr) (rs : List XReg) : Prop :=
      (∃ z ∈ rs, t.owes z = true) → exec q s = .next (s.setFiring s.tile s.slot { f with wait := .owed })
    let owes (q : Instr) (o : Owed) : Prop := ∃ u, exec q s = .next u ∧ u.firing s.tile s.slot = some (f.advance 2)
      ∧ (u.tileAt s.tile).owed.map (fun z => { z with data := none }) = (t.owed ++ [o]).map (fun z => { z with data := none })
      ∧ (u.tileAt s.tile).x = t.x
    let chan := bindChan r n.toNat
    let m := chanTile (coveOfTile s.tile) chan
    let walker : Owed := { reg := .tile a.toNat, cove := coveOfTile s.tile, chan := chan, cx := f.cx.toNat, since := s.now }
    let permit (q : Instr) : Prop := ∃ u, exec q s = .next u ∧ (u.tileAt m).mu.permits = Nat.min 64 ((s.tileAt m).mu.permits + 1)
    let stores (q : Instr) (z : XReg) (w : MTile → Prop) : Prop :=
      (t.owes z = false → 2 ≤ (s.tileAt m).mu.storebuf.length → exec q s = .next (s.setFiring s.tile s.slot { f with wait := .storeBuffer }))
        ∧ (t.owes z = false → (s.tileAt m).mu.storebuf.length < 2 → ∃ u d, exec q s = .next u
          ∧ u.firing s.tile s.slot = some (f.advance 2) ∧ w d
          ∧ (u.tileAt m).mu.storebuf = (s.tileAt m).mu.storebuf ++ [d] ∧ (u.tileAt s.tile).x = t.x)
    (waits (.mshp a g h b k) [.t a.toNat] ∧ waits (.tzero a) [.t a.toNat] ∧ waits (.mskr a 0 0) [.t a.toNat]
        ∧ (n ≠ 0 → waits (.mskr a b n) [.t a.toNat, .t b.toNat]) ∧ waits (.ttr a b n n) [.t a.toNat, .t b.toNat]
        ∧ waits (.tstTile a n) [.t a.toNat] ∧ waits (.tstAcc k g n) [.a k.toNat] ∧ waits (.aout a k c e) [.t a.toNat, .a k.toNat]
        ∧ waits (.mmq2 a b k) [.t a.toNat, .t b.toNat] ∧ waits (.mmq4 a b k) [.t a.toNat, .t b.toNat]
        ∧ waits (.mmq7 a b k) [.t a.toNat, .t b.toNat] ∧ waits (.mmi8 a b k) [.t a.toNat, .t b.toNat]
        ∧ (∀ q ∈ [Instr.mmh a b k, .mmb a b k, .sca a b k, .scai a b k j i], waits q [.t a.toNat, .t b.toNat, .a k.toNat])
        ∧ waits (.aclr k 0) [.a k.toNat] ∧ waits (.aclr 0 1) [.a 0, .a 1, .a 2, .a 3]
        ∧ waits (.ajoin k n) [.a k.toNat, .a n.toNat] ∧ waits (.acpy k n) [.a k.toNat, .a n.toNat]
        ∧ waits (.ard k 0 n e i) [.a k.toNat] ∧ waits (.srtk a) [.t a.toNat])
      ∧ owes (.tld a n) walker ∧ owes (.ain k n) { walker with reg := .acc k.toNat } ∧ permit (.tld a n) ∧ permit (.ain k n)
      ∧ owes (.tfeat a c) { reg := .feat a.toNat (bindGrid r s.tile c.toNat), cove := coveOfTile s.tile, cx := f.cx.toNat }
      ∧ (stores (.tstTile a n) (.t a.toNat) (fun d => (∀ l, l < 16 →
            d.rows.get 0 l = (if l ≤ shapeRows (t.x.shapeOf a.toNat) then t.x.row a.toNat l else 0)
              ∧ d.scale.get 0 l = if l ≤ shapeRows (t.x.shapeOf a.toNat) then t.x.scaleRow a.toNat l else 0)
            ∧ d.shape = t.x.shapeOf a.toNat ∧ d.errf = t.x.errOf a.toNat ∧ d.f32 = false)
        ∧ (g.toNat < 4 → stores (.tstAcc k g n) (.a k.toNat) (fun d => shapeFmt d.shape = g.toNat
            ∧ shapeTag d.shape = descRtag (t.x.descOf k.toNat) ∧ shapeRows d.shape = 15 ∧ d.errf = descErr (t.x.descOf k.toNat)
            ∧ d.f32 = decide (g = 3) ∧ (g = 3 → ∀ l, l < 16 → d.rows.get 0 l =
              (reconCols (t.x.accRows k.toNat) (descCtag (t.x.descOf k.toNat))).getD l 0))))

/-- SRTCFG, SRTK and SRTF (R185, R186): the configuration; the keys kept, in order, by key and then index; the count,
the index of the next key and the mark of a row in error; and a chunk of the sorted keys and indices read into two
payloads. The charge of SRTK is the model's reading (log 38). On a tile without soft errors (log 53). -/
def Obligations.SortMode : Prop :=
  ∀ (s : State) (f : Firing) (run : BitVec 8) (d z : BitVec 1) (kt p q : BitVec 2) (n i : BitVec 4),
    s.runs f → (s.tileAt s.tile).ecc = [] →
    let x := (s.tileAt s.tile).x
    let runs (j : Instr) (cls : Nat) (v : View) : Prop := exec j s = .next (s.ran f cls 2 v)
    let rank (w : W32) : Nat := match (x.sort.extractLsb' 1 2).toNat with
      | 0 => w.toNat
      | 1 => (w.toInt + 2 ^ 31).toNat
      | _ => if w.getLsbD 31 then 2 ^ 32 - 1 - w.toNat else w.toNat + 2 ^ 31
    let le (u v : W32 × W32) : Prop := rank u.1 = rank v.1 ∧ u.2.toNat ≤ v.2.toNat
      ∨ rank u.1 ≠ rank v.1 ∧ (rank u.1 < rank v.1 ↔ x.sort.getLsbD 3 = false)
    let nr := shapeRows (x.shapeOf n.toNat) + 1
    let sane := (List.range nr).filter fun r => !(x.errOf n.toNat).getLsbD r
    let offered := sane.flatMap fun r => (List.range 16).map fun c =>
      ((lane (x.row n.toNat r) c, x.next + BitVec.ofNat 32 (16 * r + c)) : W32 × W32)
    (∃ w : W32, runs (.srtcfg run d kt) 29 ((s.seen f 29).setX { x with sort := w, next := 0, sortKeys := [] })
        ∧ w.getLsbD 0 = true ∧ w.extractLsb' 1 2 = kt ∧ w.getLsbD 3 = d.getLsbD 0 ∧ w.extractLsb' 4 8 = run ∧ w.extractLsb' 12 20 = 0)
      ∧ ((s.tileAt s.tile).owes (.t n.toNat) = false →
        (x.sort.getLsbD 0 = false → runs (.srtk n) 0 ((s.seen f 0).pay 44 sane.length))
          ∧ (x.sort.getLsbD 0 = true → x.sortKeys.Pairwise le →
            ∃ (w : W32) (l : List (W32 × W32)),
              runs (.srtk n) 0 (((s.seen f 0).pay 44 sane.length).setX
                { x with sort := w, next := x.next + BitVec.ofNat 32 (16 * nr), sortKeys := l })
              ∧ w.extractLsb' 0 12 = x.sort.extractLsb' 0 12
              ∧ w.getLsbD 21 = (x.sort.getLsbD 21 || decide (sane.length < nr))
              ∧ (w.extractLsb' 12 9).toNat = l.length
              ∧ ∃ r, (l ++ r).Perm (x.sortKeys ++ offered) ∧ (l ++ r).Pairwise le
                ∧ l.length = Nat.min (x.sortKeys.length + offered.length) ((x.sort.extractLsb' 4 8).toNat + 1)))
      ∧ (p ≠ q → ∃ (ks is : VBits) (y : XRegs), runs (.srtf z i q p) 45 { (s.seen f 45).setX y with
            f := { f with o := (f.o.set {} p.toNat { bits := ks }).set {} q.toNat { bits := is }, err := f.err || x.sort.getLsbD 21 } }
          ∧ (∀ c, c < 16 → ((lane ks c, lane is c) : W32 × W32) = x.sortKeys.getD (16 * i.toNat + c) (0, 0xFFFFFFFF))
          ∧ (z = 0 → y = x)
          ∧ (z = 1 → y.sortKeys = [] ∧ y.next = 0 ∧ y.sort.extractLsb' 0 12 = x.sort.extractLsb' 0 12 ∧ y.sort.extractLsb' 12 20 = 0
            ∧ { y with sort := 0, next := 0, sortKeys := [] } = { x with sort := 0, next := 0, sortKeys := [] }))

/-! ## Events -/

/-- Tokens, credits and admission (R25, R26, R34, R35, R38, R259, R261, R263, R265, R271, R283, R327). A token whose
generation is stale is dropped and counted; another lands at its berth, readable when its flits are in. The start
token starts its tile; an operand moves from its pool slot to the matching store, with that full to its frame's spill area, one
of each in an fc, or is discarded without its frame; a credit comes back, as do those that a firing reserved and did not use; the chosen
berth is admitted with its inputs bound; records leave on their fault edge, the agent's intake on that of log 106; those that wait for
their ring are posted once its lines are not PEND (log 11); a ray that has crossed its lanes goes on in its new ring (log 113). The operands of the
steps are the model's (log 90), as are the times that log 2 leaves out and the readings of logs 24, 28, 42, 44 and 56. -/
def Obligations.TokenEvents : Prop :=
  ∀ s : State,
    let a := s.ev.a
    let b := s.ev.b
    let goes (i : Instr) (p : State → Prop) : Prop := ∃ u, exec i s = .next u ∧ p u
    let x := s.tileAt a
    (∀ fl c, s.ev.l = [] → s.net.flights.look a = some fl → s.chan fl.chan = some c → fl.legs = [] →
        let stale := c.part ≠ agentPart ∧ fl.tok.gen ≠ (s.vf fl.tok.ctx.toNat).gen
        (stale → goes .tokenArrival fun u => u.net.flights.look a = none ∧ (∀ t, (u.tileAt t).wait = (s.tileAt t).wait)
          ∧ (u.acct fl.tok.ctx.toNat).drop = Nat.min 0xFFFFFFFF ((s.acct fl.tok.ctx.toNat).drop + 1))
        ∧ (¬stale → ∀ t k p, c.dst = .berth t k p → goes .tokenArrival fun u => u.net.flights.look a = none
          ∧ ∃ w ∈ (u.tileAt fl.tok.dest).wait, w.tok = fl.tok ∧ w.chan = fl.chan ∧ w.berth = k ∧ w.port = p ∧ w.since = s.now
            ∧ w.ready = s.now + fl.tok.nflit.toNat + 1 ∧ w.bound = false))
      ∧ (∀ fl r, s.ev.l = [] → s.net.flights.look a = some fl → s.chan fl.chan = none → fl.legs = [] → fl.ray = some r →
        goes .tokenArrival fun u => u.net.flights.look a = none
          ∧ (s.now, Instr.rayNodeVisit, ({ a := r.cove, b := r.slot } : EvArg)) ∈ u.agenda)
      ∧ (∀ ts r, x.ctlq = ts :: r → goes .controlTokenTake fun u => (u.tileAt a).ctlq = r ∧ (u.tileAt a).started = true)
      ∧ (∀ w, s.poolOperands a = [w] →
        let to_ (p : OpPlace) : List Waiting := x.wait.map fun y => if y.id = w.id then { y with place := p } else y
        let held := (x.wait.filter fun y => decide (y.place = .store)).length
        (held < 64 → x.lastStore ≠ some s.now → goes .operandRetry fun u => (u.tileAt a).wait = to_ .store)
          ∧ (held < 64 → x.lastStore = some s.now → goes .operandRetry fun u => (u.tileAt a).wait = x.wait)
          ∧ ∀ k, 64 ≤ held → x.frameOf w.berth w.tok.itag = some k →
            (x.frames.get {} k).pres.get false (spillSlot (x.frames.get {} k).size w.port) = false → x.lastSpill ≠ some s.now →
            goes .operandRetry fun u => (u.tileAt a).wait = to_ .spill
              ∧ (u.tileAt a).frames.look k = some ((x.frames.get {} k).spill w.port w.tok))
      ∧ (∀ w, x.wait.find? (fun y => decide (y.id = b)) = some w → w.place = .pool → w.bound = false →
        x.frameOf w.berth w.tok.itag = none → goes .poolSlotTimeout fun u =>
          (u.tileAt a).wait = x.wait.filter fun y => !decide (y.id = b))
      ∧ (∀ c, s.chan a = some c → (s.srcTiles c).getD s.ev.c gapTile ≠ gapTile →
        ((∀ p, c.src ≠ .remote p) → s.ev.l = [] → goes .creditReturn fun u => u.credits a b s.ev.c = s.credits a b s.ev.c + 1)
          ∧ ∀ n r, s.ev.l = n :: r → goes .creditReturn fun u => u.credits a b s.ev.c = s.credits a b s.ev.c + n)
      ∧ (∀ c, s.chan a = some c → (s.srcTiles c).getD s.ev.c gapTile = gapTile → s.ev.l = [] →
        exec .creditReturn s = .next (s.freeCredit ((s.dstTiles c).getD b 0) a b))
      ∧ (∀ k, s.admits a = some k → ∃ ins rs n slot, s.ready a k = some (ins, rs, n) ∧ s.freeSlot a = some slot
        ∧ goes .firingAdmission fun u => ∃ f, u.firing a slot = some f ∧ f.berth = k ∧ f.pc = 0 ∧ f.resv = rs ∧ f.rings = n
          ∧ f.p = 1 ∧ f.w = [] ∧ f.bound = ins.map (fun e => (e.1, e.2.map x.operand)) ∧ (s.run a k).lastPts ≤ f.pts
          ∧ (∀ e ∈ ins, ∀ w ∈ e.2, (x.operand w).lts ≤ f.pts)
          ∧ ∀ w ∈ (u.tileAt a).wait, (∃ e ∈ ins, ∃ y ∈ e.2, y.id = w.id) → w.bound = true)
      ∧ (goes .yieldBackoffExpiry fun u => (u.run a b).backoff = none)
      ∧ (∀ r rest ch c, s.chan ch = some c → s.credits ch 0 0 ≠ 0 →
        let leaves (left : State → List FaultRec) : Prop := goes .faultEdgeSend fun u => left u = rest
          ∧ u.credits ch 0 0 = s.credits ch 0 0 - 1
          ∧ ∃ id fl, u.net.flights.look id = some fl ∧ fl.chan = ch ∧ fl.tok.handled = some r ∧ fl.tok.nflit = 2
        (¬(a = agentPart ∧ b = 6) → (s.hd.faults.get {} a).toEdge.get [] b = r :: rest → s.faultEdge a b = some ch →
            leaves fun u => (u.hd.faults.get {} a).toEdge.get [] b)
          ∧ (a = agentPart → b = 6 → s.hd.fintake = r :: rest → s.intakeEdge = some ch → leaves fun u => u.hd.fintake))
      ∧ (let unit (u : State) : FaultUnit := u.hd.faults.get {} a
        (∀ r rest, (unit s).waitXlate = r :: rest → (unit s).waitPend = [] → s.queuePend a r.vf.toNat = false →
          s.queueFull a r.vf.toNat = false → goes .xlateRecordPost fun u => (unit u).waitXlate <:+ rest
            ∧ ∀ q l, (unit u).waitXlate = q :: l → u.queueFull a q.vf.toNat = true ∨ u.queuePend a q.vf.toNat = true)
        ∧ ∀ e rest, (unit s).waitXlate = [] → (unit s).waitPend = e :: rest →
          (s.queuePend a e.1.vf.toNat = true → goes .xlateRecordPost fun u => (unit u).waitPend = e :: rest ∧ u.mem = s.mem
              ∧ (s.now + 1, Instr.xlateRecordPost, ({ a := a } : EvArg)) ∈ u.agenda)
            ∧ (s.queuePend a e.1.vf.toNat = false → goes .xlateRecordPost fun u => (unit u).waitPend <:+ rest))

/-- Lanes and links (R48, R279, R370): a lane sends four tokens of each virtual channel, of those that no earlier tag holds back
(log 94), and its marker, advances when no lane that feeds it is late; a flit is sent again up to 8 times, then its tokens are
lost and the port retrains, with the device that it is paired with. Page walks that end, and shared units (R275, R276, R309): a
walk without a fault installs its entry and lets its requests go on; a unit serves the first request of the account whose slot
it is; a written table takes effect whole. The operands of the steps and the numbers of the lanes are the model's (logs 90 and
54), as are the readings of logs 40, 41, 46, 66 and 94 and what log 105 leaves out. -/
def Obligations.LanesAndUnits : Prop :=
  (∀ s : State,
    let a := s.ev.a
    let goes (i : Instr) (p : State → Prop) : Prop := ∃ u, exec i s = .next u ∧ p u
    let l := s.tlane a
    let r := if s.ev.b = 0 then 0 else (s.net.ports.get {} a).retries.get 0 s.ev.c
    let go (v : Nat) : List Nat := ((l.vcs.get [] v).filter fun id => !s.laneHeld id).take 4
    (s.laneUp a = true → l.sentMarker = false → goes .roundMarkerSend fun u => (u.tlane a).sentMarker = true
        ∧ (u.tlane a).round = l.round ∧ (∀ v, v < 8 → go v ≠ [] → 8 * l.round + v ∈ (u.tlane a).owing)
        ∧ (∀ v, v < 8 → (u.tlane a).vcs.get [] v = (l.vcs.get [] v).filter fun id => !(go v).contains id)
        ∧ ∀ v, v < 8 → ∀ id ∈ go v, (s.net.flights.look id).isSome = true →
          ∃ n, (n, Instr.tokenArrival, ({ a := id } : EvArg)) ∈ u.agenda)
      ∧ (s.laneUp a = false → goes .roundMarkerSend fun u => (s.now + 1, Instr.roundMarkerSend, ({ a := a } : EvArg)) ∈ u.agenda)
      ∧ (s.ev.b = 1 → goes .laneRoundAdvance fun u => (u.tlane a).crossed = s.ev.c + 1
        ∧ ∀ o ∈ (u.tlane a).owing, s.ev.c < o / 8)
      ∧ (s.ev.b ≠ 1 → l.sentMarker = true → (∀ f ∈ l.feeds, l.round < (s.tlane f).crossed) →
        goes .laneRoundAdvance fun u => (u.tlane a).round = l.round + 1 ∧ (u.tlane a).sentMarker = false)
      ∧ (r < 8 → goes .linkFlitRetry fun u => (u.net.ports.get {} a).retries.get 0 s.ev.c = r + 1)
      ∧ (8 ≤ r → goes .linkFlitRetry fun u => (s.now, Instr.linkTokenLost, s.ev) ∈ u.agenda)
      ∧ (goes .linkTokenLost fun u => (∀ id ∈ s.ev.l, u.net.flights.look id = none) ∧ (u.net.ports.get {} a).trained = false
        ∧ (s.now + 1, Instr.portRetrain, ({ a := a } : EvArg)) ∈ u.agenda)
      ∧ (goes .portRetrain fun u => let p := u.net.ports.get {} a
        p.peer = (if s.ev.b = 0 then (s.net.ports.get {} a).peer else some (s.ev.b - 1)) ∧ p.trained = p.peer.isSome ∧ p.retries = []))
  ∧ (∀ s : State,
    let e := s.ev
    let goes (i : Instr) (p : State → Prop) : Prop := ∃ u, exec i s = .next u ∧ p u
    (∀ page vf m w k g rest f j u t, e.c = page → e.l = [vf, m] →
        (s.tileAt m).mu.walks.find? (fun w => decide (w.vf = vf) && decide (w.page = page)) = some w → w.stale = false →
        s.walkers m vf page e.a e.b = (k, g) :: rest → s.firing k g = some f → f.job = some j →
        s.walk m vf (s.account k f.cx.toNat) f.pts (j.ops.headD {}).va (j.ops.headD {}).need = .ok u t →
        exec .pageWalkComplete s = .next (((u.modMu m fun x => { x with tlb := tlbInstall x.tlb t }).endWalk m vf page).restartAll
          ((k, g) :: rest)))
      ∧ (∀ v r, s.slotAccount e.a (s.now % 256) (s.hd.unitq.get [] e.a) = some v →
        (s.hd.unitq.get [] e.a).find? (fun q => decide (q.1 = v)) = some r → goes .unitSlotService fun u =>
          (∃ p q, s.hd.unitq.get [] e.a = p ++ r :: q ∧ (∀ y ∈ p, y.1 ≠ v) ∧ u.hd.unitq.get [] e.a = p ++ q)
            ∧ ∀ f j o x, s.atHome (r.2 / 8) (r.2 % 8) = some (f, j, o, x) →
              (s.now, homeEvent o x, ({ a := r.2 / 8, b := r.2 % 8 } : EvArg)) ∈ u.agenda)
      ∧ (goes .tideTableSwitch fun u => e.a ∉ u.hd.tideNew
        ∧ (∀ c, c < 256 → u.tideEntry e.a c = s.hd.tideNext.get 0 (e.a * 256 + c))
        ∧ ∀ n c, n ≠ e.a → c < 256 → u.tideEntry n c = s.tideEntry n c)
      ∧ (∀ i, s.hd.invals.look e.a = some i → i.waits.filter s.stillWaits ≠ [] → goes .invalidationComplete fun u =>
        (s.now + 1, Instr.invalidationComplete, ({ a := e.a } : EvArg)) ∈ u.agenda)
      ∧ (∀ i, s.hd.invals.look e.a = some i → i.waits.filter s.stillWaits = [] → goes .invalidationComplete fun u =>
        u.hd.invals.look e.a = none ∧ (∀ v, i.host = some v → (u.hd.bars.get {} v).tlbbusy = false)
          ∧ (i.host = none → u.hd.win = { s.hd.win with busy := false, status := 0 })))

/-- What a memory access waits for (R198, R199, R208 to R212, R223, R226, R228, R276, R307, R309, R361, R391). A load
that reaches its home takes the data there and extends the lease by that of its issue; a store that keeps the firing within 128 held
lines reserves its line; an atomic replaces the word; a home-11 load takes the channel's clock; a reply resumes its firing, which stands
behind the instruction, with the data. The operands of the steps
are the model's (log 90), as are the readings of logs 13, 23,
27, 30, 31, 35, 100 and 112. -/
def Obligations.AccessEvents : Prop :=
  ∀ (s : State) (f : Firing) (j : Job) (o : LineOp) (x : Xl) (rest : List LineOp),
    let a := s.ev.a
    let b := s.ev.b
    s.firing a b = some f → f.job = some j → j.ops = o :: rest →
    let goes (i : Instr) (p : State → Prop) : Prop := ∃ u, exec i s = .next u ∧ p u
    let at_ (u : State) (p : Firing → Job → Prop) : Prop := ∃ g h, u.firing a b = some g ∧ g.job = some h ∧ p g h
    let due (u : State) (d : Nat) (i : Instr) : Prop := (s.now + d, i, ({ a := a, b := b } : EvArg)) ∈ u.agenda
    let line := x.pa / 128
    let m := servingTile (coveOfTile a) x.pa
    let r := s.homeDir x
    let w := Nat.max f.pts (r.rts + 1)
    let c := s.account a f.cx.toNat
    let word (u : State) : W32 := BitVec.ofNat 32 (leNat (u.pmBytes x.pa 4))
    let back (i : Instr) : Prop := goes i fun u => at_ u (fun _ h => h.stage = .home) ∧ due u 0 (homeEvent o x)
    (j.xl = some x → j.stage = .home → x.home = 1 → r.pend = false → s.heldEntry a b x = none →
        (o.kind = .load → o.back = 0 → x.pa % 128 + o.len ≤ 128 → goes .loadHomeRequest fun u => due u 0 .memoryReply
            ∧ u.mem.pm = s.mem.pm ∧ (u.homeDir x).wts = r.wts ∧ (u.homeDir x).rts = Nat.max r.rts (f.pts + j.lease)
            ∧ at_ u fun g h => h.stage = .reply ∧ g.pts = Nat.max f.pts r.wts
              ∧ ∀ i, i < o.len → h.buf.get 0 (o.dst + i) = s.pmByte (x.pa + i))
          ∧ (o.kind = .store → s.overflowAt a b f j = none → (s.tileAt m).mu.berm.length < 128 →
            goes .ownershipRequest fun u => due u 0 .memoryReply ∧ u.mem.pm = s.mem.pm
              ∧ u.homeDir x = { wts := w, rts := w, own := BitVec.ofNat 9 (coveOfTile a), pend := true, tile := a, slot := b,
                                   base := r.wts }
              ∧ (∃ e, (u.tileAt m).mu.berm = (s.tileAt m).mu.berm ++ [e] ∧ e.line = line ∧ e.place = placeKey x ∧ e.data = o.data ∧ e.mask = o.mask
                ∧ e.tile = a ∧ e.slot = b ∧ e.w = w)
              ∧ at_ u fun g h => h.stage = .reply ∧ g.pts = w)
          ∧ (o.kind = .rmw → o.fn = .add → x.pa % 4 = 0 → goes .atomicHomeOperation fun u => due u 0 .memoryReply
            ∧ word u = word s + o.b ∧ (∀ k, k < x.pa ∨ x.pa + 4 ≤ k → u.pmByte k = s.pmByte k)
            ∧ (u.homeDir x).wts = w ∧ (u.homeDir x).rts = w
            ∧ at_ u fun g h => h.stage = .reply ∧ g.pts = w ∧ h.old = word s))
      ∧ (j.xl = some x → j.stage = .home → x.home = 3 → o.kind = .load → goes .memoryChannelOperation fun u => due u 0 .memoryReply
          ∧ u.cwts x.pa = Nat.max f.pts (s.cwts x.pa)
          ∧ at_ u fun g h => h.stage = .reply ∧ g.pts = Nat.max f.pts (s.cwts x.pa))
      ∧ (∀ n way, j.xl = some x → j.stage = .fill n → (x.home = 0 ∨ x.home = 2) → s.l2Look x.slice line = none →
        (s.dirOf (sliceKey x.slice line)).pend = false → s.chooseWay x.slice line c = .free way → ∀ i ∈ [Instr.l2Fill, .fillWaitResume], goes i fun u =>
          at_ u (fun _ h => h.stage = .home) ∧ due u 0 (homeEvent o x)
            ∧ u.dirOf (sliceKey x.slice line) = { wts := s.mem.mxr.get 0 x.slice, rts := s.mem.mxr.get 0 x.slice }
            ∧ u.occ x.slice c = s.occ x.slice c + 1
            ∧ ∃ e, u.l2Look x.slice line = some e ∧ e.way = way ∧ e.ctx = c ∧ e.dirty = false ∧ e.data = (s.sliceRead x.slice line x.key c).1)
      ∧ (j.xl = some x → j.stage = .berm → back .bermWaitResume)
      ∧ (j.xl = some x → f.wait = .seqn → back .seqnResume)
      ∧ (∀ n, j.xl = some x → j.stage = .pend n → back .accessRetry)
      ∧ (∀ d n, j.stage = .reply → rest = [] → j.cont = .scalar (.w d) n false → goes .memoryReply fun u =>
        ∃ g, u.firing a b = some g ∧ g.job = none ∧ g.wait = .no ∧ g.w.get 0 d.toNat = BitVec.ofNat 32 (j.num 0 n)
          ∧ g.pc = f.pc ∧ g.loops = f.loops)
      ∧ (∀ vf page, j.stage = .walk → s.walkKey a f = some (vf, page) →
        let walks (u : State) := (u.tileAt (xlatTile a)).mu.walks
        let shared := (walks s).any fun e => decide (e.vf = vf) && decide (e.page = page)
        goes .pageWalk fun u => (shared = true → walks u = walks s)
          ∧ (shared = false → (walks s).length < 8 → walks u = walks s ++ [{ vf := vf, page := page }]
            ∧ (s.now + 1, Instr.pageWalkComplete, ({ a := a, b := b, c := page, l := [vf, xlatTile a] } : EvArg)) ∈ u.agenda)
          ∧ (shared = false → 8 ≤ (walks s).length → walks u = walks s ∧ (a, b) ∈ (u.tileAt (xlatTile a)).mu.inq))


/-- Tasks and copy engines (R50, R170, R220, R242 to R244, R247, R266, R267, R272, R355, R394): a ready task enters its FIFO; the
cove's task unit applies the changes of an fc; a compute task sends its start token, a copy task queues its command with its template,
whose timestamp its cts takes; a command starts, copies a line, marks its passes and, complete, sets its event; walkers form
their tiles; a store walk holds the bytes of a line back until no row to come touches it, writes it once, and stops at a misaligned
row. A step after an F_XLATE takes up what was read before it, and a command that stands in the input buffer of its M-tile goes on in
its turn. The operands of the steps are the model's (log 90), as are the readings of logs 11, 18, 37, 45, 55, 100 and 104. -/
def Obligations.EngineEvents : Prop :=
  ∀ s : State,
    let a := s.ev.a
    let goes (i : Instr) (p : State → Prop) : Prop := ∃ u, exec i s = .next u ∧ p u
    let due (u : State) (d : Nat) (i : Instr) (e : EvArg) : Prop := (s.now + d, i, e) ∈ u.agenda
    let c := s.coveAt a
    let mu (u : State) : MUnit := (u.tileAt a).mu
    ((s.ev.c ≠ 1 → c.taskReady s.ev.b = true → goes .taskReady fun u => ((u.coveAt a).tasks.get {} s.ev.b).state = 3
        ∧ (u.coveAt a).fifos.get [] (taskPrio (c.tasks.get {} s.ev.b).record)
          = c.fifos.get [] (taskPrio (c.tasks.get {} s.ev.b).record) ++ [(s.ev.b, s.now)]
        ∧ due u 1 .computeTaskDispatch { a := a })
      ∧ (∀ k n ts, s.ev.c = 1 → n < 256 → c.due = [.event k n ts] → goes .taskReady fun u =>
        (u.coveAt a).events.getLsbD n = true ∧ ts ≤ (u.coveAt a).ets.get 0 n ∧ (u.coveAt a).due = [])
      ∧ (∀ x ts lts, s.ev.c = 1 → c.due = [.finish x ts lts] → goes .taskReady fun u =>
        (u.coveAt a).tasks.look x = none ∧ ∀ n, n < 256 → (setMaskOf (c.tasks.get {} x).record).getLsbD n = true →
          (u.coveAt a).events.getLsbD n = true)
      ∧ (∀ p x, s.dispatchNext a s.ev.l = some (p, x) →
        let t := c.tasks.get {} x
        let popped (u : State) : Prop := (u.coveAt a).fifos.get [] p = (c.fifos.get [] p).drop 1
          ∧ (u.coveAt a).lastDispatch = some s.now ∧ ((u.coveAt a).tasks.get {} x).state = 4
        (∀ ch k, isCompute t.record = true → s.taskChan a t.record = some ch → s.chan ch = some k → goes .computeTaskDispatch fun u =>
          popped u ∧ u.credits ch 0 0 = s.credits ch 0 0 - 1
            ∧ ∃ id fl, u.net.flights.look id = some fl ∧ fl.chan = ch ∧ fl.tok.task = some x ∧ fl.tok.lts = t.cts
              ∧ fl.tok.cls = t.record.extractLsb' 32 8 ∧ lane fl.tok.pay 0 = t.record.extractLsb' 64 32)
        ∧ (isCompute t.record = false → goes .computeTaskDispatch fun u =>
          due u 0 .copyTaskDispatch { a := a, l := s.ev.l })
        ∧ (∀ u1 d ts, isCompute t.record = false →
          let k := (t.record.extractLsb' 64 3).toNat
          let m := chanTile a k
          let idx := (t.record.extractLsb' 32 16).toNat
          let vf := if s.covePart a = agentPart then 128 else t.vf
          let w := Nat.max t.cts (s.tileAt m).mu.qck + 1
          (s.tileAt m).mu.inq.contains (taskId m) = false → idx < (s.vf vf).tcount →
          (s.modMu m fun v => { v with qck := w }).engTmpl m vf idx w = .ok u1 (d, ts) →
          tmplMcast d = 0 → u1.tmplDefect (s.covePart a) a k d none = none → goes .copyTaskDispatch fun u =>
            ∃ q, (u.tileAt m).mu.queue = (u1.tileAt m).mu.queue ++ [q] ∧ q.tmpl = d ∧ q.tidx = idx ∧ q.cts = ts ∧ ts ≤ (u.tileAt m).mu.qck
              ∧ q.task = some x ∧ q.vf = vf ∧ q.arg = (t.record.extractLsb' 48 16).toNat)))
    ∧ (∀ k q, (mu s).run = none → (mu s).queue = k :: q → goes .bteCommandStart fun u =>
        (mu u).run = some { k with wmax := k.cts } ∧ (mu u).queue = q ∧ due u 1 (kindStep (tmplKind k.tmpl)) { a := a })
    ∧ (∀ k, (mu s).run = some k →
      (k.stalled = false → tmplKind k.tmpl = .copy →
        let n := cmdNext (tmplTotal k.tmpl) k k.pos
        let line := ((cmdLines k n).find? fun l => (k.lw.look l).isNone).getD 0
        let size := tmplEsize k.tmpl
        let op := tmplOp k.tmpl
        let ns := (List.range (tmplTotal k.tmpl)).filter fun i => (cmdLines k i).contains line
        let va := tmplDst k.tmpl k.arg n
        (tmplTotal k.tmpl ≤ n → goes .engineWrite fun u => due u 1 .bteCommandComplete { a := a })
          ∧ ∀ u0 u1 u2 u3 l sn x w olds, n < tmplTotal k.tmpl →
            (∀ i ∈ ns, mayCross size = true ∨ tmplDst k.tmpl k.arg i % size = 0) → s.fromInq a (cmdId a) = some u0 →
            u0.cmdElems a k line (ns.drop k.got.length) k.seen k.got = .ok u1 (l, sn) →
            u1.engXl a k.vf k.cts (if va / 128 = line then va else line * 128) (if 2 ≤ op then .both else .write) = .ok u2 x →
            u2.engUpdates k.vf k.cts (destXls k.tmpl { x with pa := x.pa / 128 * 128 }) 0 (fun j d => (lineDo op size line j l d).1)
              (if op < 2 then l.foldl (fun b e =>
                b ||| byteMask (elementPart e.va size line).2.2 (elementPart e.va size line).2.1) 0 else 0) = .ok u3 (w, olds) →
            goes .engineWrite fun u => u.mem = u3.mem
              ∧ ∃ q, (mu u).run = some q ∧ q.lw.look line = some w ∧ q.wmax = Nat.max k.wmax w
                ∧ (q.pos = tmplTotal k.tmpl → due u 1 .bteCommandComplete { a := a })
                ∧ (q.pos < tmplTotal k.tmpl → due u 1 .engineWrite { a := a }))
      ∧ (∀ p ev, passLen k.tmpl = some p → tmplEvent k.tmpl = some ev → tmplKind k.tmpl = .copy → k.passes < k.pos / p →
        goes .btePassMark fun u => (mu u).run = some { k with passes := k.pos / p }
          ∧ .event (tileChan a) ev (markTime k (k.pos / p * p)) ∈ (u.coveAt (coveOfTile a)).due)
      ∧ (tmplSlot k.tmpl = none → tmplTask k.tmpl = none → tmplEgress k.tmpl = none → goes .bteCommandComplete fun u =>
        (mu u).run = none
          ∧ (∀ ev, tmplEvent k.tmpl = some ev → .event (tileChan a) ev k.wmax ∈ (u.coveAt (coveOfTile a)).due)
          ∧ due u 1 .bteCommandStart { a := a })
      ∧ (∀ vec ts p q lost u1 u2 w, (mu s).egWait = some (vec, ts) →
        let n := 2 ^ (6 + (s.vf k.vf).egk)
        let base := (s.vf k.vf).egbase
        s.ringHead k.vf base n = (p, q, lost, u1) → (p + 2 ^ 32 - q) % 2 ^ 32 ≠ n → u1.ringPend base n 16 p = false →
        u1.vectorPend k.vf = false →
        u1.ringPut k.vf base n 16 p ts (leBytes 16 (s.egressEntry a k vec)) = (u2, w) →
        exec .egressEntryWrite s = .next ((u2.raiseVector k.vf vec (s.vf k.vf).gen.toNat 0 ts).endCommand a true ts))
      ∧ (k.stalled = false → tmplKind k.tmpl = .loadWalk → (mu s).mayFetch = true → k.pos < walkTiles k.tmpl →
        let fmt := tmplDbase k.tmpl % 8
        let r := tmplCount k.tmpl 0
        let d0 : MTile := { shape := mkShape (if fmt = 6 then 0 else fmt) (r - 1) 0 0xFFFF, f32 := decide (fmt = 6) }
        ∀ u0 u1 d, s.fromInq a (cmdId a) = some u0 →
            u0.loadRows a k fmt ((List.range r).drop k.row) (if k.row = 0 then d0 else k.form) = .ok u1 d →
          exec .loadWalkTile s = .next (u1.deliverTile a k d))
      ∧ (k.stalled = false → tmplKind k.tmpl = .haarWalk → (mu s).mayFetch = true → k.pos = 0 →
        let d := codecDesc (tmplCodec k.tmpl)
        let total := tmplCount k.tmpl 0 * (16 / 2 ^ d.l)
        ∀ u0 u1 recs, s.fromInq a (cmdId a) = some u0 →
            u0.haarRecords a k d ((List.range total).drop k.recs.length) k.seen k.recs = .ok u1 recs →
          exec .haarWalkTile s = .next ((u1.charge a k.vf 56 total).deliverTile a k (haarTile d (tmplCount k.tmpl 0) recs)))
      ∧ (k.stalled = false → tmplKind k.tmpl = .storeWalk → k.pos < walkTiles k.tmpl → ∀ u0, s.fromInq a (cmdId a) = some u0 →
        (∀ p u1 x u2 v, partReady k = some p → u0.engXl a k.vf k.cts p.va .write = .ok u1 x →
          u1.engUpdate k.vf k.cts x (fun l => mergeLine l p.data p.mask) p.mask = .ok u2 v → goes .storeWalkTile fun u =>
            u.mem = u2.mem ∧ due u 1 .storeWalkTile { a := a } ∧ ∃ q, (mu u).run = some q ∧ p ∉ q.part
              ∧ (∀ l ∈ k.part, l ≠ p → l ∈ q.part) ∧ q.wmax = Nat.max k.wmax v.1 ∧ ∀ n ∈ p.tiles, v.1 ≤ q.lw.get 0 n)
        ∧ (∀ d rest ops, partReady k = none → k.stopAt = none → k.merged ≤ k.pos → (mu s).storebuf = d :: rest →
          tileStores k k.merged d = (ops, none) → goes .storeWalkTile fun u =>
            (mu u).storebuf = d :: rest ∧ due u 1 .storeWalkTile { a := a } ∧ (mu u).run = some { k with
              part := ops.foldl (joinPart k.merged) k.part, merged := k.merged + 1, own := false, join := none })
        ∧ (partReady k = none → k.stopAt = none → k.pos < k.merged → goes .storeWalkTile fun u =>
            (mu u).storebuf = (mu s).storebuf.drop 1 ∧ (mu u).run = some { k with pos := k.pos + 1 }
              ∧ due u 1 (if k.pos + 1 = walkTiles k.tmpl then .bteCommandComplete else .storeWalkTile) { a := a })
        ∧ ∀ va, partReady k = none → k.stopAt = some va → exec .storeWalkTile s = .next (u0.cmdFault a k (trapVa 0x03 va))))

/-- Grid requests, frames, rays, the order unit and owed writes (R170, R187, R257, R291, R296, R299, R301, R360,
R402): the owed tile of a TLD or AIN and the feature batch of a TFEAT land whole, and the register is owed no more; a waiting request
for a frame and its reply are taken; a ray takes its unit of budget, reads its node and goes on; a batch that arrives waits at its order
unit, and retires unless a line that it writes is PEND. The operands of the steps are the model's (log 90), as are the readings of logs 11, 12, 29, 47 to 52, 57, 99, 109, 110 and 113. -/
def Obligations.TraversalEvents : Prop :=
  ∀ s : State,
    let a := s.ev.a
    let b := s.ev.b
    let goes (i : Instr) (p : State → Prop) : Prop := ∃ u, exec i s = .next u ∧ p u
    let due (u : State) (d : Nat) (i : Instr) (e : EvArg) : Prop := (s.now + d, i, e) ∈ u.agenda
    let x := s.tileAt a
    ((∀ p q r, x.gslots.length < 4 → s.gridHead a = some (p, q, r) → goes .gridRequestTake fun u =>
          (u.tileAt a).gslots = x.gslots ++ [{ x := p.tok, y := q.tok, z := r.tok }])
      ∧ (b = 1 → goes .gridBatchSend fun u => (u.tileAt a).gslots = x.gslots.drop 1)
      ∧ (∀ q rest g, b ≠ 1 → x.gslots = q :: rest → q.held = false → q.sent = false → q.out = some g → s.gridBound g.xtile a = true →
        s.gridRoom g.xtile a = true → goes .gridBatchSend fun u => (u.tileAt a).gslots = { q with sent := true } :: rest
          ∧ ∃ id, u.net.batches.look id = some g ∧ due u (2 + hops a g.xtile + 4 * g.p) .gridBatchArrival { a := g.xtile, b := id })
      ∧ (∀ g, s.net.batches.look b = some g → goes .gridBatchArrival fun u => u.net.batches.look b = none
        ∧ (u.tileAt a).gbuf = x.gbuf ++ [g] ∧ due u 0 .owedWriteLanding { a := a })
      ∧ (∀ o d n, x.owed = [o] → o.reg = .tile n → o.data = some d → d.shape.toNat / 256 % 8 ≤ 4 → d.f32 = false →
        goes .owedWriteLanding fun u => (u.tileAt a).owed = [] ∧ (u.tileAt a).x.shapeOf n = d.shape
          ∧ (u.tileAt a).x.errOf n = d.errf ∧ ∀ r, r < 16 → (u.tileAt a).x.row n r = d.rows.get 0 r)
      ∧ (∀ o d k, x.owed = [o] → o.reg = .acc k → o.data = some d → d.shape.toNat / 256 % 8 ≤ 4 → d.f32 = true →
        goes .owedWriteLanding fun u => (u.tileAt a).owed = [] ∧ descRtag ((u.tileAt a).x.descOf k) = shapeTag d.shape
          ∧ descCtag ((u.tileAt a).x.descOf k) = 0 ∧ descErr ((u.tileAt a).x.descOf k) = d.errf
          ∧ ∀ r c, r < 16 → c < 16 → cellOf ((u.tileAt a).x.accRows k) r c = lane (d.rows.get 0 r) c)
      ∧ (∀ o g n h, x.owed = [o] → o.reg = .feat n h → x.gbuf = [g] → g.gtile = h → 1 ≤ g.p → g.p ≤ 16 →
        goes .owedWriteLanding fun u => (u.tileAt a).owed = [] ∧ (u.tileAt a).gbuf = [] ∧ (u.tileAt a).astat = x.astat ||| g.flags
          ∧ shapeFmt ((u.tileAt a).x.shapeOf n) = 4 ∧ shapeRows ((u.tileAt a).x.shapeOf n) = g.p - 1
          ∧ (shapeSurv ((u.tileAt a).x.shapeOf n)).toNat = 2 ^ g.p - 1 ∧ (u.tileAt a).x.errOf n = g.errf
          ∧ ∀ r, r < 16 → (u.tileAt a).x.row n r = if r < g.p then g.rows.get 0 r else 0))
    ∧ (∀ f, s.firing a b = some f →
      (∀ d t k p g y, f.wait = .frame d t k p (some g) → (s.tileAt t).frameOf k g = none →
          (s.tileAt t).allocFrame (s.tcfg t) k g (s.berth t k).frame.toNat = some y →
          ∀ i ∈ [Instr.frameAllocRequest, .frameSpaceResume], goes i fun u => u.firing a b = some { f with wait := .frameReply d 1 none }
            ∧ (u.tileAt t).frames = y.frames ∧ due u (hops a t + 1) .frameAllocReply { a := a, b := b })
        ∧ (∀ d v t, f.wait = .frameReply (.w d) v t → goes .frameAllocReply fun u => ∃ g, u.firing a b = some g ∧ g.wait = .no
          ∧ g.w.get 0 d.toNat = v ∧ g.pc = (f.advance 2).pc ∧ g.tagn = if t.isSome then t else f.tagn)
        ∧ (∀ p, (s.coveAt (coveOfTile a)).pend.look (slotId a b) = some p → f.wait = .iscfg →
          (s.coveAt (coveOfTile a)).idle p.scene = true → goes .iscfgDescriptorWrite fun u =>
            (u.coveAt (coveOfTile a)).scenes.get 0 p.scene = p.desc ∧ (u.coveAt (coveOfTile a)).pend.look (slotId a b) = none
              ∧ u.firing a b = some { f with wait := .no }))
    ∧ (∀ r, (s.coveAt a).ring.look b = some r →
      let node := lane r.pay 10
      let tile := ringTile a b
      (∀ u0, s.fromInq (xlatTile tile) (rayId tile b) = some u0 →
        let desc := (u0.coveAt a).scene r.scene
        let vf := u0.coveTables a r.vf
        (r.stalled = false → desc = 0 ∨ ptrOk desc node = false ∨ r.paid = false ∧ rayBudget r.pay = 0 →
          exec .rayNodeVisit s = .next (u0.endRay a b r 3))
        ∧ (∀ u1 u2 d ts r2 e, r.stalled = false → r.paid = false → r.node = none → desc ≠ 0 → ptrOk desc node = true →
          rayBudget r.pay ≠ 0 → (u0.charge tile vf 62 1).coveLine tile vf r.lts (nodeVa desc (ptrIndex node)) = .ok u1 (d, ts) → nodeOk (ptrType node) d = true →
          u1.visitNode a tile vf desc b
              { r with pay := raySpend r.pay, join := none, todo := [], seen := [], lts := Nat.max r.lts ts } d r.todo = .ok u2 (r2, e) →
          exec .rayNodeVisit s = .next (u2.rayNext a desc b d r2 e)))
        ∧ (∀ c w, r.target = some (c, w) → c ≠ a → s.ringRoom c ≠ 0 → goes .rayMigration fun u => (u.coveAt a).ring.look b = none
          ∧ ∃ k, (u.coveAt c).ring.look k = some { r with target := none, pay := setWord r.pay 10 w }
            ∧ (a / 64 = c / 64 → due u (1 + hops tile (ringTile c k)) .rayNodeVisit { a := c, b := k })
            ∧ (a / 64 ≠ c / 64 → ∃ id fl v, u.net.flights.look id = some fl ∧ fl.chan = rayChan (s.covePart c)
              ∧ fl.legs = (dieRoute (a / 64) (c / 64)).drop 1 ∧ fl.ray = some { cove := c, slot := k, vc := v })))
    ∧ (∀ m q, s.net.orders.look a = some (.batch m false q) → s.arrivalsWith a m = [a] →
      isBehind q.sq ((s.modNet fun w => { w with orders := w.orders.drop a }).recordOf q.recPa q.vf) = false →
      goes .batchOrderArrival fun u => u.net.orders.look a = none
        ∧ (u.tileAt m).mu.inbox = (s.tileAt m).mu.inbox ++ [(s.now, { q with landed := true })])
    ∧ (∀ m q, s.net.orders.look a = some (.occq m false q) → s.arrivalsWith a m = [a] → exec .occqArrival s =
      .next (((s.modNet fun w => { w with orders := w.orders.drop a }).modMu m id).applyOccq q))
    ∧ (∀ q, x.mu.batches = [q] → aheadOf q.sq (s.recordOf q.recPa q.vf) = 0 →
      (∀ e ∈ s.agenda, e.1 ≤ s.now → e.2.1 ≠ .batchOrderArrival ∧ e.2.1 ≠ .occqArrival) →
      (s.retireWaits a q = false → exec .batchRetire s = .next ((s.modMu a fun u => u.dropBatch q).retire a q))
        ∧ (s.retireWaits a q = true → exec .batchRetire s = .next (s.lookRetire a 1)))

/-- Loading and elastic stages (R43 to R49, R52, R75, R219, R262, R265, R269, R332): a chart waits for its VF's entry, is
read from the pages of its image and rejected with its status and offset, waits for the engines of the chart that runs, or loads; each pattern is written on its tiles;
the last acknowledgement starts the tiles; a load that is late is undone, and a
resumed partition is resident from its chart's start; a stage is sampled, grows and shrinks, also while a replica drains, but not while
its partition freezes, drains or loads. The operands of the steps are the model's (log 90), as are the statuses of log 14, the image of
log 4, the end of a device reset with a load of the agent's chart (log 10), and the readings of logs 19, 58, 59, 71, 72, 89, 93, 97 and
114. -/
def Obligations.ChartEvents : Prop :=
  ∀ s : State,
    let a := s.ev.a
    let b := s.ev.b
    let goes (i : Instr) (p : State → Prop) : Prop := ∃ u, exec i s = .next u ∧ p u
    let due (u : State) (d : Nat) (i : Instr) (e : EvArg) : Prop := (s.now + d, i, e) ∈ u.agenda
    let waits := a ≠ agentPart ∧ ¬((s.part a).pstate = 2 ∧ (s.part a).occ = b)
    let img := s.loadImage a b s.ev.img (decide (s.ev.c = 1))
    let reports (u : State) (v st off : Nat) : Prop :=
      ∃ l, u.hd.out = l ++ .loadStatus v st off :: (if v = 128 ∧ s.hd.boot = 2 then [.pfVector 1] else [])
    ((waits → goes .chartLoad fun u => u.hd.submitted.look b = some s.ev.img ∧ u.cfg = s.cfg ∧ u.hd.loads = s.hd.loads)
      ∧ (∀ off st, ¬waits → s.loadVerdict a b img = some (off, st) → goes .chartLoad fun u =>
        reports u b st.code off ∧ u.cfg = s.cfg ∧ u.hd.loads = s.hd.loads)
      ∧ (¬waits → s.loadVerdict a b img = none → (s.badTemplates a b img = true ∨ s.badWrites b img = true) →
        goes .chartLoad fun u => reports u b LoadStatus.fieldReserved.code 0 ∧ u.cfg = s.cfg ∧ u.hd.loads = s.hd.loads)
      ∧ (¬waits → s.loadVerdict a b img = none → s.badTemplates a b img = false → s.badWrites b img = false →
        s.enginesBusy a = true → goes .chartLoad fun u => due u 1 .chartLoad { a := a, b := b, c := 1, img := img }
          ∧ u.cfg = s.cfg ∧ u.hd.loads = s.hd.loads)
      ∧ (¬waits → s.loadVerdict a b img = none → s.badTemplates a b img = false → s.badWrites b img = false →
        s.enginesBusy a = false → goes .chartLoad fun u => u.cfg.charts.look a = some img ∧ ∃ r, u.hd.loads.look a = some r ∧ r.vf = b
          ∧ r.img = img ∧ r.waiting = loadParties img ∧ r.resume = none))
    ∧ (∀ r, s.hd.loads.look a = some r →
      ((b < 0x100 ∨ (s.net.ports.get {} (b - 0x100)).trained = true) → goes .chartLoadAck fun u =>
          u.hd.loads.look a = some { r with waiting := r.waiting.filter fun n => !decide (n = b) }
            ∧ (r.waiting = [b] → r.left = 0 → due u 1 .startTokenDelivery { a := a }))
        ∧ (r.id = b → ∀ w ws, r.waiting = w :: ws → goes .configTimeout fun u => u.hd.loads.look a = none
          ∧ reports u r.vf LoadStatus.linkTimeout.code w ∧ u.hd.parts = s.hd.parts)
        ∧ (∀ k, r.resume = some k → (s.part a).pstate = 3 → goes .startTokenDelivery fun u => (u.part a).pstate = 2
          ∧ (u.part a).occ = r.vf ∧ (u.vf r.vf).state = 2)
        ∧ (r.resume = none → r.agent = false → goes .startTokenDelivery fun u => u.hd.loads.look a = none
          ∧ reports u r.vf 0 0 ∧ ∀ e ∈ s.cfg.tiles, e.2.used = true → e.2.part = a → (u.tileAt e.1).ctlq = [r.start]))
    ∧ (∀ c rest r, s.hd.cfgq.get [] a = c :: rest → c.clone = none → s.hd.loads.look c.part = some r →
      goes .configPatternWrite fun u => u.hd.cfgq.get [] a = rest
        ∧ u.hd.loads.look c.part = some { r with left := r.left - 1 } ∧ (rest ≠ [] → due u 1 .configPatternWrite { a := a })
        ∧ ∀ t ∈ c.tiles, u.tcfg t = tileCfgOf r.img c.part r.vf c.pat t)
    ∧ (∀ key e, (s.hd.stages.filter fun x => decide (x.1 % 8 = a)) = [(key, e)] → s.stagesHeld (key / 512) = false →
      e.cloning = none →
      let d := s.stageDepth e
      let up := if e.hi < d then e.above + 1 else 0
      let down := if d < e.lo then e.below + 1 else 0
      let after := { e with above := up, below := down }
      let near := nearestTile (e.tiles.headD 0) ((s.partTiles (key / 512)).filter fun t =>
        decide (dieOfTile t = dieOfTile (e.tiles.headD 0)) && s.isFreeTile (kindAt (e.tiles.headD 0 % 64)) t)
      let grows := 3 ≤ up ∧ e.count < 64
      (((¬grows ∧ (down < 8 ∨ e.members.length ≤ 1)) ∨ (grows ∧ near = none)) → goes .tideSample fun u => u.hd.stages.look key = some after)
        ∧ (∀ t, grows → near = some t → goes .tideSample fun u =>
          u.hd.stages.look key = some { e with above := 0, below := down, cloning := some t })
        ∧ (∀ t, ¬grows → 8 ≤ down → 1 < e.members.length → e.members.getLast? = some t → goes .tideSample fun u =>
          u.hd.stages.look key = some { e with above := up, below := 0, removing := e.removing ++ [t] }
            ∧ (e.removing = [] → due u 1 .replicaRelease { a := key / 512, b := key })))
    ∧ (∀ key e t, (s.hd.stages.filter fun x => decide (x.1 % 8 = a)) = [(key, e)] → s.stagesHeld (key / 512) = false →
      e.cloning = some t →
      (e.written = true → goes .tideSample fun u => due u 1 .controlTokenTake { a := t }
        ∧ u.hd.stages.look key = some { e with tiles := putReplica e.tiles t, cloning := none, written := false, above := 0 })
        ∧ (e.written = false → goes .tideSample fun u => u.hd.stages.look key = some e))
    ∧ (∀ e, s.hd.stages.look b = some e →
      let empty (t : Nat) : Prop := s.stagesHeld (b / 512) = false ∧ (s.tileAt t).slots = [] ∧ (s.tileAt t).wait = []
        ∧ s.unreserved t (s.stageChans b e t false) = true
      (∀ t, e.removing = [t] → empty t → goes .replicaRelease fun u =>
          u.hd.stages.look b = some { e with tiles := dropReplica e.tiles t, removing := [] } ∧ u.cfg.tiles.look t = none)
        ∧ (e.removing ≠ [] → (∀ t ∈ e.removing, ¬empty t) → goes .replicaRelease fun u => u.hd.stages.look b = some e
          ∧ due u 1 .replicaRelease { a := b / 512, b := b }))

/-- The partition commands (R316, R317, R332 to R340, R348, R365): one at a time, each with its status, SAVE and FQBASE stored
before it; create, enter, switch, freeze, drain, resume, resize, release, the scrub of coves, and the reset of a VF. A command that
fails changes nothing. The operands of the steps are the model's (log 90), as are the images of log 70 and the readings of logs 60 to 65,
69, 98 and 115. -/
def Obligations.PartitionEvents : Prop :=
  ∀ s : State,
    let p := s.ev.a
    let goes (i : Instr) (q : State → Prop) : Prop := ∃ u, exec i s = .next u ∧ q u
    let due (u : State) (d : Nat) (i : Instr) (e : EvArg) : Prop := (s.now + d, i, e) ∈ u.agenda
    let is (u : State) (c : PrivStatus) : Prop := u.hd.win.status = c.code ∧ u.hd.win.busy = false
    let new := s.newPart p
    let old := s.part p
    let v := old.occ
    let free := s.hd.running.get false p = false ∧ s.badPartData p = false
    let writes (t : State) := s.hd.running.get false p = false ∧ s.badPartData p = false ∧ s.writeFields p = .ok t
    let w : Nat := 65536 * (if s.hd.win.pdata.toNat % 2 ^ 32 = 0 then 65536 else s.hd.win.pdata.toNat % 2 ^ 32)
    let all := [Instr.partitionCreate, .partitionEnter, .partitionSwitch, .partitionFreeze, .partitionDrain,
        .partitionResume, .partitionResize, .partitionRelease]
    let fails (i : Instr) (c : PrivStatus) : Prop := goes i fun u => is u c ∧ u.hd.parts = s.hd.parts ∧ u.hd.cmap = s.hd.cmap
    (s.hd.running.get false p = true → ∀ i ∈ all, fails i .inUse)
    ∧ (s.hd.running.get false p = false → s.badPartData p = true → ∀ i ∈ all, fails i .value)
    ∧ (∀ e, free → s.writeFields p = .error e → ∀ i ∈ all, fails i e)
    ∧ ((old.pstate = 2 → (new.save ≠ old.save ∨ new.fqbase ≠ old.fqbase) → s.writeFields p = .error .inUse)
      ∧ ∀ t, s.writeFields p = .ok t → t.part p = { old with save := new.save, fqbase := new.fqbase })
    ∧ (∀ t, writes t → old.pstate = 0 → (t.newPart p).pstate = 1 →
      let new := t.newPart p
      let l := originCoves new.origin
      ((∃ c ∈ l, (s.hd.cmap.get {} c).cstate ≠ 0) → fails .partitionCreate .value)
        ∧ ((∀ c ∈ l, (s.hd.cmap.get {} c).cstate = 0) →
          t.areaClash p new.save (t.areaLen new.save) = false → goes .partitionCreate fun u => is u .ok
            ∧ u.part p = { new with occ := v } ∧ ∀ c ∈ l, u.hd.cmap.get {} c = { cpart := p, cstate := 1 }))
    ∧ (free → new.save = old.save → new.fqbase = old.fqbase →
      let n := new.occ
      ((s.acct n).exh = true → fails .partitionEnter .quotaExhausted)
        ∧ ((s.acct n).exh = false → (s.vf n).state ≠ 1 → fails .partitionEnter .stateInvalid)
        ∧ ((s.acct n).exh = false → (s.vf n).state = 1 → (s.vf n).qcove < (s.partCoves p).length → fails .partitionEnter .value)
        ∧ ((s.acct n).exh = false → (s.vf n).state = 1 → (s.partCoves p).length ≤ (s.vf n).qcove →
          (s.isPinned old.save = false ∨ s.ownSlot old.save n = none) → s.frozenElsewhere p n = true → fails .partitionEnter .stateInvalid)
        ∧ ((s.acct n).exh = false → (s.vf n).state = 1 → (s.partCoves p).length ≤ (s.vf n).qcove → (s.isPinned old.save = false ∨ s.ownSlot old.save n = none) →
          s.frozenElsewhere p n = false → goes .partitionEnter fun u => is u .ok ∧ u.part p = { old with pstate := 2, occ := n } ∧ (u.vf n).state = 2
            ∧ due u 1 .ingressTokenDelivery { a := n }))
    ∧ (∀ t, writes t → t.canSave p v = false → ∀ i ∈ [Instr.partitionSwitch, .partitionFreeze, .partitionDrain], fails i .notPinned)
    ∧ (∀ t, writes t → t.canSave p v = true →
      (∀ e, t.enterVf p new.occ = .error e → fails .partitionSwitch e)
        ∧ (∀ r, t.enterVf p new.occ = .ok r → goes .partitionSwitch fun u => u.hd.gated.get false p = true
          ∧ u.hd.running.get false p = true ∧ due u 1 .freezeSave { a := p }
          ∧ ∃ f, u.hd.freezes.look p = some f ∧ f.next = some new.occ ∧ f.since = s.now)
        ∧ (goes .partitionFreeze fun u => u.hd.gated.get false p = true ∧ u.hd.running.get false p = true
          ∧ due u 1 .freezeSave { a := p } ∧ (∀ k ∈ s.partTiles p, (u.tileAt k).gate = true)
          ∧ ∃ f, u.hd.freezes.look p = some f ∧ f.next = none ∧ f.timeout = false ∧ f.since = s.now)
        ∧ (goes .partitionDrain fun u =>
          (u.part p).pstate = 3 ∧ (u.vf v).state = 3 ∧ u.hd.gated.get false p = true ∧ u.hd.running.get false p = true
            ∧ u.hd.drains.look p = some { due := s.now + w } ∧ due u 1 .drainComplete { a := p } ∧ due u w .drainTimeout { a := p }))
    ∧ (∀ f, (s.holdEvents p).hd.freezes.look p = some f →
      let s1 := s.holdEvents p
      let s2 := (s1.tagPend (s1.partCoves p) v true).clearPools (s1.partCoves p)
      let quota := ((s1.hd.drains.look p).map fun d => d.quota).getD false
      (s1.outstanding p = true → goes .freezeSave fun u => due u 1 .freezeSave { a := p } ∧ u.hd.parts = s.hd.parts)
        ∧ (s1.outstanding p = false → f.next = none → goes .freezeSave fun u =>
          (quota = false → is u (if f.timeout then .drainTimeout else .ok)) ∧ (u.part p).pstate = 1 ∧ (u.vf v).state = 1
            ∧ u.hd.freezes.look p = none ∧ u.hd.drains.look p = none ∧ u.hd.running.get false p = false
            ∧ ∀ k, s2.slotFor old.save v = some k → u.hd.images.look (slotPa old.save k) = some (s1.freezeImage p f))
        ∧ (∀ n r, s1.outstanding p = false → f.next = some n → (s1.saveFrozen p f).enterVf p n = .ok r → goes .freezeSave fun u =>
          is u .ok ∧ u.hd.parts = r.hd.parts)
        ∧ (∀ n e, s1.outstanding p = false → f.next = some n → (s1.saveFrozen p f).enterVf p n = .error e → goes .freezeSave fun u =>
          is u e ∧ u.hd.parts = s.hd.parts ∧ u.hd.freezes.look p = none ∧ u.hd.running.get false p = false))
    ∧ (∀ d, s.hd.drains.look p = some d → s.hd.freezes.look p = none →
      (s.ev.b ≠ 1 → s.ebbEmpty p = false → goes .drainComplete fun u => u.hd.drains.look p = some { d with emptySince := none }
          ∧ due u 1 .drainComplete { a := p })
        ∧ (∀ n, s.ev.b ≠ 1 → s.ebbEmpty p = true → d.emptySince = some n → s.now < n + 63 → goes .drainComplete fun u =>
          u.hd.drains.look p = some d ∧ due u 1 .drainComplete { a := p })
        ∧ (∀ n, s.ev.b ≠ 1 → s.ebbEmpty p = true → d.emptySince = some n → n + 63 ≤ s.now → d.after = 0 → d.quota = false →
          goes .drainComplete fun u => is u .ok ∧ u.hd.drains.look p = none ∧ u.hd.running.get false p = false
            ∧ ∀ k, s.slotFor old.save v = some k → u.hd.images.look (slotPa old.save k) = some (s.drainImage p))
        ∧ (d.due = s.now → goes .drainTimeout fun u => due u 1 .freezeSave { a := p }
          ∧ ∃ f, u.hd.freezes.look p = some f ∧ f.timeout = true ∧ f.next = none))
    ∧ (∀ t, writes t →
      ((t.acct v).exh = true → fails .partitionResume .quotaExhausted)
        ∧ (∀ k g, (t.acct v).exh = false → t.ownSlot new.save v = some k → t.hd.images.look (slotPa new.save k) = some g →
          (g.kind = false ∨ originShape g.rects ≠ originShape old.origin) → fails .partitionResume .stateInvalid)
        ∧ (∀ k g, (t.acct v).exh = false → t.ownSlot new.save v = some k → t.hd.images.look (slotPa new.save k) = some g →
          g.kind = true → originShape g.rects = originShape old.origin →
          (g.chart = none → goes .partitionResume fun u => is u .ok ∧ (u.part p).pstate = 2 ∧ (u.vf v).state = 2
              ∧ u.hd.gated.look p = none ∧ u.hd.images.look (slotPa new.save k) = none)
            ∧ (∀ img, g.chart = some img → goes .partitionResume fun u => (u.part p).pstate = (if (t.part p).pstate = 3 then 3 else 2)
              ∧ u.hd.running.get false p = true ∧ u.cfg.charts.look p = some img
              ∧ ∃ r, u.hd.loads.look p = some r ∧ r.resume = some (slotPa new.save k) ∧ r.agent = true)))
    ∧ (∀ t, writes t →
      let l := originCoves new.origin
      ((∃ c ∈ l, (s.hd.cmap.get {} c).cstate ≠ 0 ∧ s.inPart p c = false) → fails .partitionResize .value)
        ∧ ((∀ c ∈ l, (s.hd.cmap.get {} c).cstate = 0 ∨ s.inPart p c = true) → (t.partCoves p).length < l.length →
          (t.vf v).qcove < l.length → fails .partitionResize .value)
        ∧ ((∀ c ∈ l, (s.hd.cmap.get {} c).cstate = 0 ∨ s.inPart p c = true) →
          (l.length ≤ (t.partCoves p).length ∨ l.length ≤ (t.vf v).qcove) →
          (t.resizeRefused p l = true → fails .partitionResize .resizeRefused)
            ∧ (t.resizeRefused p l = false → t.canSave p v = false → fails .partitionResize .notPinned)
            ∧ (t.resizeRefused p l = false → t.canSave p v = true →
              (old.pstate = 3 → goes .partitionResize fun u => is u .ok ∧ (u.part p).origin = new.origin ∧ (u.part p).pstate = 3)
                ∧ (old.pstate ≠ 3 → goes .partitionResize fun u => (u.part p).pstate = 3 ∧ u.hd.gated.get false p = true
                  ∧ ∃ d, u.hd.drains.look p = some d ∧ d.after = 1 ∧ d.origin = new.origin
                    ∧ d.due = s.now + w))))
    ∧ (∀ t, writes t → goes .partitionRelease fun u => is u .ok ∧ (u.part p).pstate = 0
      ∧ ∀ c ∈ s.partCoves p, (u.hd.cmap.get {} c).cstate = 2 ∧ due u 2048 .coveScrubEnd { a := c })
    ∧ (goes .coveScrubEnd fun u => u.hd.cmap.get {} p = (let e := s.hd.cmap.get {} p
      if e.cstate = 2 then { e with cstate := 0 } else e))
    ∧ (let w := s.hd.win.pdata.toNat % 256
      let idle (n : Nat) : Prop := ∀ q, s.residentPart n = some q → s.hd.running.get false q = false
      let reset (u : State) (n : Nat) : Prop := (u.vf n).gen = (s.vf n).gen + 1 ∧ (u.vf n).state = 1
        ∧ u.hd.keyEpoch.get 0 n = s.hd.keyEpoch.get 0 n + 1
        ∧ (u.hd.bars.get {} n).pba = 0 ∧ (u.hd.bars.get {} n).pending = []
      (128 ≤ w → goes .vfReset fun u => is u .readOnly ∧ u.hd.vfs = s.hd.vfs)
        ∧ (w < 128 → idle w → goes .vfReset fun u => is u .ok ∧ reset u w)
        ∧ (p < s.hd.vfOn → idle p → goes .vfFlr fun u => reset u p)
        ∧ (s.hd.vfOn ≤ p → exec .vfFlr s = .next s)
        ∧ (∀ q, p < s.hd.vfOn → s.residentPart p = some q → s.hd.running.get false q = true → goes .vfFlr fun u => due u 1 .vfFlr s.ev
          ∧ u.hd.vfs = s.hd.vfs))

/-- The tables behind the privileged window and TLB invalidation (R199, R270, R275, R308, R314 to R318, R345, R346, R366, R386,
R387). The operands of the steps are the model's (log 90), as are the keys of log 6, the operands of an invalidation
(log 15), when a ring is installed (log 111), and the readings of logs 66 to 68. -/
def Obligations.TableEvents : Prop :=
  ∀ s : State,
    let a := s.ev.a
    let n := s.hd.win.unit
    let d := s.hd.win.pdata
    let goes (i : Instr) (q : State → Prop) : Prop := ∃ u, exec i s = .next u ∧ q u
    let is (u : State) (c : PrivStatus) : Prop := u.hd.win.status = c.code ∧ u.hd.win.busy = false
    let reads (i : Instr) (x : Nat) : Prop := goes i fun u => is u .ok ∧ u.hd.win.pdata = BitVec.ofNat 128 x
    let fails (i : Instr) (c : PrivStatus) : Prop := goes i fun u => is u c ∧ { u.hd with win := {} } = { s.hd with win := {} }
      ∧ u.hd.win.pdata = d
    (a < 128 → (n < 4 → reads .privVfRead ((s.vf a).word / 2 ^ (128 * n)))
        ∧ (n = 8 → goes .privVfRead fun u => is u .ok ∧ u.hd.win.pdata = (s.acct a).bal ++ (s.acct a).cons)
        ∧ (4 ≤ n → (n < 8 ∨ 12 ≤ n) → fails .privVfRead .index))
    ∧ (a < 128 →
      let x := setUnit (s.vf a).word n d
      ((n = 8 ∨ n = 11) → fails .privVfWrite .readOnly)
        ∧ (n < 4 → badVfValue (s.vf a) (vfOfWord x) x = true → fails .privVfWrite .value)
        ∧ (n < 4 → badVfValue (s.vf a) (vfOfWord x) x = false →
          ((s.vf a).state = 2 → fixedChange (s.vf a) (vfOfWord x) = true → fails .privVfWrite .inUse)
            ∧ (((s.vf a).state ≠ 2 ∨ fixedChange (s.vf a) (vfOfWord x) = false) → goes .privVfWrite fun u => is u .ok
              ∧ { u.vf a with wmOld := 0, wmFc := none } = { vfOfWord x with wmOld := 0, wmFc := none }
              ∧ u.wayMask a = s.wayMask a
              ∧ ((vfOfWord x).wm ≠ (s.vf a).wm → { u with now := s.now + 1 }.wayMask a = (vfOfWord x).wm)
              ∧ ∀ w, w ≠ a → u.vf w = s.vf w))
        ∧ (n < 4 → badVfValue (s.vf a) (vfOfWord x) x = false → (s.vf a).state ≠ 2 →
          let q := regionOf (vfOfWord x).wqbase
          (∃ c, q = .pool c) → (vfOfWord x).wqbase % 128 ≤ 116 → (vfOfWord x).wqbase ≠ (s.vf a).wqbase →
            (vfOfWord x).egbase = (s.vf a).egbase → (vfOfWord x).egk = (s.vf a).egk →
            goes .privVfWrite fun u => ∀ j, j < 12 → u.pmByte ((vfOfWord x).wqbase + j) = 0))
    ∧ (128 ≤ a → ∀ i ∈ [Instr.privVfRead, .privVfWrite, .privGrantWrite, .privMapbWrite, .privInvalidate], fails i .index)
    ∧ (a < 128 → (∀ e ∈ s.agenda, e.1 ≤ s.now → e.2.1 ≠ .rollup) →
      let g := d.extractLsb' 64 64
      let was := (s.acct a).bal
      let neg := (was + g).msb && !was.msb
      (¬(0 < (was + g).toInt ∧ (s.acct a).exh = true) → goes .privGrantWrite fun u => is u .ok ∧ (u.acct a).bal = was + g
        ∧ (u.acct a).exh = ((s.acct a).exh || neg) ∧ (u.acct a).cons = (s.acct a).cons))
    ∧ (a < 128 → goes .privMapbWrite fun u => is u .ok ∧ (u.acct a).mapb1 = d.extractLsb' 32 32 ∧ (u.acct a).mapb2 = d.extractLsb' 64 32
      ∧ (u.acct a).cons = (s.acct a).cons ∧ (u.acct a).bal = (s.acct a).bal)
    ∧ (a < 64 → n < 2 → reads .privPartitionRead ((s.part a).word / 2 ^ (128 * n)))
    ∧ ((64 ≤ a ∨ 2 ≤ n) → fails .privPartitionRead .index)
    ∧ (a < 512 → n = 0 → reads .privCoveMapRead ((s.hd.cmap.get {} a).cpart + (s.hd.cmap.get {} a).cstate * 64))
    ∧ ((512 ≤ a ∨ n ≠ 0) → fails .privCoveMapRead .index)
    ∧ (isUnit a = true →
      (goes .privTideRead fun u => is u .ok ∧ ∀ j, j < 8 → u.hd.win.pdata.extractLsb' (16 * j) 16 = s.tideEntry a (8 * n + j))
        ∧ (n < 31 → goes .privTideWrite fun u => is u .ok ∧ u.hd.tideNew = s.hd.tideNew
          ∧ ∀ j, j < 8 → u.hd.shadow.get 0 (a * 256 + 8 * n + j) = d.extractLsb' (16 * j) 16)
        ∧ (n = 31 → houseOk a (s.putShadow a n) = true → goes .privTideWrite fun u => is u .ok ∧ a ∈ u.hd.tideNew
          ∧ (∀ j, j < 8 → u.hd.shadow.get 0 (a * 256 + 248 + j) = d.extractLsb' (16 * j) 16)
          ∧ ∀ j, j < 256 → u.hd.tideNext.get 0 (a * 256 + j) = u.hd.shadow.get 0 (a * 256 + j))
        ∧ (n = 31 → houseOk a (s.putShadow a n) = false → fails .privTideWrite .noHouse))
    ∧ (isUnit a = false → fails .privTideRead .index ∧ fails .privTideWrite .index)
    ∧ (a ≤ 128 → reads .privKeyQuery 1)
    ∧ (128 < a → fails .privKeyQuery .index)
    ∧ (a < 9 → n < 16 → goes .privCostRead fun u => is u .ok
      ∧ ∀ j, j < 4 → u.hd.win.pdata.extractLsb' (32 * j) 32 = BitVec.ofNat 32 (s.cost a (4 * n + j) % 2 ^ 20))
    ∧ (a = 9 → n = 0 → goes .privCostRead fun u => is u .ok ∧ u.hd.win.pdata = (s.acct 128).bal ++ (s.acct 128).cons)
    ∧ ((9 < a ∨ (a < 9 ∧ 16 ≤ n) ∨ (a = 9 ∧ 4 ≤ n)) → fails .privCostRead .index)
    ∧ (let drops (i : InvalOf) (host : Option Nat) (u : State) : Prop :=
        (∀ c ∈ s.partCoves (s.vf i.vf).part, ∀ k, k < 6 →
            (∀ x ∈ (u.tileAt (chanTile c k)).mu.tlb, i.hits x = false)
              ∧ (∀ x ∈ (s.tileAt (chanTile c k)).mu.tlb, i.hits x = false → x ∈ (u.tileAt (chanTile c k)).mu.tlb)
              ∧ ∀ w ∈ (u.tileAt (chanTile c k)).mu.walks, w.vf = i.vf → w.stale = true)
          ∧ ∃ id q, u.hd.invals.look id = some q ∧ q.host = host
            ∧ (s.now + 1, Instr.invalidationComplete, ({ a := id } : EvArg)) ∈ u.agenda
      (a < 128 → goes .privInvalidate (drops { vf := a, two := d.getLsbD 0, all := d.getLsbD 1, addr := (d.extractLsb' 64 64).toNat } none))
        ∧ (a < s.hd.vfOn → s.ev.c ≠ 1 →
          let b := s.hd.bars.get {} a
          (b.tlbbusy = true → goes .hostTlbInvalidate fun u => (u.acct a).drop = Nat.min 0xFFFFFFFF ((s.acct a).drop + 1)
              ∧ u.tiles = s.tiles)
            ∧ (b.tlbbusy = false → (∀ e ∈ s.agenda, e.2.1 = .hostWrite → e.2.2.a ≠ a) → goes .hostTlbInvalidate fun u =>
              (u.hd.bars.get {} a).tlbbusy = true
                ∧ drops { vf := a, all := s.ev.b.testBit 0, addr := b.tlbva % 2 ^ 52 / 2 ^ 14 * 2 ^ 14 } (some a) u)
            ∧ (b.tlbbusy = false → (∃ e ∈ s.agenda, e.2.1 = .hostWrite ∧ e.2.2.a = a) → goes .hostTlbInvalidate fun u =>
              (u.hd.bars.get {} a).tlbbusy = true ∧ u.tiles = s.tiles
                ∧ (s.now + 1, Instr.hostTlbInvalidate, ({ a := a, b := s.ev.b, c := 1, l := [b.tlbva] } : EvArg)) ∈ u.agenda))
        ∧ (a < s.hd.vfOn → s.ev.c = 1 → (∀ e ∈ s.agenda, e.2.1 = .hostWrite → e.2.2.a ≠ a) → goes .hostTlbInvalidate
          (drops { vf := a, all := s.ev.b.testBit 0, addr := s.ev.l.headD 0 % 2 ^ 52 / 2 ^ 14 * 2 ^ 14 } (some a))))

/-- What the host does to memory and sends to VFs, the roll-up tokens and the rebase (R214, R215, R221, R274, R365 to
R368, R385): a write reaches its home and raises HCK, a read answers what the home holds, a snoop answers L2's line
and may take it, an access to an address of no region faults, and one to an absent VF does nothing and reads all ones (log 124); the
registers of BAR0 and of PF0 and the capability structures read as they are; a doorbell becomes a token or a counted drop; tokens
leave when a credit is free; every timestamp falls by 2^45. The operands of the steps are the model's (log 90), as are
the home of a host access (log 17), the fault of an address of no region, and the readings of logs
28, 71, 73, 77, 112 and 124. -/
def Obligations.HostEvents : Prop :=
  ∀ s : State,
    let a := s.ev.a
    let b := s.ev.b
    let goes (i : Instr) (q : State → Prop) : Prop := ∃ u, exec i s = .next u ∧ q u
    let due (u : State) (d : Nat) (i : Instr) (e : EvArg) : Prop := (s.now + d, i, e) ∈ u.agenda
    let n := s.ev.l.length
    let no : List Nat := List.replicate (s.ev.l.headD 0) 0xFF
    (∀ x, s.hostPa a b = some x → s.hostUp = true → 0 < n → n ≤ 128 - x % 128 →
      let wrote (u : State) : Prop := ∀ j, j < n → u.pmByte (x + j) = BitVec.ofNat 8 (s.ev.l.getD j 0)
      (isHost x = true → goes .hostWrite wrote)
        ∧ (∀ c, regionOf x = .pool c → (s.dirOf (x / 128)).pend = false → goes .hostWrite fun u =>
          let w := Nat.max (s.hck a) ((s.dirOf (x / 128)).rts + 1)
          wrote u ∧ u.hck a = w ∧ u.dirOf (x / 128) = { s.dirOf (x / 128) with wts := w, rts := w }
            ∧ ∀ y, (y < x ∨ x + n ≤ y) → u.pmByte y = s.pmByte y)
        ∧ (∀ c, regionOf x = .pool c → (s.dirOf (x / 128)).pend = true → goes .hostWrite fun u => due u 1 .hostWrite s.ev
          ∧ u.mem = s.mem)
        ∧ (regionOf x = .nothing ∨ regionOf x = .metadata → exec .hostWrite s = .fault (.noSuchAddress x)))
    ∧ (s.hostPa a b = none → exec .hostWrite s = .next s ∧ (s.ev.c = 0 → s.ev.l.length = 1 → goes .hostRead fun u =>
      u.hd.out = s.hd.out ++ [.readData b (no.map fun n => BitVec.ofNat 8 n)] ∧ u.mem = s.mem))
    ∧ (s.hd.hdm = [] → (isHost b = true ∨ a < s.hd.vfOn ∨ 128 ≤ a → s.hostPa a b = some b)
      ∧ (isHost b = false → s.hd.vfOn ≤ a → a < 128 → s.hostPa a b = none))
    ∧ (∀ k x, s.hostPa a b = some x → s.hostUp = true → s.ev.c = 0 → s.ev.l = [k] → 0 < k → k ≤ 128 - x % 128 →
      (isHost x = true → s.heldHost x = none → goes .hostRead fun u => u.hd.out = s.hd.out ++ [.readData b (s.pmBytes x k)])
        ∧ (∀ c, regionOf x = .pool c → (s.dirOf (x / 128)).pend = false → goes .hostRead fun u =>
          u.hd.out = s.hd.out ++ [.readData b (s.pmBytes x k)] ∧ u.hck a = Nat.max (s.hck a) (s.dirOf (x / 128)).wts)
        ∧ (∀ c, regionOf x = .pool c → (s.dirOf (x / 128)).pend = true →
          (s.hck a < (s.dirOf (x / 128)).wts → goes .hostRead fun u =>
            u.hd.out = s.hd.out ++ [.readData b (s.pmBytes x k)] ∧ u.hck a = (s.dirOf (x / 128)).wts)
            ∧ ((s.dirOf (x / 128)).wts ≤ s.hck a → goes .hostRead fun u => due u 1 .hostRead s.ev ∧ u.mem = s.mem))
        ∧ (regionOf x = .nothing ∨ regionOf x = .metadata → exec .hostRead s = .fault (.noSuchAddress x)))
    ∧ (s.ev.c = 1 →
      let bar := s.hd.bars.get {} a
      let w (x : Nat) : W32 := BitVec.ofNat 32 x
      let reads (x : W32) : Prop := goes .hostRead fun u => u.hd.out = s.hd.out ++ [.barData a b x] ∧ u.mem = s.mem
      (∀ e ∈ [(0x4000, w ((s.vf a).state % 8 + (s.vf a).gen.toNat * 8 + if (s.acct a).exh then 128 else 0)),
          (0x4004, w (s.acct a).ingdrop), (0x4008, w (s.acct a).drop), (0x4010, w bar.tlbva), (0x4014, w (bar.tlbva / 2 ^ 32)),
          (0x4018, w ((if bar.tlball then 1 else 0) + if bar.tlbbusy then 2 ^ 31 else 0)), (0x9000, bar.pba.extractLsb' 0 32),
          (0x9004, bar.pba.extractLsb' 32 32)], a < 128 → a < s.hd.vfOn → b = e.1 → reads e.2)
        ∧ (a < 128 → a < s.hd.vfOn → b < 0x4000 → reads 0) ∧ (a < 128 → s.hd.vfOn ≤ a → reads (BitVec.allOnes 32))
        ∧ ∀ e ∈ [(0, w (s.hd.pf.cmd % 256)), (8, w s.hd.pf.arg), (12, w (s.hd.pf.arg / 2 ^ 32)),
          (16, w ((if s.hd.pf.busy then 1 else 0) + s.hd.pf.stat % 256 * 256))], a = 128 → b = e.1 → reads e.2)
    ∧ (s.ev.c = 2 → goes .hostRead fun u => u.hd.out = s.hd.out ++ [.capability b (decide (b < 6))])
    ∧ (s.hostUp = true →
      (isHost a = true →
        (s.heldHost a = none → goes .hostSnoop fun u => u.hd.out = s.hd.out ++ [.snoopData a []] ∧ u.mem = s.mem)
          ∧ ∀ d, s.heldHost a = some d →
            (b ≠ 1 → goes .hostSnoop fun u => u.hd.out = s.hd.out ++ [.snoopData a (bytesOfLine d)] ∧ u.mem = s.mem)
              ∧ (b = 1 → goes .hostSnoop fun u => u.hd.out = s.hd.out ++ [.snoopData a (bytesOfLine d)] ∧ u.heldHost a = none))
        ∧ (isHost a = false → exec .hostSnoop s = .fault (.noSuchAddress a)))
    ∧ (a < s.hd.vfOn → b < 0x4000 → s.hd.frozenAll = false → s.hostPending a = false → (s.ev.c = 0 → s.bellPending a = false) →
      let q := s.hd.ingress.get [] a
      let good := b % 64 = 0 ∧ 4 ≤ n ∧ n ≤ 64 ∧ n % 4 = 0 ∧ q.length < 64
      (good → goes .ingressDoorbellWrite fun u => due u 0 .ingressTokenDelivery { a := a } ∧ ∃ k, u.hd.ingress.get [] a = q ++ [k]
          ∧ k.cls.toNat = b / 64 ∧ k.lts = s.hck a + 1 ∧ k.gen = (s.vf a).gen ∧ k.nflit.toNat = (n + 15) / 16
          ∧ ∀ j, j < n → k.pay.extractLsb' (8 * j) 8 = BitVec.ofNat 8 (s.ev.l.getD j 0))
        ∧ (¬good → goes .ingressDoorbellWrite fun u => u.hd.ingress = s.hd.ingress
          ∧ (u.acct a).ingdrop = Nat.min 0xFFFFFFFF ((s.acct a).ingdrop + 1)))
    ∧ (∀ p k rest ch, s.residentPart a = some p → s.hd.ingress.get [] a = k :: rest → s.ingressChan p = some ch →
      s.credits ch 0 0 ≠ 0 → s.hd.gated.get false p = false → (s.part p).pstate = 2 → goes .ingressTokenDelivery fun u =>
        u.hd.ingress.get [] a = rest ∧ u.credits ch 0 0 = s.credits ch 0 0 - 1
          ∧ ∃ id fl, u.net.flights.look id = some fl ∧ fl.chan = ch ∧ fl.tok.pay = k.pay ∧ fl.tok.lts = k.lts)
    ∧ (∀ m rest ch, s.hd.rollq = m :: rest → s.rollupChan = some ch → s.credits ch 0 0 ≠ 0 → goes .rollupTokenSend fun u =>
      u.hd.rollq = rest ∧ u.credits ch 0 0 = s.credits ch 0 0 - 1
        ∧ ∃ id fl, u.net.flights.look id = some fl ∧ fl.chan = ch ∧ fl.tok.nflit = 1 ∧ lane fl.tok.pay 0 = BitVec.ofNat 32 m)
    ∧ (goes .timestampRebase fun u => u.now = s.now
      ∧ ∀ t, (u.tileAt t).lck = (s.tileAt t).lck - 2 ^ 45 ∧ (u.tileAt t).mu.l1 = [] ∧ (u.tileAt t).mu.tcache = []
        ∧ (u.tileAt t).gcache = [] ∧ (u.tileAt t).mu.qck = (s.tileAt t).mu.qck - 2 ^ 45 ∧ (u.tileAt t).frames = (s.tileAt t).frames
        ∧ ∀ k f, s.firing t k = some f → ∃ g, u.firing t k = some g ∧ g.pts = f.pts - 2 ^ 45 ∧ g.w = f.w ∧ g.v = f.v ∧ g.pc = f.pc)
    ∧ (∀ i, a < s.hd.vfOn → b = 0x8000 + 4 * i → i < 256 → goes .msixTableWrite fun u =>
      (u.hd.bars.get {} a).msixWord i = BitVec.ofNat 32 s.ev.c
        ∧ (∀ v, i = 4 * v + 3 → s.ev.c % 2 = 0 → v ∈ (s.hd.bars.get {} a).pending → u.hd.out = s.hd.out ++ [.msix a v]
          ∧ (u.hd.bars.get {} a).pba.getLsbD v = false ∧ v ∉ (u.hd.bars.get {} a).pending))
    ∧ (let half (x h : Nat) : Nat :=
        if h = 0 then x / 2 ^ 32 * 2 ^ 32 + s.ev.c % 2 ^ 32 else x % 2 ^ 32 + s.ev.c % 2 ^ 32 * 2 ^ 32
      ∀ h, h < 2 →
        (a = 128 → b = 8 + 4 * h → goes .hostRegisterWrite fun u => u.hd.pf.arg = half s.hd.pf.arg h)
          ∧ (a < 128 → a < s.hd.vfOn → b = 0x4010 + 4 * h → goes .hostRegisterWrite fun u =>
            (u.hd.bars.get {} a).tlbva = half (s.hd.bars.get {} a).tlbva h))

/-- The harbour's management (R318, R343, R344, R351, R364, R365, R368 to R374, R384, R385): roll-ups, governors and
thermal limits; PF0's commands; firmware, whose keys and checks are free functions (logs 80 and 82); the device reset up to the load of the
agent's chart, at whose start it ends (log 10); SPDM's nine messages. The operands of the steps are the model's (log 90), as are the
readings of logs 74 to 76, 78 to 83 and 116 to 122. -/
def Obligations.ManagementEvents : Prop :=
  ∀ s : State,
    let a := s.ev.a
    let goes (i : Instr) (q : State → Prop) : Prop := ∃ u, exec i s = .next u ∧ q u
    let due (u : State) (d : Nat) (i : Instr) (e : EvArg) : Prop := (s.now + d, i, e) ∈ u.agenda
    let ends (u : State) (st : Nat) : Prop := u.hd.pf.busy = false ∧ u.hd.pf.stat = st ∧ u.hd.out = s.hd.out ++ [.pfVector 1]
    let idle := s.hd.pf.busy = false
    let arg := s.hd.pf.arg
    (goes .rollup fun u => u.hd.umeter = [] ∧ u.hd.costsNew = [] ∧ (∀ t, (u.tileAt t).meter = [])
      ∧ (s.rollupChan ≠ none → u.hd.rolls = s.hd.rolls + 1 ∧ due u 1 .rollupTokenSend {})
      ∧ ∀ v, (s.acct v).frac < 16 →
        let x := (s.acct v).frac + (addMap s.countAll.meterTotals (s.countAll.poolTotals (s.now / 65536))).get 0 v
        let bal := if v < 128 then (s.acct v).bal - BitVec.ofNat 64 (x / 16) else (s.acct v).bal
        (u.acct v).cons = (s.acct v).cons + BitVec.ofNat 64 (x / 16) ∧ (u.acct v).frac = x % 16 ∧ (u.acct v).bal = bal
          ∧ (u.acct v).exh = ((s.acct v).exh || (decide (v < 128) && !(s.acct v).bal.msb && bal.msb)))
    ∧ (goes .costTableRewrite fun u => u.hd.costsNew = s.hd.costsNew ++ [(a, s.ev.l)] ∧ ∀ d c, u.cost d c = s.cost d c)
    ∧ (let g := s.hd.gov.get {} a
      (goes .governorWindow fun u => let h := u.hd.gov.get {} a
          h.energy = 0 ∧ h.cap = g.cap ∧ (g.cap < 27 * g.energy → h.k = Nat.max 8 (g.k - 1))
            ∧ (270 * g.energy < 9 * g.cap → h.k = Nat.min 16 (g.k + 1))
            ∧ (27 * g.energy ≤ g.cap → 9 * g.cap ≤ 270 * g.energy → h.k = g.k))
        ∧ (s.ev.b ≠ 1 → s.hd.hot.get false a = false → goes .thermalLimit fun u => u.hd.hot.get false a = true
          ∧ (u.hd.gov.get {} a).cap = g.cap - 117964800000 ∧ u.hd.out = s.hd.out ++ [.pfVector 2]
          ∧ due u 65536 .thermalCapStep { a := a })
        ∧ (s.ev.b = 1 → goes .thermalLimit fun u => u.hd.hot.get false a = false ∧ u.hd.gov = s.hd.gov)
        ∧ (s.hd.hot.get false a = true → goes .thermalCapStep fun u => (u.hd.gov.get {} a).cap = g.cap - 117964800000
          ∧ due u 65536 .thermalCapStep { a := a })
        ∧ (s.hd.hot.get false a = false → goes .thermalCapStep fun u => u = s))
    ∧ (∀ i ∈ [Instr.thermalShutdown, .managementCoreFault], goes i fun u => u.hd.frozenAll = true ∧ u.hd.vfOn = 0
      ∧ u.hd.cxlOn = false ∧ u.hd.fw.recovery = (s.hd.fw.recovery || decide (i = .managementCoreFault)) ∧ u.mem = s.mem)
    ∧ (∀ r ∈ [64, 32, 16], ∀ w ∈ [16, 8, 4], a = r → s.ev.b = w → goes .cxlLinkTraining fun u => u.hd.rate = r ∧ u.hd.width = w)
    ∧ (s.hd.fw.recovery = false → s.hd.frozenAll = false → s.hd.boot = 0 → goes .vfEnable fun u => u.hd.vfOn = Nat.min 128 a)
    ∧ ((s.hd.fw.recovery = true ∨ s.hd.frozenAll = true ∨ s.hd.boot ≠ 0) → goes .vfEnable fun u => u = s)
    ∧ (s.ev.c = 0 → idle → (s.hd.fw.recovery = true ∨ s.hd.frozenAll = true ∨ arg % 4096 ≠ 0 ∨ isHost arg = false ∨
        isHost (arg + 16383) = false) → goes .resync fun u => ends u 0x11 ∧ u.mem = s.mem)
    ∧ ((s.ev.c = 1 ∨ (s.ev.c = 0 ∧ idle ∧ s.hd.fw.recovery = false ∧ s.hd.frozenAll = false ∧ arg % 4096 = 0 ∧ isHost arg = true ∧
        isHost (arg + 16383) = true)) →
      ((∀ e ∈ s.hd.running, e.2 = false) → goes .resync fun u => u.hd.pf.resyncs = s.hd.pf.resyncs + 1
          ∧ (ends u 0 ∨ ∃ e, e.c = 2 ∧ due u 1 .resync e) ∧ ((∀ e ∈ s.mem.dir, e.2.pend = false) → ends u 0))
        ∧ ((∃ e ∈ s.hd.running, e.2 = true) → goes .resync fun u => due u 1 .resync { c := 1 } ∧ u.mem = s.mem))
    ∧ (s.ev.c = 2 → s.ev.l = [] → goes .resync fun u => ends u 0 ∧ u.mem = s.mem)
    ∧ (idle → goes .pfUnknownCommand fun u => ends u 0x11 ∧ u.hd.pf.cmd = a)
    ∧ (s.hd.pf.busy = true → ∀ i ∈ [Instr.pfUnknownCommand, .pfDeviceReset, .firmwareUpdate, .resync], (i = .pfDeviceReset → s.hd.boot = 0) →
      (i = .resync → s.ev.c = 0) → goes i fun u =>
      u.hd.pf = { s.hd.pf with stat := 0x10 } ∧ u.hd.out = s.hd.out ++ [.pfVector 1] ∧ u.hd.fw = s.hd.fw ∧ u.mem = s.mem)
    ∧ (idle →
      ((arg % 64 ≠ 0 ∨ isHost arg = false) → goes .firmwareUpdate fun u => ends u 0x11 ∧ u.hd.fw = s.hd.fw)
        ∧ (arg % 64 = 0 → isHost arg = true → goes .firmwareUpdate fun u =>
          let i := s.readFw arg
          ends u (if fwOk s.hd.fw i then 0 else 0x12)
            ∧ u.hd.fw = if fwOk s.hd.fw i then { s.hd.fw with flash := i, minSvn := i.svn } else s.hd.fw))
    ∧ (∀ (f : Firmware) (i : FwImage), fwOk f i = true ↔ i.magic = Config.fwMagic ∧ i.length = i.body.length ∧ f.minSvn ≤ i.svn
      ∧ Config.keyHash 0 i.edKey = f.edHash ∧ Config.verifies 0 i.edKey i.body i.edSig = true
      ∧ Config.keyHash 1 i.mlKey = f.mlHash ∧ Config.verifies 1 i.mlKey i.body i.mlSig = true)
    ∧ (let i := s.hd.fw.flash
      let ok := fwOk s.hd.fw i
      let fresh (u : State) (boot : Nat) : Prop := u.tiles = [] ∧ u.coves = [] ∧ u.cfg = {} ∧ u.now = s.now
        ∧ u.net = (if ok then { ports := trainPorts s.ev.l } else {})
        ∧ u.hd.fw = { s.hd.fw with running := if ok then i else s.hd.fw.running, recovery := !ok }
        ∧ u.hd.frozenAll = !ok ∧ u.hd.vfOn = 0 ∧ (∀ k, k ≤ 128 → u.hd.keyEpoch.get 0 k = s.hd.keyEpoch.get 0 k + 1)
        ∧ (i.tables = [] → ∀ x, u.pmByte x = if isHost x then s.pmByte x else 0)
        ∧ u.hd.boot = (if ok = true ∧ i.chart.patterns ≠ [] then boot else 0)
        ∧ u.hd.cxlOn = (ok && decide (i.chart.patterns = []))
        ∧ (ok = true → i.chart.patterns ≠ [] → due u 1 .chartLoad { a := agentPart, b := 128, img := i.chart })
        ∧ (ok = true → ∀ d c, d < 9 → 0 < c → c < 64 → u.cost d c = Config.calibrated s.now d c % 2 ^ 20)
      (goes .deviceReset fun u => fresh u 1 ∧ u.hd.out = s.hd.out)
        ∧ (s.hd.boot = 0 → idle → s.hd.fw.recovery = false → goes .pfDeviceReset fun u => fresh u 2
          ∧ u.hd.out = if ok = true ∧ i.chart.patterns ≠ [] then s.hd.out else s.hd.out ++ [.pfVector 1])
        ∧ (s.hd.boot = 0 → idle → s.hd.fw.recovery = true → goes .pfDeviceReset fun u => ends u 0x11 ∧ u.mem = s.mem)
        ∧ (s.hd.boot ≠ 0 → exec .pfDeviceReset s = .next s))
    ∧ (let f := s.hd.fw
      let old := s.hd.spdm
      let req := s.ev.l
      let answers (i : Instr) (m : Nat) (body : List Nat) (ed ml : Nat) : Prop := goes i fun u =>
        u.hd.out = s.hd.out ++ [.spdm m body ed ml] ∧ u.mem = s.mem ∧ u.hd.fw = f ∧ u.hd.spdm = transcript old m req body
      (∀ e ∈ [(Instr.getVersion, 1, [0x13]), (.getCapabilities, 2, [1, 2, 3, 4, 5, 6, 7, 8, 9]), (.negotiateAlgorithms, 3, [0x400]),
          (.getDigests, 4, [Config.spdmHash f.chain]), (.getCertificate, 5, f.chain), (.finish, 9, []),
          (.keyExchange, 8, [Config.exchange f.secret (Config.spdmHash (transcript old 8 req []))])], answers e.1 e.2.1 e.2.2 0 0)
        ∧ (∀ e ∈ [(Instr.challenge, 6, [Config.spdmHash f.chain]), (.getMeasurements, 7, s.measurements)],
          let h := Config.spdmHash (transcript old e.2.1 req e.2.2)
          answers e.1 e.2.1 e.2.2 (Config.spdmSignature (f.alias_ 0) h) (Config.spdmSignature (f.alias_ 1) h))
        ∧ s.measurements.length = 4
        ∧ (goes .keyExchange fun u => let h := Config.spdmHash (transcript old 8 req [])
          u.hd.session = some (Config.sessionKey (Config.exchange f.secret h) h))
        ∧ (∀ k, s.hd.session = some k → goes .finish fun u => u.hd.ide = [(0, Config.ideKey 0 k), (1, Config.ideKey 1 k)]))

/-! ## Frames and invariants -/

/-- What the register instructions leave unchanged (R118, R119, R342): an instruction that ends without a fault changes its destination
alone. The integer instructions keep ASTAT, the floating-point ones only add flags to it; a comparison changes its
predicate or its mask. Memory, every other tile, every queue, every other firing and every other register are as before;
only the pc, the loops and the charges go on. -/
def Obligations.RegisterFrame : Prop :=
  ∀ (s u : State) (f : Firing) (d a b n : Opnd) (q r t : BitVec 2) (i : BitVec 9) (j x y : BitVec 5) (h : BitVec 16) (e : BitVec 1)
    (k m : BitVec 4) (p p1 p2 : BitVec 3), s.runs f →
    let fine (c : Instr) : Prop := exec c s = .next u ∧ ∀ cls z, u ≠ s.trapped f cls z
    (∀ c ∈ [(Instr.add d a b, d), (.sub d a b, d), (.addi d a i, d), (.mul d a b, d), (.mulh d a b, d), (.mulhu d a b, d), (.div d a b, d),
        (.divu d a b, d), (.rem d a b, d), (.remu d a b, d), (.and d a b, d), (.or d a b, d), (.xor d a b, d), (.shl d a b, d),
        (.shr d a b, d), (.sra d a b, d), (.shli d a j, d), (.shri d a j, d), (.srai d a j, d), (.min d a b, d), (.max d a b, d),
        (.clz d a, d), (.popc d a, d), (.brev d a, d), (.bfx d a b, d), (.bfxu d a b, d), (.bfi d a b, d), (.sel d a b, d), (.mov d a q, d),
        (.li d h, d), (.lih d h, d), (.agen d a b, d), (.agen2 d a b, d), (.mpop d q, d), (.mfirst d q, d), (.tget d a q x, d),
        (.cMov x y, .w x), (.cLi x y, .w x), (.cAdd x y, .w x), (.cSub x y, .w x), (.cAddi x y, .w x), (.cAnd x y, .w x),
        (.cOr x y, .w x), (.cXor x y, .w x), (.cShli x y, .w x), (.cShri x y, .w x), (.cTget x y, .w x),
        (.vbcast d a b q, d), (.vext d a b, d), (.vins d a b, d), (.vperm d a b q, d), (.vrotl d a b q, d), (.vredAdd d a q, d),
        (.vredMin d a q, d), (.vredMax d a q, d), (.tset d a k, d), (.vsel d a b q, d), (.vunpk d a b e, d), (.vadd d a b q, d),
        (.vsub d a b q, d), (.vmul d a b q, d), (.vmad d a b q, d), (.vand d a b q, d), (.vor d a b q, d), (.vxor d a b q, d),
        (.vshl d a b q, d), (.vshr d a b q, d), (.vmin d a b q, d), (.vmax d a b q, d), (.cVadd k m, .v k)],
      fine c.1 → s.keeps u f c.2 ∧ (u.tileAt s.tile).astat = (s.tileAt s.tile).astat)
    ∧ (∀ c ∈ [(Instr.vfadd d a b q, d), (.vfsub d a b q, d), (.vfmul d a b q, d), (.vfma d a b q, d), (.vfmin d a b q, d),
        (.vfmax d a b q, d), (.vfrcp d a q, d), (.vfdiv d a b q, d), (.vfexp2 d a q, d), (.vflrp d a b q, d), (.vhmul d a b q, d),
        (.vbfma d a b q, d), (.fadd d a b, d), (.fmul d a b, d), (.ffma d a b, d), (.cvtF2i d a r, d), (.cvtI2f d a r, d),
        (.cvtF2h d a b r, d), (.cvtH2f d a n r, d), (.cvtF2q d a n, d), (.hfwd d a b, d), (.hinv d a, d), (.hthr d a b, d),
        (.hpack d a b, d), (.hunpk d a b, d), (.htag d a b, d), (.hqry d a, d), (.cVfadd k m, .v k), (.cVfmul k m, .v k),
        (.cVfma k m, .v k)],
      fine c.1 → s.keeps u f c.2
        ∧ (u.tileAt s.tile).astat &&& (s.tileAt s.tile).astat = (s.tileAt s.tile).astat)
    ∧ (∀ c ∈ [Instr.pcmpEq p a b, .pcmpNe p a b, .pcmpLt p a b, .pcmpLtu p a b, .pfcmpEq p a b, .pfcmpLt p a b, .pfcmpLe p a b,
        .pfcmpUn p a b, .plog p p1 p2 k],
      fine c → s.localTo u s.tile ∧ s.tileKept u s.tile s.slot ∧ ∃ g, u.firing s.tile s.slot = some g
        ∧ { g with pc := f.pc, loops := f.loops, p := f.p } = f
        ∧ ∀ l : BitVec 3, (l ≠ p ∨ l = 0) → g.p.getLsbD l.toNat = f.p.getLsbD l.toNat)
    ∧ ∀ c ∈ [Instr.mcmpEq t a b q, .mcmpNe t a b q, .mcmpLt t a b q, .mcmpLtu t a b q, .mfcmpEq t a b q, .mfcmpLt t a b q,
        .mfcmpLe t a b q, .mfcmpUn t a b q, .mlog t q r k],
      fine c → s.localTo u s.tile ∧ s.tileKept u s.tile s.slot ∧ ∃ g, u.firing s.tile s.slot = some g
        ∧ { g with pc := f.pc, loops := f.loops, m := f.m } = f
        ∧ ∀ l : Nat, (l ≠ t.toNat ∨ l = 0) → g.m.get 0xFFFF l = f.m.get 0xFFFF l

/-- The machine at reset (R374): no tile runs, no chart, table, key epoch or queue holds anything, every byte of memory and every
register reads zero except those that the rules give a value, the package fc count is 0, and the memories are in canonical
form. The reserved cove 63 of die 0 is the model's choice (log 10), as are the values that the rules do not give (log 8). -/
def Obligations.ResetState : Prop :=
  let s := State.reset
  s.memOk ∧ s.now = 0 ∧ s.cfg = {} ∧ s.tiles = [] ∧ s.coves = [] ∧ s.net = {} ∧ s.agenda = [] ∧ s.inputs = []
    ∧ (∀ x, s.pmByte x = 0) ∧ (∀ x, s.dirOf x = {}) ∧ s.hd.vfOn = 0 ∧ s.hd.cxlOn = true ∧ s.hd.frozenAll = false
    ∧ (∀ v, (s.vf v).state = 0 ∧ (s.vf v).gen = 0 ∧ (s.vf v).lease0 = 16 ∧ (s.vf v).wm = 0xFFFF)
    ∧ (∀ v, s.acct v = {}) ∧ (∀ p, (s.part p).pstate = 0)
    ∧ (∀ c, s.hd.cmap.get {} c = if c = 63 then { cstate := 3 } else {})
    ∧ (∀ t, (s.tileAt t).lease = 16 ∧ (s.tileAt t).slots = [] ∧ ∀ n, (s.tileAt t).th.get 0 n = 0)
    ∧ (∀ t n, (s.tileAt t).x.shapeOf n = 0xFFFF00F0) ∧ (∀ d, (s.hd.gov.get {} d).k = 16)

/-- Physical memory keeps its canonical form in every step of the machine: addresses strictly rising and no entry that
reads as an unlisted address does, so that equal memories are equal data. The canonical form, and that an unlisted
byte reads 0, are the model's choices (log 5). -/
def Obligations.MemoryStaysCanonical : Prop :=
  ∀ s t : State, s.memOk → step s = .next t → t.memOk

/-! ## Soft errors -/

/-- Uncorrectable soft errors (R66, R188, R225, R245, R247, R300; log 53 for what State holds of them). One in the instruction at the pc is
F_ECC with the routine's start. A matrix instruction that reads a register with one writes nothing and is F_ECC with
0x100·kind + index. An element-local load or atomic of bytes with one is F_ECC with its VA, and so is a load of a line with
one. An engine that reads a line with one gets F_ECC, a ray ends as malformed, and a row of a load walk is in error with no
record. -/
def Obligations.SoftErrors : Prop :=
  ∀ (s : State) (f : Firing),
    let t := s.tileAt s.tile
    let num (q : XReg) : Nat := match q with
      | .t n => n
      | .ps n => 0x100 + n
      | .a n => 0x200 + n
    let tells (i : Instr) (cls : Nat) (rs rd : List XReg) : Prop := s.runs f → (∀ q ∈ rs, t.owes q = false) →
      (∃ q ∈ rd, t.ecc.get false (num q) = true) →
        ∃ q ∈ rd, t.ecc.get false (num q) = true ∧ exec i s = .next (s.trapped f cls { code := 0x0D, tval := BitVec.ofNat 32 (num q) })
    (∀ (tile k : Nat) (h : BitVec 16) (r : List (BitVec 16)) (n : Nat), s.choose = .issue tile k →
        (s.beginIssue tile k).firing tile k = some f → (((s.tcfg tile).code.drop f.start).take f.len).drop f.pc = h :: r →
        n < (if h.getLsbD 15 then 2 else 1) → (s.tileAt tile).ecc.get false (4096 + (f.start + f.pc + n)) = true →
        step s = .next ((s.beginIssue tile k).takeFault tile k f { code := 0x0D, tval := BitVec.ofNat 32 f.start }))
    ∧ (∀ (a b i j : BitVec 4) (k : BitVec 3) (n p : BitVec 2) (c e : BitVec 1),
        let ta := XReg.t a.toNat
        let tb := XReg.t b.toNat
        let ak := XReg.a k.toNat
        let src := t.x.plane.toNat / 256 % 4
        (∀ q ∈ [Instr.mmq2 a b k, .mmq4 a b k, .mmq7 a b k, .mmi8 a b k], tells q 33 [ta, tb] [ta, tb])
          ∧ (∀ q ∈ [Instr.mmh a b k, .mmb a b k], tells q 33 [ta, tb, ak] [ta, tb, ak])
          ∧ (src = 1 → tells (.sca a b k) 0 [ta, tb, ak] (ak :: ((List.range 8).filter fun q => t.x.plane.getLsbD q).map XReg.ps))
          ∧ (src = 2 → tells (.scai a b k j i) 0 [ta, tb, ak] [ta, tb, ak, .ps 0])
          ∧ tells (.ttr a b n p) 32 [ta, tb] [ta] ∧ tells (.ajoin k n) 42 [ak, .a n.toNat] [ak, .a n.toNat]
          ∧ tells (.acpy k n) 29 [ak, .a n.toNat] [.a n.toNat] ∧ tells (.aout a k c e) 43 [ta, ak] [ak]
          ∧ tells (.ard k 0 n c i) 29 [ak] [ak] ∧ tells (.ard k 1 n c i) 29 [] [.ps k.toNat] ∧ tells (.srtk a) 0 [ta] [ta]
          ∧ ((s.tileAt (chanTile (coveOfTile s.tile) (bindChan (s.berth s.tile f.berth) n.toNat))).mu.storebuf.length < 2 →
            tells (.tstTile a n) 31 [ta] [ta] ∧ tells (.tstAcc k 3 n) 31 [ak] [ak]))
    ∧ (∀ (d a b : Opnd) (o : BitVec 9) (y : W32) (va n : Nat), s.runs f → kindAt (s.tile % 64) ≠ .m → va < 2 ^ 16 →
        va + 4 ≤ (s.tcfg s.tile).scratch → n < 4 → t.ecc.get false (65536 + va + n) = true →
        let faults (i : Instr) : Prop := ∃ (u : State) (g : Firing), exec i s = .next (u.takeFault s.tile s.slot g (trapVa 0x0D va))
          ∧ u.mem = s.mem ∧ (u.tileAt s.tile).scratch = t.scratch ∧ g.berth = f.berth ∧ g.pc = f.pc ∧ g.w = f.w
        ((s.view f).target a (o.toInt * 4) 4 = .ok va → faults (.ldw d a o))
          ∧ ((s.view f).src b = .ok y → (s.view f).target a 0 4 = .ok va → faults (.aadd d a b)))
    ∧ (∀ (tile k n : Nat) (j : Job) (o : LineOp) (rest : List LineOp) (x : Xl) (e : TlbEnt), s.firing tile k = some f → f.job = some j →
        j.ops = o :: rest → o.kind = .load → o.va / 2 ^ 16 ≠ 0 → o.va / 2 ^ 32 ≠ 0xFFFFF → (s.tileAt (xlatTile tile)).mu.inq = [] →
        s.tlbAsk (xlatTile tile) (s.xlVf tile f.cx.toNat) o.va .read = .hit x e → placeOk o x tile = true → s.lineDamaged x.pa = true →
        ∃ u : State, State.jobRun (n + 1) s tile k = u.takeFault tile k { f with pc := j.pc } (trapVa 0x0D o.va) ∧ u.mem = s.mem
          ∧ u.firing tile k = some f)
    ∧ (∀ (m vf cts va : Nat) (u : State) (x : Xl), va / 2 ^ 16 ≠ 0 → va / 2 ^ 32 ≠ 0xFFFFF → va / 2 ^ 32 ≠ 0xFFFFE →
        s.xlate m vf vf cts va .read = .ok u x → s.walkBusy m vf (va / 2 ^ 14) = none → u.lineDamaged x.pa = true → s.engXl m vf cts va .read = .bad u (trapVa 0x0D va))
    ∧ (∀ (cove n : Nat) (r : Ray) (u : State) (e : Trap), (s.coveAt cove).ring.look n = some r →
        let desc := (s.coveAt cove).scene r.scene
        let tile := ringTile cove n
        r.stalled = false → r.paid = false → r.node = none → desc ≠ 0 → ptrOk desc (lane r.pay 10) = true → rayBudget r.pay ≠ 0 →
        e.code = 0x0D →
        (s.charge tile (s.coveTables cove r.vf) 62 1).coveLine tile (s.coveTables cove r.vf) r.lts (nodeVa desc (ptrIndex (lane r.pay 10)))
          = .bad u e →
        (s.tileAt (xlatTile tile)).mu.inq.contains (rayId tile n) = false →
        s.ev = { a := cove, b := n } → exec .rayNodeVisit s = .next ((u.postRecord (u.covePart cove) (u.rayRecord tile r e) none).endRay
          cove n { r with pay := raySpend r.pay, join := none, paid := true, todo := [], seen := [] } 3))
    ∧ (∀ (m : Nat) (c : BteCmd) (fmt i g va : Nat) (is : List Nat) (d : MTile) (u v : State) (e : Trap),
        s.cmdIndex m c (c.pos * tmplCount c.tmpl 0 + i) = .ok u g → va = tmplSrc c.tmpl c.arg (c.pos * tmplCount c.tmpl 0 + i) g →
        va % 4 = 0 → u.engRead 3 m c.vf c.cts va (rowBytes fmt) = .bad v e → e.code = 0x0D →
        s.loadRows m c fmt (i :: is) d = (v.charge m c.vf 57 1).loadRows m c fmt is { d with errf := d.errf ||| BitVec.twoPow 16 i })
end

