-- ==== Sys2Proof/Laws/Lanes.lean ====
section
/-! SUPPORT. Lanes of vectors, bytes of lines and digits of little-endian numbers. -/

namespace Sys2Proof.Machine

/-! ## Digits -/

/-- Digit `k` of a number made of digits below `b`, the first in the lowest place. -/
theorem digit_foldr (b : Nat) (g : Nat → Nat) (l : List Nat) (hg : ∀ x ∈ l, g x < b) (k : Nat) (hk : k < l.length) :
    l.foldr (fun x a => g x + b * a) 0 / b ^ k % b = g l[k] := by
  induction l generalizing k with
  | nil => simp at hk
  | cons x r ih =>
    have hx : g x < b := hg x (by simp)
    have hb : 0 < b := by omega
    simp only [List.foldr_cons]
    cases k with
    | zero => simp [Nat.add_mul_mod_self_left, Nat.mod_eq_of_lt hx]
    | succ k =>
      have h1 := ih (fun y hy => hg y (by simp [hy])) k (by simpa using hk)
      rw [Nat.pow_succ, Nat.mul_comm (b ^ k) b, ← Nat.div_div_eq_div_mul, Nat.add_mul_div_left _ _ hb, Nat.div_eq_of_lt hx, Nat.zero_add,
        h1]
      simp

/-- A number made of `n` digits below `b` is below b^n. -/
theorem foldr_lt (b : Nat) (g : Nat → Nat) (l : List Nat) (hg : ∀ x ∈ l, g x < b) :
    l.foldr (fun x a => g x + b * a) 0 < b ^ l.length := by
  induction l with
  | nil => simp
  | cons x r ih =>
    have hx : g x < b := hg x (by simp)
    have h1 := ih (fun y hy => hg y (by simp [hy]))
    simp only [List.foldr_cons, List.length_cons, Nat.pow_succ]
    calc g x + b * _ < b + b * r.foldr (fun x a => g x + b * a) 0 := by omega
      _ = b * (r.foldr (fun x a => g x + b * a) 0 + 1) := by ring
      _ ≤ b * b ^ r.length := Nat.mul_le_mul_left _ h1
      _ = b ^ r.length * b := Nat.mul_comm _ _

/-! ## Lanes -/

/-- A field of a number that fits its word. -/
theorem extract_ofNat (w n a k : Nat) (h : n < 2 ^ w) :
    ((BitVec.ofNat w n).extractLsb' a k).toNat = n / 2 ^ a % 2 ^ k := by
  rw [BitVec.extractLsb'_toNat, BitVec.toNat_ofNat, Nat.shiftRight_eq_div_pow, Nat.mod_eq_of_lt h]

/-- Lane `l` of a vector made of lanes. -/
@[simp] theorem lane_ofLanes (g : Nat → W32) (l : Nat) (h : l < 16) : lane (ofLanes g) l = g l := by
  apply BitVec.eq_of_toNat_eq
  have hlt := foldr_lt (2 ^ 32) (fun x => (g x).toNat) (List.range 16) (fun x _ => (g x).isLt)
  have hd := digit_foldr (2 ^ 32) (fun x => (g x).toNat) (List.range 16) (fun x _ => (g x).isLt) l (by simpa using h)
  rw [List.length_range, ← Nat.pow_mul] at hlt
  rw [List.getElem_range, ← Nat.pow_mul] at hd
  unfold lane ofLanes
  rw [extract_ofNat 512 _ _ _ hlt, hd]

@[simp] theorem lane_splat (x : W32) (l : Nat) (h : l < 16) : lane (splat x) l = x := lane_ofLanes _ l h

theorem lane_mergeLanes (m : BitVec 16) (a b : VBits) (l : Nat) (h : l < 16) :
    lane (mergeLanes m a b) l = if m.getLsbD l then lane b l else lane a l := lane_ofLanes _ l h

@[simp] theorem lane_ofLaneList (x : List W32) (l : Nat) (h : l < 16) : lane (ofLaneList x) l = x.getD l 0 := lane_ofLanes _ l h

@[simp] theorem length_laneList (v : VBits) : (laneList v).length = 16 := by simp [laneList]

/-- Two vectors with the same lanes are equal. -/
theorem vec_ext {x y : VBits} (h : ∀ l, l < 16 → lane x l = lane y l) : x = y := by
  apply BitVec.eq_of_getLsbD_eq
  intro i hi
  have h1 := congrArg (fun w : W32 => w.getLsbD (i % 32)) (h (i / 32) (by omega))
  simp only [lane, BitVec.getLsbD_extractLsb'] at h1
  have h2 : 32 * (i / 32) + i % 32 = i := Nat.div_add_mod i 32
  simpa [h2, show i % 32 < 32 from Nat.mod_lt _ (by decide)] using h1

theorem mergeLanes_full (a b : VBits) : mergeLanes 0xFFFF a b = b := by
  apply vec_ext
  intro l h
  rw [lane_mergeLanes _ _ _ _ h]
  have hb : ∀ k : Fin 16, (0xFFFF : BitVec 16).getLsbD k = true := by decide
  rw [if_pos (hb ⟨l, h⟩)]

end Sys2Proof.Machine
end

