-- ==== Sys2Proof/Laws/Map.lean ====
section
/-! SUPPORT. The laws of the sparse map: reading after writing, and its canonical form. -/

namespace Sys2Proof

variable {α : Type}

/-! ## Reading after writing -/

@[simp] theorem Map.get_nil (d : α) (k : Nat) : Map.get [] d k = d := rfl

@[simp] theorem Map.look_nil (k : Nat) : Map.look ([] : Map α) k = none := rfl

theorem Map.get_eq_look (m : Map α) (d : α) (k : Nat) : m.get d k = (m.look k).getD d := by
  induction m with
  | nil => rfl
  | cons e r ih => obtain ⟨j, b⟩ := e; simp only [Map.get, Map.look]; split <;> simp_all

theorem Map.look_put_same (m : Map α) (k : Nat) (a : α) : (m.put k a).look k = some a := by
  induction m with
  | nil => simp [Map.put, Map.look]
  | cons e r ih =>
    obtain ⟨j, b⟩ := e
    simp only [Map.put]
    split
    · simp [Map.look]
    · split
      · simp [Map.look]
      · simp_all [Map.look]

theorem Map.look_put_other (m : Map α) {k l : Nat} (a : α) (h : l ≠ k) : (m.put k a).look l = m.look l := by
  induction m with
  | nil => simp [Map.put, Map.look, h]
  | cons e r ih =>
    obtain ⟨j, b⟩ := e
    simp only [Map.put]
    split
    · simp [Map.look, h]
    · split
      · simp_all [Map.look]
      · simp [Map.look, ih]

theorem Map.look_put (m : Map α) (k l : Nat) (a : α) : (m.put k a).look l = if l = k then some a else m.look l := by
  split
  · next h => rw [h, Map.look_put_same]
  · next h => rw [Map.look_put_other m a h]

theorem Map.look_drop (m : Map α) (k l : Nat) : (m.drop k).look l = if l = k then none else m.look l := by
  induction m with
  | nil => simp [Map.drop, Map.look]
  | cons e r ih =>
    obtain ⟨j, b⟩ := e
    simp only [Map.drop, List.filter_cons] at ih ⊢
    by_cases h : j = k
    · simp only [h, decide_true, Bool.not_true, Bool.false_eq_true, if_false, Map.look, ih]
      split <;> rfl
    · simp only [h, decide_false, Bool.not_false, if_true, Map.look, ih]
      by_cases hl : l = j
      · simp [hl, h]
      · simp [hl]

@[simp] theorem Map.get_put_same (m : Map α) (d : α) (k : Nat) (a : α) : (m.put k a).get d k = a := by
  simp [Map.get_eq_look, Map.look_put_same]

theorem Map.get_put (m : Map α) (d : α) (k l : Nat) (a : α) : (m.put k a).get d l = if l = k then a else m.get d l := by
  simp only [Map.get_eq_look, Map.look_put]
  split <;> simp

theorem Map.get_drop (m : Map α) (d : α) (k l : Nat) : (m.drop k).get d l = if l = k then d else m.get d l := by
  simp only [Map.get_eq_look, Map.look_drop]
  split <;> simp

theorem Map.get_set [DecidableEq α] (m : Map α) (d : α) (k l : Nat) (a : α) :
    (m.set d k a).get d l = if l = k then a else m.get d l := by
  unfold Map.set
  split
  · next h => rw [Map.get_drop, h]
  · exact Map.get_put m d k l a

@[simp] theorem Map.get_set_same [DecidableEq α] (m : Map α) (d : α) (k : Nat) (a : α) : (m.set d k a).get d k = a := by
  simp [Map.get_set]

theorem Map.get_set_other [DecidableEq α] (m : Map α) (d : α) {k l : Nat} (a : α) (h : l ≠ k) :
    (m.set d k a).get d l = m.get d l := by
  simp [Map.get_set, h]

/-- Mapping the entries changes what a key holds and nothing else. -/
theorem Map.look_map {β : Type} (f : α → β) (m : Map α) (k : Nat) :
    Map.look (m.map fun e => (e.1, f e.2)) k = (m.look k).map f := by
  induction m with
  | nil => rfl
  | cons e r ih => obtain ⟨j, b⟩ := e; simp only [List.map_cons, Map.look]; split <;> simp_all

/-- Entries chosen by their keys read as before. -/
theorem Map.look_filter_key (p : Nat → Bool) (m : Map α) (k : Nat) :
    Map.look (m.filter fun e => p e.1) k = if p k then m.look k else none := by
  induction m with
  | nil => simp [Map.look]
  | cons e r ih =>
    obtain ⟨j, b⟩ := e
    simp only [List.filter_cons]
    by_cases hj : p j = true
    · simp only [hj, if_true, Map.look, ih]
      by_cases hk : k = j
      · simp [hk, hj]
      · simp [hk]
    · simp only [hj, Bool.false_eq_true, if_false, Map.look]
      by_cases hk : k = j
      · simp_all
      · simp [hk, ih]

/-! ## The canonical form -/

variable [DecidableEq α]

theorem Map.wfFrom_none_of_some {d : α} {i : Nat} {m : Map α} (h : Map.wfFrom d (some i) m = true) :
    Map.wfFrom d none m = true := by
  cases m with
  | nil => rfl
  | cons e r => obtain ⟨j, b⟩ := e; simp_all [Map.wfFrom]

theorem Map.wfFrom_mono {d : α} {i j : Nat} {m : Map α} (hij : i ≤ j) (h : Map.wfFrom d (some j) m = true) :
    Map.wfFrom d (some i) m = true := by
  cases m with
  | nil => rfl
  | cons e r =>
    obtain ⟨k, b⟩ := e
    simp only [Map.wfFrom, Bool.and_eq_true, decide_eq_true_eq] at h ⊢
    exact ⟨⟨by omega, h.1.2⟩, h.2⟩

theorem Map.wfFrom_put {d a : α} {k : Nat} (ha : a ≠ d) (m : Map α) (lo : Option Nat) (hlo : ∀ i, lo = some i → i < k)
    (h : Map.wfFrom d lo m = true) : Map.wfFrom d lo (m.put k a) = true := by
  induction m generalizing lo with
  | nil => cases lo <;> simp_all [Map.put, Map.wfFrom]
  | cons e r ih =>
    obtain ⟨j, b⟩ := e
    simp only [Map.wfFrom, Bool.and_eq_true] at h
    simp only [Map.put]
    split
    · next hk =>
      simp only [Map.wfFrom, Bool.and_eq_true]
      refine ⟨⟨?_, by simp [ha]⟩, ⟨by simpa using hk, h.1.2⟩, h.2⟩
      cases lo <;> simp_all
    · split
      · next hk =>
        subst hk
        simp only [Map.wfFrom, Bool.and_eq_true]
        exact ⟨⟨h.1.1, by simp [ha]⟩, h.2⟩
      · next h1 h2 =>
        simp only [Map.wfFrom, Bool.and_eq_true]
        exact ⟨h.1, ih (some j) (by intro i hi; cases hi; omega) h.2⟩

theorem Map.wfFrom_filter {d : α} (p : Nat × α → Bool) (m : Map α) (lo : Option Nat) (h : Map.wfFrom d lo m = true) :
    Map.wfFrom d lo (m.filter p) = true := by
  induction m generalizing lo with
  | nil => exact h
  | cons e r ih =>
    obtain ⟨j, b⟩ := e
    simp only [Map.wfFrom, Bool.and_eq_true] at h
    simp only [List.filter_cons]
    split
    · simp only [Map.wfFrom, Bool.and_eq_true]
      exact ⟨h.1, ih _ h.2⟩
    · have := ih (some j) h.2
      cases lo with
      | none => exact Map.wfFrom_none_of_some this
      | some i => exact Map.wfFrom_mono (by have := h.1.1; simp at this; omega) this

/-- A write keeps the canonical form. -/
theorem Map.wf_set {d : α} {m : Map α} (h : Map.wf d m = true) (k : Nat) (a : α) : Map.wf d (m.set d k a) = true := by
  unfold Map.set
  split
  · exact Map.wfFrom_filter _ _ _ h
  · next ha => exact Map.wfFrom_put ha m none (by simp) h

/-- Entries left out keep the canonical form. -/
theorem Map.wf_filter {d : α} {m : Map α} (h : Map.wf d m = true) (p : Nat × α → Bool) : Map.wf d (m.filter p) = true :=
  Map.wfFrom_filter p m none h

/-- Many writes keep the canonical form. -/
theorem Map.wf_foldl_set {β : Type} {d : α} (key : β → Nat) (val : Map α → β → α) (l : List β) {m : Map α} (h : Map.wf d m = true) :
    Map.wf d (l.foldl (fun n e => n.set d (key e) (val n e)) m) = true := by
  induction l generalizing m with
  | nil => exact h
  | cons e r ih => exact ih (Map.wf_set h _ _)

/-- A map lists nothing at or below its lower bound. -/
theorem Map.look_none_of_wfFrom {d : α} {m : Map α} {i k : Nat} (h : Map.wfFrom d (some i) m = true) (hk : k ≤ i) :
    m.look k = none := by
  induction m generalizing i with
  | nil => rfl
  | cons e r ih =>
    obtain ⟨j, b⟩ := e
    simp only [Map.wfFrom, Bool.and_eq_true, decide_eq_true_eq] at h
    simp only [Map.look]
    split
    · omega
    · exact ih h.2 (by omega)

theorem Map.get_of_wfFrom {d : α} {m : Map α} {i k : Nat} (h : Map.wfFrom d (some i) m = true) (hk : k ≤ i) :
    m.get d k = d := by
  simp [Map.get_eq_look, Map.look_none_of_wfFrom h hk]

/-- Two maps in canonical form that read alike are equal. -/
theorem Map.ext_of_wf {d : α} {m n : Map α} (hm : Map.wf d m = true) (hn : Map.wf d n = true)
    (h : ∀ k, m.get d k = n.get d k) : m = n := by
  unfold Map.wf at hm hn
  induction m generalizing n with
  | nil =>
    cases n with
    | nil => rfl
    | cons e r =>
      obtain ⟨j, b⟩ := e
      simp only [Map.wfFrom, Bool.and_eq_true] at hn
      have := h j
      simp [Map.get] at this
      simp_all
  | cons e r ih =>
    obtain ⟨j, b⟩ := e
    simp only [Map.wfFrom, Bool.and_eq_true] at hm
    cases n with
    | nil =>
      have := h j
      simp [Map.get] at this
      simp_all
    | cons e2 r2 =>
      obtain ⟨j2, b2⟩ := e2
      simp only [Map.wfFrom, Bool.and_eq_true] at hn
      have hj := h j
      have hj2 := h j2
      simp only [Map.get, if_true] at hj hj2
      have hb : b ≠ d := by simpa using hm.1.2
      have hb2 : b2 ≠ d := by simpa using hn.1.2
      have hjj : j = j2 := by
        rcases Nat.lt_trichotomy j j2 with hlt | heq | hgt
        · rw [if_neg (by omega), Map.get_of_wfFrom hn.2 (by omega)] at hj
          exact absurd hj hb
        · exact heq
        · rw [if_neg (by omega), Map.get_of_wfFrom hm.2 (by omega)] at hj2
          exact absurd hj2.symm hb2
      subst hjj
      rw [if_pos rfl] at hj
      subst hj
      have hr : r = r2 := by
        apply ih (Map.wfFrom_none_of_some hm.2) (Map.wfFrom_none_of_some hn.2)
        intro k
        rcases Nat.lt_or_ge j k with hk | hk
        · have := h k
          simpa [Map.get, show k ≠ j by omega] using this
        · rw [Map.get_of_wfFrom hm.2 hk, Map.get_of_wfFrom hn.2 hk]
      rw [hr]

end Sys2Proof
end

