-- ==== Sys2Proof/Laws/State.lean ====
section
/-! SUPPORT. What each update of the state changes and what it leaves: one lemma a field. -/

namespace Sys2Proof.Machine

variable (s : State)

/-! ## `setTile` -/

@[simp] theorem State.setTile_cfg (t : Nat) (x : Tile) : (s.setTile t x).cfg = s.cfg := rfl
@[simp] theorem State.setTile_tiles (t : Nat) (x : Tile) : (s.setTile t x).tiles = s.tiles.set {} t x := rfl
@[simp] theorem State.setTile_coves (t : Nat) (x : Tile) : (s.setTile t x).coves = s.coves := rfl
@[simp] theorem State.setTile_mem (t : Nat) (x : Tile) : (s.setTile t x).mem = s.mem := rfl
@[simp] theorem State.setTile_net (t : Nat) (x : Tile) : (s.setTile t x).net = s.net := rfl
@[simp] theorem State.setTile_hd (t : Nat) (x : Tile) : (s.setTile t x).hd = s.hd := rfl
@[simp] theorem State.setTile_now (t : Nat) (x : Tile) : (s.setTile t x).now = s.now := rfl
@[simp] theorem State.setTile_agenda (t : Nat) (x : Tile) : (s.setTile t x).agenda = s.agenda := rfl
@[simp] theorem State.setTile_inputs (t : Nat) (x : Tile) : (s.setTile t x).inputs = s.inputs := rfl
@[simp] theorem State.setTile_tile (t : Nat) (x : Tile) : (s.setTile t x).tile = s.tile := rfl
@[simp] theorem State.setTile_slot (t : Nat) (x : Tile) : (s.setTile t x).slot = s.slot := rfl
@[simp] theorem State.setTile_ev (t : Nat) (x : Tile) : (s.setTile t x).ev = s.ev := rfl
@[simp] theorem State.setTile_free (t : Nat) (x : Tile) : (s.setTile t x).free = s.free := rfl
@[simp] theorem State.setTile_next (t : Nat) (x : Tile) : (s.setTile t x).next = s.next := rfl

/-! ## `modTile` -/

@[simp] theorem State.modTile_cfg (t : Nat) (g : Tile → Tile) : (s.modTile t g).cfg = s.cfg := rfl
@[simp] theorem State.modTile_tiles (t : Nat) (g : Tile → Tile) :
    (s.modTile t g).tiles = s.tiles.set {} t (g (s.tileAt t)) := rfl
@[simp] theorem State.modTile_coves (t : Nat) (g : Tile → Tile) : (s.modTile t g).coves = s.coves := rfl
@[simp] theorem State.modTile_mem (t : Nat) (g : Tile → Tile) : (s.modTile t g).mem = s.mem := rfl
@[simp] theorem State.modTile_net (t : Nat) (g : Tile → Tile) : (s.modTile t g).net = s.net := rfl
@[simp] theorem State.modTile_hd (t : Nat) (g : Tile → Tile) : (s.modTile t g).hd = s.hd := rfl
@[simp] theorem State.modTile_now (t : Nat) (g : Tile → Tile) : (s.modTile t g).now = s.now := rfl
@[simp] theorem State.modTile_agenda (t : Nat) (g : Tile → Tile) : (s.modTile t g).agenda = s.agenda := rfl
@[simp] theorem State.modTile_inputs (t : Nat) (g : Tile → Tile) : (s.modTile t g).inputs = s.inputs := rfl
@[simp] theorem State.modTile_tile (t : Nat) (g : Tile → Tile) : (s.modTile t g).tile = s.tile := rfl
@[simp] theorem State.modTile_slot (t : Nat) (g : Tile → Tile) : (s.modTile t g).slot = s.slot := rfl
@[simp] theorem State.modTile_ev (t : Nat) (g : Tile → Tile) : (s.modTile t g).ev = s.ev := rfl
@[simp] theorem State.modTile_free (t : Nat) (g : Tile → Tile) : (s.modTile t g).free = s.free := rfl
@[simp] theorem State.modTile_next (t : Nat) (g : Tile → Tile) : (s.modTile t g).next = s.next := rfl

/-! ## `setCove` -/

@[simp] theorem State.setCove_cfg (c : Nat) (x : Cove) : (s.setCove c x).cfg = s.cfg := rfl
@[simp] theorem State.setCove_tiles (c : Nat) (x : Cove) : (s.setCove c x).tiles = s.tiles := rfl
@[simp] theorem State.setCove_coves (c : Nat) (x : Cove) : (s.setCove c x).coves = s.coves.set {} c x := rfl
@[simp] theorem State.setCove_mem (c : Nat) (x : Cove) : (s.setCove c x).mem = s.mem := rfl
@[simp] theorem State.setCove_net (c : Nat) (x : Cove) : (s.setCove c x).net = s.net := rfl
@[simp] theorem State.setCove_hd (c : Nat) (x : Cove) : (s.setCove c x).hd = s.hd := rfl
@[simp] theorem State.setCove_now (c : Nat) (x : Cove) : (s.setCove c x).now = s.now := rfl
@[simp] theorem State.setCove_agenda (c : Nat) (x : Cove) : (s.setCove c x).agenda = s.agenda := rfl
@[simp] theorem State.setCove_inputs (c : Nat) (x : Cove) : (s.setCove c x).inputs = s.inputs := rfl
@[simp] theorem State.setCove_tile (c : Nat) (x : Cove) : (s.setCove c x).tile = s.tile := rfl
@[simp] theorem State.setCove_slot (c : Nat) (x : Cove) : (s.setCove c x).slot = s.slot := rfl
@[simp] theorem State.setCove_ev (c : Nat) (x : Cove) : (s.setCove c x).ev = s.ev := rfl
@[simp] theorem State.setCove_free (c : Nat) (x : Cove) : (s.setCove c x).free = s.free := rfl
@[simp] theorem State.setCove_next (c : Nat) (x : Cove) : (s.setCove c x).next = s.next := rfl

/-! ## `modCove` -/

@[simp] theorem State.modCove_cfg (c : Nat) (g : Cove → Cove) : (s.modCove c g).cfg = s.cfg := rfl
@[simp] theorem State.modCove_tiles (c : Nat) (g : Cove → Cove) : (s.modCove c g).tiles = s.tiles := rfl
@[simp] theorem State.modCove_coves (c : Nat) (g : Cove → Cove) :
    (s.modCove c g).coves = s.coves.set {} c (g (s.coveAt c)) := rfl
@[simp] theorem State.modCove_mem (c : Nat) (g : Cove → Cove) : (s.modCove c g).mem = s.mem := rfl
@[simp] theorem State.modCove_net (c : Nat) (g : Cove → Cove) : (s.modCove c g).net = s.net := rfl
@[simp] theorem State.modCove_hd (c : Nat) (g : Cove → Cove) : (s.modCove c g).hd = s.hd := rfl
@[simp] theorem State.modCove_now (c : Nat) (g : Cove → Cove) : (s.modCove c g).now = s.now := rfl
@[simp] theorem State.modCove_agenda (c : Nat) (g : Cove → Cove) : (s.modCove c g).agenda = s.agenda := rfl
@[simp] theorem State.modCove_inputs (c : Nat) (g : Cove → Cove) : (s.modCove c g).inputs = s.inputs := rfl
@[simp] theorem State.modCove_tile (c : Nat) (g : Cove → Cove) : (s.modCove c g).tile = s.tile := rfl
@[simp] theorem State.modCove_slot (c : Nat) (g : Cove → Cove) : (s.modCove c g).slot = s.slot := rfl
@[simp] theorem State.modCove_ev (c : Nat) (g : Cove → Cove) : (s.modCove c g).ev = s.ev := rfl
@[simp] theorem State.modCove_free (c : Nat) (g : Cove → Cove) : (s.modCove c g).free = s.free := rfl
@[simp] theorem State.modCove_next (c : Nat) (g : Cove → Cove) : (s.modCove c g).next = s.next := rfl

/-! ## `modHd` -/

@[simp] theorem State.modHd_cfg (g : Harbour → Harbour) : (s.modHd g).cfg = s.cfg := rfl
@[simp] theorem State.modHd_tiles (g : Harbour → Harbour) : (s.modHd g).tiles = s.tiles := rfl
@[simp] theorem State.modHd_coves (g : Harbour → Harbour) : (s.modHd g).coves = s.coves := rfl
@[simp] theorem State.modHd_mem (g : Harbour → Harbour) : (s.modHd g).mem = s.mem := rfl
@[simp] theorem State.modHd_net (g : Harbour → Harbour) : (s.modHd g).net = s.net := rfl
@[simp] theorem State.modHd_hd (g : Harbour → Harbour) : (s.modHd g).hd = g s.hd := rfl
@[simp] theorem State.modHd_now (g : Harbour → Harbour) : (s.modHd g).now = s.now := rfl
@[simp] theorem State.modHd_agenda (g : Harbour → Harbour) : (s.modHd g).agenda = s.agenda := rfl
@[simp] theorem State.modHd_inputs (g : Harbour → Harbour) : (s.modHd g).inputs = s.inputs := rfl
@[simp] theorem State.modHd_tile (g : Harbour → Harbour) : (s.modHd g).tile = s.tile := rfl
@[simp] theorem State.modHd_slot (g : Harbour → Harbour) : (s.modHd g).slot = s.slot := rfl
@[simp] theorem State.modHd_ev (g : Harbour → Harbour) : (s.modHd g).ev = s.ev := rfl
@[simp] theorem State.modHd_free (g : Harbour → Harbour) : (s.modHd g).free = s.free := rfl
@[simp] theorem State.modHd_next (g : Harbour → Harbour) : (s.modHd g).next = s.next := rfl

/-! ## `modNet` -/

@[simp] theorem State.modNet_cfg (g : Net → Net) : (s.modNet g).cfg = s.cfg := rfl
@[simp] theorem State.modNet_tiles (g : Net → Net) : (s.modNet g).tiles = s.tiles := rfl
@[simp] theorem State.modNet_coves (g : Net → Net) : (s.modNet g).coves = s.coves := rfl
@[simp] theorem State.modNet_mem (g : Net → Net) : (s.modNet g).mem = s.mem := rfl
@[simp] theorem State.modNet_net (g : Net → Net) : (s.modNet g).net = g s.net := rfl
@[simp] theorem State.modNet_hd (g : Net → Net) : (s.modNet g).hd = s.hd := rfl
@[simp] theorem State.modNet_now (g : Net → Net) : (s.modNet g).now = s.now := rfl
@[simp] theorem State.modNet_agenda (g : Net → Net) : (s.modNet g).agenda = s.agenda := rfl
@[simp] theorem State.modNet_inputs (g : Net → Net) : (s.modNet g).inputs = s.inputs := rfl
@[simp] theorem State.modNet_tile (g : Net → Net) : (s.modNet g).tile = s.tile := rfl
@[simp] theorem State.modNet_slot (g : Net → Net) : (s.modNet g).slot = s.slot := rfl
@[simp] theorem State.modNet_ev (g : Net → Net) : (s.modNet g).ev = s.ev := rfl
@[simp] theorem State.modNet_free (g : Net → Net) : (s.modNet g).free = s.free := rfl
@[simp] theorem State.modNet_next (g : Net → Net) : (s.modNet g).next = s.next := rfl

/-! ## `modVf` -/

@[simp] theorem State.modVf_cfg (v : Nat) (g : VfEnt → VfEnt) : (s.modVf v g).cfg = s.cfg := rfl
@[simp] theorem State.modVf_tiles (v : Nat) (g : VfEnt → VfEnt) : (s.modVf v g).tiles = s.tiles := rfl
@[simp] theorem State.modVf_coves (v : Nat) (g : VfEnt → VfEnt) : (s.modVf v g).coves = s.coves := rfl
@[simp] theorem State.modVf_mem (v : Nat) (g : VfEnt → VfEnt) : (s.modVf v g).mem = s.mem := rfl
@[simp] theorem State.modVf_net (v : Nat) (g : VfEnt → VfEnt) : (s.modVf v g).net = s.net := rfl
@[simp] theorem State.modVf_hd (v : Nat) (g : VfEnt → VfEnt) :
    (s.modVf v g).hd = { s.hd with vfs := s.hd.vfs.set {} v (g (s.vf v)) } := rfl
@[simp] theorem State.modVf_now (v : Nat) (g : VfEnt → VfEnt) : (s.modVf v g).now = s.now := rfl
@[simp] theorem State.modVf_agenda (v : Nat) (g : VfEnt → VfEnt) : (s.modVf v g).agenda = s.agenda := rfl
@[simp] theorem State.modVf_inputs (v : Nat) (g : VfEnt → VfEnt) : (s.modVf v g).inputs = s.inputs := rfl
@[simp] theorem State.modVf_tile (v : Nat) (g : VfEnt → VfEnt) : (s.modVf v g).tile = s.tile := rfl
@[simp] theorem State.modVf_slot (v : Nat) (g : VfEnt → VfEnt) : (s.modVf v g).slot = s.slot := rfl
@[simp] theorem State.modVf_ev (v : Nat) (g : VfEnt → VfEnt) : (s.modVf v g).ev = s.ev := rfl
@[simp] theorem State.modVf_free (v : Nat) (g : VfEnt → VfEnt) : (s.modVf v g).free = s.free := rfl
@[simp] theorem State.modVf_next (v : Nat) (g : VfEnt → VfEnt) : (s.modVf v g).next = s.next := rfl

/-! ## `modAcct` -/

@[simp] theorem State.modAcct_cfg (v : Nat) (g : Acct → Acct) : (s.modAcct v g).cfg = s.cfg := rfl
@[simp] theorem State.modAcct_tiles (v : Nat) (g : Acct → Acct) : (s.modAcct v g).tiles = s.tiles := rfl
@[simp] theorem State.modAcct_coves (v : Nat) (g : Acct → Acct) : (s.modAcct v g).coves = s.coves := rfl
@[simp] theorem State.modAcct_mem (v : Nat) (g : Acct → Acct) : (s.modAcct v g).mem = s.mem := rfl
@[simp] theorem State.modAcct_net (v : Nat) (g : Acct → Acct) : (s.modAcct v g).net = s.net := rfl
@[simp] theorem State.modAcct_hd (v : Nat) (g : Acct → Acct) :
    (s.modAcct v g).hd = { s.hd with accts := s.hd.accts.set {} v (g (s.acct v)) } := rfl
@[simp] theorem State.modAcct_now (v : Nat) (g : Acct → Acct) : (s.modAcct v g).now = s.now := rfl
@[simp] theorem State.modAcct_agenda (v : Nat) (g : Acct → Acct) : (s.modAcct v g).agenda = s.agenda := rfl
@[simp] theorem State.modAcct_inputs (v : Nat) (g : Acct → Acct) : (s.modAcct v g).inputs = s.inputs := rfl
@[simp] theorem State.modAcct_tile (v : Nat) (g : Acct → Acct) : (s.modAcct v g).tile = s.tile := rfl
@[simp] theorem State.modAcct_slot (v : Nat) (g : Acct → Acct) : (s.modAcct v g).slot = s.slot := rfl
@[simp] theorem State.modAcct_ev (v : Nat) (g : Acct → Acct) : (s.modAcct v g).ev = s.ev := rfl
@[simp] theorem State.modAcct_free (v : Nat) (g : Acct → Acct) : (s.modAcct v g).free = s.free := rfl
@[simp] theorem State.modAcct_next (v : Nat) (g : Acct → Acct) : (s.modAcct v g).next = s.next := rfl

/-! ## `modPart` -/

@[simp] theorem State.modPart_cfg (p : Nat) (g : PartEnt → PartEnt) : (s.modPart p g).cfg = s.cfg := rfl
@[simp] theorem State.modPart_tiles (p : Nat) (g : PartEnt → PartEnt) : (s.modPart p g).tiles = s.tiles := rfl
@[simp] theorem State.modPart_coves (p : Nat) (g : PartEnt → PartEnt) : (s.modPart p g).coves = s.coves := rfl
@[simp] theorem State.modPart_mem (p : Nat) (g : PartEnt → PartEnt) : (s.modPart p g).mem = s.mem := rfl
@[simp] theorem State.modPart_net (p : Nat) (g : PartEnt → PartEnt) : (s.modPart p g).net = s.net := rfl
@[simp] theorem State.modPart_hd (p : Nat) (g : PartEnt → PartEnt) :
    (s.modPart p g).hd = { s.hd with parts := s.hd.parts.set {} p (g (s.part p)) } := rfl
@[simp] theorem State.modPart_now (p : Nat) (g : PartEnt → PartEnt) : (s.modPart p g).now = s.now := rfl
@[simp] theorem State.modPart_agenda (p : Nat) (g : PartEnt → PartEnt) : (s.modPart p g).agenda = s.agenda := rfl
@[simp] theorem State.modPart_inputs (p : Nat) (g : PartEnt → PartEnt) : (s.modPart p g).inputs = s.inputs := rfl
@[simp] theorem State.modPart_tile (p : Nat) (g : PartEnt → PartEnt) : (s.modPart p g).tile = s.tile := rfl
@[simp] theorem State.modPart_slot (p : Nat) (g : PartEnt → PartEnt) : (s.modPart p g).slot = s.slot := rfl
@[simp] theorem State.modPart_ev (p : Nat) (g : PartEnt → PartEnt) : (s.modPart p g).ev = s.ev := rfl
@[simp] theorem State.modPart_free (p : Nat) (g : PartEnt → PartEnt) : (s.modPart p g).free = s.free := rfl
@[simp] theorem State.modPart_next (p : Nat) (g : PartEnt → PartEnt) : (s.modPart p g).next = s.next := rfl

/-! ## `setFiring` -/

@[simp] theorem State.setFiring_cfg (t k : Nat) (f : Firing) : (s.setFiring t k f).cfg = s.cfg := rfl
@[simp] theorem State.setFiring_tiles (t k : Nat) (f : Firing) :
    (s.setFiring t k f).tiles = s.tiles.set {} t { s.tileAt t with slots := (s.tileAt t).slots.put k f } := rfl
@[simp] theorem State.setFiring_coves (t k : Nat) (f : Firing) : (s.setFiring t k f).coves = s.coves := rfl
@[simp] theorem State.setFiring_mem (t k : Nat) (f : Firing) : (s.setFiring t k f).mem = s.mem := rfl
@[simp] theorem State.setFiring_net (t k : Nat) (f : Firing) : (s.setFiring t k f).net = s.net := rfl
@[simp] theorem State.setFiring_hd (t k : Nat) (f : Firing) : (s.setFiring t k f).hd = s.hd := rfl
@[simp] theorem State.setFiring_now (t k : Nat) (f : Firing) : (s.setFiring t k f).now = s.now := rfl
@[simp] theorem State.setFiring_agenda (t k : Nat) (f : Firing) : (s.setFiring t k f).agenda = s.agenda := rfl
@[simp] theorem State.setFiring_inputs (t k : Nat) (f : Firing) : (s.setFiring t k f).inputs = s.inputs := rfl
@[simp] theorem State.setFiring_tile (t k : Nat) (f : Firing) : (s.setFiring t k f).tile = s.tile := rfl
@[simp] theorem State.setFiring_slot (t k : Nat) (f : Firing) : (s.setFiring t k f).slot = s.slot := rfl
@[simp] theorem State.setFiring_ev (t k : Nat) (f : Firing) : (s.setFiring t k f).ev = s.ev := rfl
@[simp] theorem State.setFiring_free (t k : Nat) (f : Firing) : (s.setFiring t k f).free = s.free := rfl
@[simp] theorem State.setFiring_next (t k : Nat) (f : Firing) : (s.setFiring t k f).next = s.next := rfl

/-! ## `modMu` -/

@[simp] theorem State.modMu_cfg (t : Nat) (g : MUnit → MUnit) : (s.modMu t g).cfg = s.cfg := rfl
@[simp] theorem State.modMu_tiles (t : Nat) (g : MUnit → MUnit) :
    (s.modMu t g).tiles = s.tiles.set {} t { s.tileAt t with mu := g (s.tileAt t).mu } := rfl
@[simp] theorem State.modMu_coves (t : Nat) (g : MUnit → MUnit) : (s.modMu t g).coves = s.coves := rfl
@[simp] theorem State.modMu_mem (t : Nat) (g : MUnit → MUnit) : (s.modMu t g).mem = s.mem := rfl
@[simp] theorem State.modMu_net (t : Nat) (g : MUnit → MUnit) : (s.modMu t g).net = s.net := rfl
@[simp] theorem State.modMu_hd (t : Nat) (g : MUnit → MUnit) : (s.modMu t g).hd = s.hd := rfl
@[simp] theorem State.modMu_now (t : Nat) (g : MUnit → MUnit) : (s.modMu t g).now = s.now := rfl
@[simp] theorem State.modMu_agenda (t : Nat) (g : MUnit → MUnit) : (s.modMu t g).agenda = s.agenda := rfl
@[simp] theorem State.modMu_inputs (t : Nat) (g : MUnit → MUnit) : (s.modMu t g).inputs = s.inputs := rfl
@[simp] theorem State.modMu_tile (t : Nat) (g : MUnit → MUnit) : (s.modMu t g).tile = s.tile := rfl
@[simp] theorem State.modMu_slot (t : Nat) (g : MUnit → MUnit) : (s.modMu t g).slot = s.slot := rfl
@[simp] theorem State.modMu_ev (t : Nat) (g : MUnit → MUnit) : (s.modMu t g).ev = s.ev := rfl
@[simp] theorem State.modMu_free (t : Nat) (g : MUnit → MUnit) : (s.modMu t g).free = s.free := rfl
@[simp] theorem State.modMu_next (t : Nat) (g : MUnit → MUnit) : (s.modMu t g).next = s.next := rfl

/-! ## `modRun` -/

@[simp] theorem State.modRun_cfg (t b : Nat) (g : BerthRun → BerthRun) : (s.modRun t b g).cfg = s.cfg := rfl
@[simp] theorem State.modRun_tiles (t b : Nat) (g : BerthRun → BerthRun) :
    (s.modRun t b g).tiles = s.tiles.set {} t { s.tileAt t with runs := (s.tileAt t).runs.set {} b (g (s.run t b)) } := rfl
@[simp] theorem State.modRun_coves (t b : Nat) (g : BerthRun → BerthRun) : (s.modRun t b g).coves = s.coves := rfl
@[simp] theorem State.modRun_mem (t b : Nat) (g : BerthRun → BerthRun) : (s.modRun t b g).mem = s.mem := rfl
@[simp] theorem State.modRun_net (t b : Nat) (g : BerthRun → BerthRun) : (s.modRun t b g).net = s.net := rfl
@[simp] theorem State.modRun_hd (t b : Nat) (g : BerthRun → BerthRun) : (s.modRun t b g).hd = s.hd := rfl
@[simp] theorem State.modRun_now (t b : Nat) (g : BerthRun → BerthRun) : (s.modRun t b g).now = s.now := rfl
@[simp] theorem State.modRun_agenda (t b : Nat) (g : BerthRun → BerthRun) : (s.modRun t b g).agenda = s.agenda := rfl
@[simp] theorem State.modRun_inputs (t b : Nat) (g : BerthRun → BerthRun) : (s.modRun t b g).inputs = s.inputs := rfl
@[simp] theorem State.modRun_tile (t b : Nat) (g : BerthRun → BerthRun) : (s.modRun t b g).tile = s.tile := rfl
@[simp] theorem State.modRun_slot (t b : Nat) (g : BerthRun → BerthRun) : (s.modRun t b g).slot = s.slot := rfl
@[simp] theorem State.modRun_ev (t b : Nat) (g : BerthRun → BerthRun) : (s.modRun t b g).ev = s.ev := rfl
@[simp] theorem State.modRun_free (t b : Nat) (g : BerthRun → BerthRun) : (s.modRun t b g).free = s.free := rfl
@[simp] theorem State.modRun_next (t b : Nat) (g : BerthRun → BerthRun) : (s.modRun t b g).next = s.next := rfl

/-! ## `atFc` -/

@[simp] theorem State.atFc_cfg (n : Nat) (i : Instr) (e : EvArg) : (s.atFc n i e).cfg = s.cfg := rfl
@[simp] theorem State.atFc_tiles (n : Nat) (i : Instr) (e : EvArg) : (s.atFc n i e).tiles = s.tiles := rfl
@[simp] theorem State.atFc_coves (n : Nat) (i : Instr) (e : EvArg) : (s.atFc n i e).coves = s.coves := rfl
@[simp] theorem State.atFc_mem (n : Nat) (i : Instr) (e : EvArg) : (s.atFc n i e).mem = s.mem := rfl
@[simp] theorem State.atFc_net (n : Nat) (i : Instr) (e : EvArg) : (s.atFc n i e).net = s.net := rfl
@[simp] theorem State.atFc_hd (n : Nat) (i : Instr) (e : EvArg) : (s.atFc n i e).hd = s.hd := rfl
@[simp] theorem State.atFc_now (n : Nat) (i : Instr) (e : EvArg) : (s.atFc n i e).now = s.now := rfl
@[simp] theorem State.atFc_agenda (n : Nat) (i : Instr) (e : EvArg) : (s.atFc n i e).agenda = insertDue n i e s.agenda := rfl
@[simp] theorem State.atFc_inputs (n : Nat) (i : Instr) (e : EvArg) : (s.atFc n i e).inputs = s.inputs := rfl
@[simp] theorem State.atFc_tile (n : Nat) (i : Instr) (e : EvArg) : (s.atFc n i e).tile = s.tile := rfl
@[simp] theorem State.atFc_slot (n : Nat) (i : Instr) (e : EvArg) : (s.atFc n i e).slot = s.slot := rfl
@[simp] theorem State.atFc_ev (n : Nat) (i : Instr) (e : EvArg) : (s.atFc n i e).ev = s.ev := rfl
@[simp] theorem State.atFc_free (n : Nat) (i : Instr) (e : EvArg) : (s.atFc n i e).free = s.free := rfl
@[simp] theorem State.atFc_next (n : Nat) (i : Instr) (e : EvArg) : (s.atFc n i e).next = s.next := rfl

/-! ## `after` -/

@[simp] theorem State.after_cfg (d : Nat) (i : Instr) (e : EvArg) : (s.after d i e).cfg = s.cfg := rfl
@[simp] theorem State.after_tiles (d : Nat) (i : Instr) (e : EvArg) : (s.after d i e).tiles = s.tiles := rfl
@[simp] theorem State.after_coves (d : Nat) (i : Instr) (e : EvArg) : (s.after d i e).coves = s.coves := rfl
@[simp] theorem State.after_mem (d : Nat) (i : Instr) (e : EvArg) : (s.after d i e).mem = s.mem := rfl
@[simp] theorem State.after_net (d : Nat) (i : Instr) (e : EvArg) : (s.after d i e).net = s.net := rfl
@[simp] theorem State.after_hd (d : Nat) (i : Instr) (e : EvArg) : (s.after d i e).hd = s.hd := rfl
@[simp] theorem State.after_now (d : Nat) (i : Instr) (e : EvArg) : (s.after d i e).now = s.now := rfl
@[simp] theorem State.after_agenda (d : Nat) (i : Instr) (e : EvArg) :
    (s.after d i e).agenda = insertDue (s.now + d) i e s.agenda := rfl
@[simp] theorem State.after_inputs (d : Nat) (i : Instr) (e : EvArg) : (s.after d i e).inputs = s.inputs := rfl
@[simp] theorem State.after_tile (d : Nat) (i : Instr) (e : EvArg) : (s.after d i e).tile = s.tile := rfl
@[simp] theorem State.after_slot (d : Nat) (i : Instr) (e : EvArg) : (s.after d i e).slot = s.slot := rfl
@[simp] theorem State.after_ev (d : Nat) (i : Instr) (e : EvArg) : (s.after d i e).ev = s.ev := rfl
@[simp] theorem State.after_free (d : Nat) (i : Instr) (e : EvArg) : (s.after d i e).free = s.free := rfl
@[simp] theorem State.after_next (d : Nat) (i : Instr) (e : EvArg) : (s.after d i e).next = s.next := rfl

/-! ## `pmPut` -/

@[simp] theorem State.pmPut_cfg (a : Nat) (bs : List Byte) : (s.pmPut a bs).cfg = s.cfg := rfl
@[simp] theorem State.pmPut_tiles (a : Nat) (bs : List Byte) : (s.pmPut a bs).tiles = s.tiles := rfl
@[simp] theorem State.pmPut_coves (a : Nat) (bs : List Byte) : (s.pmPut a bs).coves = s.coves := rfl
@[simp] theorem State.pmPut_mem (a : Nat) (bs : List Byte) :
    (s.pmPut a bs).mem = { s.mem with pm := (enumFrom a bs).foldl (fun m e => m.set 0 e.1 e.2) s.mem.pm } := rfl
@[simp] theorem State.pmPut_net (a : Nat) (bs : List Byte) : (s.pmPut a bs).net = s.net := rfl
@[simp] theorem State.pmPut_hd (a : Nat) (bs : List Byte) : (s.pmPut a bs).hd = s.hd := rfl
@[simp] theorem State.pmPut_now (a : Nat) (bs : List Byte) : (s.pmPut a bs).now = s.now := rfl
@[simp] theorem State.pmPut_agenda (a : Nat) (bs : List Byte) : (s.pmPut a bs).agenda = s.agenda := rfl
@[simp] theorem State.pmPut_inputs (a : Nat) (bs : List Byte) : (s.pmPut a bs).inputs = s.inputs := rfl
@[simp] theorem State.pmPut_tile (a : Nat) (bs : List Byte) : (s.pmPut a bs).tile = s.tile := rfl
@[simp] theorem State.pmPut_slot (a : Nat) (bs : List Byte) : (s.pmPut a bs).slot = s.slot := rfl
@[simp] theorem State.pmPut_ev (a : Nat) (bs : List Byte) : (s.pmPut a bs).ev = s.ev := rfl
@[simp] theorem State.pmPut_free (a : Nat) (bs : List Byte) : (s.pmPut a bs).free = s.free := rfl
@[simp] theorem State.pmPut_next (a : Nat) (bs : List Byte) : (s.pmPut a bs).next = s.next := rfl

/-! ## `setSlice` -/

@[simp] theorem State.setSlice_cfg (n : Nat) (l : List L2Line) : (s.setSlice n l).cfg = s.cfg := rfl
@[simp] theorem State.setSlice_tiles (n : Nat) (l : List L2Line) : (s.setSlice n l).tiles = s.tiles := rfl
@[simp] theorem State.setSlice_coves (n : Nat) (l : List L2Line) : (s.setSlice n l).coves = s.coves := rfl
@[simp] theorem State.setSlice_mem (n : Nat) (l : List L2Line) :
    (s.setSlice n l).mem = { s.mem with l2 := s.mem.l2.set [] n l } := rfl
@[simp] theorem State.setSlice_net (n : Nat) (l : List L2Line) : (s.setSlice n l).net = s.net := rfl
@[simp] theorem State.setSlice_hd (n : Nat) (l : List L2Line) : (s.setSlice n l).hd = s.hd := rfl
@[simp] theorem State.setSlice_now (n : Nat) (l : List L2Line) : (s.setSlice n l).now = s.now := rfl
@[simp] theorem State.setSlice_agenda (n : Nat) (l : List L2Line) : (s.setSlice n l).agenda = s.agenda := rfl
@[simp] theorem State.setSlice_inputs (n : Nat) (l : List L2Line) : (s.setSlice n l).inputs = s.inputs := rfl
@[simp] theorem State.setSlice_tile (n : Nat) (l : List L2Line) : (s.setSlice n l).tile = s.tile := rfl
@[simp] theorem State.setSlice_slot (n : Nat) (l : List L2Line) : (s.setSlice n l).slot = s.slot := rfl
@[simp] theorem State.setSlice_ev (n : Nat) (l : List L2Line) : (s.setSlice n l).ev = s.ev := rfl
@[simp] theorem State.setSlice_free (n : Nat) (l : List L2Line) : (s.setSlice n l).free = s.free := rfl
@[simp] theorem State.setSlice_next (n : Nat) (l : List L2Line) : (s.setSlice n l).next = s.next := rfl

/-! ## `setDir` -/

@[simp] theorem State.setDir_cfg (n : Nat) (r : DirRec) : (s.setDir n r).cfg = s.cfg := rfl
@[simp] theorem State.setDir_tiles (n : Nat) (r : DirRec) : (s.setDir n r).tiles = s.tiles := rfl
@[simp] theorem State.setDir_coves (n : Nat) (r : DirRec) : (s.setDir n r).coves = s.coves := rfl
@[simp] theorem State.setDir_mem (n : Nat) (r : DirRec) : (s.setDir n r).mem = { s.mem with dir := s.mem.dir.set {} n r } := rfl
@[simp] theorem State.setDir_net (n : Nat) (r : DirRec) : (s.setDir n r).net = s.net := rfl
@[simp] theorem State.setDir_hd (n : Nat) (r : DirRec) : (s.setDir n r).hd = s.hd := rfl
@[simp] theorem State.setDir_now (n : Nat) (r : DirRec) : (s.setDir n r).now = s.now := rfl
@[simp] theorem State.setDir_agenda (n : Nat) (r : DirRec) : (s.setDir n r).agenda = s.agenda := rfl
@[simp] theorem State.setDir_inputs (n : Nat) (r : DirRec) : (s.setDir n r).inputs = s.inputs := rfl
@[simp] theorem State.setDir_tile (n : Nat) (r : DirRec) : (s.setDir n r).tile = s.tile := rfl
@[simp] theorem State.setDir_slot (n : Nat) (r : DirRec) : (s.setDir n r).slot = s.slot := rfl
@[simp] theorem State.setDir_ev (n : Nat) (r : DirRec) : (s.setDir n r).ev = s.ev := rfl
@[simp] theorem State.setDir_free (n : Nat) (r : DirRec) : (s.setDir n r).free = s.free := rfl
@[simp] theorem State.setDir_next (n : Nat) (r : DirRec) : (s.setDir n r).next = s.next := rfl

/-! ## `privStatus` -/

@[simp] theorem State.privStatus_cfg (c : PrivStatus) : (s.privStatus c).cfg = s.cfg := rfl
@[simp] theorem State.privStatus_tiles (c : PrivStatus) : (s.privStatus c).tiles = s.tiles := rfl
@[simp] theorem State.privStatus_coves (c : PrivStatus) : (s.privStatus c).coves = s.coves := rfl
@[simp] theorem State.privStatus_mem (c : PrivStatus) : (s.privStatus c).mem = s.mem := rfl
@[simp] theorem State.privStatus_net (c : PrivStatus) : (s.privStatus c).net = s.net := rfl
@[simp] theorem State.privStatus_hd (c : PrivStatus) :
    (s.privStatus c).hd = { s.hd with win := { s.hd.win with busy := false, status := c.code } } := rfl
@[simp] theorem State.privStatus_now (c : PrivStatus) : (s.privStatus c).now = s.now := rfl
@[simp] theorem State.privStatus_agenda (c : PrivStatus) : (s.privStatus c).agenda = s.agenda := rfl
@[simp] theorem State.privStatus_inputs (c : PrivStatus) : (s.privStatus c).inputs = s.inputs := rfl
@[simp] theorem State.privStatus_tile (c : PrivStatus) : (s.privStatus c).tile = s.tile := rfl
@[simp] theorem State.privStatus_slot (c : PrivStatus) : (s.privStatus c).slot = s.slot := rfl
@[simp] theorem State.privStatus_ev (c : PrivStatus) : (s.privStatus c).ev = s.ev := rfl
@[simp] theorem State.privStatus_free (c : PrivStatus) : (s.privStatus c).free = s.free := rfl
@[simp] theorem State.privStatus_next (c : PrivStatus) : (s.privStatus c).next = s.next := rfl

/-! ## Reading after an update -/

theorem State.tileAt_setTile (t u : Nat) (x : Tile) : (s.setTile t x).tileAt u = if u = t then x else s.tileAt u :=
  Map.get_set _ _ _ _ _

@[simp] theorem State.tileAt_setTile_same (t : Nat) (x : Tile) : (s.setTile t x).tileAt t = x := Map.get_set_same _ _ _ _

theorem State.tileAt_modTile (t u : Nat) (g : Tile → Tile) :
    (s.modTile t g).tileAt u = if u = t then g (s.tileAt t) else s.tileAt u :=
  Map.get_set _ _ _ _ _

@[simp] theorem State.tileAt_modTile_same (t : Nat) (g : Tile → Tile) : (s.modTile t g).tileAt t = g (s.tileAt t) :=
  Map.get_set_same _ _ _ _

theorem State.coveAt_modCove (c d : Nat) (g : Cove → Cove) :
    (s.modCove c g).coveAt d = if d = c then g (s.coveAt c) else s.coveAt d :=
  Map.get_set _ _ _ _ _

theorem State.vf_modVf (v w : Nat) (g : VfEnt → VfEnt) : (s.modVf v g).vf w = if w = v then g (s.vf v) else s.vf w :=
  Map.get_set _ _ _ _ _

theorem State.acct_modAcct (v w : Nat) (g : Acct → Acct) : (s.modAcct v g).acct w = if w = v then g (s.acct v) else s.acct w :=
  Map.get_set _ _ _ _ _

theorem State.part_modPart (p q : Nat) (g : PartEnt → PartEnt) : (s.modPart p g).part q = if q = p then g (s.part p) else s.part q :=
  Map.get_set _ _ _ _ _

theorem State.firing_setFiring (t k u l : Nat) (f : Firing) :
    (s.setFiring t k f).firing u l = if u = t ∧ l = k then some f else s.firing u l := by
  unfold State.setFiring State.firing
  rw [State.tileAt_modTile]
  by_cases h : u = t
  · subst h
    simp [Map.look_put]
  · simp [h]

@[simp] theorem State.firing_setFiring_same (t k : Nat) (f : Firing) : (s.setFiring t k f).firing t k = some f := by
  simp [State.firing_setFiring]

theorem State.pmByte_eq (a : Nat) : s.pmByte a = s.mem.pm.get 0 a := rfl

theorem State.dirOf_setDir (n l : Nat) (r : DirRec) : (s.setDir n r).dirOf l = if l = n then r else s.dirOf l :=
  Map.get_set _ _ _ _ _

theorem State.slice_setSlice (n m : Nat) (l : List L2Line) : (s.setSlice n l).slice m = if m = n then l else s.slice m :=
  Map.get_set _ _ _ _ _

/-! ## The agenda -/

/-- What is due after a step is put on the agenda. -/
theorem mem_insertDue (n : Nat) (i : Instr) (e : EvArg) (l : List (Nat × Instr × EvArg)) (x : Nat × Instr × EvArg) :
    x ∈ insertDue n i e l ↔ x = (n, i, e) ∨ x ∈ l := by
  induction l with
  | nil => simp [insertDue]
  | cons a r ih =>
    obtain ⟨m, j, d⟩ := a
    simp only [insertDue]
    split
    · simp only [List.mem_cons, ih]
      tauto
    · simp only [List.mem_cons]

theorem State.mem_after (d : Nat) (i : Instr) (e : EvArg) : (s.now + d, i, e) ∈ (s.after d i e).agenda := by
  simp [mem_insertDue]

theorem State.mem_after_of_mem {x : Nat × Instr × EvArg} (d : Nat) (i : Instr) (e : EvArg) (h : x ∈ s.agenda) :
    x ∈ (s.after d i e).agenda := by
  simp [mem_insertDue, h]

end Sys2Proof.Machine
end

