-- ==== Sys2Proof/Laws/Memory.lean ====
section
/-! SUPPORT. What the operations of the memories do: they change memories, meters and link marks only, and keep the canonical
form of physical memory. -/

namespace Sys2Proof.Machine

/-- Only the memories, the meters of shared units, the link marks and the windows of the governors differ, and physical memory keeps
its canonical form. -/
structure MemStep (s t : State) : Prop where
  cfg : t.cfg = s.cfg
  tiles : t.tiles = s.tiles
  coves : t.coves = s.coves
  net : t.net = s.net
  now : t.now = s.now
  agenda : t.agenda = s.agenda
  inputs : t.inputs = s.inputs
  tile : t.tile = s.tile
  slot : t.slot = s.slot
  ev : t.ev = s.ev
  free : t.free = s.free
  next : t.next = s.next
  hd : { t.hd with umeter := [], linkUsed := [], gov := [] } = { s.hd with umeter := [], linkUsed := [], gov := [] }
  ok : s.memOk → t.memOk

theorem MemStep.refl (s : State) : MemStep s s := ⟨rfl, rfl, rfl, rfl, rfl, rfl, rfl, rfl, rfl, rfl, rfl, rfl, rfl, id⟩

theorem MemStep.trans {s t u : State} (h : MemStep s t) (k : MemStep t u) : MemStep s u :=
  ⟨k.cfg.trans h.cfg, k.tiles.trans h.tiles, k.coves.trans h.coves, k.net.trans h.net, k.now.trans h.now, k.agenda.trans h.agenda,
    k.inputs.trans h.inputs, k.tile.trans h.tile, k.slot.trans h.slot, k.ev.trans h.ev, k.free.trans h.free, k.next.trans h.next,
    k.hd.trans h.hd, fun x => k.ok (h.ok x)⟩

/-- A change of the memories that leaves physical memory alone. -/
theorem MemStep.ofMem (s : State) (m : Mem) (h : m.pm = s.mem.pm) : MemStep s { s with mem := m } :=
  ⟨rfl, rfl, rfl, rfl, rfl, rfl, rfl, rfl, rfl, rfl, rfl, rfl, rfl, fun x => by
    simpa [State.memOk, Memory.wf, h] using x⟩

/-- A change of the harbour's meters, link marks and governors. -/
theorem MemStep.ofHd (s : State) (h : Harbour)
    (e : { h with umeter := [], linkUsed := [], gov := [] } = { s.hd with umeter := [], linkUsed := [], gov := [] }) :
    MemStep s { s with hd := h } :=
  ⟨rfl, rfl, rfl, rfl, rfl, rfl, rfl, rfl, rfl, rfl, rfl, rfl, e, id⟩

/-! ## Charges and links -/

theorem State.chargeUnit_step (s : State) (u d cx c n : Nat) : MemStep s (s.chargeUnit u d cx c n) := by
  unfold State.chargeUnit
  dsimp only
  split
  · exact MemStep.refl s
  · split
    · split <;> exact MemStep.ofHd s _ rfl
    · split <;> exact MemStep.ofHd s _ rfl

theorem State.markLink_step (s : State) (l c : Nat) : MemStep s (s.markLink l c) := by
  unfold State.markLink
  split
  · exact MemStep.ofHd s _ rfl
  · exact MemStep.refl s

theorem State.markRoute_step (s : State) (a b c : Nat) : MemStep s (s.markRoute a b c) := by
  unfold State.markRoute
  generalize dieRoute a b ++ dieRoute b a = l
  induction l generalizing s with
  | nil => exact MemStep.refl s
  | cons x r ih => exact (State.markLink_step s x c).trans (ih _)

/-! ## Physical memory -/

theorem State.pmPut_step (s : State) (a : Nat) (bs : List Byte) : MemStep s (s.pmPut a bs) :=
  ⟨rfl, rfl, rfl, rfl, rfl, rfl, rfl, rfl, rfl, rfl, rfl, rfl, rfl, fun h =>
    Map.wf_foldl_set (fun e : Nat × Byte => e.1) (fun _ e => e.2) (enumFrom a bs) h⟩

theorem State.sectorWrite_step (s : State) (n k : Nat) (bs : List Byte) : MemStep s (s.sectorWrite n k bs) :=
  (State.pmPut_step s _ bs).trans (MemStep.ofMem _ _ rfl)

theorem State.setTag_step (s : State) (l t : Nat) : MemStep s (s.setTag l t) := by
  unfold State.setTag
  split
  · exact State.pmPut_step s _ _
  · exact MemStep.refl s

theorem State.tierRead_step (s : State) (l k cx : Nat) : MemStep s (s.tierRead l k cx).2 := by
  unfold State.tierRead
  dsimp only
  split
  · exact (State.chargeUnit_step s _ _ _ _ _).trans (State.chargeUnit_step _ _ _ _ _ _)
  · exact State.chargeUnit_step s _ _ _ _ _

/-- A fold of steps is a step. -/
theorem MemStep.foldl {β : Type} (g : State → β → State) (h : ∀ s e, MemStep s (g s e)) (l : List β) (s : State) :
    MemStep s (l.foldl g s) := by
  induction l generalizing s with
  | nil => exact MemStep.refl s
  | cons e r ih => exact (h s e).trans (ih _)

theorem State.tierWrite_step (s : State) (l : Nat) (d : LineBits) (k : Nat) (c : Bool) (cx : Nat) :
    MemStep s (s.tierWrite l d k c cx) := by
  have h (t : Nat) : MemStep s ((((List.range (tagSectors t)).foldl (fun (a : State) i =>
      a.sectorWrite (l * 4 + i) k (((bytesOfLine (encodeLine t d)).drop (32 * i)).take 32)) s).setTag l t).chargeUnit
        (channelUnit (l * 128)) (unitDie (channelUnit (l * 128))) cx (sectorClass l) (tagSectors t)) :=
    ((MemStep.foldl _ (fun a i => State.sectorWrite_step a _ _ _) _ s).trans (State.setTag_step _ _ _)).trans
      (State.chargeUnit_step _ _ _ _ _ _)
  unfold State.tierWrite
  dsimp only
  split
  · exact (h _).trans (State.chargeUnit_step _ _ _ _ _ _)
  · exact h _

theorem State.backRead_step (s : State) (l k cx : Nat) : MemStep s (s.backRead l k cx).2 := by
  unfold State.backRead
  split
  · exact State.tierRead_step s _ _ _
  · exact State.tierRead_step s _ _ _
  · exact (State.chargeUnit_step s _ _ _ _ _).trans (State.markLink_step _ _ _)
  · exact MemStep.refl s

theorem State.backWrite_step (s : State) (l : Nat) (d : LineBits) (k : Nat) (c : Bool) (cx : Nat) :
    MemStep s (s.backWrite l d k c cx) := by
  unfold State.backWrite
  split
  · exact State.tierWrite_step s _ _ _ _ _
  · exact State.tierWrite_step s _ _ _ _ _
  · exact ((State.pmPut_step s _ _).trans (State.chargeUnit_step _ _ _ _ _ _)).trans (State.markLink_step _ _ _)
  · exact State.pmPut_step s _ _

theorem State.sliceRead_step (s : State) (sl l k cx : Nat) : MemStep s (s.sliceRead sl l k cx).2 :=
  (State.markRoute_step s _ _ _).trans (State.backRead_step _ _ _ _)

theorem State.sliceWrite_step (s : State) (sl l : Nat) (d : LineBits) (k : Nat) (c : Bool) (cx : Nat) :
    MemStep s (s.sliceWrite sl l d k c cx) :=
  (State.markRoute_step s _ _ _).trans (State.backWrite_step _ _ _ _ _ _)

/-! ## L2 and the directory -/

theorem State.setSlice_step (s : State) (n : Nat) (l : List L2Line) : MemStep s (s.setSlice n l) := MemStep.ofMem s _ rfl

theorem State.setDir_step (s : State) (n : Nat) (r : DirRec) : MemStep s (s.setDir n r) := MemStep.ofMem s _ rfl

theorem State.setOcc_step (s : State) (sl c n : Nat) : MemStep s (s.setOcc sl c n) := MemStep.ofMem s _ rfl

theorem State.raiseMxr_step (s : State) (sl t : Nat) : MemStep s (s.raiseMxr sl t) := MemStep.ofMem s _ rfl

theorem State.setCwts_step (s : State) (pa n : Nat) : MemStep s (s.setCwts pa n) := MemStep.ofMem s _ rfl

theorem State.l2Touch_step (s : State) (sl l : Nat) : MemStep s (s.l2Touch sl l) :=
  (State.setSlice_step s sl _).trans (MemStep.ofMem _ _ rfl)

theorem State.l2Drop_step (s : State) (sl l : Nat) (b : Bool) : MemStep s (s.l2Drop sl l b) := by
  unfold State.l2Drop
  split
  · exact MemStep.refl s
  · next e _ =>
    have h : MemStep s (if b && e.dirty then s.sliceWrite sl l e.data e.key e.cmp e.ctx else s) := by
      split
      · exact State.sliceWrite_step s _ _ _ _ _ _
      · exact MemStep.refl s
    exact (((h.trans (State.setSlice_step _ _ _)).trans (State.raiseMxr_step _ _ _)).trans
      (State.setOcc_step _ _ _ _)).trans (State.setDir_step _ _ _)

/-- A fill that brings the line, or serves it without a place, steps the memories. -/
theorem State.fill_step (s t : State) (x : Xl) (c : Nat) (h : s.fill x c = .here t ∨ s.fill x c = .bare t) : MemStep s t := by
  have put (u : State) (w : Nat) : MemStep u
      (let (d, s1) := u.sliceRead x.slice (x.pa / 128) x.key c
       let t := s1.mem.mxr.get 0 x.slice
       let n := s1.mem.use + 1
       let e : L2Line := { line := x.pa / 128, way := w, data := d, ctx := c, key := x.key, cmp := x.cmp, lru := n }
       let s2 := s1.setSlice x.slice (s1.slice x.slice ++ [e])
       let s3 := { s2 with mem := { s2.mem with use := n } }
       let s4 := s3.setOcc x.slice c (s3.occ x.slice c + 1)
       let r := s4.dirOf (sliceKey x.slice (x.pa / 128))
       s4.setDir (sliceKey x.slice (x.pa / 128)) (if r.pend then r else { wts := t, rts := t })) := by
    have h1 := State.sliceRead_step u x.slice (x.pa / 128) x.key c
    generalize u.sliceRead x.slice (x.pa / 128) x.key c = r at h1
    obtain ⟨d, s1⟩ := r
    dsimp only at h1 ⊢
    exact h1.trans ⟨rfl, rfl, rfl, rfl, rfl, rfl, rfl, rfl, rfl, rfl, rfl, rfl, rfl, fun x => x⟩
  unfold State.fill at h
  dsimp only at h
  split at h
  · simp only [FillRes.here.injEq, reduceCtorEq, or_false] at h
    exact h ▸ MemStep.refl s
  · split at h
    · simp only [FillRes.here.injEq, reduceCtorEq, or_false] at h
      exact h ▸ State.l2Touch_step s _ _
    · split at h
      · simp only [FillRes.here.injEq, reduceCtorEq, or_false] at h
        exact h ▸ put s _
      · simp only [FillRes.here.injEq, reduceCtorEq, or_false] at h
        exact h ▸ (State.l2Drop_step s _ _ _).trans (put _ _)
      · simp only [FillRes.bare.injEq, reduceCtorEq, false_or] at h
        exact h ▸ MemStep.refl s
      · simp at h

theorem State.homeData_step (s : State) (x : Xl) (c : Nat) : MemStep s (s.homeData x c).2 := by
  unfold State.homeData
  dsimp only
  split
  · exact MemStep.refl s
  · split
    · exact State.backRead_step s _ _ _
    · split
      · exact MemStep.refl s
      · exact State.sliceRead_step s _ _ _ _

theorem State.rmwRead_step (s : State) (x : Xl) (m : BitVec 128) (c : Nat) : MemStep s (s.rmwRead x m c).2 := by
  unfold State.rmwRead
  by_cases h : regionOf x.pa = .host
  · rw [if_pos h]
    by_cases k : wholeSectors m = true
    · rw [if_pos k]
      exact MemStep.refl s
    · rw [if_neg k]
      exact State.markLink_step s _ _
  · rw [if_neg h]
    by_cases k : m = BitVec.allOnes 128
    · rw [if_pos k]
      exact MemStep.refl s
    · rw [if_neg k]
      exact State.homeData_step s x c

theorem State.homeWrite_step (s : State) (x : Xl) (d : LineBits) (c : Nat) : MemStep s (s.homeWrite x d c) := by
  unfold State.homeWrite
  dsimp only
  split
  · exact State.pmPut_step s _ _
  · split
    · exact State.backWrite_step s _ _ _ _ _
    · split
      · exact State.setSlice_step s _ _
      · exact State.sliceWrite_step s _ _ _ _ _ _

theorem State.setHomeDir_step (s : State) (x : Xl) (d : DirRec) : MemStep s (s.setHomeDir x d) := by
  unfold State.setHomeDir
  split
  · exact State.setDir_step s _ _
  · split
    · exact State.setDir_step s _ _
    · split
      · exact State.setDir_step s _ _
      · exact (State.setDir_step s _ _).trans (State.raiseMxr_step _ _ _)

theorem State.chargeHome_step (s : State) (x : Xl) (c k : Nat) : MemStep s (s.chargeHome x c k) := by
  unfold State.chargeHome
  split
  · exact State.chargeUnit_step s _ _ _ _ _
  · exact MemStep.refl s

/-! ## Operations of a home -/

/-- A load at a home that is answered steps the memories. -/
theorem State.homeLoad_step {s t : State} {x : Xl} {c pts : Nat} {lease copy : Option Nat} {d : LineBits} {ts w r : Nat}
    (h : s.homeLoad x c pts lease copy = .done t d ts w r) : MemStep s t := by
  have go (u : State) (m : Nat) (h : (let r := u.homeDir x
      if r.pend && decide (r.wts ≤ pts) then HomeRes.pend r.tile r.slot
      else
        let (d, s1) := u.homeData x c
        let s2 := s1.chargeHome x c (if copy = some (if r.pend then r.base else r.wts) then 49 else 48)
        if r.pend then .done s2 d (Nat.max pts r.base) r.base (r.wts - 1)
        else
          .done (s2.setHomeDir x { r with rts := Nat.max r.rts m }) d (Nat.max pts r.wts) r.wts (Nat.max r.rts m)) = .done t d ts w r) : MemStep u t := by
    have h1 := State.homeData_step u x c
    dsimp only at h
    generalize u.homeData x c = q at h h1
    obtain ⟨d1, s1⟩ := q
    split at h
    · cases h
    · dsimp only at h
      split at h
      · cases h
        exact h1.trans (State.chargeHome_step _ _ _ _)
      · cases h
        exact (h1.trans (State.chargeHome_step _ _ _ _)).trans (State.setHomeDir_step _ _ _)
  unfold State.homeLoad at h
  split at h
  · have h1 := State.homeData_step s x c
    dsimp only at h
    generalize s.homeData x c = q at h h1
    obtain ⟨d1, s1⟩ := q
    cases h
    exact h1.trans (State.setCwts_step _ _ _)
  · dsimp only at h
    split at h
    · next s1 hf => exact (State.fill_step s s1 x c (Or.inl hf)).trans (go s1 _ h)
    · next s1 hf => exact (State.fill_step s s1 x c (Or.inr hf)).trans (go s1 _ h)
    · cases h

/-- A reservation at a home that is answered steps the memories. -/
theorem State.homeReserve_step {s t : State} {x : Xl} {c pts tile slot : Nat} {d : LineBits} {ts w r : Nat}
    (h : s.homeReserve x c pts tile slot = .done t d ts w r) : MemStep s t := by
  unfold State.homeReserve at h
  split at h
  · cases h
    exact State.setCwts_step s _ _
  · dsimp only at h
    split at h
    · next s1 hf =>
      split at h
      · cases h
      · cases h
        exact ((State.fill_step s s1 x c (Or.inl hf)).trans (State.chargeHome_step _ _ _ _)).trans (State.setHomeDir_step _ _ _)
    · next s1 hf =>
      split at h
      · cases h
      · cases h
        exact ((State.fill_step s s1 x c (Or.inr hf)).trans (State.chargeHome_step _ _ _ _)).trans (State.setHomeDir_step _ _ _)
    · cases h

/-- An update at a home that is answered steps the memories. -/
theorem State.homeUpdate_step {s t : State} {x : Xl} {c pts : Nat} {f : LineBits → LineBits} {m : BitVec 128} {d : LineBits}
    {ts w r : Nat} (h : s.homeUpdate x c pts f m = .done t d ts w r) : MemStep s t := by
  have go (u : State) (h : (let r := u.homeDir x
      if r.pend then HomeRes.pend r.tile r.slot
      else
        let w := Nat.max pts (r.rts + 1)
        let (d, s1) := u.homeData x c
        let s2 := (s1.chargeHome x c 48).homeWrite x (f d) c
        .done (s2.setHomeDir x { r with wts := w, rts := w }) d w w w) = .done t d ts w r) : MemStep u t := by
    have h1 := State.homeData_step u x c
    dsimp only at h
    generalize u.homeData x c = q at h h1
    obtain ⟨d1, s1⟩ := q
    split at h
    · cases h
    · cases h
      exact ((h1.trans (State.chargeHome_step _ _ _ _)).trans (State.homeWrite_step _ _ _ _)).trans (State.setHomeDir_step _ _ _)
  unfold State.homeUpdate at h
  split at h
  · dsimp only at h
    have h1 := State.rmwRead_step s x m c
    generalize s.rmwRead x m c = q at h h1
    obtain ⟨d1, s1⟩ := q
    cases h
    exact (h1.trans (State.homeWrite_step _ _ _ _)).trans (State.setCwts_step _ _ _)
  · dsimp only at h
    split at h
    · next s1 hf => exact (State.fill_step s s1 x c (Or.inl hf)).trans (go s1 h)
    · next s1 hf => exact (State.fill_step s s1 x c (Or.inr hf)).trans (go s1 h)
    · cases h

theorem State.homeRelease_step (s : State) (e : BermEnt) (c : Nat) (b : Bool) : MemStep s (s.homeRelease e c b) := by
  have go (u : State) (h : MemStep s u) : MemStep s (if e.home = 3 then u
      else u.setHomeDir e.xl { u.homeDir e.xl with pend := false, tile := 0, slot := 0, base := 0 }) := by
    split
    · exact h
    · exact h.trans (State.setHomeDir_step _ _ _)
  refine go _ ?_
  split
  · have h1 : MemStep s (if e.home = 3 then s.rmwRead e.xl e.mask c
        else if e.mask = BitVec.allOnes 128 then ((0 : LineBits), s) else s.homeData e.xl c).2 := by
      split
      · exact State.rmwRead_step s _ _ c
      · split
        · exact MemStep.refl s
        · exact State.homeData_step s _ c
    generalize (if e.home = 3 then s.rmwRead e.xl e.mask c
      else if e.mask = BitVec.allOnes 128 then ((0 : LineBits), s) else s.homeData e.xl c) = q at h1 ⊢
    exact h1.trans (State.homeWrite_step _ _ _ _)
  · exact MemStep.refl s

/-! ## Pinned accesses -/

theorem State.pinWrite_step (n : Nat) (s : State) (c cts pa : Nat) (bs : List Byte) :
    MemStep s (State.pinWrite n s c cts pa bs).1 := by
  induction n generalizing s pa bs with
  | zero => exact MemStep.refl s
  | succ n ih =>
    unfold State.pinWrite
    split
    · exact MemStep.refl s
    · dsimp only
      split
      · next t d w q r hu => exact (State.homeUpdate_step hu).trans (ih _ _ _)
      · have h1 := State.homeData_step s (pinnedXl pa) c
        generalize s.homeData (pinnedXl pa) c = q at h1
        obtain ⟨d1, s1⟩ := q
        exact (h1.trans (State.homeWrite_step _ _ _ _)).trans (ih _ _ _)

theorem State.pinRead_step (n : Nat) (s : State) (c pts pa k : Nat) : MemStep s (State.pinRead n s c pts pa k).2 := by
  induction n generalizing s pa k with
  | zero => exact MemStep.refl s
  | succ n ih =>
    unfold State.pinRead
    split
    · exact MemStep.refl s
    · dsimp only
      split
      · next t d ts w r hu => exact (State.homeLoad_step hu).trans (ih _ _ _)
      · exact (State.homeData_step s (pinnedXl pa) c).trans (ih _ _ _)

/-! ## Physical memory changed in other ways -/

/-- Pools that are zero-filled keep the canonical form. -/
theorem State.zeroPools_memOk (s : State) (l : List Nat) (h : s.memOk) : (s.zeroPools l).memOk := Map.wf_filter h _

theorem State.slotMap_wf (f : Nat → Nat) (m : Map Byte) (pa : Nat) (h : Map.wf 0 m = true) : Map.wf 0 (slotMap f m pa) = true :=
  Map.wf_foldl_set (fun i : Nat => pa + 8 + i) (fun _ i => BitVec.ofNat 8 (f (slotCts m pa) / 256 ^ i)) (List.range 6) h

/-- The rebase keeps the canonical form. -/
theorem State.rebase_memOk (s : State) (h : s.memOk) : s.rebase.memOk := by
  have key (l : List (Nat × Bool)) (m : Map Byte) (hm : Map.wf 0 m = true) :
      Map.wf 0 (l.foldl (fun a e => slotMap (fun t => t - 2 ^ 45) a e.1) m) = true := by
    induction l generalizing m with
    | nil => exact hm
    | cons e r ih => exact ih _ (State.slotMap_wf _ _ _ hm)
  exact key s.mem.slots s.mem.pm h

theorem State.memOk_congr {s t : State} (h : t.mem = s.mem) (k : s.memOk) : t.memOk := by
  simpa [State.memOk, h] using k

theorem State.reset_memOk : State.reset.memOk := rfl

end Sys2Proof.Machine
end

