-- ==== Sys2Proof/Laws/PerInstr.lean ====
section
/-! SUPPORT. Statements about every instruction as syntax, one lemma a constructor. -/

namespace Sys2Proof.Laws

theorem num_lt (o : Opnd) : o.num < 128 := by
  cases o <;> simp only [Opnd.num] <;> omega

/-- R58: an encoded instruction is one halfword with bit 15 clear, or two with the first one's bit 15 set; a step that no program
encodes has no word. -/
def EncodedSize.Statement (i : Instr) : Prop :=
  ∀ n w : Nat, encodeWord i = some (n, w) → (n = 32 ∧ 2 ^ 31 ≤ w ∧ w < 2 ^ 32) ∨ (n = 16 ∧ w < 2 ^ 15)

theorem EncodedSize.br (p : BitVec 3) (n : BitVec 1) (o : BitVec 19) : EncodedSize.Statement (Instr.br p n o) := by
  intro n w h; cases h
  have := p.isLt
  have := n.isLt
  have := o.isLt
  refine Or.inl ⟨rfl, ?_, ?_⟩ <;> unfold encBr <;> omega

theorem EncodedSize.loop (c : Opnd) (l : BitVec 16) : EncodedSize.Statement (Instr.loop c l) := by
  intro n w h; cases h
  have := num_lt c
  have := l.isLt
  refine Or.inl ⟨rfl, ?_, ?_⟩ <;> unfold encLoop <;> omega

theorem EncodedSize.loopi (n : BitVec 11) (l : BitVec 12) : EncodedSize.Statement (Instr.loopi n l) := by
  intro n w h; cases h
  have := n.isLt
  have := l.isLt
  refine Or.inl ⟨rfl, ?_, ?_⟩ <;> unfold encLoopi <;> omega

theorem EncodedSize.switch (a : Opnd) (b : Opnd) : EncodedSize.Statement (Instr.switch a b) := by
  intro n w h; cases h
  have := num_lt a
  have := num_lt b
  refine Or.inl ⟨rfl, ?_, ?_⟩ <;> unfold encSwitch <;> omega

theorem EncodedSize.pcmpEq (p : BitVec 3) (a : Opnd) (b : Opnd) : EncodedSize.Statement (Instr.pcmpEq p a b) := by
  intro n w h; cases h
  have := p.isLt
  have := num_lt a
  have := num_lt b
  refine Or.inl ⟨rfl, ?_, ?_⟩ <;> unfold encPcmpEq <;> omega

theorem EncodedSize.pcmpNe (p : BitVec 3) (a : Opnd) (b : Opnd) : EncodedSize.Statement (Instr.pcmpNe p a b) := by
  intro n w h; cases h
  have := p.isLt
  have := num_lt a
  have := num_lt b
  refine Or.inl ⟨rfl, ?_, ?_⟩ <;> unfold encPcmpNe <;> omega

theorem EncodedSize.pcmpLt (p : BitVec 3) (a : Opnd) (b : Opnd) : EncodedSize.Statement (Instr.pcmpLt p a b) := by
  intro n w h; cases h
  have := p.isLt
  have := num_lt a
  have := num_lt b
  refine Or.inl ⟨rfl, ?_, ?_⟩ <;> unfold encPcmpLt <;> omega

theorem EncodedSize.pcmpLtu (p : BitVec 3) (a : Opnd) (b : Opnd) : EncodedSize.Statement (Instr.pcmpLtu p a b) := by
  intro n w h; cases h
  have := p.isLt
  have := num_lt a
  have := num_lt b
  refine Or.inl ⟨rfl, ?_, ?_⟩ <;> unfold encPcmpLtu <;> omega

theorem EncodedSize.pfcmpEq (p : BitVec 3) (a : Opnd) (b : Opnd) : EncodedSize.Statement (Instr.pfcmpEq p a b) := by
  intro n w h; cases h
  have := p.isLt
  have := num_lt a
  have := num_lt b
  refine Or.inl ⟨rfl, ?_, ?_⟩ <;> unfold encPfcmpEq <;> omega

theorem EncodedSize.pfcmpLt (p : BitVec 3) (a : Opnd) (b : Opnd) : EncodedSize.Statement (Instr.pfcmpLt p a b) := by
  intro n w h; cases h
  have := p.isLt
  have := num_lt a
  have := num_lt b
  refine Or.inl ⟨rfl, ?_, ?_⟩ <;> unfold encPfcmpLt <;> omega

theorem EncodedSize.pfcmpLe (p : BitVec 3) (a : Opnd) (b : Opnd) : EncodedSize.Statement (Instr.pfcmpLe p a b) := by
  intro n w h; cases h
  have := p.isLt
  have := num_lt a
  have := num_lt b
  refine Or.inl ⟨rfl, ?_, ?_⟩ <;> unfold encPfcmpLe <;> omega

theorem EncodedSize.pfcmpUn (p : BitVec 3) (a : Opnd) (b : Opnd) : EncodedSize.Statement (Instr.pfcmpUn p a b) := by
  intro n w h; cases h
  have := p.isLt
  have := num_lt a
  have := num_lt b
  refine Or.inl ⟨rfl, ?_, ?_⟩ <;> unfold encPfcmpUn <;> omega

theorem EncodedSize.plog (d : BitVec 3) (a : BitVec 3) (b : BitVec 3) (t : BitVec 4) : EncodedSize.Statement (Instr.plog d a b t) := by
  intro n w h; cases h
  have := d.isLt
  have := a.isLt
  have := b.isLt
  have := t.isLt
  refine Or.inl ⟨rfl, ?_, ?_⟩ <;> unfold encPlog <;> omega

theorem EncodedSize.mcmpEq (d : BitVec 2) (a : Opnd) (b : Opnd) (q : BitVec 2) : EncodedSize.Statement (Instr.mcmpEq d a b q) := by
  intro n w h; cases h
  have := d.isLt
  have := num_lt a
  have := num_lt b
  have := q.isLt
  refine Or.inl ⟨rfl, ?_, ?_⟩ <;> unfold encMcmpEq <;> omega

theorem EncodedSize.mcmpNe (d : BitVec 2) (a : Opnd) (b : Opnd) (q : BitVec 2) : EncodedSize.Statement (Instr.mcmpNe d a b q) := by
  intro n w h; cases h
  have := d.isLt
  have := num_lt a
  have := num_lt b
  have := q.isLt
  refine Or.inl ⟨rfl, ?_, ?_⟩ <;> unfold encMcmpNe <;> omega

theorem EncodedSize.mcmpLt (d : BitVec 2) (a : Opnd) (b : Opnd) (q : BitVec 2) : EncodedSize.Statement (Instr.mcmpLt d a b q) := by
  intro n w h; cases h
  have := d.isLt
  have := num_lt a
  have := num_lt b
  have := q.isLt
  refine Or.inl ⟨rfl, ?_, ?_⟩ <;> unfold encMcmpLt <;> omega

theorem EncodedSize.mcmpLtu (d : BitVec 2) (a : Opnd) (b : Opnd) (q : BitVec 2) : EncodedSize.Statement (Instr.mcmpLtu d a b q) := by
  intro n w h; cases h
  have := d.isLt
  have := num_lt a
  have := num_lt b
  have := q.isLt
  refine Or.inl ⟨rfl, ?_, ?_⟩ <;> unfold encMcmpLtu <;> omega

theorem EncodedSize.mfcmpEq (d : BitVec 2) (a : Opnd) (b : Opnd) (q : BitVec 2) : EncodedSize.Statement (Instr.mfcmpEq d a b q) := by
  intro n w h; cases h
  have := d.isLt
  have := num_lt a
  have := num_lt b
  have := q.isLt
  refine Or.inl ⟨rfl, ?_, ?_⟩ <;> unfold encMfcmpEq <;> omega

theorem EncodedSize.mfcmpLt (d : BitVec 2) (a : Opnd) (b : Opnd) (q : BitVec 2) : EncodedSize.Statement (Instr.mfcmpLt d a b q) := by
  intro n w h; cases h
  have := d.isLt
  have := num_lt a
  have := num_lt b
  have := q.isLt
  refine Or.inl ⟨rfl, ?_, ?_⟩ <;> unfold encMfcmpLt <;> omega

theorem EncodedSize.mfcmpLe (d : BitVec 2) (a : Opnd) (b : Opnd) (q : BitVec 2) : EncodedSize.Statement (Instr.mfcmpLe d a b q) := by
  intro n w h; cases h
  have := d.isLt
  have := num_lt a
  have := num_lt b
  have := q.isLt
  refine Or.inl ⟨rfl, ?_, ?_⟩ <;> unfold encMfcmpLe <;> omega

theorem EncodedSize.mfcmpUn (d : BitVec 2) (a : Opnd) (b : Opnd) (q : BitVec 2) : EncodedSize.Statement (Instr.mfcmpUn d a b q) := by
  intro n w h; cases h
  have := d.isLt
  have := num_lt a
  have := num_lt b
  have := q.isLt
  refine Or.inl ⟨rfl, ?_, ?_⟩ <;> unfold encMfcmpUn <;> omega

theorem EncodedSize.mlog (d : BitVec 2) (a : BitVec 2) (b : BitVec 2) (t : BitVec 4) : EncodedSize.Statement (Instr.mlog d a b t) := by
  intro n w h; cases h
  have := d.isLt
  have := a.isLt
  have := b.isLt
  have := t.isLt
  refine Or.inl ⟨rfl, ?_, ?_⟩ <;> unfold encMlog <;> omega

theorem EncodedSize.mpop (d : Opnd) (q : BitVec 2) : EncodedSize.Statement (Instr.mpop d q) := by
  intro n w h; cases h
  have := num_lt d
  have := q.isLt
  refine Or.inl ⟨rfl, ?_, ?_⟩ <;> unfold encMpop <;> omega

theorem EncodedSize.mfirst (d : Opnd) (q : BitVec 2) : EncodedSize.Statement (Instr.mfirst d q) := by
  intro n w h; cases h
  have := num_lt d
  have := q.isLt
  refine Or.inl ⟨rfl, ?_, ?_⟩ <;> unfold encMfirst <;> omega

theorem EncodedSize.add (d : Opnd) (a : Opnd) (b : Opnd) : EncodedSize.Statement (Instr.add d a b) := by
  intro n w h; cases h
  have := num_lt d
  have := num_lt a
  have := num_lt b
  refine Or.inl ⟨rfl, ?_, ?_⟩ <;> unfold encAdd <;> omega

theorem EncodedSize.sub (d : Opnd) (a : Opnd) (b : Opnd) : EncodedSize.Statement (Instr.sub d a b) := by
  intro n w h; cases h
  have := num_lt d
  have := num_lt a
  have := num_lt b
  refine Or.inl ⟨rfl, ?_, ?_⟩ <;> unfold encSub <;> omega

theorem EncodedSize.addi (d : Opnd) (a : Opnd) (i : BitVec 9) : EncodedSize.Statement (Instr.addi d a i) := by
  intro n w h; cases h
  have := num_lt d
  have := num_lt a
  have := i.isLt
  refine Or.inl ⟨rfl, ?_, ?_⟩ <;> unfold encAddi <;> omega

theorem EncodedSize.mul (d : Opnd) (a : Opnd) (b : Opnd) : EncodedSize.Statement (Instr.mul d a b) := by
  intro n w h; cases h
  have := num_lt d
  have := num_lt a
  have := num_lt b
  refine Or.inl ⟨rfl, ?_, ?_⟩ <;> unfold encMul <;> omega

theorem EncodedSize.mulh (d : Opnd) (a : Opnd) (b : Opnd) : EncodedSize.Statement (Instr.mulh d a b) := by
  intro n w h; cases h
  have := num_lt d
  have := num_lt a
  have := num_lt b
  refine Or.inl ⟨rfl, ?_, ?_⟩ <;> unfold encMulh <;> omega

theorem EncodedSize.mulhu (d : Opnd) (a : Opnd) (b : Opnd) : EncodedSize.Statement (Instr.mulhu d a b) := by
  intro n w h; cases h
  have := num_lt d
  have := num_lt a
  have := num_lt b
  refine Or.inl ⟨rfl, ?_, ?_⟩ <;> unfold encMulhu <;> omega

theorem EncodedSize.div (d : Opnd) (a : Opnd) (b : Opnd) : EncodedSize.Statement (Instr.div d a b) := by
  intro n w h; cases h
  have := num_lt d
  have := num_lt a
  have := num_lt b
  refine Or.inl ⟨rfl, ?_, ?_⟩ <;> unfold encDiv <;> omega

theorem EncodedSize.divu (d : Opnd) (a : Opnd) (b : Opnd) : EncodedSize.Statement (Instr.divu d a b) := by
  intro n w h; cases h
  have := num_lt d
  have := num_lt a
  have := num_lt b
  refine Or.inl ⟨rfl, ?_, ?_⟩ <;> unfold encDivu <;> omega

theorem EncodedSize.rem (d : Opnd) (a : Opnd) (b : Opnd) : EncodedSize.Statement (Instr.rem d a b) := by
  intro n w h; cases h
  have := num_lt d
  have := num_lt a
  have := num_lt b
  refine Or.inl ⟨rfl, ?_, ?_⟩ <;> unfold encRem <;> omega

theorem EncodedSize.remu (d : Opnd) (a : Opnd) (b : Opnd) : EncodedSize.Statement (Instr.remu d a b) := by
  intro n w h; cases h
  have := num_lt d
  have := num_lt a
  have := num_lt b
  refine Or.inl ⟨rfl, ?_, ?_⟩ <;> unfold encRemu <;> omega

theorem EncodedSize.and (d : Opnd) (a : Opnd) (b : Opnd) : EncodedSize.Statement (Instr.and d a b) := by
  intro n w h; cases h
  have := num_lt d
  have := num_lt a
  have := num_lt b
  refine Or.inl ⟨rfl, ?_, ?_⟩ <;> unfold encAnd <;> omega

theorem EncodedSize.or (d : Opnd) (a : Opnd) (b : Opnd) : EncodedSize.Statement (Instr.or d a b) := by
  intro n w h; cases h
  have := num_lt d
  have := num_lt a
  have := num_lt b
  refine Or.inl ⟨rfl, ?_, ?_⟩ <;> unfold encOr <;> omega

theorem EncodedSize.xor (d : Opnd) (a : Opnd) (b : Opnd) : EncodedSize.Statement (Instr.xor d a b) := by
  intro n w h; cases h
  have := num_lt d
  have := num_lt a
  have := num_lt b
  refine Or.inl ⟨rfl, ?_, ?_⟩ <;> unfold encXor <;> omega

theorem EncodedSize.shl (d : Opnd) (a : Opnd) (b : Opnd) : EncodedSize.Statement (Instr.shl d a b) := by
  intro n w h; cases h
  have := num_lt d
  have := num_lt a
  have := num_lt b
  refine Or.inl ⟨rfl, ?_, ?_⟩ <;> unfold encShl <;> omega

theorem EncodedSize.shr (d : Opnd) (a : Opnd) (b : Opnd) : EncodedSize.Statement (Instr.shr d a b) := by
  intro n w h; cases h
  have := num_lt d
  have := num_lt a
  have := num_lt b
  refine Or.inl ⟨rfl, ?_, ?_⟩ <;> unfold encShr <;> omega

theorem EncodedSize.sra (d : Opnd) (a : Opnd) (b : Opnd) : EncodedSize.Statement (Instr.sra d a b) := by
  intro n w h; cases h
  have := num_lt d
  have := num_lt a
  have := num_lt b
  refine Or.inl ⟨rfl, ?_, ?_⟩ <;> unfold encSra <;> omega

theorem EncodedSize.shli (d : Opnd) (a : Opnd) (i : BitVec 5) : EncodedSize.Statement (Instr.shli d a i) := by
  intro n w h; cases h
  have := num_lt d
  have := num_lt a
  have := i.isLt
  refine Or.inl ⟨rfl, ?_, ?_⟩ <;> unfold encShli <;> omega

theorem EncodedSize.shri (d : Opnd) (a : Opnd) (i : BitVec 5) : EncodedSize.Statement (Instr.shri d a i) := by
  intro n w h; cases h
  have := num_lt d
  have := num_lt a
  have := i.isLt
  refine Or.inl ⟨rfl, ?_, ?_⟩ <;> unfold encShri <;> omega

theorem EncodedSize.srai (d : Opnd) (a : Opnd) (i : BitVec 5) : EncodedSize.Statement (Instr.srai d a i) := by
  intro n w h; cases h
  have := num_lt d
  have := num_lt a
  have := i.isLt
  refine Or.inl ⟨rfl, ?_, ?_⟩ <;> unfold encSrai <;> omega

theorem EncodedSize.min (d : Opnd) (a : Opnd) (b : Opnd) : EncodedSize.Statement (Instr.min d a b) := by
  intro n w h; cases h
  have := num_lt d
  have := num_lt a
  have := num_lt b
  refine Or.inl ⟨rfl, ?_, ?_⟩ <;> unfold encMin <;> omega

theorem EncodedSize.max (d : Opnd) (a : Opnd) (b : Opnd) : EncodedSize.Statement (Instr.max d a b) := by
  intro n w h; cases h
  have := num_lt d
  have := num_lt a
  have := num_lt b
  refine Or.inl ⟨rfl, ?_, ?_⟩ <;> unfold encMax <;> omega

theorem EncodedSize.clz (d : Opnd) (a : Opnd) : EncodedSize.Statement (Instr.clz d a) := by
  intro n w h; cases h
  have := num_lt d
  have := num_lt a
  refine Or.inl ⟨rfl, ?_, ?_⟩ <;> unfold encClz <;> omega

theorem EncodedSize.popc (d : Opnd) (a : Opnd) : EncodedSize.Statement (Instr.popc d a) := by
  intro n w h; cases h
  have := num_lt d
  have := num_lt a
  refine Or.inl ⟨rfl, ?_, ?_⟩ <;> unfold encPopc <;> omega

theorem EncodedSize.brev (d : Opnd) (a : Opnd) : EncodedSize.Statement (Instr.brev d a) := by
  intro n w h; cases h
  have := num_lt d
  have := num_lt a
  refine Or.inl ⟨rfl, ?_, ?_⟩ <;> unfold encBrev <;> omega

theorem EncodedSize.bfx (d : Opnd) (a : Opnd) (b : Opnd) : EncodedSize.Statement (Instr.bfx d a b) := by
  intro n w h; cases h
  have := num_lt d
  have := num_lt a
  have := num_lt b
  refine Or.inl ⟨rfl, ?_, ?_⟩ <;> unfold encBfx <;> omega

theorem EncodedSize.bfxu (d : Opnd) (a : Opnd) (b : Opnd) : EncodedSize.Statement (Instr.bfxu d a b) := by
  intro n w h; cases h
  have := num_lt d
  have := num_lt a
  have := num_lt b
  refine Or.inl ⟨rfl, ?_, ?_⟩ <;> unfold encBfxu <;> omega

theorem EncodedSize.bfi (d : Opnd) (a : Opnd) (b : Opnd) : EncodedSize.Statement (Instr.bfi d a b) := by
  intro n w h; cases h
  have := num_lt d
  have := num_lt a
  have := num_lt b
  refine Or.inl ⟨rfl, ?_, ?_⟩ <;> unfold encBfi <;> omega

theorem EncodedSize.sel (d : Opnd) (a : Opnd) (b : Opnd) : EncodedSize.Statement (Instr.sel d a b) := by
  intro n w h; cases h
  have := num_lt d
  have := num_lt a
  have := num_lt b
  refine Or.inl ⟨rfl, ?_, ?_⟩ <;> unfold encSel <;> omega

theorem EncodedSize.mov (d : Opnd) (a : Opnd) (q : BitVec 2) : EncodedSize.Statement (Instr.mov d a q) := by
  intro n w h; cases h
  have := num_lt d
  have := num_lt a
  have := q.isLt
  refine Or.inl ⟨rfl, ?_, ?_⟩ <;> unfold encMov <;> omega

theorem EncodedSize.li (d : Opnd) (i : BitVec 16) : EncodedSize.Statement (Instr.li d i) := by
  intro n w h; cases h
  have := num_lt d
  have := i.isLt
  refine Or.inl ⟨rfl, ?_, ?_⟩ <;> unfold encLi <;> omega

theorem EncodedSize.lih (d : Opnd) (i : BitVec 16) : EncodedSize.Statement (Instr.lih d i) := by
  intro n w h; cases h
  have := num_lt d
  have := i.isLt
  refine Or.inl ⟨rfl, ?_, ?_⟩ <;> unfold encLih <;> omega

theorem EncodedSize.agen (d : Opnd) (a : Opnd) (b : Opnd) : EncodedSize.Statement (Instr.agen d a b) := by
  intro n w h; cases h
  have := num_lt d
  have := num_lt a
  have := num_lt b
  refine Or.inl ⟨rfl, ?_, ?_⟩ <;> unfold encAgen <;> omega

theorem EncodedSize.agen2 (d : Opnd) (a : Opnd) (b : Opnd) : EncodedSize.Statement (Instr.agen2 d a b) := by
  intro n w h; cases h
  have := num_lt d
  have := num_lt a
  have := num_lt b
  refine Or.inl ⟨rfl, ?_, ?_⟩ <;> unfold encAgen2 <;> omega

theorem EncodedSize.vbcast (d : Opnd) (a : Opnd) (b : Opnd) (q : BitVec 2) : EncodedSize.Statement (Instr.vbcast d a b q) := by
  intro n w h; cases h
  have := num_lt d
  have := num_lt a
  have := num_lt b
  have := q.isLt
  refine Or.inl ⟨rfl, ?_, ?_⟩ <;> unfold encVbcast <;> omega

theorem EncodedSize.vext (d : Opnd) (a : Opnd) (b : Opnd) : EncodedSize.Statement (Instr.vext d a b) := by
  intro n w h; cases h
  have := num_lt d
  have := num_lt a
  have := num_lt b
  refine Or.inl ⟨rfl, ?_, ?_⟩ <;> unfold encVext <;> omega

theorem EncodedSize.vins (d : Opnd) (a : Opnd) (b : Opnd) : EncodedSize.Statement (Instr.vins d a b) := by
  intro n w h; cases h
  have := num_lt d
  have := num_lt a
  have := num_lt b
  refine Or.inl ⟨rfl, ?_, ?_⟩ <;> unfold encVins <;> omega

theorem EncodedSize.vperm (d : Opnd) (a : Opnd) (b : Opnd) (q : BitVec 2) : EncodedSize.Statement (Instr.vperm d a b q) := by
  intro n w h; cases h
  have := num_lt d
  have := num_lt a
  have := num_lt b
  have := q.isLt
  refine Or.inl ⟨rfl, ?_, ?_⟩ <;> unfold encVperm <;> omega

theorem EncodedSize.vrotl (d : Opnd) (a : Opnd) (b : Opnd) (q : BitVec 2) : EncodedSize.Statement (Instr.vrotl d a b q) := by
  intro n w h; cases h
  have := num_lt d
  have := num_lt a
  have := num_lt b
  have := q.isLt
  refine Or.inl ⟨rfl, ?_, ?_⟩ <;> unfold encVrotl <;> omega

theorem EncodedSize.vredAdd (d : Opnd) (a : Opnd) (q : BitVec 2) : EncodedSize.Statement (Instr.vredAdd d a q) := by
  intro n w h; cases h
  have := num_lt d
  have := num_lt a
  have := q.isLt
  refine Or.inl ⟨rfl, ?_, ?_⟩ <;> unfold encVredAdd <;> omega

theorem EncodedSize.vredMin (d : Opnd) (a : Opnd) (q : BitVec 2) : EncodedSize.Statement (Instr.vredMin d a q) := by
  intro n w h; cases h
  have := num_lt d
  have := num_lt a
  have := q.isLt
  refine Or.inl ⟨rfl, ?_, ?_⟩ <;> unfold encVredMin <;> omega

theorem EncodedSize.vredMax (d : Opnd) (a : Opnd) (q : BitVec 2) : EncodedSize.Statement (Instr.vredMax d a q) := by
  intro n w h; cases h
  have := num_lt d
  have := num_lt a
  have := q.isLt
  refine Or.inl ⟨rfl, ?_, ?_⟩ <;> unfold encVredMax <;> omega

theorem EncodedSize.vscanAdd (d : Opnd) (a : Opnd) (q : BitVec 2) : EncodedSize.Statement (Instr.vscanAdd d a q) := by
  intro n w h; cases h
  have := num_lt d
  have := num_lt a
  have := q.isLt
  refine Or.inl ⟨rfl, ?_, ?_⟩ <;> unfold encVscanAdd <;> omega

theorem EncodedSize.tget (d : Opnd) (a : Opnd) (t : BitVec 2) (w : BitVec 5) : EncodedSize.Statement (Instr.tget d a t w) := by
  intro n w h; cases h
  have := num_lt d
  have := num_lt a
  have := t.isLt
  have := w.isLt
  refine Or.inl ⟨rfl, ?_, ?_⟩ <;> unfold encTget <;> omega

theorem EncodedSize.tset (d : Opnd) (a : Opnd) (w : BitVec 4) : EncodedSize.Statement (Instr.tset d a w) := by
  intro n w h; cases h
  have := num_lt d
  have := num_lt a
  have := w.isLt
  refine Or.inl ⟨rfl, ?_, ?_⟩ <;> unfold encTset <;> omega

theorem EncodedSize.vadd (d : Opnd) (a : Opnd) (b : Opnd) (q : BitVec 2) : EncodedSize.Statement (Instr.vadd d a b q) := by
  intro n w h; cases h
  have := num_lt d
  have := num_lt a
  have := num_lt b
  have := q.isLt
  refine Or.inl ⟨rfl, ?_, ?_⟩ <;> unfold encVadd <;> omega

theorem EncodedSize.vsub (d : Opnd) (a : Opnd) (b : Opnd) (q : BitVec 2) : EncodedSize.Statement (Instr.vsub d a b q) := by
  intro n w h; cases h
  have := num_lt d
  have := num_lt a
  have := num_lt b
  have := q.isLt
  refine Or.inl ⟨rfl, ?_, ?_⟩ <;> unfold encVsub <;> omega

theorem EncodedSize.vmul (d : Opnd) (a : Opnd) (b : Opnd) (q : BitVec 2) : EncodedSize.Statement (Instr.vmul d a b q) := by
  intro n w h; cases h
  have := num_lt d
  have := num_lt a
  have := num_lt b
  have := q.isLt
  refine Or.inl ⟨rfl, ?_, ?_⟩ <;> unfold encVmul <;> omega

theorem EncodedSize.vmulh (d : Opnd) (a : Opnd) (b : Opnd) (q : BitVec 2) : EncodedSize.Statement (Instr.vmulh d a b q) := by
  intro n w h; cases h
  have := num_lt d
  have := num_lt a
  have := num_lt b
  have := q.isLt
  refine Or.inl ⟨rfl, ?_, ?_⟩ <;> unfold encVmulh <;> omega

theorem EncodedSize.vmad (d : Opnd) (a : Opnd) (b : Opnd) (q : BitVec 2) : EncodedSize.Statement (Instr.vmad d a b q) := by
  intro n w h; cases h
  have := num_lt d
  have := num_lt a
  have := num_lt b
  have := q.isLt
  refine Or.inl ⟨rfl, ?_, ?_⟩ <;> unfold encVmad <;> omega

theorem EncodedSize.vand (d : Opnd) (a : Opnd) (b : Opnd) (q : BitVec 2) : EncodedSize.Statement (Instr.vand d a b q) := by
  intro n w h; cases h
  have := num_lt d
  have := num_lt a
  have := num_lt b
  have := q.isLt
  refine Or.inl ⟨rfl, ?_, ?_⟩ <;> unfold encVand <;> omega

theorem EncodedSize.vor (d : Opnd) (a : Opnd) (b : Opnd) (q : BitVec 2) : EncodedSize.Statement (Instr.vor d a b q) := by
  intro n w h; cases h
  have := num_lt d
  have := num_lt a
  have := num_lt b
  have := q.isLt
  refine Or.inl ⟨rfl, ?_, ?_⟩ <;> unfold encVor <;> omega

theorem EncodedSize.vxor (d : Opnd) (a : Opnd) (b : Opnd) (q : BitVec 2) : EncodedSize.Statement (Instr.vxor d a b q) := by
  intro n w h; cases h
  have := num_lt d
  have := num_lt a
  have := num_lt b
  have := q.isLt
  refine Or.inl ⟨rfl, ?_, ?_⟩ <;> unfold encVxor <;> omega

theorem EncodedSize.vshl (d : Opnd) (a : Opnd) (b : Opnd) (q : BitVec 2) : EncodedSize.Statement (Instr.vshl d a b q) := by
  intro n w h; cases h
  have := num_lt d
  have := num_lt a
  have := num_lt b
  have := q.isLt
  refine Or.inl ⟨rfl, ?_, ?_⟩ <;> unfold encVshl <;> omega

theorem EncodedSize.vshr (d : Opnd) (a : Opnd) (b : Opnd) (q : BitVec 2) : EncodedSize.Statement (Instr.vshr d a b q) := by
  intro n w h; cases h
  have := num_lt d
  have := num_lt a
  have := num_lt b
  have := q.isLt
  refine Or.inl ⟨rfl, ?_, ?_⟩ <;> unfold encVshr <;> omega

theorem EncodedSize.vsra (d : Opnd) (a : Opnd) (b : Opnd) (q : BitVec 2) : EncodedSize.Statement (Instr.vsra d a b q) := by
  intro n w h; cases h
  have := num_lt d
  have := num_lt a
  have := num_lt b
  have := q.isLt
  refine Or.inl ⟨rfl, ?_, ?_⟩ <;> unfold encVsra <;> omega

theorem EncodedSize.vmin (d : Opnd) (a : Opnd) (b : Opnd) (q : BitVec 2) : EncodedSize.Statement (Instr.vmin d a b q) := by
  intro n w h; cases h
  have := num_lt d
  have := num_lt a
  have := num_lt b
  have := q.isLt
  refine Or.inl ⟨rfl, ?_, ?_⟩ <;> unfold encVmin <;> omega

theorem EncodedSize.vmax (d : Opnd) (a : Opnd) (b : Opnd) (q : BitVec 2) : EncodedSize.Statement (Instr.vmax d a b q) := by
  intro n w h; cases h
  have := num_lt d
  have := num_lt a
  have := num_lt b
  have := q.isLt
  refine Or.inl ⟨rfl, ?_, ?_⟩ <;> unfold encVmax <;> omega

theorem EncodedSize.vsel (d : Opnd) (a : Opnd) (b : Opnd) (q : BitVec 2) : EncodedSize.Statement (Instr.vsel d a b q) := by
  intro n w h; cases h
  have := num_lt d
  have := num_lt a
  have := num_lt b
  have := q.isLt
  refine Or.inl ⟨rfl, ?_, ?_⟩ <;> unfold encVsel <;> omega

theorem EncodedSize.vadds (d : Opnd) (a : Opnd) (b : Opnd) (e : BitVec 1) : EncodedSize.Statement (Instr.vadds d a b e) := by
  intro n w h; cases h
  have := num_lt d
  have := num_lt a
  have := num_lt b
  have := e.isLt
  refine Or.inl ⟨rfl, ?_, ?_⟩ <;> unfold encVadds <;> omega

theorem EncodedSize.vsubs (d : Opnd) (a : Opnd) (b : Opnd) (e : BitVec 1) : EncodedSize.Statement (Instr.vsubs d a b e) := by
  intro n w h; cases h
  have := num_lt d
  have := num_lt a
  have := num_lt b
  have := e.isLt
  refine Or.inl ⟨rfl, ?_, ?_⟩ <;> unfold encVsubs <;> omega

theorem EncodedSize.vpack (d : Opnd) (a : Opnd) (b : Opnd) (e : BitVec 1) : EncodedSize.Statement (Instr.vpack d a b e) := by
  intro n w h; cases h
  have := num_lt d
  have := num_lt a
  have := num_lt b
  have := e.isLt
  refine Or.inl ⟨rfl, ?_, ?_⟩ <;> unfold encVpack <;> omega

theorem EncodedSize.vunpk (d : Opnd) (a : Opnd) (b : Opnd) (e : BitVec 1) : EncodedSize.Statement (Instr.vunpk d a b e) := by
  intro n w h; cases h
  have := num_lt d
  have := num_lt a
  have := num_lt b
  have := e.isLt
  refine Or.inl ⟨rfl, ?_, ?_⟩ <;> unfold encVunpk <;> omega

theorem EncodedSize.vclz (d : Opnd) (a : Opnd) (q : BitVec 2) : EncodedSize.Statement (Instr.vclz d a q) := by
  intro n w h; cases h
  have := num_lt d
  have := num_lt a
  have := q.isLt
  refine Or.inl ⟨rfl, ?_, ?_⟩ <;> unfold encVclz <;> omega

theorem EncodedSize.vpopc (d : Opnd) (a : Opnd) (q : BitVec 2) : EncodedSize.Statement (Instr.vpopc d a q) := by
  intro n w h; cases h
  have := num_lt d
  have := num_lt a
  have := q.isLt
  refine Or.inl ⟨rfl, ?_, ?_⟩ <;> unfold encVpopc <;> omega

theorem EncodedSize.vfadd (d : Opnd) (a : Opnd) (b : Opnd) (q : BitVec 2) : EncodedSize.Statement (Instr.vfadd d a b q) := by
  intro n w h; cases h
  have := num_lt d
  have := num_lt a
  have := num_lt b
  have := q.isLt
  refine Or.inl ⟨rfl, ?_, ?_⟩ <;> unfold encVfadd <;> omega

theorem EncodedSize.vfsub (d : Opnd) (a : Opnd) (b : Opnd) (q : BitVec 2) : EncodedSize.Statement (Instr.vfsub d a b q) := by
  intro n w h; cases h
  have := num_lt d
  have := num_lt a
  have := num_lt b
  have := q.isLt
  refine Or.inl ⟨rfl, ?_, ?_⟩ <;> unfold encVfsub <;> omega

theorem EncodedSize.vfmul (d : Opnd) (a : Opnd) (b : Opnd) (q : BitVec 2) : EncodedSize.Statement (Instr.vfmul d a b q) := by
  intro n w h; cases h
  have := num_lt d
  have := num_lt a
  have := num_lt b
  have := q.isLt
  refine Or.inl ⟨rfl, ?_, ?_⟩ <;> unfold encVfmul <;> omega

theorem EncodedSize.vfma (d : Opnd) (a : Opnd) (b : Opnd) (q : BitVec 2) : EncodedSize.Statement (Instr.vfma d a b q) := by
  intro n w h; cases h
  have := num_lt d
  have := num_lt a
  have := num_lt b
  have := q.isLt
  refine Or.inl ⟨rfl, ?_, ?_⟩ <;> unfold encVfma <;> omega

theorem EncodedSize.vfmin (d : Opnd) (a : Opnd) (b : Opnd) (q : BitVec 2) : EncodedSize.Statement (Instr.vfmin d a b q) := by
  intro n w h; cases h
  have := num_lt d
  have := num_lt a
  have := num_lt b
  have := q.isLt
  refine Or.inl ⟨rfl, ?_, ?_⟩ <;> unfold encVfmin <;> omega

theorem EncodedSize.vfmax (d : Opnd) (a : Opnd) (b : Opnd) (q : BitVec 2) : EncodedSize.Statement (Instr.vfmax d a b q) := by
  intro n w h; cases h
  have := num_lt d
  have := num_lt a
  have := num_lt b
  have := q.isLt
  refine Or.inl ⟨rfl, ?_, ?_⟩ <;> unfold encVfmax <;> omega

theorem EncodedSize.vfabs (d : Opnd) (a : Opnd) (q : BitVec 2) : EncodedSize.Statement (Instr.vfabs d a q) := by
  intro n w h; cases h
  have := num_lt d
  have := num_lt a
  have := q.isLt
  refine Or.inl ⟨rfl, ?_, ?_⟩ <;> unfold encVfabs <;> omega

theorem EncodedSize.vfneg (d : Opnd) (a : Opnd) (q : BitVec 2) : EncodedSize.Statement (Instr.vfneg d a q) := by
  intro n w h; cases h
  have := num_lt d
  have := num_lt a
  have := q.isLt
  refine Or.inl ⟨rfl, ?_, ?_⟩ <;> unfold encVfneg <;> omega

theorem EncodedSize.vfrcp (d : Opnd) (a : Opnd) (q : BitVec 2) : EncodedSize.Statement (Instr.vfrcp d a q) := by
  intro n w h; cases h
  have := num_lt d
  have := num_lt a
  have := q.isLt
  refine Or.inl ⟨rfl, ?_, ?_⟩ <;> unfold encVfrcp <;> omega

theorem EncodedSize.vfrsq (d : Opnd) (a : Opnd) (q : BitVec 2) : EncodedSize.Statement (Instr.vfrsq d a q) := by
  intro n w h; cases h
  have := num_lt d
  have := num_lt a
  have := q.isLt
  refine Or.inl ⟨rfl, ?_, ?_⟩ <;> unfold encVfrsq <;> omega

theorem EncodedSize.vfsqrt (d : Opnd) (a : Opnd) (q : BitVec 2) : EncodedSize.Statement (Instr.vfsqrt d a q) := by
  intro n w h; cases h
  have := num_lt d
  have := num_lt a
  have := q.isLt
  refine Or.inl ⟨rfl, ?_, ?_⟩ <;> unfold encVfsqrt <;> omega

theorem EncodedSize.vfdiv (d : Opnd) (a : Opnd) (b : Opnd) (q : BitVec 2) : EncodedSize.Statement (Instr.vfdiv d a b q) := by
  intro n w h; cases h
  have := num_lt d
  have := num_lt a
  have := num_lt b
  have := q.isLt
  refine Or.inl ⟨rfl, ?_, ?_⟩ <;> unfold encVfdiv <;> omega

theorem EncodedSize.vfexp2 (d : Opnd) (a : Opnd) (q : BitVec 2) : EncodedSize.Statement (Instr.vfexp2 d a q) := by
  intro n w h; cases h
  have := num_lt d
  have := num_lt a
  have := q.isLt
  refine Or.inl ⟨rfl, ?_, ?_⟩ <;> unfold encVfexp2 <;> omega

theorem EncodedSize.vflog2 (d : Opnd) (a : Opnd) (q : BitVec 2) : EncodedSize.Statement (Instr.vflog2 d a q) := by
  intro n w h; cases h
  have := num_lt d
  have := num_lt a
  have := q.isLt
  refine Or.inl ⟨rfl, ?_, ?_⟩ <;> unfold encVflog2 <;> omega

theorem EncodedSize.vfsin (d : Opnd) (a : Opnd) (q : BitVec 2) : EncodedSize.Statement (Instr.vfsin d a q) := by
  intro n w h; cases h
  have := num_lt d
  have := num_lt a
  have := q.isLt
  refine Or.inl ⟨rfl, ?_, ?_⟩ <;> unfold encVfsin <;> omega

theorem EncodedSize.vftanh (d : Opnd) (a : Opnd) (q : BitVec 2) : EncodedSize.Statement (Instr.vftanh d a q) := by
  intro n w h; cases h
  have := num_lt d
  have := num_lt a
  have := q.isLt
  refine Or.inl ⟨rfl, ?_, ?_⟩ <;> unfold encVftanh <;> omega

theorem EncodedSize.vfsig (d : Opnd) (a : Opnd) (q : BitVec 2) : EncodedSize.Statement (Instr.vfsig d a q) := by
  intro n w h; cases h
  have := num_lt d
  have := num_lt a
  have := q.isLt
  refine Or.inl ⟨rfl, ?_, ?_⟩ <;> unfold encVfsig <;> omega

theorem EncodedSize.vfrnd (d : Opnd) (a : Opnd) (b : Opnd) (q : BitVec 2) : EncodedSize.Statement (Instr.vfrnd d a b q) := by
  intro n w h; cases h
  have := num_lt d
  have := num_lt a
  have := num_lt b
  have := q.isLt
  refine Or.inl ⟨rfl, ?_, ?_⟩ <;> unfold encVfrnd <;> omega

theorem EncodedSize.vfclmp (d : Opnd) (a : Opnd) (b : Opnd) (q : BitVec 2) : EncodedSize.Statement (Instr.vfclmp d a b q) := by
  intro n w h; cases h
  have := num_lt d
  have := num_lt a
  have := num_lt b
  have := q.isLt
  refine Or.inl ⟨rfl, ?_, ?_⟩ <;> unfold encVfclmp <;> omega

theorem EncodedSize.vflrp (d : Opnd) (a : Opnd) (b : Opnd) (q : BitVec 2) : EncodedSize.Statement (Instr.vflrp d a b q) := by
  intro n w h; cases h
  have := num_lt d
  have := num_lt a
  have := num_lt b
  have := q.isLt
  refine Or.inl ⟨rfl, ?_, ?_⟩ <;> unfold encVflrp <;> omega

theorem EncodedSize.vhmul (d : Opnd) (a : Opnd) (b : Opnd) (q : BitVec 2) : EncodedSize.Statement (Instr.vhmul d a b q) := by
  intro n w h; cases h
  have := num_lt d
  have := num_lt a
  have := num_lt b
  have := q.isLt
  refine Or.inl ⟨rfl, ?_, ?_⟩ <;> unfold encVhmul <;> omega

theorem EncodedSize.vhfma (d : Opnd) (a : Opnd) (b : Opnd) (q : BitVec 2) : EncodedSize.Statement (Instr.vhfma d a b q) := by
  intro n w h; cases h
  have := num_lt d
  have := num_lt a
  have := num_lt b
  have := q.isLt
  refine Or.inl ⟨rfl, ?_, ?_⟩ <;> unfold encVhfma <;> omega

theorem EncodedSize.vbfma (d : Opnd) (a : Opnd) (b : Opnd) (q : BitVec 2) : EncodedSize.Statement (Instr.vbfma d a b q) := by
  intro n w h; cases h
  have := num_lt d
  have := num_lt a
  have := num_lt b
  have := q.isLt
  refine Or.inl ⟨rfl, ?_, ?_⟩ <;> unfold encVbfma <;> omega

theorem EncodedSize.fadd (d : Opnd) (a : Opnd) (b : Opnd) : EncodedSize.Statement (Instr.fadd d a b) := by
  intro n w h; cases h
  have := num_lt d
  have := num_lt a
  have := num_lt b
  refine Or.inl ⟨rfl, ?_, ?_⟩ <;> unfold encFadd <;> omega

theorem EncodedSize.fmul (d : Opnd) (a : Opnd) (b : Opnd) : EncodedSize.Statement (Instr.fmul d a b) := by
  intro n w h; cases h
  have := num_lt d
  have := num_lt a
  have := num_lt b
  refine Or.inl ⟨rfl, ?_, ?_⟩ <;> unfold encFmul <;> omega

theorem EncodedSize.ffma (d : Opnd) (a : Opnd) (b : Opnd) : EncodedSize.Statement (Instr.ffma d a b) := by
  intro n w h; cases h
  have := num_lt d
  have := num_lt a
  have := num_lt b
  refine Or.inl ⟨rfl, ?_, ?_⟩ <;> unfold encFfma <;> omega

theorem EncodedSize.cvtF2i (d : Opnd) (a : Opnd) (r : BitVec 2) : EncodedSize.Statement (Instr.cvtF2i d a r) := by
  intro n w h; cases h
  have := num_lt d
  have := num_lt a
  have := r.isLt
  refine Or.inl ⟨rfl, ?_, ?_⟩ <;> unfold encCvtF2i <;> omega

theorem EncodedSize.cvtI2f (d : Opnd) (a : Opnd) (r : BitVec 2) : EncodedSize.Statement (Instr.cvtI2f d a r) := by
  intro n w h; cases h
  have := num_lt d
  have := num_lt a
  have := r.isLt
  refine Or.inl ⟨rfl, ?_, ?_⟩ <;> unfold encCvtI2f <;> omega

theorem EncodedSize.cvtF2h (d : Opnd) (a : Opnd) (b : Opnd) (r : BitVec 2) : EncodedSize.Statement (Instr.cvtF2h d a b r) := by
  intro n w h; cases h
  have := num_lt d
  have := num_lt a
  have := num_lt b
  have := r.isLt
  refine Or.inl ⟨rfl, ?_, ?_⟩ <;> unfold encCvtF2h <;> omega

theorem EncodedSize.cvtH2f (d : Opnd) (a : Opnd) (n : Opnd) (q : BitVec 2) : EncodedSize.Statement (Instr.cvtH2f d a n q) := by
  intro n w h; cases h
  have := num_lt d
  have := num_lt a
  have := num_lt n
  have := q.isLt
  refine Or.inl ⟨rfl, ?_, ?_⟩ <;> unfold encCvtH2f <;> omega

theorem EncodedSize.cvtF2b (d : Opnd) (a : Opnd) (b : Opnd) (r : BitVec 2) : EncodedSize.Statement (Instr.cvtF2b d a b r) := by
  intro n w h; cases h
  have := num_lt d
  have := num_lt a
  have := num_lt b
  have := r.isLt
  refine Or.inl ⟨rfl, ?_, ?_⟩ <;> unfold encCvtF2b <;> omega

theorem EncodedSize.cvtB2f (d : Opnd) (a : Opnd) (n : Opnd) (q : BitVec 2) : EncodedSize.Statement (Instr.cvtB2f d a n q) := by
  intro n w h; cases h
  have := num_lt d
  have := num_lt a
  have := num_lt n
  have := q.isLt
  refine Or.inl ⟨rfl, ?_, ?_⟩ <;> unfold encCvtB2f <;> omega

theorem EncodedSize.cvtF2q (d : Opnd) (a : Opnd) (n : Opnd) : EncodedSize.Statement (Instr.cvtF2q d a n) := by
  intro n w h; cases h
  have := num_lt d
  have := num_lt a
  have := num_lt n
  refine Or.inl ⟨rfl, ?_, ?_⟩ <;> unfold encCvtF2q <;> omega

theorem EncodedSize.cvtQ2f (d : Opnd) (a : Opnd) (n : Opnd) : EncodedSize.Statement (Instr.cvtQ2f d a n) := by
  intro n w h; cases h
  have := num_lt d
  have := num_lt a
  have := num_lt n
  refine Or.inl ⟨rfl, ?_, ?_⟩ <;> unfold encCvtQ2f <;> omega

theorem EncodedSize.hfwd (d : Opnd) (a : Opnd) (b : Opnd) : EncodedSize.Statement (Instr.hfwd d a b) := by
  intro n w h; cases h
  have := num_lt d
  have := num_lt a
  have := num_lt b
  refine Or.inl ⟨rfl, ?_, ?_⟩ <;> unfold encHfwd <;> omega

theorem EncodedSize.hinv (d : Opnd) (a : Opnd) : EncodedSize.Statement (Instr.hinv d a) := by
  intro n w h; cases h
  have := num_lt d
  have := num_lt a
  refine Or.inl ⟨rfl, ?_, ?_⟩ <;> unfold encHinv <;> omega

theorem EncodedSize.hthr (d : Opnd) (a : Opnd) (b : Opnd) : EncodedSize.Statement (Instr.hthr d a b) := by
  intro n w h; cases h
  have := num_lt d
  have := num_lt a
  have := num_lt b
  refine Or.inl ⟨rfl, ?_, ?_⟩ <;> unfold encHthr <;> omega

theorem EncodedSize.hpack (d : Opnd) (a : Opnd) (b : Opnd) : EncodedSize.Statement (Instr.hpack d a b) := by
  intro n w h; cases h
  have := num_lt d
  have := num_lt a
  have := num_lt b
  refine Or.inl ⟨rfl, ?_, ?_⟩ <;> unfold encHpack <;> omega

theorem EncodedSize.hunpk (d : Opnd) (a : Opnd) (b : Opnd) : EncodedSize.Statement (Instr.hunpk d a b) := by
  intro n w h; cases h
  have := num_lt d
  have := num_lt a
  have := num_lt b
  refine Or.inl ⟨rfl, ?_, ?_⟩ <;> unfold encHunpk <;> omega

theorem EncodedSize.htag (d : Opnd) (a : Opnd) (b : Opnd) : EncodedSize.Statement (Instr.htag d a b) := by
  intro n w h; cases h
  have := num_lt d
  have := num_lt a
  have := num_lt b
  refine Or.inl ⟨rfl, ?_, ?_⟩ <;> unfold encHtag <;> omega

theorem EncodedSize.hqry (d : Opnd) (a : Opnd) : EncodedSize.Statement (Instr.hqry d a) := by
  intro n w h; cases h
  have := num_lt d
  have := num_lt a
  refine Or.inl ⟨rfl, ?_, ?_⟩ <;> unfold encHqry <;> omega

theorem EncodedSize.hsett (d : Opnd) (a : Opnd) (b : Opnd) : EncodedSize.Statement (Instr.hsett d a b) := by
  intro n w h; cases h
  have := num_lt d
  have := num_lt a
  have := num_lt b
  refine Or.inl ⟨rfl, ?_, ?_⟩ <;> unfold encHsett <;> omega

theorem EncodedSize.ldb (d : Opnd) (a : Opnd) (o : BitVec 9) : EncodedSize.Statement (Instr.ldb d a o) := by
  intro n w h; cases h
  have := num_lt d
  have := num_lt a
  have := o.isLt
  refine Or.inl ⟨rfl, ?_, ?_⟩ <;> unfold encLdb <;> omega

theorem EncodedSize.ldbu (d : Opnd) (a : Opnd) (o : BitVec 9) : EncodedSize.Statement (Instr.ldbu d a o) := by
  intro n w h; cases h
  have := num_lt d
  have := num_lt a
  have := o.isLt
  refine Or.inl ⟨rfl, ?_, ?_⟩ <;> unfold encLdbu <;> omega

theorem EncodedSize.ldh (d : Opnd) (a : Opnd) (o : BitVec 9) : EncodedSize.Statement (Instr.ldh d a o) := by
  intro n w h; cases h
  have := num_lt d
  have := num_lt a
  have := o.isLt
  refine Or.inl ⟨rfl, ?_, ?_⟩ <;> unfold encLdh <;> omega

theorem EncodedSize.ldhu (d : Opnd) (a : Opnd) (o : BitVec 9) : EncodedSize.Statement (Instr.ldhu d a o) := by
  intro n w h; cases h
  have := num_lt d
  have := num_lt a
  have := o.isLt
  refine Or.inl ⟨rfl, ?_, ?_⟩ <;> unfold encLdhu <;> omega

theorem EncodedSize.ldw (d : Opnd) (a : Opnd) (o : BitVec 9) : EncodedSize.Statement (Instr.ldw d a o) := by
  intro n w h; cases h
  have := num_lt d
  have := num_lt a
  have := o.isLt
  refine Or.inl ⟨rfl, ?_, ?_⟩ <;> unfold encLdw <;> omega

theorem EncodedSize.stb (d : Opnd) (a : Opnd) (o : BitVec 9) : EncodedSize.Statement (Instr.stb d a o) := by
  intro n w h; cases h
  have := num_lt d
  have := num_lt a
  have := o.isLt
  refine Or.inl ⟨rfl, ?_, ?_⟩ <;> unfold encStb <;> omega

theorem EncodedSize.sth (d : Opnd) (a : Opnd) (o : BitVec 9) : EncodedSize.Statement (Instr.sth d a o) := by
  intro n w h; cases h
  have := num_lt d
  have := num_lt a
  have := o.isLt
  refine Or.inl ⟨rfl, ?_, ?_⟩ <;> unfold encSth <;> omega

theorem EncodedSize.stw (d : Opnd) (a : Opnd) (o : BitVec 9) : EncodedSize.Statement (Instr.stw d a o) := by
  intro n w h; cases h
  have := num_lt d
  have := num_lt a
  have := o.isLt
  refine Or.inl ⟨rfl, ?_, ?_⟩ <;> unfold encStw <;> omega

theorem EncodedSize.ldv (d : Opnd) (a : Opnd) (q : BitVec 2) (o : BitVec 7) : EncodedSize.Statement (Instr.ldv d a q o) := by
  intro n w h; cases h
  have := num_lt d
  have := num_lt a
  have := q.isLt
  have := o.isLt
  refine Or.inl ⟨rfl, ?_, ?_⟩ <;> unfold encLdv <;> omega

theorem EncodedSize.ldvs (d : Opnd) (a : Opnd) (b : Opnd) (q : BitVec 2) : EncodedSize.Statement (Instr.ldvs d a b q) := by
  intro n w h; cases h
  have := num_lt d
  have := num_lt a
  have := num_lt b
  have := q.isLt
  refine Or.inl ⟨rfl, ?_, ?_⟩ <;> unfold encLdvs <;> omega

theorem EncodedSize.ldvg (d : Opnd) (a : Opnd) (b : Opnd) (q : BitVec 2) : EncodedSize.Statement (Instr.ldvg d a b q) := by
  intro n w h; cases h
  have := num_lt d
  have := num_lt a
  have := num_lt b
  have := q.isLt
  refine Or.inl ⟨rfl, ?_, ?_⟩ <;> unfold encLdvg <;> omega

theorem EncodedSize.ldvb (d : Opnd) (a : Opnd) (q : BitVec 2) (o : BitVec 7) : EncodedSize.Statement (Instr.ldvb d a q o) := by
  intro n w h; cases h
  have := num_lt d
  have := num_lt a
  have := q.isLt
  have := o.isLt
  refine Or.inl ⟨rfl, ?_, ?_⟩ <;> unfold encLdvb <;> omega

theorem EncodedSize.stv (d : Opnd) (a : Opnd) (q : BitVec 2) (o : BitVec 7) : EncodedSize.Statement (Instr.stv d a q o) := by
  intro n w h; cases h
  have := num_lt d
  have := num_lt a
  have := q.isLt
  have := o.isLt
  refine Or.inl ⟨rfl, ?_, ?_⟩ <;> unfold encStv <;> omega

theorem EncodedSize.stvs (d : Opnd) (a : Opnd) (b : Opnd) (q : BitVec 2) : EncodedSize.Statement (Instr.stvs d a b q) := by
  intro n w h; cases h
  have := num_lt d
  have := num_lt a
  have := num_lt b
  have := q.isLt
  refine Or.inl ⟨rfl, ?_, ?_⟩ <;> unfold encStvs <;> omega

theorem EncodedSize.stvx (d : Opnd) (a : Opnd) (b : Opnd) (q : BitVec 2) : EncodedSize.Statement (Instr.stvx d a b q) := by
  intro n w h; cases h
  have := num_lt d
  have := num_lt a
  have := num_lt b
  have := q.isLt
  refine Or.inl ⟨rfl, ?_, ?_⟩ <;> unfold encStvx <;> omega

theorem EncodedSize.aadd (d : Opnd) (a : Opnd) (b : Opnd) : EncodedSize.Statement (Instr.aadd d a b) := by
  intro n w h; cases h
  have := num_lt d
  have := num_lt a
  have := num_lt b
  refine Or.inl ⟨rfl, ?_, ?_⟩ <;> unfold encAadd <;> omega

theorem EncodedSize.amin (d : Opnd) (a : Opnd) (b : Opnd) : EncodedSize.Statement (Instr.amin d a b) := by
  intro n w h; cases h
  have := num_lt d
  have := num_lt a
  have := num_lt b
  refine Or.inl ⟨rfl, ?_, ?_⟩ <;> unfold encAmin <;> omega

theorem EncodedSize.amax (d : Opnd) (a : Opnd) (b : Opnd) : EncodedSize.Statement (Instr.amax d a b) := by
  intro n w h; cases h
  have := num_lt d
  have := num_lt a
  have := num_lt b
  refine Or.inl ⟨rfl, ?_, ?_⟩ <;> unfold encAmax <;> omega

theorem EncodedSize.aand (d : Opnd) (a : Opnd) (b : Opnd) : EncodedSize.Statement (Instr.aand d a b) := by
  intro n w h; cases h
  have := num_lt d
  have := num_lt a
  have := num_lt b
  refine Or.inl ⟨rfl, ?_, ?_⟩ <;> unfold encAand <;> omega

theorem EncodedSize.aor (d : Opnd) (a : Opnd) (b : Opnd) : EncodedSize.Statement (Instr.aor d a b) := by
  intro n w h; cases h
  have := num_lt d
  have := num_lt a
  have := num_lt b
  refine Or.inl ⟨rfl, ?_, ?_⟩ <;> unfold encAor <;> omega

theorem EncodedSize.axor (d : Opnd) (a : Opnd) (b : Opnd) : EncodedSize.Statement (Instr.axor d a b) := by
  intro n w h; cases h
  have := num_lt d
  have := num_lt a
  have := num_lt b
  refine Or.inl ⟨rfl, ?_, ?_⟩ <;> unfold encAxor <;> omega

theorem EncodedSize.axch (d : Opnd) (a : Opnd) (b : Opnd) : EncodedSize.Statement (Instr.axch d a b) := by
  intro n w h; cases h
  have := num_lt d
  have := num_lt a
  have := num_lt b
  refine Or.inl ⟨rfl, ?_, ?_⟩ <;> unfold encAxch <;> omega

theorem EncodedSize.acas (d : Opnd) (a : Opnd) (b : Opnd) : EncodedSize.Statement (Instr.acas d a b) := by
  intro n w h; cases h
  have := num_lt d
  have := num_lt a
  have := num_lt b
  refine Or.inl ⟨rfl, ?_, ?_⟩ <;> unfold encAcas <;> omega

theorem EncodedSize.afadd (d : Opnd) (a : Opnd) (b : Opnd) : EncodedSize.Statement (Instr.afadd d a b) := by
  intro n w h; cases h
  have := num_lt d
  have := num_lt a
  have := num_lt b
  refine Or.inl ⟨rfl, ?_, ?_⟩ <;> unfold encAfadd <;> omega

theorem EncodedSize.aincw (d : Opnd) (a : Opnd) (b : Opnd) : EncodedSize.Statement (Instr.aincw d a b) := by
  intro n w h; cases h
  have := num_lt d
  have := num_lt a
  have := num_lt b
  refine Or.inl ⟨rfl, ?_, ?_⟩ <;> unfold encAincw <;> omega

theorem EncodedSize.hld (d : Opnd) (a : Opnd) (b : Opnd) : EncodedSize.Statement (Instr.hld d a b) := by
  intro n w h; cases h
  have := num_lt d
  have := num_lt a
  have := num_lt b
  refine Or.inl ⟨rfl, ?_, ?_⟩ <;> unfold encHld <;> omega

theorem EncodedSize.hst (d : Opnd) (a : Opnd) (b : Opnd) : EncodedSize.Statement (Instr.hst d a b) := by
  intro n w h; cases h
  have := num_lt d
  have := num_lt a
  have := num_lt b
  refine Or.inl ⟨rfl, ?_, ?_⟩ <;> unfold encHst <;> omega

theorem EncodedSize.fld (d : Opnd) (n : BitVec 8) : EncodedSize.Statement (Instr.fld d n) := by
  intro n w h; cases h
  have := num_lt d
  have := n.isLt
  refine Or.inl ⟨rfl, ?_, ?_⟩ <;> unfold encFld <;> omega

theorem EncodedSize.fst (d : Opnd) (n : BitVec 8) : EncodedSize.Statement (Instr.fst d n) := by
  intro n w h; cases h
  have := num_lt d
  have := n.isLt
  refine Or.inl ⟨rfl, ?_, ?_⟩ <;> unfold encFst <;> omega

theorem EncodedSize.ldnc (d : Opnd) (a : Opnd) (o : BitVec 9) : EncodedSize.Statement (Instr.ldnc d a o) := by
  intro n w h; cases h
  have := num_lt d
  have := num_lt a
  have := o.isLt
  refine Or.inl ⟨rfl, ?_, ?_⟩ <;> unfold encLdnc <;> omega

theorem EncodedSize.stnc (d : Opnd) (a : Opnd) (o : BitVec 9) : EncodedSize.Statement (Instr.stnc d a o) := by
  intro n w h; cases h
  have := num_lt d
  have := num_lt a
  have := o.isLt
  refine Or.inl ⟨rfl, ?_, ?_⟩ <;> unfold encStnc <;> omega

theorem EncodedSize.drain (d : Opnd) : EncodedSize.Statement (Instr.drain d) := by
  intro n w h; cases h
  have := num_lt d
  refine Or.inl ⟨rfl, ?_, ?_⟩ <;> unfold encDrain <;> omega

theorem EncodedSize.chkb (p : BitVec 3) (a : Opnd) (b : Opnd) : EncodedSize.Statement (Instr.chkb p a b) := by
  intro n w h; cases h
  have := p.isLt
  have := num_lt a
  have := num_lt b
  refine Or.inl ⟨rfl, ?_, ?_⟩ <;> unfold encChkb <;> omega

theorem EncodedSize.slclm (a : Opnd) (b : Opnd) : EncodedSize.Statement (Instr.slclm a b) := by
  intro n w h; cases h
  have := num_lt a
  have := num_lt b
  refine Or.inl ⟨rfl, ?_, ?_⟩ <;> unfold encSlclm <;> omega

theorem EncodedSize.slrel (a : Opnd) (b : Opnd) : EncodedSize.Statement (Instr.slrel a b) := by
  intro n w h; cases h
  have := num_lt a
  have := num_lt b
  refine Or.inl ⟨rfl, ?_, ?_⟩ <;> unfold encSlrel <;> omega

theorem EncodedSize.sltst (p : BitVec 3) (a : Opnd) (b : Opnd) : EncodedSize.Statement (Instr.sltst p a b) := by
  intro n w h; cases h
  have := p.isLt
  have := num_lt a
  have := num_lt b
  refine Or.inl ⟨rfl, ?_, ?_⟩ <;> unfold encSltst <;> omega

theorem EncodedSize.mshp (n : BitVec 4) (x : BitVec 3) (h : BitVec 3) (r : BitVec 4) (f : BitVec 3) : EncodedSize.Statement (Instr.mshp n x h r f) := by
  intro n w h; cases h
  have := n.isLt
  have := x.isLt
  have := h.isLt
  have := r.isLt
  have := f.isLt
  refine Or.inl ⟨rfl, ?_, ?_⟩ <;> unfold encMshp <;> omega

theorem EncodedSize.tld (n : BitVec 4) (b : BitVec 2) : EncodedSize.Statement (Instr.tld n b) := by
  intro n w h; cases h
  have := n.isLt
  have := b.isLt
  refine Or.inl ⟨rfl, ?_, ?_⟩ <;> unfold encTld <;> omega

theorem EncodedSize.tstTile (n : BitVec 4) (b : BitVec 2) : EncodedSize.Statement (Instr.tstTile n b) := by
  intro n w h; cases h
  have := n.isLt
  have := b.isLt
  refine Or.inl ⟨rfl, ?_, ?_⟩ <;> unfold encTstTile <;> omega

theorem EncodedSize.tstAcc (k : BitVec 3) (f : BitVec 3) (b : BitVec 2) : EncodedSize.Statement (Instr.tstAcc k f b) := by
  intro n w h; cases h
  have := k.isLt
  have := f.isLt
  have := b.isLt
  refine Or.inl ⟨rfl, ?_, ?_⟩ <;> unfold encTstAcc <;> omega

theorem EncodedSize.tzero (n : BitVec 4) : EncodedSize.Statement (Instr.tzero n) := by
  intro n w h; cases h
  have := n.isLt
  refine Or.inl ⟨rfl, ?_, ?_⟩ <;> unfold encTzero <;> omega

theorem EncodedSize.ttr (s : BitVec 4) (d : BitVec 4) (y : BitVec 2) (x : BitVec 2) : EncodedSize.Statement (Instr.ttr s d y x) := by
  intro n w h; cases h
  have := s.isLt
  have := d.isLt
  have := y.isLt
  have := x.isLt
  refine Or.inl ⟨rfl, ?_, ?_⟩ <;> unfold encTtr <;> omega

theorem EncodedSize.mskr (n : BitVec 4) (m : BitVec 4) (f : BitVec 2) : EncodedSize.Statement (Instr.mskr n m f) := by
  intro n w h; cases h
  have := n.isLt
  have := m.isLt
  have := f.isLt
  refine Or.inl ⟨rfl, ?_, ?_⟩ <;> unfold encMskr <;> omega

theorem EncodedSize.mmq2 (a : BitVec 4) (b : BitVec 4) (k : BitVec 3) : EncodedSize.Statement (Instr.mmq2 a b k) := by
  intro n w h; cases h
  have := a.isLt
  have := b.isLt
  have := k.isLt
  refine Or.inl ⟨rfl, ?_, ?_⟩ <;> unfold encMmq2 <;> omega

theorem EncodedSize.mmq4 (a : BitVec 4) (b : BitVec 4) (k : BitVec 3) : EncodedSize.Statement (Instr.mmq4 a b k) := by
  intro n w h; cases h
  have := a.isLt
  have := b.isLt
  have := k.isLt
  refine Or.inl ⟨rfl, ?_, ?_⟩ <;> unfold encMmq4 <;> omega

theorem EncodedSize.mmq7 (a : BitVec 4) (b : BitVec 4) (k : BitVec 3) : EncodedSize.Statement (Instr.mmq7 a b k) := by
  intro n w h; cases h
  have := a.isLt
  have := b.isLt
  have := k.isLt
  refine Or.inl ⟨rfl, ?_, ?_⟩ <;> unfold encMmq7 <;> omega

theorem EncodedSize.mmi8 (a : BitVec 4) (b : BitVec 4) (k : BitVec 3) : EncodedSize.Statement (Instr.mmi8 a b k) := by
  intro n w h; cases h
  have := a.isLt
  have := b.isLt
  have := k.isLt
  refine Or.inl ⟨rfl, ?_, ?_⟩ <;> unfold encMmi8 <;> omega

theorem EncodedSize.mmh (a : BitVec 4) (b : BitVec 4) (k : BitVec 3) : EncodedSize.Statement (Instr.mmh a b k) := by
  intro n w h; cases h
  have := a.isLt
  have := b.isLt
  have := k.isLt
  refine Or.inl ⟨rfl, ?_, ?_⟩ <;> unfold encMmh <;> omega

theorem EncodedSize.mmb (a : BitVec 4) (b : BitVec 4) (k : BitVec 3) : EncodedSize.Statement (Instr.mmb a b k) := by
  intro n w h; cases h
  have := a.isLt
  have := b.isLt
  have := k.isLt
  refine Or.inl ⟨rfl, ?_, ?_⟩ <;> unfold encMmb <;> omega

theorem EncodedSize.sca (a : BitVec 4) (b : BitVec 4) (k : BitVec 3) : EncodedSize.Statement (Instr.sca a b k) := by
  intro n w h; cases h
  have := a.isLt
  have := b.isLt
  have := k.isLt
  refine Or.inl ⟨rfl, ?_, ?_⟩ <;> unfold encSca <;> omega

theorem EncodedSize.scai (a : BitVec 4) (b : BitVec 4) (k : BitVec 3) (j : BitVec 4) (i : BitVec 4) : EncodedSize.Statement (Instr.scai a b k j i) := by
  intro n w h; cases h
  have := a.isLt
  have := b.isLt
  have := k.isLt
  have := j.isLt
  have := i.isLt
  refine Or.inl ⟨rfl, ?_, ?_⟩ <;> unfold encScai <;> omega

theorem EncodedSize.aclr (k : BitVec 3) (l : BitVec 1) : EncodedSize.Statement (Instr.aclr k l) := by
  intro n w h; cases h
  have := k.isLt
  have := l.isLt
  refine Or.inl ⟨rfl, ?_, ?_⟩ <;> unfold encAclr <;> omega

theorem EncodedSize.ajoin (k : BitVec 3) (s : BitVec 2) : EncodedSize.Statement (Instr.ajoin k s) := by
  intro n w h; cases h
  have := k.isLt
  have := s.isLt
  refine Or.inl ⟨rfl, ?_, ?_⟩ <;> unfold encAjoin <;> omega

theorem EncodedSize.acpy (k : BitVec 3) (s : BitVec 2) : EncodedSize.Statement (Instr.acpy k s) := by
  intro n w h; cases h
  have := k.isLt
  have := s.isLt
  refine Or.inl ⟨rfl, ?_, ?_⟩ <;> unfold encAcpy <;> omega

theorem EncodedSize.aout (n : BitVec 4) (k : BitVec 3) (h : BitVec 1) (f : BitVec 1) : EncodedSize.Statement (Instr.aout n k h f) := by
  intro n w h; cases h
  have := n.isLt
  have := k.isLt
  have := h.isLt
  have := f.isLt
  refine Or.inl ⟨rfl, ?_, ?_⟩ <;> unfold encAout <;> omega

theorem EncodedSize.ain (k : BitVec 3) (b : BitVec 2) : EncodedSize.Statement (Instr.ain k b) := by
  intro n w h; cases h
  have := k.isLt
  have := b.isLt
  refine Or.inl ⟨rfl, ?_, ?_⟩ <;> unfold encAin <;> omega

theorem EncodedSize.ard (k : BitVec 3) (x : BitVec 1) (p : BitVec 2) (c : BitVec 1) (i : BitVec 4) : EncodedSize.Statement (Instr.ard k x p c i) := by
  intro n w h; cases h
  have := k.isLt
  have := x.isLt
  have := p.isLt
  have := c.isLt
  have := i.isLt
  refine Or.inl ⟨rfl, ?_, ?_⟩ <;> unfold encArd <;> omega

theorem EncodedSize.srtcfg (r : BitVec 8) (d : BitVec 1) (k : BitVec 2) : EncodedSize.Statement (Instr.srtcfg r d k) := by
  intro n w h; cases h
  have := r.isLt
  have := d.isLt
  have := k.isLt
  refine Or.inl ⟨rfl, ?_, ?_⟩ <;> unfold encSrtcfg <;> omega

theorem EncodedSize.srtk (n : BitVec 4) : EncodedSize.Statement (Instr.srtk n) := by
  intro n w h; cases h
  have := n.isLt
  refine Or.inl ⟨rfl, ?_, ?_⟩ <;> unfold encSrtk <;> omega

theorem EncodedSize.srtf (x : BitVec 1) (i : BitVec 4) (q : BitVec 2) (p : BitVec 2) : EncodedSize.Statement (Instr.srtf x i q p) := by
  intro n w h; cases h
  have := x.isLt
  have := i.isLt
  have := q.isLt
  have := p.isLt
  refine Or.inl ⟨rfl, ?_, ?_⟩ <;> unfold encSrtf <;> omega

theorem EncodedSize.tfeat (n : BitVec 4) (g : BitVec 1) : EncodedSize.Statement (Instr.tfeat n g) := by
  intro n w h; cases h
  have := n.isLt
  have := g.isLt
  refine Or.inl ⟨rfl, ?_, ?_⟩ <;> unfold encTfeat <;> omega

theorem EncodedSize.send (p : BitVec 2) (s : Opnd) (t : BitVec 3) (m : BitVec 8) (f : BitVec 3) : EncodedSize.Statement (Instr.send p s t m f) := by
  intro n w h; cases h
  have := p.isLt
  have := num_lt s
  have := t.isLt
  have := m.isLt
  have := f.isLt
  refine Or.inl ⟨rfl, ?_, ?_⟩ <;> unfold encSend <;> omega

theorem EncodedSize.sende (p : BitVec 2) (t : BitVec 3) (m : BitVec 8) (l : BitVec 3) : EncodedSize.Statement (Instr.sende p t m l) := by
  intro n w h; cases h
  have := p.isLt
  have := t.isLt
  have := m.isLt
  have := l.isLt
  refine Or.inl ⟨rfl, ?_, ?_⟩ <;> unfold encSende <;> omega

theorem EncodedSize.sendm (p : BitVec 2) (s : Opnd) (t : BitVec 3) (m : BitVec 8) (f : BitVec 3) : EncodedSize.Statement (Instr.sendm p s t m f) := by
  intro n w h; cases h
  have := p.isLt
  have := num_lt s
  have := t.isLt
  have := m.isLt
  have := f.isLt
  refine Or.inl ⟨rfl, ?_, ?_⟩ <;> unfold encSendm <;> omega

theorem EncodedSize.steer (p : BitVec 2) (s : Opnd) (t : BitVec 3) (m : BitVec 8) (f : BitVec 3) : EncodedSize.Statement (Instr.steer p s t m f) := by
  intro n w h; cases h
  have := p.isLt
  have := num_lt s
  have := t.isLt
  have := m.isLt
  have := f.isLt
  refine Or.inl ⟨rfl, ?_, ?_⟩ <;> unfold encSteer <;> omega

theorem EncodedSize.merge (p : BitVec 2) (s : BitVec 2) (t : BitVec 3) (m : BitVec 8) (f : BitVec 3) : EncodedSize.Statement (Instr.merge p s t m f) := by
  intro n w h; cases h
  have := p.isLt
  have := s.isLt
  have := t.isLt
  have := m.isLt
  have := f.isLt
  refine Or.inl ⟨rfl, ?_, ?_⟩ <;> unfold encMerge <;> omega

theorem EncodedSize.loopc (p : BitVec 2) (s : Opnd) (t : BitVec 3) (m : BitVec 8) (f : BitVec 3) : EncodedSize.Statement (Instr.loopc p s t m f) := by
  intro n w h; cases h
  have := p.isLt
  have := num_lt s
  have := t.isLt
  have := m.isLt
  have := f.isLt
  refine Or.inl ⟨rfl, ?_, ?_⟩ <;> unfold encLoopc <;> omega

theorem EncodedSize.tagn (d : Opnd) (p : BitVec 2) : EncodedSize.Statement (Instr.tagn d p) := by
  intro n w h; cases h
  have := num_lt d
  have := p.isLt
  refine Or.inl ⟨rfl, ?_, ?_⟩ <;> unfold encTagn <;> omega

theorem EncodedSize.falloc (d : Opnd) (p : BitVec 2) (b : Opnd) : EncodedSize.Statement (Instr.falloc d p b) := by
  intro n w h; cases h
  have := num_lt d
  have := p.isLt
  have := num_lt b
  refine Or.inl ⟨rfl, ?_, ?_⟩ <;> unfold encFalloc <;> omega

theorem EncodedSize.ffree (d : Opnd) (a : Opnd) : EncodedSize.Statement (Instr.ffree d a) := by
  intro n w h; cases h
  have := num_lt d
  have := num_lt a
  refine Or.inl ⟨rfl, ?_, ?_⟩ <;> unfold encFfree <;> omega

theorem EncodedSize.tspawn (p : BitVec 3) (a : Opnd) (b : Opnd) : EncodedSize.Statement (Instr.tspawn p a b) := by
  intro n w h; cases h
  have := p.isLt
  have := num_lt a
  have := num_lt b
  refine Or.inl ⟨rfl, ?_, ?_⟩ <;> unfold encTspawn <;> omega

theorem EncodedSize.tdec (a : Opnd) (b : Opnd) : EncodedSize.Statement (Instr.tdec a b) := by
  intro n w h; cases h
  have := num_lt a
  have := num_lt b
  refine Or.inl ⟨rfl, ?_, ?_⟩ <;> unfold encTdec <;> omega

theorem EncodedSize.evset (d : Opnd) (a : Opnd) (b : Opnd) : EncodedSize.Statement (Instr.evset d a b) := by
  intro n w h; cases h
  have := num_lt d
  have := num_lt a
  have := num_lt b
  refine Or.inl ⟨rfl, ?_, ?_⟩ <;> unfold encEvset <;> omega

theorem EncodedSize.evclr (d : Opnd) (a : Opnd) (b : Opnd) : EncodedSize.Statement (Instr.evclr d a b) := by
  intro n w h; cases h
  have := num_lt d
  have := num_lt a
  have := num_lt b
  refine Or.inl ⟨rfl, ?_, ?_⟩ <;> unfold encEvclr <;> omega

theorem EncodedSize.permit (a : Opnd) (b : Opnd) : EncodedSize.Statement (Instr.permit a b) := by
  intro n w h; cases h
  have := num_lt a
  have := num_lt b
  refine Or.inl ⟨rfl, ?_, ?_⟩ <;> unfold encPermit <;> omega

theorem EncodedSize.rays (p : BitVec 2) (a : Opnd) (b : Opnd) : EncodedSize.Statement (Instr.rays p a b) := by
  intro n w h; cases h
  have := p.isLt
  have := num_lt a
  have := num_lt b
  refine Or.inl ⟨rfl, ?_, ?_⟩ <;> unfold encRays <;> omega

theorem EncodedSize.fglk (p : BitVec 2) (a : Opnd) (b : Opnd) : EncodedSize.Statement (Instr.fglk p a b) := by
  intro n w h; cases h
  have := p.isLt
  have := num_lt a
  have := num_lt b
  refine Or.inl ⟨rfl, ?_, ?_⟩ <;> unfold encFglk <;> omega

theorem EncodedSize.blnd (d : Opnd) (a : Opnd) (b : Opnd) (q : BitVec 2) : EncodedSize.Statement (Instr.blnd d a b q) := by
  intro n w h; cases h
  have := num_lt d
  have := num_lt a
  have := num_lt b
  have := q.isLt
  refine Or.inl ⟨rfl, ?_, ?_⟩ <;> unfold encBlnd <;> omega

theorem EncodedSize.ztst (d : Opnd) (a : Opnd) (b : Opnd) (q : BitVec 2) : EncodedSize.Statement (Instr.ztst d a b q) := by
  intro n w h; cases h
  have := num_lt d
  have := num_lt a
  have := num_lt b
  have := q.isLt
  refine Or.inl ⟨rfl, ?_, ?_⟩ <;> unfold encZtst <;> omega

theorem EncodedSize.binapp (d : Opnd) (a : Opnd) (b : Opnd) : EncodedSize.Statement (Instr.binapp d a b) := by
  intro n w h; cases h
  have := num_lt d
  have := num_lt a
  have := num_lt b
  refine Or.inl ⟨rfl, ?_, ?_⟩ <;> unfold encBinapp <;> omega

theorem EncodedSize.edge (d : BitVec 3) (a : Opnd) (b : Opnd) (q : BitVec 2) : EncodedSize.Statement (Instr.edge d a b q) := by
  intro n w h; cases h
  have := d.isLt
  have := num_lt a
  have := num_lt b
  have := q.isLt
  refine Or.inl ⟨rfl, ?_, ?_⟩ <;> unfold encEdge <;> omega

theorem EncodedSize.attr (d : Opnd) (a : BitVec 3) (b : Opnd) (q : BitVec 2) : EncodedSize.Statement (Instr.attr d a b q) := by
  intro n w h; cases h
  have := num_lt d
  have := a.isLt
  have := num_lt b
  have := q.isLt
  refine Or.inl ⟨rfl, ?_, ?_⟩ <;> unfold encAttr <;> omega

theorem EncodedSize.occq (d : Opnd) (a : Opnd) (b : Opnd) : EncodedSize.Statement (Instr.occq d a b) := by
  intro n w h; cases h
  have := num_lt d
  have := num_lt a
  have := num_lt b
  refine Or.inl ⟨rfl, ?_, ?_⟩ <;> unfold encOccq <;> omega

theorem EncodedSize.seqn (d : Opnd) (a : Opnd) : EncodedSize.Statement (Instr.seqn d a) := by
  intro n w h; cases h
  have := num_lt d
  have := num_lt a
  refine Or.inl ⟨rfl, ?_, ?_⟩ <;> unfold encSeqn <;> omega

theorem EncodedSize.iscfg (a : Opnd) (b : Opnd) : EncodedSize.Statement (Instr.iscfg a b) := by
  intro n w h; cases h
  have := num_lt a
  have := num_lt b
  refine Or.inl ⟨rfl, ?_, ?_⟩ <;> unfold encIscfg <;> omega

theorem EncodedSize.trap (a : Opnd) : EncodedSize.Statement (Instr.trap a) := by
  intro n w h; cases h
  have := num_lt a
  refine Or.inl ⟨rfl, ?_, ?_⟩ <;> unfold encTrap <;> omega

theorem EncodedSize.tret (a : Opnd) : EncodedSize.Statement (Instr.tret a) := by
  intro n w h; cases h
  have := num_lt a
  refine Or.inl ⟨rfl, ?_, ?_⟩ <;> unfold encTret <;> omega

theorem EncodedSize.csrr (d : Opnd) (n : BitVec 12) : EncodedSize.Statement (Instr.csrr d n) := by
  intro n w h; cases h
  have := num_lt d
  have := n.isLt
  refine Or.inl ⟨rfl, ?_, ?_⟩ <;> unfold encCsrr <;> omega

theorem EncodedSize.csrw (d : Opnd) (n : BitVec 12) : EncodedSize.Statement (Instr.csrw d n) := by
  intro n w h; cases h
  have := num_lt d
  have := n.isLt
  refine Or.inl ⟨rfl, ?_, ?_⟩ <;> unfold encCsrw <;> omega

theorem EncodedSize.emrd (d : Opnd) (a : Opnd) (b : Opnd) : EncodedSize.Statement (Instr.emrd d a b) := by
  intro n w h; cases h
  have := num_lt d
  have := num_lt a
  have := num_lt b
  refine Or.inl ⟨rfl, ?_, ?_⟩ <;> unfold encEmrd <;> omega

theorem EncodedSize.eqt (p : BitVec 3) (a : Opnd) (b : Opnd) : EncodedSize.Statement (Instr.eqt p a b) := by
  intro n w h; cases h
  have := p.isLt
  have := num_lt a
  have := num_lt b
  refine Or.inl ⟨rfl, ?_, ?_⟩ <;> unfold encEqt <;> omega

theorem EncodedSize.cBr (p : BitVec 3) (n : BitVec 1) (o : BitVec 6) : EncodedSize.Statement (Instr.cBr p n o) := by
  intro n w h; cases h
  have := p.isLt
  have := n.isLt
  have := o.isLt
  refine Or.inr ⟨rfl, ?_⟩; unfold encCBr; omega

theorem EncodedSize.cLoopi (n : BitVec 5) (l : BitVec 5) : EncodedSize.Statement (Instr.cLoopi n l) := by
  intro n w h; cases h
  have := n.isLt
  have := l.isLt
  refine Or.inr ⟨rfl, ?_⟩; unfold encCLoopi; omega

theorem EncodedSize.cMov (x : BitVec 5) (y : BitVec 5) : EncodedSize.Statement (Instr.cMov x y) := by
  intro n w h; cases h
  have := x.isLt
  have := y.isLt
  refine Or.inr ⟨rfl, ?_⟩; unfold encCMov; omega

theorem EncodedSize.cLi (x : BitVec 5) (y : BitVec 5) : EncodedSize.Statement (Instr.cLi x y) := by
  intro n w h; cases h
  have := x.isLt
  have := y.isLt
  refine Or.inr ⟨rfl, ?_⟩; unfold encCLi; omega

theorem EncodedSize.cAdd (x : BitVec 5) (y : BitVec 5) : EncodedSize.Statement (Instr.cAdd x y) := by
  intro n w h; cases h
  have := x.isLt
  have := y.isLt
  refine Or.inr ⟨rfl, ?_⟩; unfold encCAdd; omega

theorem EncodedSize.cSub (x : BitVec 5) (y : BitVec 5) : EncodedSize.Statement (Instr.cSub x y) := by
  intro n w h; cases h
  have := x.isLt
  have := y.isLt
  refine Or.inr ⟨rfl, ?_⟩; unfold encCSub; omega

theorem EncodedSize.cAddi (x : BitVec 5) (y : BitVec 5) : EncodedSize.Statement (Instr.cAddi x y) := by
  intro n w h; cases h
  have := x.isLt
  have := y.isLt
  refine Or.inr ⟨rfl, ?_⟩; unfold encCAddi; omega

theorem EncodedSize.cAnd (x : BitVec 5) (y : BitVec 5) : EncodedSize.Statement (Instr.cAnd x y) := by
  intro n w h; cases h
  have := x.isLt
  have := y.isLt
  refine Or.inr ⟨rfl, ?_⟩; unfold encCAnd; omega

theorem EncodedSize.cOr (x : BitVec 5) (y : BitVec 5) : EncodedSize.Statement (Instr.cOr x y) := by
  intro n w h; cases h
  have := x.isLt
  have := y.isLt
  refine Or.inr ⟨rfl, ?_⟩; unfold encCOr; omega

theorem EncodedSize.cXor (x : BitVec 5) (y : BitVec 5) : EncodedSize.Statement (Instr.cXor x y) := by
  intro n w h; cases h
  have := x.isLt
  have := y.isLt
  refine Or.inr ⟨rfl, ?_⟩; unfold encCXor; omega

theorem EncodedSize.cShli (x : BitVec 5) (y : BitVec 5) : EncodedSize.Statement (Instr.cShli x y) := by
  intro n w h; cases h
  have := x.isLt
  have := y.isLt
  refine Or.inr ⟨rfl, ?_⟩; unfold encCShli; omega

theorem EncodedSize.cShri (x : BitVec 5) (y : BitVec 5) : EncodedSize.Statement (Instr.cShri x y) := by
  intro n w h; cases h
  have := x.isLt
  have := y.isLt
  refine Or.inr ⟨rfl, ?_⟩; unfold encCShri; omega

theorem EncodedSize.cLdw (x : BitVec 5) (y : BitVec 5) : EncodedSize.Statement (Instr.cLdw x y) := by
  intro n w h; cases h
  have := x.isLt
  have := y.isLt
  refine Or.inr ⟨rfl, ?_⟩; unfold encCLdw; omega

theorem EncodedSize.cStw (x : BitVec 5) (y : BitVec 5) : EncodedSize.Statement (Instr.cStw x y) := by
  intro n w h; cases h
  have := x.isLt
  have := y.isLt
  refine Or.inr ⟨rfl, ?_⟩; unfold encCStw; omega

theorem EncodedSize.cSend (p : BitVec 2) (y : BitVec 5) : EncodedSize.Statement (Instr.cSend p y) := by
  intro n w h; cases h
  have := p.isLt
  have := y.isLt
  refine Or.inr ⟨rfl, ?_⟩; unfold encCSend; omega

theorem EncodedSize.cTget (x : BitVec 5) (y : BitVec 5) : EncodedSize.Statement (Instr.cTget x y) := by
  intro n w h; cases h
  have := x.isLt
  have := y.isLt
  refine Or.inr ⟨rfl, ?_⟩; unfold encCTget; omega

theorem EncodedSize.cVfadd (x : BitVec 4) (y : BitVec 4) : EncodedSize.Statement (Instr.cVfadd x y) := by
  intro n w h; cases h
  have := x.isLt
  have := y.isLt
  refine Or.inr ⟨rfl, ?_⟩; unfold encCVfadd; omega

theorem EncodedSize.cVfmul (x : BitVec 4) (y : BitVec 4) : EncodedSize.Statement (Instr.cVfmul x y) := by
  intro n w h; cases h
  have := x.isLt
  have := y.isLt
  refine Or.inr ⟨rfl, ?_⟩; unfold encCVfmul; omega

theorem EncodedSize.cVfma (x : BitVec 4) (y : BitVec 4) : EncodedSize.Statement (Instr.cVfma x y) := by
  intro n w h; cases h
  have := x.isLt
  have := y.isLt
  refine Or.inr ⟨rfl, ?_⟩; unfold encCVfma; omega

theorem EncodedSize.cVadd (x : BitVec 4) (y : BitVec 4) : EncodedSize.Statement (Instr.cVadd x y) := by
  intro n w h; cases h
  have := x.isLt
  have := y.isLt
  refine Or.inr ⟨rfl, ?_⟩; unfold encCVadd; omega

theorem EncodedSize.cFld (x : BitVec 5) (y : BitVec 5) : EncodedSize.Statement (Instr.cFld x y) := by
  intro n w h; cases h
  have := x.isLt
  have := y.isLt
  refine Or.inr ⟨rfl, ?_⟩; unfold encCFld; omega

theorem EncodedSize.cFst (x : BitVec 5) (y : BitVec 5) : EncodedSize.Statement (Instr.cFst x y) := by
  intro n w h; cases h
  have := x.isLt
  have := y.isLt
  refine Or.inr ⟨rfl, ?_⟩; unfold encCFst; omega

theorem EncodedSize.nop : EncodedSize.Statement Instr.nop := by
  intro n w h; cases h; decide

theorem EncodedSize.endFiring : EncodedSize.Statement Instr.endFiring := by
  intro n w h; cases h; decide

theorem EncodedSize.endfFiring : EncodedSize.Statement Instr.endfFiring := by
  intro n w h; cases h; decide

theorem EncodedSize.yield : EncodedSize.Statement Instr.yield := by
  intro n w h; cases h; decide

theorem EncodedSize.cNop : EncodedSize.Statement Instr.cNop := by
  intro n w h; cases h; decide

theorem EncodedSize.cEnd : EncodedSize.Statement Instr.cEnd := by
  intro n w h; cases h; decide

theorem EncodedSize.chartLoad : EncodedSize.Statement Instr.chartLoad := by
  intro n w h; cases h

theorem EncodedSize.chartLoadAck : EncodedSize.Statement Instr.chartLoadAck := by
  intro n w h; cases h

theorem EncodedSize.configTimeout : EncodedSize.Statement Instr.configTimeout := by
  intro n w h; cases h

theorem EncodedSize.startTokenDelivery : EncodedSize.Statement Instr.startTokenDelivery := by
  intro n w h; cases h

theorem EncodedSize.controlTokenTake : EncodedSize.Statement Instr.controlTokenTake := by
  intro n w h; cases h

theorem EncodedSize.tokenArrival : EncodedSize.Statement Instr.tokenArrival := by
  intro n w h; cases h

theorem EncodedSize.operandRetry : EncodedSize.Statement Instr.operandRetry := by
  intro n w h; cases h

theorem EncodedSize.poolSlotTimeout : EncodedSize.Statement Instr.poolSlotTimeout := by
  intro n w h; cases h

theorem EncodedSize.creditReturn : EncodedSize.Statement Instr.creditReturn := by
  intro n w h; cases h

theorem EncodedSize.firingAdmission : EncodedSize.Statement Instr.firingAdmission := by
  intro n w h; cases h

theorem EncodedSize.yieldBackoffExpiry : EncodedSize.Statement Instr.yieldBackoffExpiry := by
  intro n w h; cases h

theorem EncodedSize.xlateRecordPost : EncodedSize.Statement Instr.xlateRecordPost := by
  intro n w h; cases h

theorem EncodedSize.faultEdgeSend : EncodedSize.Statement Instr.faultEdgeSend := by
  intro n w h; cases h

theorem EncodedSize.memoryReply : EncodedSize.Statement Instr.memoryReply := by
  intro n w h; cases h

theorem EncodedSize.loadHomeRequest : EncodedSize.Statement Instr.loadHomeRequest := by
  intro n w h; cases h

theorem EncodedSize.ownershipRequest : EncodedSize.Statement Instr.ownershipRequest := by
  intro n w h; cases h

theorem EncodedSize.atomicHomeOperation : EncodedSize.Statement Instr.atomicHomeOperation := by
  intro n w h; cases h

theorem EncodedSize.bermWaitResume : EncodedSize.Statement Instr.bermWaitResume := by
  intro n w h; cases h

theorem EncodedSize.l2Fill : EncodedSize.Statement Instr.l2Fill := by
  intro n w h; cases h

theorem EncodedSize.fillWaitResume : EncodedSize.Statement Instr.fillWaitResume := by
  intro n w h; cases h

theorem EncodedSize.memoryChannelOperation : EncodedSize.Statement Instr.memoryChannelOperation := by
  intro n w h; cases h

theorem EncodedSize.unitSlotService : EncodedSize.Statement Instr.unitSlotService := by
  intro n w h; cases h

theorem EncodedSize.tideTableSwitch : EncodedSize.Statement Instr.tideTableSwitch := by
  intro n w h; cases h

theorem EncodedSize.hostWrite : EncodedSize.Statement Instr.hostWrite := by
  intro n w h; cases h

theorem EncodedSize.hostRead : EncodedSize.Statement Instr.hostRead := by
  intro n w h; cases h

theorem EncodedSize.hostSnoop : EncodedSize.Statement Instr.hostSnoop := by
  intro n w h; cases h

theorem EncodedSize.ingressDoorbellWrite : EncodedSize.Statement Instr.ingressDoorbellWrite := by
  intro n w h; cases h

theorem EncodedSize.ingressTokenDelivery : EncodedSize.Statement Instr.ingressTokenDelivery := by
  intro n w h; cases h

theorem EncodedSize.timestampRebase : EncodedSize.Statement Instr.timestampRebase := by
  intro n w h; cases h

theorem EncodedSize.tideSample : EncodedSize.Statement Instr.tideSample := by
  intro n w h; cases h

theorem EncodedSize.replicaRelease : EncodedSize.Statement Instr.replicaRelease := by
  intro n w h; cases h

theorem EncodedSize.configPatternWrite : EncodedSize.Statement Instr.configPatternWrite := by
  intro n w h; cases h

theorem EncodedSize.taskReady : EncodedSize.Statement Instr.taskReady := by
  intro n w h; cases h

theorem EncodedSize.computeTaskDispatch : EncodedSize.Statement Instr.computeTaskDispatch := by
  intro n w h; cases h

theorem EncodedSize.copyTaskDispatch : EncodedSize.Statement Instr.copyTaskDispatch := by
  intro n w h; cases h

theorem EncodedSize.bteCommandStart : EncodedSize.Statement Instr.bteCommandStart := by
  intro n w h; cases h

theorem EncodedSize.engineWrite : EncodedSize.Statement Instr.engineWrite := by
  intro n w h; cases h

theorem EncodedSize.btePassMark : EncodedSize.Statement Instr.btePassMark := by
  intro n w h; cases h

theorem EncodedSize.bteCommandComplete : EncodedSize.Statement Instr.bteCommandComplete := by
  intro n w h; cases h

theorem EncodedSize.egressEntryWrite : EncodedSize.Statement Instr.egressEntryWrite := by
  intro n w h; cases h

theorem EncodedSize.accessRetry : EncodedSize.Statement Instr.accessRetry := by
  intro n w h; cases h

theorem EncodedSize.pageWalk : EncodedSize.Statement Instr.pageWalk := by
  intro n w h; cases h

theorem EncodedSize.pageWalkComplete : EncodedSize.Statement Instr.pageWalkComplete := by
  intro n w h; cases h

theorem EncodedSize.invalidationComplete : EncodedSize.Statement Instr.invalidationComplete := by
  intro n w h; cases h

theorem EncodedSize.owedWriteLanding : EncodedSize.Statement Instr.owedWriteLanding := by
  intro n w h; cases h

theorem EncodedSize.loadWalkTile : EncodedSize.Statement Instr.loadWalkTile := by
  intro n w h; cases h

theorem EncodedSize.storeWalkTile : EncodedSize.Statement Instr.storeWalkTile := by
  intro n w h; cases h

theorem EncodedSize.haarWalkTile : EncodedSize.Statement Instr.haarWalkTile := by
  intro n w h; cases h

theorem EncodedSize.gridRequestTake : EncodedSize.Statement Instr.gridRequestTake := by
  intro n w h; cases h

theorem EncodedSize.gridBatchSend : EncodedSize.Statement Instr.gridBatchSend := by
  intro n w h; cases h

theorem EncodedSize.gridBatchArrival : EncodedSize.Statement Instr.gridBatchArrival := by
  intro n w h; cases h

theorem EncodedSize.frameAllocRequest : EncodedSize.Statement Instr.frameAllocRequest := by
  intro n w h; cases h

theorem EncodedSize.frameAllocReply : EncodedSize.Statement Instr.frameAllocReply := by
  intro n w h; cases h

theorem EncodedSize.iscfgDescriptorWrite : EncodedSize.Statement Instr.iscfgDescriptorWrite := by
  intro n w h; cases h

theorem EncodedSize.rayNodeVisit : EncodedSize.Statement Instr.rayNodeVisit := by
  intro n w h; cases h

theorem EncodedSize.rayMigration : EncodedSize.Statement Instr.rayMigration := by
  intro n w h; cases h

theorem EncodedSize.batchOrderArrival : EncodedSize.Statement Instr.batchOrderArrival := by
  intro n w h; cases h

theorem EncodedSize.batchRetire : EncodedSize.Statement Instr.batchRetire := by
  intro n w h; cases h

theorem EncodedSize.occqArrival : EncodedSize.Statement Instr.occqArrival := by
  intro n w h; cases h

theorem EncodedSize.seqnResume : EncodedSize.Statement Instr.seqnResume := by
  intro n w h; cases h

theorem EncodedSize.frameSpaceResume : EncodedSize.Statement Instr.frameSpaceResume := by
  intro n w h; cases h

theorem EncodedSize.roundMarkerSend : EncodedSize.Statement Instr.roundMarkerSend := by
  intro n w h; cases h

theorem EncodedSize.laneRoundAdvance : EncodedSize.Statement Instr.laneRoundAdvance := by
  intro n w h; cases h

theorem EncodedSize.linkFlitRetry : EncodedSize.Statement Instr.linkFlitRetry := by
  intro n w h; cases h

theorem EncodedSize.linkTokenLost : EncodedSize.Statement Instr.linkTokenLost := by
  intro n w h; cases h

theorem EncodedSize.rollup : EncodedSize.Statement Instr.rollup := by
  intro n w h; cases h

theorem EncodedSize.rollupTokenSend : EncodedSize.Statement Instr.rollupTokenSend := by
  intro n w h; cases h

theorem EncodedSize.costTableRewrite : EncodedSize.Statement Instr.costTableRewrite := by
  intro n w h; cases h

theorem EncodedSize.governorWindow : EncodedSize.Statement Instr.governorWindow := by
  intro n w h; cases h

theorem EncodedSize.thermalLimit : EncodedSize.Statement Instr.thermalLimit := by
  intro n w h; cases h

theorem EncodedSize.thermalCapStep : EncodedSize.Statement Instr.thermalCapStep := by
  intro n w h; cases h

theorem EncodedSize.thermalShutdown : EncodedSize.Statement Instr.thermalShutdown := by
  intro n w h; cases h

theorem EncodedSize.partitionCreate : EncodedSize.Statement Instr.partitionCreate := by
  intro n w h; cases h

theorem EncodedSize.partitionEnter : EncodedSize.Statement Instr.partitionEnter := by
  intro n w h; cases h

theorem EncodedSize.partitionSwitch : EncodedSize.Statement Instr.partitionSwitch := by
  intro n w h; cases h

theorem EncodedSize.partitionFreeze : EncodedSize.Statement Instr.partitionFreeze := by
  intro n w h; cases h

theorem EncodedSize.freezeSave : EncodedSize.Statement Instr.freezeSave := by
  intro n w h; cases h

theorem EncodedSize.partitionDrain : EncodedSize.Statement Instr.partitionDrain := by
  intro n w h; cases h

theorem EncodedSize.drainComplete : EncodedSize.Statement Instr.drainComplete := by
  intro n w h; cases h

theorem EncodedSize.drainTimeout : EncodedSize.Statement Instr.drainTimeout := by
  intro n w h; cases h

theorem EncodedSize.partitionResume : EncodedSize.Statement Instr.partitionResume := by
  intro n w h; cases h

theorem EncodedSize.partitionResize : EncodedSize.Statement Instr.partitionResize := by
  intro n w h; cases h

theorem EncodedSize.partitionRelease : EncodedSize.Statement Instr.partitionRelease := by
  intro n w h; cases h

theorem EncodedSize.coveScrubEnd : EncodedSize.Statement Instr.coveScrubEnd := by
  intro n w h; cases h

theorem EncodedSize.vfReset : EncodedSize.Statement Instr.vfReset := by
  intro n w h; cases h

theorem EncodedSize.vfFlr : EncodedSize.Statement Instr.vfFlr := by
  intro n w h; cases h

theorem EncodedSize.privVfRead : EncodedSize.Statement Instr.privVfRead := by
  intro n w h; cases h

theorem EncodedSize.privVfWrite : EncodedSize.Statement Instr.privVfWrite := by
  intro n w h; cases h

theorem EncodedSize.privGrantWrite : EncodedSize.Statement Instr.privGrantWrite := by
  intro n w h; cases h

theorem EncodedSize.privMapbWrite : EncodedSize.Statement Instr.privMapbWrite := by
  intro n w h; cases h

theorem EncodedSize.privPartitionRead : EncodedSize.Statement Instr.privPartitionRead := by
  intro n w h; cases h

theorem EncodedSize.privCoveMapRead : EncodedSize.Statement Instr.privCoveMapRead := by
  intro n w h; cases h

theorem EncodedSize.privTideRead : EncodedSize.Statement Instr.privTideRead := by
  intro n w h; cases h

theorem EncodedSize.privTideWrite : EncodedSize.Statement Instr.privTideWrite := by
  intro n w h; cases h

theorem EncodedSize.privKeyQuery : EncodedSize.Statement Instr.privKeyQuery := by
  intro n w h; cases h

theorem EncodedSize.privCostRead : EncodedSize.Statement Instr.privCostRead := by
  intro n w h; cases h

theorem EncodedSize.privInvalidate : EncodedSize.Statement Instr.privInvalidate := by
  intro n w h; cases h

theorem EncodedSize.hostTlbInvalidate : EncodedSize.Statement Instr.hostTlbInvalidate := by
  intro n w h; cases h

theorem EncodedSize.msixTableWrite : EncodedSize.Statement Instr.msixTableWrite := by
  intro n w h; cases h

theorem EncodedSize.hostRegisterWrite : EncodedSize.Statement Instr.hostRegisterWrite := by
  intro n w h; cases h

theorem EncodedSize.resync : EncodedSize.Statement Instr.resync := by
  intro n w h; cases h

theorem EncodedSize.pfDeviceReset : EncodedSize.Statement Instr.pfDeviceReset := by
  intro n w h; cases h

theorem EncodedSize.firmwareUpdate : EncodedSize.Statement Instr.firmwareUpdate := by
  intro n w h; cases h

theorem EncodedSize.pfUnknownCommand : EncodedSize.Statement Instr.pfUnknownCommand := by
  intro n w h; cases h

theorem EncodedSize.deviceReset : EncodedSize.Statement Instr.deviceReset := by
  intro n w h; cases h

theorem EncodedSize.getVersion : EncodedSize.Statement Instr.getVersion := by
  intro n w h; cases h

theorem EncodedSize.getCapabilities : EncodedSize.Statement Instr.getCapabilities := by
  intro n w h; cases h

theorem EncodedSize.negotiateAlgorithms : EncodedSize.Statement Instr.negotiateAlgorithms := by
  intro n w h; cases h

theorem EncodedSize.getDigests : EncodedSize.Statement Instr.getDigests := by
  intro n w h; cases h

theorem EncodedSize.getCertificate : EncodedSize.Statement Instr.getCertificate := by
  intro n w h; cases h

theorem EncodedSize.challenge : EncodedSize.Statement Instr.challenge := by
  intro n w h; cases h

theorem EncodedSize.getMeasurements : EncodedSize.Statement Instr.getMeasurements := by
  intro n w h; cases h

theorem EncodedSize.keyExchange : EncodedSize.Statement Instr.keyExchange := by
  intro n w h; cases h

theorem EncodedSize.finish : EncodedSize.Statement Instr.finish := by
  intro n w h; cases h

theorem EncodedSize.managementCoreFault : EncodedSize.Statement Instr.managementCoreFault := by
  intro n w h; cases h

theorem EncodedSize.cxlLinkTraining : EncodedSize.Statement Instr.cxlLinkTraining := by
  intro n w h; cases h

theorem EncodedSize.portRetrain : EncodedSize.Statement Instr.portRetrain := by
  intro n w h; cases h

theorem EncodedSize.vfEnable : EncodedSize.Statement Instr.vfEnable := by
  intro n w h; cases h

end Sys2Proof.Laws
end

