-- ==== Sys2Proof/Laws/Run.lean ====
section
/-! SUPPORT. What running an instruction of a firing does: the runners, the charge of an instruction, and what a charge
changes. -/

namespace Sys2Proof.Machine

/-! ## Charges -/

/-- What a charge changes: a tile's meter, its cove's roll-up totals, the energy of a die. -/
structure ChargeStep (s u : State) (t : Nat) : Prop where
  cfg : u.cfg = s.cfg
  mem : u.mem = s.mem
  net : u.net = s.net
  now : u.now = s.now
  agenda : u.agenda = s.agenda
  inputs : u.inputs = s.inputs
  tile : u.tile = s.tile
  slot : u.slot = s.slot
  ev : u.ev = s.ev
  free : u.free = s.free
  next : u.next = s.next
  tiles : ∀ k, k ≠ t → u.tileAt k = s.tileAt k
  own : ∃ m, u.tileAt t = { s.tileAt t with meter := m }
  coves : ∀ c, { u.coveAt c with flushed := [] } = { s.coveAt c with flushed := [] }
  hd : { u.hd with gov := [] } = { s.hd with gov := [] }

theorem ChargeStep.refl (s : State) (t : Nat) : ChargeStep s s t :=
  ⟨rfl, rfl, rfl, rfl, rfl, rfl, rfl, rfl, rfl, rfl, rfl, fun _ _ => rfl, ⟨_, rfl⟩, fun _ => rfl, rfl⟩

theorem ChargeStep.trans {s u v : State} {t : Nat} (h : ChargeStep s u t) (k : ChargeStep u v t) : ChargeStep s v t := by
  obtain ⟨m, hm⟩ := h.own
  obtain ⟨n, hn⟩ := k.own
  exact ⟨k.cfg.trans h.cfg, k.mem.trans h.mem, k.net.trans h.net, k.now.trans h.now, k.agenda.trans h.agenda, k.inputs.trans h.inputs,
    k.tile.trans h.tile, k.slot.trans h.slot, k.ev.trans h.ev, k.free.trans h.free, k.next.trans h.next,
    fun j hj => (k.tiles j hj).trans (h.tiles j hj), ⟨n, by rw [hn, hm]⟩, fun c => (k.coves c).trans (h.coves c), k.hd.trans h.hd⟩

theorem State.charge_step (s : State) (t cx c n : Nat) : ChargeStep s (s.charge t cx c n) t := by
  unfold State.charge
  dsimp only
  split
  · exact ChargeStep.refl s t
  · refine ⟨?_, ?_, ?_, ?_, ?_, ?_, ?_, ?_, ?_, ?_, ?_, ?_, ?_, ?_, ?_⟩
    all_goals (split <;> try rfl)
    · intro k hk; exact Map.get_set_other _ _ _ hk
    · intro k hk; exact Map.get_set_other _ _ _ hk
    · exact ⟨_, Map.get_set_same _ _ _ _⟩
    · exact ⟨_, Map.get_set_same _ _ _ _⟩
    · intro k; rfl
    · intro k
      change ({ (Map.get (Map.set _ {} _ _) {} k : Cove) with flushed := [] } : Cove) = _
      rw [Map.get_set]
      split
      · next h => subst h; rfl
      · rfl

theorem State.charges_step (s : State) (t cx : Nat) (l : List (Nat × Nat)) : ChargeStep s (s.charges t cx l) t := by
  unfold State.charges
  induction l generalizing s with
  | nil => exact ChargeStep.refl s t
  | cons e r ih => exact (State.charge_step s t cx e.1 e.2).trans (ih _)

theorem ChargeStep.firing {s u : State} {t : Nat} (h : ChargeStep s u t) (j k : Nat) : u.firing j k = s.firing j k := by
  unfold State.firing
  by_cases hj : j = t
  · subst hj
    obtain ⟨m, hm⟩ := h.own
    rw [hm]
  · rw [h.tiles j hj]

theorem ChargeStep.localTo {s u : State} {t : Nat} (h : ChargeStep s u t) : s.localTo u t :=
  ⟨h.mem, h.cfg, h.net, h.now, h.agenda, h.inputs, h.tiles, h.coves, h.hd⟩

/-! ## What an instruction sees -/

/-- The charge of an instruction changes nothing of its view but the meter. -/
theorem State.seen_eq (s : State) (f : Firing) (cls : Nat) :
    ∃ m, s.seen f cls = { s.view f with t := { (s.view f).t with meter := m } } := by
  have h := State.charge_step s s.tile f.cx.toNat cls 1
  obtain ⟨m, hm⟩ := h.own
  refine ⟨m, ?_⟩
  simp only [State.seen, State.view, h.tile, State.tcfg, State.berth, h.cfg, hm]

theorem View.src_meter (v : View) (m : Map Nat) (o : Opnd) : ({ v with t := { v.t with meter := m } } : View).src o = v.src o := by
  cases o <;> rfl

theorem View.vec_meter (v : View) (m : Map Nat) (o : Opnd) : ({ v with t := { v.t with meter := m } } : View).vec o = v.vec o := by
  cases o <;> rfl

@[simp] theorem State.seen_src (s : State) (f : Firing) (cls : Nat) (o : Opnd) : (s.seen f cls).src o = (s.view f).src o := by
  obtain ⟨m, hm⟩ := s.seen_eq f cls
  rw [hm, View.src_meter]

@[simp] theorem State.seen_vec (s : State) (f : Firing) (cls : Nat) (o : Opnd) : (s.seen f cls).vec o = (s.view f).vec o := by
  obtain ⟨m, hm⟩ := s.seen_eq f cls
  rw [hm, View.vec_meter]

@[simp] theorem State.seen_spatial (s : State) (f : Firing) (cls : Nat) (o : Opnd) :
    (s.seen f cls).spatial o = (s.view f).spatial o := by
  simp [View.spatial]

@[simp] theorem State.seen_f (s : State) (f : Firing) (cls : Nat) : (s.seen f cls).f = f := rfl

@[simp] theorem State.seen_mask (s : State) (f : Firing) (cls n : Nat) : (s.seen f cls).mask n = (s.view f).mask n := rfl

@[simp] theorem State.seen_pred (s : State) (f : Firing) (cls n : Nat) : (s.seen f cls).pred n = (s.view f).pred n := rfl

@[simp] theorem State.view_f (s : State) (f : Firing) : (s.view f).f = f := rfl

/-! ## Destinations -/

theorem View.takes_put {v : View} {d : Opnd} (h : v.takes d = true) (x : W32) : v.put d x = .ok (v.wrote d x) := by
  unfold View.takes at h
  unfold View.wrote
  have key : (∃ w, v.put d x = .ok w) := by
    cases d with
    | f n =>
      simp only [View.put, View.setSlot] at h ⊢
      split at h
      · next w he =>
        split at he
        · cases he
        · next hn => exact ⟨_, by rw [if_neg hn]⟩
      · cases h
    | o n =>
      simp only [View.put, View.vput] at h ⊢
      rw [if_neg (by decide)] at h ⊢
      split at h
      · next w he =>
        split at he
        · next hc =>
          rw [if_pos ⟨hc.1, hc.2⟩]
          cases hs : (Map.get v.f.o ({} : VReg) n.toNat).spatial with
          | error e => rw [hs] at he; cases he
          | ok p => exact ⟨_, rfl⟩
        · next hc => rw [if_neg hc]; exact ⟨_, rfl⟩
      · cases h
    | _ => exact ⟨_, rfl⟩
  obtain ⟨w, hw⟩ := key
  rw [hw]

/-! ## Runners -/

/-- A register instruction whose work succeeds. -/
theorem State.runView_ok {s : State} {f : Firing} {cls n : Nat} {g : View → Except Trap View} {v : View} (h : s.runs f)
    (hg : g (s.seen f cls) = .ok v) : s.runView cls n g = .next (s.ran f cls n v) := by
  unfold State.runs at h
  unfold State.seen at hg
  simp [State.runView, h, hg, State.ran]

/-- A register instruction whose work traps. -/
theorem State.runView_trap {s : State} {f : Firing} {cls n : Nat} {g : View → Except Trap View} {e : Trap} (h : s.runs f)
    (hg : g (s.seen f cls) = .error e) : s.runView cls n g = .next (s.trapped f cls e) := by
  unfold State.runs at h
  unfold State.seen at hg
  simp [State.runView, h, hg, State.trapped]

/-- All that a register instruction can do. -/
theorem State.runView_cases {s u : State} {cls n : Nat} {g : View → Except Trap View} (h : s.runView cls n g = .next u) :
    ∃ f, s.runs f ∧ ((∃ e, g (s.seen f cls) = .error e ∧ u = s.trapped f cls e)
      ∨ ∃ v, g (s.seen f cls) = .ok v ∧ u = s.ran f cls n v) := by
  unfold State.runView at h
  split at h
  · cases h
  · next f hf =>
    refine ⟨f, hf, ?_⟩
    dsimp only at h
    split at h
    · next e he => cases h; exact Or.inl ⟨e, he, rfl⟩
    · next v hv => cases h; exact Or.inr ⟨v, hv, rfl⟩

/-- An instruction that sets the pc and whose work succeeds. -/
theorem State.runJump_ok {s : State} {f : Firing} {cls : Nat} {g : View → Except Trap View} {v : View} (h : s.runs f)
    (hg : g (s.seen f cls) = .ok v) : s.runJump cls g = .next (s.jumped f cls v) := by
  unfold State.runs at h
  unfold State.seen at hg
  simp [State.runJump, h, hg, State.jumped]

/-- All that such an instruction can do. -/
theorem State.runJump_cases {s u : State} {cls : Nat} {g : View → Except Trap View} (h : s.runJump cls g = .next u) :
    ∃ f, s.runs f ∧ ((∃ e, g (s.seen f cls) = .error e ∧ u = s.trapped f cls e)
      ∨ ∃ v, g (s.seen f cls) = .ok v ∧ u = s.jumped f cls v) := by
  unfold State.runJump at h
  split at h
  · cases h
  · next f hf =>
    refine ⟨f, hf, ?_⟩
    dsimp only at h
    split at h
    · next e he => cases h; exact Or.inl ⟨e, he, rfl⟩
    · next v hv => cases h; exact Or.inr ⟨v, hv, rfl⟩

/-- An instruction that acts beyond its tile and whose work succeeds. -/
theorem State.runFiring_ok {s t : State} {f : Firing} {cls : Nat} {g : State → Firing → Except Trap State} (h : s.runs f)
    (hg : g (s.charge s.tile f.cx.toNat cls 1) f = .ok t) : s.runFiring cls g = .next t := by
  unfold State.runs at h
  simp [State.runFiring, h, hg]

/-- All that such an instruction can do. -/
theorem State.runFiring_cases {s u : State} {cls : Nat} {g : State → Firing → Except Trap State} (h : s.runFiring cls g = .next u) :
    ∃ f, s.runs f ∧ ((∃ e, g (s.charge s.tile f.cx.toNat cls 1) f = .error e ∧ u = s.trapped f cls e)
      ∨ g (s.charge s.tile f.cx.toNat cls 1) f = .ok u) := by
  unfold State.runFiring at h
  split at h
  · cases h
  · next f hf =>
    refine ⟨f, hf, ?_⟩
    dsimp only at h
    split at h
    · next e he => cases h; exact Or.inl ⟨e, he, rfl⟩
    · next v hv => cases h; exact Or.inr hv

/-- What a written-back view leaves unchanged. -/
theorem State.ran_mem (s : State) (f : Firing) (cls n : Nat) (v : View) : (s.ran f cls n v).mem = s.mem := by
  unfold State.ran State.writeBack
  rw [(State.charges_step _ _ _ _).mem, State.setTile_mem, (State.charge_step _ _ _ _ _).mem]

theorem State.ran_cfg (s : State) (f : Firing) (cls n : Nat) (v : View) : (s.ran f cls n v).cfg = s.cfg := by
  unfold State.ran State.writeBack
  rw [(State.charges_step _ _ _ _).cfg, State.setTile_cfg, (State.charge_step _ _ _ _ _).cfg]

/-- The firing after a register instruction. -/
theorem State.ran_firing (s : State) (f : Firing) (cls n : Nat) (v : View) :
    (s.ran f cls n v).firing s.tile s.slot = some (v.f.advance n) := by
  unfold State.ran State.writeBack
  have h := State.charge_step s s.tile f.cx.toNat cls 1
  rw [(State.charges_step _ _ _ _).firing, h.tile]
  simp [State.firing, Map.look_put, h.slot]

end Sys2Proof.Machine
end

