-- ==== Sys2Proof/Laws/Shared.lean ====
section
/-! SUPPORT. What the shared operations of memory, matrix and partition instructions do, each said once. -/

namespace Sys2Proof.Machine

/-! ## Memory instructions -/

/-- A memory instruction whose sources are read starts its access. -/
theorem State.memory_ok {s : State} {f : Firing} {cls adv : Nat} {g : View → Except Trap (View × Job)} {v : View} {j : Job}
    (h : s.runs f) (hg : g (s.seen f cls) = .ok (v, j)) :
    s.memory cls adv g = .next (s.accesses f cls v { j with adv := adv }) := by
  have hc := State.charge_step s s.tile f.cx.toNat cls 1
  unfold State.memory
  refine State.runFiring_ok h ?_
  unfold State.seen at hg
  simp only [hg, bind, Except.bind]
  unfold State.accesses
  rw [hc.tile, hc.slot]

/-- A memory instruction whose sources cannot be read discards its firing. -/
theorem State.memory_trap {s : State} {f : Firing} {cls adv : Nat} {g : View → Except Trap (View × Job)} {e : Trap} (h : s.runs f)
    (hg : g (s.seen f cls) = .error e) : s.memory cls adv g = .next (s.trapped f cls e) := by
  unfold State.runs at h
  unfold State.seen at hg
  simp [State.memory, State.runFiring, h, hg, bind, Except.bind, State.trapped]

/-- A word store whose address lies in the command window waits, or goes to the aperture; any other is a memory store. -/
theorem State.storeWord_plain {s : State} {f : Firing} {d a : Opnd} {off : Int} {adv : Nat} {g : View → Except Trap (View × Job)}
    (h : s.runs f) (hw : s.mustWait f a off = false) (hb : (s.berth s.tile f.berth).wbase ≠ 0xFFFFF) :
    s.storeWord d a off adv g = s.memory 55 adv g := by
  unfold State.runs at h
  simp only [State.storeWord, h, hw, Bool.false_eq_true, if_false]
  rw [if_neg hb]

theorem State.storeWord_waits {s : State} {f : Firing} {d a : Opnd} {off : Int} {adv : Nat} {g : View → Except Trap (View × Job)}
    (h : s.runs f) (hw : s.mustWait f a off = true) :
    s.storeWord d a off adv g = .next (s.setFiring s.tile s.slot { f with wait := .aperture }) := by
  unfold State.runs at h
  simp [State.storeWord, h, hw]

/-! ## Matrix instructions -/

/-- A matrix instruction whose registers are owed waits. -/
theorem State.runX_owed {s : State} {f : Firing} {cls : Nat} {rs rd : List XReg} {g : View → Except Trap View} (h : s.runs f)
    (ho : (rs.any fun r => (s.tileAt s.tile).owes r) = true) :
    s.runX cls rs rd g = .next (s.setFiring s.tile s.slot { f with wait := .owed }) := by
  unfold State.runs at h
  simp only [State.runX, h, ho, if_true]

/-- A tile without soft errors has none to tell. -/
theorem Tile.eccTrap_none {x : Tile} (h : x.ecc = []) (rd : List XReg) : x.eccTrap rd = none := by
  simp [Tile.eccTrap, Tile.damaged, h]

/-- Otherwise it is a register instruction, on a tile without soft errors. -/
theorem State.runX_free {s : State} {f : Firing} {cls : Nat} {rs rd : List XReg} {g : View → Except Trap View} (h : s.runs f)
    (ho : (rs.any fun r => (s.tileAt s.tile).owes r) = false) (he : (s.tileAt s.tile).ecc = []) :
    s.runX cls rs rd g = s.runView cls 2 g := by
  unfold State.runs at h
  simp [State.runX, h, ho, Tile.eccTrap_none he]

/-! ## Partition commands -/

/-- A command on a partition on which another runs is turned away (R332). -/
theorem State.partCmd_busy {s : State} {p : Nat} {g : State → Except PrivStatus State} (h : s.hd.running.get false p = true) :
    s.partCmd p g = s.privDone .inUse := by
  simp only [State.partCmd, h, if_true]

/-- A command whose fields cannot be stored, or that fails, tells its status. -/
theorem State.partCmd_error {s : State} {p : Nat} {g : State → Except PrivStatus State} {e : PrivStatus}
    (h : s.hd.running.get false p = false) (hb : s.badPartData p = false) (hg : (s.writeFields p).bind g = .error e) :
    s.partCmd p g = s.privDone e := by
  simp only [State.partCmd, h, hb, hg, Bool.false_eq_true, if_false]

/-- A command that goes on; QDRN of the VF of the partition is 0 after it. -/
theorem State.partCmd_ok {s t : State} {p : Nat} {g : State → Except PrivStatus State} (h : s.hd.running.get false p = false)
    (hb : s.badPartData p = false) (hg : (s.writeFields p).bind g = .ok t) :
    s.partCmd p g = if 2 ≤ (s.part p).pstate then t.modAcct (s.part p).occ fun a => { a with qdrn := false } else t := by
  simp only [State.partCmd, h, hb, hg, Bool.false_eq_true, if_false]

/-- A command that is done changes the window and one firing's wait. -/
theorem State.privDone_hd (s : State) (c : PrivStatus) :
    (s.privDone c).hd = { s.hd with win := { s.hd.win with busy := false, status := c.code } } := by
  unfold State.privDone State.modFiring
  dsimp only
  split <;> simp [State.privStatus, State.modHd, State.setFiring, State.modTile, State.setTile]

theorem State.privDone_mem (s : State) (c : PrivStatus) : (s.privDone c).mem = s.mem := by
  unfold State.privDone State.modFiring
  dsimp only
  split <;> simp

/-! ## Physical memory, byte by byte -/

theorem enumFrom_foldl_set (bs : List Byte) (m : Map Byte) (a x : Nat) :
    ((enumFrom a bs).foldl (fun (n : Map Byte) (e : Nat × Byte) => n.set 0 e.1 e.2) m).get 0 x
      = if a ≤ x ∧ x < a + bs.length then bs.getD (x - a) 0 else m.get 0 x := by
  induction bs generalizing a m with
  | nil =>
    simp only [enumFrom, List.foldl_nil, List.length_nil]
    rw [if_neg (by omega)]
  | cons b r ih =>
    simp only [enumFrom, List.foldl_cons, List.length_cons]
    rw [ih, Map.get_set]
    by_cases h1 : x = a
    · subst h1
      rw [if_neg (by omega), if_pos rfl, if_pos (by omega)]
      simp
    · rw [if_neg h1]
      by_cases h2 : a + 1 ≤ x ∧ x < a + 1 + r.length
      · rw [if_pos h2, if_pos (by omega), show x - a = (x - (a + 1)) + 1 by omega]
        simp
      · rw [if_neg h2, if_neg (by omega)]

/-- What a byte of physical memory reads after bytes are put there. -/
theorem State.pmByte_pmPut (s : State) (a x : Nat) (bs : List Byte) :
    (s.pmPut a bs).pmByte x = if a ≤ x ∧ x < a + bs.length then bs.getD (x - a) 0 else s.pmByte x :=
  enumFrom_foldl_set bs s.mem.pm a x

end Sys2Proof.Machine
end

