-- ==== Sys2Proof/Tests/Slice0.lean ====
section
/-! SUPPORT. The model's own tests. Words and expected results are worked out by hand from the rules of spec/ and from the
opcode table. Each `witness_…` theorem shows a concrete state and operands that meet the hypotheses of the statement of that
name, clause by clause. -/

section

set_option Elab.async false

open Sys2Proof Sys2Proof.Machine

/-! ## Words

Each word is written out from the row of the opcode table (its fixed bits and the places of its fields), with operand values
chosen at random. -/

theorem test_words_1 :
    ([0x82565132, 0x828C2516, 0x83181BB3, 0x83801CD8, 0x8402DBC0, 0x84E22F40, 0x851D83C0, 0x859723C0, 0x86618E00,
      0x86845280, 0x87648780, 0x87C5C680, 0x8830A048, 0x88869FC3, 0x892EFD02, 0x89A7EB81].map (decodeTableWord 32)) =
    [some (.br 5 0 414002), some (.loop (.w 12) 9494), some (.loopi 385 2995), some (.switch (.w 14) (.o 2)),
      some (.pcmpEq 0 (.w 22) (.f 15)), some (.pcmpNe 6 (.w 17) .xy), some (.pcmpLt 1 (.f 12) (.w 15)),
      some (.pcmpLtu 1 .lx (.w 15)), some (.pfcmpEq 6 (.w 12) .z), some (.pfcmpLt 0 (.v 2) (.k 10)),
      some (.pfcmpLe 6 (.v 4) (.w 30)), some (.pfcmpUn 4 (.v 14) (.w 26)), some (.plog 3 5 1 2),
      some (.mcmpEq 0 (.o 0) (.f 31) 3), some (.mcmpNe 2 (.f 23) (.f 20) 2), some (.mcmpLt 2 .cx (.v 14) 1)] := by
  decide +kernel

theorem test_words_2 :
    ([0x8A099F82, 0x8AB92480, 0x8B3555C1, 0x8BBD6280, 0x8C2AF643, 0x8CB00020, 0x8D790000, 0x8D8F0002, 0x8E729188,
      0x8ED80BD8, 0x8F5A5677, 0x8FFE1EDC, 0x904942FC, 0x90E5C9FC, 0x911455C8, 0x91E68E8C].map (decodeTableWord 32)) =
    [some (.mcmpLtu 0 (.k 12) (.f 30) 2), some (.mfcmpEq 3 (.k 9) (.w 18) 0), some (.mfcmpLt 3 (.v 10) (.k 23) 1),
      some (.mfcmpLe 3 (.f 11) (.w 10) 0), some (.mfcmpUn 2 (.k 23) (.k 25) 3), some (.mlog 3 0 0 8),
      some (.mpop (.f 25) 0), some (.mfirst (.w 15) 2), some (.add (.f 18) (.k 8) (.f 2)),
      some (.sub (.k 24) (.w 5) (.f 22)), some (.addi (.k 26) (.v 11) 119), some (.mul (.f 30) (.w 15) (.o 3)),
      some (.mulh (.k 9) (.v 1) .cx), some (.mulhu (.f 5) (.f 4) (.f 31)), some (.div (.w 20) (.v 10) (.f 18)),
      some (.divu (.f 6) (.k 7) (.v 3))] := by
  decide +kernel

theorem test_words_3 :
    ([0x926E8FA8, 0x92DBC2EC, 0x93262AB4, 0x93A676EC, 0x9403F8B8, 0x94C39004, 0x9525D778, 0x95D14034, 0x9674C819,
      0x96E6C806, 0x977BCC03, 0x97B022D4, 0x98705270, 0x98D71A00, 0x991A0000, 0x99A63200].map (decodeTableWord 32)) =
    [some (.rem (.f 14) (.k 7) (.f 10)), some (.remu (.k 27) (.f 1) .it), some (.and (.v 6) (.w 21) (.v 13)),
      some (.or (.v 6) .it .it), some (.xor (.w 3) (.f 28) (.v 14)), some (.shl (.k 3) (.k 8) (.w 1)),
      some (.shr (.v 5) (.f 11) (.k 30)), some (.sra (.k 17) (.v 0) (.w 13)), some (.shli (.f 20) (.f 4) 25),
      some (.shri (.f 6) (.f 4) 6), some (.srai (.f 27) (.f 6) 3), some (.min (.i 0) (.w 17) (.o 1)),
      some (.max (.f 16) (.v 9) (.w 28)), some (.clz (.k 23) (.w 13)), some (.popc (.w 26) (.w 0)),
      some (.brev (.v 6) (.w 25))] := by
  decide +kernel

theorem test_words_4 :
    ([0x9A5D0C48, 0x9AB5C098, 0x9B40B174, 0x9BF93E74, 0x9C7CEE03, 0x9CFB9FAB, 0x9D1549C9, 0x9D9AAF0C, 0x9E7A5214,
      0x9EB4B894, 0x9F4C2F08, 0x9FDD556C, 0xA039A8E5, 0xA0BDCCE9, 0xA17EB600, 0xA1878E03].map (decodeTableWord 32)) =
    [some (.bfx (.k 29) (.w 6) (.w 18)), some (.bfxu (.o 1) (.f 0) (.v 6)), some (.bfi (.k 0) (.k 24) (.k 29)),
      some (.sel (.f 25) (.w 31) (.w 29)), some (.mov (.f 28) (.f 23) 3), some (.li (.f 27) 40875),
      some (.lih (.w 21) 18889), some (.agen (.w 26) (.k 23) (.k 3)), some (.agen2 (.f 26) (.v 9) (.w 5)),
      some (.vbcast (.o 0) (.k 28) (.v 5) 0), some (.vext (.k 12) (.w 23) (.k 2)), some (.vins (.k 29) (.v 10) (.k 27)),
      some (.vperm .lx (.k 20) .lx 1), some (.vrotl .xy (.f 6) .fp 1), some (.vredAdd (.f 30) (.k 27) 0),
      some (.vredMin (.w 7) (.k 7) 3)] := by
  decide +kernel

theorem test_words_5 :
    ([0xA2426202, 0xA2F2B202, 0xA314700E, 0xA3F8640A, 0xA434F603, 0xA4D82A7B, 0xA533F4B7, 0xA5D52D97, 0xA6662AA1,
      0xA6A00E9B, 0xA725F365, 0xA7A10A0C, 0xA823DEC5, 0xA88780DA, 0xA93DA70B, 0xA9A11F6B].map (decodeTableWord 32)) =
    [some (.vredMax (.k 2) (.i 1) 2), some (.vscanAdd (.f 18) (.k 25) 2), some (.tget (.w 20) .z 0 14),
      some (.tset (.f 24) (.i 2) 10), some (.vadd (.o 0) (.f 27) (.w 0) 3), some (.vsub (.k 24) (.w 21) (.w 30) 3),
      some (.vmul (.i 3) (.f 26) (.v 13) 3), some (.vmulh (.k 21) (.w 22) (.f 5) 3), some (.vmad (.f 6) (.w 21) (.v 8) 1),
      some (.vand (.v 0) (.w 7) (.v 6) 3), some (.vor (.v 5) (.f 25) (.k 25) 1), some (.vxor (.v 1) (.w 5) (.w 3) 0),
      some (.vshl (.v 3) (.f 15) (.i 1) 1), some (.vshr (.w 7) (.k 0) (.o 2) 2), some (.vsra .xy (.k 19) (.k 2) 3),
      some (.vmin (.v 1) (.w 15) (.k 26) 3)] := by
  decide +kernel

theorem test_words_6 :
    ([0xAA6B4298, 0xAAF05C05, 0xAB2C49E4, 0xAB8FA7EC, 0xAC0E7EC1, 0xAC8A33CC, 0xAD10E202, 0xADB38C03, 0xAE7A7F09,
      0xAEF247A8, 0xAF64E340, 0xAFBDDA49, 0xB04D3E9E, 0xB0A4808F, 0xB1383003, 0xB1FC5201].map (decodeTableWord 32)) =
    [some (.vmax (.f 11) (.v 1) (.v 6) 0), some (.vsel (.f 16) (.v 14) (.w 1) 1), some (.vadds (.v 12) (.v 4) (.f 25) 0),
      some (.vsubs (.w 15) (.k 19) (.f 27) 0), some (.vpack (.w 14) .cx (.i 0) 1), some (.vunpk (.w 10) (.w 25) (.f 19) 0),
      some (.vclz (.w 16) (.f 17) 2), some (.vpopc (.i 3) (.k 6) 3), some (.vfadd (.f 26) .cx (.k 2) 1),
      some (.vfsub (.f 18) (.v 3) (.f 10) 0), some (.vfmul (.f 4) (.f 17) (.k 16) 0), some (.vfma .xy (.f 13) (.w 18) 1),
      some (.vfmin (.k 13) (.w 31) (.v 7) 2), some (.vfmax (.v 4) (.k 0) (.v 3) 3), some (.vfabs .z (.w 24) 3),
      some (.vfneg (.f 28) (.v 9) 1)] := by
  decide +kernel

theorem test_words_7 :
    ([0xB229DC03, 0xB2D6D601, 0xB35BA200, 0xB3DD095B, 0xB4700803, 0xB4D49600, 0xB51C7400, 0xB5958602, 0xB60A5C02,
      0xB6A1D90B, 0xB726FD4C, 0xB7C71CBB, 0xB8128810, 0xB8C22AE0, 0xB9433FD0, 0xB9D6D510].map (decodeTableWord 32)) =
    [some (.vfrcp (.v 9) (.f 14) 3), some (.vfrsq (.k 22) (.f 11) 1), some (.vfsqrt (.k 27) (.k 17) 0),
      some (.vfdiv (.k 29) (.w 4) (.k 22) 3), some (.vfexp2 (.f 16) (.w 4) 3), some (.vflog2 (.k 20) (.k 11) 0),
      some (.vfsin (.w 28) .fp 0), some (.vftanh (.w 21) (.k 3) 2), some (.vfsig (.w 10) (.v 14) 2),
      some (.vfrnd (.v 1) (.f 12) (.k 2) 3), some (.vfclmp (.v 6) (.f 30) (.k 19) 0),
      some (.vflrp (.k 7) (.w 14) (.v 14) 3), some (.vhmul (.w 18) (.k 4) (.w 4) 0), some (.vhfma (.k 2) (.w 21) .z 0),
      some (.vbfma (.k 3) (.w 31) (.f 20) 0), some (.fadd (.k 22) (.f 10) (.k 4))] := by
  decide +kernel

theorem test_words_8 :
    ([0xBA2116F4, 0xBA9C530C, 0xBB0C5C01, 0xBBCF9C01, 0xBC4AE4B6, 0xBCD80900, 0xBD0308C3, 0xBDBEE46F, 0xBE7EC938,
      0xBEB7755C, 0xBF32479C, 0xBFD81A00, 0xC0210648, 0xC0C1DCA4, 0xC10E2B84, 0xC1C87D2C].map (decodeTableWord 32)) =
    [some (.fmul (.v 1) (.w 11) .xy), some (.ffma (.w 28) (.v 9) (.k 3)), some (.cvtF2i (.w 12) (.v 14) 1),
      some (.cvtI2f (.k 15) (.k 14) 1), some (.cvtF2h (.k 10) (.f 18) (.v 13) 2), some (.cvtH2f (.k 24) (.w 4) (.k 0) 0),
      some (.cvtF2b (.w 3) (.w 4) (.i 0) 3), some (.cvtB2f .st (.f 18) (.w 27) 3), some (.cvtF2q (.f 30) (.f 4) (.k 14)),
      some (.cvtQ2f (.o 3) .fp (.k 23)), some (.hfwd (.i 2) (.v 3) (.f 7)), some (.hinv (.k 24) (.w 13)),
      some (.hthr (.v 1) (.w 3) (.w 18)), some (.hpack (.k 1) (.f 14) (.v 9)), some (.hunpk (.w 14) (.w 21) (.f 1)),
      some (.htag (.k 8) .st (.k 11))] := by
  decide +kernel

theorem test_words_9 :
    ([0xC20BEA00, 0xC2AF5110, 0xC372010D, 0xC3DDA94B, 0xC43E113C, 0xC4B7B6BB, 0xC500AB86, 0xC595F31D, 0xC6337E05,
      0xC697865B, 0xC724CC64, 0xC7859935, 0xC8154F8E, 0xC8FE4D25, 0xC90BDA84, 0xC9BA2A1C].map (decodeTableWord 32)) =
    [some (.hqry (.w 11) (.f 21)), some (.hsett (.v 15) (.v 8) (.k 4)), some (.ldb (.f 18) (.w 0) 269),
      some (.ldbu (.k 29) (.k 20) 331), some (.ldh .st (.w 8) 316), some (.ldhu (.o 3) (.k 27) 187),
      some (.ldw (.w 0) (.k 21) 390), some (.stb (.w 21) (.f 25) 285), some (.sth (.i 3) .cx 5),
      some (.stw (.w 23) (.k 3) 91), some (.ldv (.v 4) (.f 6) 0 100), some (.ldvs (.w 5) (.k 12) (.k 13) 1),
      some (.ldvg (.w 21) (.v 7) (.f 3) 2), some (.ldvb (.f 30) (.v 6) 2 37), some (.stv (.w 11) (.f 13) 1 4),
      some (.stvs .fp (.w 21) (.w 7) 0)] := by
  decide +kernel

theorem test_words_10 :
    ([0xCA22B86B, 0xCAF31810, 0xCB3EFB0C, 0xCB80E844, 0xCC1721E4, 0xCCC0270C, 0xCD3C68EC, 0xCDF5FD84, 0xCE13F524,
      0xCE8B644C, 0xCF25A904, 0xCFCD440C, 0xD07B1FF0, 0xD0C47432, 0xD13774FA, 0xD1CA93DB].map (decodeTableWord 32)) =
    [some (.stvx (.v 2) (.k 28) (.w 26) 3), some (.aadd (.f 19) (.w 12) (.w 4)), some (.amin .st (.f 29) (.k 3)),
      some (.amax (.w 0) (.f 20) (.w 17)), some (.aand (.w 23) (.w 16) (.f 25)), some (.aor (.k 0) (.w 19) (.k 3)),
      some (.axor .sq (.o 0) .it), some (.axch (.f 21) (.f 30) (.f 1)), some (.acas (.w 19) (.f 26) (.k 9)),
      some (.afadd (.w 11) (.i 2) (.w 19)), some (.aincw (.v 5) (.k 20) (.k 1)), some (.hld (.k 13) (.v 2) (.w 3)),
      some (.hst (.f 27) (.w 15) (.f 28)), some (.fld (.k 4) 50), some (.fst (.o 3) 250), some (.ldnc (.k 10) (.k 9) 475)] := by
  decide +kernel

theorem test_words_11 :
    ([0xD277EE79, 0xD2B30000, 0xD3042BE4, 0xD3800928, 0xD400EA4C, 0xD487898C, 0xD5318092, 0xD5C00002, 0xD6200002,
      0xD600102D, 0xD6F80000, 0xD77E0001, 0xD7878003, 0xD864A000, 0xD8EDE000, 0xD951D000].map (decodeTableWord 32)) =
    [some (.stnc (.f 23) (.f 23) 121), some (.drain (.i 3)), some (.chkb 4 (.w 21) (.f 25)), some (.slclm (.w 4) (.k 10)),
      some (.slrel (.f 21) (.w 19)), some (.sltst 7 (.k 4) (.f 3)), some (.mshp 6 3 1 2 2), some (.tld 8 2),
      some (.tstTile 4 2), some (.tstAcc 1 5 1), some (.tzero 15), some (.ttr 15 12 0 1), some (.mskr 0 15 3),
      some (.mmq2 12 9 2), some (.mmq4 13 11 6), some (.mmq7 10 3 5)] := by
  decide +kernel

theorem test_words_12 :
    ([0xD9855000, 0xDA61B000, 0xDA84C000, 0xDB596000, 0xDBE150D8, 0xDC000001, 0xDC801000, 0xDD004001, 0xDDB84003,
      0xDE003002, 0xDE806062, 0xDF0000CF, 0xDFA00000, 0xE00001F1, 0xE0A80001, 0xE175E4C4].map (decodeTableWord 32)) =
    [some (.mmi8 0 10 5), some (.mmh 12 3 3), some (.mmb 0 9 4), some (.sca 11 2 6), some (.scai 12 2 5 13 8),
      some (.aclr 0 1), some (.ajoin 1 0), some (.acpy 4 1), some (.aout 7 4 1 1), some (.ain 3 2), some (.ard 6 0 3 0 2),
      some (.srtcfg 25 1 3), some (.srtk 4), some (.srtf 1 15 0 1), some (.tfeat 5 1), some (.send 3 (.k 23) 4 152 4)] := by
  decide +kernel

theorem test_words_13 :
    ([0xE1CE33D4, 0xE2790AAA, 0xE28D7B87, 0xE34CF23B, 0xE3A5D579, 0xE4510200, 0xE4DE04CC, 0xE505D200, 0xE586D2D4,
      0xE600C114, 0xE6D61FFC, 0xE747B880, 0xE7806E5C, 0xE8367F88, 0xE8B7E5B8, 0xE94F0A80].map (decodeTableWord 32)) =
    [some (.sende 2 6 122 4), some (.sendm 3 (.f 4) 1 85 2), some (.steer 0 (.o 1) 7 112 7), some (.merge 2 3 6 71 3),
      some (.loopc 1 (.w 23) 2 175 1), some (.tagn (.k 17) 1), some (.falloc (.k 30) 2 (.i 3)),
      some (.ffree (.w 5) (.f 9)), some (.tspawn 6 (.f 9) (.o 1)), some (.tdec (.f 0) (.k 5)),
      some (.evset (.k 22) (.w 15) (.f 31)), some (.evclr (.k 7) (.k 28) (.v 0)), some (.permit (.o 3) (.w 23)),
      some (.rays 2 .cx (.f 2)), some (.fglk 3 (.f 18) (.f 14)), some (.blnd (.k 15) (.w 5) (.v 0) 0)] := by
  decide +kernel

theorem test_words_14 :
    ([0xE9ECF3F4, 0xEA12C9DC, 0xEAAE7E6D, 0xEB27486F, 0xEB951400, 0xEC207600, 0xEC801334, 0xED004000, 0xED808000,
      0xEE6F0396, 0xEE990240, 0xEF4C638C, 0xEF847200].map (decodeTableWord 32)) =
    [some (.ztst (.f 12) (.f 25) (.f 29) 0), some (.binapp (.w 18) (.f 4) (.f 23)), some (.edge 7 .cx (.w 27) 1),
      some (.attr (.v 7) 2 (.w 27) 3), some (.occq (.w 21) (.w 10) (.w 0)), some (.seqn (.v 0) .it),
      some (.iscfg (.w 9) (.k 13)), some (.trap (.v 0)), some (.tret (.k 0)), some (.csrr (.f 15) 918),
      some (.csrw (.w 25) 576), some (.emrd (.k 12) (.i 1) (.f 3)), some (.eqt 4 .lx (.w 0))] := by
  decide +kernel

theorem test_words_15 :
    ([0x087A, 0x0E34, 0x11FE].map (decodeTableWord 16)) =
    [some (.cBr 0 1 58), some (.cLoopi 17 20), some (.cMov 15 30)] := by
  decide +kernel

theorem test_words_16 :
    ([0x15EF, 0x183A, 0x1E63, 0x202C, 0x27FA, 0x28B0, 0x2DDB, 0x32EE, 0x37E2, 0x3ABA, 0x3EF9, 0x4020, 0x4644, 0x48CF,
      0x4CC9, 0x50C7].map (decodeTableWord 16)) =
    [some (.cLi 15 15), some (.cAdd 1 26), some (.cSub 19 3), some (.cAddi 1 12), some (.cAnd 31 26), some (.cOr 5 16),
      some (.cXor 14 27), some (.cShli 23 14), some (.cShri 31 2), some (.cLdw 21 26), some (.cStw 23 25),
      some (.cSend 1 0), some (.cTget 18 4), some (.cVfadd 6 15), some (.cVfmul 6 9), some (.cVfma 6 7)] := by
  decide +kernel

theorem test_words_17 :
    ([0x80000000, 0x80800000, 0x81000000, 0x81800000].map (decodeTableWord 32)) =
    [some .nop, some .endFiring, some .endfFiring, some .yield] := by
  decide +kernel

theorem test_words_18 :
    ([0x55C7, 0x5A12, 0x5CDF, 0x0000, 0x0400].map (decodeTableWord 16)) =
    [some (.cVadd 14 7), some (.cFld 16 18), some (.cFst 6 31), some .cNop, some .cEnd] := by
  decide +kernel

/-! ## Well-formedness

One ill-formed term for each check of the loader on an instruction, beside a well-formed one. -/

/-- The berth of the tests: a tagged actor on a C-tile, rate 1 on every port. -/
def wfTest : WfCtx := { isTagged := true, rates := 0x249249, tbind := 0x10, gbind := 0x40 }

/-- A tile register instruction stands on X-tiles alone, a compact vector add on C-tiles alone (R63 to R65). -/
theorem test_kind_invalid :
    (Instr.tzero 3).check wfTest = some .kindInvalid ∧ (Instr.cVadd 1 2).check { wfTest with kind := .m } = some .kindInvalid
      ∧ Instr.rollup.check wfTest = some .kindInvalid ∧ (Instr.tzero 3).check { wfTest with kind := .x } = none
      ∧ (Instr.cVadd 1 2).check wfTest = none := by
  decide

/-- Field limits: a loop of no halfwords, a tag rule of 6 or 7, five flits, a sort key type of 3, an accumulator of 4, the
same port twice, a CSR that is not listed, token 1 of a port of rate 1, an undeclared binding (R60, R65). -/
theorem test_field_reserved :
    ([Instr.loopi 3 0, .send 0 (.w 1) 6 0 1, .send 0 (.w 1) 0 0 5, .csrr (.w 1) 6, .tget (.w 1) (.i 0) 1 0, .mov (.w 1) (.w 2) 1,
      .ztst (.v 1) (.w 1) (.w 2) 0].map fun i => i.check wfTest) = List.replicate 7 (some .fieldReserved)
    ∧ ([Instr.srtcfg 0 0 3, .mmh 0 1 4, .srtf 0 0 2 2, .tld 0 1, .tfeat 0 1, .mskr 0 1 3].map fun i =>
        i.check { wfTest with kind := .x }) = List.replicate 6 (some .fieldReserved)
    ∧ ([Instr.loopi 3 1, .send 0 (.w 1) 5 0 4, .csrr (.w 1) 5, .tget (.w 1) (.i 0) 0 19].map fun i => i.check wfTest)
        = List.replicate 4 none
    ∧ ([Instr.srtcfg 0 0 2, .mmh 0 1 3, .srtf 0 0 2 1, .tld 0 0, .tfeat 0 0, .mskr 0 1 2].map fun i =>
        i.check { wfTest with kind := .x }) = List.replicate 6 none := by
  decide

/-- Operand positions: a v register read as a scalar, a constant written, o0 read, a frame slot of an untagged actor, an
input of rate 0, a vector destination that is no v register, an odd register of a pair (R61, R62, R65, R115). -/
theorem test_operand_invalid :
    ([Instr.add (.w 1) (.v 2) (.w 3), .add (.k 1) (.w 2) (.w 3), .add (.w 1) (.o 0) (.w 3), .vadd (.w 1) (.v 2) (.v 3) 0,
      .vadd (.o 1) (.v 2) (.v 3) 0, .blnd (.v 3) (.w 1) (.w 2) 0, .tset (.v 1) (.w 2) 0, .sel (.o 1) (.w 1) (.w 2)].map fun i =>
        i.check wfTest) = List.replicate 8 (some .operandInvalid)
    ∧ (Instr.add (.f 1) (.w 2) (.w 3)).check { wfTest with isTagged := false } = some .operandInvalid
    ∧ (Instr.add (.w 1) (.i 1) (.w 3)).check { wfTest with rates := 1 } = some .operandInvalid
    ∧ ([Instr.add (.f 1) (.i 1) (.k 3), .add (.o 1) (.lx) (.cx), .vadd (.v 1) (.v 2) (.i 3) 0, .blnd (.v 4) (.w 1) (.w 2) 0,
      .tset (.o 1) (.w 2) 0, .sel (.f 1) (.w 1) (.w 2)].map fun i => i.check wfTest) = List.replicate 6 none := by
  decide

/-- What the decoder refuses (R58, R65): a reserved field, an opcode that is not assigned, a routine that ends inside an
instruction. -/
theorem test_decode_refuses :
    decode [0x8080, 0x0001] = .error .fieldReserved ∧ decode [0xF000, 0x0000] = .error .opcodeUnassigned
      ∧ decode [0x6000] = .error .compactUnassigned ∧ decode [0x8E04] = .error .routineBounds
      ∧ decode [] = .error .routineBounds := by
  decide +kernel


/-! ## The firing of the tests -/

/-- A vector of words 16·k, 16·k + 1, … -/
def ramp (k : Nat) : VBits := ofLanes fun l => BitVec.ofNat 32 (16 * k + l)

/-- A vector of the F32 values 1, 2, 3 and 4, over and over. -/
def floats : VBits := ofLanes fun l => [(0x3F800000 : W32), 0x40000000, 0x40400000, 0x40800000].getD (l % 4) 0

/-- A firing of a tagged actor: w1 = 7, w2 = 3, w4 = −2^31, w5 = −1, w6 a bit field of 8 bits at 4, w7 an aligned address, w8 a
status word; v1 and v2 two ramps, v3 and v4 floats, v5 of Haar level 2, v6 of a tag with five levels; lane mask m1 0x00FF,
m2 empty. -/
def wFiring : Firing :=
  { len := 64, isTagged := true, w := [(1, 7), (2, 3), (4, 0x80000000), (5, 0xFFFFFFFF), (6, 0x104), (7, 0x40), (8, 0x11), (9, 0x80)]
    v := [(1, { bits := ramp 1 }), (2, { bits := ramp 2 }), (3, { bits := floats }), (4, { bits := floats }),
          (5, { bits := floats, tag := 0x10 }), (6, { bits := floats, tag := 0x28 })]
    m := [(1, 0x00FF), (2, 0)], p := 3, itag := 5, stag := 9, sq := 4, cx := 1, fp := 2, pts := 100
    bound := [(0, [{ nflit := 4, pay := ramp 3, itag := 5 }])] }

/-- The berth of the firing: rate 1 on every port, rank 6. -/
def wBerth : BerthRec := { rates := 0x249249, rank := 6 }

/-- The tile of the firing: frame 2 of 8 slots, slot 1 of which holds 9, and a scratch of 4 KiB. -/
def wTile : Tile :=
  { slots := [(0, wFiring)], started := true, th := [(1, 0x3F000000)], scratch := [(64, 0x81), (65, 0x02), (67, 0x80)], lck := 50
    frames := [(2, { size := 8, slots := [(1, 9)], pres := [(1, true)], bytes := 64 })] }

/-- The firing `f` issues on tile `t`, in partition 0. -/
def wOn (t : Nat) (x : Tile) (f : Firing) : State :=
  { State.reset with
    cfg := { tiles := [(t, { used := true, berths := [(0, wBerth)], consts := [(3, 33)], scratch := 4096, code := List.replicate 64 0x8000 })] }
    tiles := [(t, { x with slots := [(0, f)] })], tile := t }

/-- The firing of the tests, on C-tile 1 of cove 0. -/
def wState : State := wOn 1 wTile wFiring

/-- The instruction answers a next state with the property `p`. -/
def goes (i : Instr) (s : State) (p : State → Bool) : Bool :=
  match exec i s with
  | .next u => p u
  | _ => false

/-- The instruction answers exactly the next state `u`. -/
def leads (i : Instr) (s : State) (u : State) : Bool := goes i s fun x => decide (x = u)

/-- The instruction of the firing of the tests ends as one of `n` halfwords and class `cls` that leaves the view `v`. -/
def ends (i : Instr) (cls n : Nat) (v : View) : Bool := leads i wState (wState.ran wFiring cls n v)

/-- What the firing of the tests sees. -/
def wView : View := wState.view wFiring


/-! ## Encodings and the step -/

theorem witness_SampleWordsDecode :
    0xF000 ≤ (0xF000 : BitVec 16).toNat ∧ (0xFFFF : BitVec 16).toNat = 65535 ∧ decode [0xFFFF, 0] = .error .opcodeUnassigned
      ∧ decode [0x7FFF] = .error .compactUnassigned ∧ decode [0x8000] = .error .routineBounds := by
  decide +kernel

theorem witness_DecodeAfterEncode :
    encodeWord (.add (.w 4) (.w 1) (.k 3)) = some (32, 0x8E04030C) ∧ encodeWord (.cTget 1 0) = some (16, 0x4420)
      ∧ encodeWord .tokenArrival = none ∧ decode [0x8E04, 0x030C, 1] = .ok (.add (.w 4) (.w 1) (.k 3), 2) := by
  decide +kernel

theorem witness_EncodeAfterDecode :
    decode [0xE600, 0x0208, 7] = .ok (.tdec (.w 1) (.w 2), 2) ∧ encode (.tdec (.w 1) (.w 2)) = [0xE600, 0x0208] := by
  decide +kernel

/-- A routine of the tests is loaded where the next step fetches. -/
def wFetch (hs : List (BitVec 16)) (i : Option Instr) : State := State.reset.solo i hs

/-- The next thing that happens is the issue of slot `k` of tile `t`. -/
def issuing (s : State) (t k : Nat) : Bool :=
  match s.choose with
  | .issue u j => decide (u = t) && decide (j = k)
  | _ => false

/-- The step answers the next state `u`. -/
def stepsTo (s u : State) : Bool :=
  match step s with
  | .next x => decide (x = u)
  | _ => false

/-- The step is refused with the status `n`. -/
def stepRefused (s : State) (n : Nat) : Bool :=
  match step s with
  | .refused r => decide (r = .loadRejects n)
  | _ => false

/-- One routine for each clause: an instruction that may stand, one of another tile kind, one without a meaning, and none. -/
theorem witness_StepRunsDecoded :
    let good := wFetch [0x8E04, 0x030C] (some (.add (.w 4) (.w 1) (.k 3)))
    let bad := wFetch [0xD690, 0x0000] none
    let odd := wFetch [0xF000, 0] none
    let past := wFetch [] none
    let f (n : Nat) : Firing := { len := n, isTagged := true }
    let code (s : State) (f : Firing) := (((s.tcfg 1).code.drop f.start).take f.len).drop f.pc
    (∀ s ∈ [good, bad, odd], issuing s 1 0 = true ∧ (s.beginIssue 1 0).firing 1 0 = some (f 2) ∧ (s.tileAt 1).ecc = []) ∧ (past.tileAt 1).ecc = []
      ∧ issuing past 1 0 = true ∧ (past.beginIssue 1 0).firing 1 0 = some (f 0) ∧ code past (f 0) = []
      ∧ decode (code good (f 2)) = .ok (.add (.w 4) (.w 1) (.k 3), 2)
      ∧ (Instr.add (.w 4) (.w 1) (.k 3)).check ((good.beginIssue 1 0).wfCtx 1 0) = none
      ∧ goes (.add (.w 4) (.w 1) (.k 3)) (good.beginIssue 1 0) (stepsTo good) = true
      ∧ decode (code bad (f 2)) = .ok (.tzero 2, 2) ∧ (Instr.tzero 2).check ((bad.beginIssue 1 0).wfCtx 1 0) = some .kindInvalid
      ∧ stepRefused bad 0x23 = true ∧ decode (code odd (f 2)) = .error .opcodeUnassigned ∧ stepRefused odd 0x21 = true
      ∧ stepsTo past ((past.beginIssue 1 0).takeFault 1 0 (f 0) { code := 0x04, tval := 0 }) = true := by
  decide +kernel

/-! ## Scalar results -/

/-- The firing of the tests issues: with a = w1 = 7, b = w2 = 3, d = w3; d a frame slot, z and o1 as well. -/
theorem witness_ScalarResults :
    wState.firing wState.tile wState.slot = some wFiring ∧ wView.src (.w 1) = .ok 7 ∧ wView.src (.w 2) = .ok 3
      ∧ (∀ d ∈ [Opnd.w 3, .f 0, .z, .o 1, .sq], wView.takes d = true) ∧ wView.src (.w 4) = .ok 0x80000000
      ∧ wView.src (.w 5) = .ok 0xFFFFFFFF ∧ wView.src .z = .ok 0 := by
  decide +kernel

/-- R125, R127, R129, R133: sums and products wrap, division by zero and of the least integer by -1, shifts by b mod 32, a
bit field of 8 bits at 4 (w6). -/
theorem test_scalar_results :
    let r (i : Instr) (cls : Nat) (x : W32) : Bool := ends i cls 2 ((wState.seen wFiring cls).wrote (.w 3) x)
    r (.add (.w 3) (.w 1) (.w 5)) 1 6 = true ∧ r (.sub (.w 3) (.w 2) (.w 1)) 1 0xFFFFFFFC = true
      ∧ r (.mul (.w 3) (.w 4) (.w 2)) 3 0x80000000 = true ∧ r (.mulh (.w 3) (.w 4) (.w 2)) 3 0xFFFFFFFE = true
      ∧ r (.mulhu (.w 3) (.w 4) (.w 2)) 3 1 = true ∧ r (.div (.w 3) (.w 4) (.w 5)) 4 0x80000000 = true
      ∧ r (.rem (.w 3) (.w 4) (.w 5)) 4 0 = true ∧ r (.div (.w 3) (.w 1) .z) 4 0xFFFFFFFF = true
      ∧ r (.rem (.w 3) (.w 1) .z) 4 7 = true ∧ r (.divu (.w 3) (.w 4) (.w 2)) 4 0x2AAAAAAA = true
      ∧ r (.remu (.w 3) (.w 4) (.w 2)) 4 2 = true ∧ r (.div (.w 3) (.w 4) (.w 2)) 4 0xD5555556 = true
      ∧ r (.shl (.w 3) (.w 1) (.w 5)) 1 0x80000000 = true ∧ r (.shr (.w 3) (.w 4) (.w 5)) 1 1 = true
      ∧ r (.sra (.w 3) (.w 4) (.w 5)) 1 0xFFFFFFFF = true ∧ r (.min (.w 3) (.w 4) (.w 1)) 1 0x80000000 = true
      ∧ r (.max (.w 3) (.w 5) (.w 2)) 1 3 = true ∧ r (.and (.w 3) (.w 1) (.w 2)) 1 3 = true ∧ r (.or (.w 3) (.w 1) (.w 8)) 1 0x17 = true
      ∧ r (.xor (.w 3) (.w 1) (.w 2)) 1 4 = true ∧ r (.bfxu (.w 3) (.w 5) (.w 6)) 1 0xFF = true
      ∧ r (.bfx (.w 3) (.w 5) (.w 6)) 1 0xFFFFFFFF = true ∧ r (.agen (.w 3) (.w 1) (.w 4)) 2 7 = true
      ∧ ends (.bfi (.w 4) (.w 5) (.w 6)) 1 2 ((wState.seen wFiring 1).wrote (.w 4) 0x80000FF0) = true
      ∧ ends (.agen2 (.w 2) (.w 1) (.w 6)) 2 2 ((wState.seen wFiring 2).wrote (.w 2) (7 + 0x104)) = true := by
  decide +kernel

theorem witness_ImmediatesCountsAndSelect :
    wState.firing wState.tile wState.slot = some wFiring ∧ wView.src (.w 4) = .ok 0x80000000 ∧ wView.takes (.w 3) = true
      ∧ wView.src (.w 3) = .ok 0 ∧ wView.src (.w 1) = .ok 7
      ∧ (Instr.sel (.w 3) (.w 1) (.w 2)).check wfTest = none ∧ wView.src .z = .ok 0 := by
  decide +kernel

theorem test_immediates_and_counts :
    let r (i : Instr) (x : W32) : Bool := ends i 1 2 ((wState.seen wFiring 1).wrote (.w 3) x)
    r (.addi (.w 3) (.w 1) 0x1FF) 6 = true ∧ r (.shli (.w 3) (.w 1) 31) 0x80000000 = true ∧ r (.shri (.w 3) (.w 4) 31) 1 = true
      ∧ r (.srai (.w 3) (.w 4) 31) 0xFFFFFFFF = true ∧ r (.clz (.w 3) .z) 32 = true ∧ r (.clz (.w 3) (.w 1)) 29 = true
      ∧ r (.popc (.w 3) (.w 6)) 2 = true ∧ r (.brev (.w 3) (.w 1)) 0xE0000000 = true ∧ r (.sel (.w 3) (.w 1) (.w 2)) 3 = true
      ∧ ends (.sel (.w 2) (.w 1) (.w 4)) 1 2 ((wState.seen wFiring 1).wrote (.w 2) 7) = true := by
  decide +kernel

theorem witness_MovesAndCompacts :
    wState.firing wState.tile wState.slot = some wFiring ∧ wView.takes (.w 3) = true ∧ wView.src (.w 1) = .ok 7
      ∧ isV (.w 3) = false ∧ isV (.w 1) = false ∧ ¬(isO (.w 3) = true ∧ isI (.w 1) = true) ∧ wView.src (.w 4) = .ok 0x80000000
      ∧ wView.takes (.w 4) = true := by
  decide +kernel

theorem test_moves_and_compacts :
    let r (i : Instr) (n : Nat) (d : BitVec 5) (x : W32) : Bool := ends i 1 n ((wState.seen wFiring 1).wrote (.w d) x)
    r (.mov (.w 3) (.k 3) 0) 2 3 33 = true ∧ r (.li (.w 3) 0xFFFE) 2 3 0xFFFFFFFE = true ∧ r (.lih (.w 1) 0x1234) 2 1 0x12340007 = true
      ∧ ends (.tget (.w 3) (.i 0) 0 2) 12 2 ((wState.seen wFiring 12).wrote (.w 3) 50) = true
      ∧ r (.cMov 3 1) 1 3 7 = true ∧ r (.cLi 3 0x1F) 1 3 0xFFFFFFFF = true ∧ r (.cAdd 1 2) 1 1 10 = true
      ∧ r (.cSub 1 2) 1 1 4 = true ∧ r (.cAddi 1 0x1F) 1 1 6 = true ∧ r (.cAnd 1 2) 1 1 3 = true ∧ r (.cOr 1 8) 1 1 0x17 = true
      ∧ r (.cXor 1 2) 1 1 4 = true ∧ r (.cShli 1 31) 1 1 0x80000000 = true ∧ r (.cShri 4 31) 1 4 1 = true
      ∧ ends (.cTget 3 1) 12 1 ((wState.seen wFiring 12).wrote (.w 3) 49) = true
      ∧ ends .cNop 59 1 (wState.seen wFiring 59) = true ∧ ends .nop 59 2 (wState.seen wFiring 59) = true := by
  decide +kernel

theorem witness_PredicatesAndMasks :
    wState.firing wState.tile wState.slot = some wFiring ∧ wView.src (.w 1) = .ok 7 ∧ wView.src (.w 5) = .ok 0xFFFFFFFF
      ∧ wView.src (.w 2) = .ok 3 ∧ isNanF 0xFFFFFFFF = true ∧ isNanF 7 = false ∧ isNanF 3 = false ∧ wView.spatial (.v 1) = .ok (ramp 1)
      ∧ wView.spatial (.v 2) = .ok (ramp 2) ∧ wView.takes (.w 3) = true := by
  decide +kernel

theorem test_predicates_and_masks :
    let r (i : Instr) (cls n : Nat) (x : Bool) : Bool := ends i cls 2 ((wState.seen wFiring cls).setPred n x)
    let m (i : Instr) (n : Nat) (x : BitVec 16) : Bool := ends i 7 2 ((wState.seen wFiring 7).setMask n x)
    r (.pcmpEq 2 (.w 1) (.w 1)) 5 2 true = true ∧ r (.pcmpNe 2 (.w 1) (.w 1)) 5 2 false = true
      ∧ r (.pcmpLt 2 (.w 5) (.w 1)) 5 2 true = true ∧ r (.pcmpLtu 2 (.w 5) (.w 1)) 5 2 false = true
      ∧ r (.pcmpEq 0 (.w 1) (.w 1)) 5 0 true = true ∧ r (.pfcmpEq 2 .z (.w 4)) 6 2 true = true
      ∧ r (.pfcmpLt 2 (.w 5) (.w 1)) 6 2 false = true ∧ r (.pfcmpUn 2 (.w 5) (.w 1)) 6 2 true = true
      ∧ r (.pfcmpLe 2 (.w 4) .z) 6 2 true = true ∧ r (.pfcmpLt 2 (.w 4) .z) 6 2 false = true
      ∧ r (.plog 2 0 1 8) 5 2 true = true ∧ r (.plog 2 0 3 8) 5 2 false = true
      ∧ m (.mcmpEq 1 (.v 1) (.v 1) 1) 1 0x00FF = true ∧ m (.mcmpNe 1 (.v 1) (.v 1) 0) 1 0 = true
      ∧ m (.mcmpLt 1 (.v 1) (.v 2) 0) 1 0xFFFF = true ∧ m (.mcmpLtu 3 (.v 2) (.v 1) 0) 3 0 = true
      ∧ m (.mfcmpLt 1 (.v 3) (.w 5) 0) 1 0 = true ∧ m (.mfcmpUn 1 (.v 3) (.w 5) 1) 1 0x00FF = true
      ∧ m (.mfcmpEq 1 (.v 3) (.v 4) 1) 1 0x00FF = true ∧ m (.mfcmpLe 1 (.v 3) (.v 4) 0) 1 0xFFFF = true
      ∧ m (.mlog 1 0 1 4) 1 0xFF00 = true ∧ ends (.mpop (.w 3) 1) 7 2 ((wState.seen wFiring 7).wrote (.w 3) 8) = true
      ∧ ends (.mfirst (.w 3) 2) 7 2 ((wState.seen wFiring 7).wrote (.w 3) 16) = true
      ∧ ends (.mfirst (.w 3) 1) 7 2 ((wState.seen wFiring 7).wrote (.w 3) 0) = true := by
  decide +kernel


/-! ## Vectors -/

/-- The view after the firing of the tests has paid for `l` and written the lanes `g` to v7 under mask `m`. -/
def wLanes (cls : Nat) (l : List Opnd) (m : BitVec 16) (g : Nat → W32) : View :=
  (((wState.seen wFiring cls).bill l).vwrote (.v 7) m { bits := ofLanes g } l)

theorem witness_LaneMoves :
    wState.firing wState.tile wState.slot = some wFiring ∧ wView.mask 1 = 0x00FF ∧ wView.mask 2 = 0
      ∧ wView.lanesOf false (.v 2) = .ok (ramp 2) ∧ wView.lanesOf true (.v 2) = .ok (ramp 2)
      ∧ wView.lanesOf true (.v 1) = .ok (ramp 1) ∧ wView.src (.w 1) = .ok 7 ∧ wView.src (.w 5) = .ok 0xFFFFFFFF
      ∧ ([0, 0x00FF, 0xFFFF].map fun m => wView.vtakes (.v 7) m 0) = [true, true, true]
      ∧ wView.vec (.v 5) = .ok { bits := floats, tag := 0x10 } ∧ wView.takes (.w 3) = true
      ∧ isV (.v 7) = true ∧ wView.vtakes (.v 7) 0x00FF 0x10 = true ∧ (isO (.o 1) = true ∧ isI (.i 0) = true)
      ∧ wView.vec (.i 0) = .ok { bits := ramp 3 } ∧ wView.vtakes (.v 7) (BitVec.twoPow 16 15) 0 = true
      ∧ wView.vtakes (.o 1) (BitVec.twoPow 16 15) 0 = true := by
  decide +kernel

/-- Under m1, lanes 0 to 7; the lane numbers wrap modulo 16. -/
theorem test_lane_moves :
    let r (i : Instr) (cls : Nat) (l : List Opnd) (g : Nat → W32) : Bool := ends i cls 2 (wLanes cls l 0x00FF g)
    r (.vbcast (.v 7) (.v 1) (.w 5) 1) 8 [.v 1] (fun _ => 31) = true
      ∧ r (.vrotl (.v 7) (.v 1) (.w 5) 1) 10 [.v 1] (fun l => BitVec.ofNat 32 (16 + (l + 15) % 16)) = true
      ∧ r (.vperm (.v 7) (.v 1) (.v 2) 1) 10 [.v 1, .v 2] (fun l => BitVec.ofNat 32 (16 + l)) = true
      ∧ ends (.vext (.w 3) (.v 1) (.w 5)) 10 2 ((wState.seen wFiring 10).wrote (.w 3) 31) = true
      ∧ ends (.mov (.v 7) (.v 5) 0) 8 2 ((wState.seen wFiring 8).vwrote (.v 7) 0xFFFF { bits := floats, tag := 0x10 } []) = true
      ∧ ends (.mov (.v 7) (.w 1) 2) 8 2 (wState.seen wFiring 8) = true
      ∧ ends (.vins (.v 1) (.w 2) (.w 5)) 10 2
          ((wState.seen wFiring 10).vwrote (.v 1) 0x8000 { bits := splat 3 } []) = true
      ∧ ends (.tset (.o 1) (.w 2) 15) 12 2 ((wState.seen wFiring 12).vwrote (.o 1) 0x8000 { bits := splat 3 } []) = true := by
  decide +kernel

theorem witness_Reductions :
    wState.firing wState.tile wState.slot = some wFiring ∧ wView.spatial (.v 1) = .ok (ramp 1) ∧ wView.takes (.w 3) = true
      ∧ (List.range 16).filter (fun k => (wView.mask 2).getLsbD k) = [] ∧ (List.range 16).filter (fun k => (wView.mask 1).getLsbD k) ≠ []
      ∧ wView.lanesOf (decide (wView.mask 1 ≠ 0)) (.v 1) = .ok (ramp 1) ∧ wView.vtakes (.v 7) (wView.mask 1) 0 = true := by
  decide +kernel

/-- Lanes 0 to 7 of v1 hold 16 to 23, so that they sum to 156. -/
theorem test_reductions :
    let r (i : Instr) (x : W32) : Bool := ends i 11 2 (((wState.seen wFiring 11).bill [.v 1]).wrote (.w 3) x)
    r (.vredAdd (.w 3) (.v 1) 1) 156 = true ∧ r (.vredMin (.w 3) (.v 1) 1) 16 = true ∧ r (.vredMax (.w 3) (.v 1) 1) 23 = true
      ∧ r (.vredAdd (.w 3) (.v 1) 2) 0 = true ∧ r (.vredMin (.w 3) (.v 1) 2) 0x7FFFFFFF = true
      ∧ r (.vredMax (.w 3) (.v 1) 2) 0x80000000 = true
      ∧ ends (.vscanAdd (.v 7) (.v 1) 1) 11 2
          (wLanes 11 [.v 1] 0x00FF fun l => BitVec.ofNat 32 ((l + 1) * 16 + l * (l + 1) / 2)) = true := by
  decide +kernel

theorem witness_VectorIntegerResults :
    wState.firing wState.tile wState.slot = some wFiring ∧ wView.mask 1 = 0x00FF
      ∧ ([0, 0x00FF, 0xFFFF].map fun m => wView.vtakes (.v 7) m 0 && wView.vtakes (.o 1) m 0) = [true, true, true]
      ∧ wView.lanesOf true (.v 1) = .ok (ramp 1) ∧ wView.lanesOf true (.v 2) = .ok (ramp 2) ∧ wView.lanesOf true (.v 7) = .ok 0
      ∧ wView.lanesOf true (.w 4) = .ok (splat 0x80000000) ∧ wView.spatial (.v 1) = .ok (ramp 1) ∧ wView.spatial (.v 2) = .ok (ramp 2) := by
  decide +kernel

theorem test_vector_integer :
    let r (i : Instr) (cls : Nat) (l : List Opnd) (g : Nat → W32) : Bool := ends i cls 2 (wLanes cls l 0x00FF g)
    let n (g : Nat → Nat) (l : Nat) : W32 := BitVec.ofNat 32 (g l)
    r (.vadd (.v 7) (.v 1) (.v 2) 1) 8 [.v 1, .v 2] (n fun l => 48 + 2 * l) = true
      ∧ r (.vsub (.v 7) (.v 1) (.v 2) 1) 8 [.v 1, .v 2] (fun _ => 0xFFFFFFF0) = true
      ∧ r (.vmul (.v 7) (.v 1) (.v 2) 1) 9 [.v 1, .v 2] (n fun l => (16 + l) * (32 + l)) = true
      ∧ r (.vmulh (.v 7) (.v 1) (.w 4) 1) 9 [.v 1, .w 4] (n fun l => (2 ^ 32 - (16 + l + 1) / 2) % 2 ^ 32) = true
      ∧ r (.vand (.v 7) (.v 1) (.w 8) 1) 8 [.v 1, .w 8] (n fun l => 16 + l % 2) = true
      ∧ r (.vor (.v 7) (.v 1) (.v 2) 1) 8 [.v 1, .v 2] (n fun l => 48 + l) = true
      ∧ r (.vxor (.v 7) (.v 1) (.v 2) 1) 8 [.v 1, .v 2] (fun _ => 48) = true
      ∧ r (.vshl (.v 7) (.v 1) (.w 5) 1) 8 [.v 1, .w 5] (fun l => if l % 2 = 0 then 0 else 0x80000000) = true
      ∧ r (.vshr (.v 7) (.v 1) (.w 2) 1) 8 [.v 1, .w 2] (n fun l => (16 + l) / 8) = true
      ∧ r (.vsra (.v 7) (.w 4) (.w 5) 1) 8 [.w 4, .w 5] (fun _ => 0xFFFFFFFF) = true
      ∧ r (.vmin (.v 7) (.v 1) (.w 5) 1) 8 [.v 1, .w 5] (fun _ => 0xFFFFFFFF) = true
      ∧ r (.vmax (.v 7) (.v 1) (.w 5) 1) 8 [.v 1, .w 5] (n fun l => 16 + l) = true
      ∧ r (.vclz (.v 7) (.v 1) 1) 8 [.v 1] (fun _ => 27) = true
      ∧ r (.vpopc (.v 7) (.v 1) 1) 8 [.v 1] (n fun l => 1 + [0, 1, 1, 2, 1, 2, 2, 3].getD l 0) = true
      ∧ ends (.vmad (.v 2) (.v 1) (.w 2) 1) 9 2 (((wState.seen wFiring 9).bill [.v 2, .v 1, .w 2]).vwrote (.v 2) 0x00FF
          { bits := ofLanes (n fun l => 32 + l + 3 * (16 + l)) } [.v 2, .v 1, .w 2]) = true
      ∧ ends (.cVadd 1 2) 8 1 (((wState.seen wFiring 8).bill [.v 1, .v 2]).vwrote (.v 1) 0xFFFF
          { bits := ofLanes (n fun l => 48 + 2 * l) } [.v 1, .v 2]) = true := by
  decide +kernel

/-- v5 has a tag of two levels: VSEL reads what it stands for. -/
theorem witness_VectorSelect :
    wState.firing wState.tile wState.slot = some wFiring ∧ wView.spatial (.v 1) = .ok (ramp 1) ∧ wView.spatial (.v 2) = .ok (ramp 2)
      ∧ wView.spatial (.v 5) = .ok (reconstruct floats 0x10).1
      ∧ ends (.vsel (.v 7) (.v 1) (.v 2) 1) 8 2 (wLanes 8 [.v 1, .v 2] 0xFFFF fun l =>
          BitVec.ofNat 32 (if l < 8 then 16 + l else 32 + l)) = true
      ∧ ends (.vsel (.v 7) (.v 1) (.v 2) 0) 8 2 (wLanes 8 [.v 1, .v 2] 0xFFFF fun l => BitVec.ofNat 32 (16 + l)) = true := by
  decide +kernel

/-- The ramps in 8-bit elements: 16 + l, 0, 0, 0; VPACK of 16-bit pairs, VUNPK of the upper half, both of no saturation; and
saturation at both ends (R141, R142). -/
theorem witness_PackedResults :
    wState.firing wState.tile wState.slot = some wFiring ∧ wView.spatial (.v 1) = .ok (ramp 1) ∧ wView.spatial (.v 2) = .ok (ramp 2)
      ∧ wView.spatial (.w 4) = .ok (splat 0x80000000) ∧ wView.src (.w 1) = .ok 7
      ∧ ends (.vadds (.v 7) (.v 1) (.v 2) 0) 8 2 (wLanes 8 [.v 1, .v 2] 0xFFFF fun l => BitVec.ofNat 32 (48 + 2 * l)) = true
      ∧ ends (.vadds (.v 7) (.w 4) (.w 4) 1) 8 2 (wLanes 8 [.w 4, .w 4] 0xFFFF fun _ => 0x80000000) = true
      ∧ ends (.vsubs (.v 7) (.w 4) (.w 2) 0) 8 2 (wLanes 8 [.w 4, .w 2] 0xFFFF fun _ => 0x800000FD) = true
      ∧ ends (.vpack (.v 7) (.w 4) (.v 1) 1) 10 2 (wLanes 10 [.w 4, .v 1] 0xFFFF fun l =>
          if l < 8 then 0x80008000 else BitVec.ofNat 32 (16 + 2 * (l - 8) + (17 + 2 * (l - 8)) * 65536)) = true
      ∧ ends (.vunpk (.v 7) (.v 1) (.w 1) 1) 10 2 (((wState.seen wFiring 10).bill [.v 1]).vwrote (.v 7) 0xFFFF
          { bits := ofLanes fun l => BitVec.ofNat 32 (if l % 2 = 0 then 24 + l / 2 else 0) } [.v 1]) = true := by
  decide +kernel

/-- A vector with two levels over v1, whose tag is 0, one with five levels, an equal tag and an empty mask. -/
theorem witness_MaskedWrite :
    wView.vec (.v 1) = .ok { bits := ramp 1 } ∧ wView.vec (.o 1) = .ok {} ∧ isO (.o 1) = true ∧ isV (.v 1) = true
      ∧ (0x00FF : BitVec 16) ≠ 0 ∧ ({ bits := ramp 1 } : VReg).tag ≠ 0x10
      ∧ ({ bits := ramp 1 } : VReg).spatial = .ok (ramp 1) ∧ ({ bits := floats, tag := 0x10 } : VReg).spatial = .ok (reconstruct floats 0x10).1
      ∧ 4 < tagLevel 0x28 ∧ wView.vec (.v 6) = .ok { bits := floats, tag := 0x28 }
      ∧ wView.vput (.v 1) 0x00FF { tag := 0x28 } [] = .error { code := 0x06, tval := 0x28 }
      ∧ wView.vput (.v 6) 0x00FF { bits := ramp 1 } [] = .error { code := 0x06, tval := 0x28 }
      ∧ (wView.vwrote (.v 1) 0x00FF { bits := ramp 2 } []).vec (.v 1)
          = .ok { bits := ofLanes fun l => BitVec.ofNat 32 (if l < 8 then 32 + l else 16 + l) } := by
  decide +kernel

/-- Frame 2 has 8 slots, of which slot 1 is present: slots 8 and 31 are beyond it, slot 7 is absent. -/
theorem witness_Operands :
    wState.firing wState.tile wState.slot = some wFiring ∧ wView.frame.size = 8
      ∧ wView.src (.f 8) = .error { code := 0x04, tval := 8 } ∧ wView.src (.f 7) = .error { code := 0x05, tval := 7 }
      ∧ wView.src (.f 1) = .ok 9 ∧ wView.frame.pres.get false 7 = false ∧ wView.frame.pres.get false 1 = true
      ∧ (wView.f.o.get {} 1).tag = 0 ∧ wView.src (.w 1) = .ok 7
      ∧ leads (.add (.w 3) (.f 8) (.w 1)) wState (wState.trapped wFiring 1 { code := 0x04, tval := 8 }) = true
      ∧ leads (.fmul (.w 3) (.w 1) (.f 7)) wState (wState.trapped wFiring 20 { code := 0x05, tval := 7 }) = true
      ∧ wView.src (.i 0) = .ok 48 ∧ wView.src .it = .ok 5 ∧ wView.src .sq = .ok 4 ∧ wView.src .cx = .ok 1 ∧ wView.src .fp = .ok 2
      ∧ wView.src (.k 3) = .ok 33 := by
  decide +kernel


/-! ## Floating point -/

/-- Four F32 values, over and over. -/
def fours (a b c d : W32) (l : Nat) : W32 := [a, b, c, d].getD (l % 4) 0

theorem witness_RoundingAndSpecials :
    (3 : Nat) ≠ 0 ∧ roundFin f32 0 false 3 0 = (0x40400000, 0) ∧ unpack f32 0x40400000 = .fin false 0xC00000 (-22)
      ∧ unF32 0x3F800000 = .fin false 0x800000 (-23) ∧ (roundFin f32 0 false 0x1000001 0).1 = 0x4B800000
      ∧ (roundFin f32 0 false 0x1000001 0).2 = fNX ∧ (roundFin f32 0 false 0x1000003 0).1 = 0x4B800002
      ∧ unF32 0x7F800000 = .inf false ∧ unF32 0xFF800000 = .inf true ∧ isZeroF 0x80000000 = true ∧ isZeroF 0 = true
      ∧ isNanF 0x7F800001 = true ∧ unF32 0x7F800001 = .nan true ∧ unF32 0x7FC00000 = .nan false ∧ isNanF 0x3F800000 = false
      ∧ unF32 0xBF800000 = .fin true 0x800000 (-23) ∧ (0x800000 : Nat) ≠ 0 := by
  decide +kernel

/-- Sources of tag 0, a broadcast w register beside a tagged vector for none of the excluded pairs, VFMA with all of tag 0. -/
theorem witness_VectorArithmetic :
    let v := wView
    wState.firing wState.tile wState.slot = some wFiring ∧ v.valueOf true (.v 3) = .ok floats ∧ v.valueOf true (.v 4) = .ok floats
      ∧ v.valueOf true (.v 7) = .ok 0 ∧ v.vtakes (.v 7) 0xFFFF 0 = true ∧ v.vtakes (.v 3) 0x00FF 0 = true
      ∧ v.tagOf (.v 3) = 0 ∧ v.tagOf (.v 4) = 0 ∧ v.tagOf (.v 7) = 0 ∧ isBroadcast (.v 4) = false
      ∧ v.vec (.v 5) = .ok { bits := floats, tag := 0x10 } ∧ tagLevel 0x10 = 2 ∧ v.vtakes (.v 7) 0x00FF 0x10 = true := by
  decide +kernel

theorem test_vector_arithmetic :
    let r (i : Instr) (cls n : Nat) (d : Opnd) (l : List Opnd) (g : Nat → W32) : Bool :=
      ends i cls n (((wState.seen wFiring cls).bill l).vwrote d 0xFFFF { bits := ofLanes g } l)
    let ab : List Opnd := [.v 3, .v 4]
    r (.vfadd (.v 7) (.v 3) (.v 4) 0) 14 2 (.v 7) ab (fours 0x40000000 0x40800000 0x40C00000 0x41000000) = true
      ∧ r (.vfsub (.v 7) (.v 3) (.v 4) 0) 14 2 (.v 7) ab (fun _ => 0) = true
      ∧ r (.vfmul (.v 7) (.v 3) (.v 4) 0) 14 2 (.v 7) ab (fours 0x3F800000 0x40800000 0x41100000 0x41800000) = true
      ∧ r (.vfma (.v 3) (.v 3) (.v 4) 0) 15 2 (.v 3) [.v 3, .v 3, .v 4] (fours 0x40000000 0x40C00000 0x41400000 0x41A00000) = true
      ∧ r (.cVfadd 3 4) 14 1 (.v 3) ab (fours 0x40000000 0x40800000 0x40C00000 0x41000000) = true
      ∧ r (.cVfmul 3 4) 14 1 (.v 3) ab (fours 0x3F800000 0x40800000 0x41100000 0x41800000) = true
      ∧ r (.cVfma 3 4) 15 1 (.v 3) [.v 3, .v 3, .v 4] (fours 0x40000000 0x40C00000 0x41400000 0x41A00000) = true
      ∧ ends (.vfneg (.v 7) (.v 5) 0) 13 2 ((wState.seen wFiring 13).vwrote (.v 7) 0xFFFF
          { bits := ofLanes (fours 0xBF800000 0xC0000000 0xC0400000 0xC0800000), tag := 0x10 } []) = true := by
  decide +kernel

/-- v5 has a tag of two levels: with itself, with the broadcast w1, and as the destination of VFMA. -/
theorem witness_HaarArithmetic :
    let v := wView
    let h : VReg := { bits := floats, tag := 0x10 }
    wState.firing wState.tile wState.slot = some wFiring ∧ v.vec (.v 5) = .ok h ∧ v.vec (.w 1) = .ok { bits := splat 7 }
      ∧ h.tag ≠ 0 ∧ tagLevel h.tag ≤ 4 ∧ isBroadcast (.w 1) = true ∧ v.vtakes (.v 7) 0xFFFF 0x10 = true ∧ v.vtakes (.v 5) 0x00FF 0x10 = true
      ∧ tagLevel 0 ≤ 4 := by
  decide +kernel

/-- R146: v5 + 2 adds to lanes 0, 4, 8 and 12 alone, v5·2 doubles every lane. k3 holds 33, w10 holds 2.0. -/
theorem test_haar_arithmetic :
    let f := { wFiring with w := wFiring.w ++ [(10, 0x40000000)] }
    let s := wOn 1 wTile f
    let r (i : Instr) (cls : Nat) (d : Opnd) (g : Nat → W32) : Bool :=
      leads i s (s.ran f cls 2 ((s.seen f cls).vwrote d 0xFFFF { bits := ofLanes g, tag := 0x10 } []))
    r (.vfadd (.v 7) (.v 5) (.w 10) 0) 14 (.v 7) (fours 0x40400000 0x40000000 0x40400000 0x40800000) = true
      ∧ r (.vfsub (.v 7) (.w 10) (.v 5) 0) 14 (.v 7) (fours 0x3F800000 0xC0000000 0xC0400000 0xC0800000) = true
      ∧ r (.vfmul (.v 7) (.v 5) (.w 10) 0) 14 (.v 7) (fours 0x40000000 0x40800000 0x40C00000 0x41000000) = true
      ∧ r (.vfadd (.v 7) (.v 5) (.v 5) 0) 14 (.v 7) (fours 0x40000000 0x40800000 0x40C00000 0x41000000) = true
      ∧ r (.vfma (.v 5) (.v 5) (.w 10) 0) 15 (.v 5) (fours 0x40400000 0x40C00000 0x41100000 0x41400000) = true
      ∧ r (.vfma (.v 5) (.w 10) (.w 10) 0) 15 (.v 5) (fours 0x40A00000 0x40000000 0x40400000 0x40800000) = true := by
  decide +kernel

theorem witness_VectorFunctions :
    let v := wView
    wState.firing wState.tile wState.slot = some wFiring ∧ v.valueOf true (.v 3) = .ok floats ∧ v.valueOf true (.v 4) = .ok floats
      ∧ v.valueOf true (.v 7) = .ok 0 ∧ v.vtakes (.v 7) 0xFFFF 0 = true ∧ v.src (.w 2) = .ok 3
      ∧ v.valueOf false (.v 5) = .ok floats ∧ v.mask 2 = 0 ∧ v.vtakes (.v 7) 0 0 = true
      ∧ unF32 0x40000000 = .fin false 0x800000 (-22) ∧ unF32 0x3F800000 = .fin false 0x800000 (-23) ∧ (0x800000 : Nat) ≠ 0
      ∧ (word32 (divFmt f32 (unF32 0x3F800000) (unF32 0x40000000))).1 = 0x3F000000 ∧ unF32 0x3F000000 = .fin false 0x800000 (-24)
      ∧ (word32 (sqrtFmt f32 (unF32 0x40800000))).1 = 0x40000000 ∧ (word32 (rsqFmt f32 (unF32 0x40800000))).1 = 0x3F000000 := by
  decide +kernel

theorem test_vector_functions :
    let r (i : Instr) (cls : Nat) (l : List Opnd) (fl : Flags) (g : Nat → W32) : Bool :=
      ends i cls 2 ((((wState.seen wFiring cls).bill l).flag fl).vwrote (.v 7) 0xFFFF { bits := ofLanes g } l)
    r (.vfabs (.v 7) (.w 5) 0) 13 [.w 5] 0 (fun _ => 0x7FFFFFFF) = true
      ∧ r (.vfsqrt (.v 7) (.w 4) 0) 17 [.w 4] 0 (fun _ => 0x80000000) = true
      ∧ r (.vfrcp (.v 7) .z 0) 17 [.z] fDZ (fun _ => 0x7F800000) = true
      ∧ r (.vfrsq (.v 7) (.w 4) 0) 17 [.w 4] fDZ (fun _ => 0xFF800000) = true
      ∧ r (.vfdiv (.v 7) (.v 3) (.v 4) 0) 18 [.v 3, .v 4] 0 (fun _ => 0x3F800000) = true
      ∧ r (.vfmin (.v 7) (.v 3) .z 0) 13 [.v 3, .z] 0 (fun _ => 0) = true
      ∧ r (.vfmax (.v 7) (.v 3) .z 0) 13 [.v 3, .z] 0 (fours 0x3F800000 0x40000000 0x40400000 0x40800000) = true
      ∧ r (.vfclmp (.v 7) (.v 3) (.v 4) 0) 13 [.v 7, .v 3, .v 4] 0 (fours 0x3F800000 0x40000000 0x40400000 0x40800000) = true
      ∧ r (.vfexp2 (.v 7) .z 0) 19 [.z] 0 (fun _ => 0x3F800000) = true ∧ r (.vflog2 (.v 7) .z 0) 19 [.z] fDZ (fun _ => 0xFF800000) = true
      ∧ r (.vfsin (.v 7) .z 0) 19 [.z] 0 (fun _ => 0) = true ∧ r (.vftanh (.v 7) .z 0) 19 [.z] 0 (fun _ => 0) = true
      ∧ r (.vfsig (.v 7) .z 0) 19 [.z] 0 (fun _ => 0x3F000000) = true
      ∧ r (.vfrnd (.v 7) (.v 3) (.w 2) 0) 14 [.v 3] 0 (fours 0x3F800000 0x40000000 0x40400000 0x40800000) = true
      ∧ r (.vhmul (.v 7) .z (.v 3) 0) 16 [.z, .v 3] 0 (fun _ => 0) = true
      ∧ r (.vhfma (.v 7) .z (.v 3) 0) 16 [.v 7, .z, .v 3] 0 (fun _ => 0) = true
      ∧ r (.vbfma (.v 7) .z (.v 3) 0) 16 [.v 7, .z, .v 3] 0 (fun _ => 0) = true := by
  decide +kernel

/-- R153: t = d·(b − a) + a, with d = v3, a = 0 and b = v4; VFLRP refuses a staging payload. -/
theorem witness_VectorInterpolate :
    let v := wView
    wState.firing wState.tile wState.slot = some wFiring ∧ v.valueOf true (.v 3) = .ok floats ∧ v.valueOf true .z = .ok 0
      ∧ v.valueOf true (.v 4) = .ok floats ∧ v.vtakes (.v 3) 0xFFFF 0 = true
      ∧ (Instr.vflrp (.v 3) .z (.v 4) 0).check wfTest = none
      ∧ ends (.vflrp (.v 3) .z (.v 4) 0) 15 2 (((wState.seen wFiring 15).bill [.v 3, .z, .v 4]).vwrote (.v 3) 0xFFFF
          { bits := ofLanes (fours 0x3F800000 0x40800000 0x41100000 0x41800000) } [.v 3, .z, .v 4]) = true := by
  decide +kernel

theorem witness_ScalarFloatResults :
    let v := wView
    wState.firing wState.tile wState.slot = some wFiring ∧ v.src (.w 1) = .ok 7 ∧ v.src (.w 2) = .ok 3 ∧ v.src (.w 3) = .ok 0
      ∧ v.takes (.w 3) = true ∧ isV (.w 3) = false ∧ isV (.w 1) = false ∧ ¬(isO (.w 3) = true ∧ isI (.w 1) = true) := by
  decide +kernel

/-- 7 and 3 are the least numbers but for 7 and 3: their product falls below every F32 value, and 7 as an integer is 7.0. -/
theorem test_scalar_floats :
    let r (i : Instr) (cls : Nat) (fl : Flags) (x : W32) : Bool := ends i cls 2 (((wState.seen wFiring cls).flag fl).wrote (.w 3) x)
    r (.fadd (.w 3) (.w 1) (.w 2)) 20 0 10 = true ∧ r (.fmul (.w 3) (.w 1) (.w 2)) 20 (fUF ||| fNX) 0 = true
      ∧ r (.ffma (.w 3) .z (.w 2)) 20 0 0 = true ∧ r (.cvtI2f (.w 3) (.w 1) 0) 21 0 0x40E00000 = true
      ∧ r (.cvtF2i (.w 3) (.w 5) 0) 21 fNV 0 = true ∧ r (.cvtF2i (.w 3) (.w 1) 3) 21 fNX 1 = true
      ∧ r (.cvtF2h (.w 3) .z (.w 4) 0) 21 0 0x80000000 = true ∧ r (.cvtF2b (.w 3) .z (.w 4) 0) 21 0 0x80000000 = true
      ∧ r (.cvtH2f (.w 3) (.w 4) (.w 2) 0) 21 0 0x80000000 = true ∧ r (.cvtB2f (.w 3) (.w 4) .z 0) 21 0 0 = true := by
  decide +kernel

theorem witness_VectorConversions :
    let v := wView
    wState.firing wState.tile wState.slot = some wFiring ∧ v.valueOf true (.v 3) = .ok floats ∧ v.valueOf true (.v 4) = .ok floats
      ∧ v.valueOf true (.i 0) = .ok (ramp 3) ∧ isV (.v 7) = true ∧ isO (.o 1) = true ∧ isI (.i 0) = true ∧ v.src (.w 2) = .ok 3
      ∧ (3 : W32).toNat % 4 = 3 ∧ v.src (.w 8) = .ok 0x11 ∧ (0x11 : W32).toNat % 4 ≠ 3 ∧ v.valueOf true (.w 5) = .ok (splat 0xFFFFFFFF)
      ∧ (splat 0xFFFFFFFF).toNat % 256 = 255 ∧ floats.toNat % 256 ≠ 255 := by
  decide +kernel

theorem test_vector_conversions :
    let r (i : Instr) (cls : Nat) (l : List Opnd) (fl : Flags) (x : VBits) : Bool :=
      ends i cls 2 ((((wState.seen wFiring cls).bill l).flag fl).vwrote (.v 7) 0xFFFF { bits := x } l)
    r (.cvtF2i (.v 7) (.v 3) 0) 21 [.v 3] 0 (ofLanes fun l => BitVec.ofNat 32 (l % 4 + 1)) = true
      ∧ r (.cvtI2f (.v 7) (.w 2) 0) 21 [.w 2] 0 (splat 0x40400000) = true
      ∧ r (.cvtF2h (.v 7) (.v 3) .z 0) 21 [.v 3, .z] 0 (ofLanes (fours 0x3C00 0x4000 0x4200 0x4400)) = true
      ∧ r (.cvtF2b (.v 7) .z (.v 3) 0) 21 [.z, .v 3] 0 (ofLanes (fours 0x3F800000 0x40000000 0x40400000 0x40800000)) = true
      ∧ r (.cvtB2f (.v 7) (.v 3) (.w 2) 0) 21 [.v 3] 0 floats = true ∧ r (.cvtH2f (.v 7) .z (.w 2) 0) 21 [.z] 0 0 = true
      ∧ r (.cvtF2q (.v 7) (.v 3) (.w 2)) 22 [.v 3] fNV 255 = true
      ∧ r (.cvtQ2f (.v 7) .z (.w 8)) 22 [.z] 0 0 = true := by
  decide +kernel

/-- R79: 2.5 to even, −1.5 in each mode, 2^31, −2^31 and infinities. -/
theorem witness_FloatToInteger :
    unF32 0x40200000 = .fin false 0xA00000 (-22) ∧ f2i 0 0x40200000 = (2, fNX) ∧ f2i 3 0x40200000 = (3, fNX)
      ∧ f2i 0 0xBFC00000 = (0xFFFFFFFE, fNX) ∧ f2i 1 0xBFC00000 = (0xFFFFFFFF, fNX) ∧ f2i 2 0xBFC00000 = (0xFFFFFFFE, fNX)
      ∧ f2i 3 0xBFC00000 = (0xFFFFFFFF, fNX) ∧ f2i 0 0x4F000000 = (0x7FFFFFFF, fNV) ∧ f2i 0 0xCF000000 = (0x80000000, 0)
      ∧ f2i 0 0xCF000001 = (0x80000000, fNV) ∧ unF32 0xFF800000 = .inf true ∧ f2i 2 0xFF800000 = (0x80000000, fNV)
      ∧ isNanF 0x7FC00000 = true ∧ f2i 1 0x7FC00000 = (0, fNV) := by
  decide +kernel

/-! ## The Haar group and raster arithmetic -/

/-- The worked transform of R98. -/
theorem test_haar_forward :
    haarFwd 2 [0x40800000, 0x40000000, 0x3F800000, 0x3F800000] = ([0x40000000, 0x3F800000, 0x3F800000, 0], 0) := by
  decide +kernel

/-- v3 untagged, v5 of two levels, v6 of five; target tags of 2, 0 and 5 levels, for HTAG, HFWD and HUNPK. -/
theorem witness_HaarGroup :
    let v := wView
    wState.firing wState.tile wState.slot = some wFiring ∧ v.vec (.v 3) = .ok { bits := floats } ∧ v.vec (.v 5) = .ok { bits := floats, tag := 0x10 }
      ∧ v.vec (.v 6) = .ok { bits := floats, tag := 0x28 } ∧ v.src (.w 8) = .ok 0x11 ∧ v.valueOf true (.v 3) = .ok floats
      ∧ tagLevel ((0x11 : W32).extractLsb' 0 6) = 2 ∧ tagLevel ((7 : W32).extractLsb' 0 6) = 0 ∧ tagLevel ((0x28 : W32).extractLsb' 0 6) = 5
      ∧ tagLevel ((0x00280000 : W32).extractLsb' 16 6) = 5 ∧ tagLevel 0x10 = 2 ∧ tagLevel 0x28 = 5 ∧ v.takes (.w 3) = true := by
  decide +kernel

theorem test_haar_group :
    let k : Nat → W32 := fours 0x3F800000 0x40000000 0x40400000 0x40800000
    ends (.hinv (.v 7) (.v 3)) 23 2
        ({ wState.seen wFiring 23 with extra := [(23, 0)] }.vwrote (.v 7) 0xFFFF { bits := floats } [.v 3]) = true
      ∧ ends (.htag (.v 7) (.v 3) (.w 8)) 25 2 ((wState.seen wFiring 25).vwrote (.v 7) 0xFFFF { bits := floats, tag := 0x11 } []) = true
      ∧ ends (.hpack (.v 7) (.v 3) (.w 8)) 24 2
          ((wState.seen wFiring 24).vwrote (.v 7) 0xFFFF { bits := ofLanes fun l => if l < 2 then k 0 else 0 } []) = true
      ∧ ends (.hunpk (.v 7) (.v 3) (.w 8)) 24 2
          ((wState.seen wFiring 24).vwrote (.v 7) 0xFFFF { bits := ofLanes fun l => if l = 0 then k 0 else if l = 4 then k 1 else 0 } []) = true
      ∧ ends (.hqry (.w 3) (.v 5)) 25 2 ((wState.seen wFiring 25).wrote (.w 3) 0x10FFFF) = true
      ∧ leads (.hfwd (.v 7) (.v 3) (.w 1)) wState (wState.trapped wFiring 23 { code := 0x06, tval := 7 }) = true
      ∧ leads (.hinv (.v 7) (.v 6)) wState (wState.trapped wFiring 23 { code := 0x06, tval := 0x28 }) = true
      ∧ ends (.hthr (.v 7) (.v 3) (.w 8)) 24 2 ((wState.seen wFiring 24).vwrote (.v 7) 0xFFFF { bits := floats } []) = true
      ∧ goes (.hsett (.w 3) (.w 1) (.w 8)) wState (fun u => decide ((u.tileAt 1).th.get 0 1 = 7)) = true
      ∧ goes (.hsett (.w 3) (.w 1) (.w 8)) wState (fun u => decide ((u.firing 1 0).map (fun f => f.w.get 0 3) = some 0x3F000000)) = true := by
  decide +kernel

/-- An edge setup of which E0 = 256 everywhere, E1 = X and E2 = Y; the tile of pixels at (0, 0). Every pixel is covered, and at
pixel 0 the coordinates are 128/512 each (R165). -/
theorem witness_RasterResults :
    let c : VBits := ofLanes fun l => [(0 : W32), 0, 256, 1, 0, 0, 0, 1, 0].getD l 0
    let f := { wFiring with v := [(1, { bits := c }), (2, { bits := 0 }), (3, { bits := 0 })] }
    let s := wOn 1 wTile f
    s.firing s.tile s.slot = some f ∧ (s.view f).vec (.v 1) = .ok { bits := c } ∧ (s.view f).src .z = .ok 0
      ∧ (s.view f).valueOf true (.v 2) = .ok 0 ∧ (s.view f).valueOf true (.v 3) = .ok 0 ∧ (s.view f).vtakes (.v 7) 0xFFFF 0 = true
      ∧ goes (.edge 2 (.v 1) .z 1) s (fun u => decide ((u.firing 1 0).map (fun g => (g.m.get 0xFFFF 1, lane (g.v.get {} 4).bits 0,
          lane (g.v.get {} 5).bits 0)) = some (0xFFFF, 0x3E800000, 0x3E800000))) = true
      ∧ leads (.attr (.v 7) 1 (.w 2) 0) s (s.ran f 27 2
          (((s.seen f 27).bill [.v 2, .v 3, .w 2]).vwrote (.v 7) 0xFFFF { bits := splat 3 } [.v 2, .v 3, .w 2])) = true := by
  decide +kernel


/-! ## Control of a firing -/

/-- The firing of the tests at pc 10, in a loop of halfwords 8 to 20 with 2 passes left, inside one of halfwords 4 to 30 with 3. -/
def wLoop : Firing := { wFiring with pc := 10, loops := [⟨8, 20, 2⟩, ⟨4, 30, 3⟩] }

/-- Branches to 9 (in both loops), 5 (in the outer) and 40 (in none), one not taken; loops of count 7 and 0; SWITCH to a word and
beyond the routine. -/
theorem witness_BranchesAndLoops :
    let s := wOn 1 wTile wLoop
    let v := s.view wLoop
    let r (i : Instr) (g : Firing) : Bool := leads i s (s.jumped wLoop 59 { s.seen wLoop 59 with f := g })
    s.firing s.tile s.slot = some wLoop ∧ v.pred 1 ≠ decide ((0 : BitVec 1) = 1) ∧ v.pred 1 = decide ((1 : BitVec 1) = 1)
      ∧ v.src (.w 1) = .ok 7 ∧ v.src .z = .ok 0 ∧ v.src (.w 2) = .ok 3 ∧ v.src (.w 7) = .ok 0x40 ∧ v.src (.w 5) = .ok 0xFFFFFFFF
      ∧ wordAt 65 (((s.tcfg 1).code.drop 0).take 64) 0 (10 + 2 + 2 * 3) = true
      ∧ wordAt 65 (((s.tcfg 1).code.drop 0).take 64) 0 (10 + 2 + 2 * 0x40) = false
      ∧ r (.br 1 0 0x7FFFF) { wLoop with pc := 9 } = true ∧ r (.br 1 0 (-5)) { wLoop with pc := 5, loops := [⟨4, 30, 3⟩] } = true
      ∧ r (.br 0 0 30) { wLoop with pc := 40, loops := [] } = true ∧ r (.br 1 1 5) { wLoop with pc := 12 } = true
      ∧ r (.cBr 1 0 10) { wLoop with pc := 20, loops := [⟨4, 30, 3⟩] } = true ∧ r (.cBr 1 1 9) { wLoop with pc := 11 } = true
      ∧ r (.loop (.w 1) 6) { wLoop with pc := 12, loops := ⟨12, 18, 7⟩ :: wLoop.loops } = true
      ∧ r (.loop .z 8) { wLoop with pc := 8, loops := [⟨8, 20, 1⟩, ⟨4, 30, 3⟩] } = true
      ∧ r (.loopi 2 6) { wLoop with pc := 12, loops := ⟨12, 18, 2⟩ :: wLoop.loops } = true
      ∧ r (.cLoopi 2 6) { wLoop with pc := 11, loops := ⟨11, 17, 2⟩ :: wLoop.loops } = true
      ∧ r (.switch (.w 2) (.w 7)) { wLoop with pc := 18 } = true
      ∧ leads (.switch (.w 7) (.w 5)) s (s.trapped wLoop 59 { code := 0x04, tval := 140 }) = true := by
  decide +kernel

/-- The firing of the tests with its token bound; another token waits at another berth. -/
def wBoundTile : Tile :=
  { wTile with wait := [{ id := 1, bound := true, tok := { nflit := 4, pay := ramp 3, itag := 5 } }, { id := 2, berth := 3 }] }

theorem witness_EndsOfFirings :
    let s := wOn 1 wBoundTile wFiring
    s.firing s.tile s.slot = some wFiring ∧ wFiring.merge = none ∧ wFiring.freeAtEnd = false ∧ wFiring.isTagged = true
      ∧ ([Instr.endFiring, .cEnd].map fun i => goes i s fun u => decide (u.firing 1 0 = none
          ∧ (u.tileAt 1).wait.map (fun w => w.id) = [2] ∧ (u.tileAt 1).frames.map (fun e => e.1) = [2])) = [true, true]
      ∧ goes .endfFiring s (fun u => decide (u.firing 1 0 = none ∧ (u.tileAt 1).frames = [])) = true
      ∧ goes .yield s (fun u => decide (u.firing 1 0 = none ∧ (u.tileAt 1).frames = wTile.frames
          ∧ (u.tileAt 1).wait.map (fun w => (w.id, w.bound)) = [(1, false), (2, false)] ∧ (u.run 1 0).backoff = some 65)) = true := by
  decide +kernel

theorem witness_TrapTaken :
    wState.firing wState.tile wState.slot = some wFiring ∧ wView.src (.w 8) = .ok 0x11
      ∧ leads (.trap (.w 8)) wState ((wState.charge 1 1 59 1).takeFault 1 0 { wFiring with tstat := 0x110000 }
          { code := 0x0E, tval := 0x11 }) = true := by
  decide +kernel

/-- A handler of rank 3 with a discarding record of berth 2; the same outside a handler, and with a reserved bit of TSTAT set. -/
def wHandler (st : W32) : Firing :=
  { wFiring with tstat := st, handled := some { berth := 2, tile := 1 } }

theorem witness_ReturnFromHandler :
    let x : Tile := { wTile with runs := [(2, { stopped := true })] }
    let s (st : W32) := wOn 1 x (wHandler st)
    (([0x0B, 0x03, 0x1B].map fun st => decide ((s st).firing (s st).tile (s st).slot = some (wHandler st)
        ∧ ((s st).view (wHandler st)).src .z = .ok 0)) = [true, true, true])
      ∧ (0x03 : W32).getLsbD 3 = false ∧ (0x0B : W32).getLsbD 3 = true ∧ (0x1B : W32).extractLsb' 4 4 ≠ 0
      ∧ (0x0B : W32).extractLsb' 4 4 = 0 ∧ (0x0B : W32).extractLsb' 24 8 = 0
      ∧ leads (.tret .z) (s 0x03) ((s 0x03).trapped (wHandler 0x03) 59 { code := 0x0A, tval := 0x03, rank := some 4 }) = true
      ∧ leads (.tret .z) (s 0x1B) ((s 0x1B).trapped (wHandler 0x1B) 59 { code := 0x0B, tval := 0x1B }) = true
      ∧ goes (.tret .z) (s 0x0B) (fun u => decide (u.firing 1 0 = none ∧ (u.run 1 2).stopped = false)) = true
      ∧ goes (.tret (.w 1)) (s 0x0B) (fun u => decide ((u.run 1 2).stopped = true)) = true := by
  decide +kernel

/-! ## Control registers and meters -/

/-- The firing of the tests with the high word of CSR pair 0x030 latched, in a berth of rank 5. -/
def wLatch : Firing := { wFiring with latch := [(0, 77), (3, 88)] }

/-- A state with the berth's rank 5. -/
def wRank5 : State := { wState with cfg := { tiles := [(1, { berths := [(0, { wBerth with rank := 5 })] })] } }

theorem witness_ReadCsr :
    let s := wOn 1 wTile wLatch
    wState.firing wState.tile wState.slot = some wFiring ∧ wView.takes (.w 3) = true ∧ (wState.berth 1 0).rank.toNat = 6
      ∧ (wRank5.berth 1 0).rank.toNat = 5 ∧ wRank5.firing 1 0 = some wFiring ∧ wFiring.latch.look 0 = none
      ∧ s.firing s.tile s.slot = some wLatch ∧ wLatch.latch.look 0 = some 77 ∧ wLatch.latch.look 3 = some 88
      ∧ wView.src (.w 1) = .ok 7 ∧ wView.src .z = .ok 0 ∧ wView.src (.k 3) = .ok 33 ∧ wView.src (.w 8) = .ok 0x11
      ∧ wView.src (.w 5) = .ok 0xFFFFFFFF ∧ wView.src (.w 6) = .ok 0x104 := by
  decide +kernel

theorem test_csr_reads :
    let r (n : BitVec 12) (x : W32) : Bool := ends (.csrr (.w 3) n) 1 2 ((wState.seen wFiring 1).wrote (.w 3) x)
    let s := wOn 1 wTile wLatch
    r 0x000 1 = true ∧ r 0x002 1 = true ∧ r 0x005 5 = true ∧ r 0x011 16 = true ∧ r 0x021 0x3F000000 = true ∧ r 0x040 0 = true
      ∧ r 0x046 0 = true ∧ r 0x104 0 = true
      ∧ ends (.csrr (.w 3) 0x030) 1 2 ({ wState.seen wFiring 1 with f := { wFiring with latch := [(0, 0)] } }.wrote (.w 3) 0) = true
      ∧ leads (.csrr (.w 3) 0x031) s (s.ran wLatch 1 2 ({ s.seen wLatch 1 with f := { wLatch with latch := [(3, 88)] } }.wrote (.w 3) 77)) = true
      ∧ goes (.csrr (.w 3) 0x106) wState (fun u => decide (u.free = 1)) = true
      ∧ leads (.csrr (.w 3) 0x106) wRank5 (wRank5.trapped wFiring 1 { code := 0x0C, tval := 0x106 }) = true := by
  decide +kernel

/-- Item 1 (33 mod 16, with bit 4 clear: the low word), item 1 with the high bit (0x11), items 4, 7 and 15. -/
theorem test_meter_reads :
    let s := wOn 1 wTile wLatch
    ends (.emrd (.w 3) (.k 3) .z) 1 2 ({ wState.seen wFiring 1 with f := { wFiring with latch := [(3, 0)] } }.wrote (.w 3) 0) = true
      ∧ leads (.emrd (.w 3) (.w 8) .z) s
          (s.ran wLatch 1 2 ({ s.seen wLatch 1 with f := { wLatch with latch := [(0, 77)] } }.wrote (.w 3) 88)) = true
      ∧ ends (.emrd (.w 3) (.w 6) .z) 1 2 ((wState.seen wFiring 1).wrote (.w 3) 0) = true
      ∧ leads (.emrd (.w 3) (.w 6) (.w 5)) wState (wState.trapped wFiring 1 { code := 0x04, tval := 0xFFFFFFFF }) = true
      ∧ leads (.emrd (.w 3) (.w 1) .z) wState (wState.trapped wFiring 1 { code := 0x04, tval := 7 }) = true
      ∧ ends (.eqt 2 .z (.w 5)) 1 2 ((wState.seen wFiring 1).setPred 2 true) = true
      ∧ ends (.eqt 2 (.w 1) .z) 1 2 ((wState.seen wFiring 1).setPred 2 false) = true := by
  decide +kernel

theorem witness_WriteCsr :
    let s := wState
    let b := s.modHd fun h => { h with win := { busy := true } }
    s.firing s.tile s.slot = some wFiring ∧ wView.src (.w 5) = .ok 0xFFFFFFFF ∧ wView.src .z = .ok 0 ∧ (s.berth 1 0).rank.toNat = 6
      ∧ (wRank5.berth 1 0).rank.toNat = 5 ∧ s.hd.win.busy = false ∧ b.hd.win.busy = true
      ∧ s.privCommand 0xFFFFFFFF = .error .table ∧ s.privCommand 1 = .ok .privVfRead ∧ wView.src .cx = .ok 1
      ∧ goes (.csrw (.w 5) 0x010) s (fun u => decide ((u.tileAt 1).astat = 0x3F)) = true
      ∧ goes (.csrw .z 0x011) s (fun u => decide ((u.tileAt 1).lease = 1)) = true
      ∧ goes (.csrw (.w 5) 0x011) s (fun u => decide ((u.tileAt 1).lease = 1024)) = true
      ∧ goes (.csrw (.w 5) 0x040) s (fun u => decide ((u.firing 1 0).map (fun f => f.tstat) = some 0xFFFFFFFF)) = true
      ∧ goes (.csrw (.w 5) 0x103) s (fun u => decide (u.hd.win.pdata = 0xFFFFFFFF00000000)) = true
      ∧ goes (.csrw (.w 5) 0x106) s (fun u => decide (u.hd.win.busy = false ∧ u.firing 1 0 = some (wFiring.advance 2))) = true
      ∧ leads (.csrw (.w 5) 0x106) b b = true
      ∧ goes (.csrw .cx 0x106) s (fun u => decide (u.hd.win = { busy := true } ∧ (1, Instr.privVfRead, { b := 1 }) ∈ u.agenda
          ∧ u.firing 1 0 = some { wFiring.advance 2 with wait := .priv })) = true
      ∧ leads (.csrw (.w 5) 0x100) wRank5 (wRank5.trapped wFiring 1 { code := 0x0C, tval := 0x100 }) = true := by
  decide +kernel


/-! ## Tokens, activations, tasks -/

/-- The firing of the tests with channels from its output ports: two of a multicast set on port 1, one to berth 2 of tile 2 on
port 0, one on port 2 on which one token is staged; the berth is a loader of channel 0 of its cove. -/
def wPorts (f : Firing) : State :=
  let s := wOn 1 wTile f
  { s with cfg :=
    { tiles := [(1, { used := true, berths := [(0, { wBerth with tbind := 0x10 })], scratch := 4096, consts := [(3, 33)] })]
      chans := [(4, { src := .berth 1 0 0, dst := .berth 2 2 1, cls := 3 }), (5, { src := .berth 1 0 1, mset := 1 }),
                (6, { src := .berth 1 0 1, mset := 1 }), (7, { src := .berth 1 0 2 })] } }

/-- The firing of the tests after one send on port 2. -/
def wSent : Firing := { wFiring with sent := [(2, 1)] }

theorem witness_SendsAndTags :
    let s := wPorts wSent
    let v := s.view wSent
    let t (c : Nat) (k : Token) : List Staged := [.token c { k with ctx := 1, itag := 5, stag := 9 }]
    let sent (i : Instr) (adv p : Nat) (g : Firing → Firing) (l : List Staged) : Bool :=
      leads i s (s.ran wSent 59 adv { s.seen wSent 59 with f := g { wSent with sent := wSent.sent.set 0 p 1, staged := l } })
    let full (i : Instr) : Bool := leads i s (s.trapped wSent 59 { code := 0x04, tval := 2 })
    let d : Token := { nflit := 4, pay := ramp 1 }
    s.firing s.tile s.slot = some wSent ∧ v.tags 0 0 = .ok (5, 9) ∧ v.payload 0 (.v 1) = .ok { bits := ramp 1 }
      ∧ wSent.sent.get 0 0 + 1 ≤ v.b.rates.toNat / 2 ^ 12 % 8 ∧ ¬(wSent.sent.get 0 2 + 1 ≤ v.b.rates.toNat / 2 ^ 18 % 8)
      ∧ v.payload 0 .z = .ok {} ∧ v.payload 0 (.w 1) = .ok { bits := 7 } ∧ wSent.loopc = false
      ∧ (s.run 1 0).live.contains 5 = false
      ∧ sent (.send 0 (.v 1) 0 0 4) 2 0 id (t 4 { d with cls := 3 }) = true
      ∧ sent (.sendm 1 (.v 1) 0 0 4) 2 1 id (t 5 d ++ t 6 d) = true ∧ full (.sendm 2 (.v 1) 0 0 4) = true
      ∧ full (.send 2 (.v 1) 0 0 4) = true ∧ sent (.steer 0 (.v 1) 0 0 4) 2 0 id (t 4 { d with cls := 3 }) = true
      ∧ sent (.loopc 0 (.v 1) 0 0 4) 2 0 (fun f => { f with loopc := true }) (t 4 { d with cls := 3, dport := 7 }) = true
      ∧ sent (.sende 0 0 0 2) 2 0 id (t 4 { cls := 3, kind := 1, level := 2 }) = true
      ∧ sent (.merge 0 0 0 0 4) 2 0 (fun f => { f with merge := some 1 }) (t 4 { cls := 3, nflit := 4, pay := ramp 3 }) = true
      ∧ sent (.cSend 0 1) 1 0 id (t 4 { cls := 3, nflit := 1, pay := 7 }) = true := by
  decide +kernel

theorem witness_Tags :
    let v := (wPorts { wFiring with tagn := some 0xABC }).view { wFiring with tagn := some 0xABC }
    v.tags 4 0 = .ok (0xABC, 9) ∧ wView.tags 4 0 = .error { code := 0x04, tval := 0xFFFFFFFF } ∧ wView.tags 1 0xFF = .ok (0x104, 9)
      ∧ wView.tags 2 5 = .ok (0xFFF, 9) ∧ wView.tags 3 0xFF = .ok (0xFF, 9) ∧ wView.tags 5 0 = .ok (5, 4)
      ∧ wView.src (.k 3) = .ok 33 ∧ wView.payload 0 (.k 3) = .ok { bits := 33 } := by
  decide +kernel

/-- A second LOOPC, and one of a live tag. -/
theorem witness_Loopc :
    let f := { wFiring with loopc := true }
    let s := wPorts f
    let u := (wPorts wFiring).modRun 1 0 fun r => { r with live := [5] }
    (s.view f).tags 0 0 = .ok (5, 9) ∧ (u.run 1 0).live.contains 5 = true ∧ u.firing u.tile u.slot = some wFiring
      ∧ leads (.loopc 0 (.v 1) 0 0 4) s (s.trapped f 59 { code := 0x04, tval := 0xFFFFFFFE }) = true
      ∧ leads (.loopc 0 (.v 1) 0 0 4) u (u.trapped wFiring 59 { code := 0x04, tval := 5 }) = true := by
  decide +kernel

/-- The consumer of port 0 is berth 2 of tile 2, one hop away; frame 2 belongs to tag 0 of the berth, frame 3 to tag 5. -/
theorem witness_Activations :
    let x : Tile := { wTile with frames := [(2, { tag := 5 }), (3, { tag := 7 })], wait := [{ id := 1, tok := { itag := 7 }, place := .store }] }
    let s0 := wPorts wFiring
    let s := s0.setTile 1 { x with slots := [(0, wFiring)] }
    s.firing s.tile s.slot = some wFiring ∧ s.consumerOf 1 0 0 = some (2, 2) ∧ (s.view wFiring).src (.w 1) = .ok 7
      ∧ (s.view wFiring).takes (.w 3) = true ∧ (s.tileAt 1).frameOf 0 5 = some 2 ∧ (s.tileAt 1).frameOf 0 7 = some 3
      ∧ (s.tileAt 1).frameOf 0 3 = none ∧ (s.view wFiring).src .it = .ok 5 ∧ (s.view wFiring).src (.w 2) = .ok 3
      ∧ goes (.tagn (.w 3) 0) s (fun u => decide (u.firing 1 0 = some { wFiring with wait := .frame (.w 3) 2 2 0 none }
          ∧ (2, Instr.frameAllocRequest, { a := 1 }) ∈ u.agenda)) = true
      ∧ goes (.falloc (.w 3) 0 (.w 1)) s (fun u => decide (u.firing 1 0 = some { wFiring with wait := .frame (.w 3) 2 2 0 (some 7) })) = true
      ∧ leads (.ffree (.w 3) (.w 2)) s (s.ran wFiring 59 2 ((s.seen wFiring 59).wrote (.w 3) 0)) = true
      ∧ leads (.ffree (.w 3) .it) s (s.ran wFiring 59 2 ({ s.seen wFiring 59 with f := { wFiring with freeAtEnd := true } }.wrote (.w 3) 1)) = true
      ∧ goes (.ffree (.w 3) (.w 1)) s (fun u => decide ((u.tileAt 1).frames.look 3 = none ∧ (u.tileAt 1).wait = []
          ∧ (u.firing 1 0).map (fun f => f.w.get 0 3) = some 1)) = true := by
  decide +kernel

/-- Task 7 of VF 1 with a count of 3, task 3 of VF 2; a VF on the cove and another; loader channel 0, channels 1 and 6. -/
theorem witness_TasksAndEvents :
    let s0 := wPorts wFiring
    let s := (s0.modCove 0 fun c => { c with tasks := [(3, { state := 2, count := 4, vf := 2 }), (7, { state := 2, count := 3, vf := 1 })]
                                             events := 0xF0, ets := [(4, 200)] }).modHd fun h =>
      { h with parts := [(0, { pstate := 2, occ := 1 })] }
    let other := s.modHd fun h => { h with parts := [(0, { pstate := 2, occ := 9 })] }
    let v := s.view wFiring
    let c := s.coveAt 0
    s.firing s.tile s.slot = some wFiring ∧ v.src (.w 1) = .ok 7 ∧ v.src (.w 2) = .ok 3 ∧ v.src .z = .ok 0 ∧ v.src (.w 8) = .ok 0x11
      ∧ 2 ≤ (c.tasks.get {} 3).state ∧ (c.tasks.get {} 3).vf ≠ wFiring.cx.toNat ∧ (c.tasks.get {} 0x11).state < 2
      ∧ (c.tasks.get {} 7).vf = wFiring.cx.toNat ∧ 3 ≤ (c.tasks.get {} 7).count ∧ (c.tasks.get {} 7).count < 7
      ∧ s.coveVf 0 = some 1 ∧ other.coveVf 0 = some 9 ∧ v.takes (.w 3) = true
      ∧ s.hasRole 0 0 false = true ∧ s.hasRole 0 1 false = false
      ∧ goes (.tdec (.w 1) (.w 2)) s (fun u => decide ((u.coveAt 0).tasks.get {} 7 = { state := 2, vf := 1, cts := 100 })) = true
      ∧ leads (.tdec (.w 2) (.w 1)) s (s.trapped wFiring 61 { code := 0x02, tval := 3 }) = true
      ∧ leads (.tdec (.w 1) (.w 1)) s (s.trapped wFiring 61 { code := 0x07, tval := 7 }) = true
      ∧ leads (.tdec (.w 8) (.w 1)) s (s.trapped wFiring 61 { code := 0x07, tval := 0x10011 }) = true
      ∧ leads (.tdec (.w 8) .z) s (s.ran wFiring 61 2 (s.seen wFiring 61)) = true
      ∧ leads (.evset (.w 3) .z (.w 2)) other (other.trapped wFiring 61 { code := 0x02, tval := 0 }) = true
      ∧ goes (.evset (.w 3) .z (.w 2)) s (fun u => decide ((u.coveAt 0).events = 0xF3
          ∧ (u.firing 1 0).map (fun f => (f.w.get 0 3, f.pts)) = some (0xF0, 200))) = true
      ∧ goes (.evclr (.w 3) .z (.w 8)) s (fun u => decide ((u.coveAt 0).events = 0xE0)) = true
      ∧ leads (.permit .z (.w 2)) s (s.ran wFiring 59 2 { s.seen wFiring 59 with f := { wFiring with staged := [.permit 0 0 3] } }) = true
      ∧ leads (.permit .z (.w 8)) s (s.trapped wFiring 59 { code := 0x04, tval := 0x11 }) = true
      ∧ leads (.permit .z .z) s (s.trapped wFiring 59 { code := 0x04, tval := 0 }) = true
      ∧ leads (.permit (.w 1) .z) s (s.trapped wFiring 59 { code := 0x04, tval := 7 }) = true
      ∧ leads (.permit .cx (.w 2)) s (s.trapped wFiring 59 { code := 0x04, tval := 1 }) = true := by
  decide +kernel

/-- w7 = 0x40 is aligned and w2 = 3 is not; tile 0x12 of the cove is an X-tile, tile 0 is not; port 2 is full for RAYS, every port
for the three tokens of FGLK but port 3, whose rate is 4. -/
theorem witness_RaysAndRecords :
    let f := { wSent with w := [(2, 3), (7, 0x40), (8, 0x1205)] }
    let s0 := wPorts f
    let s := { s0 with cfg := { s0.cfg with tiles := [(1, { berths := [(0, { wBerth with rates := 0x849249 })] })] } }
    let v := s.view f
    s.firing s.tile s.slot = some f ∧ v.src (.w 2) = .ok 3 ∧ v.vec (.v 1) = .ok { bits := ramp 1 }
      ∧ f.sent.get 0 0 + 1 ≤ v.b.rates.toNat / 2 ^ 12 % 8 ∧ v.b.rates.toNat / 2 ^ 18 % 8 < f.sent.get 0 2 + 1
      ∧ f.sent.get 0 3 + 3 ≤ v.b.rates.toNat / 2 ^ 21 % 8 ∧ v.b.rates.toNat / 2 ^ 12 % 8 < f.sent.get 0 0 + 3
      ∧ v.src (.w 8) = .ok 0x1205 ∧ kindAt ((0x1205 : W32).toNat / 256 % 64) = .x ∧ kindAt ((3 : W32).toNat / 256 % 64) ≠ .x
      ∧ v.src (.w 7) = .ok 0x40 ∧ (0x40 : W32).toNat % 64 = 0 ∧ (3 : W32).toNat % 64 ≠ 0
      ∧ goes (.rays 0 (.v 1) (.w 2)) s (fun u => decide ((u.firing 1 0).map (fun g => g.staged) = some
          [.ray 4 3 (ofLanes fun l => if l < 9 then BitVec.ofNat 32 (16 + l) else if l = 9 then 25 else if l = 14 then 0xFFFFFFFF else 0) 5 4])) = true
      ∧ leads (.rays 2 (.v 1) (.w 2)) s (s.trapped f 59 { code := 0x04, tval := 2 }) = true
      ∧ goes (.fglk 3 (.v 1) (.w 8)) s (fun u => decide ((u.firing 1 0).map (fun g => (g.staged, g.sent)) = some ([], [(2, 1), (3, 3)]))) = true
      ∧ leads (.fglk 0 (.v 1) (.w 8)) s (s.trapped f 59 { code := 0x04, tval := 0 }) = true
      ∧ leads (.fglk 3 (.v 1) (.w 2)) s (s.trapped f 59 { code := 0x04, tval := 3 }) = true
      ∧ leads (.tspawn 1 (.w 7) (.w 2)) s ((s.charge 1 1 61 1).startJob 1 0 f
          { ops := loadOps .cfg 0x40 128 0, cont := .tspawn 1 3 0x40 0 }) = true
      ∧ (let k := (s.modHd fun h => { h with vfs := [(1, { qtask := 1 })] }).charge 1 1 61 1
        ((k.coveAt 0).tasks.get {} 3).state = 0 ∧ k.spawnRoom 0 (k.xlVf 1 1) 0 = true ∧ (s.charge 1 1 61 1).spawnRoom 0 (s.xlVf 1 1) 0 = false
          ∧ (k.reserveTask 1 f 3).1 = 1 ∧ ((k.reserveTask 1 f 3).2.coveAt 0).tasks.get {} 3 = { state := 1, vf := 1 })
      ∧ leads (.tspawn 1 (.w 2) (.w 2)) s (s.trapped f 61 { code := 0x03, tval := 3 }) = true
      ∧ leads (.iscfg (.w 2) (.w 2)) s (s.trapped f 59 { code := 0x03, tval := 3 }) = true
      ∧ leads (.iscfg (.w 7) (.w 2)) s (((s.charge 1 1 59 1).modCove 0 fun c => { c with pend := [(8, { tile := 1, scene := 3 })] }).startJob 1 0 f
          { ops := loadOps .cfg 0x40 64 0, cont := .iscfg 3 0x40 }) = true := by
  decide +kernel


/-! ## Memory instructions -/

/-- The word at 0x40 of the tile's scratch is 0x80000281. Addresses at the top of the 4 KiB of scratch, one that is aligned for a
halfword only, a masked vector and an empty mask. -/
theorem witness_ScratchLoadsAndStores :
    let v := wView
    let t := wState.tileAt 1
    let r (i : Instr) (adv p : Nat) (m : Map Byte) (g : View → View) : Bool := leads i wState (wState.worked wFiring 55 adv p m g)
    let w (x : W32) (u : View) : View := u.wrote (.w 3) x
    (wState.tileAt 1).ecc = [] ∧ wState.firing wState.tile wState.slot = some wFiring ∧ kindAt (wState.tile % 64) ≠ .m ∧ v.src (.w 2) = .ok 3
      ∧ v.target (.w 7) 0xFBC 4 = .ok 0xFFC ∧ 0xFFC < 2 ^ 16 ∧ 0xFFC + 4 ≤ (wState.tcfg 1).scratch
      ∧ v.target (.w 2) 3 4 = .error (trapVa 0x03 6) ∧ v.target (.w 2) (-1) 2 = .ok 2 ∧ v.takes (.w 3) = true
      ∧ v.target (.w 7) 0 64 = .ok 64 ∧ v.mask 1 ≠ 0 ∧ v.vtakes (.v 7) 0x00FF 0 = true ∧ v.spatial (.v 1) = .ok (ramp 1) ∧ v.mask 2 = 0
      ∧ r (.ldb (.w 3) (.w 7) 0) 2 100 t.scratch (w 0xFFFFFF81) = true ∧ r (.ldbu (.w 3) (.w 7) 3) 2 100 t.scratch (w 0x80) = true
      ∧ r (.ldh (.w 3) (.w 7) 1) 2 100 t.scratch (w 0xFFFF8000) = true ∧ r (.ldhu (.w 3) (.w 7) 0) 2 100 t.scratch (w 0x281) = true
      ∧ r (.ldw (.w 3) (.w 7) 0) 2 100 t.scratch (w 0x80000281) = true ∧ r (.ldnc (.w 3) (.w 7) 0) 2 100 t.scratch (w 0x80000281) = true
      ∧ r (.cLdw 3 7) 1 100 t.scratch (w 0x80000281) = true
      ∧ r (.stb (.w 5) (.w 7) 2) 2 101 (t.scratch.set 0 66 0xFF) id = true
      ∧ r (.sth (.w 2) (.w 7) 0) 2 101 ((t.scratch.set 0 64 3).set 0 65 0) id = true
      ∧ r (.stw (.w 2) (.w 7) 0) 2 101 [(64, 3)] id = true ∧ r (.stnc (.w 2) (.w 7) 0x1FF) 2 101 (t.scratch.set 0 60 3) id = true
      ∧ r (.cStw 2 7) 1 101 [(64, 3)] id = true
      ∧ r (.ldv (.v 7) (.w 7) 1 0) 2 100 t.scratch (fun u => u.vwrote (.v 7) 0x00FF { bits := 0x80000281 } []) = true
      ∧ r (.ldvb (.v 7) (.w 7) 1 0) 2 100 t.scratch (fun u => u.vwrote (.v 7) 0x00FF { bits := splat 0x80000281 } []) = true
      ∧ goes (.stv (.v 1) (.w 9) 1 0) wState (fun u => decide ((u.tileAt 1).num 128 4 = 16 ∧ (u.tileAt 1).num 156 4 = 23
          ∧ (u.tileAt 1).num 160 4 = 0 ∧ (u.tileAt 1).num 64 4 = 0x80000281)) = true
      ∧ leads (.ldv (.v 7) (.w 7) 2 0) wState (wState.ran wFiring 55 2 (wState.seen wFiring 55)) = true := by
  decide +kernel

theorem witness_ScratchAtomics :
    let v := wView
    let a (i : Instr) (m : Map Byte) : Bool :=
      leads i wState (wState.worked wFiring 55 2 101 m fun u => u.wrote (.w 3) 0x80000281)
    (wState.tileAt 1).ecc = [] ∧ wState.firing wState.tile wState.slot = some wFiring ∧ kindAt (wState.tile % 64) ≠ .m ∧ v.src (.w 2) = .ok 3 ∧ v.takes (.w 3) = true
      ∧ v.target (.w 7) 0 4 = .ok 0x40 ∧ 0x40 < 2 ^ 16 ∧ 0x40 + 4 ≤ (wState.tcfg 1).scratch ∧ v.src (.w 3) = .ok 0
      ∧ a (.aadd (.w 3) (.w 7) (.w 2)) [(64, 0x84), (65, 2), (67, 0x80)] = true ∧ a (.amin (.w 3) (.w 7) (.w 2)) wTile.scratch = true
      ∧ a (.amax (.w 3) (.w 7) (.w 2)) [(64, 3)] = true ∧ a (.aand (.w 3) (.w 7) (.w 2)) [(64, 1)] = true
      ∧ a (.aor (.w 3) (.w 7) (.w 2)) [(64, 0x83), (65, 2), (67, 0x80)] = true
      ∧ a (.axor (.w 3) (.w 7) (.w 2)) [(64, 0x82), (65, 2), (67, 0x80)] = true ∧ a (.axch (.w 3) (.w 7) (.w 2)) [(64, 3)] = true
      ∧ a (.acas (.w 3) (.w 7) (.w 2)) wTile.scratch = true ∧ a (.aincw (.w 3) (.w 7) (.w 2)) [] = true
      ∧ a (.afadd (.w 3) (.w 7) (.w 2)) [(64, 0x7E), (65, 2), (67, 0x80)] = true := by
  decide +kernel

/-- The firing of the tests with the lane offsets 4·l in v9 and l in v10. -/
def wWide : Firing :=
  { wFiring with v := wFiring.v ++ [(9, { bits := ofLanes fun l => BitVec.ofNat 32 (4 * l) }), (10, { bits := ofLanes fun l => BitVec.ofNat 32 l })] }

/-- It runs in a berth whose window starts at 2^32. -/
def wWideState : State :=
  { wOn 1 wTile wWide with cfg := { tiles := [(1, { berths := [(0, { wBerth with wbase := 1 })], scratch := 4096 })] } }

/-- The instruction starts the access `j` of class `cls`, which pays for `bill`. -/
def starts (i : Instr) (cls : Nat) (bill : List Opnd) (j : Job) : Bool :=
  leads i wWideState (wWideState.accesses wWide cls ((wWideState.seen wWide cls).bill bill) j)

/-- Aligned addresses of every kind, the misaligned one of w2, codec descriptors in and out of place, gathers of an aligned and a
misaligned lane. -/
theorem witness_AccessesStarted :
    let s := wWideState
    let v := s.view wWide
    let va := 2 ^ 32 + 0x40
    s.firing s.tile s.slot = some wWide ∧ v.src (.w 2) = .ok 3 ∧ v.target (.w 7) 0 16 = .ok va ∧ v.target (.w 7) 0 64 = .ok va
      ∧ v.target (.w 7) 0 8 = .ok va ∧ v.spatial (.v 1) = .ok (ramp 1) ∧ (7 : W32).toNat % 4 = 3 ∧ (0 : W32).toNat % 4 ≠ 3
      ∧ v.src (.w 7) = .ok 0x40 ∧ (codecDesc 0x11).bad false = false ∧ (codecDesc 0xFFFFFFFF).bad false = true
      ∧ (codecDesc 0xFFFFFFFF).bad true = true ∧ (codecDesc 0x11).bad true = false ∧ v.src (.w 8) = .ok 0x11
      ∧ (v.hstTrees (.v 1) (codecDesc 0x11)).toOption.isSome = true
      ∧ v.target (.w 2) 0 16 = .error (trapVa 0x03 (2 ^ 32 + 3)) ∧ v.vec (.v 9) = .ok { bits := ofLanes fun l => BitVec.ofNat 32 (4 * l) }
      ∧ v.vec (.v 10) = .ok { bits := ofLanes fun l => BitVec.ofNat 32 l } ∧ v.mask 1 ≠ 0 := by
  decide +kernel

/-- What each of them starts. -/
theorem test_accesses_started :
    let s := wWideState
    let va := 2 ^ 32 + 0x40
    starts (.slclm (.w 7) (.w 2)) 55 [] { ops := [{ kind := .rmw, va := va, len := 16, fn := .slclm, b := 3, place := 1 }] } = true
      ∧ starts (.slrel (.w 7) (.w 2)) 55 [] { ops := [{ kind := .rmw, va := va, len := 16, fn := .slrel, b := 3, place := 1 }] } = true
      ∧ starts (.sltst 2 (.w 7) (.w 2)) 55 [] { ops := [{ kind := .ldnc, va := va, len := 16, place := 1 }], cont := .sltst 2 3 } = true
      ∧ starts (.binapp (.w 3) (.w 7) (.w 2)) 0 []
          { ops := [{ kind := .rmw, va := va, len := 4, fn := .binapp, place := 2 }], cont := .binapp (.w 3) 3 } = true
      ∧ starts (.blnd (.v 2) (.w 7) (.w 2) 1) 0 []
          { ops := [{ kind := .peek, va := va, len := 64, place := 2 }], cont := .blnd (.v 2) 1 3 } = true
      ∧ starts (.ztst (.v 1) (.w 7) (.w 2) 1) 0 [.v 1]
          { ops := [{ kind := .peek, va := va, len := 64, place := 2, mask := 1 }], cont := .ztst 1 (ramp 1) 3 va } = true
      ∧ starts (.occq (.w 1) (.w 7) .z) 0 [] { ops := [{ kind := .peek, va := va, len := 64, place := 2 }], cont := .occq 7 0 } = true
      ∧ starts (.seqn (.w 3) (.w 7)) 0 []
          { ops := [{ kind := .rmw, va := va, len := 8, fn := .seqn, place := 2 }], cont := .seqn (.w 3) va } = true
      ∧ leads (.hld (.v 7) (.w 7) (.w 5)) s (s.trapped wWide 55 { code := 0x06, tval := 0xFFFFFFFF }) = true
      ∧ leads (.hst (.v 1) (.w 7) (.w 5)) s (s.trapped wWide 55 { code := 0x06, tval := 0xFFFFFFFF }) = true
      ∧ starts (.hld (.v 7) (.w 7) (.w 8)) 55 []
          { ops := spanOps true (codecBitmaps (codecDesc 0x11) va), cont := .hld (.v 7) 0x11 va true } = true
      ∧ leads (.slclm (.w 2) (.w 7)) s (s.trapped wWide 55 (trapVa 0x03 (2 ^ 32 + 3))) = true
      ∧ starts (.ldvg (.v 7) (.w 7) (.v 9) 1) 55 []
          { ops := spanOps false ((List.range 8).map fun l => (va + 4 * l, 4)), cont := .gather (.v 7) 0x00FF (ofLanes fun l => BitVec.ofNat 32 (0x40 + 4 * l)) } = true
      ∧ starts (.stvs (.v 1) (.w 7) (.w 7) 1) 55 [.v 1]
          { ops := joinStores ((List.range 8).flatMap fun l => storeOps (va + 64 * l) (leBytes 4 (16 + l))) } = true
      ∧ leads (.ldvg (.v 7) (.w 7) (.v 10) 1) s (s.trapped wWide 55 (trapVa 0x03 (va + 1))) = true
      ∧ leads (.stvx (.v 1) (.w 7) (.v 10) 1) s (s.trapped wWide 55 (trapVa 0x03 (va + 1))) = true := by
  decide +kernel

/-- Frame slots 1 (present), 7 (absent) and 8 (beyond the frame); a firing with and without commands under way; channel 1's arrival
bitmap 0; and a store into the command window of channel 0, with room and with none. -/
theorem witness_FramesAndCopies :
    let f : Firing := { wFiring with w := [(1, 0x120), (2, 0x300), (7, 0x35), (8, 0x7F7F), (10, 0xE0)], done := 300, stopped := 2 }
    let g : Firing := { f with cmds := [11] }
    let m := chanTile 0 1
    let mt : Tile := { mu := { ab := [(0, 0x1F)], abCts := [(0, 500)] } }
    let s : State := { wOn 1 wTile f with tiles := [(1, { wTile with slots := [(0, f)] }), (m, mt)] }
    let u := wOn 1 wTile g
    let v := s.view f
    s.firing s.tile s.slot = some f ∧ u.firing u.tile u.slot = some g ∧ v.frame.pres.get false 1 = true ∧ v.frame.pres.get false 7 = false
      ∧ v.frame.size = 8 ∧ v.takes (.w 3) = true ∧ s.openCmds f = (0, 0) ∧ u.openCmds g = (1, 0)
      ∧ v.src (.w 1) = .ok 0x120 ∧ v.src (.w 2) = .ok 0x300 ∧ v.src (.w 8) = .ok 0x7F7F ∧ v.src (.w 10) = .ok 0xE0 ∧ v.src (.w 7) = .ok 0x35
      ∧ (0xE0 : W32).toNat / 32 % 8 = 7 ∧ 128 < (0x7F7F : W32).toNat % 128 + ((0x7F7F : W32).toNat / 256 % 128 + 1)
      ∧ leads (.fld (.w 3) 1) s (s.ran f 55 2 ((s.seen f 55).wrote (.w 3) 9)) = true ∧ leads (.cFld 3 1) s (s.ran f 55 1 ((s.seen f 55).wrote (.w 3) 9)) = true
      ∧ leads (.fld (.w 3) 7) s (s.trapped f 55 { code := 0x05, tval := 7 }) = true
      ∧ leads (.fst (.w 3) 8) s (s.trapped f 55 { code := 0x04, tval := 8 }) = true
      ∧ goes (.fst (.w 1) 7) s (fun x => decide ((x.view f).slot 7 = .ok 0x120 ∧ (x.view f).slot 1 = .ok 9)) = true
      ∧ goes (.cFst 1 7) s (fun x => decide ((x.view f).slot 7 = .ok 0x120)) = true
      ∧ leads (.drain (.w 3)) s (s.ran f 55 2 ({ s.seen f 55 with f := { f with pts := 300 } }.wrote (.w 3) 0x20000)) = true
      ∧ leads (.drain (.w 3)) u (u.setFiring 1 0 { g with wait := .drain }) = true
      ∧ leads (.chkb 2 (.w 10) (.w 2)) s (s.trapped f 55 { code := 0x04, tval := 0xE0 }) = true
      ∧ leads (.chkb 2 (.w 1) (.w 8)) s (s.trapped f 55 { code := 0x04, tval := 0x7F7F }) = true
      ∧ leads (.chkb 2 (.w 1) (.w 7)) s (s.ran f 55 2 ((s.seen f 55).setPred 2 false)) = true
      ∧ goes (.chkb 2 (.w 1) (.w 2)) s (fun x => decide ((x.tileAt m).mu.ab.get 0 0 = 0x10
          ∧ (x.firing 1 0).map (fun h => (h.pts, h.p, h.pc)) = some (500, 7, 2))) = true := by
  decide +kernel

/-- A store into the command window of channel 0 of cove 0, with no other command queued, and with a VF whose quota is full. -/
theorem witness_CommandWindow :
    let s0 := wOn 1 wTile wFiring
    let s1 := { s0 with cfg := { tiles := [(1, { berths := [(0, { wBerth with wbase := 0xFFFFF })] })] } }
    let s := s1.modHd fun h => { h with vfs := [(1, { tcount := 8, qbte := 2, state := 2, tbase := 2 ^ 45 })], parts := [(0, { pstate := 2, occ := 1, origin := 0x1000 })]
                                        cmap := [(0, { cpart := 0, cstate := 1 })] }
    let full := s.modHd fun h => { h with vfs := [(1, { tcount := 8 })] }
    let v := s.view wFiring
    let va := 0xFFFFF * 2 ^ 32
    s.firing s.tile s.slot = some wFiring ∧ (s.berth 1 0).wbase = 0xFFFFF ∧ v.src (.w 1) = .ok 7 ∧ v.target .z 0 4 = .ok va
      ∧ s.windowTile 1 (BitVec.ofNat 32 va) = some 16 ∧ s.bteRoom 16 (s.xlVf 1 1) = true ∧ full.bteRoom 16 (full.xlVf 1 1) = false
      ∧ (7 : W32).toNat % 2 ^ 16 < (s.vf (s.xlVf 1 1)).tcount
      ∧ leads (.stw (.w 1) .z 0) full (full.setFiring 1 0 { wFiring with wait := .aperture }) = true
      ∧ goes (.stnc (.w 1) .z 0) s (fun u => decide ((u.tileAt 16).mu.qck = 101 ∧ (u.firing 1 0).map (fun f => f.pts) = some 101)) = true := by
  decide +kernel

/-- Tags 0 and 2 of a slot entry, a full bin and one with room, sequence numbers 32,767 and 1 ahead, at offset 16 and at the last
one of a line. -/
theorem witness_SlotsBinsAndSequences :
    let l : LineBits := BitVec.ofNat 1024 ((2 + 5 * 2 ^ 8 + 3 * 2 ^ 32) * 2 ^ 128)
    let m : LineBits := BitVec.ofNat 1024 (0x7FFF * 2 ^ (112 * 8 + 32))
    16 + 16 ≤ 128 ∧ 112 + 16 ≤ 128 ∧ lineField l 16 4 = 0x502 ∧ lineField m 112 4 = 0 ∧ lineField m 116 4 = 0x7FFF
      ∧ 0x502 % 4 ≠ 0 ∧ (1 : W32).toNat % 2 ^ 24 ≠ 0 ∧ (1 : W32).getLsbD 0 = true ∧ (0 : W32).getLsbD 0 = false
      ∧ lineField m 116 2 - lineField m 112 2 = 32767
      ∧ atomApply .slclm 0 1 l 16 = .slotState ∧ atomApply .slclm 0 0 m 112 = .slotState ∧ atomApply .slrel 0 1 l 16 = .slotState
      ∧ atomApply .slrel 0 0 m 112 = .slotState ∧ atomApply .seqn 0 0 m 112 = .hold
      ∧ atomApply .slrel 0 0 l 16 = .ok (l ||| BitVec.ofNat 1024 (2 ^ 128)) 0x502 0
      ∧ atomApply .binapp 0 0 l 16 = .ok l 0xFFFFFFFF 0
      ∧ atomApply .binapp 0 0 m 112 = .ok (m + BitVec.ofNat 1024 (2 ^ 896)) 0 0
      ∧ atomApply .slclm 0 1 0 112 = .ok (BitVec.ofNat 1024 (0x101 * 2 ^ 896)) 0 0 := by
  decide +kernel


/-! ## The matrix tile -/

/-- Tile registers: 0 with byte 0 of row 0 at 2, 1 with byte 0 of row 0 at 3 and row 1 in error, 3 of a Haar level, 4 of H16 values
with the half 0x3C00 in row 0, element 1, 5 with four surviving rows; accumulator 0 with 1.0 in row 2, column 3, accumulator 1 of
column tag 0x10, two sorted keys. -/
def wX : XRegs :=
  { t := [(0, 2), (16, 3), (64, 0x3C000000)], shape := [(3, 0xFFFF02F0), (4, 0xFFFF00F4), (5, 0x00F000F0)]
    rowErr := [(1, 2)], acc := [(2, ofLanes fun l => if l = 3 then 0x3F800000 else 0), (16, 0x3F800000)], adesc := [(1, 0x00010400)]
    sort := 0x00002FF1, next := 32, sortKeys := [(5, 1), (9, 0)], ps := [(0, 7)] }

/-- The firing of the tests on X-tile 18, in a berth that loads channel 0, stores to channel 1 and asks the G-tile 0. -/
def wXOn (owed : List Owed) (f : Firing) : State :=
  let s := wOn 18 { wTile with x := wX, owed := owed } f
  { s with cfg := { tiles := [(18, { used := true, berths := [(0, { wBerth with tbind := 0x00330, gbind := 0x40 })] })] } }

/-- With no write owed. -/
def wXState : State := wXOn [] wFiring

/-- The instruction ends with the registers `y` of its X-tile. -/
def sets (i : Instr) (cls : Nat) (y : XRegs) : Bool :=
  leads i wXState (wXState.ran wFiring cls 2 ((wXState.seen wFiring cls).setX y))

theorem witness_TileRegisters :
    let t := wXState.tileAt 18
    t.ecc = [] ∧ wXState.firing wXState.tile wXState.slot = some wFiring ∧ t.owes (.t 0) = false ∧ t.owes (.t 15) = false ∧ t.owes (.a 7) = false
      ∧ shapeTag (t.x.shapeOf 3) ≠ 0 ∧ shapeTag (t.x.shapeOf 4) = 0 ∧ shapeFmt (t.x.shapeOf 4) = 4 ∧ shapeFmt (t.x.shapeOf 0) = 0
      ∧ sets (.mshp 0 1 2 3 4) 29 { wX with shape := (0, 0xFFFF0A34) :: wX.shape } = true
      ∧ sets (.tzero 1) 29 { wX with t := [(0, 2), (64, 0x3C000000)], rowErr := [] } = true
      ∧ sets (.mskr 5 0 0) 29 { wX with shape := [(3, 0xFFFF02F0), (4, 0xFFFF00F4)] } = true
      ∧ sets (.mskr 0 5 1) 29 { wX with shape := (0, 0x00F000F0) :: wX.shape } = true
      ∧ sets (.mskr 5 0 2) 29 wX = true
      ∧ leads (.ttr 3 0 0 0) wXState (wXState.trapped wFiring 32 { code := 0x06, tval := (shapeTag 0xFFFF02F0).setWidth 32 }) = true
      ∧ sets (.ttr 4 2 0 0) 32 { wX with t := [(0, 2), (16, 3), (33, 0x3C00), (64, 0x3C000000)], shape := (2, 0xFFFF00F4) :: wX.shape } = true
      ∧ sets (.aout 2 0 0 0) 43 { wX with t := [(0, 2), (16, 3), (34, 0x3C00000000000000), (64, 0x3C000000)], shape := (2, 0xFFFF00F4) :: wX.shape } = true := by
  decide +kernel

theorem witness_Accumulators :
    let t := wXState.tileAt 18
    t.ecc = [] ∧ wXState.firing wXState.tile wXState.slot = some wFiring ∧ ([0, 1, 2, 3, 7].map fun n => t.owes (.a n)) = List.replicate 5 false
      ∧ sets (.aclr 0 0) 29 { wX with acc := [(16, 0x3F800000)] } = true
      ∧ sets (.aclr 0 1) 29 { wX with acc := [], adesc := [], sort := 0xFF0, next := 0, sortKeys := [] } = true
      ∧ sets (.acpy 2 1) 29 { wX with acc := wX.acc ++ [(32, 0x3F800000)], adesc := [(1, 0x00010400), (2, 0x00010400)] } = true
      ∧ leads (.ard 0 0 1 0 2) wXState (wXState.ran wFiring 29 2 { wXState.seen wFiring 29 with
          f := { wFiring with o := [(1, { bits := ofLanes fun l => if l = 3 then 0x3F800000 else 0 })] } }) = true
      ∧ leads (.ard 0 0 1 1 3) wXState (wXState.ran wFiring 29 2 { wXState.seen wFiring 29 with
          f := { wFiring with o := [(1, { bits := ofLanes fun l => if l = 2 then 0x3F800000 else 0 })] } }) = true
      ∧ leads (.ard 0 1 1 0 0) wXState (wXState.ran wFiring 29 2 { wXState.seen wFiring 29 with
          f := { wFiring with o := [(1, { bits := 7 })] } }) = true := by
  decide +kernel

/-- 2·3 in I8; rows of tile 1 in error give the sentinel in column 1. Each quad of Q values has zero scales, so that its cells are
zero. -/
theorem witness_PartialSums :
    let t := wXState.tileAt 18
    let g (i : Instr) (p : XRegs → Bool) : Bool := goes i wXState fun u => p (u.tileAt 18).x
    t.ecc = [] ∧ wXState.firing wXState.tile wXState.slot = some wFiring ∧ t.owes (.t 0) = false ∧ t.owes (.t 1) = false
      ∧ g (.mmi8 0 1 0) (fun y => decide (y.ps.get 0 0 = ofLanes (fun l => if l = 0 then 6 else if l = 1 then 0x80000000 else 0)
          ∧ y.plane = 0x201)) = true
      ∧ ([(Instr.mmq2 0 1 0, (0x1FF : W32)), (.mmq4 0 1 0, 0x250F), (.mmq7 0 1 0, 0x290F)].map fun e =>
          g e.1 fun y => decide (y.plane = e.2 ∧ y.ps.get 0 0 = ofLanes (fun l => if l = 1 then 0x80000000 else 0))) = [true, true, true] := by
  decide +kernel

/-- Accumulator 0 and tile registers of no tag agree in their tags; accumulator 1 has the column tag 0x10, so that a sum of no tag
reconstructs it; a plane word of source 1, of source 2, and of none. -/
theorem witness_AccumulatorSums :
    let t := wXState.tileAt 18
    let s1 := wXState.setTile 18 { t with x := { wX with plane := 0x101 } }
    let s2 := wXState.setTile 18 { t with x := { wX with plane := 0x201 } }
    let cell (u : State) (k r c : Nat) : W32 := cellOf ((u.tileAt 18).x.accRows k) r c
    t.ecc = [] ∧ wXState.firing wXState.tile wXState.slot = some wFiring ∧ s1.firing 18 0 = some wFiring ∧ s2.firing 18 0 = some wFiring
      ∧ (([.t 0, .t 1, .t 4, .a 0, .a 1] : List XReg).map t.owes) = List.replicate 5 false
      ∧ (descRtag (wX.descOf 0) = 0 ∧ descCtag (wX.descOf 0) = 0) ∧ descCtag (wX.descOf 1) ≠ 0
      ∧ (wX.accRows 1).all (fun r => decide (r = 0)) = false ∧ (wX.accRows 2).all (fun r => decide (r = 0)) = true
      ∧ (wX.plane.extractLsb' 8 2) = 0 ∧ (0x101 : W32).extractLsb' 8 2 = 1 ∧ (0x201 : W32).extractLsb' 8 2 = 2
      ∧ goes (.mmh 4 4 0) wXState (fun u => decide (cell u 0 0 0 = 0x3F800000 ∧ cell u 0 2 3 = 0x3F800000)) = true
      ∧ goes (.mmb 4 4 1) wXState (fun u => decide ((u.tileAt 18).x.descOf 1 &&& 0xFFFF = 0)) = true
      ∧ leads (.sca 0 1 0) wXState (wXState.ran wFiring 0 2 { wXState.seen wFiring 0 with extra := [(33, 1)] }) = true
      ∧ leads (.scai 0 1 0 2 3) wXState (wXState.ran wFiring 0 2 { wXState.seen wFiring 0 with extra := [(33, 1)] }) = true
      ∧ goes (.sca 0 0 0) s1 (fun u => decide ((u.tileAt 18).x.plane = 0)) = true
      ∧ goes (.scai 0 0 0 2 3) s2 (fun u => decide ((u.tileAt 18).x.plane = 0)) = true
      ∧ goes (.ajoin 2 0) wXState (fun u => decide (cell u 2 2 3 = 0x3F800000)) = true := by
  decide +kernel

theorem witness_OwedWrites :
    let s := wXOn [{ reg := .tile 0, chan := 2 }] wFiring
    let full := s.modMu (chanTile 0 1) fun u => { u with storebuf := [{}, {}] }
    let t := s.tileAt 18
    (s.tileAt 18).ecc = [] ∧ s.firing s.tile s.slot = some wFiring ∧ full.firing 18 0 = some wFiring ∧ t.owes (.t 0) = true ∧ t.owes (.t 1) = false ∧ t.owes (.a 0) = false
      ∧ bindChan (s.berth 18 0) 0 = 0 ∧ bindChan (s.berth 18 0) 1 = 1
      ∧ (full.tileAt (chanTile 0 1)).mu.storebuf.length = 2 ∧ (s.tileAt (chanTile 0 1)).mu.storebuf.length < 2
      ∧ ([Instr.mshp 0 1 2 3 4, .tzero 0, .mskr 1 0 2, .ttr 0 1 0 0, .tstTile 0 1, .aout 0 1 0 0, .mmq2 1 0 0, .mmi8 0 1 0, .mmh 1 0 0,
          .srtk 0].map fun i => leads i s (s.setFiring 18 0 { wFiring with wait := .owed })) = List.replicate 10 true
      ∧ goes (.tld 1 0) s (fun u => decide ((u.tileAt 18).owed.map (fun o => (o.reg, o.chan)) = [(.tile 0, 2), (.tile 1, 0)]
          ∧ (u.tileAt 18).x = wX)) = true
      ∧ goes (.ain 2 0) s (fun u => decide ((u.tileAt 18).owed.map (fun o => o.reg) = [.tile 0, .acc 2])) = true
      ∧ goes (.tfeat 1 0) s (fun u => decide ((u.tileAt 18).owed.map (fun o => o.reg) = [.tile 0, .feat 1 0])) = true
      ∧ leads (.tstTile 1 1) full (full.setFiring 18 0 { wFiring with wait := .storeBuffer }) = true
      ∧ leads (.tstAcc 1 3 1) full (full.setFiring 18 0 { wFiring with wait := .storeBuffer }) = true
      ∧ goes (.tstTile 1 1) s (fun u => decide ((u.tileAt (chanTile 0 1)).mu.storebuf.map (fun d => (d.rows.get 0 0, d.errf, d.f32)) = [(3, 2, false)])) = true
      ∧ goes (.tstAcc 0 3 1) s (fun u => decide ((u.tileAt (chanTile 0 1)).mu.storebuf.map (fun d =>
          (lane (d.rows.get 0 2) 3, d.f32)) = [(0x3F800000, true)])) = true := by
  decide +kernel

/-- The two keys 5 and 9 of the tests, ascending and unsigned, with room for 256; tile register 1 offers its row 0 and fails
row 1, one of its 16 rows. -/
theorem witness_SortMode :
    let s := wXState
    let one := s.setTile 18 { s.tileAt 18 with x := { wX with shape := [(1, 0xFFFF0010)] } }
    (s.tileAt 18).ecc = [] ∧ s.firing s.tile s.slot = some wFiring ∧ one.firing 18 0 = some wFiring ∧ (s.tileAt 18).owes (.t 1) = false ∧ wX.sort.getLsbD 0 = true
      ∧ (0x00000FF0 : W32).getLsbD 0 = false
      ∧ decide (wX.sortKeys.Pairwise fun u v => u.1.toNat ≤ v.1.toNat ∧ u.1 ≠ v.1) = true
      ∧ sets (.srtcfg 0x0F 1 2) 29 { wX with sort := 0xFD, next := 0, sortKeys := [] } = true
      ∧ goes (.srtk 1) one (fun u => decide ((u.tileAt 18).x.next = 64 ∧ ((u.tileAt 18).x.sort.extractLsb' 12 9).toNat = 18
          ∧ (u.tileAt 18).x.sort.getLsbD 21 = true ∧ (u.tileAt 18).x.sortKeys.head? = some (0, 33)
          ∧ ((u.tileAt 18).x.sortKeys.drop 14).map (fun e => e.1) = [0, 3, 5, 9])) = true
      ∧ goes (.srtf 1 0 2 1) s (fun u => decide ((u.firing 18 0).map (fun f => (lane (f.o.get {} 1).bits 0, lane (f.o.get {} 2).bits 1,
          lane (f.o.get {} 2).bits 2)) = some (5, 0, 0xFFFFFFFF) ∧ (u.tileAt 18).x.sortKeys = [])) = true := by
  decide +kernel


/-! ## Events -/

/-- The step `i` of the events takes place, with its operands. -/
def evt (s : State) (e : EvArg) : State := { s with ev := e }

/-- Every answer is yes. -/
def allYes (l : List Bool) : Bool := l.all id

/-- Partition 0 on cove 0 with VF 1 resident; VF 1 has 16 templates. -/
def wPart (s : State) : State :=
  s.modHd fun h =>
    { h with
      vfs := [(1, { state := 2, tcount := 16, tbase := 2 ^ 45 + 0x20000, egbase := 2 ^ 45 + 0x30000, s2root := 2 ^ 32 + 8, s1root := 2 ^ 32 + 10, qcnt := 8, qbte := 8, qtask := 8 })]
      parts := [(0, { pstate := 2, occ := 1, origin := 0x1000, fqbase := 2 ^ 45 + 0x38000, save := 2 ^ 45 + 0x40000 })]
      cmap := [(0, { cpart := 0, cstate := 1 })], vfOn := 128 }

/-- Two channels: 4 from port 0 of berth 0 of tile 1 to port 1 of berth 2 of tile 2, and 5, the fault edge of rank 2. -/
def wNet (fl : Map Flight) : State :=
  let s := wPart (wOn 1 wTile wFiring)
  { s with
    cfg :=
      { tiles := [(1, { used := true, berths := [(0, wBerth)] }), (2, { used := true, berths := [(2, { rates := 8 }), (3, { frame := 8, rates := 1 })] })]
        chans := [(4, { src := .berth 1 0 0, dst := .berth 2 2 1, depth := 2 }), (5, { src := .fault 2, dst := .berth 2 3 0 })] }
    net := { flights := fl, credits := [(credKey 5 0 0, 1)] } }

/-- A fresh token and a stale one, of generations 0 and 3, arrive; and the credit of a token comes back. -/
theorem witness_TokenEvents_arrivals :
    let fl (g : BitVec 4) : Flight := { chan := 4, tok := { ctx := 1, gen := g, nflit := 2, dest := 2 } }
    let s := evt (wNet [(7, fl 0)]) { a := 7 }
    let t := evt (wNet [(7, fl 3)]) { a := 7 }
    let c := evt (wNet []) { a := 4 }
    allYes [decide (s.net.flights.look 7 = some (fl 0)), decide ((s.chan 4).map (fun c => (c.part, c.dst)) = some (0, .berth 2 2 1)),
      decide ((fl 0).tok.gen = (s.vf 1).gen), decide ((fl 3).tok.gen ≠ (t.vf 1).gen), decide (agentPart ≠ 0),
      goes .tokenArrival s fun u => decide (u.net.flights = [] ∧ (u.tileAt 2).wait.map (fun w => (w.berth, w.port, w.ready, w.tok.nflit)) = [(2, 1, 3, 2)]),
      goes .tokenArrival t fun u => decide (u.net.flights = [] ∧ (u.tileAt 2).wait = [] ∧ (u.acct 1).drop = 1),
      decide ((c.chan 4).isSome), goes .creditReturn c fun u => decide (u.credits 4 0 0 = 1)] = true := by
  decide +kernel

/-- A start token, an operand of the tagged berth 3 with and without its frame, and the back-off of a berth. -/
theorem witness_TokenEvents_operands :
    let w : Waiting := { id := 9, berth := 3, chan := 5, tok := { itag := 6, nflit := 1 } }
    let x : Tile := { ctlq := [50], wait := [w], frames := [(0, { berth := 3, tag := 6, size := 8 })] }
    let s := evt ((wNet []).setTile 2 x) { a := 2 }
    let t := evt ((wNet []).setTile 2 { x with frames := [] }) { a := 2, b := 9 }
    let y := evt ((wNet []).modRun 2 2 fun r => { r with backoff := some 65 }) { a := 2, b := 2 }
    allYes [decide ((s.tileAt 2).ctlq = [50]), decide (s.poolOperands 2 = [w]),
      goes .controlTokenTake s fun u => decide ((u.tileAt 2).ctlq = [] ∧ (u.tileAt 2).started = true),
      goes .operandRetry s fun u => decide ((u.tileAt 2).wait = [{ w with place := .store }]),
      decide ((t.tileAt 2).wait.find? (fun z => decide (z.id = 9)) = some w), decide ((t.tileAt 2).frameOf 3 6 = none),
      decide (w.place = .pool ∧ w.bound = false), goes .poolSlotTimeout t fun u => decide ((u.tileAt 2).wait = []),
      goes .yieldBackoffExpiry y fun u => decide ((u.run 2 2).backoff = none)] = true := by
  decide +kernel

/-- Berth 2 of tile 2 is ready: its token is in, and it is admitted with it bound. -/
theorem witness_TokenEvents_admission :
    let w : Waiting := { id := 9, berth := 2, port := 1, chan := 4, tok := { itag := 6, nflit := 1, lts := 70, ctx := 1 }, ready := 0 }
    let s0 := (wNet []).setTile 2 { started := true, wait := [w] }
    let c : TileCfg := { used := true, rtab := [(2, { berth := 2, val := true, len := 2 })], berths := [(2, { rates := 8 })] }
    let s := evt { s0 with cfg := { s0.cfg with tiles := s0.cfg.tiles.put 2 c } } { a := 2 }
    allYes [decide (s.admits 2 = some 2), decide (s.ready 2 2 = some ([(1, [w])], [], 0)), decide (s.freeSlot 2 = some 0),
      goes .firingAdmission s fun u => match u.firing 2 0 with
        | some f => decide (f.berth = 2) && decide (f.pc = 0) && decide (f.p = 1) && decide (f.w = []) && decide (f.pts = 70)
            && decide (f.bound = [(1, [w.tok])]) && decide ((u.tileAt 2).wait.map (fun z => z.bound) = [true])
        | none => false] = true := by
  decide +kernel

/-- A record waits for its fault edge, and one for room in the queue. -/
theorem witness_TokenEvents_records :
    let r : FaultRec := { code := 1, vf := 1, rank := 2 }
    let s := evt ((wNet []).modHd fun h => { h with faults := [(0, { toEdge := [(2, [r])], waitXlate := [{ r with recov := true }] })] }) { b := 2 }
    allYes [decide (s.faultEdge 0 2 = some 5), decide (s.credits 5 0 0 = 1), decide ((s.chan 5).isSome), decide (s.queueFull 0 1 = false),
      goes .faultEdgeSend s fun u => decide (u.credits 5 0 0 = 0 ∧ (u.net.flights.map fun e => (e.2.chan, e.2.tok.nflit, e.2.tok.handled)) = [(5, 2, some r)]
        ∧ (u.hd.faults.get {} 0).toEdge.get [] 2 = []),
      goes .xlateRecordPost s fun u => decide ((u.hd.faults.get {} 0).waitXlate = [])] = true := by
  decide +kernel


/-- Lane 0 with five tokens on virtual channel 1, lane 3 that feeds it, and lane 64 behind port 0. -/
def wLanesNet (r3 : Nat) (up : Bool) (tries : Nat) : State :=
  let s := wNet ([7, 8, 9, 10, 11].map fun n => (n, { chan := 4 }))
  s.modNet fun w =>
    { w with lanes := [(0, { vcs := [(1, [7, 8, 9, 10, 11])], feeds := [3], round := 2 }), (3, { crossed := r3 })]
             ports := [(0, { trained := up, peer := some 3, retries := if tries = 0 then [] else [(5, tries)] })] }

theorem witness_LanesAndUnits_lanes :
    let s := wLanesNet 3 true 7
    let marked := (s.modLane 0 fun l => { l with sentMarker := true })
    let down := evt (wLanesNet 3 false 8) { a := 64, b := 1, l := [7, 8] }
    let port (e : EvArg) (r : Nat) : State := evt (wLanesNet 3 true r) e
    allYes [s.laneUp 0, decide ((s.tlane 0).sentMarker = false), down.laneUp 64 == false,
      goes .roundMarkerSend s fun u => decide ((u.tlane 0).sentMarker = true ∧ (u.tlane 0).vcs = [(1, [11])] ∧ (u.tlane 0).round = 2)
        && [7, 8, 9, 10].all (fun n => u.agenda.any fun e => decide (e.2 = (Instr.tokenArrival, ({ a := n } : EvArg)))),
      goes .roundMarkerSend down fun u => decide ((1, Instr.roundMarkerSend, ({ a := 64 } : EvArg)) ∈ u.agenda),
      goes .laneRoundAdvance (evt s { b := 1, c := 5 }) fun u => decide ((u.tlane 0).crossed = 6),
      marked.tlane 0 |>.feeds.all fun f => decide (2 < (marked.tlane f).crossed),
      goes .laneRoundAdvance marked fun u => decide ((u.tlane 0).round = 3 ∧ (u.tlane 0).sentMarker = false),
      goes .linkFlitRetry (port { b := 1, c := 5 } 7) fun u => decide ((u.net.ports.get {} 0).retries = [(5, 8)]),
      goes .linkFlitRetry (port { b := 1, c := 6 } 7) fun u => decide ((u.net.ports.get {} 0).retries = [(5, 7), (6, 1)]),
      goes .linkFlitRetry (port { c := 5 } 8) fun u => decide ((u.net.ports.get {} 0).retries.get 0 5 = 1),
      goes .linkFlitRetry (port { b := 1, c := 5, l := [7] } 8) fun u =>
        decide ((0, Instr.linkTokenLost, ({ b := 1, c := 5, l := [7] } : EvArg)) ∈ u.agenda),
      goes .linkTokenLost (evt s { l := [7, 8] }) fun u => decide (u.net.flights.look 7 = none ∧ u.net.flights.look 9 ≠ none
        ∧ (u.net.ports.get {} 0).trained = false ∧ (1, Instr.portRetrain, {}) ∈ u.agenda),
      goes .portRetrain (port {} 8) fun u => decide (u.net.ports.get {} 0 = { trained := true, peer := some 3 }),
      goes .portRetrain (port { b := 5 } 8) fun u => decide (u.net.ports.get {} 0 = { trained := true, peer := some 4 })] = true := by
  decide +kernel

/-- The bytes of a number of eight bytes at an address. -/
def cells (a v : Nat) : Map Byte :=
  ((List.range 8).map fun i => (a + i, BitVec.ofNat 8 (v / 256 ^ i))).filter fun e => e.2 != 0

/-- VF 1's tables in the pool of cove 0: stage 2 maps the 4 GiB of the pools to themselves, stage 1 maps VA 2^32 on to them; both
grant read and write. -/
def wTables : Map Byte :=
  cells (2 ^ 45 + 0x10000 + 64) (2 ^ 45 + 0x12001) ++ cells (2 ^ 45 + 0x12000) (2 ^ 43 + 0x17F) ++ cells (2 ^ 45 + 0x14000) (2 ^ 45 + 0x16001)
    ++ cells (2 ^ 45 + 0x16008) (2 ^ 43 + 0x7F)

/-- The firing of the tests waits for the access `j`, with the tables above; `m` are further bytes above the tables. -/
def wAcc (j : Job) (w : Wait) (m : Map Byte) : State :=
  let f := { wFiring with job := some j, wait := w }
  let s := wPart (wOn 1 wTile f)
  evt { s with mem := { s.mem with pm := wTables ++ m }, cfg := { tiles := [(1, { used := true, berths := [(0, { wBerth with wbase := 1 })] })] } }
    { a := 1 }

/-- PA 2^45 + 0x50000 at its home, the pool of cove 0; the bytes there are 1, 2, 3, 4. -/
def wXl : Xl := { pa := 2 ^ 45 + 0x50000, home := 1 }

/-- Those bytes. -/
def wData : Map Byte := [(2 ^ 45 + 0x50000, 1), (2 ^ 45 + 0x50001, 2), (2 ^ 45 + 0x50002, 3), (2 ^ 45 + 0x50003, 4)]

theorem witness_AccessEvents_homes :
    let ld : LineOp := { va := 2 ^ 32 + 0x50000, len := 4 }
    let st : LineOp := { kind := .store, va := 2 ^ 32 + 0x50000, len := 4, data := 9, mask := 0xF }
    let ad : LineOp := { kind := .rmw, va := 2 ^ 32 + 0x50000, len := 4, fn := .add, b := 0xFF }
    let at_ (o : LineOp) (x : Xl) : State := wAcc { ops := [o], cont := .scalar (.w 3) 4 false, stage := .home, xl := some x } .access wData
    let due (u : State) (d : Nat) (i : Instr) : Bool := u.agenda.any fun e => decide (e.1 = u.now + d ∧ e.2 = (i, ({ a := 1 } : EvArg)))
    let m := servingTile 0 wXl.pa
    let g (u : State) (p : Firing → Job → Bool) : Bool := match u.firing 1 0 with
      | some f => match f.job with
        | some j => p f j
        | none => false
      | none => false
    let s := at_ ld wXl
    let host : Xl := { pa := 0x800000000000, home := 3 }
    allYes [g s fun _ j => decide (j.ops = [ld] ∧ j.xl = some wXl ∧ j.stage = .home), decide ((s.homeDir wXl).pend = false),
      decide (s.heldEntry 1 0 wXl = none), decide (wXl.pa % 128 + 4 ≤ 128), decide ((s.heldLines 1 0).length < 128),
      decide ((s.tileAt m).mu.berm.length < 128),
      goes .loadHomeRequest s fun u => due u 0 .memoryReply && decide ((u.homeDir wXl).rts = 116 ∧ u.mem.pm = s.mem.pm)
        && g u fun f j => decide (j.stage = .reply ∧ f.pts = 100 ∧ j.num 0 4 = 0x04030201),
      goes .ownershipRequest (at_ st wXl) fun u => due u 0 .memoryReply && decide (u.homeDir wXl = { wts := 100, rts := 100, pend := true, tile := 1 }
        ∧ (u.tileAt m).mu.berm.map (fun e => (e.line, e.data, e.mask, e.tile, e.w)) = [(wXl.pa / 128, 9, 0xF, 1, 100)] ∧ u.mem.pm = s.mem.pm),
      goes .atomicHomeOperation (at_ ad wXl) fun u => due u 0 .memoryReply && decide (leNat (u.pmBytes wXl.pa 4) = 0x04030300
        ∧ u.homeDir wXl = { wts := 100, rts := 100 }) && g u fun f j => decide (j.stage = .reply ∧ f.pts = 100 ∧ j.old = 0x04030201),
      goes .memoryChannelOperation (at_ ld host) fun u => due u 0 .memoryReply && decide (u.cwts host.pa = 100)
        && g u fun f j => decide (j.stage = .reply ∧ f.pts = 100)] = true := by
  decide +kernel

theorem witness_AccessEvents_waits :
    let ld : LineOp := { va := 2 ^ 32 + 0x50000, len := 4 }
    let at_ (o : LineOp) (x : Xl) (z : AStage) (w : Wait) : State :=
      wAcc { ops := [o], cont := .scalar (.w 3) 4 false, stage := z, xl := some x, buf := [(0, 7), (3, 1)] } w wData
    let due (u : State) (d : Nat) (i : Instr) (e : EvArg) : Bool := u.agenda.any fun x => decide (x.1 = u.now + d ∧ x.2 = (i, e))
    let home (i : Instr) (s : State) : Bool := goes i s fun u => due u 0 .loadHomeRequest { a := 1 } && match u.firing 1 0 with
      | some f => decide (f.job.map (fun j => j.stage) = some .home)
      | none => false
    let l2 : Xl := { pa := 0x2000, home := 0, slice := homeSlice 0x2000 none }
    let s := at_ ld l2 (.fill 0) .access
    let walk := wAcc { ops := [ld], cont := .scalar (.w 3) 4 false, stage := .walk } .access wData
    let m := xlatTile 1
    let page := (2 ^ 32 + 0x50000) / 2 ^ 14
    let many := (walk.modMu m fun u => { u with walks := (List.range 8).map fun n => { vf := 2, page := n } })
    let same := (walk.modMu m fun u => { u with walks := [{ vf := 1, page := page }] })
    allYes [decide (s.l2Look l2.slice (l2.pa / 128) = none), (match s.chooseWay l2.slice (l2.pa / 128) 1 with
        | .free w => decide (w = 0)
        | _ => false), home .l2Fill s, home .fillWaitResume s,
      goes .l2Fill s fun u => decide (u.occ l2.slice 1 = 1 ∧ (u.l2Look l2.slice (l2.pa / 128)).map (fun e => (e.ctx, e.dirty)) = some (1, false)),
      home .bermWaitResume (at_ ld wXl .berm .access), home .seqnResume (at_ ld wXl .home .seqn), home .accessRetry (at_ ld wXl (.pend 0) .access),
      goes .memoryReply (at_ ld wXl .reply .access) fun u => match u.firing 1 0 with
        | some f => decide (f.job = none ∧ f.wait = .no ∧ f.w.get 0 3 = 0x01000007 ∧ f.pc = 0)
        | none => false,
      decide ((walk.firing 1 0).bind (walk.walkKey 1) = some (1, page)), decide ((many.firing 1 0).isSome ∧ (same.firing 1 0).isSome),
      goes .pageWalk walk fun u => decide ((u.tileAt m).mu.walks = [{ vf := 1, page := page }])
        && due u 1 .pageWalkComplete { a := 1, c := page, l := [1, m] },
      goes .pageWalk same fun u => decide ((u.tileAt m).mu.walks = [{ vf := 1, page := page }]),
      goes .pageWalk many fun u => decide ((u.tileAt m).mu.walks.length = 8 ∧ (1, 0) ∈ (u.tileAt m).mu.inq)] = true := by
  decide +kernel

/-- A walk through the tables of VF 1 finds PA 2^45 + 0x50000 and installs its page; the load reaches its home. -/
theorem witness_LanesAndUnits_units :
    let ld : LineOp := { va := 2 ^ 32 + 0x50000, len := 4 }
    let page := (2 ^ 32 + 0x50000) / 2 ^ 14
    let m := xlatTile 1
    let w0 := wAcc { ops := [ld], cont := .scalar (.w 3) 4 false, stage := .walk } .access wData
    let s := evt (w0.modMu m fun u => { u with walks := [{ vf := 1, page := page }] }) { a := 1, c := page, l := [1, m] }
    let q := evt ((wAcc { ops := [ld], stage := .home, xl := some { wXl with home := 0 } } .access wData).modHd fun h =>
      { h with unitq := [(5, [(9, 80), (1, 8)])], tide := [(5 * 256, 0x0081)], tideNew := [5, 6], tideNext := [(5 * 256 + 3, 0x82)] }) { a := 5 }
    let i := evt (q.modHd fun h => { h with invals := [(5, { host := some 1, waits := [(9, 1)] })], bars := [(1, { tlbbusy := true })] }) { a := 5 }
    let j := evt (q.modHd fun h => { h with invals := [(5, { host := some 1, waits := [(8, 1)] })] }) { a := 5 }
    allYes [decide (((s.tileAt m).mu.walks.find? (fun w => decide (w.vf = 1) && decide (w.page = page))).map (fun w => w.stale) = some false),
      decide (s.walkers m 1 page 1 0 = [(1, 0)]), (match s.walk m 1 1 100 (2 ^ 32 + 0x50000) .read with
        | .ok _ t => decide (t.xl.pa = 2 ^ 45 + 0x50000 ∧ t.xl.home = 1 ∧ t.bits = 32 ∧ t.r = true ∧ t.w = true)
        | _ => false),
      goes .pageWalkComplete s fun u => decide ((u.tileAt m).mu.walks = [] ∧ (u.tileAt m).mu.tlb.length = 1),
      decide (q.slotAccount 5 (q.now % 256) (q.hd.unitq.get [] 5) = some 1), decide ((q.atHome 1 0).isSome),
      goes .unitSlotService q fun u => decide (u.hd.unitq.get [] 5 = [(9, 80)] ∧ (0, Instr.loadHomeRequest, ({ a := 1 } : EvArg)) ∈ u.agenda),
      goes .tideTableSwitch q fun u => decide (u.hd.tideNew = [6] ∧ u.tideEntry 5 3 = 0x82 ∧ u.tideEntry 5 0 = 0),
      decide ([(9, 1)].filter i.stillWaits = []), decide ([(8, 1)].filter j.stillWaits ≠ []),
      goes .invalidationComplete i fun u => decide (u.hd.invals = [] ∧ (u.hd.bars.get {} 1).tlbbusy = false),
      goes .invalidationComplete (evt (q.modHd fun h => { h with invals := [(5, {})], win := { busy := true } }) { a := 5 }) fun u =>
        decide (u.hd.win = {}),
      goes .invalidationComplete j fun u => decide ((1, Instr.invalidationComplete, ({ a := 5 } : EvArg)) ∈ u.agenda)] = true := by
  decide +kernel


/-- ZTST on a block whose first depth word stands at byte `o` of its line (R253, R255): depths 1.0 against the words of `wData` and
zeros, compare greater with writes, lanes 0, 5 and 12. -/
def wZtst (o : Nat) : State :=
  let va := 2 ^ 32 + 0x50000 + o
  let op : LineOp := { kind := .ztst, va := wXl.pa + o, a := 0xC00, data := (ofLanes fun _ => 0x3F800000).setWidth 1024, dst := 1 }
  (wAcc { ops := [op], cont := .ztstMask 1 va, stage := .home, xl := some { pa := wXl.pa + o, home := 1 } } .access wData).modFiring 1 0 fun f =>
    { f with m := [(1, 0x1021)] }

theorem test_ztst_lines :
    let at_ (o : Nat) (u : State) : Bool := decide (leNat (u.pmBytes (wXl.pa + o) 4) = 0x3F800000
      ∧ leNat (u.pmBytes (wXl.pa + o + 68) 4) = 0x3F800000 ∧ leNat (u.pmBytes (wXl.pa + o + 192) 4) = 0x3F800000
      ∧ leNat (u.pmBytes (wXl.pa + o + 4) 4) = 0 ∧ leNat (u.pmBytes (wXl.pa + o + 64) 4) = 0)
      && (match u.firing 1 0 with
        | some f => decide (f.pts = 100 ∧ (f.job.map fun j => j.old) = some 0x1021)
        | none => false)
    allYes [goes .atomicHomeOperation (wZtst 0) fun u => at_ 0 u && decide ((u.homeDir { wXl with pa := wXl.pa + 128 }).rts = 100
        ∧ (u.homeDir { wXl with pa := wXl.pa + 256 }).rts = 0),
      goes .atomicHomeOperation (wZtst 64) fun u => at_ 64 u && decide ((u.homeDir { wXl with pa := wXl.pa + 256 }).rts = 100)] = true := by
  decide +kernel

/-- A line built of fields: each a place and a value. -/
def wLine (l : List (Nat × Nat)) : LineBits := BitVec.ofNat 1024 (l.foldl (fun a e => a + e.2 * 2 ^ e.1) 0)

/-- A copy of one word from VA 2^32 + 0x50000 to 2^32 + 0x50080, with a mark in each pass of level 0 in event 9; further fields follow. -/
def wCopy (l : List (Nat × Nat)) : LineBits :=
  wLine ([(0, 1), (640, 2 ^ 32 + 0x50000), (704, 2 ^ 32 + 0x50080), (931, 2), (939, 1), (975, 1), (976, 9)] ++ l)

/-- A cove with the task unit `c`, channel 0 of which is `u`; the template 3 of VF 1 is the copy of the tests; channel 4 carries
start tokens to port 1 of tile 2. -/
def wEng (c : Cove) (u : MUnit) (e : EvArg) : State :=
  let s := (wPart (wOn 1 wTile wFiring)).modHd fun h =>
    { h with vfs := h.vfs.map fun x => (x.1, { x.2 with tbase := 2 ^ 32 + 0x60000 }) }
  let t := (enumFrom 0 (bytesOfLine (wCopy []))).map fun x => (2 ^ 45 + 0x60000 + 384 + x.1, x.2)
  evt { s with
    mem := { s.mem with pm := wTables ++ wData ++ t.filter fun x => x.2 != 0 }
    coves := [(0, c)], tiles := s.tiles ++ [(16, { mu := u })], now := 9
    cfg := { tiles := [(1, { used := true, berths := [(0, { wBerth with tbind := 0x10 })] })], chans := [(4, { src := .task 0, dst := .berth 2 2 1 })] }
    net := { credits := [(credKey 4 0 0, 1)] } } e

/-- A compute task of class 7 for port 1 of tile 2 with payload 77, and a copy task of template 3 on channel 0, argument 5. -/
def wSpawn : LineBits := wLine [(0, 1), (1, 2), (32, 7), (40, 2), (46, 1), (64, 77)]
def wCopyTask : LineBits := wLine [(1, 1), (32, 3), (48, 5)]

theorem witness_EngineEvents_tasks :
    let c : Cove := { tasks := [(5, { state := 2, vf := 1, cts := 40, record := wSpawn })] }
    let q (r : LineBits) (p : Nat) : Cove := { tasks := [(5, { state := 3, vf := 1, cts := 40, record := r })], fifos := [(p, [(5, 8)])] }
    let s := wEng c {} { b := 5 }
    let d := wEng (q wSpawn 2) {} {}
    let k := wEng (q wCopyTask 1) {} {}
    let due (s u : State) (n : Nat) (i : Instr) (e : EvArg) : Bool := u.agenda.any fun x => decide (x.1 = s.now + n ∧ x.2 = (i, e))
    allYes [c.taskReady 5, goes .taskReady s fun u => due s u 1 .computeTaskDispatch {} && decide (((u.coveAt 0).tasks.get {} 5).state = 3
        ∧ (u.coveAt 0).fifos.get [] 2 = [(5, 9)]),
      decide (d.dispatchNext 0 [] = some (2, 5)), isCompute wSpawn, decide (d.taskChan 0 wSpawn = some 4), decide ((d.chan 4).isSome),
      goes .computeTaskDispatch d fun u => decide ((u.coveAt 0).fifos.get [] 2 = [] ∧ ((u.coveAt 0).tasks.get {} 5).state = 4
        ∧ u.credits 4 0 0 = 0 ∧ u.net.flights.map (fun e => (e.2.chan, e.2.tok.task, e.2.tok.lts, e.2.tok.cls, lane e.2.tok.pay 0)) = [(4, some 5, 40, 7, 77)]),
      decide (k.dispatchNext 0 [] = some (1, 5) ∧ k.dispatchNext 0 [5] = none), isCompute wCopyTask == false,
      goes .computeTaskDispatch k fun u => due k u 0 .copyTaskDispatch {},
      match (k.modMu 16 fun v => { v with qck := 41 }).engTmpl 16 1 3 41 with
        | .ok u1 (d, w) => decide (d = wCopy [] ∧ w = 41 ∧ tmplMcast d = 0 ∧ u1.tmplDefect 0 0 0 d none = none)
        | _ => false,
      decide (3 < (k.vf 1).tcount), !(k.tileAt 16).mu.inq.contains (taskId 16), goes .copyTaskDispatch k fun u =>
        decide ((u.tileAt 16).mu.queue.map (fun q => (q.tmpl, q.tidx, q.cts, q.task, q.vf, q.arg)) = [(wCopy [], 3, 41, some 5, 1, 5)])] = true := by
  decide +kernel

theorem witness_EngineEvents_copies :
    let k : BteCmd := { tmpl := wCopy [], cts := 50, vf := 1, tile := 16, wmax := 50 }
    let s := wEng {} { run := some k } { a := 16 }
    let z := wEng {} { queue := [k, k] } { a := 16 }
    let off : BteCmd := { k with tmpl := wLine [(0, 1), (640, 2 ^ 32 + 0x50000), (704, 2 ^ 32 + 0x50084), (931, 4)] }
    let done := { k with pos := 1, lw := [((2 ^ 32 + 0x50080) / 128, 60)], wmax := 60 }
    let d := wEng {} { run := some done } { a := 16 }
    let due (s u : State) (n : Nat) (i : Instr) (e : EvArg) : Bool := u.agenda.any fun x => decide (x.1 = s.now + n ∧ x.2 = (i, e))
    allYes [decide (tmplKind k.tmpl = .copy ∧ tmplTotal k.tmpl = 1 ∧ cmdNext 1 k 0 = 0 ∧ 1 ≤ cmdNext 1 done 1),
      goes .bteCommandStart z fun u => due z u 1 .engineWrite { a := 16 } && decide ((u.tileAt 16).mu.run = some k ∧ (u.tileAt 16).mu.queue = [k]),
      decide (s.fromInq 16 (cmdId 16) = some s), match s.cmdElems 16 k ((2 ^ 32 + 0x50080) / 128) [0] [] [] with
        | .ok _ (l, seen) => decide (l.map (fun e => e.src) = [[1, 2, 3, 4]] ∧ seen.map (fun e => e.1) = [(2 ^ 32 + 0x50000) / 128])
        | _ => false,
      goes .engineWrite s fun u => due s u 1 .bteCommandComplete { a := 16 } && decide (leNat (u.pmBytes (2 ^ 45 + 0x50080) 4) = 0x04030201
        ∧ (u.tileAt 16).mu.run.map (fun q => (q.pos, q.lw, q.wmax)) = some (1, [((2 ^ 32 + 0x50080) / 128, 50)], 50)),
      goes .engineWrite d fun u => due d u 1 .bteCommandComplete { a := 16 },
      goes .engineWrite (wEng {} { run := some off } { a := 16 }) fun u => decide ((u.tileAt 16).mu.run = none ∧ leNat (u.pmBytes (2 ^ 45 + 0x50080) 8) = 0),
      decide (passLen k.tmpl = some 1 ∧ tmplEvent k.tmpl = some 9 ∧ done.passes < done.pos / 1),
      goes .btePassMark d fun u => decide ((u.tileAt 16).mu.run = some { done with passes := 1 } ∧ (u.coveAt 0).due = [.event 0 9 60]),
      decide (tmplSlot k.tmpl = none ∧ tmplTask k.tmpl = none ∧ tmplEgress k.tmpl = none), goes .bteCommandComplete d fun u =>
        due d u 1 .bteCommandStart { a := 16 } && decide ((u.tileAt 16).mu.run = none ∧ (u.coveAt 0).due = [.event 0 9 60])] = true := by
  decide +kernel

/-- A command whose notification waits; and walks of one row of F32 values from 2^32 + 0x50000, and back. -/
theorem witness_EngineEvents_walks :
    let k : BteCmd := { cts := 50, vf := 1, tile := 16, wmax := 50 }
    let load := { k with tmpl := wLine [(0, 1), (640, 2 ^ 32 + 0x50000), (704, 0xFFFFE * 2 ^ 32 + 6)] }
    let haar := { k with tmpl := wLine [(0, 1), (640, 2 ^ 32 + 0x50000), (704, 0xFFFFF * 2 ^ 32), (720, 0x0021), (931, 3)] }
    let store := { k with tmpl := wLine [(0, 1), (640, 0xFFFFE * 2 ^ 32), (704, 2 ^ 32 + 0x50080)] }
    let t : MTile := { rows := [(0, 0x99)], f32 := true }
    let at_ (c : BteCmd) (u : MUnit) : State := wEng {} { u with run := some c, permits := 1 } { a := 16 }
    let e := at_ k { egWait := some (6, 50) }
    let base := (e.vf 1).egbase
    let part : PartLine := { va := 2 ^ 32 + 0x50080, data := 0x99, mask := BitVec.twoPow 128 64 - 1, tiles := [0] }
    let held := { store with part := [part], merged := 1 }
    let off := { store with tmpl := wLine [(0, 1), (640, 0xFFFFE * 2 ^ 32), (704, 2 ^ 32 + 0x50081)] }
    allYes [match e.ringHead 1 base 64 with
        | (p, q, lost, u1) => decide (p = 0 ∧ q = 0 ∧ lost = 0 ∧ u1.ringPend base 64 16 0 = false ∧ u1.vectorPend 1 = false),
      goes .egressEntryWrite e fun u => decide ((u.tileAt 16).mu.run = none ∧ (u.tileAt 16).mu.egWait = none ∧ (u.hd.bars.get {} 1).pending = [6]
        ∧ leNat (u.pmBytes base 4) = 1 ∧ leNat (u.pmBytes (base + 64) 16) = e.egressEntry 16 k 6),
      decide (tmplKind load.tmpl = .loadWalk ∧ tmplKind haar.tmpl = .haarWalk ∧ tmplKind store.tmpl = .storeWalk ∧ walkTiles load.tmpl = 1 ∧ walkTiles store.tmpl = 1),
      (at_ load {}).tileAt 16 |>.mu.mayFetch, goes .loadWalkTile (at_ load {}) fun u => decide ((u.tileAt 16).mu.outbuf.map (fun d =>
        (lane (d.rows.get 0 0) 0, d.f32, d.errf)) = [(0x04030201, true, 0)] ∧ (u.tileAt 16).mu.permits = 0),
      goes .haarWalkTile (at_ haar {}) fun u => decide ((u.tileAt 16).mu.outbuf.map (fun d => shapeFmt d.shape) = [1]),
      decide (tmplDst store.tmpl 0 0 % 4 = 0 ∧ partReady store = none ∧ (tileStores store 0 t).2 = none ∧ partReady held = some part),
      goes .storeWalkTile (at_ store { storebuf := [t] }) fun u => decide ((u.tileAt 16).mu.storebuf = [t] ∧ (u.tileAt 16).mu.run = some held),
      goes .storeWalkTile (at_ held { storebuf := [t] }) fun u => decide (leNat (u.pmBytes (2 ^ 45 + 0x50080) 4) = 0x99
        ∧ (u.tileAt 16).mu.run = some { held with part := [], lw := [(0, 50)] }),
      decide (partReady { held with part := [] } = none), goes .storeWalkTile (at_ { held with part := [] } { storebuf := [t] }) fun u =>
        decide ((u.tileAt 16).mu.storebuf = [] ∧ (u.tileAt 16).mu.run = some { held with part := [], pos := 1 }),
      decide (partReady { off with stopAt := some 0x81 } = none), goes .storeWalkTile (at_ { off with stopAt := some 0x81 } {}) fun u =>
        decide ((u.tileAt 16).mu.run = none)] = true := by
  decide +kernel

/-- The step due, `n` fc from now. -/
def due (s u : State) (n : Nat) (i : Instr) (e : EvArg) : Bool := u.agenda.any fun x => decide (x.1 = s.now + n ∧ x.2 = (i, e))

/-- X-tile 18, of whose berth 0 the grid binding 0 names G-tile 0. -/
def wGrid (g x : Tile) (e : EvArg) : State :=
  let s := wPart (wOn 1 wTile wFiring)
  evt { s with tiles := s.tiles ++ [(0, g), (18, x)], cfg := { tiles := [(18, { used := true, berths := [(0, { gbind := 0x40 })] })] } } e

theorem witness_TraversalEvents_grids :
    let w (n : Nat) : Waiting := { id := n, chan := 7, tok := { nflit := 4, stag := BitVec.ofNat 16 n } }
    let g : GBatch := { gtile := 0, xtile := 18, vf := 1, p := 2 }
    let q : GSlot := { out := some g }
    let take := wGrid { wait := [w 1, w 2, w 3] } {} {}
    let send := wGrid { gslots := [q] } {} {}
    let free := wGrid { gslots := [q, {}] } {} { b := 1 }
    let arrive := (wGrid {} {} { a := 18, b := 6 }).modNet fun n => { n with batches := [(6, g)] }
    let d : MTile := { rows := [(3, 77)], shape := 0xFFFF00F1, errf := 0x10 }
    let land := wGrid {} { owed := [{ reg := .tile 5, data := some d }] } { a := 18 }
    allYes [decide ((take.gridHead 0).map (fun h => (h.1.id, h.2.1.id, h.2.2.id)) = some (1, 2, 3)),
      goes .gridRequestTake take fun u => decide ((u.tileAt 0).gslots = [{ x := (w 1).tok, y := (w 2).tok, z := (w 3).tok }]),
      send.gridBound 18 0, send.gridRoom 18 0, goes .gridBatchSend send fun u => decide ((u.tileAt 0).gslots = [{ q with sent := true }])
        && due send u (2 + hops 0 18 + 8) .gridBatchArrival { a := 18, b := 0 } && decide (u.net.batches.look 0 = some g),
      goes .gridBatchSend free fun u => decide ((u.tileAt 0).gslots = [{}]),
      goes .gridBatchArrival arrive fun u => decide ((u.tileAt 18).gbuf = [g] ∧ u.net.batches = []) && due arrive u 0 .owedWriteLanding { a := 18 },
      decide (d.shape.toNat / 256 % 8 ≤ 4), goes .owedWriteLanding land fun u => let y := u.tileAt 18
        decide (y.owed = [] ∧ y.x.shapeOf 5 = 0xFFFF00F1 ∧ y.x.errOf 5 = 0x10 ∧ y.x.row 5 3 = 77 ∧ y.x.row 5 2 = 0)] = true := by
  decide +kernel

/-- The firing of the tests asks for a frame of berth 3 of tile 2, has its reply, and writes scene slot 2 while a ray of slot 1 is in
the ring. -/
theorem witness_TraversalEvents_firings :
    let at_ (w : Wait) (e : EvArg) : State :=
      let s := wPart (wOn 1 wTile { wFiring with wait := w })
      evt { s with cfg := { tiles := s.cfg.tiles ++ [(2, { berths := [(3, { frame := 8 })], scratch := 128 })] } } e
    let ask := at_ (.frame (.w 3) 2 3 1 (some 7)) { a := 1 }
    let reply := at_ (.frameReply (.w 3) 1 (some 7)) { a := 1 }
    let scene := (at_ .iscfg { a := 1 }).modCove 0 fun c => { c with ring := [(0, { scene := 1, flying := true })], pend := [(8, { tile := 1, scene := 2, desc := 99 })] }
    allYes [decide ((ask.tileAt 2).frameOf 3 7 = none), ((ask.tileAt 2).allocFrame (ask.tcfg 2) 3 7 (ask.berth 2 3).frame.toNat).isSome,
      [Instr.frameAllocRequest, .frameSpaceResume].all fun i => goes i ask fun u =>
        decide ((u.firing 1 0).map (fun f => f.wait) = some (.frameReply (.w 3) 1 none) ∧ ((u.tileAt 2).frameOf 3 7).isSome)
          && due ask u (hops 1 2 + 1) .frameAllocReply { a := 1 },
      goes .frameAllocReply reply fun u => decide ((u.firing 1 0).map (fun f => (f.wait, f.w.get 0 3, f.pc, f.tagn)) = some (.no, 1, 2, some 7)),
      decide (slotId 1 0 = 8), (scene.coveAt 0).idle 2, goes .iscfgDescriptorWrite scene fun u =>
        decide ((u.coveAt 0).scenes.get 0 2 = 99 ∧ (u.coveAt 0).pend = [] ∧ (u.firing 1 0).map (fun f => f.wait) = some .no)] = true := by
  decide +kernel

/-- A scene of four nodes at 2^32 + 0x60000; node 1 is a leaf of one triangle that no ray meets. A ray of budget 3 that stands at
it, one of budget 0, and one on its way to cove 1. -/
theorem witness_TraversalEvents_rays :
    let desc : VBits := BitVec.ofNat 512 (2 ^ 32 + 0x60000 + 4 * 2 ^ 64)
    let pay (b : Nat) : VBits := ofLanes fun l => if l = 9 then BitVec.ofNat 32 (b * 65536) else if l = 10 then 0x20000001 else if l = 14 then 0xFFFFFFFF else 0
    let at_ (r : Ray) : State :=
      let s := wPart (wOn 1 wTile wFiring)
      evt { s with mem := { s.mem with pm := wTables ++ [(2 ^ 45 + 0x60080, 2)] }, coves := [(0, { scenes := [(2, desc)], ring := [(5, r)] })]
                   cfg := { chans := [(4, { src := .berth 1 0 0, dst := .berth 2 2 1, cls := 9 })] } } { b := 5 }
    let r : Ray := { pay := pay 3, scene := 2, chan := 4, vf := 1, flying := true, lts := 50 }
    let s := at_ r
    let old := at_ { r with pay := pay 0 }
    let far := at_ { r with target := some (1, 0x10000000) }
    let die := at_ { r with target := some (64, 0x10000000) }
    let sent (t : State) (n : Nat) : Bool := goes .rayNodeVisit t fun u => decide ((u.coveAt 0).ring = []
      ∧ u.net.flights.map (fun e => (e.2.chan, e.2.tok.cls, (lane e.2.tok.pay 9).toNat / 256 % 16)) = [(4, 9, n)])
    allYes [decide (s.fromInq (xlatTile 9) (rayId 9 5) = some s), decide (desc ≠ 0), ptrOk desc.toNat (lane r.pay 10), decide (rayBudget r.pay = 3 ∧ rayBudget (pay 0) = 0),
      match (s.charge 9 (s.coveTables 0 1) 62 1).coveLine 9 (s.coveTables 0 1) 50 (nodeVa desc.toNat 1) with
        | .ok u1 (d, ts) => nodeOk 2 d && (match u1.visitNode 0 9 1 desc.toNat 5 { r with pay := raySpend r.pay, lts := Nat.max 50 ts } d [] with
          | .ok _ (_, e) => decide (e = .pop)
          | _ => false)
        | _ => false,
      sent s 2, sent old 3, decide (far.ringRoom 1 ≠ 0), goes .rayMigration far fun u => decide ((u.coveAt 0).ring = []
        ∧ (u.coveAt 1).ring.look 0 = some { r with pay := setWord r.pay 10 0x10000000 })
          && due far u (1 + hops 9 (ringTile 1 0)) .rayNodeVisit { a := 1, b := 0 },
      decide (die.ringRoom 64 ≠ 0), goes .rayMigration die fun u => decide ((u.coveAt 0).ring = []
        ∧ (u.coveAt 64).ring.look 0 = some { r with pay := setWord r.pay 10 0x10000000 }
        ∧ u.net.flights.map (fun e => (e.2.chan, e.2.legs, e.2.ray)) = [(rayChan 0, [], some { cove := 64, slot := 0, vc := 0 })])] = true := by
  decide +kernel

/-- The order unit of M-tile 16: a batch of tag 0 for the record at 2^45 + 0x50100, whose RETC is 0, an OCCQ of tag 0, and the batch in
turn. -/
theorem witness_TraversalEvents_orders :
    let q : Batch := { recPa := 2 ^ 45 + 0x50100, target := 2 ^ 45 + 0x50200, n := 1, cts := 40, vf := 1, tile := 1 }
    let o : Occq := { recPa := 2 ^ 45 + 0x50100, val := 5, cts := 40, vf := 1, tile := 1 }
    let at_ (l : Map Staged) (u : MUnit) (e : EvArg) : State :=
      let s := wPart (wOn 1 wTile wFiring)
      evt { s with tiles := s.tiles ++ [(16, { mu := u })], net := { orders := l } } e
    let b := at_ [(6, .batch 16 false q)] {} { a := 6 }
    let c := at_ [(6, .occq 16 false o)] {} { a := 6 }
    let r := at_ [] { inbox := [(0, { q with landed := true })] } { a := 16 }
    allYes [isBehind q.sq ((b.modNet fun w => { w with orders := w.orders.drop 6 }).recordOf q.recPa q.vf) == false,
      goes .batchOrderArrival b fun u => decide (u.net.orders = [] ∧ (u.tileAt 16).mu.inbox = [(0, { q with landed := true })]),
      goes .occqArrival c fun u => decide (u.net.orders = [] ∧ u.mem ≠ c.mem), decide ((r.tileAt 16).mu.batches = [{ q with landed := true }]),
      decide (aheadOf q.sq (r.recordOf q.recPa q.vf) = 0), goes .batchRetire r fun u => decide ((u.tileAt 16).mu.batches = []
        ∧ recRetc (u.recordOf q.recPa q.vf) = 1)] = true := by
  decide +kernel

/-- A chart of one pattern, without a berth, on tile 1. Its header stands in memory at 2^45 + 0x60000, with the version `v`. -/
def wChart (v : BitVec 16) : ChartImage :=
  { magic := 0x4F524331, version := v, dies := 1, dieBytes := [0x40], patterns := [{ consts := [(4, 44)] }], rects := [{ x0 := 1, x1 := 1 }], va := 2 ^ 32 + 0x60000, size := 64 }

/-- Partition 0 with the loads `l`, the elastic stages `e` and the configuration queue `q`; tiles 1 and 2 hold a berth of stage 1. -/
def wLoad (l : Map LoadRun) (e : Map StageSt) (q : List CfgCmd) (a : EvArg) : State :=
  let s := (wPart (wOn 1 wTile wFiring)).modHd fun h => { h with loads := l, stages := e, cfgq := [(0, q)] }
  let c : TileCfg := { used := true, berths := [(0, { rates := 1, stage := 1 })] }
  evt { s with cfg := { tiles := [(1, c), (2, c)] }, mem := { s.mem with pm := wTables ++ cells (2 ^ 45 + 0x60000) 0x100014F524331 ++ [(2 ^ 45 + 0x60008, 0x40)] } } a

/-- A load of the chart for VF 1 in partition 0; the operand has no header of its own. -/
def wGood : State := wLoad [] [] [] { b := 1, img := { wChart 1 with magic := 0, version := 0 } }

theorem witness_ChartEvents_read :
    let g := wChart 1
    let wait := wLoad [] [] [] { b := 2, img := g }
    let s := wLoad [] [] [] { b := 1, img := g }
    let bad := { s with mem := { s.mem with pm := s.mem.pm.map fun e => if e.1 = 2 ^ 45 + 0x60004 then (e.1, 2) else e } }
    let img := wGood.loadImage 0 1 wGood.ev.img false
    allYes [goes .chartLoad wait fun u => decide (u.hd.submitted.look 2 = some g ∧ u.cfg = wait.cfg ∧ u.hd.loads = []),
      goes .chartLoad bad fun u => decide (u.hd.out = [.loadStatus 1 0x28 0] ∧ u.cfg = bad.cfg),
      decide (img.magic = 0x4F524331 ∧ img.version = 1 ∧ img.dies = 1 ∧ img.dieBytes = [0x40, 0, 0, 0, 0, 0, 0, 0] ∧ img.patterns = g.patterns)] = true := by
  decide +kernel

/-- What the loader makes of that load: its image, no reject, no defect. -/
theorem witness_ChartEvents_good :
    let s := { wGood with ev := { wGood.ev with c := 1, img := wChart 1 } }
    let busy := s.modMu 16 fun u => { u with run := some {} }
    let img := s.loadImage 0 1 s.ev.img true
    allYes [decide (s.loadVerdict 0 1 img = none), s.badTemplates 0 1 img == false, s.badWrites 1 img == false, s.enginesBusy 0 == false,
      goes .chartLoad s fun u =>
        decide (u.cfg.charts = [(0, img)] ∧ u.hd.loads.map (fun x => (x.1, x.2.vf, x.2.img, x.2.waiting, x.2.resume)) = [(0, 1, img, [0], none)]),
      busy.enginesBusy 0, goes .chartLoad busy fun u => due busy u 1 .chartLoad { b := 1, c := 1, img := img } && decide (u.hd.loads = [])] = true := by
  decide +kernel

theorem witness_ChartEvents_loads :
    let g := wChart 1
    let r : LoadRun := { vf := 1, img := g, waiting := [0], start := 9 }
    let drained := (wLoad [(0, { r with resume := some 0x4040, agent := true, waiting := [] })] [] [] {}).modPart 0 fun e => { e with pstate := 3, occ := 1 }
    let ack := wLoad [(0, r)] [] [] {}
    let pat := wLoad [(0, { r with left := 2 })] [] [{ tiles := [1] }, { tiles := [2] }] {}
    allYes [goes .startTokenDelivery drained fun u => decide ((u.part 0).pstate = 2 ∧ (u.part 0).occ = 1 ∧ (u.vf 1).state = 2),
      goes .chartLoadAck ack fun u => decide (u.hd.loads.look 0 = some { r with waiting := [] }) && due ack u 1 .startTokenDelivery {},
      goes .configTimeout ack fun u => decide (u.hd.loads = [] ∧ u.hd.out = [.loadStatus 1 0x2B 0]),
      goes .startTokenDelivery ack fun u => decide (u.hd.loads = [] ∧ u.hd.out = [.loadStatus 1 0 0] ∧ (u.tileAt 1).ctlq = [9] ∧ (u.tileAt 2).ctlq = [9]),
      goes .configPatternWrite pat fun u => decide (u.hd.cfgq.get [] 0 = [{ tiles := [2] }] ∧ (u.hd.loads.look 0).map (fun x => x.left) = some 1
        ∧ u.tcfg 1 = tileCfgOf g 0 1 0 1 ∧ (u.tcfg 1).consts = [(4, 44)]) && due pat u 1 .configPatternWrite {}] = true := by
  decide +kernel

/-- Stage 1 on tiles 1 and 2 of die 0, between 1 and 2 tokens: with none, it is below; with three on tile 1, above. -/
theorem witness_ChartEvents_stages :
    let e : StageSt := { stage := 1, hi := 2, lo := 1, tiles := [1, 2], above := 2, below := 6 }
    let w (n : Nat) : Waiting := { id := n, berth := 0, port := 0 }
    let full (s : State) : State := s.modTile 1 fun x => { x with wait := [w 1, w 2, w 3] }
    let low := wLoad [] [(8, e)] [] {}
    let last := wLoad [] [(8, { e with below := 7 })] [] {}
    let high := full low
    let gone := wLoad [] [(8, { e with removing := [2] })] [] { b := 8 }
    let busy := gone.modTile 2 fun x => { x with wait := [w 1] }
    allYes [decide (low.stageDepth e = 0 ∧ high.stageDepth e = 3), low.stagesHeld 0 == false,
      goes .tideSample low fun u => decide (u.hd.stages.look 8 = some { e with above := 0, below := 7 }),
      (nearestTile 1 ((high.partTiles 0).filter fun t => decide (dieOfTile t = 0) && high.isFreeTile (kindAt 1) t)).isSome,
      goes .tideSample high fun u => decide ((u.hd.stages.look 8).map (fun x => (x.above, x.below, x.cloning.isSome)) = some (0, 0, true)),
      goes .tideSample last fun u => decide (u.hd.stages.look 8 = some { e with above := 0, below := 0, removing := [2] }) && due last u 1 .replicaRelease { b := 8 },
      gone.unreserved 1 [], goes .replicaRelease gone fun u => decide (u.hd.stages.look 8 = some { e with tiles := [1] } ∧ u.cfg.tiles.look 2 = none),
      goes .replicaRelease busy fun u => decide (u.hd.stages.look 8 = some { e with removing := [2] }) && due busy u 1 .replicaRelease { b := 8 }] = true := by
  decide +kernel

/-- The entry of partition 0 on cove 0 of die 0, with its save area at 0x40000. -/
def wEntry : PartEnt := { pstate := 2, occ := 1, save := 0x40000, fqbase := 2 ^ 45 + 0x38000, origin := 0x1000 }

/-- VF 1 is resident in partition 0, whose entry is `e`; VF 2 is ready; each may hold four coves; the pinned save area has room for eight images. The window
holds the entry `x`, and partition `a` is meant. -/
def wCmd (e x : PartEnt) (a : Nat) : State :=
  let s := (wPart (wOn 1 {} { cx := 1 })).modHd fun h =>
    { h with vfs := (h.vfs.map fun x => (x.1, { x.2 with qcove := 4 })) ++ [(2, { state := 1, qcove := 4 })], parts := [(0, e)], win := { busy := true, pdata := BitVec.ofNat 128 x.word } }
  let t := (s.pinWrite 2 128 0 0x40000 (leBytes 4 0x50494E31 ++ leBytes 4 4129)).1
  evt { t with tiles := [], now := 100 } { a := a }

/-- The window's command has ended with the status. -/
def pcmd (u : State) (c : PrivStatus) : Bool := decide (u.hd.win.status = c.code ∧ u.hd.win.busy = false)

theorem witness_PartitionEvents_create :
    let s := wCmd wEntry {} 0
    let run := s.modHd fun h => { h with running := [(0, true)] }
    let bad := wCmd wEntry { pstate := 1, origin := 0x1000 } 3
    let good := wCmd wEntry { pstate := 1, occ := 0, origin := 0x1001, fqbase := 64 } 3
    allYes [[Instr.partitionCreate, .partitionEnter, .partitionSwitch, .partitionFreeze, .partitionDrain, .partitionResume, .partitionResize,
        .partitionRelease].all fun i => goes i run fun u => pcmd u .inUse && decide (u.hd.parts = run.hd.parts),
      decide ((bad.part 3).pstate = 0 ∧ (bad.newPart 3).pstate = 1), bad.badPartData 3 == false,
      goes .partitionCreate bad fun u => pcmd u .value && decide (u.hd.parts = bad.hd.parts),
      decide (originCoves (good.newPart 3).origin = [1]), good.areaClash 3 0 (good.areaLen 0) == false,
      goes .partitionCreate good fun u => pcmd u .ok && decide (u.part 3 = { pstate := 1, origin := 0x1001, fqbase := 64 } ∧ u.hd.cmap.get {} 1 = { cpart := 3, cstate := 1 })] = true := by
  decide +kernel

theorem witness_PartitionEvents_enter :
    let off := { wEntry with pstate := 1 }
    let s := wCmd off { wEntry with occ := 2 } 0
    let exh := s.modAcct 2 fun a => { a with exh := true }
    let bad := wCmd off { wEntry with occ := 3 } 0
    let sw := wCmd wEntry { wEntry with occ := 2 } 0
    let none_ := wCmd { wEntry with save := 0 } { wEntry with save := 0, occ := 2 } 0
    let small := s.modVf 2 fun e => { e with qcove := 0 }
    allYes [decide ((s.newPart 0).save = off.save ∧ (s.newPart 0).fqbase = off.fqbase ∧ (s.newPart 0).occ = 2), s.badPartData 0 == false,
      goes .partitionEnter exh fun u => pcmd u .quotaExhausted && decide (u.hd.parts = exh.hd.parts),
      goes .partitionEnter bad fun u => pcmd u .stateInvalid && decide (u.hd.parts = bad.hd.parts), s.isPinned 0x40000, decide (s.ownSlot 0x40000 2 = none),
      decide ((s.partCoves 0).length ≤ (s.vf 2).qcove), goes .partitionEnter small fun u => pcmd u .value && decide (u.hd.parts = small.hd.parts),
      goes .partitionEnter s fun u => pcmd u .ok && decide (u.part 0 = { wEntry with occ := 2 } ∧ (u.vf 2).state = 2) && due s u 1 .ingressTokenDelivery { a := 2 },
      none_.canSave 0 1 == false, [Instr.partitionSwitch, .partitionFreeze, .partitionDrain].all fun i =>
        goes i none_ fun u => pcmd u .notPinned && decide (u.hd.parts = none_.hd.parts),
      sw.canSave 0 1, (sw.enterVf 0 2).isOk, goes .partitionSwitch sw fun u => decide (u.hd.gated.get false 0 = true ∧ u.hd.running.get false 0 = true
        ∧ (u.hd.freezes.look 0).map (fun f => (f.next, f.since)) = some (some 2, 100)) && due sw u 1 .freezeSave {},
      goes .partitionFreeze sw fun u => decide (u.hd.gated.get false 0 = true ∧ (u.tileAt 63).gate = true
        ∧ (u.hd.freezes.look 0).map (fun f => (f.next, f.timeout, f.since)) = some (none, false, 100)) && due sw u 1 .freezeSave {}] = true := by
  decide +kernel

/-- A freeze that waits for a request at its home, and one that is saved in slot 0; a drain, and its end. -/
theorem witness_PartitionEvents_drain :
    let s := (wCmd wEntry {} 0).modHd fun h => { h with freezes := [(0, { since := 90 })] }
    let busy := s.setTile 1 { slots := [(0, { job := some { stage := .home } })] }
    let at_ (d : Drain) : State := (wCmd { wEntry with pstate := 3 } {} 0).modHd fun h => { h with drains := [(0, d)], running := [(0, true)] }
    let full := (at_ { due := 100 }).setTile 1 { slots := [(0, {})] }
    allYes [decide (busy.outstanding 0 = true ∧ s.outstanding 0 = false), decide (s.slotFor 0x40000 1 = some 0),
      goes .freezeSave busy fun u => due busy u 1 .freezeSave {} && decide (u.hd.parts = busy.hd.parts),
      goes .freezeSave s fun u => pcmd u .ok && decide ((u.part 0).pstate = 1 ∧ (u.vf 1).state = 1 ∧ u.hd.freezes = []
        ∧ (u.hd.images.look (slotPa 0x40000 0)).map (fun g => (g.kind, g.vf, g.since)) = some (false, 1, 90) ∧ u.ownSlot 0x40000 1 = some 0),
      goes .partitionDrain (wCmd wEntry { wEntry with pstate := 3 } 0) fun u => decide ((u.part 0).pstate = 3 ∧ (u.vf 1).state = 3
        ∧ u.hd.drains.look 0 = some { due := 100 + 65536 * (2 ^ 27 + 7) }),
      decide (full.ebbEmpty 0 = false ∧ (at_ {}).ebbEmpty 0 = true),
      goes .drainComplete full fun u => decide (u.hd.drains.look 0 = some { due := 100 }) && due full u 1 .drainComplete {},
      goes .drainComplete (at_ { emptySince := some 38 }) fun u => decide (u.hd.drains.look 0 = some { emptySince := some 38 }),
      goes .drainComplete (at_ { emptySince := some 37 }) fun u => pcmd u .ok && decide (u.hd.drains = [] ∧ u.hd.running = []
        ∧ (u.hd.images.look (slotPa 0x40000 0)).map (fun g => (g.kind, g.vf)) = some (true, 1)),
      goes .drainTimeout full fun u => decide ((u.hd.freezes.look 0).map (fun f => (f.timeout, f.next)) = some (true, none)) && due full u 1 .freezeSave {}] = true := by
  decide +kernel

theorem witness_PartitionEvents_resume :
    let out := { wEntry with pstate := 3 }
    let at_ (g : SaveImg) : State := (wCmd out wEntry 0).putImage 0 1 g
    let s := at_ { kind := true, vf := 1, rects := 0x1000 }
    let c := at_ { kind := true, vf := 1, rects := 0x1000, chart := some (wChart 1) }
    let exh := s.modAcct 1 fun a => { a with exh := true }
    let bad := (wCmd out { out with origin := 0x1040 } 0).modHd fun h => { h with cmap := h.cmap ++ [(1, { cpart := 5, cstate := 1 })] }
    let wide := wCmd out { out with origin := 0x1040 } 0
    let run := wCmd wEntry { wEntry with origin := 0x1040 } 0
    let narrow := wide.modVf 1 fun e => { e with qcove := 1 }
    let gone := wCmd wEntry { wEntry with origin := 0x1001 } 0
    let refused := { gone with cfg := { tiles := [(1, { used := true, berths := [(0, {})] })] } }
    allYes [decide (s.ownSlot 0x40000 1 = some 0), goes .partitionResume exh fun u => pcmd u .quotaExhausted && decide (u.hd.parts = exh.hd.parts),
      goes .partitionResume s fun u => pcmd u .ok && decide ((u.part 0).pstate = 2 ∧ (u.vf 1).state = 2 ∧ u.hd.gated.look 0 = none ∧ u.hd.images = []),
      goes .partitionResume c fun u => decide ((u.part 0).pstate = 3 ∧ u.hd.running.get false 0 = true ∧ u.cfg.charts.look 0 = some (wChart 1)
        ∧ (u.hd.loads.look 0).map (fun r => (r.resume, r.agent)) = some (some (slotPa 0x40000 0), true)),
      decide (originCoves (wide.newPart 0).origin = [0, 1]), goes .partitionResize bad fun u => pcmd u .value && decide (u.hd.parts = bad.hd.parts),
      decide (2 ≤ (wide.vf 1).qcove), goes .partitionResize narrow fun u => pcmd u .value && decide (u.hd.parts = narrow.hd.parts),
      wide.resizeRefused 0 [0, 1] == false, wide.canSave 0 1, goes .partitionResize wide fun u => pcmd u .ok && decide ((u.part 0).origin = 0x1040 ∧ (u.part 0).pstate = 3),
      goes .partitionResize run fun u => decide ((u.part 0).pstate = 3 ∧ (u.hd.drains.look 0).map (fun d => (d.after, d.origin)) = some (1, 0x1040)),
      refused.resizeRefused 0 [1], goes .partitionResize refused fun u => pcmd u .resizeRefused && decide (u.hd.parts = refused.hd.parts)] = true := by
  decide +kernel

theorem witness_PartitionEvents_release :
    let s := wCmd { wEntry with pstate := 1 } { wEntry with pstate := 0 } 0
    let e := (wCmd wEntry {} 5).modHd fun h => { h with cmap := [(5, { cpart := 2, cstate := 2 }), (6, { cpart := 2, cstate := 1 })] }
    let v (n : Nat) : State := (wCmd wEntry {} 2).modHd fun h => { h with win := { pdata := BitVec.ofNat 128 n } }
    let flr := (v 2).modHd fun h => { h with running := [(0, true)] }
    allYes [decide (s.partCoves 0 = [0]), goes .partitionRelease s fun u => pcmd u .ok && decide ((u.part 0).pstate = 0 ∧ (u.hd.cmap.get {} 0).cstate = 2)
        && due s u 2048 .coveScrubEnd {},
      goes .coveScrubEnd e fun u => decide (u.hd.cmap.get {} 5 = { cpart := 2 }), goes .coveScrubEnd (evt e { a := 6 }) fun u => decide (u.hd.cmap = e.hd.cmap),
      decide ((v 2).residentPart 2 = none ∧ flr.residentPart 1 = some 0), goes .vfReset (v 128) fun u => pcmd u .readOnly,
      goes .vfReset (v 2) fun u => pcmd u .ok && decide ((u.vf 2).gen = 1 ∧ (u.vf 2).state = 1 ∧ u.hd.keyEpoch.get 0 2 = 1),
      goes .vfFlr (v 2) fun u => decide ((u.vf 2).gen = 1 ∧ u.hd.keyEpoch.get 0 2 = 1),
      leads .vfFlr (evt flr { a := 128 }) (evt flr { a := 128 }), goes .vfFlr (evt flr { a := 1 }) fun u => due flr u 1 .vfFlr { a := 1 } && decide (u.hd.vfs = flr.hd.vfs)] = true := by
  decide +kernel

/-- The window's command on unit `n` with the data `d`; `a` is the entry. -/
def wWin (n : Nat) (d : BitVec 128) (a : Nat) : State :=
  let s := wPart (wOn 1 wTile wFiring)
  evt (s.modHd fun h => { h with win := { pidx := BitVec.ofNat 32 n, pdata := d, busy := true }, accts := [(2, { bal := 5, cons := 7 }), (3, { exh := true, bal := 9 })]
                                 shadow := [(3 * 256 + 9, 0x81)] }) { a := a }

/-- A read answers `x`; a failure leaves everything but the status. -/
def answers (i : Instr) (s : State) (x : Nat) : Bool := goes i s fun u => pcmd u .ok && decide (u.hd.win.pdata = BitVec.ofNat 128 x)
def fails (i : Instr) (s : State) (c : PrivStatus) : Bool :=
  goes i s fun u => pcmd u c && decide ({ u.hd with win := {} } = { s.hd with win := {} } ∧ u.hd.win.pdata = s.hd.win.pdata)

theorem witness_TableEvents_vfs :
    let new : VfEnt := { state := 1, tcount := 5, lease0 := 9 }
    let w (n : Nat) (a : Nat) : State := wWin n (BitVec.ofNat 128 ((setUnit new.word 3 0) % 2 ^ 128)) a
    let x (n a : Nat) : Nat := setUnit ((w n a).vf a).word n (w n a).hd.win.pdata
    let fixed := wWin 0 (BitVec.ofNat 128 ({ ((wWin 0 0 1).vf 1) with part := 9 } : VfEnt).word) 1
    let same := wWin 0 (BitVec.ofNat 128 ((wWin 0 0 1).vf 1).word) 1
    let odd := wWin 0 3 2
    allYes [decide ((w 0 1).hd.win.unit = 0 ∧ (w 11 1).hd.win.unit = 11), answers .privVfRead (w 0 1) (((w 0 1).vf 1).word),
      goes .privVfRead (w 8 2) fun u => decide (u.hd.win.pdata = 5 * 2 ^ 64 + 7), fails .privVfRead (w 4 1) .index, fails .privVfRead (w 12 1) .index,
      fails .privVfWrite (w 8 1) .readOnly, fails .privVfWrite (w 11 1) .readOnly, badVfValue (odd.vf 2) (vfOfWord (setUnit (odd.vf 2).word 0 3)) (setUnit (odd.vf 2).word 0 3),
      fails .privVfWrite odd .value, badVfValue ((w 0 2).vf 2) (vfOfWord (x 0 2)) (x 0 2) == false,
      goes .privVfWrite (w 0 2) fun u => pcmd u .ok && decide (u.vf 2 = vfOfWord (x 0 2) ∧ (u.vf 2).state = 1 ∧ u.vf 1 = (w 0 2).vf 1),
      decide (((fixed.vf 1).state) = 2), fails .privVfWrite fixed .inUse, goes .privVfWrite same fun u => pcmd u .ok,
      [Instr.privVfRead, .privVfWrite, .privGrantWrite, .privMapbWrite, .privInvalidate].all fun i => fails i (w 0 128) .index,
      goes .privGrantWrite (wWin 9 (6 * 2 ^ 64) 2) fun u => pcmd u .ok && decide ((u.acct 2).bal = 11 ∧ (u.acct 2).exh = false),
      goes .privGrantWrite (wWin 9 ((2 ^ 64 - 6) * 2 ^ 64) 2) fun u => decide ((u.acct 2).bal = -1 ∧ (u.acct 2).exh = true),
      goes .privGrantWrite (wWin 9 ((2 ^ 64 - 20) * 2 ^ 64) 3) fun u => decide ((u.acct 3).bal = -11 ∧ (u.acct 3).exh = true),
      goes .privMapbWrite (wWin 10 (6 * 2 ^ 64 + 4 * 2 ^ 32) 2) fun u => pcmd u .ok && decide ((u.acct 2).mapb1 = 4 ∧ (u.acct 2).mapb2 = 6 ∧ (u.acct 2).bal = 5)] = true := by
  decide +kernel

theorem witness_TableEvents_tables :
    let odd : BitVec 128 := BitVec.ofNat 128 (0x0081 * 2 ^ 16 + 0x0080)
    let ok := wWin 31 odd 3
    let none_ := (wWin 31 odd 3).modHd fun h => { h with shadow := (List.range 256).map fun c => (3 * 256 + c, 0x80) }
    allYes [answers .privPartitionRead (wWin 1 0 0) (((wWin 1 0 0).part 0).word / 2 ^ 128), fails .privPartitionRead (wWin 0 0 64) .index, fails .privPartitionRead (wWin 2 0 0) .index,
      answers .privCoveMapRead (wWin 0 0 0) 64, answers .privCoveMapRead (wWin 0 0 511) 0, fails .privCoveMapRead (wWin 0 0 512) .index, fails .privCoveMapRead (wWin 1 0 0) .index,
      isUnit 3, isUnit 306 == false, goes .privTideRead (wWin 1 0 3) fun u => pcmd u .ok,
      goes .privTideWrite (wWin 1 odd 3) fun u => pcmd u .ok && decide (u.hd.shadow.get 0 (3 * 256 + 8) = 0x80 ∧ u.hd.shadow.get 0 (3 * 256 + 9) = 0x81 ∧ u.hd.tideNew = []),
      houseOk 3 (ok.putShadow 3 31), goes .privTideWrite ok fun u => pcmd u .ok && decide (u.hd.tideNew = [3] ∧ u.hd.shadow.get 0 (3 * 256 + 249) = 0x81),
      houseOk 3 (none_.putShadow 3 31) == false, fails .privTideWrite none_ .noHouse,
      fails .privTideRead (wWin 0 0 306) .index, fails .privTideWrite (wWin 31 0 306) .index,
      answers .privKeyQuery (wWin 0 0 128) 1, fails .privKeyQuery (wWin 0 0 129) .index,
      goes .privCostRead (wWin 15 0 8) fun u => pcmd u .ok, goes .privCostRead (wWin 0 0 9) fun u => pcmd u .ok && decide (u.hd.win.pdata = 0),
      fails .privCostRead (wWin 0 0 10) .index, fails .privCostRead (wWin 16 0 8) .index, fails .privCostRead (wWin 4 0 9) .index] = true := by
  decide +kernel

theorem witness_TableEvents_invalidate :
    let e (v : Nat) : TlbEnt := { vf := v, va := 2 ^ 32 }
    let tlb (s : State) : State := s.modMu 16 fun u => { u with tlb := [e 1, e 2], walks := [{ vf := 1 }] }
    let s := tlb (wWin 0 (2 + (2 ^ 32) * 2 ^ 64) 1)
    let h := evt (tlb ((wWin 0 0 1).modHd fun h => { h with bars := [(1, { tlbva := 2 ^ 32 + 5 })] })) { a := 1 }
    let busy := h.modHd fun d => { d with bars := [(1, { tlbbusy := true })] }
    let late := { h with agenda := [(5, .hostWrite, { a := 1 })] }
    let done (u : State) : Bool := decide ((u.tileAt 16).mu.tlb = [e 2] ∧ (u.tileAt 16).mu.walks = [{ vf := 1, stale := true }] ∧ u.hd.invals.length = 1)
    allYes [decide (((s.vf 1).part, s.partCoves 0) = (0, [0])), goes .privInvalidate s fun u => done u && due s u 1 .invalidationComplete { a := 0 },
      decide (1 < h.hd.vfOn), goes .hostTlbInvalidate h fun u => done u && decide ((u.hd.bars.get {} 1).tlbbusy = true ∧ u.hd.invals.map (fun i => i.2.host) = [some 1]),
      goes .hostTlbInvalidate late fun u => decide ((u.hd.bars.get {} 1).tlbbusy = true ∧ u.tiles = late.tiles)
        && due late u 1 .hostTlbInvalidate { a := 1, c := 1, l := [2 ^ 32 + 5] },
      goes .hostTlbInvalidate (evt busy { a := 1, c := 1, l := [2 ^ 32 + 9] }) done,
      goes .hostTlbInvalidate busy fun u => decide ((u.acct 1).drop = 1 ∧ u.tiles = busy.tiles)] = true := by
  decide +kernel

/-- A host step on the machine of the tests, with what `f` makes of it. -/
def wHost (e : EvArg) (f : State → State) : State := evt (f (wPart (wOn 1 wTile wFiring))) e

theorem witness_HostEvents_memory :
    let host := 0x800000000000
    let pool := 2 ^ 45 + 0x50000
    let dir (d : DirRec) (s : State) : State := { s with mem := { s.mem with dir := [(pool / 128, d)], pm := wData } }
    let up (p : Bool) : State := wHost { a := 1, b := pool, l := [9, 8] } (dir { wts := 30, rts := 50, pend := p })
    let rd := wHost { a := 1, b := pool, l := [3] } (dir { wts := 30, rts := 50 })
    let l2 (a : Nat) (s : State) : State := evt { s with mem := { s.mem with l2 := [(homeSlice host none, [{ line := host / 128, data := 5 }])] } } { a := host, b := a }
    let out (i : Instr) (s : State) (o : HostOut) : Bool := goes i s fun u => decide (u.hd.out = [o])
    let stops (i : Instr) (s : State) (pa : Nat) : Bool := match exec i s with
      | .fault f => decide (f = .noSuchAddress pa)
      | _ => false
    let off := wHost { a := 126, b := pool, l := [3] } fun s => s.modHd fun h => { h with vfOn := 2 }
    allYes [decide ((up false).hostPa 1 pool = some pool ∧ (up false).hd.hdm = [] ∧ off.hostPa 126 pool = none), leads .hostWrite off off,
      out .hostRead off (.readData pool [0xFF, 0xFF, 0xFF]),
      (up false).hostUp, isHost host, goes .hostWrite (wHost { a := 1, b := host, l := [9, 8] } id) fun u => decide (u.pmBytes host 3 = [9, 8, 0]),
      decide (regionOf pool = .pool 0 ∧ regionOf (pool + 127) = .pool 0), goes .hostWrite (up false) fun u =>
        decide (u.pmBytes pool 5 = [9, 8, 3, 4, 0] ∧ u.hck 1 = 51 ∧ u.dirOf (pool / 128) = { wts := 51, rts := 51 }),
      goes .hostWrite (up true) fun u => due (up true) u 1 .hostWrite (up true).ev && decide (u.mem = (up true).mem),
      decide (regionOf (2 ^ 46) = .nothing ∧ regionOf (2 ^ 35 - 1) ≠ .metadata), stops .hostWrite (wHost { a := 1, b := 2 ^ 46, l := [1] } id) (2 ^ 46),
      decide ((wHost {} id).heldHost host = none), out .hostRead (wHost { a := 1, b := host, l := [2] } id) (.readData host [0, 0]),
      out .hostRead rd (.readData pool [1, 2, 3]), goes .hostRead rd fun u => decide (u.hck 1 = 30), stops .hostRead (wHost { a := 1, b := 2 ^ 46, l := [1] } id) (2 ^ 46),
      out .hostSnoop (wHost { a := host } id) (.snoopData host []), decide ((wHost {} (l2 0)).heldHost host = some 5),
      out .hostSnoop (wHost { a := host, b := 0 } (l2 0)) (.snoopData host (bytesOfLine 5)),
      goes .hostSnoop (wHost { a := host, b := 1 } (l2 1)) fun u => decide (u.heldHost host = none ∧ u.hd.out = [.snoopData host (bytesOfLine 5)]),
      stops .hostSnoop (wHost { a := pool } id) pool] = true := by
  decide +kernel

theorem witness_HostEvents_tokens :
    let tok : Token := { nflit := 1, lts := 8, pay := 77 }
    let chans (s : State) : State :=
      { s with cfg := { s.cfg with chans := [(4, { src := .ingress, dst := .berth 1 0 0 }), (9, { part := agentPart, src := .rollup, dst := .berth 63 0 0 })] }
               net := { credits := [(credKey 4 0 0, 2), (credKey 9 0 0, 1)] } }
    let q (s : State) : State := (chans s).modHd fun h => { h with ingress := [(1, [tok, {}])], rollq := [3, 4], hck := [(1, 20)] }
    let bell (b : Nat) (l : List Nat) : State := wHost { a := 1, b := b, l := l } q
    let sent (u : State) (c n : Nat) : Bool := decide (u.net.flights.map (fun e => (e.2.chan, lane e.2.tok.pay 0)) = [(c, BitVec.ofNat 32 n)] ∧ u.credits c 0 0 + 1 = if c = 4 then 2 else 1)
    allYes [decide ((bell 0 []).hostPending 1 = false ∧ (bell 0 []).bellPending 1 = false ∧ 1 < (bell 0 []).hd.vfOn),
      goes .ingressDoorbellWrite (bell 0xC0 [1, 2, 0, 0]) fun u => decide (((u.hd.ingress.get [] 1).drop 2).map (fun k => (k.cls, k.lts, k.nflit, k.pay)) = [(3, 21, 1, 0x201)])
        && due (bell 0 []) u 0 .ingressTokenDelivery { a := 1 },
      [bell 0xC1 [1, 2, 0, 0], bell 0xC0 [1, 2, 0], bell 0xC0 []].all fun s => goes .ingressDoorbellWrite s fun u =>
        decide (u.hd.ingress = s.hd.ingress ∧ (u.acct 1).ingdrop = 1),
      decide ((bell 0 []).residentPart 1 = some 0 ∧ (bell 0 []).ingressChan 0 = some 4 ∧ (bell 0 []).rollupChan = some 9),
      goes .ingressTokenDelivery (wHost { a := 1 } q) fun u => decide (u.hd.ingress.get [] 1 = [{}]) && sent u 4 77,
      goes .rollupTokenSend (wHost {} q) fun u => decide (u.hd.rollq = [4]) && sent u 9 3] = true := by
  decide +kernel

/-- The rebase, a vector whose mask bit is cleared while it is pending, and the registers of BAR0. -/
theorem witness_HostEvents_registers :
    let late := (wOn 1 { wTile with lck := 2 ^ 45 + 7, gcache := [{}] } { wFiring with pts := 2 ^ 45 + 9 })
    let b (s : State) : State := s.modHd fun h => { h with bars := [(1, { pba := 0x24, pending := [5, 2] })] }
    let w (b c : Nat) (a : Nat) : State := wHost { a := a, b := b, c := c } id
    allYes [goes .timestampRebase late fun u => decide ((u.tileAt 1).lck = 7 ∧ (u.tileAt 1).gcache = [] ∧ (u.tileAt 1).frames = (late.tileAt 1).frames
        ∧ (u.firing 1 0).map (fun g => (g.pts, g.w, g.pc)) = some (9, wFiring.w, 0)),
      goes .msixTableWrite (wHost { a := 1, b := 0x8000 + 4 * 11, c := 2 } b) fun u => decide ((u.hd.bars.get {} 1).msixWord 11 = 2
        ∧ (u.hd.bars.get {} 1).pba = 0x20 ∧ (u.hd.bars.get {} 1).pending = [5] ∧ u.hd.out = [.msix 1 2]),
      goes .hostRegisterWrite (w 12 7 128) fun u => decide (u.hd.pf.arg = 7 * 2 ^ 32),
      goes .hostRegisterWrite (w 0x4010 7 1) fun u => decide ((u.hd.bars.get {} 1).tlbva = 7)] = true := by
  decide +kernel

/-- An HDM decoder that leads host addresses from 2^40 on to the pool of cove 0, and what the host reads of BAR0, PF0 and the capability
structures. -/
theorem witness_HostEvents_bars :
    let set (k x : Nat) (s : State) : State := match exec .hostRegisterWrite (evt s { a := 129, b := 4 + k, c := x }) with
      | .next u => u
      | _ => {}
    let pool := 2 ^ 45 + 0x50000
    let dec := evt (set 3 1 (set 2 pool (set 1 0x10000 (set 0 (2 ^ 40) (wHost {} fun s => { s with mem := { s.mem with pm := wData } }))))) { a := 1, b := 2 ^ 40, l := [3] }
    let s := wHost {} fun s => s.modHd fun h => { h with
      vfOn := 2, pf := { cmd := 3, arg := 5 * 2 ^ 32 + 6, busy := true, stat := 0x12 }
      bars := [(1, { pba := 5 * 2 ^ 32 + 4, tlbva := 7 * 2 ^ 32 + 8, tlball := true, tlbbusy := true })]
      accts := [(1, { exh := true, drop := 9, ingdrop := 10 })] }
    let rd (a b : Nat) (w : W32) : Bool := goes .hostRead (evt s { a := a, b := b, c := 1 }) fun u => decide (u.hd.out = [.barData a b w])
    allYes [decide (dec.hostPa 1 (2 ^ 40 + 2) = some (pool + 2) ∧ dec.hostPa 1 pool = none), goes .hostRead dec fun u => decide (u.hd.out = [.readData (2 ^ 40) [1, 2, 3]]),
      rd 1 0x4000 (BitVec.ofNat 32 (128 + (s.vf 1).state + 8 * (s.vf 1).gen.toNat)), rd 1 0x4004 10, rd 1 0x4008 9, rd 1 0x4010 8, rd 1 0x4014 7,
      rd 1 0x4018 0x80000001, rd 1 0x9000 4, rd 1 0x9004 5, rd 1 0x40 0, rd 2 0x4004 0xFFFFFFFF, rd 128 0 3, rd 128 8 6, rd 128 12 5, rd 128 16 0x1201,
      goes .hostRead (evt s { b := 5, c := 2 }) fun u => decide (u.hd.out = [.capability 5 true]),
      goes .hostRead (evt s { b := 6, c := 2 }) fun u => decide (u.hd.out = [.capability 6 false])] = true := by
  decide +kernel

theorem witness_ManagementEvents_power :
    let s := wHost {} fun s => s.modHd fun h =>
      { h with accts := [(2, { frac := 3, bal := 1 })], gov := [(0, { k := 12, cap := 2700000000000, energy := 100000000001 })]
               hot := [(1, true)] }
    let slow := s.modHd fun h => { h with gov := [(0, { k := 12, cap := 2700000000000, energy := 89999999999 })] }
    let same := s.modHd fun h => { h with gov := [(0, { k := 12, cap := 2700000000000, energy := 100000000000 })] }
    let k (t : State) : Option Nat := match exec .governorWindow t with
      | .next u => some (u.hd.gov.get {} 0).k
      | _ => none
    allYes [decide ((s.acct 2).frac < 16), goes .costTableRewrite (evt s { a := 2, l := [5, 6] }) fun u => decide (u.hd.costsNew = [(2, [5, 6])] ∧ u.cost 2 0 = s.cost 2 0),
      decide (k s = some 11 ∧ k slow = some 13 ∧ k same = some 12), goes .thermalLimit s fun u => decide (u.hd.hot.get false 0 = true
        ∧ (u.hd.gov.get {} 0).cap = 2700000000000 - 117964800000 ∧ u.hd.out = [.pfVector 2]) && due s u 65536 .thermalCapStep {},
      goes .thermalLimit (evt s { a := 1, b := 1 }) fun u => decide (u.hd.hot.get false 1 = false ∧ u.hd.gov = s.hd.gov),
      goes .thermalCapStep (evt s { a := 1 }) fun u => due s u 65536 .thermalCapStep { a := 1 }, leads .thermalCapStep s s,
      [Instr.thermalShutdown, .managementCoreFault].all fun i => goes i s fun u =>
        decide (u.hd.frozenAll = true ∧ u.hd.vfOn = 0 ∧ u.hd.cxlOn = false ∧ u.hd.fw.recovery = decide (i = .managementCoreFault)),
      goes .cxlLinkTraining (evt s { a := 16, b := 4 }) fun u => decide (u.hd.rate = 16 ∧ u.hd.width = 4),
      goes .vfEnable (evt s { a := 300 }) fun u => decide (u.hd.vfOn = 128)] = true := by
  decide +kernel

theorem witness_ManagementEvents_commands :
    let s := wHost {} id
    let host := 0x800000000000
    let arg (n : Nat) (s : State) : State := s.modHd fun h => { h with pf := { h.pf with arg := n } }
    let busy := s.modHd fun h => { h with pf := { h.pf with busy := true } }
    let run := (arg host s).modHd fun h => { h with running := [(0, true)] }
    let rec_ := s.modHd fun h => { h with fw := { h.fw with recovery := true } }
    let cold := (arg host s).modHd fun h => { h with frozenAll := true }
    let boot := s.modHd fun h => { h with boot := 1 }
    let rest := evt (s.modHd fun h => { h with pf := { h.pf with busy := true } }) { a := host, c := 2, l := [1, 2, 3, 4, 5] }
    let ends (u : State) (n : Nat) : Bool := decide (u.hd.pf.busy = false ∧ u.hd.pf.stat = n ∧ u.hd.out = [.pfVector 1])
    allYes [goes .resync (arg (host + 1) s) fun u => ends u 0x11, goes .resync (arg 0x1000 s) fun u => ends u 0x11, goes .resync cold fun u => ends u 0x11,
      leads .vfEnable rec_ rec_, leads .vfEnable boot boot, leads .pfDeviceReset boot boot,
      decide (isHost host = true ∧ isHost (host + 16383) = true ∧ host % 4096 = 0 ∧ s.hd.pf.busy = false ∧ s.hd.running = [] ∧ s.hd.boot = 0 ∧ s.mem.dir = []),
      goes .resync run fun u => due run u 1 .resync { c := 1 } && decide (u.mem = run.mem),
      goes .resync (evt rest { c := 2 }) fun u => ends u 0,
      goes .resync rest fun u => ends u 0 && decide ((u.heldHost host).map (fun d => (bytesOfLine d).take 6) = some [1, 2, 3, 4, 5, 0]),
      goes .pfUnknownCommand (evt s { a := 9 }) fun u => ends u 0x11 && decide (u.hd.pf.cmd = 9),
      [Instr.pfUnknownCommand, .pfDeviceReset, .firmwareUpdate, .resync].all fun i =>
        goes i busy fun u => decide (u.hd.pf = { busy.hd.pf with stat := 0x10 } ∧ u.hd.fw = s.hd.fw),
      goes .firmwareUpdate (arg (host + 1) s) fun u => ends u 0x11, goes .firmwareUpdate (arg 0x1000 s) fun u => ends u 0x11 && decide (u.hd.fw = s.hd.fw),
      goes .pfDeviceReset rec_ fun u => ends u 0x11] = true := by
  decide +kernel

/-- A firmware image taken, or not, as its checks say (R371); and the reset that runs it up to the load of the agent's chart (R374). -/
theorem test_firmware (i : FwImage) (s : State) :
    (s.takeFw i).hd.pf.stat = if fwOk s.hd.fw i then 0 else 0x12 := by
  unfold State.takeFw
  split <;> rfl

theorem test_boot :
    let i : FwImage := { chart := wChart 1 }
    let s := wHost {} fun s => s.modHd fun h => { h with fw := { running := i }, frozenAll := true, cxlOn := false }
    let u := s.bootUp [4, 0, 1] 2
    let v := ({ s with hd := { s.hd with fw := {} } }).bootUp [] 2
    let w := (u.loadReport 128 0 0).hd
    allYes [decide (u.hd.boot = 2 ∧ u.hd.frozenAll = false ∧ u.hd.cxlOn = false ∧ u.hd.out = []), due s u 1 .chartLoad { a := agentPart, b := 128, img := wChart 1 },
      decide (u.net.ports = [(0, { trained := true, peer := some 3 }), (2, { trained := true, peer := some 0 })]),
      decide (v.hd.boot = 0 ∧ v.hd.cxlOn = true ∧ v.hd.out = [.pfVector 1]),
      decide (w.boot = 0 ∧ w.cxlOn = true ∧ w.out = [.loadStatus 128 0 0, .pfVector 1])] = true := by
  decide +kernel

theorem witness_ManagementEvents_spdm :
    let s := wHost { l := [7] } fun s => s.modHd fun h => { h with spdm := [1, 0x13], session := some 6 }
    let tells (i : Instr) (m : Nat) (b : List Nat) : Bool := goes i s fun u => decide (u.hd.out = [.spdm m b 0 0] ∧ u.hd.spdm = transcript [1, 0x13] m [7] b)
    allYes [tells .getVersion 1 [0x13], tells .getCapabilities 2 [1, 2, 3, 4, 5, 6, 7, 8, 9], tells .negotiateAlgorithms 3 [0x400], tells .finish 9 [],
      decide (transcript [1, 0x13] 1 [7] [0x13] = [1, 7, 0x13]), decide (s.hd.session = some 6),
      goes .finish s fun u => decide (u.hd.ide.map (fun e => e.1) = [0, 1]), goes .keyExchange s fun u => u.hd.session.isSome,
      [Instr.getDigests, .getCertificate, .challenge, .getMeasurements].all fun i => goes i s fun u => decide (u.hd.out.length = 1)] = true := by
  decide +kernel

/-! ## The rest -/

/-- Each group of the frame: an addition, a floating-point sum, a comparison into p2, and one into m3, end without a fault. -/
theorem witness_RegisterFrame :
    let fine (c : Instr) : Bool := goes c wState fun u => decide ((u.firing 1 0).map (fun g => g.pc) = some 2 ∧ (u.tileAt 1).slots.length = 1)
    wState.firing wState.tile wState.slot = some wFiring
      ∧ ([Instr.add (.w 3) (.w 1) (.w 2), .fadd (.w 3) (.w 1) (.w 2), .pcmpEq 2 (.w 1) (.w 2), .mcmpEq 3 (.v 1) (.v 2) 0].map fine) = List.replicate 4 true := by
  decide +kernel

/-- A machine whose memory is in canonical form runs an addition. -/
theorem witness_MemoryStaysCanonical :
    let s := State.reset.withFetchWord 32 0x8E030208
    s.memOk ∧ (match step s with
      | .next _ => true
      | _ => false) = true := by
  unfold State.memOk
  decide +kernel

/-- The example of R347: 10,001 units, the one left over going to the house. -/
theorem test_pool_shares :
    poolShares 10001 [(2, 36000000), (5, 60000000), (7, 12000000), (128, 79500000)] = [(2, 1920), (5, 3200), (7, 640), (128, 4241)] := by
  decide +kernel

/-! ## Soft errors -/

/-- A routine whose first instruction has one in its second halfword; a tile with one in tile register 1, plane 0 and accumulator 0;
a scratch with one in the byte at 0x42. -/
theorem witness_SoftErrors_tile :
    let good := wFetch [0x8E04, 0x030C] (some (.add (.w 4) (.w 1) (.k 3)))
    let s := good.setTile 1 { good.tileAt 1 with ecc := [(4097, true)] }
    let f : Firing := { len := 2, isTagged := true }
    let x := wXState.setTile 18 { wXState.tileAt 18 with ecc := [(1, true), (0x100, true), (0x200, true)] }
    let p (n : Nat) : State := x.setTile 18 { x.tileAt 18 with x := { wX with plane := BitVec.ofNat 32 n } }
    let t := x.tileAt 18
    let tells (s : State) (n : Nat) (e : Instr × Nat) : Bool :=
      leads e.1 s (s.trapped wFiring e.2 { code := 0x0D, tval := BitVec.ofNat 32 n })
    let y := wState.setTile 1 { wState.tileAt 1 with ecc := [(65536 + 0x42, true)] }
    let faults (i : Instr) (o : LineOp) (c : Cont) : Bool :=
      leads i y (((y.charge 1 1 55 1).setFiring 1 0 { wFiring with job := some { ops := [o], cont := c, adv := 2 }, wait := .access }).takeFault 1 0
        { wFiring with job := some { ops := [o], cont := c, adv := 2 }, wait := .access } (trapVa 0x0D 0x40))
    allYes [issuing s 1 0, decide ((s.beginIssue 1 0).firing 1 0 = some f),
      decide ((((s.tcfg 1).code.drop f.start).take f.len).drop f.pc = [0x8E04, 0x030C]), decide ((s.tileAt 1).ecc.get false (4096 + (0 + 0 + 1)) = true),
      stepsTo s ((s.beginIssue 1 0).takeFault 1 0 f { code := 0x0D, tval := 0 }),
      decide (x.firing 18 0 = some wFiring), ([.t 0, .t 1, .t 4, .a 0, .a 1] : List XReg).all fun q => !t.owes q,
      [(.mmq2 0 1 0, 33), (.mmq4 0 1 0, 33), (.mmq7 1 0 0, 33), (.mmi8 1 0 0, 33), (.mmh 4 1 1, 33), (.mmb 1 4 1, 33),
        (.ttr 1 2 0 0, 32), (.srtk 1, 0), (.tstTile 1 0, 31)].all (tells x 1),
      [(.mmh 4 4 0, 33), (.ajoin 0 1, 42), (.ajoin 1 0, 42), (.acpy 1 0, 29), (.aout 2 0 0 0, 43), (.ard 0 0 1 0 2, 29), (.tstAcc 0 3 0, 31)].all
        (tells x 0x200),
      tells x 0x100 (.ard 0 1 1 0 0, 29), tells (p 0x101) 0x200 (.sca 0 4 0, 0), tells (p 0x101) 0x100 (.sca 0 4 1, 0),
      tells (p 0x201) 1 (.scai 0 1 1 2 3, 0),
      decide (wState.firing 1 0 = some wFiring ∧ kindAt (y.tile % 64) ≠ .m ∧ 0x40 + 4 ≤ (y.tcfg 1).scratch
        ∧ (y.tileAt 1).ecc.get false (65536 + 0x40 + 2) = true ∧ wView.target (.w 7) 0 4 = .ok 0x40 ∧ wView.src (.w 2) = .ok 3),
      faults (.ldw (.w 3) (.w 7) 0) { va := 0x40, len := 4 } (.scalar (.w 3) 4 false),
      faults (.aadd (.w 3) (.w 7) (.w 2)) { kind := .rmw, va := 0x40, len := 4, fn := .add, b := 3 } (.old (.w 3))] = true := by
  decide +kernel

/-- `u` with a soft error in the line of 2^45 + 0x50000. -/
def wDamage (u : State) : State := { u with mem := { u.mem with ecc := [((2 ^ 45 + 0x50000) / 128, true)] } }

/-- A load of that line that hits the TLB. -/
theorem witness_SoftErrors_load :
    let va := 2 ^ 32 + 0x50000
    let o : LineOp := { va := va, len := 4 }
    let j : Job := { ops := [o], cont := .scalar (.w 3) 4 false }
    let f := { wFiring with job := some j, wait := .access }
    let m := xlatTile 1
    let z : State := match (wAcc j .access wData).engXl m 1 100 va .read with
      | .ok u _ => wDamage u
      | _ => {}
    decide (z.firing 1 0 = some f ∧ (z.tileAt m).mu.inq = [] ∧ z.xlVf 1 1 = 1) && (match z.tlbAsk m 1 va .read with
      | .hit x e => decide (x.pa = 2 ^ 45 + 0x50000 ∧ z.lineDamaged x.pa = true ∧ placeOk o x 1 = true)
        && decide (State.jobRun 4 z 1 0 = (z.modMu m fun i => { i with tlb := tlbTouch i.tlb e }).takeFault 1 0 f (trapVa 0x0D va))
      | _ => false) = true := by
  decide +kernel

/-- An engine's read of it, and a row of a load walk from there. -/
theorem witness_SoftErrors_engines :
    let va := 2 ^ 32 + 0x50000
    let k : BteCmd := { id := 1, vf := 1, cts := 40, tile := 1, tmpl := wLine [(0, 1), (640, 2 ^ 32 + 0x50000), (704, 0xFFFFE * 2 ^ 32 + 6)] }
    let w := wDamage (wEng {} { run := some k, permits := 1 } { a := 16 })
    allYes [
      match w.xlate 16 1 1 40 va .read, w.engXl 16 1 40 va .read with
        | .ok u x, .bad v e => decide (u.lineDamaged x.pa = true ∧ v = u ∧ e = trapVa 0x0D va)
        | _, _ => false,
      match w.cmdIndex 16 k 0 with
        | .ok u g => decide (tmplSrc k.tmpl k.arg 0 g = va) && match u.engRead 3 16 1 40 va (rowBytes 0) with
          | .bad v e => decide (e.code = 0x0D) && match w.loadRows 16 k 0 [0] {} with
            | .ok z d => decide (z = v.charge 16 1 57 1 ∧ d.errf = 1)
            | _ => false
          | _ => false
        | _ => false] = true := by
  decide +kernel

/-- A ray at a node in it. -/
theorem witness_SoftErrors_ray :
    let desc : VBits := BitVec.ofNat 512 (2 ^ 32 + 0x50000 - 128 + 4 * 2 ^ 64)
    let pay : VBits := ofLanes fun l => if l = 9 then 0x30000 else if l = 10 then 0x20000001 else if l = 14 then 0xFFFFFFFF else 0
    let r : Ray := { pay := pay, scene := 2, chan := 4, vf := 1, flying := true, lts := 50 }
    let b := wPart (wOn 1 wTile wFiring)
    let y := wDamage (evt { b with mem := { b.mem with pm := wTables }, coves := [(0, { scenes := [(2, desc)], ring := [(5, r)] })]
                                   cfg := { chans := [(4, { src := .berth 1 0 0, dst := .berth 2 2 1, cls := 9 })] } } { b := 5 })
    allYes [decide (r.stalled = false ∧ r.paid = false ∧ r.node = none),
      match (y.charge 9 (y.coveTables 0 1) 62 1).coveLine 9 (y.coveTables 0 1) 50 (nodeVa desc.toNat 1) with
        | .bad _ e => decide (e.code = 0x0D)
        | _ => false,
      goes .rayNodeVisit y fun u => decide ((u.coveAt 0).ring = [] ∧ u.net.flights.map (fun e => e.2.chan) = [4])] = true := by
  decide +kernel

/-! ## Further clauses of the statements -/

/-- Tags 0 and 7 of berth 2 of tile 2 have frames there, or only tag 0: TAGN takes tag 1, FALLOC of tag 7 a new frame, FALLOC of tag 0
none. -/
theorem witness_Activations_completions :
    let y : Tile := { frames := [(0, { berth := 2, tag := 0, size := 8, bytes := 64 })] }
    let s0 := wPorts wFiring
    let s := { s0.setTile 2 y with cfg := { s0.cfg with tiles := s0.cfg.tiles ++ [(2, { used := true, berths := [(2, { frame := 8, rates := 8 })], scratch := 128 })] } }
    let e : EvArg := { a := 1 }
    let whole (i : Instr) (p : State → State → Bool) : Bool := goes i s fun t => goes .frameAllocRequest (evt t e) fun t2 =>
      (t2.agenda.any fun x => decide (x.1 = s.now + 2 ∧ x.2 = (Instr.frameAllocReply, e))) && goes .frameAllocReply (evt t2 e) fun t3 => p t2 t3
    let ends_ (u : State) (n : W32) (g : Option (BitVec 12)) : Bool :=
      decide ((u.firing 1 0).map (fun h => (h.wait, h.pc, h.w.get 0 3, h.tagn)) = some (.no, 2, n, g))
    allYes [decide ((s.tileAt 2).frameOf 2 0 = some 0 ∧ (s.tileAt 2).frameOf 2 1 = none ∧ (s.tileAt 2).frameOf 2 7 = none),
      ((s.tileAt 2).allocFrame (s.tcfg 2) 2 1 8).isSome, ((s.tileAt 2).allocFrame (s.tcfg 2) 2 7 8).isSome, decide ((s.berth 2 2).frame = 8),
      whole (.tagn (.w 3) 0) fun t2 t3 => ends_ t3 1 (some 1) && decide (((t2.tileAt 2).frameOf 2 1).isSome ∧ (t2.run 1 0).ctr.get 0 0 = 2),
      whole (.falloc (.w 3) 0 (.w 1)) fun t2 t3 => ends_ t3 1 none && ((t2.tileAt 2).frameOf 2 7).isSome,
      whole (.falloc (.w 3) 0 .z) fun _ t3 => ends_ t3 0 none] = true := by
  decide +kernel

/-- The lanes of `witness_AccessesStarted` are far; here lane 0 lies at 0xFFC, the last word of the scratch, and lane 1 behind it. -/
theorem witness_AccessesStarted_near :
    let f : Firing := { wFiring with w := [(7, 0xFFC), (1, 4)] }
    let s := wOn 1 wTile f
    allYes [(List.range 8).all fun l => badNear 1 4096 (2 ^ 32 + 0x40 + 4 * l) == false, badNear 1 4096 0xFFC == false, badNear 1 4096 0x1000,
      decide ((s.view f).mask 1 = 0x00FF ∧ (s.berth 1 0).wbase = 0 ∧ (s.tcfg 1).scratch = 4096),
      leads (.ldvs (.v 7) (.w 7) (.w 1) 1) s (s.trapped f 55 (trapVa 0x02 0x1000)),
      leads (.stvs (.v 1) (.w 7) (.w 1) 1) s (s.trapped f 55 (trapVa 0x02 0x1000))] = true := by
  decide +kernel

/-- An operand in its pool slot with the matching store free, used in this fc, and full; credits that come back three at once, and
one to a replica that is gone; the agent's intake. -/
theorem witness_TokenEvents_more :
    let w : Waiting := { id := 9, berth := 3, chan := 5, tok := { itag := 6, nflit := 1, lts := 4 } }
    let x : Tile := { wait := [w], frames := [(0, { berth := 3, tag := 6, size := 40 })] }
    let at_ (y : Tile) : State := evt ((wNet []).setTile 2 y) { a := 2 }
    let full := at_ { x with wait := w :: (List.range 64).map fun n => { id := 100 + n, place := .store } }
    let back (e : EvArg) : State := evt (wNet []) e
    let r : FaultRec := { code := 4, rank := 6, prod := 8 }
    let agent := evt ((wNet []).modHd fun h => { h with fintake := [r, {}] }) { a := agentPart, b := 6 }
    let edge := { agent with cfg := { agent.cfg with chans := [(5, { part := agentPart, src := .fault 0, dst := .berth 2 3 0 })] } }
    allYes [decide ((at_ x).poolOperands 2 = [w] ∧ full.poolOperands 2 = [w]),
      goes .operandRetry (at_ x) fun u => decide ((u.tileAt 2).wait = [{ w with place := .store }]),
      goes .operandRetry (at_ { x with lastStore := some 0 }) fun u => decide ((u.tileAt 2).wait = [w]),
      decide (((x.frames.get {} 0).pres.get false (spillSlot 40 0)) = false),
      goes .operandRetry full fun u => decide ((u.tileAt 2).wait.head? = some { w with place := .spill }
        ∧ (u.tileAt 2).frames.look 0 = some ((x.frames.get {} 0).spill 0 w.tok) ∧ ((u.tileAt 2).frames.get {} 0).slots.get 0 20 = w.tok.header 0),
      decide ((((back {}).chan 4).map fun c => ((back {}).srcTiles c).length) = some 1),
      goes .creditReturn (back { a := 4, l := [3] }) fun u => decide (u.credits 4 0 0 = 3),
      goes .creditReturn (back { a := 4, c := 1 }) fun u => decide (u.credits 4 0 0 = 0)
        && u.agenda.any fun y => decide (y.2 = (Instr.creditReturn, ({ a := 4 } : EvArg))),
      decide (edge.intakeEdge = some 5 ∧ edge.credits 5 0 0 = 1 ∧ edge.hd.fintake = [r, {}]),
      goes .faultEdgeSend edge fun u => decide (u.hd.fintake = [{}] ∧ u.credits 5 0 0 = 0
        ∧ u.net.flights.map (fun e => (e.2.chan, e.2.tok.handled, e.2.tok.nflit)) = [(5, some r, 2)])] = true := by
  decide +kernel

/-- Rounds and markers of lane 0; a store below its limit; no walk in flight. -/
theorem witness_LanesAndUnits_markers :
    let s := wLanesNet 3 true 7
    let late := (s.modLane 0 fun l => { l with owing := [17, 49] })
    let st : LineOp := { kind := .store, va := 2 ^ 32 + 0x50000, len := 4, data := 9, mask := 0xF }
    let j : Job := { ops := [st], stage := .home, xl := some wXl }
    let a := wAcc j .access wData
    allYes [goes .roundMarkerSend s fun u => (u.tlane 0).owing.contains 17,
      goes .laneRoundAdvance (evt late { b := 1, c := 5 }) fun u => decide ((u.tlane 0).owing = [49]),
      decide ((a.firing 1 0).map (fun f => a.overflowAt 1 0 f j) = some none), decide ((a.dirOf (sliceKey 3 64)).pend = false),
      decide (a.walkBusy 16 1 ((2 ^ 32 + 0x50000) / 2 ^ 14) = none)] = true := by
  decide +kernel

/-- A task unit applies an event of channel 0 and a task's finish. -/
theorem witness_EngineEvents_due :
    let rec_ : LineBits := wLine [(0, 1), (384 + 3, 1)]
    let ev := wEng { due := [.event 0 9 60] } {} { c := 1 }
    let fin := wEng { due := [.finish 5 70 60], tasks := [(5, { state := 4, vf := 1, cts := 40, record := rec_ })] } {} { c := 1 }
    allYes [goes .taskReady ev fun u => decide ((u.coveAt 0).events.getLsbD 9 = true ∧ (u.coveAt 0).ets.get 0 9 = 60 ∧ (u.coveAt 0).due = []),
      (setMaskOf rec_).getLsbD 3, goes .taskReady fin fun u => decide ((u.coveAt 0).tasks.look 5 = none ∧ (u.coveAt 0).events.getLsbD 3 = true)] = true := by
  decide +kernel

/-- An accumulator and a feature register to which a write is owed, with what lands in them; an arrival alone; and a batch whose
record's line is PEND or not. -/
theorem witness_TraversalEvents_landings :
    let d : MTile := { rows := [(3, 77)], shape := 0xFFFF20F0, errf := 0x10, f32 := true }
    let acc := wGrid {} { owed := [{ reg := .acc 2, data := some d }] } { a := 18 }
    let g : GBatch := { gtile := 0, xtile := 18, vf := 1, p := 2, rows := [(1, 5)], flags := 4, errf := 2 }
    let feat := wGrid {} { owed := [{ reg := .feat 5 0 }], gbuf := [g], astat := 1 } { a := 18 }
    let q : Batch := { recPa := 2 ^ 45 + 0x50100, target := 2 ^ 45 + 0x50200, n := 1, cts := 40, vf := 1, tile := 1 }
    let o : Occq := { recPa := 2 ^ 45 + 0x50100, val := 5, cts := 40, vf := 1, tile := 1 }
    let at_ (l : Map Staged) (u : MUnit) (e : EvArg) : State :=
      let s := wPart (wOn 1 wTile wFiring)
      evt { s with tiles := s.tiles ++ [(16, { mu := u })], net := { orders := l } } e
    let r := at_ [] { inbox := [(0, { q with landed := true })] } { a := 16 }
    let held := { r with mem := { r.mem with dir := [(q.recPa / 128, { pend := true })] } }
    allYes [decide (d.shape.toNat / 256 % 8 ≤ 4), goes .owedWriteLanding acc fun u => let x := (u.tileAt 18).x
        decide ((u.tileAt 18).owed = [] ∧ descRtag (x.descOf 2) = shapeTag d.shape ∧ descCtag (x.descOf 2) = 0 ∧ descErr (x.descOf 2) = 0x10
          ∧ cellOf (x.accRows 2) 3 0 = 77 ∧ cellOf (x.accRows 2) 2 0 = 0),
      goes .owedWriteLanding feat fun u => let x := (u.tileAt 18).x
        decide ((u.tileAt 18).owed = [] ∧ (u.tileAt 18).gbuf = [] ∧ (u.tileAt 18).astat = 5 ∧ shapeFmt (x.shapeOf 5) = 4 ∧ shapeRows (x.shapeOf 5) = 1
          ∧ (shapeSurv (x.shapeOf 5)).toNat = 3 ∧ x.errOf 5 = 2 ∧ x.row 5 1 = 5 ∧ x.row 5 2 = 0),
      decide ((at_ [(6, .batch 16 false q)] {} {}).arrivalsWith 6 16 = [6] ∧ (at_ [(6, .occq 16 false o)] {} {}).arrivalsWith 6 16 = [6]),
      r.retireWaits 16 { q with landed := true } == false, held.retireWaits 16 { q with landed := true },
      decide ((held.tileAt 16).mu.batches = [{ q with landed := true }] ∧ aheadOf q.sq (held.recordOf q.recPa q.vf) = 0),
      leads .batchRetire held (held.lookRetire 16 1)] = true := by
  decide +kernel

/-- Charts with a template beyond the table and with data on no page, a chart that waits for an engine, a clone that is written, and a
replica that stays while its partition drains. -/
theorem witness_ChartEvents_more :
    let g := wChart 1
    let at_ (i : ChartImage) : State := wLoad [] [] [] { b := 1, c := 1, img := i }
    let tm := { g with templates := [(16, 0)] }
    let wr := { g with data := [(2 ^ 40, [1])] }
    let busy := (at_ g).modMu 16 fun u => { u with queue := [{}] }
    let e : StageSt := { stage := 1, hi := 2, lo := 1, tiles := [1], above := 2, below := 6, cloning := some 2, written := true }
    let join := wLoad [] [(8, e)] [] {}
    let soon := wLoad [] [(8, { e with written := false })] [] {}
    let alone := wLoad [] [(8, { e with below := 7, cloning := none, written := false })] [] {}
    let gone := (wLoad [] [(8, { e with tiles := [1, 2], cloning := none, written := false, removing := [2] })] [] { b := 8 }).modHd fun h => { h with drains := [(0, {})] }
    let no (i : ChartImage) : Bool := goes .chartLoad (at_ i) fun u => decide (u.hd.out = [.loadStatus 1 LoadStatus.fieldReserved.code 0] ∧ u.cfg = (at_ i).cfg ∧ u.hd.loads = [])
    allYes [decide ((at_ tm).loadVerdict 0 1 tm = none), (at_ tm).badTemplates 0 1 tm, no tm, decide ((at_ wr).loadVerdict 0 1 wr = none),
      (at_ wr).badWrites 1 wr, no wr, busy.enginesBusy 0, (at_ g).enginesBusy 0 == false, goes .chartLoad busy fun u => due busy u 1 .chartLoad { b := 1, c := 1, img := g } && decide (u.cfg = busy.cfg),
      goes .tideSample soon fun u => decide (u.hd.stages = soon.hd.stages), goes .tideSample alone fun u =>
        decide ((u.hd.stages.look 8).map (fun x => (x.below, x.removing)) = some (8, [])),
      join.stagesHeld 0 == false, goes .tideSample join fun u => due join u 1 .controlTokenTake { a := 2 }
        && decide (u.hd.stages.look 8 = some { e with tiles := [1, 2], cloning := none, written := false, above := 0 }),
      gone.stagesHeld 0, goes .replicaRelease gone fun u => decide (u.hd.stages = gone.hd.stages) && due gone u 1 .replicaRelease { b := 8 }] = true := by
  decide +kernel

/-- A reserved bit of ORIGIN, another FQBASE while the partition runs, VF 2's image in another partition's area, a drain image where a
freeze is asked for, and switches whose entry can and can no longer be made. -/
theorem witness_PartitionEvents_more :
    let all := [Instr.partitionCreate, .partitionEnter, .partitionSwitch, .partitionFreeze, .partitionDrain, .partitionResume, .partitionResize, .partitionRelease]
    let fails_ (s : State) (i : Instr) (c : PrivStatus) : Bool := goes i s fun u => pcmd u c && decide (u.hd.parts = s.hd.parts ∧ u.hd.cmap = s.hd.cmap)
    let bad := wCmd wEntry { wEntry with origin := 0x2000 } 0
    let other := wCmd wEntry { wEntry with fqbase := 64 } 0
    let off := { wEntry with pstate := 1 }
    let else_ := ((wCmd off { wEntry with occ := 2 } 0).modHd fun h =>
      { h with parts := h.parts.map (fun x => (x.1, { x.2 with save := 0x200000 })) ++ [(1, { save := 0x40000 })] }).putImage 1 2 { vf := 2 }
    let away := { else_ with hd := { else_.hd with win := { else_.hd.win with pdata := BitVec.ofNat 128 ({ off with save := 0x200000, occ := 2 } : PartEnt).word } } }
    let full := (wCmd { wEntry with pstate := 3 } wEntry 0).putImage 0 1 { vf := 1, rects := 0x1000 }
    let sw (n : Nat) : State := (wCmd wEntry {} 0).modHd fun h => { h with freezes := [(0, { since := 90, next := some n })], running := [(0, true)] }
    let pinned := wCmd { wEntry with save := 0 } { wEntry with save := 0, origin := 0x1040 } 0
    allYes [bad.badPartData 0, all.all fun i => fails_ bad i .value, other.badPartData 0 == false,
      (match other.writeFields 0 with
        | .error c => decide (c = .inUse)
        | .ok _ => false), all.all fun i => fails_ other i .inUse,
      away.frozenElsewhere 0 2, fails_ away .partitionEnter .stateInvalid, fails_ full .partitionResume .stateInvalid,
      (sw 2).outstanding 0 == false, (((sw 2).saveFrozen 0 { since := 90, next := some 2 }).enterVf 0 2).isOk,
      (((sw 3).saveFrozen 0 { since := 90, next := some 3 }).enterVf 0 3).isOk == false,
      goes .freezeSave (sw 2) fun u => pcmd u .ok && decide ((u.part 0).occ = 2 ∧ (u.part 0).pstate = 2),
      goes .freezeSave (sw 3) fun u => pcmd u .stateInvalid && decide (u.hd.parts = (sw 3).hd.parts ∧ u.hd.freezes = [] ∧ u.hd.running.get false 0 = false),
      pinned.resizeRefused 0 [0, 1] == false, pinned.canSave 0 1 == false, fails_ pinned .partitionResize .notPinned] = true := by
  decide +kernel

/-- A ring is installed, and a way mask changes for the next fc. -/
theorem witness_TableEvents_rings :
    let w0 := wWin 1 0 2
    let ring := 2 ^ 45 + 0x50000
    let to_ (e : VfEnt) (n : Nat) : State := { wWin n (BitVec.ofNat 128 (e.word / 2 ^ (128 * n) % 2 ^ 128)) 2 with mem := { w0.mem with pm := wData } }
    let s := to_ { (w0.vf 2) with wqbase := ring, state := 1 } 1
    let m := to_ { (w0.vf 2) with wm := 0x00FF } 2
    allYes [decide (regionOf ring = .pool 0 ∧ (s.vf 2).state ≠ 2 ∧ (m.vf 2).wmFc ≠ some m.now),
      goes .privVfWrite m fun u => pcmd u .ok && decide (u.wayMask 2 = 0xFFFF ∧ ({ u with now := 1 } : State).wayMask 2 = 0x00FF),
      decide (s.pmByte (ring + 3) = 4 ∧ ring % 128 ≤ 116),
      goes .privVfWrite s fun u => pcmd u .ok && (List.range 12).all fun j => u.pmByte (ring + j) == 0] = true := by
  decide +kernel

/-- Host reads of a PEND line before and after the reservation of its owner. -/
theorem witness_HostEvents_pend :
    let pool := 2 ^ 45 + 0x50000
    let rd (h : Nat) : State := wHost { a := 1, b := pool, l := [3] } fun s =>
      ({ s with mem := { s.mem with dir := [(pool / 128, { wts := 60, rts := 60, pend := true, base := 30 })], pm := wData } }).modHd fun d => { d with hck := [(1, h)] }
    allYes [goes .hostRead (rd 40) fun u => decide (u.hd.out = [.readData pool [1, 2, 3]] ∧ u.hck 1 = 60),
      goes .hostRead (rd 60) fun u => due (rd 60) u 1 .hostRead (rd 60).ev && decide (u.mem = (rd 60).mem)] = true := by
  decide +kernel

/-- A ray that has crossed its lanes; records that wait for a line of their ring, PEND or not; and a credit from a replica that is
gone. -/
theorem witness_TokenEvents_waits :
    let r : FaultRec := { code := 1, vf := 1, rank := 2 }
    let s := evt (wNet [(7, { chan := rayChan 0, ray := some { cove := 1, slot := 3 } })]) { a := 7 }
    let at_ (u : FaultUnit) (p : Bool) : State :=
      let t := (wNet []).modHd fun h => { h with faults := [(0, u)] }
      evt { t with mem := { t.mem with dir := if p then [((2 ^ 45 + 0x38000) / 128, { pend := true })] else [] } } { a := 0 }
    let pend := at_ { waitPend := [(r, none)] } true
    let free := at_ { waitPend := [(r, none)] } false
    let both := at_ { waitXlate := [{ r with recov := true }] } false
    let gone := evt (wNet []) { a := 4, c := 5 }
    allYes [decide (s.chan (rayChan 0) = none), goes .tokenArrival s fun u => due s u 0 .rayNodeVisit { a := 1, b := 3 } && decide (u.net.flights = []),
      pend.queuePend 0 1, free.queuePend 0 1 == false, goes .xlateRecordPost pend fun u => due pend u 1 .xlateRecordPost {}
        && decide ((u.hd.faults.get {} 0).waitPend = [(r, none)] ∧ u.mem = pend.mem),
      goes .xlateRecordPost free fun u => decide ((u.hd.faults.get {} 0).waitPend = []),
      both.queuePend 0 1 == false, both.queueFull 0 1 == false, goes .xlateRecordPost both fun u => decide ((u.hd.faults.get {} 0).waitXlate = []),
      decide ((gone.chan 4).map (fun c => (gone.srcTiles c).getD 5 gapTile) = some gapTile), leads .creditReturn gone (gone.freeCredit 2 4 0)] = true := by
  decide +kernel

end
end

section
namespace Sys2Proof.Machine

/-! ## The step that issues an instruction -/

theorem State.tileAt_beginIssue_ecc (s : State) (t k : Nat) : ((s.beginIssue t k).tileAt t).ecc = (s.tileAt t).ecc := by
  have h : (s.beginIssue t k).tileAt t = { s.tileAt t with
      lastIssue := some s.now
      rrIssue := ((match s.firing t k with
        | some f => f.berth
        | none => 0) + 1) % 16 } := Map.get_set_same _ _ _ _
  rw [h]

/-- A tile without soft errors reads its code undamaged. -/
theorem State.codeDamaged_of_ecc_nil {s : State} {t : Nat} {f : Firing} (h : (s.tileAt t).ecc = []) :
    s.codeDamaged t f = false := by
  unfold State.codeDamaged
  split
  · rfl
  · simp [Tile.damaged, h]

/-- A step that issues an instruction, on a tile without soft errors. -/
theorem step_of_issue {s : State} {t k : Nat} {f : Firing} (hc : s.choose = .issue t k)
    (hf : (s.beginIssue t k).firing t k = some f) (he : (s.tileAt t).ecc = []) :
    (∀ e, (s.beginIssue t k).fetch t f = .error e → step s = .refused (.loadRejects e.code))
      ∧ ((s.beginIssue t k).fetch t f = .ok none → step s = .next ((s.beginIssue t k).pastEnd t k f))
      ∧ ∀ i, (s.beginIssue t k).fetch t f = .ok (some i) → step s = exec i (s.beginIssue t k) := by
  have hd : (s.beginIssue t k).codeDamaged t f = false :=
    State.codeDamaged_of_ecc_nil ((s.tileAt_beginIssue_ecc t k).trans he)
  unfold step
  refine ⟨fun e h => ?_, fun h => ?_, fun i h => ?_⟩ <;> simp only [hc, hf, hd, h, Bool.false_eq_true, if_false]

/-! ## What the fetch answers -/

/-- The head of the code is an instruction that the berth may hold. -/
theorem checkHead_ok {c : WfCtx} {code : List (BitVec 16)} {i : Instr} {n : Nat} (hd : decode code = .ok (i, n))
    (hk : i.check c = none) : checkHead c code = .ok (i, n) := by
  simp only [checkHead, hd, hk]

/-- The head of the code is an instruction that the berth may not hold. -/
theorem checkHead_rejected {c : WfCtx} {code : List (BitVec 16)} {i : Instr} {n : Nat} {e : LoadStatus}
    (hd : decode code = .ok (i, n)) (hk : i.check c = some e) : checkHead c code = .error e := by
  simp only [checkHead, hd, hk]

/-- The head of the code is no instruction: some status refuses it. -/
theorem checkHead_undecoded {c : WfCtx} {code : List (BitVec 16)} {e : LoadStatus} (hd : decode code = .error e) :
    ∃ st, checkHead c code = .error st := by
  simp only [checkHead, hd]
  split
  · split
    · exact ⟨_, rfl⟩
    · split <;> split <;> exact ⟨_, rfl⟩
  · exact ⟨_, rfl⟩

theorem State.fetch_of_codeAt_nil {s : State} {t : Nat} {f : Firing} (h : s.codeAt t f = []) : s.fetch t f = .ok none := by
  simp only [State.fetch, h]

/-- On a pc within its routine the fetch is the loader's verdict on the head of the code. -/
theorem State.fetch_of_checkHead_ok {s : State} {t : Nat} {f : Firing} {i : Instr} {n : Nat} (hne : s.codeAt t f ≠ [])
    (h : checkHead (s.wfCtx t f.berth) (s.codeAt t f) = .ok (i, n)) : s.fetch t f = .ok (some i) := by
  unfold State.fetch
  split
  · next hn => exact absurd hn hne
  · simp only [h]

theorem State.fetch_of_checkHead_error {s : State} {t : Nat} {f : Firing} {e : LoadStatus} (hne : s.codeAt t f ≠ [])
    (h : checkHead (s.wfCtx t f.berth) (s.codeAt t f) = .error e) : s.fetch t f = .error e := by
  unfold State.fetch
  split
  · next hn => exact absurd hn hne
  · simp only [h]

theorem ne_nil_of_decode_ok {code : List (BitVec 16)} {r : Instr × Nat} (h : decode code = .ok r) : code ≠ [] := by
  rintro rfl
  cases h

/-- Settles O4: the issue of an instruction fetches the head of the code at the pc, and each verdict on it has its own
branch of the step. -/
theorem stepRunsDecoded : Obligations.StepRunsDecoded := by
  intro s t k f hc hf he
  obtain ⟨hrefused, hpast, hruns⟩ := step_of_issue hc hf he
  refine ⟨fun i n hd hk => ?_, fun i n e hd hk => ?_, fun e hne hd => ?_, fun hnil => ?_⟩
  · exact hruns i (State.fetch_of_checkHead_ok (ne_nil_of_decode_ok hd) (checkHead_ok hd hk))
  · exact hrefused e (State.fetch_of_checkHead_error (ne_nil_of_decode_ok hd) (checkHead_rejected hd hk))
  · obtain ⟨st, hst⟩ := checkHead_undecoded (c := (s.beginIssue t k).wfCtx t f.berth) hd
    exact ⟨st, hrefused st (State.fetch_of_checkHead_error hne hst)⟩
  · exact hpast (State.fetch_of_codeAt_nil hnil)

end Sys2Proof.Machine
end

section
namespace Sys2Proof.Machine

/-! ## Sources -/

/-- A merge under the mask of lane 0 alone keeps the other lanes. -/
theorem lane_mergeLanes_one (a b : VBits) {l : Nat} (h0 : 0 < l) (hl : l < 16) : lane (mergeLanes 1 a b) l = lane a l := by
  have hb : ∀ l : Fin 16, 0 < l → (1 : BitVec 16).getLsbD l = false := by decide
  rw [lane_mergeLanes _ _ _ _ hl, hb ⟨l, hl⟩ h0, if_neg Bool.false_ne_true]

/-- Word 0 of a token without payload reads zero. -/
theorem Token.lane_words_zero (k : Token) : lane k.words 0 = if k.nflit = 0 then 0 else lane k.pay 0 := by
  have h : (0 < 4 * k.nflit.toNat) ↔ k.nflit ≠ 0 := by
    rw [ne_eq, ← BitVec.toNat_inj]
    change _ ↔ ¬k.nflit.toNat = 0
    omega
  rw [Token.words, lane_ofLanes _ _ (by decide)]
  by_cases hz : k.nflit = 0
  · rw [if_pos hz, if_neg (fun hp => h.mp hp hz)]
  · rw [if_neg hz, if_pos (h.mpr hz)]

/-- A frame slot beyond the frame faults, with its number. -/
theorem View.src_slot_beyond {v : View} {n : BitVec 5} (h : v.frame.size ≤ n.toNat) :
    v.src (.f n) = .error { code := 0x04, tval := n.setWidth 32 } := by
  change v.slot n.toNat = _
  simp only [View.slot, if_pos h, trapBounds, BitVec.ofNat_toNat]

/-- A frame slot that is not present faults, with its number. -/
theorem View.src_slot_absent {v : View} {n : BitVec 5} (h : n.toNat < v.frame.size) (hp : v.frame.pres.get false n.toNat = false) :
    v.src (.f n) = .error { code := 0x05, tval := n.setWidth 32 } := by
  change v.slot n.toNat = _
  simp only [View.slot, if_neg (Nat.not_le.mpr h), hp, Bool.false_eq_true, if_false, trapAbsent, BitVec.ofNat_toNat]

theorem View.src_slot_present {v : View} {n : BitVec 5} (h : n.toNat < v.frame.size) (hp : v.frame.pres.get false n.toNat = true) :
    v.src (.f n) = .ok (v.frame.slots.get 0 n.toNat) := by
  change v.slot n.toNat = _
  simp only [View.slot, if_neg (Nat.not_le.mpr h), hp, if_true]

/-! ## Destinations -/

/-- A write to a frame slot beyond the frame faults, with its number. -/
theorem View.put_slot_beyond {v : View} {n : BitVec 5} (h : v.frame.size ≤ n.toNat) (x : W32) :
    v.put (.f n) x = .error { code := 0x04, tval := n.setWidth 32 } := by
  change v.setSlot n.toNat x = _
  simp only [View.setSlot, if_pos h, trapBounds, BitVec.ofNat_toNat]

/-- A view whose frame of the activation is replaced. -/
def View.withFrame (v : View) (fr : Frame) : View := { v with t := { v.t with frames := v.t.frames.put v.f.fp fr } }

@[simp] theorem View.frame_withFrame (v : View) (fr : Frame) : (v.withFrame fr).frame = fr := Map.get_put_same _ _ _ _

/-- A write to a slot of the frame sets its word and its presence bit. -/
theorem View.put_slot {v : View} {n : BitVec 5} (h : n.toNat < v.frame.size) (x : W32) :
    v.put (.f n) x = .ok (v.withFrame { v.frame with
      slots := v.frame.slots.set 0 n.toNat x
      pres := v.frame.pres.set false n.toNat true }) := by
  change v.setSlot n.toNat x = _
  simp only [View.setSlot, if_neg (Nat.not_le.mpr h)]
  rfl

/-- After a write to a slot of the frame that slot reads the word, and every other reads as before. -/
theorem View.put_slot_reads {v : View} {n : BitVec 5} (h : n.toNat < v.frame.size) (x : W32) :
    ∃ u, v.put (.f n) x = .ok u ∧ u.src (.f n) = .ok x ∧ u.f = v.f ∧ ∀ k : BitVec 5, k ≠ n → u.src (.f k) = v.src (.f k) := by
  refine ⟨_, View.put_slot h x, ?_, rfl, fun k hk => ?_⟩
  · rw [View.src_slot_present]
    · rw [View.frame_withFrame, Map.get_set_same]
    · rwa [View.frame_withFrame]
    · rw [View.frame_withFrame, Map.get_set_same]
  · have hne : k.toNat ≠ n.toNat := fun e => hk (BitVec.eq_of_toNat_eq e)
    change View.slot _ k.toNat = v.slot k.toNat
    simp only [View.slot, View.frame_withFrame, Map.get_set_other _ _ _ hne]

/-- An untagged staging payload takes word 0 and keeps the others. -/
theorem View.put_o_untagged {v : View} {k : BitVec 2} (x : W32) (h : (v.f.o.get {} k.toNat).tag = 0) :
    v.put (.o k) x = .ok (v.setVec (.o k) { bits := mergeLanes 1 (v.f.o.get {} k.toNat).bits (splat x), tag := 0 }) := by
  change v.vput (.o k) 1 { bits := splat x } [] = _
  unfold View.vput
  rw [if_neg (by decide), if_neg (fun hc => hc.2 h)]

theorem View.o_setVec_same (v : View) (k : BitVec 2) (x : VReg) : (v.setVec (.o k) x).f.o.get {} k.toNat = x := by
  simp only [View.setVec, Map.get_set_same]

theorem View.wrote_of_put {v u : View} {o : Opnd} {x : W32} (h : v.put o x = .ok u) : v.wrote o x = u := by
  rw [View.wrote, h]

/-- What the special operands and the constants take is lost. -/
theorem View.wrote_special (v : View) (x : W32) (n : BitVec 5) :
    ∀ o ∈ [Opnd.z, .lx, .fp, .it, .xy, .st, .cx, .k n], v.wrote o x = v := by
  simp only [List.forall_mem_cons]
  exact ⟨rfl, rfl, rfl, rfl, rfl, rfl, rfl, rfl, by simp⟩

/-! ## Operands that cannot be read -/

/-- Of two operands read in order, the first that cannot be read gives its fault. -/
def View.fails (v : View) (a b : Opnd) (e : Trap) : Prop := v.src a = .error e ∨ ∃ x, v.src a = .ok x ∧ v.src b = .error e

theorem View.fails.bind {v : View} {a b : Opnd} {e : Trap} (h : v.fails a b e) (g : W32 → W32 → Except Trap View) :
    (v.src a >>= fun x => v.src b >>= fun y => g x y) = .error e := by
  rcases h with ha | ⟨x, ha, hb⟩
  · rw [ha]; rfl
  · rw [ha]; change (v.src b >>= _) = _; rw [hb]; rfl

section
variable {s : State} {f : Firing} {d a b : Opnd} {e : Trap} (hr : s.runs f) (h : (s.view f).fails a b e)
include hr h

/-- A register instruction that begins by reading two operands ends in the fault of the one that cannot be read. -/
theorem State.trapped_of_fails {cls n : Nat} {work : View → Except Trap View} {g : View → W32 → W32 → Except Trap View}
    (hw : ∀ v, work v = (v.src a >>= fun x => v.src b >>= fun y => g v x y)) :
    s.runView cls n work = .next (s.trapped f cls e) := by
  have hs : (s.seen f cls).fails a b e := by simpa only [View.fails, seen_src] using h
  exact State.runView_trap hr ((hw _).trans (hs.bind _))

theorem State.trapped_scalar2 (cls : Nat) (op : W32 → W32 → W32) :
    s.runView cls 2 (fun v => v.scalar2 d a b op) = .next (s.trapped f cls e) :=
  State.trapped_of_fails hr h (g := fun v x y => v.put d (op x y)) fun _ => rfl

theorem State.trapped_scalar3 (cls : Nat) (op : W32 → W32 → W32 → W32) :
    s.runView cls 2 (fun v => v.scalar3 d a b op) = .next (s.trapped f cls e) :=
  State.trapped_of_fails hr h (g := fun v x y => v.src d >>= fun z => v.put d (op z x y)) fun _ => rfl

theorem State.trapped_scalarFloat (cls : Nat) (op : W32 → W32 → W32 × Flags) :
    s.runView cls 2 (fun v => v.scalarFloat d a b op) = .next (s.trapped f cls e) :=
  State.trapped_of_fails hr h (g := fun v x y => (v.flag (op x y).2).put d (op x y).1) fun _ => rfl

/-- Each instruction of two sources and one destination ends in the fault of the source that cannot be read. -/
theorem State.trapped_of_unread : ∀ c ∈ [(Instr.add d a b, 1), (.sub d a b, 1), (.mul d a b, 3), (.mulh d a b, 3),
    (.mulhu d a b, 3), (.div d a b, 4), (.divu d a b, 4), (.rem d a b, 4), (.remu d a b, 4), (.and d a b, 1), (.or d a b, 1),
    (.xor d a b, 1), (.shl d a b, 1), (.shr d a b, 1), (.sra d a b, 1), (.min d a b, 1), (.max d a b, 1), (.bfx d a b, 1),
    (.bfxu d a b, 1), (.bfi d a b, 1), (.sel d a b, 1), (.agen d a b, 2), (.agen2 d a b, 2), (.fadd d a b, 20),
    (.fmul d a b, 20)], exec c.1 s = .next (s.trapped f c.2 e) := by
  have two := fun cls op => State.trapped_scalar2 (d := d) hr h cls op
  have three := fun cls op => State.trapped_scalar3 (d := d) hr h cls op
  have flt := fun cls op => State.trapped_scalarFloat (d := d) hr h cls op
  simp only [List.forall_mem_cons]
  exact ⟨two 1 _, two 1 _, two 3 _, two 3 mulHigh, two 3 mulHighU, two 4 divS, two 4 divU, two 4 remS, two 4 remU, two 1 _, two 1 _,
    two 1 _, two 1 shiftL, two 1 shiftR, two 1 shiftA, two 1 minS, two 1 maxS, two 1 bitFieldS, two 1 bitFieldU, three 1 bitInsert,
    three 1 _, two 2 agenOf, three 2 agen2Of, flt 20 addF, flt 20 mulF, by simp⟩

end

/-- Settles O15: sources and destinations by the kind of operand, and the two reads that come first. -/
theorem operands : Obligations.Operands := by
  refine ⟨⟨fun s f n i k => ?_, fun v x n => ?_⟩, fun s f d a b x e hr h => ?_⟩
  · exact ⟨rfl, rfl, congrArg _ (Token.lane_words_zero _), rfl, rfl, rfl, rfl, rfl, rfl, rfl, rfl, View.src_slot_beyond,
      View.src_slot_absent, View.src_slot_present⟩
  · refine ⟨⟨Map.get_set_same _ _ _ _, fun k hk => Map.get_set_other _ _ _ hk⟩, rfl, v.wrote_special x n,
      fun h => View.put_slot_reads h x, fun h => View.put_slot_beyond h x, fun k h => ?_⟩
    have hnew := (congrArg (fun u : View => u.f.o.get {} k.toNat) (View.wrote_of_put (View.put_o_untagged x h))).trans
      (View.o_setVec_same ..)
    intro new
    have hn : new = _ := hnew
    rw [hn]
    refine ⟨rfl, ?_, fun l h0 hl => ?_⟩
    · simp [lane_mergeLanes, lane_splat]
    · rw [lane_mergeLanes_one _ _ h0 hl]
  · exact State.trapped_of_unread hr (h.imp_right fun hb => ⟨x, hb⟩)

end Sys2Proof.Machine
end

section
namespace Sys2Proof.Machine

/-! ## Payload, tags and rate of a send -/

@[simp] theorem State.seen_payload (s : State) (f : Firing) (cls : Nat) (po : BitVec 2) (o : Opnd) :
    (s.seen f cls).payload po o = (s.view f).payload po o := by
  cases o <;> simp only [View.payload, State.seen_src, State.seen_f, State.view_f]

@[simp] theorem State.seen_tags (s : State) (f : Firing) (cls : Nat) (top : BitVec 3) (im : BitVec 8) :
    (s.seen f cls).tags top im = (s.view f).tags top im := rfl

@[simp] theorem State.seen_tile (s : State) (f : Firing) (cls : Nat) : (s.seen f cls).tile = s.tile :=
  (s.charge_step s.tile f.cx.toNat cls 1).tile

@[simp] theorem State.seen_b (s : State) (f : Firing) (cls : Nat) : (s.seen f cls).b = (s.view f).b := by
  obtain ⟨m, hm⟩ := s.seen_eq f cls
  rw [hm]

/-- Tokens within the rate of a port are counted. -/
theorem View.count_ok {v : View} {p n : Nat} (h : v.f.sent.get 0 p + n ≤ v.outRate p) :
    v.count p n = .ok { v with f := { v.f with sent := v.f.sent.set 0 p (v.f.sent.get 0 p + n) } } := by
  simp only [View.count, if_neg (Nat.not_lt.mpr h)]

/-- Tokens beyond the rate of a port trap with the port. -/
theorem View.count_trap {v : View} {p n : Nat} (h : ¬v.f.sent.get 0 p + n ≤ v.outRate p) :
    v.count p n = .error { code := 0x04, tval := BitVec.ofNat 32 p } := by
  simp only [View.count, if_pos (Nat.lt_of_not_le h), trapBounds]

/-! ## What a send does -/

theorem exec_send (po : BitVec 2) (o : Opnd) (top : BitVec 3) (im : BitVec 8) (fl : BitVec 3) (s : State) :
    exec (.send po o top im fl) s = s.runView 59 2 fun v => v.sendData s po po.toNat false o top im fl := rfl

theorem exec_sendm (po : BitVec 2) (o : Opnd) (top : BitVec 3) (im : BitVec 8) (fl : BitVec 3) (s : State) :
    exec (.sendm po o top im fl) s = s.runView 59 2 fun v => v.sendData s po po.toNat true o top im fl := rfl

theorem exec_steer (po : BitVec 2) (o : Opnd) (top : BitVec 3) (im : BitVec 8) (fl : BitVec 3) (s : State) :
    exec (.steer po o top im fl) s = s.runView 59 2 fun v =>
      v.sendData s po (if v.pred 1 then po else po ^^^ 1).toNat false o top im fl := rfl

theorem exec_sende (po : BitVec 2) (top : BitVec 3) (im : BitVec 8) (l : BitVec 3) (s : State) :
    exec (.sende po top im l) s = s.runView 59 2 fun v =>
      v.payload po .z >>= fun x => v.tags top im >>= fun g => v.send s po.toNat false x g 1 l 0 false 0 := rfl

theorem exec_cSend (po : BitVec 2) (y : BitVec 5) (s : State) :
    exec (.cSend po y) s = s.runView 59 1 fun v => v.sendData s po po.toNat false (.w y) 0 0 1 := rfl

theorem exec_loopc (po : BitVec 2) (o : Opnd) (top : BitVec 3) (im : BitVec 8) (fl : BitVec 3) (s : State) :
    exec (.loopc po o top im fl) s = s.runView 59 2 fun v => v.loopCarry s po o top im fl := rfl

theorem exec_merge (po n : BitVec 2) (top : BitVec 3) (im : BitVec 8) (fl : BitVec 3) (s : State) :
    exec (.merge po n top im fl) s = s.runView 59 2 fun v => v.merge s po n top im fl := rfl

/-- The instruction `i` of `adv` halfwords sends the token `k`, with the tags `g`, on port `p` of the firing `f`, which it leaves as
`h` but for the count and the staged tokens: within the port's rate it is staged for END on the port's first channel, or on
all of them, and beyond it the firing traps with the port (R29, R288, R289). -/
def State.Sends (s : State) (f : Firing) (g : BitVec 12 × BitVec 16) (i : Instr) (adv p : Nat) (all : Bool) (h : Firing) (k : Token) :
    Prop :=
  let chans := if all then s.chansFrom s.tile f.berth p else (s.chansFrom s.tile f.berth p).take 1
  let token (c : Nat) : Staged := .token c { k with ctx := f.cx, itag := g.1, stag := g.2, cls := s.chanClass c }
  let room := f.sent.get 0 p + 1 ≤ (s.view f).b.rates.toNat / 2 ^ (12 + 3 * p) % 8
  (room → exec i s = .next (s.ran f 59 adv { s.seen f 59 with
      f := { h with sent := f.sent.set 0 p (f.sent.get 0 p + 1), staged := f.staged ++ chans.map token } }))
    ∧ (¬room → exec i s = .next (s.trapped f 59 { code := 0x04, tval := BitVec.ofNat 32 p }))

/-- Within the rate of its port a send stages its tokens. -/
theorem View.send_ok {v : View} {p : Nat} (h : v.f.sent.get 0 p + 1 ≤ v.outRate p) (s : State) (all : Bool) (pay : VReg)
    (g : BitVec 12 × BitVec 16) (kind : BitVec 2) (level nflit : BitVec 3) (err : Bool) (mark : BitVec 3) :
    v.send s p all pay g kind level nflit err mark = .ok { v with f := { v.f with
      sent := v.f.sent.set 0 p (v.f.sent.get 0 p + 1)
      staged := v.f.staged ++ (if all then s.chansFrom v.tile v.f.berth p else (s.chansFrom v.tile v.f.berth p).take 1).map fun c =>
        .token c { ctx := v.f.cx, err := v.f.err || err, kind := kind, level := level, itag := g.1, stag := g.2, dport := mark
                   nflit := nflit, haar := pay.tag, pay := pay.bits, cls := s.chanClass c } } } := by
  simp only [View.send, View.count_ok h]
  rfl

/-- Beyond the rate of its port a send traps with the port. -/
theorem View.send_trap {v : View} {p : Nat} (h : ¬v.f.sent.get 0 p + 1 ≤ v.outRate p) (s : State) (all : Bool) (pay : VReg)
    (g : BitVec 12 × BitVec 16) (kind : BitVec 2) (level nflit : BitVec 3) (err : Bool) (mark : BitVec 3) :
    v.send s p all pay g kind level nflit err mark = .error { code := 0x04, tval := BitVec.ofNat 32 p } := by
  simp only [View.send, View.count_trap h]
  rfl

/-- What a send sees of the firing `f`, marked as MERGE and LOOPC mark it. -/
def State.marked (s : State) (f : Firing) (m : Option (BitVec 2)) (l : Bool) : View :=
  { s.seen f 59 with f := { f with merge := m, loopc := l } }

/-- An instruction whose work comes down to `View.send` sends its token. -/
theorem State.sends_of_send {s : State} {f : Firing} {g : BitVec 12 × BitVec 16} {i : Instr} {adv p : Nat} {all : Bool}
    (m : Option (BitVec 2)) (lp : Bool) {pay : VReg} {kind : BitVec 2} {level nflit mark : BitVec 3} {err : Bool}
    {work : View → Except Trap View} (hr : s.runs f) (hi : exec i s = s.runView 59 adv work)
    (hw : work (s.seen f 59) = (s.marked f m lp).send s p all pay g kind level nflit err mark) :
    s.Sends f g i adv p all { f with merge := m, loopc := lp }
      { err := f.err || err, kind := kind, level := level, dport := mark, nflit := nflit, haar := pay.tag, pay := pay.bits } := by
  have hb : (s.marked f m lp).b = (s.view f).b := s.seen_b f 59
  have ht : (s.marked f m lp).tile = s.tile := s.seen_tile f 59
  refine ⟨fun hroom => ?_, fun hroom => ?_⟩
  · have hok := View.send_ok (v := s.marked f m lp) (p := p) (by rw [View.outRate, hb]; exact hroom) s all pay g kind level nflit err mark
    rw [hi, State.runView_ok hr (hw.trans hok), ht]
    rfl
  · rw [hi, State.runView_trap hr (hw.trans (View.send_trap (by rw [View.outRate, hb]; exact hroom) ..))]

section
variable {s : State} {f : Firing} {o : Opnd} {x : VReg} {top : BitVec 3} {im : BitVec 8} {g : BitVec 12 × BitVec 16} {po : BitVec 2}
  (hr : s.runs f) (ht : (s.view f).tags top im = .ok g)
include hr ht

/-- A SEND of any form: the payload and the tags are read, then the token is staged. -/
theorem State.sends_of_sendData {i : Instr} {adv p : Nat} {all : Bool} {fl : BitVec 3} {work : View → Except Trap View}
    (hp : (s.view f).payload po o = .ok x) (hi : exec i s = s.runView 59 adv work)
    (hw : work (s.seen f 59) = (s.seen f 59).sendData s po p all o top im fl) :
    s.Sends f g i adv p all f { err := f.err, nflit := fl, haar := x.tag, pay := x.bits } := by
  rw [← Bool.or_false f.err]
  refine State.sends_of_send f.merge f.loopc hr hi (hw.trans ?_)
  simp only [View.sendData, seen_payload, seen_tags, hp, ht]
  rfl

/-- SENDE stages a token of kind 1 with its level. -/
theorem State.sends_sende {l : BitVec 3} (hp : (s.view f).payload po .z = .ok x) :
    s.Sends f g (.sende po top im l) 2 po.toNat false f { err := f.err, kind := 1, level := l, haar := x.tag, pay := x.bits } := by
  rw [← Bool.or_false f.err]
  refine State.sends_of_send f.merge f.loopc hr (exec_sende ..) ?_
  simp only [seen_payload, seen_tags, hp, ht]
  rfl

/-- MERGE forwards the head token of the port that p1, or the firing's first MERGE, chooses. -/
theorem State.sends_merge (n : BitVec 2) (fl : BitVec 3) {choice : BitVec 2} (hc : (s.view f).mergePort n = choice) {k : Token}
    (hk : f.token choice.toNat 0 = k) :
    s.Sends f g (.merge po n top im fl) 2 po.toNat false { f with merge := some (choice ^^^ 1) }
      { err := f.err || k.err, kind := k.kind, level := k.level, nflit := if k.kind = 1 then 0 else fl
        haar := k.haar, pay := k.words } := by
  subst hc hk
  let k := f.token ((s.view f).mergePort n).toNat 0
  refine State.sends_of_send (pay := { bits := k.words, tag := k.haar }) (some ((s.view f).mergePort n ^^^ 1)) f.loopc hr (exec_merge ..) ?_
  simp only [View.merge, seen_tags, ht]
  rfl

omit hr in
/-- LOOPC of a firing that has staged none reads its payload and its tags, and its tag must not be live. -/
theorem State.loopCarry_first (fl : BitVec 3) (hp : (s.view f).payload po o = .ok x) (hl : f.loopc = false) :
    (s.seen f 59).loopCarry s po o top im fl =
      if (s.run s.tile f.berth).live.contains g.1 then .error { code := 0x04, tval := g.1.setWidth 32 }
      else (s.marked f f.merge true).send s po.toNat false x g 0 0 fl false 7 := by
  simp only [View.loopCarry, seen_payload, seen_tags, seen_f, hp, ht, hl, Bool.false_eq_true, if_false, ← s.seen_tile f 59]
  rfl

/-- The first LOOPC of a firing, with a tag that is not live, stages its token with DPORT 7. -/
theorem State.sends_loopc (fl : BitVec 3) (hp : (s.view f).payload po o = .ok x) (hl : f.loopc = false)
    (hlive : (s.run s.tile f.berth).live.contains g.1 = false) :
    s.Sends f g (.loopc po o top im fl) 2 po.toNat false { f with loopc := true }
      { err := f.err, nflit := fl, haar := x.tag, pay := x.bits, dport := 7 } := by
  have hw := State.loopCarry_first ht fl hp hl
  rw [hlive, if_neg Bool.false_ne_true] at hw
  have h := State.sends_of_send f.merge true hr (exec_loopc ..) hw
  rwa [Bool.or_false] at h

/-- A LOOPC with a tag that is live traps with the tag. -/
theorem State.loopc_live (fl : BitVec 3) (hp : (s.view f).payload po o = .ok x) (hl : f.loopc = false)
    (hlive : (s.run s.tile f.berth).live.contains g.1 = true) :
    exec (.loopc po o top im fl) s = .next (s.trapped f 59 { code := 0x04, tval := g.1.setWidth 32 }) := by
  exact (exec_loopc ..).trans (State.runView_trap hr ((State.loopCarry_first ht fl hp hl).trans (if_pos hlive)))

end

/-- A second LOOPC of a firing traps. -/
theorem State.loopc_again {s : State} {f : Firing} (hr : s.runs f) (hl : f.loopc = true) (po : BitVec 2) (o : Opnd) (top : BitVec 3)
    (im : BitVec 8) (fl : BitVec 3) :
    exec (.loopc po o top im fl) s = .next (s.trapped f 59 { code := 0x04, tval := 0xFFFFFFFE }) := by
  refine (exec_loopc ..).trans (State.runView_trap hr ?_)
  simp only [View.loopCarry, seen_f, hl, if_true]
  rfl

/-! ## What the payload and the tags are -/

/-- A source that is a scalar gives its word in lane 0 of the port's staging payload. -/
theorem View.payload_scalar {v : View} {po : BitVec 2} {o : Opnd} {x : W32} (hv : ∀ k, o ≠ .v k) (hi : ∀ k, o ≠ .i k) (hz : o ≠ .z)
    (hx : v.src o = .ok x) :
    v.payload po o = .ok { bits := mergeLanes 1 (v.f.o.get {} po.toNat).bits (splat x), tag := 0 } := by
  cases o with
  | v k => exact absurd rfl (hv k)
  | i k => exact absurd rfl (hi k)
  | z => exact absurd rfl hz
  | _ => simp only [View.payload, hx]; rfl

theorem View.tags_reg (v : View) (m : BitVec 5) :
    v.tags 2 (m.setWidth 8) = .ok ((v.f.w.get 0 m.toNat).setWidth 12, v.f.stag) := by
  change Except.ok ((v.f.w.get 0 (m.setWidth 8).toNat).setWidth 12, v.f.stag) = _
  rw [BitVec.toNat_setWidth, Nat.mod_eq_of_lt (by omega)]

theorem View.tags_tagn {v : View} {im : BitVec 8} {t : BitVec 12} (h : v.f.tagn = some t) : v.tags 4 im = .ok (t, v.f.stag) := by
  change (match v.f.tagn with
    | some g => Except.ok (g, v.f.stag)
    | none => .error (trapBounds 0xFFFFFFFF)) = _
  rw [h]

theorem View.tags_no_tagn {v : View} {im : BitVec 8} (h : v.f.tagn = none) :
    v.tags 4 im = .error { code := 0x04, tval := 0xFFFFFFFF } := by
  change (match v.f.tagn with
    | some g => Except.ok (g, v.f.stag)
    | none => .error (trapBounds 0xFFFFFFFF)) = _
  rw [h]
  rfl

/-- Settles O32: every send comes down to `View.send`, which counts the token and stages it. -/
theorem sendsAndTags : Obligations.SendsAndTags := by
  refine ⟨fun s f o x top im g fl l po n hr => ?_, fun v im po i n m => ?_⟩
  · intro v room chans token sends data choice fwd ht
    refine ⟨fun hp => ⟨?_, ?_, ?_, ?_, ?_, ?_⟩, fun hp => ?_, ?_, ?_⟩
    · exact State.sends_of_sendData hr ht hp (exec_send ..) rfl
    · exact State.sends_of_sendData hr ht hp (exec_sendm ..) rfl
    · exact State.sends_of_sendData hr ht hp (exec_steer ..) rfl
    · exact State.sends_loopc hr ht fl hp
    · exact fun hl => State.loopc_again hr hl po o top im fl
    · exact State.loopc_live hr ht fl hp
    · exact State.sends_sende hr ht hp
    · exact State.sends_merge hr ht n fl rfl rfl
    · rintro y rfl rfl hp rfl
      exact State.sends_of_sendData hr ht hp (exec_cSend ..) rfl
  · refine ⟨rfl, rfl, v.tags_reg m, rfl, rfl, fun t => View.tags_tagn, View.tags_no_tagn, rfl, rfl, rfl, ?_⟩
    intro o x hv hi hz hx
    refine ⟨_, View.payload_scalar hv hi hz hx, ?_, fun k h0 hk => ?_⟩
    · simp [lane_mergeLanes, lane_splat]
    · rw [lane_mergeLanes_one _ _ h0 hk]

end Sys2Proof.Machine
end

section
/-! PROOF. What the operations of firings, records and tasks leave as it is: the configuration, the clock, the steps that are due,
the tables and loads of the harbour, and, where they say so, the operands and frames of the tiles and the queues between them. -/

namespace Sys2Proof.Machine

/-! ## Sending a token (R263) -/

/-- The flight of a token that tile `t` sends on a channel for a consumer replica: its header takes its destination. -/
def State.flightOf (s : State) (t chan crep : Nat) (k : Token) (c : ChanCfg) : Flight :=
  { chan := chan, crep := crep
    tok := { k with
      dest := (s.dstTiles c).getD crep 0
      dport := match c.dst with
        | .berth _ _ p => BitVec.ofNat 3 p
        | _ => 0 }
    header := s.behind chan crep (Nat.max s.now (s.tileAt t).inject + 1 + travel c t ((s.dstTiles c).getD crep 0))
    legs := (c.route.map fun l => l.lane).drop 1 }

/-- The state in which a token has entered the injection port of its tile. -/
def State.launch (s : State) (t chan crep : Nat) (k : Token) (c : ChanCfg) : State :=
  ((s.modTile t fun x => { x with inject := Nat.max s.now (s.tileAt t).inject + 1 + k.nflit.toNat }).fresh.2.modNet fun w =>
    { w with flights := w.flights.put s.next (s.flightOf t chan crep k c) }).charge t
      (if c.part = agentPart then 128 else k.ctx.toNat) 60
      ((1 + k.nflit.toNat) * (c.hopsOf t ((s.dstTiles c).getD crep 0) + (c.route.map fun l => l.lane).length))

theorem State.sendToken_none {s : State} {t chan crep : Nat} {k : Token} (h : s.chan chan = none) :
    s.sendToken t chan crep k = s := by
  simp only [State.sendToken, h]

/-- A token that is sent joins its first lane, or arrives on the mesh. -/
theorem State.sendToken_some {s : State} {t chan crep : Nat} {k : Token} {c : ChanCfg} (h : s.chan chan = some c) :
    s.sendToken t chan crep k = match c.route.map fun l => l.lane with
      | l :: _ => (s.launch t chan crep k c).laneJoin l c.vc s.next
      | [] => (s.launch t chan crep k c).atFc (s.flightOf t chan crep k c).header .tokenArrival { a := s.next } := by
  simp only [State.sendToken, h]
  rfl

/-! ## Effects -/

/-- The harbour without its meters, link marks, unit queues, fault units and accounts, which a firing may touch. -/
def Harbour.core (h : Harbour) : Harbour :=
  { h with umeter := [], linkUsed := [], gov := [], unitq := [], faults := [], fintake := [], out := [], agentDown := false
           gated := [], accts := [] }

/-- What an operation of a firing leaves as it is: with `ops` the operands and frames of every tile too, and with `mesh` the queues
between the tiles. -/
structure Effect (ops mesh : Bool) (s u : State) : Prop where
  cfg : u.cfg = s.cfg
  now : u.now = s.now
  agenda : ∀ e ∈ s.agenda, e ∈ u.agenda
  hd : u.hd.core = s.hd.core
  wait : ops = true → ∀ t, (u.tileAt t).wait = (s.tileAt t).wait
  frames : ops = true → ∀ t, (u.tileAt t).frames = (s.tileAt t).frames
  net : mesh = true → u.net = s.net

section
variable {a b : Bool} {s u v : State}

theorem Effect.refl (s : State) : Effect a b s s := ⟨rfl, rfl, fun _ h => h, rfl, fun _ _ => rfl, fun _ _ => rfl, fun _ => rfl⟩

theorem Effect.trans (h : Effect a b s u) (k : Effect a b u v) : Effect a b s v :=
  ⟨k.cfg.trans h.cfg, k.now.trans h.now, fun e he => k.agenda e (h.agenda e he), k.hd.trans h.hd,
    fun ha t => (k.wait ha t).trans (h.wait ha t), fun ha t => (k.frames ha t).trans (h.frames ha t),
    fun hb => (k.net hb).trans (h.net hb)⟩

theorem Effect.foldl {β : Type} {g : State → β → State} (h : ∀ s e, Effect a b s (g s e)) (l : List β) (s : State) :
    Effect a b s (l.foldl g s) := by
  induction l generalizing s with
  | nil => exact Effect.refl s
  | cons e r ih => exact (h s e).trans (ih _)

/-- Either branch of a choice has the effect. -/
theorem Effect.ite {p : Prop} [Decidable p] (h : Effect a b s u) (k : Effect a b s v) : Effect a b s (if p then u else v) := by
  split
  · exact h
  · exact k

theorem Effect.ofMem (h : MemStep s u) : Effect a b s u :=
  ⟨h.cfg, h.now, fun e he => h.agenda ▸ he, (congrArg Harbour.core h.hd :), fun _ t => by rw [State.tileAt, h.tiles]; rfl,
    fun _ t => by rw [State.tileAt, h.tiles]; rfl, fun _ => h.net⟩

theorem Effect.ofCharge {t : Nat} (h : ChargeStep s u t) : Effect a b s u := by
  obtain ⟨m, hm⟩ := h.own
  have ht (k : Nat) : (u.tileAt k).wait = (s.tileAt k).wait ∧ (u.tileAt k).frames = (s.tileAt k).frames := by
    by_cases hk : k = t
    · subst hk
      rw [hm]
      exact ⟨rfl, rfl⟩
    · rw [h.tiles k hk]
      exact ⟨rfl, rfl⟩
  exact ⟨h.cfg, h.now, fun e he => h.agenda ▸ he, (congrArg Harbour.core h.hd :), fun _ t => (ht t).1, fun _ t => (ht t).2, fun _ => h.net⟩

end

section
variable {a b : Bool} (s : State)

theorem Effect.setCove (c : Nat) (x : Cove) : Effect a b s (s.setCove c x) :=
  ⟨rfl, rfl, fun _ h => h, rfl, fun _ _ => rfl, fun _ _ => rfl, fun _ => rfl⟩

theorem Effect.modCove (c : Nat) (g : Cove → Cove) : Effect a b s (s.modCove c g) := Effect.setCove s c _

theorem Effect.modHd {g : Harbour → Harbour} (h : (g s.hd).core = s.hd.core) : Effect a b s (s.modHd g) :=
  ⟨rfl, rfl, fun _ h => h, h, fun _ _ => rfl, fun _ _ => rfl, fun _ => rfl⟩

theorem Effect.modNet (g : Net → Net) : Effect a false s (s.modNet g) :=
  ⟨rfl, rfl, fun _ h => h, rfl, fun _ _ => rfl, fun _ _ => rfl, nofun⟩

theorem Effect.fresh : Effect a b s s.fresh.2 := ⟨rfl, rfl, fun _ h => h, rfl, fun _ _ => rfl, fun _ _ => rfl, fun _ => rfl⟩

theorem Effect.atFc (n : Nat) (i : Instr) (e : EvArg) : Effect a b s (s.atFc n i e) :=
  ⟨rfl, rfl, fun _ h => (mem_insertDue ..).mpr (Or.inr h), rfl, fun _ _ => rfl, fun _ _ => rfl, fun _ => rfl⟩

theorem Effect.after (n : Nat) (i : Instr) (e : EvArg) : Effect a b s (s.after n i e) := Effect.atFc s _ i e

/-- A change of a tile that keeps its operands and its frames. -/
theorem Effect.modTile (t : Nat) {g : Tile → Tile} (hw : ∀ x, (g x).wait = x.wait) (hf : ∀ x, (g x).frames = x.frames) :
    Effect a b s (s.modTile t g) := by
  refine ⟨rfl, rfl, fun _ h => h, rfl, fun _ k => ?_, fun _ k => ?_, fun _ => rfl⟩ <;>
    rw [State.tileAt_modTile] <;> split
  · next h => rw [h, hw]
  · rfl
  · next h => rw [h, hf]
  · rfl

/-- Any change of a tile. -/
theorem Effect.anyTile (t : Nat) (g : Tile → Tile) : Effect false b s (s.modTile t g) :=
  ⟨rfl, rfl, fun _ h => h, rfl, nofun, nofun, fun _ => rfl⟩

theorem Effect.setTile (t : Nat) (x : Tile) : Effect false b s (s.setTile t x) :=
  ⟨rfl, rfl, fun _ h => h, rfl, nofun, nofun, fun _ => rfl⟩

theorem Effect.modMu (t : Nat) (g : MUnit → MUnit) : Effect a b s (s.modMu t g) := Effect.modTile s t (fun _ => rfl) fun _ => rfl

theorem Effect.modRun (t n : Nat) (g : BerthRun → BerthRun) : Effect a b s (s.modRun t n g) :=
  Effect.modTile s t (fun _ => rfl) fun _ => rfl

theorem Effect.setFiring (t k : Nat) (f : Firing) : Effect a b s (s.setFiring t k f) :=
  Effect.modTile s t (fun _ => rfl) fun _ => rfl

theorem Effect.modFiring (t k : Nat) (g : Firing → Firing) : Effect a b s (s.modFiring t k g) := by
  unfold State.modFiring
  split
  · exact Effect.setFiring s t k _
  · exact Effect.refl s

theorem Effect.charge (t cx c n : Nat) : Effect a b s (s.charge t cx c n) := Effect.ofCharge (s.charge_step t cx c n)

theorem Effect.modFault (p : Nat) (g : FaultUnit → FaultUnit) : Effect a b s (s.modFault p g) := Effect.modHd s rfl

theorem Effect.modAcct (v : Nat) (g : Acct → Acct) : Effect a b s (s.modAcct v g) := Effect.modHd s rfl

theorem Effect.countDrop (v n : Nat) : Effect a b s (s.countDrop v n) := Effect.modAcct s v _

/-! ## Steps that wake others -/

/-- A step that is due comes after those that were. -/
theorem Effect.wakeWaiters : Effect a b s s.wakeWaiters := by
  unfold State.wakeWaiters
  refine Effect.foldl (fun u x => ?_) _ s
  split
  · split
    · exact Effect.after u _ _ _
    · exact Effect.after u _ _ _
    · exact Effect.after u _ _ _
    · exact Effect.refl u
  · exact Effect.refl u

theorem Effect.wakeFrames (t : Nat) : Effect a b s (s.wakeFrames t) := by
  unfold State.wakeFrames
  refine Effect.foldl (fun u x => ?_) _ s
  split
  · exact Effect.ite (Effect.after u _ _ _) (Effect.refl u)
  · exact Effect.refl u

theorem Effect.wakeApertures : Effect a b s s.wakeApertures :=
  Effect.foldl (fun u _ => Effect.modFiring u _ _ _) _ s

theorem Effect.lookTasks (c : Nat) : Effect a b s (s.lookTasks c) := by
  unfold State.lookTasks
  refine Effect.foldl (fun u x => ?_) _ s
  refine Effect.ite (Effect.refl u) ⟨rfl, rfl, fun e he => ?_, rfl, fun _ _ => rfl, fun _ _ => rfl, fun _ => rfl⟩
  have := List.takeWhile_append_dropWhile (p := fun y : Nat × Instr × EvArg => !(decide (u.now + 1 < y.1)
    || (decide (y.1 = u.now + 1) && decide (y.2.1 = .taskReady) && decide (y.2.2.a = c) && decide (x < y.2.2.b)))) (l := u.agenda)
  rw [← this] at he
  simp only [insertTask, List.mem_append, List.mem_cons] at he ⊢
  tauto

/-! ## Rings and records (R270, R271, R325, R327) -/

theorem Effect.pinWrite (n c cts pa : Nat) (bs : List Byte) : Effect a b s (State.pinWrite n s c cts pa bs).1 :=
  Effect.ofMem (State.pinWrite_step n s c cts pa bs)

theorem Effect.ringHead (c base n : Nat) : Effect a b s (s.ringHead c base n).2.2.2 := Effect.ofMem (State.pinRead_step 4 s c 0 base 12)

theorem Effect.ringPut (c base n e prod cts : Nat) (bs : List Byte) : Effect a b s (s.ringPut c base n e prod cts bs).1 :=
  (Effect.pinWrite s 8 c cts _ bs).trans (Effect.pinWrite _ _ _ _ _ _)

theorem Effect.ringLost (c base lost : Nat) : Effect a b s (s.ringLost c base lost) := Effect.pinWrite s 4 c 0 _ _

theorem Effect.routeRecord (p : Nat) (r : FaultRec) : Effect a b s (s.routeRecord p r) := by
  unfold State.routeRecord
  dsimp only
  split
  · exact (Effect.modFault s p _).trans (Effect.after _ _ _ _)
  · exact (Effect.modHd s rfl).trans (Effect.after _ _ _ _)

theorem Effect.stopBerth (stop : Option (Nat × Nat)) : Effect a b s (s.stopBerth stop) := by
  unfold State.stopBerth
  split
  · exact Effect.modRun s _ _ _
  · exact Effect.refl s

theorem Effect.agentRecord (r : FaultRec) (stop : Option (Nat × Nat)) : Effect a b s (s.agentRecord r stop) :=
  (Effect.stopBerth s stop).trans (Effect.ite (Effect.modHd _ rfl) (Effect.routeRecord _ _ _))

theorem Effect.postNow (p : Nat) (r : FaultRec) (stop : Option (Nat × Nat)) : Effect a b s (s.postNow p r stop) := by
  unfold State.postNow
  dsimp only
  split
  · exact (Effect.ringHead s _ _ 64).trans (Effect.ringLost _ _ _ _)
  · exact (Effect.ringHead s _ _ 64).trans ((((Effect.ringPut _ _ _ _ _ _ _ _).trans (Effect.modFault _ _ _)).trans
      (Effect.stopBerth _ _)).trans (Effect.routeRecord _ _ _))

theorem Effect.postWaits (p : Nat) (l : List FaultRec) : Effect a b s (s.postWaits p l) := by
  induction l generalizing s with
  | nil => exact Effect.refl s
  | cons r rest ih =>
    exact Effect.ite (Effect.refl s) (((Effect.modFault s p _).trans (Effect.postNow _ p r none)).trans (ih _))

theorem Effect.waitRing (p : Nat) (r : FaultRec) (stop : Option (Nat × Nat)) : Effect a b s (s.waitRing p r stop) :=
  (Effect.modFault s p _).trans (Effect.ite (Effect.after _ _ _ _) (Effect.refl _))

theorem Effect.postRecord (p : Nat) (r : FaultRec) (stop : Option (Nat × Nat)) : Effect a b s (s.postRecord p r stop) :=
  Effect.ite (Effect.agentRecord s r stop)
    ((Effect.postWaits s p _).trans (Effect.ite (Effect.waitRing _ p r stop) (Effect.postNow _ p r stop)))

/-! ## Tasks (R50, R352 to R355) -/

theorem Effect.engineDecrement (c x ts : Nat) (r : FaultRec) : Effect a b s (s.engineDecrement c x ts r) := by
  unfold State.engineDecrement
  dsimp only
  split
  · exact Effect.setCove s _ _
  · exact Effect.postRecord s _ _ _

theorem Effect.finishTask (c x ts lts : Nat) : Effect a b s (s.finishTask c x ts lts) := by
  unfold State.finishTask
  exact ((Effect.modCove s c _).trans (Effect.foldl (fun u _ => Effect.engineDecrement u _ _ _ _) _ _)).trans (Effect.modCove _ _ _)

theorem Effect.applyChange (c : Nat) (x : TaskChange) : Effect a b s (s.applyChange c x) := by
  unfold State.applyChange
  cases x with
  | finish x ts lts => exact Effect.finishTask s c x ts lts
  | event k n ts => exact Effect.modCove s c _
  | dec k x ts r => exact Effect.engineDecrement s c x ts r

theorem Effect.applyDue (c : Nat) : Effect a b s (s.applyDue c) := by
  unfold State.applyDue
  exact ((Effect.modCove s c _).trans (Effect.foldl (fun u _ => Effect.applyChange u _ _) _ _)).trans (Effect.lookTasks _ _)

theorem Effect.dueChange (c : Nat) (x : TaskChange) : Effect a b s (s.dueChange c x) := Effect.modCove s c _

theorem Effect.taskFinish (c x ts lts : Nat) : Effect a b s (s.taskFinish c x ts lts) := Effect.dueChange s c _

theorem Effect.taskFail (c x : Nat) : Effect a b s (s.taskFail c x) := Effect.modCove s c _

/-! ## Held stores and queues -/

theorem Effect.purge (t k : Nat) : Effect a b s (s.purge t k) := by
  unfold State.purge
  dsimp only
  split
  · split
    · exact (Effect.modHd s rfl).trans (Effect.modMu _ _ _)
    · exact ((Effect.modHd s rfl).trans (Effect.modMu _ _ _)).trans (Effect.after _ _ _ _)
  · exact Effect.modHd s rfl

theorem Effect.orderHeld11 (l : List (Nat × BermEnt)) (pts : Nat) : Effect a b s (s.orderHeld11 l pts).1 := by
  unfold State.orderHeld11
  induction l generalizing s pts with
  | nil => exact Effect.refl s
  | cons e r ih =>
    rw [List.foldl_cons]
    split
    · exact (Effect.ofMem (State.setCwts_step s _ _)).trans (ih _ _)
    · exact ih _ _

theorem Effect.dropHeld (t k : Nat) : Effect a b s (s.dropHeld t k) :=
  Effect.foldl (fun u _ => Effect.ite (Effect.modMu u _ _) (Effect.refl u)) _ s

theorem Effect.releaseLines (t k c : Nat) (bins : List (Nat × Nat × Nat)) (commit : Bool) :
    Effect a b s (s.releaseLines t k c bins commit) :=
  Effect.ite (Effect.refl s) (((Effect.foldl (fun u _ => Effect.ofMem (State.homeRelease_step u _ _ _)) _ s).trans
    (Effect.dropHeld _ _ _)).trans (Effect.wakeWaiters _))

theorem Effect.dropHolds (t k : Nat) : Effect a b s (s.dropHolds t k) :=
  Effect.foldl (fun u _ => Effect.ite (Effect.modMu u _ _) (Effect.refl u)) _ s

theorem Effect.injectRay (c n : Nat) (r : Ray) : Effect a b s (s.injectRay c n r) :=
  ((Effect.modCove s c _).trans (Effect.ite (Effect.refl _) (Effect.pinWrite _ _ _ _ _ _))).trans (Effect.after _ _ _ _)

theorem Effect.injectHeld (c scene : Nat) : Effect a b s (s.injectHeld c scene) :=
  Effect.ite (Effect.foldl (fun u _ => Effect.injectRay u _ _ _) _ s) (Effect.refl s)

theorem Effect.dropPend (t k : Nat) : Effect a b s (s.dropPend t k) := by
  unfold State.dropPend
  dsimp only
  split
  · exact Effect.refl s
  · exact (Effect.modCove s _ _).trans (Effect.injectHeld _ _ _)

/-! ## Tokens that are sent, and effects that are committed (R28, R29) -/

theorem Effect.laneJoin (l vc id : Nat) : Effect a false s (s.laneJoin l vc id) :=
  Effect.ite (Effect.modNet s _) ((Effect.modNet s _).trans (Effect.after _ _ _ _))

theorem Effect.launch (t chan crep : Nat) (k : Token) (c : ChanCfg) : Effect a false s (s.launch t chan crep k c) := by
  refine Effect.trans ?_ (Effect.charge _ _ _ _ _)
  refine Effect.trans ?_ (Effect.modNet _ _)
  refine Effect.trans ?_ (Effect.fresh _)
  exact Effect.modTile s t (fun _ => rfl) fun _ => rfl

theorem Effect.sendToken (t chan crep : Nat) (k : Token) : Effect a false s (s.sendToken t chan crep k) := by
  cases h : s.chan chan with
  | none => rw [State.sendToken_none h]; exact Effect.refl s
  | some c =>
    rw [State.sendToken_some h]
    split
    · exact (Effect.launch s t chan crep k c).trans (Effect.laneJoin _ _ _ _)
    · exact (Effect.launch s t chan crep k c).trans (Effect.atFc _ _ _ _)

theorem Effect.keepHold (m t k : Nat) (h : Hold) : Effect a b s (s.keepHold m t k h) := Effect.modMu s m _

theorem Effect.commitOne (t : Nat) (f : Firing) (rs : List Resv) (e : Staged) : Effect a false s (s.commitOne t f rs e).1 := by
  cases e with
  | token chan tok =>
    simp only [State.commitOne]
    split
    · exact Effect.refl s
    · exact Effect.sendToken s _ _ _ _
  | permit cove chan n =>
    exact ((Effect.modMu s _ _).trans (Effect.ite (Effect.countDrop _ _ _) (Effect.refl _))).trans (Effect.after _ _ _ _)
  | task cove idx record => exact (Effect.modCove s _ _).trans (Effect.lookTasks _ _)
  | ray chan scene pay itag stag =>
    simp only [State.commitOne]
    split
    · exact Effect.refl s
    · split
      · exact (Effect.charge s _ _ _ _).trans (Effect.injectRay _ _ _ _)
      · dsimp only
        exact (Effect.charge s _ _ _ _).trans (Effect.modCove _ _ _)
  | batch m held q =>
    exact (((Effect.ite (Effect.keepHold s _ _ _ _) (Effect.refl s)).trans (Effect.fresh _)).trans (Effect.modNet _ _)).trans
      (Effect.after _ _ _ _)
  | occq m held o =>
    exact (((Effect.ite (Effect.keepHold s _ _ _ _) (Effect.refl s)).trans (Effect.fresh _)).trans (Effect.modNet _ _)).trans
      (Effect.after _ _ _ _)

theorem Effect.commitAll (t : Nat) (f : Firing) (rs : List Resv) (l : List Staged) : Effect a false s (s.commitAll t f rs l).1 := by
  induction l generalizing s rs with
  | nil => exact Effect.refl s
  | cons e r ih => exact (Effect.commitOne s t f rs e).trans (ih _ _)

/-! ## Ends of a firing -/

theorem Effect.giveBack (rs : List Resv) : Effect a b s (s.giveBack rs) :=
  Effect.foldl (fun u _ => Effect.ite (Effect.refl u) (Effect.after u _ _ _)) rs s

theorem Effect.dropSpawns (l : List Staged) : Effect a b s (s.dropSpawns l) := by
  refine Effect.foldl (fun u e => ?_) l s
  split
  · exact Effect.modCove u _ _
  · exact Effect.refl u

theorem Effect.dropSpawn (t : Nat) (f : Firing) : Effect a b s (s.dropSpawn t f) := by
  unfold State.dropSpawn
  split
  · exact Effect.refl s
  · split
    · exact Effect.ite (Effect.refl s) (Effect.modCove s _ _)
    · exact Effect.refl s

theorem Effect.leave (t k : Nat) (f : Firing) : Effect a b s (s.leave t k f) := by
  unfold State.leave
  refine Effect.trans ?_ (Effect.modRun _ _ _ _)
  exact Effect.modTile s t (fun _ => rfl) fun _ => rfl

end

end Sys2Proof.Machine
end

section
/-! PROOF. What translation and the ends of a firing leave as it is. -/

namespace Sys2Proof.Machine

/-! ## Walks -/

/-- The state that a walk goes on in, or faults in, has `P`. -/
def WalkRes.Leads {α : Type} (r : WalkRes α) (P : State → Prop) : Prop :=
  match r with
  | .ok t _ => P t
  | .bad t _ _ _ => P t
  | .wait _ _ => True
  | .full => True

/-- What leads to steps of the memories has an effect of none of the rest. -/
theorem WalkRes.Leads.mono {α : Type} {r : WalkRes α} {P Q : State → Prop} (h : r.Leads P) (hPQ : ∀ t, P t → Q t) : r.Leads Q := by
  cases r with
  | ok t _ => exact hPQ t h
  | bad t _ _ _ => exact hPQ t h
  | wait _ _ => trivial
  | full => trivial

theorem WalkRes.Leads.ite {α : Type} {P : State → Prop} {c : Prop} [Decidable c] {r q : WalkRes α} (h : r.Leads P) (k : q.Leads P) :
    (if c then r else q).Leads P := by
  split
  · exact h
  · exact k

theorem State.pteRead_step (s : State) (m : Nat) (x : Xl) (c pts : Nat) : (s.pteRead m x c pts).Leads (MemStep s) := by
  unfold State.pteRead
  split
  · next s1 d ts w r hl =>
    have h1 := (State.markRoute_step s _ _ c).trans (State.homeLoad_step hl)
    dsimp only [WalkRes.Leads]
    split
    · exact h1.trans (State.chargeUnit_step _ _ _ _ _ _)
    · split
      · exact h1.trans (State.chargeUnit_step _ _ _ _ _ _)
      · exact h1
  · trivial
  · trivial

theorem State.pteOr_step (s : State) (m : Nat) (x : Xl) (c pts v : Nat) : (s.pteOr m x c pts v).Leads (MemStep s) := by
  unfold State.pteOr
  split
  · next s1 d ts w r hl => exact (State.markRoute_step s _ _ c).trans (State.homeUpdate_step hl)
  · trivial
  · trivial

theorem State.markLeaf_step (s : State) (m : Nat) (l : Leaf) (c pts : Nat) (w : Bool) :
    (s.markLeaf m l c pts w).Leads (MemStep s) := by
  unfold State.markLeaf
  split
  · exact MemStep.refl s
  · exact State.pteOr_step s _ _ _ _ _

theorem State.walk2From_step (m c pts ipa : Nat) (ls : List (Nat × Nat)) (s : State) (lvl base : Nat) :
    (s.walk2From m c pts ipa ls lvl base).Leads (MemStep s) := by
  induction ls generalizing s lvl base with
  | nil => exact MemStep.refl s
  | cons e rest ih =>
    obtain ⟨lo, n⟩ := e
    have hread := State.pteRead_step s m (pinnedXl (base + 8 * (ipa / 2 ^ lo % 2 ^ n))) c pts
    unfold State.walk2From
    dsimp only
    generalize s.pteRead m (pinnedXl (base + 8 * (ipa / 2 ^ lo % 2 ^ n))) c pts = r at hread ⊢
    cases r with
    | wait _ _ => trivial
    | full => trivial
    | bad s1 _ _ _ => exact hread
    | ok s1 e =>
      refine .ite hread (.ite (.ite hread (.ite hread ?_)) (.ite hread (.ite hread ((ih s1 _ _).mono fun t ht => MemStep.trans hread ht))))
      exact .ite hread hread

theorem State.walk2_step (s : State) (m vf c pts ipa : Nat) : (s.walk2 m vf c pts ipa).Leads (MemStep s) :=
  State.walk2From_step m c pts ipa walkLevels s 0 _

/-- A walk whose first part leads to steps of the memories, and whose rest does. -/
theorem WalkRes.Leads.trans {α : Type} {s s1 : State} {r : WalkRes α} (h : MemStep s s1) (k : r.Leads (MemStep s1)) :
    r.Leads (MemStep s) := k.mono fun _ ht => h.trans ht

theorem State.walk1From_step (m vf c pts va : Nat) (ls : List (Nat × Nat)) (s : State) (lvl base : Nat) :
    (s.walk1From m vf c pts va ls lvl base).Leads (MemStep s) := by
  induction ls generalizing s lvl base with
  | nil => exact MemStep.refl s
  | cons e rest ih =>
    obtain ⟨lo, n⟩ := e
    have h1 := State.walk2_step s m vf c pts (base + 8 * (va / 2 ^ lo % 2 ^ n))
    unfold State.walk1From
    generalize s.walk2 m vf c pts (base + 8 * (va / 2 ^ lo % 2 ^ n)) = r at h1 ⊢
    cases r with
    | wait _ _ => trivial
    | full => trivial
    | bad s1 _ _ _ => exact h1
    | ok s1 l2 =>
      dsimp only
      split
      · exact h1
      · refine WalkRes.Leads.trans h1 ?_
        have h2 := State.markLeaf_step s1 m l2 c pts false
        generalize s1.markLeaf m l2 c pts false = r at h2 ⊢
        cases r with
        | wait _ _ => trivial
        | full => trivial
        | bad s2 _ _ _ => exact h2
        | ok s2 _ =>
          refine WalkRes.Leads.trans h2 ?_
          have h3 := State.pteRead_step s2 m l2.xl c pts
          dsimp only
          generalize s2.pteRead m l2.xl c pts = r at h3 ⊢
          cases r with
          | wait _ _ => trivial
          | full => trivial
          | bad s3 _ _ _ => exact h3
          | ok s3 e =>
            refine WalkRes.Leads.trans h3 ?_
            have here := MemStep.refl s3
            exact .ite here (.ite (.ite here (.ite here here)) (.ite here (.ite here (ih s3 _ _))))

theorem State.walk_step (s : State) (m vf c pts va : Nat) (need : Need) : (s.walk m vf c pts va need).Leads (MemStep s) := by
  have h1 := State.walk1From_step m vf c pts va walkLevels s 0 ((s.vf vf).s1root * 2 ^ 13)
  unfold State.walk
  generalize s.walk1From m vf c pts va walkLevels 0 ((s.vf vf).s1root * 2 ^ 13) = r at h1 ⊢
  cases r with
  | wait _ _ => trivial
  | full => trivial
  | bad s1 _ _ _ => exact h1
  | ok s1 l =>
    obtain ⟨l1, up⟩ := l
    refine WalkRes.Leads.trans h1 ?_
    have h2 := State.walk2_step s1 m vf c pts l1.out
    dsimp only
    generalize s1.walk2 m vf c pts l1.out = r at h2 ⊢
    cases r with
    | wait _ _ => trivial
    | full => trivial
    | bad s2 _ _ _ => exact h2
    | ok s2 l2 =>
      refine WalkRes.Leads.trans h2 ?_
      have here := MemStep.refl s2
      refine .ite here (.ite here (.ite here (.ite here ?_)))
      have h3 := State.markLeaf_step s2 m l1 c pts need.writes
      generalize s2.markLeaf m l1 c pts need.writes = r at h3 ⊢
      cases r with
      | wait _ _ => trivial
      | full => trivial
      | bad s3 _ _ _ => exact h3
      | ok s3 _ =>
        refine WalkRes.Leads.trans h3 ?_
        have h4 := State.markLeaf_step s3 m l2 c pts need.writes
        dsimp only
        generalize s3.markLeaf m l2 c pts need.writes = r at h4 ⊢
        cases r with
        | wait _ _ => trivial
        | full => trivial
        | bad s4 _ _ _ => exact h4
        | ok s4 _ => exact h4

/-- A translation for an engine changes the memories, and the TLB of its M-tile. -/
theorem State.xlate_leads (s : State) (m vf c pts va : Nat) (need : Need) :
    (s.xlate m vf c pts va need).Leads fun u => ∃ (v : State) (g : List TlbEnt → List TlbEnt), MemStep s v ∧ (u = v ∨ u = v.modMu m fun x => { x with tlb := g x.tlb }) := by
  unfold State.xlate
  split
  · next e _ => exact ⟨s, fun l => tlbTouch l e, MemStep.refl s, Or.inr rfl⟩
  · exact ⟨s, id, MemStep.refl s, Or.inl rfl⟩
  · have h := State.walk_step s m vf c pts va need
    generalize s.walk m vf c pts va need = r at h ⊢
    cases r with
    | wait _ _ => trivial
    | full => trivial
    | bad s1 _ _ _ => exact ⟨s1, id, h, Or.inl rfl⟩
    | ok s1 e => exact ⟨s1, fun l => tlbInstall l e, h, Or.inr rfl⟩

section
variable {a b : Bool} (s : State)

theorem Effect.xlate (m vf c pts va : Nat) (need : Need) : (s.xlate m vf c pts va need).Leads (Effect a b s) :=
  (s.xlate_leads m vf c pts va need).mono fun u ⟨v, g, hv, hu⟩ => by
    rcases hu with rfl | rfl
    · exact Effect.ofMem hv
    · exact (Effect.ofMem hv).trans (Effect.modMu _ _ _)

/-! ## What a firing that ends leaves behind -/

theorem Effect.gapWrite (t : Nat) (f : Firing) (va n : Nat) : Effect a b s (s.gapWrite t f va n) := by
  unfold State.gapWrite
  split
  · exact Effect.refl s
  · have h := Effect.xlate (a := a) (b := b) s (xlatTile t) (s.xlVf t f.cx.toNat) (s.account t f.cx.toNat) f.pts va .write
    dsimp only
    generalize s.xlate (xlatTile t) (s.xlVf t f.cx.toNat) (s.account t f.cx.toNat) f.pts va .write = r at h ⊢
    cases r with
    | wait _ _ => exact Effect.refl s
    | full => exact Effect.refl s
    | bad _ _ _ _ => exact Effect.refl s
    | ok s1 x =>
      dsimp only
      split
      · next s2 _ _ _ _ hu => exact Effect.trans h (Effect.ofMem (State.homeUpdate_step hu))
      · exact Effect.trans h (Effect.ofMem ((State.homeData_step s1 x _).trans (State.homeWrite_step _ _ _ _)))

theorem Effect.fillGap (t : Nat) (f : Firing) : Effect a b s (s.fillGap t f) := by
  unfold State.fillGap
  split
  · exact Effect.refl s
  · exact (Effect.gapWrite s _ _ _ _).trans (Effect.gapWrite _ _ _ _ _)

theorem Effect.discard (t k : Nat) (f : Firing) : Effect a b s (s.discard t k f) := by
  have h : Effect a b s (((((((s.dropSpawns f.staged).dropSpawn t f).dropHolds t k).dropPend t k).fillGap t f).releaseLines t k f.cx.toNat
      f.bins false).giveBack f.resv) :=
    (((((Effect.dropSpawns s _).trans (Effect.dropSpawn _ _ _)).trans (Effect.dropHolds _ _ _)).trans (Effect.dropPend _ _ _)).trans
      (Effect.fillGap _ _ _)).trans ((Effect.releaseLines _ _ _ _ _ _).trans (Effect.giveBack _ _))
  unfold State.discard
  split
  · exact ((h.trans (Effect.purge _ _ _)).trans (Effect.wakeApertures _)).trans (Effect.after _ _ _ _)
  · exact h.trans (Effect.purge _ _ _)

theorem Effect.unbind (t n : Nat) : Effect false b s (s.unbind t n) := Effect.anyTile s _ _

theorem Effect.yieldFiring (t k : Nat) (f : Firing) : Effect false b s (s.yieldFiring t k f) := by
  unfold State.yieldFiring
  exact (((Effect.discard s t k f).trans (Effect.unbind _ _ _)).trans (Effect.leave _ _ _ _)).trans (Effect.modRun _ _ _ _)

theorem Effect.freeCredit (t chan crep : Nat) : Effect a false s (s.freeCredit t chan crep) := by
  unfold State.freeCredit
  split
  · exact Effect.refl s
  · exact (Effect.modNet s _).trans (Effect.after _ _ _ _)

theorem Effect.consume (t : Nat) (w : Waiting) : Effect false false s (s.consume t w) := by
  unfold State.consume
  have h : Effect false false s (s.dropWaiting t w.id) := Effect.anyTile s t _
  dsimp only
  split
  · exact h.trans (Effect.freeCredit _ _ _ _)
  · exact h
  · exact h.trans (Effect.anyTile _ _ _)

theorem Effect.consumeBound (t n : Nat) (merge : Option (BitVec 2)) : Effect false false s (s.consumeBound t n merge) := by
  unfold State.consumeBound
  exact ((Effect.foldl (fun u _ => Effect.consume u _ _) _ s).trans (Effect.modRun _ _ _ _)).trans (Effect.unbind _ _ _)

theorem Effect.takeFault (t k : Nat) (f : Firing) (e : Trap) : Effect false false s (s.takeFault t k f e) := by
  unfold State.takeFault
  exact ((((Effect.consumeBound s _ _ _).trans (Effect.discard _ _ _ _)).trans (Effect.leave _ _ _ _)).trans
    (Effect.foldl (fun u _ => Effect.taskFail u _ _) _ _)).trans (Effect.postRecord _ _ _ _)

end

end Sys2Proof.Machine
end

section
/-! PROOF. The ends of a firing (R28, R36, R282, R283). -/

namespace Sys2Proof.Machine

/-! ## Operands that are consumed -/

/-- A frame of a tile without its presence bits. -/
def Tile.slotsOf (x : Tile) (k : Nat) : Option Frame := (x.frames.look k).map fun r => { r with pres := [] }

theorem Map.look_of_mem {α : Type} {m : Map α} {e : Nat × α} (h : e ∈ m) : ∃ r, m.look e.1 = some r := by
  induction m with
  | nil => cases h
  | cons x r ih =>
    simp only [Map.look]
    split
    · exact ⟨_, rfl⟩
    · next hne =>
      rcases List.mem_cons.mp h with rfl | hr
      · exact absurd rfl hne
      · exact ih hr

/-- A frame that a tile names by berth and tag stands in its table. -/
theorem Tile.look_of_frameOf {x : Tile} {n k : Nat} {g : BitVec 12} (h : x.frameOf n g = some k) :
    x.frames.look k = some (x.frames.get {} k) := by
  obtain ⟨e, he, rfl⟩ := Option.map_eq_some_iff.mp h
  have hm := List.mem_of_find?_eq_some he
  obtain ⟨r, hr⟩ := Map.look_of_mem hm
  rw [hr, Map.get_eq_look, hr, Option.getD_some]

/-- Clearing the presence bits of a spill area keeps the slots of every frame. -/
theorem Tile.slotsOf_unspill {x : Tile} {n k p : Nat} {g : BitVec 12} (h : x.frameOf n g = some k) (j : Nat) :
    ({ x with frames := x.frames.put k ((x.frames.get {} k).unspill p) } : Tile).slotsOf j = x.slotsOf j := by
  unfold Tile.slotsOf
  rw [Map.look_put]
  split
  · next hj => rw [hj, Tile.look_of_frameOf h, Option.map_some, Option.map_some, Frame.unspill]
  · rfl

theorem State.freeCredit_tileAt (s : State) (t chan crep k : Nat) : (s.freeCredit t chan crep).tileAt k = s.tileAt k := by
  unfold State.freeCredit
  split <;> rfl

/-- A token that is consumed no longer waits, and the frames keep their slots. -/
theorem State.consume_tileAt (s : State) (t : Nat) (w : Waiting) :
    ((s.consume t w).tileAt t).wait = ((s.tileAt t).wait.filter fun x => !decide (x.id = w.id))
      ∧ ∀ k, ((s.consume t w).tileAt t).slotsOf k = (s.tileAt t).slotsOf k := by
  have hd : (s.dropWaiting t w.id).tileAt t =
      { s.tileAt t with wait := (s.tileAt t).wait.filter fun x => !decide (x.id = w.id) } := State.tileAt_modTile_same s t _
  unfold State.consume
  dsimp only
  split
  · rw [State.freeCredit_tileAt, hd]
    exact ⟨rfl, fun _ => rfl⟩
  · rw [hd]
    exact ⟨rfl, fun _ => rfl⟩
  · rw [State.tileAt_modTile_same, hd]
    split
    · next k hk => exact ⟨rfl, fun j => Tile.slotsOf_unspill hk j⟩
    · exact ⟨rfl, fun _ => rfl⟩

theorem State.consumeAll_tileAt (t : Nat) (l : List Waiting) (s : State) :
    ((l.foldl (fun a w => a.consume t w) s).tileAt t).wait = ((s.tileAt t).wait.filter fun x => decide (∀ w ∈ l, x.id ≠ w.id))
      ∧ ∀ k, ((l.foldl (fun a w => a.consume t w) s).tileAt t).slotsOf k = (s.tileAt t).slotsOf k := by
  induction l generalizing s with
  | nil => simp
  | cons w r ih =>
    obtain ⟨hw, hf⟩ := s.consume_tileAt t w
    obtain ⟨hrw, hrf⟩ := ih (s.consume t w)
    refine ⟨?_, fun k => (hrf k).trans (hf k)⟩
    rw [List.foldl_cons, hrw, hw, List.filter_filter]
    congr 1
    funext x
    simp [Bool.and_comm]

/-- What waits on a tile once a firing of a berth has consumed its tokens: nothing of the berth is bound. -/
theorem State.consumeBound_tileAt (s : State) (t n : Nat) (merge : Option (BitVec 2)) :
    ((s.consumeBound t n merge).tileAt t).wait = ((s.tileAt t).wait.filter fun x => decide (∀ w ∈ s.consumedOf t n merge, x.id ≠ w.id)).map
        (fun w => if w.berth = n then { w with bound := false } else w)
      ∧ ∀ k, ((s.consumeBound t n merge).tileAt t).slotsOf k = (s.tileAt t).slotsOf k := by
  obtain ⟨hw, hf⟩ := State.consumeAll_tileAt t (s.consumedOf t n merge) s
  unfold State.consumeBound State.unbind State.modRun
  dsimp only
  rw [State.tileAt_modTile_same, State.tileAt_modTile_same]
  exact ⟨congrArg (List.map _) hw, hf⟩

/-! ## The end of a firing -/

theorem State.leave_firing (s : State) (t k : Nat) (f : Firing) : (s.leave t k f).firing t k = none := by
  unfold State.leave State.firing State.modRun
  dsimp only
  rw [State.tileAt_modTile_same, State.tileAt_modTile_same]
  exact (Map.look_drop _ _ _).trans (if_pos rfl)

theorem State.taskFinishes_tiles (c ts lts : Nat) (l : List Nat) (s : State) :
    (l.foldl (fun (a : State) x => a.taskFinish c x ts lts) s).tiles = s.tiles := by
  induction l generalizing s with
  | nil => rfl
  | cons x r ih => exact ih _

/-- The state in which the effects of a firing that ends have been committed and its reservations returned. -/
def State.committing (s : State) (t k : Nat) (f : Firing) : State :=
  let g := { f with pts := (s.orderHeld11 (s.heldLines t k) f.pts).2 }
  let s1 := (s.orderHeld11 (s.heldLines t k) f.pts).1.consumeBound t f.berth f.merge
  let s3 := (s1.modRun t f.berth fun r => { r with live := r.live ++ loopTags f.staged }).commitAll t g f.resv f.staged
  (s3.1.releaseLines t k f.cx.toNat f.bins true).giveBack s3.2

/-- A firing that ends commits, frees its frame where it must, and leaves its slot. -/
theorem State.endFiring_eq (s : State) (t k : Nat) (f : Firing) (endf : Bool) :
    let s5 := s.committing t k f
    let s6 := if (endf || f.freeAtEnd) && f.isTagged then (s5.modTile t fun x => x.dropFrame f.fp).wakeFrames t else s5
    ∃ (l : List Nat) (n : Nat), s.endFiring t k f endf =
      l.foldl (fun (a : State) x => a.taskFinish (coveOfTile t) x n n)
        ((s6.purge t k).leave t k { f with pts := (s.orderHeld11 (s.heldLines t k) f.pts).2 }) :=
  ⟨_, _, rfl⟩

theorem State.committing_tileAt (s : State) (t k : Nat) (f : Firing) :
    ((s.committing t k f).tileAt t).wait =
        ((s.tileAt t).wait.filter fun x => decide (∀ w ∈ s.consumedOf t f.berth f.merge, x.id ≠ w.id)).map
          (fun w => if w.berth = f.berth then { w with bound := false } else w)
      ∧ ∀ j, ((s.committing t k f).tileAt t).slotsOf j = (s.tileAt t).slotsOf j := by
  have h0 := Effect.orderHeld11 (a := true) (b := true) s (s.heldLines t k) f.pts
  generalize hs0 : (s.orderHeld11 (s.heldLines t k) f.pts).1 = s0 at h0
  obtain ⟨hw, hf⟩ := s0.consumeBound_tileAt t f.berth f.merge
  have h1 : Effect true false (s0.consumeBound t f.berth f.merge) (s.committing t k f) := by
    unfold State.committing
    rw [hs0]
    exact (((Effect.modRun _ _ _ _).trans (Effect.commitAll _ _ _ _ _)).trans (Effect.releaseLines _ _ _ _ _ _)).trans
      (Effect.giveBack _ _)
  have hc : s0.consumedOf t f.berth f.merge = s.consumedOf t f.berth f.merge := by
    simp only [State.consumedOf, State.boundOf, h0.wait rfl t]
  refine ⟨by rw [h1.wait rfl t, hw, hc, h0.wait rfl t], fun j => ?_⟩
  calc ((s.committing t k f).tileAt t).slotsOf j = ((s0.consumeBound t f.berth f.merge).tileAt t).slotsOf j := by
        rw [Tile.slotsOf, h1.frames rfl t]; rfl
    _ = (s0.tileAt t).slotsOf j := hf j
    _ = (s.tileAt t).slotsOf j := by rw [Tile.slotsOf, h0.frames rfl t]; rfl

/-- What the end of a firing leaves on its tile: its slot free, what has waited less what it consumed, and the frames,
without its own where END or ENDF frees it. -/
theorem State.endFiring_tileAt (s : State) (t k : Nat) (f : Firing) (endf : Bool) :
    (s.endFiring t k f endf).firing t k = none
      ∧ ((s.endFiring t k f endf).tileAt t).wait = ((s.committing t k f).tileAt t).wait
      ∧ ((s.endFiring t k f endf).tileAt t).frames = if (endf || f.freeAtEnd) && f.isTagged then
          ((s.committing t k f).tileAt t).frames.drop f.fp else ((s.committing t k f).tileAt t).frames := by
  obtain ⟨l, n, h⟩ := s.endFiring_eq t k f endf
  have htile : ∀ u, (l.foldl (fun (a : State) x => a.taskFinish (coveOfTile t) x n n) u).tileAt t = u.tileAt t :=
    fun u => congrArg (fun m : Map Tile => m.get {} t) (State.taskFinishes_tiles (coveOfTile t) n n l u)
  refine ⟨?_, ?_, ?_⟩
  · rw [h, State.firing, htile]
    exact State.leave_firing _ t k _
  · rw [h, htile, (Effect.leave (a := true) (b := true) _ t k _).wait rfl t, (Effect.purge (a := true) (b := true) _ t k).wait rfl t]
    split
    · rw [(Effect.wakeFrames (a := true) (b := true) _ t).wait rfl t, State.tileAt_modTile_same]
      rfl
    · rfl
  · rw [h, htile, (Effect.leave (a := true) (b := true) _ t k _).frames rfl t, (Effect.purge (a := true) (b := true) _ t k).frames rfl t]
    split
    · rw [(Effect.wakeFrames (a := true) (b := true) _ t).frames rfl t, State.tileAt_modTile_same]
      rfl
    · rfl

/-! ## The claim -/

/-- What waits after the end of a firing waited before, unbound if it is its berth's, and was not bound to it. -/
theorem State.committing_wait {s : State} {t k : Nat} {f : Firing} {w : Waiting} (h : w ∈ ((s.committing t k f).tileAt t).wait) :
    w ∈ ((s.tileAt t).wait.map fun x => if x.berth = f.berth then { x with bound := false } else x)
      ∧ (f.merge = none → ∀ x ∈ (s.tileAt t).wait, x.id = w.id → ¬(x.berth = f.berth ∧ x.bound = true)) := by
  rw [(s.committing_tileAt t k f).1] at h
  obtain ⟨y, hy, rfl⟩ := List.mem_map.mp h
  obtain ⟨hmem, hid⟩ := List.mem_filter.mp hy
  refine ⟨List.mem_map.mpr ⟨y, hmem, rfl⟩, fun hm x hx he hb => ?_⟩
  have hyid : (if y.berth = f.berth then { y with bound := false } else y).id = y.id := by split <;> rfl
  refine of_decide_eq_true hid x ?_ (hyid.symm.trans he.symm)
  simp only [State.consumedOf, State.boundOf, hm]
  simp [hx, hb]

/-- END and ENDF, of a firing whose instruction has been charged. -/
theorem State.ends_of_endFiring {s : State} {f : Firing} (hr : s.runs f) (endf : Bool) {i : Instr}
    (hi : exec i s = s.runFiring 59 fun t f => .ok (t.endFiring t.tile t.slot f endf)) :
    ∃ u, exec i s = .next u ∧ u.firing s.tile s.slot = none
      ∧ (∀ w ∈ (u.tileAt s.tile).wait,
          w ∈ ((s.tileAt s.tile).wait.map fun x => if x.berth = f.berth then { x with bound := false } else x)
            ∧ (f.merge = none → ∀ x ∈ (s.tileAt s.tile).wait, x.id = w.id → ¬(x.berth = f.berth ∧ x.bound = true)))
      ∧ ((endf || f.freeAtEnd) = false → ∀ k, (u.tileAt s.tile).slotsOf k = (s.tileAt s.tile).slotsOf k)
      ∧ (endf = true → (f.isTagged = true → (u.tileAt s.tile).frames.look f.fp = none)
          ∧ ∀ k, k ≠ f.fp → (u.tileAt s.tile).slotsOf k = (s.tileAt s.tile).slotsOf k) := by
  have hc := State.charge_step s s.tile f.cx.toNat 59 1
  have he : Effect true true s (s.charge s.tile f.cx.toNat 59 1) := Effect.ofCharge hc
  have hrun := hi.trans (State.runFiring_ok hr rfl)
  rw [hc.tile, hc.slot] at hrun
  generalize s.charge s.tile f.cx.toNat 59 1 = c at he hrun
  obtain ⟨hfree, hwait, hframes⟩ := c.endFiring_tileAt s.tile s.slot f endf
  have hslots : ∀ k, ((c.committing s.tile s.slot f).tileAt s.tile).slotsOf k = (s.tileAt s.tile).slotsOf k := fun k =>
    ((c.committing_tileAt s.tile s.slot f).2 k).trans (by rw [Tile.slotsOf, he.frames rfl]; rfl)
  refine ⟨_, hrun, hfree, fun w hw => ?_, fun hk k => ?_, fun hend => ⟨fun ht => ?_, fun k hk => ?_⟩⟩
  · rw [hwait] at hw
    simpa only [he.wait rfl] using State.committing_wait hw
  · rw [hk, Bool.false_and, if_neg Bool.false_ne_true] at hframes
    rw [← hslots k, Tile.slotsOf, hframes]
    rfl
  · rw [hframes, hend, ht, Bool.true_or, Bool.true_and, if_pos rfl, Map.look_drop, if_pos rfl]
  · rw [← hslots k, Tile.slotsOf, hframes]
    split
    · rw [Map.look_drop, if_neg hk]
      rfl
    · rfl

/-- YIELD leaves the tokens in place and sends none. -/
theorem State.yieldFiring_tileAt (s : State) (t k : Nat) (f : Firing) :
    (s.yieldFiring t k f).firing t k = none ∧ (s.yieldFiring t k f).net.flights = s.net.flights
      ∧ ((s.yieldFiring t k f).tileAt t).frames = (s.tileAt t).frames
      ∧ ((s.yieldFiring t k f).tileAt t).wait =
          ((s.tileAt t).wait.map fun w => if w.berth = f.berth then { w with bound := false } else w)
      ∧ ((s.yieldFiring t k f).run t f.berth).backoff = some (s.now + 65) := by
  have hd := Effect.discard (a := true) (b := true) s t k f
  have hu : ((s.discard t k f).unbind t f.berth).tileAt t = { (s.discard t k f).tileAt t with
      wait := ((s.discard t k f).tileAt t).wait.map fun w => if w.berth = f.berth then { w with bound := false } else w } :=
    State.tileAt_modTile_same _ t _
  have hl := Effect.leave (a := true) (b := true) ((s.discard t k f).unbind t f.berth) t k f
  have hy : (s.yieldFiring t k f).tileAt t = _ := State.tileAt_modTile_same (((s.discard t k f).unbind t f.berth).leave t k f) t _
  refine ⟨?_, ?_, ?_, ?_, ?_⟩
  · rw [State.firing, hy]
    exact State.leave_firing _ t k f
  · exact congrArg Net.flights (hd.net rfl)
  · rw [hy]
    exact (hl.frames rfl t).trans ((congrArg Tile.frames hu).trans (hd.frames rfl t))
  · rw [hy]
    refine (hl.wait rfl t).trans ((congrArg Tile.wait hu).trans ?_)
    rw [← hd.wait rfl t]
  · rw [State.run, hy]
    exact congrArg BerthRun.backoff (Map.get_set_same _ _ _ _)

/-- Settles O27: END and ENDF through `endFiring`, YIELD through `yieldFiring`. -/
theorem endsOfFirings : Obligations.EndsOfFirings := by
  intro s f hr
  refine ⟨fun i hi => ?_, ?_, ?_⟩
  · have hexec : exec i s = s.runFiring 59 fun t f => .ok (t.endFiring t.tile t.slot f false) := by
      rcases List.mem_pair.mp hi with rfl | rfl <;> rfl
    obtain ⟨u, hu, hfree, hwait, hkept, -⟩ := State.ends_of_endFiring hr false hexec
    exact ⟨u, hu, ⟨hfree, hwait⟩, fun h => hkept h⟩
  · obtain ⟨u, hu, hfree, hwait, -, hfreed⟩ := State.ends_of_endFiring hr true (i := .endfFiring) rfl
    exact ⟨u, hu, ⟨hfree, hwait⟩, hfreed rfl⟩
  · have hc := State.charge_step s s.tile f.cx.toNat 59 1
    have he : Effect true true s (s.charge s.tile f.cx.toNat 59 1) := Effect.ofCharge hc
    have hrun : exec .yield s = _ := State.runFiring_ok (g := fun t f => .ok (t.yieldFiring t.tile t.slot f)) hr rfl
    rw [hc.tile, hc.slot] at hrun
    obtain ⟨hfree, hnet, hframes, hwait, hback⟩ := (s.charge s.tile f.cx.toNat 59 1).yieldFiring_tileAt s.tile s.slot f
    refine ⟨_, hrun, hfree, ?_, ?_, ?_, ?_⟩
    · rw [hnet, he.net rfl]
    · rw [hframes, he.frames rfl]
    · rw [hwait, he.wait rfl]
    · rw [hback, he.now]

end Sys2Proof.Machine
end

section
/-! PROOF. Tokens that arrive, operands that move, credits and admission (R25, R26, R34, R35, R38, R261, R263, R265, R283). -/

namespace Sys2Proof.Machine

@[simp] theorem State.tileAt_modHd (s : State) (g : Harbour → Harbour) (t : Nat) : (s.modHd g).tileAt t = s.tileAt t := rfl

/-! ## Arrival -/

/-- What an operand that moves leaves as it is: the flights, and of the tokens that wait all but their places. -/
structure Moves (t : Nat) (s u : State) : Prop where
  flights : u.net.flights = s.net.flights
  wait : ∃ g : Waiting → OpPlace, (u.tileAt t).wait = (s.tileAt t).wait.map fun y => { y with place := g y }

theorem Moves.refl (t : Nat) (s : State) : Moves t s s := ⟨rfl, fun y => y.place, by simp⟩

theorem Moves.trans {t : Nat} {s u v : State} (h : Moves t s u) (k : Moves t u v) : Moves t s v := by
  obtain ⟨g, hg⟩ := h.wait
  obtain ⟨g', hg'⟩ := k.wait
  refine ⟨k.flights.trans h.flights, fun y => g' { y with place := g y }, ?_⟩
  rw [hg', hg, List.map_map]
  rfl

theorem State.freeCredit_flights (s : State) (t chan crep : Nat) : (s.freeCredit t chan crep).net.flights = s.net.flights := by
  unfold State.freeCredit
  split <;> rfl

/-- The tokens that wait, with one of them at place `p`. -/
def placedAt (w : Waiting) (p : OpPlace) (l : List Waiting) : List Waiting :=
  l.map fun y => if y.id = w.id then { y with place := p } else y

theorem placedAt_eq (w : Waiting) (p : OpPlace) (l : List Waiting) :
    placedAt w p l = l.map fun y => { y with place := if y.id = w.id then p else y.place } := by
  unfold placedAt
  congr 1
  funext y
  split <;> rfl

/-- The operands that the matching store of a tile holds. -/
def Tile.inStore (x : Tile) : Nat := (x.wait.filter fun y => decide (y.place = .store)).length

/-- An operand goes into the matching store when it has room, one in an fc. -/
theorem State.placeOne_store {s : State} {t : Nat} (w : Waiting) (h : (s.tileAt t).inStore < 64) :
    s.placeOne t w = if (s.tileAt t).lastStore = some s.now then s else
      (s.setTile t { s.tileAt t with wait := placedAt w .store (s.tileAt t).wait, lastStore := some s.now }).freeCredit t w.chan
        w.crep := if_pos h

/-- With the matching store full, an operand goes into the spill area of its frame when that is free, one in an fc. -/
theorem State.placeOne_spill {s : State} {t k : Nat} {w : Waiting} (h : 64 ≤ (s.tileAt t).inStore)
    (hk : (s.tileAt t).frameOf w.berth w.tok.itag = some k) :
    let fr := (s.tileAt t).frames.get {} k
    s.placeOne t w = if fr.pres.get false (spillSlot fr.size w.port) = true ∨ (s.tileAt t).lastSpill = some s.now then s else
      (s.setTile t { s.tileAt t with wait := placedAt w .spill (s.tileAt t).wait, lastSpill := some s.now
                                     frames := (s.tileAt t).frames.put k (fr.spill w.port w.tok) }).freeCredit t w.chan w.crep := by
  refine (if_neg (Nat.not_lt.mpr h)).trans ?_
  rw [hk]
  rfl

theorem State.placeOne_noFrame {s : State} {t : Nat} {w : Waiting} (h : 64 ≤ (s.tileAt t).inStore)
    (hk : (s.tileAt t).frameOf w.berth w.tok.itag = none) : s.placeOne t w = s := by
  refine (if_neg (Nat.not_lt.mpr h)).trans ?_
  rw [hk]

/-- A tile whose operand takes the place `p`. -/
theorem Moves.placed {s : State} {t : Nat} {w : Waiting} {p : OpPlace} {x : Tile} (hx : x.wait = placedAt w p (s.tileAt t).wait) :
    Moves t s ((s.setTile t x).freeCredit t w.chan w.crep) := by
  refine ⟨State.freeCredit_flights _ _ _ _, fun y => if y.id = w.id then p else y.place, ?_⟩
  rw [State.freeCredit_tileAt, State.tileAt_setTile_same, hx, placedAt_eq]

theorem State.placeOne_moves (s : State) (t : Nat) (w : Waiting) : Moves t s (s.placeOne t w) := by
  by_cases h : (s.tileAt t).inStore < 64
  · rw [State.placeOne_store w h]
    split
    · exact Moves.refl t s
    · exact Moves.placed rfl
  · cases hk : (s.tileAt t).frameOf w.berth w.tok.itag with
    | none => rw [State.placeOne_noFrame (Nat.not_lt.mp h) hk]; exact Moves.refl t s
    | some k =>
      rw [State.placeOne_spill (Nat.not_lt.mp h) hk]
      split
      · exact Moves.refl t s
      · exact Moves.placed rfl

theorem State.placeAll_moves (t : Nat) (l : List Waiting) (s : State) :
    Moves t s (l.foldl (fun (a : State) w => a.placeOne t w) s) := by
  induction l generalizing s with
  | nil => exact Moves.refl t s
  | cons w r ih => exact (s.placeOne_moves t w).trans (ih _)

/-- Looking at the operands of a tile again moves those that it can, and puts a step on the agenda. -/
theorem State.placeOperands_tiles (s : State) (t : Nat) :
    (s.placeOperands t).tiles = ((s.poolOperands t).foldl (fun (a : State) w => a.placeOne t w) s).tiles
      ∧ (s.placeOperands t).net = ((s.poolOperands t).foldl (fun (a : State) w => a.placeOne t w) s).net := by
  unfold State.placeOperands
  dsimp only
  split
  · exact ⟨rfl, rfl⟩
  · split <;> exact ⟨rfl, rfl⟩

theorem State.placeOperands_moves (s : State) (t : Nat) : Moves t s (s.placeOperands t) := by
  obtain ⟨ht, hn⟩ := s.placeOperands_tiles t
  obtain ⟨hf, g, hg⟩ := State.placeAll_moves t (s.poolOperands t) s
  exact ⟨(congrArg Net.flights hn).trans hf, g, by rw [State.tileAt, ht]; exact hg⟩

/-- A berth's back-off ends when a token lands for it; nothing that waits changes. -/
theorem Effect.unbackoff {a b : Bool} (s : State) (t n : Nat) : Effect a b s (s.unbackoff t n) := Effect.modRun s t n _

theorem Effect.arrived {a b : Bool} (s : State) (t n : Nat) : Effect a b s (s.arrived t n) :=
  Effect.ite (Effect.unbackoff s t n) (Effect.refl s)

/-- A token that lands at a berth waits there, readable when its flits are in. -/
theorem State.land_berth {s : State} {c : ChanCfg} {fl : Flight} {t k p : Nat} (hd : c.dst = .berth t k p) :
    (s.land c fl).net.flights = s.net.flights ∧ ∃ w ∈ ((s.land c fl).tileAt fl.tok.dest).wait, w.tok = fl.tok ∧ w.chan = fl.chan
      ∧ w.berth = k ∧ w.port = p ∧ w.since = s.now ∧ w.ready = s.now + fl.tok.nflit.toNat + 1 ∧ w.bound = false := by
  let w : Waiting := { chan := fl.chan, crep := fl.crep, tok := fl.tok, since := s.now, ready := s.now + fl.tok.nflit.toNat + 1
                       id := s.next, berth := k, port := p }
  let s2 := (s.fresh.2.modTile fl.tok.dest fun x => { x with wait := x.wait ++ [w] }).arrived fl.tok.dest k
  have harr := Effect.arrived (a := true) (b := true) (s.fresh.2.modTile fl.tok.dest fun x => { x with wait := x.wait ++ [w] })
    fl.tok.dest k
  have hwait : w ∈ (s2.tileAt fl.tok.dest).wait := by
    rw [harr.wait rfl, State.tileAt_modTile_same]
    exact List.mem_append_right _ (List.mem_singleton_self w)
  have hnet : s2.net.flights = s.net.flights := congrArg Net.flights (harr.net rfl)
  have hland : s.land c fl = if s2.isTagged fl.tok.dest k then
      (s2.atFc (s.now + 65536) .poolSlotTimeout { a := fl.tok.dest, b := s.next }).placeOperands fl.tok.dest else s2 := by
    unfold State.land
    rw [hd]
    rfl
  rw [hland]
  split
  · obtain ⟨hf, g, hg⟩ := (s2.atFc (s.now + 65536) .poolSlotTimeout { a := fl.tok.dest, b := s.next }).placeOperands_moves fl.tok.dest
    refine ⟨hf.trans hnet, { w with place := g w }, ?_, rfl, rfl, rfl, rfl, rfl, rfl, rfl⟩
    rw [hg]
    exact List.mem_map.mpr ⟨w, hwait, rfl⟩
  · exact ⟨hnet, w, hwait, rfl, rfl, rfl, rfl, rfl, rfl, rfl⟩

theorem exec_tokenArrival {s : State} (h : s.ev.l = []) : exec .tokenArrival s = .next (s.arrive s.ev.a) := by
  change execTokenArrival s = _
  unfold execTokenArrival
  rw [h]

section
variable {s : State} {id : Nat} {fl : Flight} (hf : s.net.flights.look id = some fl) (hl : fl.legs = [])
include hf hl

/-- A token whose generation is stale is discarded and counted (R38). -/
theorem State.arrive_stale {c : ChanCfg} (hc : s.chan fl.chan = some c)
    (h : c.part ≠ agentPart ∧ fl.tok.gen ≠ (s.vf fl.tok.ctx.toNat).gen) :
    s.arrive id = ((s.modNet fun w => { w with flights := w.flights.drop id }).countDrop fl.tok.ctx.toNat 1).freeCredit fl.tok.dest
      fl.chan fl.crep := by
  simp only [State.arrive, hf, hc, hl]
  exact if_pos h

/-- Another lands at its consumer (R263). -/
theorem State.arrive_fresh {c : ChanCfg} (hc : s.chan fl.chan = some c)
    (h : ¬(c.part ≠ agentPart ∧ fl.tok.gen ≠ (s.vf fl.tok.ctx.toNat).gen)) :
    s.arrive id = (s.modNet fun w => { w with flights := w.flights.drop id }).land c fl := by
  simp only [State.arrive, hf, hc, hl]
  exact if_neg h

/-- A ray that has crossed its lanes goes on in its new ring slot (R301). -/
theorem State.arrive_ray {r : RayWay} (hc : s.chan fl.chan = none) (hr : fl.ray = some r) :
    s.arrive id = (s.modNet fun w => { w with flights := w.flights.drop id }).after 0 .rayNodeVisit { a := r.cove, b := r.slot } := by
  simp only [State.arrive, hf, hc, State.arriveRay, hr, hl]

end

/-! ## Operands in their pool slots (R34, R35) -/

section
variable {s : State} {t : Nat} {w : Waiting} (h : s.poolOperands t = [w])
include h

/-- With one operand in its pool slot, a look at the operands is a look at that one. -/
theorem State.placeOperands_single : (s.placeOperands t).tileAt t = (s.placeOne t w).tileAt t := by
  obtain ⟨ht, -⟩ := s.placeOperands_tiles t
  rw [State.tileAt, ht, h]
  rfl

theorem State.placeOperands_store (hs : (s.tileAt t).inStore < 64) (hl : (s.tileAt t).lastStore ≠ some s.now) :
    ((s.placeOperands t).tileAt t).wait = placedAt w .store (s.tileAt t).wait := by
  rw [State.placeOperands_single h, State.placeOne_store w hs, if_neg hl, State.freeCredit_tileAt, State.tileAt_setTile_same]

theorem State.placeOperands_late (hs : (s.tileAt t).inStore < 64) (hl : (s.tileAt t).lastStore = some s.now) :
    ((s.placeOperands t).tileAt t).wait = (s.tileAt t).wait := by
  rw [State.placeOperands_single h, State.placeOne_store w hs, if_pos hl]

theorem State.placeOperands_spill {k : Nat} (hs : 64 ≤ (s.tileAt t).inStore)
    (hk : (s.tileAt t).frameOf w.berth w.tok.itag = some k)
    (hp : ((s.tileAt t).frames.get {} k).pres.get false (spillSlot ((s.tileAt t).frames.get {} k).size w.port) = false)
    (hl : (s.tileAt t).lastSpill ≠ some s.now) :
    ((s.placeOperands t).tileAt t).wait = placedAt w .spill (s.tileAt t).wait
      ∧ ((s.placeOperands t).tileAt t).frames.look k = some (((s.tileAt t).frames.get {} k).spill w.port w.tok) := by
  have hn : ¬(((s.tileAt t).frames.get {} k).pres.get false (spillSlot ((s.tileAt t).frames.get {} k).size w.port) = true
      ∨ (s.tileAt t).lastSpill = some s.now) := by
    rw [hp]
    simpa using hl
  rw [State.placeOperands_single h, State.placeOne_spill hs hk, if_neg hn, State.freeCredit_tileAt, State.tileAt_setTile_same]
  exact ⟨rfl, Map.look_put_same _ _ _⟩

end

/-- An operand that has stood in its pool slot too long without a frame is discarded, and its record posted. -/
theorem State.poolTimeout_discards {s : State} {t id : Nat} {w : Waiting} (h : (s.tileAt t).wait.find? (fun y => decide (y.id = id)) = some w)
    (hp : w.place = .pool) (hb : w.bound = false) (hf : (s.tileAt t).frameOf w.berth w.tok.itag = none) :
    ((s.poolTimeout t id).tileAt t).wait = (s.tileAt t).wait.filter fun y => !decide (y.id = id) := by
  have hid : w.id = id := of_decide_eq_true (List.find?_some (p := fun y : Waiting => decide (y.id = id)) h)
  have hq : s.poolTimeout t id = (s.consume t w).postRecord (s.tcfg t).part (poolRecord t w) none := by
    unfold State.poolTimeout
    rw [h]
    dsimp only
    rw [if_neg (by rw [hp, hb]; simp), hf, if_neg (by simp)]
  rw [hq, (Effect.postRecord (a := true) (b := true) _ _ _ _).wait rfl t, (s.consume_tileAt t w).1, hid]

/-! ## The start token (R259, R265) -/

theorem State.runsFold_tileAt (t : Nat) (g : Nat → BerthRun → BerthRun) (l : List (Nat × BerthRec)) (s : State) :
    ∃ m, (l.foldl (fun (a : State) e => a.modRun t e.1 (g e.1)) s).tileAt t = { s.tileAt t with runs := m } := by
  induction l generalizing s with
  | nil => exact ⟨_, rfl⟩
  | cons e r ih =>
    obtain ⟨m, hm⟩ := ih (s.modRun t e.1 (g e.1))
    refine ⟨m, ?_⟩
    rw [List.foldl_cons, hm, State.modRun, State.tileAt_modTile_same]

theorem State.takeControl_tile {s : State} {t ts : Nat} {r : List Nat} (h : (s.tileAt t).ctlq = ts :: r) :
    ((s.takeControl t).tileAt t).ctlq = r ∧ ((s.takeControl t).tileAt t).started = true := by
  let s0 := s.modTile t fun x => { x with ctlq := r, started := true, lastAdmit := some s.now }
  obtain ⟨m, hm⟩ := State.runsFold_tileAt t (fun _ b => { b with lastPts := Nat.max b.lastPts ts }) (s.tcfg t).berths s0
  have hs0 : s0.tileAt t = { s.tileAt t with ctlq := r, started := true, lastAdmit := some s.now } := State.tileAt_modTile_same s t _
  have ht : (s.takeControl t).tileAt t = { s0.tileAt t with runs := m } := by
    unfold State.takeControl
    rw [h]
    dsimp only
    split
    · exact hm
    · exact hm
  rw [ht, hs0]
  exact ⟨rfl, rfl⟩

/-! ## Credits (R261) -/

/-- A credit that comes back is added to those of its producer replica. -/
theorem State.credits_addCredits (s : State) (chan c p n : Nat) : (s.addCredits chan c p n).credits chan c p = s.credits chan c p + n :=
  Map.get_set_same _ _ _ _

theorem State.creditBack_credits {s : State} {chan crep prep : Nat} {c : ChanCfg} (hc : s.chan chan = some c)
    (hp : (s.srcTiles c).getD prep gapTile ≠ gapTile) (hr : ∀ p, c.src ≠ .remote p) :
    (s.creditBack chan crep prep).credits chan crep prep = s.credits chan crep prep + 1 := by
  rw [← State.credits_addCredits]
  unfold State.creditBack
  rw [hc]
  dsimp only
  rw [if_neg hp]
  split
  · exact congrArg (fun n : Net => n.credits.get 0 (credKey chan crep prep)) ((Effect.arrived (a := true) (b := true) _ _ _).net rfl)
  · rfl
  · rfl
  · rfl
  · split <;> rfl
  · rfl
  · next port he => exact absurd he (hr port)

theorem State.creditUnused_credits {s : State} {chan crep prep : Nat} {c : ChanCfg} (hc : s.chan chan = some c)
    (hp : (s.srcTiles c).getD prep gapTile ≠ gapTile) (n : Nat) :
    (s.creditUnused chan crep prep n).credits chan crep prep = s.credits chan crep prep + n := by
  rw [← State.credits_addCredits]
  unfold State.creditUnused
  rw [hc]
  dsimp only
  rw [if_neg hp]

/-- A credit for a replica that has been removed is handed out again (R262). -/
theorem State.creditBack_gone {s : State} {chan crep prep : Nat} {c : ChanCfg} (hc : s.chan chan = some c)
    (hp : (s.srcTiles c).getD prep gapTile = gapTile) :
    s.creditBack chan crep prep = s.freeCredit ((s.dstTiles c).getD crep 0) chan crep := by
  unfold State.creditBack
  rw [hc]
  dsimp only
  rw [if_pos hp]

theorem exec_creditReturn_freed {s : State} (h : s.ev.l = []) :
    exec .creditReturn s = .next (s.creditBack s.ev.a s.ev.b s.ev.c) := by
  change execCreditReturn s = _
  unfold execCreditReturn
  rw [h]

theorem exec_creditReturn_unused {s : State} {n : Nat} {r : List Nat} (h : s.ev.l = n :: r) :
    exec .creditReturn s = .next (s.creditUnused s.ev.a s.ev.b s.ev.c n) := by
  change execCreditReturn s = _
  unfold execCreditReturn
  rw [h]

/-! ## Admission (R25, R26) -/

theorem State.takeAll_tiles (rs : List Resv) (s : State) :
    (rs.foldl (fun a r => a.takeCredits r.chan r.crep r.prep r.n) s).tiles = s.tiles := by
  induction rs generalizing s with
  | nil => rfl
  | cons r l ih => exact ih _

/-- A tile that admits a berth has it ready, and a slot for it. -/
theorem State.ready_of_admits {s : State} {t k : Nat} (h : s.admits t = some k) :
    ∃ ins rs n slot, s.ready t k = some (ins, rs, n) ∧ s.freeSlot t = some slot := by
  unfold State.admits at h
  split at h
  · next hc =>
    simp only [Bool.and_eq_true] at hc
    obtain ⟨slot, hslot⟩ := Option.isSome_iff_exists.mp hc.2
    obtain ⟨⟨ins, rs, n⟩, hr⟩ := Option.isSome_iff_exists.mp (List.find?_some (p := fun b => (s.ready t b).isSome) h)
    exact ⟨ins, rs, n, slot, hr, hslot⟩
  · cases h

theorem le_foldl_max {α : Type} (g : α → Nat) (l : List α) (n : Nat) :
    n ≤ l.foldl (fun a k => Nat.max a (g k)) n ∧ ∀ x ∈ l, g x ≤ l.foldl (fun a k => Nat.max a (g k)) n := by
  induction l generalizing n with
  | nil => simp
  | cons y r ih =>
    obtain ⟨h1, h2⟩ := ih (Nat.max n (g y))
    refine ⟨Nat.le_trans (Nat.le_max_left n (g y)) h1, fun x hx => ?_⟩
    rcases List.mem_cons.mp hx with rfl | hr
    · exact Nat.le_trans (Nat.le_max_right n (g x)) h1
    · exact h2 x hr

/-- The tile after the admission of a berth whose inputs, reservations and ring slots are `ins`, `rs` and `n`. -/
theorem State.admitNext_tile {s : State} {t k slot n : Nat} {ins : List (Nat × List Waiting)} {rs : List Resv} (ha : s.admits t = some k)
    (hr : s.ready t k = some (ins, rs, n)) (hs : s.freeSlot t = some slot) :
    let ids := ins.flatMap fun e => e.2.map fun w => w.id
    ∃ m, (s.admitNext t).tileAt t = { s.tileAt t with
      wait := (s.tileAt t).wait.map fun w => if ids.contains w.id then { w with bound := true } else w
      slots := (s.tileAt t).slots.put slot (s.newFiring t k (ins.map fun e => (e.1, e.2.map (s.tileAt t).operand)) rs n)
      lastAdmit := some s.now
      rrAdmit := (k + 1) % 16
      runs := m } := by
  have ht : ∀ u : State, (rs.foldl (fun (a : State) r => a.takeCredits r.chan r.crep r.prep r.n) u).tileAt t = u.tileAt t :=
    fun u => congrArg (fun m : Map Tile => m.get {} t) (State.takeAll_tiles rs u)
  unfold State.admitNext
  simp only [ha, hr, hs]
  rw [State.tileAt_modHd, State.modRun, State.tileAt_modTile_same, State.tileAt_modTile_same, ht]
  exact ⟨_, rfl⟩

/-- A firing as it enters its slot: its inputs bound, its timestamp no earlier than theirs and that of the firing before. -/
theorem State.newFiring_pts (s : State) (t k : Nat) (ins : List (Nat × List Waiting)) (rs : List Resv) (n : Nat) (g : Waiting → Token) :
    let f := s.newFiring t k (ins.map fun e => (e.1, e.2.map g)) rs n
    (s.run t k).lastPts ≤ f.pts ∧ ∀ e ∈ ins, ∀ w ∈ e.2, (g w).lts ≤ f.pts := by
  obtain ⟨hlast, hall⟩ := le_foldl_max (fun x : Token => x.lts)
    ((ins.map fun e => (e.1, e.2.map g)).flatMap fun e => e.2) (s.run t k).lastPts
  refine ⟨hlast, fun e he w hw => hall (g w) ?_⟩
  exact List.mem_flatMap.mpr ⟨_, List.mem_map.mpr ⟨e, he, rfl⟩, List.mem_map.mpr ⟨w, hw, rfl⟩⟩

/-- The tokens that a firing takes are bound once its berth is admitted. -/
theorem bound_of_taken {ins : List (Nat × List Waiting)} {l : List Waiting} {w : Waiting}
    (h : w ∈ l.map fun w => if (ins.flatMap fun e => e.2.map fun w => w.id).contains w.id then { w with bound := true } else w)
    (ht : ∃ e ∈ ins, ∃ y ∈ e.2, y.id = w.id) : w.bound = true := by
  obtain ⟨y, -, rfl⟩ := List.mem_map.mp h
  obtain ⟨e, he, x, hx, hid⟩ := ht
  by_cases hy : (ins.flatMap fun e => e.2.map fun w => w.id).contains y.id = true
  · rw [if_pos hy]
  · rw [if_neg hy] at hid
    refine absurd (List.contains_iff_mem.mpr ?_) hy
    exact List.mem_flatMap.mpr ⟨e, he, List.mem_map.mpr ⟨x, hx, hid⟩⟩

end Sys2Proof.Machine
end

section
/-! PROOF. Fault edges and fault queues (R270, R271, R327). -/

namespace Sys2Proof.Machine

/-- The fault unit of a partition. -/
def State.faultUnit (s : State) (p : Nat) : FaultUnit := s.hd.faults.get {} p

/-! ## A token that is sent -/

/-- What a token that is sent changes of the harbour and of the queues between tiles: the window of a governor, and the flights. -/
structure TokenSent (s u : State) (fl : Flight) : Prop where
  hd : { u.hd with gov := [] } = { s.hd with gov := [] }
  credits : u.net.credits = s.net.credits
  flight : u.net.flights.look s.next = some fl

theorem State.launch_sent (s : State) (t chan crep : Nat) (k : Token) (c : ChanCfg) :
    TokenSent s (s.launch t chan crep k c) (s.flightOf t chan crep k c) := by
  unfold State.launch
  generalize (if c.part = agentPart then 128 else k.ctx.toNat) = cx
  generalize (1 + k.nflit.toNat) * (c.hopsOf t ((s.dstTiles c).getD crep 0) + (c.route.map fun l => l.lane).length) = n
  have h := State.charge_step ((s.modTile t fun x =>
      { x with inject := Nat.max s.now (s.tileAt t).inject + 1 + k.nflit.toNat }).fresh.2.modNet fun w =>
    { w with flights := w.flights.put s.next (s.flightOf t chan crep k c) }) t cx 60 n
  exact ⟨h.hd, (congrArg Net.credits h.net :), (congrArg (fun w : Net => w.flights.look s.next) h.net).trans (Map.look_put_same _ _ _)⟩

/-- Joining a lane, or a step that is due, changes nothing of these. -/
theorem TokenSent.of_same {s u v : State} {fl : Flight} (h : TokenSent s u fl) (hd : v.hd = u.hd) (hc : v.net.credits = u.net.credits)
    (hf : v.net.flights = u.net.flights) : TokenSent s v fl :=
  ⟨hd ▸ h.hd, hc.trans h.credits, hf ▸ h.flight⟩

theorem State.laneJoin_same (s : State) (l vc id : Nat) : (s.laneJoin l vc id).hd = s.hd
    ∧ (s.laneJoin l vc id).net.credits = s.net.credits ∧ (s.laneJoin l vc id).net.flights = s.net.flights := by
  unfold State.laneJoin
  dsimp only
  split <;> exact ⟨rfl, rfl, rfl⟩

theorem State.sendToken_sent {s : State} {chan : Nat} {c : ChanCfg} (h : s.chan chan = some c) (t crep : Nat) (k : Token) :
    TokenSent s (s.sendToken t chan crep k) (s.flightOf t chan crep k c) := by
  rw [State.sendToken_some h]
  have hl := s.launch_sent t chan crep k c
  split
  · next l _ _ =>
    obtain ⟨hd, hc, hf⟩ := (s.launch t chan crep k c).laneJoin_same l c.vc s.next
    exact hl.of_same hd hc hf
  · exact hl.of_same rfl rfl rfl

theorem State.after_of_rest {P : State → Prop} {u : State} {c : Prop} [Decidable c] {n : Nat} {i : Instr} {e : EvArg} (h : P u)
    (k : P (u.after n i e)) : P (if c then u else u.after n i e) := by
  split
  · exact h
  · exact k

/-! ## Fault edges (R327) -/

/-- The token that a record of a fault edge leaves as. -/
def State.faultToken (s : State) (r : FaultRec) (ch : Nat) : Token :=
  { cls := match s.chan ch with
      | some c => c.cls
      | none => 0
    ctx := r.vf, itag := r.itag, stag := r.stag, nflit := 2, gen := (s.vf r.vf.toNat).gen, lts := r.prod + 1
    pay := BitVec.ofNat 512 (recordNat r), handled := some r }

/-- The oldest record on an edge that has a credit leaves as a token of two flits. -/
theorem State.faultSend_leaves {s s1 : State} {part rank ch : Nat} {r : FaultRec} {rest : List FaultRec} {c : ChanCfg}
    (hc : s.chan ch = some c) (h0 : s.credits ch 0 0 ≠ 0)
    (hq : (if (decide (part = agentPart) && decide (rank = 6)) = true then s.hd.fintake else (s.hd.faults.get {} part).toEdge.get [] rank) =
      r :: rest)
    (he : (if (decide (part = agentPart) && decide (rank = 6)) = true then s.intakeEdge else s.faultEdge part rank) = some ch)
    (hs1 : s1 = if (decide (part = agentPart) && decide (rank = 6)) = true then s.modHd fun h => { h with fintake := rest }
        else s.modFault part fun u => { u with toEdge := u.toEdge.set [] rank rest }) :
    ∃ id fl, { (s.faultSend part rank).hd with gov := [] } = { s1.hd with gov := [] }
      ∧ (s.faultSend part rank).credits ch 0 0 = s.credits ch 0 0 - 1
      ∧ (s.faultSend part rank).net.flights.look id = some fl ∧ fl.chan = ch ∧ fl.tok.handled = some r ∧ fl.tok.nflit = 2 := by
  have hcfg : s1.cfg = s.cfg ∧ s1.net = s.net := by rw [hs1]; split <;> exact ⟨rfl, rfl⟩
  have hc1 : (s1.takeCredits ch 0 0 1).chan ch = some c := by
    rw [← hc]
    exact congrArg (fun g : Cfg => g.chans.look ch) hcfg.1
  have hsend := State.sendToken_sent hc1 0 0 (s.faultToken r ch)
  have hcred : (s1.takeCredits ch 0 0 1).credits ch 0 0 = s.credits ch 0 0 - 1 := by
    refine (Map.get_set_same _ _ _ _).trans ?_
    rw [hcfg.2]
    rfl
  have hall : TokenSent (s1.takeCredits ch 0 0 1) (s.faultSend part rank) ((s1.takeCredits ch 0 0 1).flightOf 0 ch 0 (s.faultToken r ch) c) := by
    unfold State.faultSend
    dsimp only
    rw [hq, he]
    dsimp only
    rw [if_neg h0, ← hs1]
    exact State.after_of_rest (P := fun v => TokenSent (s1.takeCredits ch 0 0 1) v _) hsend (hsend.of_same rfl rfl rfl)
  obtain ⟨hd, hcr, hfl⟩ := hall
  exact ⟨_, _, hd, (congrArg (fun m : Map Nat => m.get 0 (credKey ch 0 0)) hcr).trans hcred, hfl, rfl, rfl, rfl⟩

theorem State.faultSend_edge {s : State} {part rank ch : Nat} {r : FaultRec} {rest : List FaultRec} {c : ChanCfg}
    (hc : s.chan ch = some c) (h0 : s.credits ch 0 0 ≠ 0) (hi : ¬(part = agentPart ∧ rank = 6))
    (hq : (s.hd.faults.get {} part).toEdge.get [] rank = r :: rest) (he : s.faultEdge part rank = some ch) :
    ((s.faultSend part rank).hd.faults.get {} part).toEdge.get [] rank = rest
      ∧ (s.faultSend part rank).credits ch 0 0 = s.credits ch 0 0 - 1
      ∧ ∃ id fl, (s.faultSend part rank).net.flights.look id = some fl ∧ fl.chan = ch ∧ fl.tok.handled = some r ∧ fl.tok.nflit = 2 := by
  have hn : (decide (part = agentPart) && decide (rank = 6)) = false := by simpa using hi
  obtain ⟨id, fl, hd, hcr, hfl⟩ := State.faultSend_leaves hc h0 (part := part) (rank := rank) (by rw [hn]; exact hq) (by rw [hn]; exact he) rfl
  rw [hn, if_neg Bool.false_ne_true] at hd
  refine ⟨?_, hcr, id, fl, hfl⟩
  have hf : (s.faultSend part rank).faultUnit part = _ := (congrArg (fun h : Harbour => h.faults.get {} part) hd :)
  change ((s.faultSend part rank).faultUnit part).toEdge.get [] rank = rest
  rw [hf]
  refine (congrArg (fun u : FaultUnit => u.toEdge.get [] rank) (Map.get_set_same _ _ _ _)).trans (Map.get_set_same _ _ _ _)

theorem State.faultSend_intake {s : State} {ch : Nat} {r : FaultRec} {rest : List FaultRec} {c : ChanCfg}
    (hc : s.chan ch = some c) (h0 : s.credits ch 0 0 ≠ 0) (hq : s.hd.fintake = r :: rest) (he : s.intakeEdge = some ch) :
    (s.faultSend agentPart 6).hd.fintake = rest
      ∧ (s.faultSend agentPart 6).credits ch 0 0 = s.credits ch 0 0 - 1
      ∧ ∃ id fl, (s.faultSend agentPart 6).net.flights.look id = some fl ∧ fl.chan = ch ∧ fl.tok.handled = some r ∧ fl.tok.nflit = 2 := by
  obtain ⟨id, fl, hd, hcr, hfl⟩ := State.faultSend_leaves hc h0 (part := agentPart) (rank := 6) hq he rfl
  exact ⟨congrArg Harbour.fintake hd, hcr, id, fl, hfl⟩

/-! ## What a fault unit reads of its ring (R270) -/

/-- The bytes that a pinned read sees stand the same: physical memory, with the marks and keys of its sectors. -/
structure SameBytes (s u : State) : Prop where
  pm : u.mem.pm = s.mem.pm
  skey : u.mem.skey = s.mem.skey
  sealed : u.mem.sealed = s.mem.sealed
  epoch : u.hd.keyEpoch = s.hd.keyEpoch

theorem SameBytes.refl (s : State) : SameBytes s s := ⟨rfl, rfl, rfl, rfl⟩

theorem SameBytes.trans {s u v : State} (h : SameBytes s u) (k : SameBytes u v) : SameBytes s v :=
  ⟨k.pm.trans h.pm, k.skey.trans h.skey, k.sealed.trans h.sealed, k.epoch.trans h.epoch⟩

theorem SameBytes.symm {s u : State} (h : SameBytes s u) : SameBytes u s := ⟨h.pm.symm, h.skey.symm, h.sealed.symm, h.epoch.symm⟩

/-- A step of the memories that leaves the memories alone. -/
theorem SameBytes.ofStep {s u : State} (h : MemStep s u) (hm : u.mem = s.mem) : SameBytes s u :=
  ⟨congrArg Mem.pm hm, congrArg Mem.skey hm, congrArg Mem.sealed hm, (congrArg Harbour.keyEpoch h.hd :)⟩

theorem State.chargeUnit_mem (s : State) (u d cx c n : Nat) : (s.chargeUnit u d cx c n).mem = s.mem := by
  unfold State.chargeUnit
  dsimp only
  split
  · rfl
  · split <;> split <;> rfl

theorem State.markLink_mem (s : State) (l c : Nat) : (s.markLink l c).mem = s.mem := by
  unfold State.markLink
  split <;> rfl

theorem State.backRead_mem (s : State) (l k c : Nat) : (s.backRead l k c).2.mem = s.mem := by
  have ht : (s.tierRead l k c).2.mem = s.mem := by
    unfold State.tierRead
    dsimp only
    split
    · rw [State.chargeUnit_mem, State.chargeUnit_mem]
    · rw [State.chargeUnit_mem]
  unfold State.backRead
  split
  · exact ht
  · exact ht
  · rw [State.markLink_mem, State.chargeUnit_mem]
  · rfl

/-- A line of the memory behind its cache is what its bytes make it. -/
theorem SameBytes.backRead {s u : State} (h : SameBytes s u) (l k c d : Nat) : (u.backRead l k d).1 = (s.backRead l k c).1 := by
  have hpm : u.pmByte = s.pmByte := funext fun a => by rw [State.pmByte, h.pm]; rfl
  have hbs : u.pmBytes = s.pmBytes := funext fun a => funext fun n => by rw [State.pmBytes, hpm]; rfl
  have hkm : u.keyMark = s.keyMark := funext fun a => by rw [State.keyMark, h.epoch]; rfl
  have him : u.imageOf = s.imageOf := funext fun a => by rw [State.imageOf, h.sealed]; rfl
  have hsr : u.sectorRead = s.sectorRead := funext fun a => funext fun n => by
    rw [State.sectorRead, hbs, h.skey, him, hkm]; rfl
  have htag : u.lineTag = s.lineTag := funext fun a => by rw [State.lineTag, hpm]; rfl
  have ht : (u.tierRead l k d).1 = (s.tierRead l k c).1 := by
    simp only [State.tierRead, htag, hsr]
  unfold State.backRead
  split
  · exact ht
  · exact ht
  · exact congrArg lineOfBytes (by rw [hbs])
  · exact congrArg lineOfBytes (by rw [hbs])

theorem pinnedXl_home (pa : Nat) : (pinnedXl pa).home = 1 ∨ (pinnedXl pa).home = 3 := by
  unfold pinnedXl
  split
  · exact Or.inl rfl
  · exact Or.inr rfl

/-- A line with a home of its own, as pinned addresses have, is read from the memory behind it. -/
theorem SameBytes.homeData {s u : State} (h : SameBytes s u) {x : Xl} (hx : x.home = 1 ∨ x.home = 3) (c d : Nat) :
    (u.homeData x d).1 = (s.homeData x c).1 ∧ SameBytes u (u.homeData x d).2 := by
  unfold State.homeData
  dsimp only
  by_cases h1 : x.home = 1
  · rw [if_pos h1, if_pos h1]
    refine ⟨?_, SameBytes.refl u⟩
    simp only [State.pmBytes, show u.pmByte = s.pmByte from funext fun a => by rw [State.pmByte, h.pm]; rfl]
  · rw [if_neg h1, if_neg h1, if_pos (hx.resolve_left h1), if_pos (hx.resolve_left h1)]
    exact ⟨h.backRead _ _ _ _, SameBytes.ofStep (State.backRead_step u _ _ _) (State.backRead_mem u _ _ _)⟩

theorem State.setHomeDir_sameBytes (s : State) (x : Xl) (d : DirRec) : SameBytes s (s.setHomeDir x d) := by
  unfold State.setHomeDir
  split
  · exact ⟨rfl, rfl, rfl, rfl⟩
  · split
    · exact ⟨rfl, rfl, rfl, rfl⟩
    · split <;> exact ⟨rfl, rfl, rfl, rfl⟩

theorem State.chargeHome_sameBytes (s : State) (x : Xl) (c k : Nat) : SameBytes s (s.chargeHome x c k) := by
  unfold State.chargeHome
  split
  · exact SameBytes.ofStep (State.chargeUnit_step s _ _ _ _ _) (State.chargeUnit_mem s _ _ _ _ _)
  · exact SameBytes.refl s

/-- A load at such a home that is answered gives the line's data. -/
theorem State.homeLoad_pinned {s t : State} {x : Xl} (hx : x.home = 1 ∨ x.home = 3) {c pts : Nat} {d : LineBits} {ts w r : Nat}
    (h : s.homeLoad x c pts none = .done t d ts w r) : d = (s.homeData x c).1 ∧ SameBytes s t := by
  have hdata := ((SameBytes.refl s).homeData hx c c).2
  have hfill : s.fill x c = .here s := by
    unfold State.fill
    exact if_pos hx
  unfold State.homeLoad at h
  dsimp only at h
  split at h
  · cases h
    exact ⟨rfl, hdata.trans ⟨rfl, rfl, rfl, rfl⟩⟩
  · rw [hfill] at h
    dsimp only at h
    split at h
    · cases h
    · split at h
      · cases h
        exact ⟨rfl, hdata.trans (State.chargeHome_sameBytes _ _ _ _)⟩
      · cases h
        exact ⟨rfl, (hdata.trans (State.chargeHome_sameBytes _ _ _ _)).trans (State.setHomeDir_sameBytes _ _ _)⟩

/-- One line of a pinned read. -/
def State.pinLine (s : State) (c pts pa : Nat) : LineBits × State :=
  match s.homeLoad (pinnedXl pa) c pts none with
  | .done t d _ _ _ => (d, t)
  | _ => s.homeData (pinnedXl pa) c

theorem State.pinLine_eq (s : State) (c pts pa : Nat) :
    (s.pinLine c pts pa).1 = (s.homeData (pinnedXl pa) c).1 ∧ SameBytes s (s.pinLine c pts pa).2 := by
  unfold State.pinLine
  split
  · next t d ts w r h => exact State.homeLoad_pinned (pinnedXl_home pa) h
  · exact ⟨rfl, ((SameBytes.refl s).homeData (pinnedXl_home pa) c c).2⟩

theorem State.pinRead_succ (f : Nat) (s : State) (c pts pa n : Nat) :
    (State.pinRead (f + 1) s c pts pa n).1 = if n = 0 then [] else
      ((bytesOfLine (s.pinLine c pts pa).1).drop (pa % 128)).take (inLine pa n)
        ++ (State.pinRead f (s.pinLine c pts pa).2 c pts (pa + inLine pa n) (n - inLine pa n)).1 := by
  rw [State.pinRead]
  split <;> rfl

/-- A pinned read gives the bytes that stand in memory. -/
theorem SameBytes.pinRead (f : Nat) {s u : State} (h : SameBytes s u) (c pts pa n : Nat) :
    (State.pinRead f u c pts pa n).1 = (State.pinRead f s c pts pa n).1 := by
  induction f generalizing s u pa n with
  | zero => rfl
  | succ f ih =>
    obtain ⟨hs, hs2⟩ := s.pinLine_eq c pts pa
    obtain ⟨hu, hu2⟩ := u.pinLine_eq c pts pa
    rw [State.pinRead_succ, State.pinRead_succ, hs, hu, (h.homeData (pinnedXl_home pa) c c).1, ih ((hs2.symm.trans h).trans hu2)]

/-- Two states with the same memories and partition table look the same to a fault unit. -/
theorem State.queue_congr {s u : State} (hm : u.mem = s.mem) (hh : u.hd = s.hd) (p c : Nat) :
    u.queueFull p c = s.queueFull p c ∧ u.queuePend p c = s.queuePend p c := by
  have hb : SameBytes s u := ⟨congrArg Mem.pm hm, congrArg Mem.skey hm, congrArg Mem.sealed hm, congrArg Harbour.keyEpoch hh⟩
  have hread : ∀ base, (State.pinRead 4 u c 0 base 12).1 = (State.pinRead 4 s c 0 base 12).1 := fun base => hb.pinRead 4 c 0 base 12
  have hp : u.part p = s.part p := by rw [State.part, hh]; rfl
  have hdir : u.homeDir = s.homeDir := by
    funext x
    unfold State.homeDir State.l2Look State.slice State.dirOf
    rw [hm]
  have hpend : u.pinPend = s.pinPend := by
    funext pa n
    simp only [State.pinPend, hdir]
  have hhead : ∀ base, (u.ringHead c base 64).1 = (s.ringHead c base 64).1 ∧ (u.ringHead c base 64).2.1 = (s.ringHead c base 64).2.1 := by
    intro base
    unfold State.ringHead
    dsimp only
    rw [hread]
    exact ⟨rfl, rfl⟩
  refine ⟨?_, ?_⟩
  · unfold State.queueFull
    dsimp only
    rw [hp, (hhead _).1, (hhead _).2]
  · unfold State.queuePend State.ringPend
    dsimp only
    rw [hp, (hhead _).1, hpend]

/-! ## Records that wait (R271) -/

theorem State.faultUnit_modFault (s : State) (p : Nat) (g : FaultUnit → FaultUnit) : (s.modFault p g).faultUnit p = g (s.faultUnit p) :=
  Map.get_set_same _ _ _ _

theorem State.waitXlate_modFault (s : State) (p : Nat) (g : FaultUnit → FaultUnit) :
    ((s.modFault p g).faultUnit p).waitXlate = (g (s.faultUnit p)).waitXlate := by rw [State.faultUnit_modFault]

theorem State.waitPend_modFault (s : State) (p : Nat) (g : FaultUnit → FaultUnit) :
    ((s.modFault p g).faultUnit p).waitPend = (g (s.faultUnit p)).waitPend := by rw [State.faultUnit_modFault]

/-- The records that wait at a fault unit are the same. -/
def SameWaits (p : Nat) (s u : State) : Prop :=
  (u.faultUnit p).waitXlate = (s.faultUnit p).waitXlate ∧ (u.faultUnit p).waitPend = (s.faultUnit p).waitPend

theorem SameWaits.trans {p : Nat} {s u v : State} (h : SameWaits p s u) (k : SameWaits p u v) : SameWaits p s v :=
  ⟨k.1.trans h.1, k.2.trans h.2⟩

theorem SameWaits.ofMem {p : Nat} {s u : State} (h : MemStep s u) : SameWaits p s u := by
  have hf : u.hd.faults = s.hd.faults := (congrArg Harbour.faults h.hd :)
  rw [SameWaits, State.faultUnit, hf]
  exact ⟨rfl, rfl⟩

/-- A change of a fault unit that leaves its waiting records alone. -/
theorem SameWaits.modFault {p : Nat} (s : State) {g : FaultUnit → FaultUnit} (hx : ∀ u, (g u).waitXlate = u.waitXlate)
    (hp : ∀ u, (g u).waitPend = u.waitPend) : SameWaits p s (s.modFault p g) :=
  ⟨(s.waitXlate_modFault p g).trans (hx _), (s.waitPend_modFault p g).trans (hp _)⟩

theorem SameWaits.after (p : Nat) (s : State) (n : Nat) (i : Instr) (e : EvArg) : SameWaits p s (s.after n i e) := ⟨rfl, rfl⟩

theorem SameWaits.stopBerth (p : Nat) (s : State) (stop : Option (Nat × Nat)) : SameWaits p s (s.stopBerth stop) := by
  unfold State.stopBerth
  split <;> exact ⟨rfl, rfl⟩

theorem SameWaits.routeRecord (p : Nat) (s : State) (r : FaultRec) : SameWaits p s (s.routeRecord p r) := by
  unfold State.routeRecord
  dsimp only
  split
  · refine SameWaits.trans ?_ (SameWaits.after p _ _ _ _)
    exact SameWaits.modFault s (fun _ => rfl) (fun _ => rfl)
  · exact ⟨rfl, rfl⟩

theorem State.ringLost_step (s : State) (c base lost : Nat) : MemStep s (s.ringLost c base lost) := by
  unfold State.ringLost
  exact State.pinWrite_step _ _ _ _ _ _

theorem State.ringPut_step (s : State) (c base n e prod cts : Nat) (bs : List Byte) :
    MemStep s (s.ringPut c base n e prod cts bs).1 := by
  unfold State.ringPut
  dsimp only
  exact (State.pinWrite_step _ _ _ _ _ _).trans (State.pinWrite_step _ _ _ _ _ _)

theorem State.ringHead_step (s : State) (c base n : Nat) : MemStep s (s.ringHead c base n).2.2.2 := State.pinRead_step 4 s c 0 base 12

theorem SameWaits.postNow (p : Nat) (s : State) (r : FaultRec) (stop : Option (Nat × Nat)) : SameWaits p s (s.postNow p r stop) := by
  have hread : SameWaits p s (s.ringHead r.vf.toNat (s.part p).fqbase 64).2.2.2 := SameWaits.ofMem (s.ringHead_step _ _ _)
  unfold State.postNow
  dsimp only
  split
  · exact hread.trans (SameWaits.ofMem (State.ringLost_step _ _ _ _))
  · refine SameWaits.trans ?_ (SameWaits.routeRecord p _ _)
    refine SameWaits.trans ?_ (SameWaits.stopBerth p _ stop)
    refine SameWaits.trans ?_ (SameWaits.modFault _ (fun _ => rfl) (fun _ => rfl))
    exact hread.trans (SameWaits.ofMem (State.ringPut_step _ _ _ _ _ _ _ _))

/-- The records that wait for room are posted from the first on, up to one for which there is none, or whose line is PEND. -/
theorem State.postWaits_stops {p : Nat} {l : List FaultRec} {s : State} (h : (s.faultUnit p).waitXlate = l) :
    ((s.postWaits p l).faultUnit p).waitXlate <:+ l ∧ ((s.postWaits p l).faultUnit p).waitPend = (s.faultUnit p).waitPend
      ∧ ∀ q r, ((s.postWaits p l).faultUnit p).waitXlate = q :: r →
          (s.postWaits p l).queueFull p q.vf.toNat = true ∨ (s.postWaits p l).queuePend p q.vf.toNat = true := by
  induction l generalizing s with
  | nil => exact ⟨⟨[], h⟩, rfl, fun q r hq => absurd (h.symm.trans hq) (by simp)⟩
  | cons r rest ih =>
    by_cases hc : (s.queueFull p r.vf.toNat || s.queuePend p r.vf.toNat) = true
    · have hs : s.postWaits p (r :: rest) = s := if_pos hc
      rw [hs]
      refine ⟨⟨[], h⟩, rfl, fun q l hq => ?_⟩
      obtain ⟨rfl, -⟩ := List.cons.inj (h.symm.trans hq)
      exact Bool.or_eq_true_iff.mp hc
    · let s1 := (s.modFault p fun v => { v with waitXlate := rest }).postNow p r none
      have hs : s.postWaits p (r :: rest) = s1.postWaits p rest := if_neg hc
      have hw := SameWaits.postNow p (s.modFault p fun v => { v with waitXlate := rest }) r none
      obtain ⟨hsuf, hpend, hstop⟩ := ih (hw.1.trans (State.waitXlate_modFault s p _))
      rw [hs]
      refine ⟨hsuf.trans (List.suffix_cons r rest), hpend.trans (hw.2.trans (State.waitPend_modFault s p _)), hstop⟩

theorem State.joinXlate_waitPend (s : State) (p : Nat) (r : FaultRec) :
    ((s.joinXlate p r).faultUnit p).waitPend = (s.faultUnit p).waitPend :=
  (State.postWaits_stops (State.waitXlate_modFault s p _)).2.1.trans (State.waitPend_modFault s p _)

/-- The records that came while the ring was PEND are posted from the first on. -/
theorem State.postPend_suffix {p : Nat} {l : List (FaultRec × Option (Nat × Nat))} {s : State} (h : (s.faultUnit p).waitPend = l) :
    ((s.postPend p l).faultUnit p).waitPend <:+ l
      ∧ ∀ e rest, l = e :: rest → s.queuePend p e.1.vf.toNat = false → ((s.postPend p l).faultUnit p).waitPend <:+ rest := by
  induction l generalizing s with
  | nil => exact ⟨⟨[], h⟩, fun _ _ he => absurd he (by simp)⟩
  | cons e rest ih =>
    by_cases hc : s.queuePend p e.1.vf.toNat = true
    · have hs : s.postPend p (e :: rest) = s := if_pos hc
      refine ⟨by rw [hs, h], fun e' rest' he hn => ?_⟩
      obtain ⟨rfl, -⟩ := List.cons.inj he
      rw [hc] at hn
      cases hn
    · let s1 := s.modFault p fun v => { v with waitPend := rest }
      let s2 := if e.1.recov then s1.joinXlate p e.1 else s1.postNow p e.1 e.2
      have hs : s.postPend p (e :: rest) = s2.postPend p rest := if_neg hc
      have h1 : (s1.faultUnit p).waitPend = rest := State.waitPend_modFault s p _
      have h2 : (s2.faultUnit p).waitPend = rest := by
        change ((if e.1.recov then s1.joinXlate p e.1 else s1.postNow p e.1 e.2).faultUnit p).waitPend = rest
        split
        · exact (s1.joinXlate_waitPend p e.1).trans h1
        · exact (SameWaits.postNow p s1 e.1 e.2).2.trans h1
      have hsuf := (ih h2).1
      rw [hs]
      refine ⟨hsuf.trans (List.suffix_cons e rest), fun e' rest' he _ => ?_⟩
      obtain ⟨rfl, rfl⟩ := List.cons.inj he
      exact hsuf

/-- The waiting records are looked at: the state when none can go, and whether the unit looks again. -/
def State.lookedWaits (s : State) (p : Nat) : State :=
  (s.postWaits p (s.faultUnit p).waitXlate).postPend p ((s.postWaits p (s.faultUnit p).waitXlate).faultUnit p).waitPend

theorem State.postWaiting_eq (s : State) (p : Nat) :
    s.postWaiting p = if ((s.lookedWaits p).faultUnit p).waitXlate = [] ∧ ((s.lookedWaits p).faultUnit p).waitPend = []
      then s.lookedWaits p else (s.lookedWaits p).after 1 .xlateRecordPost { a := p } := rfl

/-- The unit, the memories and the queue are those of the state when no record can go. -/
theorem State.postWaiting_same (s : State) (p : Nat) :
    (s.postWaiting p).faultUnit p = (s.lookedWaits p).faultUnit p ∧ (s.postWaiting p).mem = (s.lookedWaits p).mem
      ∧ (s.postWaiting p).hd = (s.lookedWaits p).hd := by
  rw [State.postWaiting_eq]
  split <;> exact ⟨rfl, rfl, rfl⟩

/-- Only recoverable records wait: they are posted until the queue is full or its line PEND. -/
theorem State.postWaiting_xlate {s : State} {p : Nat} {r : FaultRec} {rest : List FaultRec} (hx : (s.faultUnit p).waitXlate = r :: rest)
    (hp : (s.faultUnit p).waitPend = []) (hnp : s.queuePend p r.vf.toNat = false) (hnf : s.queueFull p r.vf.toNat = false) :
    ((s.postWaiting p).faultUnit p).waitXlate <:+ rest
      ∧ ∀ q l, ((s.postWaiting p).faultUnit p).waitXlate = q :: l →
          (s.postWaiting p).queueFull p q.vf.toNat = true ∨ (s.postWaiting p).queuePend p q.vf.toNat = true := by
  obtain ⟨-, hpend, hstop⟩ := State.postWaits_stops hx
  have hlook : s.lookedWaits p = s.postWaits p (r :: rest) := by
    rw [State.lookedWaits, hx, hpend, hp]
    rfl
  obtain ⟨hu, hm, hh⟩ := s.postWaiting_same p
  rw [hlook] at hu hm hh
  refine ⟨?_, fun q l hq => ?_⟩
  · rw [hu]
    let s1 := (s.modFault p fun v => { v with waitXlate := rest }).postNow p r none
    have hs : s.postWaits p (r :: rest) = s1.postWaits p rest := if_neg (by rw [hnp, hnf]; simp)
    rw [hs]
    exact (State.postWaits_stops ((SameWaits.postNow p _ r none).1.trans (State.waitXlate_modFault s p _))).1
  · rw [hu] at hq
    obtain ⟨hf, hd⟩ := State.queue_congr hm hh p q.vf.toNat
    rw [hf, hd]
    exact hstop q l hq

/-- Only records of the ring's PEND lines wait: while the line is PEND they stay, and the unit looks again. -/
theorem State.postWaiting_pend {s : State} {p : Nat} {e : FaultRec × Option (Nat × Nat)} {rest : List (FaultRec × Option (Nat × Nat))}
    (hx : (s.faultUnit p).waitXlate = []) (hp : (s.faultUnit p).waitPend = e :: rest) :
    (s.queuePend p e.1.vf.toNat = true → ((s.postWaiting p).faultUnit p).waitPend = e :: rest ∧ (s.postWaiting p).mem = s.mem
        ∧ (s.now + 1, Instr.xlateRecordPost, ({ a := p } : EvArg)) ∈ (s.postWaiting p).agenda)
      ∧ (s.queuePend p e.1.vf.toNat = false → ((s.postWaiting p).faultUnit p).waitPend <:+ rest) := by
  have hlook : s.lookedWaits p = s.postPend p (e :: rest) := by
    rw [State.lookedWaits, hx, State.postWaits, hp]
  obtain ⟨hu, hm, -⟩ := s.postWaiting_same p
  refine ⟨fun hc => ?_, fun hc => ?_⟩
  · have hs : s.lookedWaits p = s := hlook.trans (if_pos hc)
    rw [hs] at hu hm
    refine ⟨by rw [hu, hp], hm, ?_⟩
    rw [State.postWaiting_eq, hs, if_neg (by rw [hp]; simp)]
    exact State.mem_after s 1 _ _
  · rw [hu, hlook]
    exact (State.postPend_suffix hp).2 e rest rfl hc

end Sys2Proof.Machine
end

section
/-! PROOF. Tokens, credits and admission: the steps of the family, assembled. -/

namespace Sys2Proof.Machine

theorem flights_drop_same (m : Map Flight) (id : Nat) : (m.drop id).look id = none := by rw [Map.look_drop, if_pos rfl]

theorem State.freeCredit_acct (s : State) (t chan crep v : Nat) : (s.freeCredit t chan crep).acct v = s.acct v := by
  unfold State.freeCredit
  split <;> rfl

theorem State.run_modRun_same (s : State) (t k : Nat) (g : BerthRun → BerthRun) : (s.modRun t k g).run t k = g (s.run t k) :=
  (congrArg (fun x : Tile => x.runs.get {} k) (State.tileAt_modTile_same s t _)).trans (Map.get_set_same _ _ _ _)

/-- What an arrival of a stale token leaves: the flight gone, the tokens in their places, one more DROP (R38). -/
theorem State.arrive_stale_counts {s : State} {id : Nat} {fl : Flight} {c : ChanCfg} (hf : s.net.flights.look id = some fl)
    (hl : fl.legs = []) (hc : s.chan fl.chan = some c)
    (h : c.part ≠ agentPart ∧ fl.tok.gen ≠ (s.vf fl.tok.ctx.toNat).gen) :
    (s.arrive id).net.flights.look id = none ∧ (∀ t, ((s.arrive id).tileAt t).wait = (s.tileAt t).wait)
      ∧ ((s.arrive id).acct fl.tok.ctx.toNat).drop = Nat.min 0xFFFFFFFF ((s.acct fl.tok.ctx.toNat).drop + 1) := by
  rw [State.arrive_stale hf hl hc h]
  refine ⟨?_, fun t => ?_, ?_⟩
  · rw [State.freeCredit_flights]
    exact flights_drop_same _ _
  · rw [State.freeCredit_tileAt]
    rfl
  · rw [State.freeCredit_acct]
    exact congrArg Acct.drop (Map.get_set_same _ _ _ _)

/-- The firing that an admission makes (R25, R26). -/
theorem State.admitNext_firing {s : State} {t k : Nat} (ha : s.admits t = some k) :
    ∃ ins rs n slot, s.ready t k = some (ins, rs, n) ∧ s.freeSlot t = some slot
      ∧ (s.admitNext t).firing t slot = some (s.newFiring t k (ins.map fun e => (e.1, e.2.map (s.tileAt t).operand)) rs n)
      ∧ ∀ w ∈ ((s.admitNext t).tileAt t).wait, (∃ e ∈ ins, ∃ y ∈ e.2, y.id = w.id) → w.bound = true := by
  obtain ⟨ins, rs, n, slot, hr, hs⟩ := State.ready_of_admits ha
  obtain ⟨m, hm⟩ := State.admitNext_tile ha hr hs
  refine ⟨ins, rs, n, slot, hr, hs, ?_, fun w hw ht => ?_⟩
  · rw [State.firing, hm]
    exact Map.look_put_same _ _ _
  · rw [hm] at hw
    exact bound_of_taken hw ht

/-- Settles O47: each event is the step its name says, and that step is looked up in the lemmas of the family. -/
theorem tokenEvents : Obligations.TokenEvents := by
  unfold Obligations.TokenEvents
  intro s a b goes x
  refine ⟨fun fl c hev hf hc hl => ⟨fun hst => ?_, fun hfresh t k p hd => ?_⟩, fun fl r hev hf hc hl hr => ?_, fun ts r hq => ?_,
    fun w hw => ⟨fun hs hn => ?_, fun hs hn => ?_, fun k hs hk hp hn => ?_⟩, fun w hw hp hb hfr => ?_,
    fun c hc hp => ⟨fun hr hev => ?_, fun n r hev => ?_⟩, fun c hc hp hev => ?_, fun k ha => ?_, ?_,
    fun r rest ch c hc h0 => ⟨fun hi hq he => ?_, fun hi hb hq he => ?_⟩,
    fun r rest hx hp hnp hnf => ?_, fun e rest hx hp => ⟨fun hc => ?_, fun hc => ?_⟩⟩
  · exact ⟨_, exec_tokenArrival hev, State.arrive_stale_counts hf hl hc hst⟩
  · have hland := State.land_berth (s := s.modNet fun w => { w with flights := w.flights.drop a }) (fl := fl) hd
    refine ⟨_, exec_tokenArrival hev, ?_⟩
    rw [State.arrive_fresh hf hl hc hfresh]
    exact ⟨(congrArg (fun m : Map Flight => m.look a) hland.1).trans (flights_drop_same _ _), hland.2⟩
  · refine ⟨_, exec_tokenArrival hev, ?_⟩
    rw [State.arrive_ray hf hl hc hr]
    exact ⟨flights_drop_same _ _, State.mem_after (s.modNet fun w => { w with flights := w.flights.drop s.ev.a }) 0 _ _⟩
  · exact ⟨_, rfl, State.takeControl_tile hq⟩
  · exact ⟨_, rfl, State.placeOperands_store hw hs hn⟩
  · exact ⟨_, rfl, State.placeOperands_late hw hs hn⟩
  · exact ⟨_, rfl, State.placeOperands_spill hw hs hk hp hn⟩
  · exact ⟨_, rfl, State.poolTimeout_discards hw hp hb hfr⟩
  · exact ⟨_, exec_creditReturn_freed hev, State.creditBack_credits hc hp hr⟩
  · exact ⟨_, exec_creditReturn_unused hev, State.creditUnused_credits hc hp n⟩
  · rw [exec_creditReturn_freed hev, State.creditBack_gone hc hp]
  · obtain ⟨ins, rs, n, slot, hr, hs, hf, hbound⟩ := State.admitNext_firing ha
    obtain ⟨hlast, hall⟩ := s.newFiring_pts a k ins rs n x.operand
    exact ⟨ins, rs, n, slot, hr, hs, _, rfl, _, hf, rfl, rfl, rfl, rfl, rfl, rfl, rfl, hlast, hall, hbound⟩
  · exact ⟨_, rfl, congrArg BerthRun.backoff (State.run_modRun_same s a b _)⟩
  · exact ⟨_, rfl, State.faultSend_edge hc h0 hi hq he⟩
  · refine ⟨s.faultSend a b, rfl, ?_⟩
    rw [hi, hb]
    exact State.faultSend_intake hc h0 hq he
  · exact ⟨_, rfl, State.postWaiting_xlate hx hp hnp hnf⟩
  · exact ⟨_, rfl, (State.postWaiting_pend hx hp).1 hc⟩
  · exact ⟨_, rfl, (State.postWaiting_pend hx hp).2 hc⟩

end Sys2Proof.Machine
end

section
/-! PROOF. Lanes, links, walks that end and shared units (R48, R275, R276, R279, R309, R370). -/

namespace Sys2Proof.Machine

/-! ## Folds over maps and states -/

/-- A fold that changes one key of a map for each number below `n`, no key twice. -/
theorem Map.get_foldl_range {α : Type} [DecidableEq α] {d : α} {key : Nat → Nat} (hkey : ∀ i j, key i = key j → i = j)
    (g : Nat → α → α) (m : Map α) (n v : Nat) :
    ((List.range n).foldl (fun (m : Map α) i => m.set d (key i) (g i (m.get d (key i)))) m).get d (key v)
      = if v < n then g v (m.get d (key v)) else m.get d (key v) := by
  induction n with
  | zero => rfl
  | succ n ih =>
    rw [List.range_succ, List.foldl_append]
    by_cases hv : v = n
    · subst hv
      rw [if_pos (Nat.lt_succ_self v)]
      refine (Map.get_set_same ..).trans (congrArg (g v) ?_)
      rw [ih, if_neg (Nat.lt_irrefl v)]
    · refine (Map.get_set_other _ _ _ fun h => hv (hkey v n h)).trans (ih.trans ?_)
      by_cases h : v < n
      · rw [if_pos h, if_pos (Nat.lt_succ_of_lt h)]
      · rw [if_neg h, if_neg (by omega)]

/-- A key that the fold does not change. -/
theorem Map.get_foldl_range_other {α : Type} [DecidableEq α] {d : α} {key : Nat → Nat} (g : Nat → α → α) (m : Map α) {n j : Nat}
    (hj : ∀ i, i < n → j ≠ key i) :
    ((List.range n).foldl (fun (m : Map α) i => m.set d (key i) (g i (m.get d (key i)))) m).get d j = m.get d j := by
  induction n with
  | zero => rfl
  | succ n ih =>
    rw [List.range_succ, List.foldl_append]
    exact (Map.get_set_other _ _ _ (hj n (Nat.lt_succ_self n))).trans (ih fun i hi => hj i (Nat.lt_succ_of_lt hi))

/-- What one step of a fold makes due stays due, where every step keeps the queues between the tiles and what is due. -/
theorem Effect.foldl_due {β : Type} {g : State → β → State} (h : ∀ s e, Effect true true s (g s e)) {P : Nat × Instr × EvArg → Prop}
    {l : List β} {x : β} (hx : x ∈ l) (s : State) (hp : ∀ u : State, u.net = s.net → ∃ e ∈ (g u x).agenda, P e) :
    ∃ e ∈ (l.foldl g s).agenda, P e := by
  induction l generalizing s with
  | nil => cases hx
  | cons y r ih =>
    rcases List.mem_cons.mp hx with rfl | hr
    · obtain ⟨e, he, hpe⟩ := hp s rfl
      exact ⟨e, (Effect.foldl h r (g s x)).agenda e he, hpe⟩
    · exact ih hr (g s y) fun u hu => hp u (hu.trans ((h s y).net rfl))

/-! ## Lanes (R279) -/

theorem State.tlane_modLane_same (s : State) (l : Nat) (g : Lane → Lane) : (s.modLane l g).tlane l = g (s.tlane l) := Map.get_set_same _ _ _ _

theorem Effect.tlane {a : Bool} {s u : State} (h : Effect a true s u) (l : Nat) : u.tlane l = s.tlane l := by
  rw [State.tlane, h.net rfl]
  rfl

theorem Effect.markLink {a b : Bool} (s : State) (l c : Nat) : Effect a b s (s.markLink l c) := by
  unfold State.markLink
  exact Effect.ite (Effect.modHd s rfl) (Effect.refl s)

theorem Effect.crossToken {a b : Bool} (s : State) (l id : Nat) : Effect a b s (s.crossToken l id) := by
  unfold State.crossToken
  split
  · exact Effect.refl s
  · exact (Effect.markLink s _ _).trans (Effect.atFc _ _ _ _)

/-- A token that crosses a lane arrives. -/
theorem State.crossToken_due {s : State} {id : Nat} (h : (s.net.flights.look id).isSome = true) (l : Nat) :
    ∃ e ∈ (s.crossToken l id).agenda, ∃ n, e = (n, Instr.tokenArrival, ({ a := id } : EvArg)) := by
  obtain ⟨fl, hfl⟩ := Option.isSome_iff_exists.mp h
  unfold State.crossToken
  rw [hfl]
  exact ⟨_, (mem_insertDue ..).mpr (Or.inl rfl), _, rfl⟩

/-- The tokens that a lane sends on a virtual channel: up to 4 that nothing holds. -/
def State.laneGo (s : State) (l v : Nat) : List Nat := (((s.tlane l).vcs.get [] v).filter fun id => !s.laneHeld id).take 4

/-- The tokens of a lane's round have crossed. -/
def State.crossRound (s : State) (l : Nat) : State :=
  (List.range 8).foldl (fun a v => (s.laneGo l v).foldl (fun (b : State) id => b.crossToken l id) a) s

theorem Effect.crossRound {a b : Bool} (s : State) (l : Nat) : Effect a b s (s.crossRound l) :=
  Effect.foldl (fun u v => Effect.foldl (fun w id => Effect.crossToken w l id) (s.laneGo l v) u) _ s

/-- The virtual channels of a lane without the tokens of its round. -/
def State.unsentVcs (s : State) (l : Nat) (q : Map (List Nat)) : Map (List Nat) :=
  (List.range 8).foldl (fun m v => m.set [] v ((m.get [] v).filter fun id => !(s.laneGo l v).contains id)) q

/-- A lane once its round is sent. -/
def State.sentLane (s : State) (l : Nat) (y : Lane) : Lane :=
  { y with
    vcs := s.unsentVcs l y.vcs
    sentMarker := true
    owing := y.owing ++ ((List.range 8).filter fun v => !(s.laneGo l v).isEmpty).map fun v => 8 * y.round + v }

theorem State.sentLane_round (s : State) (l : Nat) (y : Lane) : (s.sentLane l y).round = y.round := by
  simp only [State.sentLane]

theorem State.sentLane_vcs (s : State) (l : Nat) (y : Lane) : (s.sentLane l y).vcs = s.unsentVcs l y.vcs := by
  simp only [State.sentLane]

theorem State.sentLane_owing (s : State) (l : Nat) (y : Lane) : (s.sentLane l y).owing
    = y.owing ++ ((List.range 8).filter fun v => !(s.laneGo l v).isEmpty).map fun v => 8 * y.round + v := by
  simp only [State.sentLane]

section
variable {s : State} {l : Nat}

theorem State.sendRound_down (h : s.laneUp l = false) : s.sendRound l = s.after 1 .roundMarkerSend { a := l } := by
  unfold State.sendRound
  simp only [h]
  rfl

theorem State.sendRound_up (h : s.laneUp l = true) (hm : (s.tlane l).sentMarker = false) :
    s.sendRound l = (((s.crossRound l).modLane l (s.sentLane l)).after (laneCross l) .laneRoundAdvance
      { a := l, b := 1, c := (s.tlane l).round }).after 1 .laneRoundAdvance { a := l } := by
  unfold State.sendRound
  simp only [h, hm]
  rfl

/-- Past its tokens, a lane's round changes that lane only. -/
theorem State.sendRound_lane (h : s.laneUp l = true) (hm : (s.tlane l).sentMarker = false) :
    (s.sendRound l).tlane l = s.sentLane l (s.tlane l) := by
  rw [State.sendRound_up h hm]
  refine (State.tlane_modLane_same _ l _).trans ?_
  rw [(Effect.crossRound (a := true) s l).tlane]

theorem State.sendRound_arrivals (h : s.laneUp l = true) (hm : (s.tlane l).sentMarker = false) {v id : Nat} (hv : v < 8)
    (hid : id ∈ s.laneGo l v) (hf : (s.net.flights.look id).isSome = true) :
    ∃ n, (n, Instr.tokenArrival, ({ a := id } : EvArg)) ∈ (s.sendRound l).agenda := by
  obtain ⟨e, he, n, rfl⟩ := Effect.foldl_due
    (g := fun (a : State) v => (s.laneGo l v).foldl (fun (b : State) id => b.crossToken l id) a)
    (fun u v => Effect.foldl (fun w id => Effect.crossToken w l id) (s.laneGo l v) u) (List.mem_range.mpr hv) s
    fun u hu => Effect.foldl_due (fun w id => Effect.crossToken w l id) hid u fun w hw =>
      State.crossToken_due (by rw [hw, hu]; exact hf) l
  refine ⟨n, ?_⟩
  rw [State.sendRound_up h hm]
  exact State.mem_after_of_mem _ 1 _ _ (State.mem_after_of_mem _ (laneCross l) _ _ he)

end

theorem State.unsentVcs_get (s : State) (l : Nat) (q : Map (List Nat)) {v : Nat} (hv : v < 8) :
    (s.unsentVcs l q).get [] v = (q.get [] v).filter fun id => !(s.laneGo l v).contains id := by
  unfold State.unsentVcs
  have h := Map.get_foldl_range (d := []) (key := fun i => i) (fun _ _ h => h) (fun v q => q.filter fun id => !(s.laneGo l v).contains id)
    q 8 v
  beta_reduce at h
  rw [h, if_pos hv]

/-- What a lane is once its round is sent, and what of it is due. -/
theorem State.sendRound_spec {s : State} {l : Nat} (h : s.laneUp l = true) (hm : (s.tlane l).sentMarker = false) :
    ((s.sendRound l).tlane l).sentMarker = true ∧ ((s.sendRound l).tlane l).round = (s.tlane l).round
      ∧ (∀ v, v < 8 → s.laneGo l v ≠ [] → 8 * (s.tlane l).round + v ∈ ((s.sendRound l).tlane l).owing)
      ∧ (∀ v, v < 8 → ((s.sendRound l).tlane l).vcs.get [] v
          = ((s.tlane l).vcs.get [] v).filter fun id => !(s.laneGo l v).contains id)
      ∧ ∀ v, v < 8 → ∀ id ∈ s.laneGo l v, (s.net.flights.look id).isSome = true →
        ∃ n, (n, Instr.tokenArrival, ({ a := id } : EvArg)) ∈ (s.sendRound l).agenda := by
  rw [State.sendRound_lane h hm]
  refine ⟨rfl, State.sentLane_round _ _ _, fun v hv hne => ?_, fun v hv => ?_, fun v hv id hid hf => State.sendRound_arrivals h hm hv hid hf⟩
  · rw [State.sentLane_owing]
    refine List.mem_append_right _ (List.mem_map.mpr ⟨v, List.mem_filter.mpr ⟨List.mem_range.mpr hv, ?_⟩, rfl⟩)
    simpa using hne
  · rw [State.sentLane_vcs]
    exact s.unsentVcs_get l _ hv

/-- The marker of a round has crossed: the lanes that may go on look, and this one is as it was but for what it owes. -/
theorem State.markerCrossed_lane (s : State) (l n : Nat) :
    (s.markerCrossed l n).tlane l = { s.tlane l with crossed := n + 1, owing := (s.tlane l).owing.filter fun o => decide (n < o / 8) } := by
  unfold State.markerCrossed
  dsimp only
  rw [(Effect.foldl (a := true) (b := true) (fun u e => Effect.after u 0 _ _) _ _).tlane]
  exact State.tlane_modLane_same s l _

theorem State.advanceLane_lane {s : State} {l : Nat} (hm : (s.tlane l).sentMarker = true)
    (h : ∀ f ∈ (s.tlane l).feeds, (s.tlane l).round < (s.tlane f).crossed) :
    (s.advanceLane l).tlane l = { s.tlane l with round := (s.tlane l).round + 1, sentMarker := false } := by
  have hlate : ((s.tlane l).feeds.filter fun f => decide ((s.tlane f).crossed ≤ (s.tlane l).round)) = [] := by
    refine List.filter_eq_nil_iff.mpr fun f hf => ?_
    have := h f hf
    simp only [decide_eq_true_eq]
    omega
  unfold State.advanceLane
  simp only [hm, hlate, Bool.not_true, Bool.false_eq_true, if_false, if_true]
  have hsame := State.tlane_modLane_same s l fun y => { y with round := y.round + 1, sentMarker := false }
  split
  · exact hsame
  · exact hsame

/-! ## Links (R370) -/

theorem State.port_modPort_same (s : State) (p : Nat) (g : Port → Port) :
    (s.modPort p g).net.ports.get {} p = g (s.net.ports.get {} p) := Map.get_set_same _ _ _ _

/-- Lost tokens are nowhere, and their port retrains. -/
theorem State.loseTokens_gone (s : State) (p : Nat) (ids : List Nat) :
    (∀ id ∈ ids, (s.loseTokens p ids).net.flights.look id = none) ∧ ((s.loseTokens p ids).net.ports.get {} p).trained = false
      ∧ (s.now + 1, Instr.portRetrain, ({ a := p } : EvArg)) ∈ (s.loseTokens p ids).agenda := by
  unfold State.loseTokens
  dsimp only
  generalize List.eraseDups (α := Nat) _ = parts
  generalize hw : State.modNet s _ = s1
  have hs2 := Effect.foldl (a := true) (b := true) (fun (u : State) q =>
    Effect.postRecord u q (linkRecord (u.part q).occ (u.vf (u.part q).occ).gen.toNat 0) none) parts s1
  generalize List.foldl _ s1 parts = s2 at hs2
  have hnow : s2.now = s.now := hs2.now.trans (by rw [← hw]; rfl)
  refine ⟨fun id hid => ?_, (congrArg Port.trained (State.port_modPort_same s2 p fun x => { x with trained := false }) :), ?_⟩
  · refine (congrArg (fun w : Net => w.flights.look id) (hs2.net rfl)).trans ?_
    rw [← hw]
    refine (Map.look_filter_key (fun k => !ids.contains k) s.net.flights id).trans ?_
    rw [List.contains_iff_mem.mpr hid]
    rfl
  · rw [← hnow]
    exact State.mem_after (s2.modPort p _) 1 _ _

/-! ## Units (R275, R276) -/

theorem dropFirst_split {q : List (Nat × Nat)} {v : Nat} {r : Nat × Nat} (h : q.find? (fun e => decide (e.1 = v)) = some r) :
    ∃ p t, q = p ++ r :: t ∧ (∀ y ∈ p, y.1 ≠ v) ∧ dropFirst v q = p ++ t := by
  induction q with
  | nil => cases h
  | cons e q ih =>
    by_cases he : e.1 = v
    · rw [List.find?_cons_of_pos (by simpa using he)] at h
      cases h
      exact ⟨[], q, rfl, nofun, if_pos he⟩
    · rw [List.find?_cons_of_neg (by simpa using he)] at h
      obtain ⟨p, t, rfl, hp, hd⟩ := ih h
      refine ⟨e :: p, t, rfl, fun y hy => ?_, (if_neg he).trans (congrArg (e :: ·) hd)⟩
      rcases List.mem_cons.mp hy with rfl | hy
      · exact he
      · exact hp y hy

/-- A unit's queue once a request of account `v` has its slot. -/
def State.servedQueue (s : State) (unit v : Nat) (q : List (Nat × Nat)) : State :=
  s.modHd fun h =>
    { h with
      unitq := h.unitq.set [] unit (dropFirst v q)
      unitRr := if (decide (v < 128) && !s.ownsSlot unit v) = true then h.unitRr.set 0 unit ((v + 1) % 128) else h.unitRr }

theorem State.serveRequest_hd (s : State) (req : Nat) : (s.serveRequest req).hd = s.hd := by
  unfold State.serveRequest
  split <;> rfl

/-- A unit serves the first request of the account that its slot is for. -/
theorem State.serveUnit_served {s : State} {unit v : Nat} {r : Nat × Nat}
    (hv : s.slotAccount unit (s.now % 256) (s.hd.unitq.get [] unit) = some v)
    (hr : (s.hd.unitq.get [] unit).find? (fun q => decide (q.1 = v)) = some r) :
    (s.serveUnit unit).hd = (s.servedQueue unit v (s.hd.unitq.get [] unit)).hd
      ∧ ∀ e ∈ ((s.servedQueue unit v (s.hd.unitq.get [] unit)).serveRequest r.2).agenda, e ∈ (s.serveUnit unit).agenda := by
  have hu : s.serveUnit unit = if ((((s.servedQueue unit v (s.hd.unitq.get [] unit)).serveRequest r.2).hd.unitq.get [] unit).isEmpty) = true
      then (s.servedQueue unit v (s.hd.unitq.get [] unit)).serveRequest r.2
      else ((s.servedQueue unit v (s.hd.unitq.get [] unit)).serveRequest r.2).after 1 .unitSlotService { a := unit } := by
    unfold State.serveUnit
    simp only [hv, hr]
    rfl
  have hh := (s.servedQueue unit v (s.hd.unitq.get [] unit)).serveRequest_hd r.2
  rw [hu]
  split
  · exact ⟨hh, fun e he => he⟩
  · exact ⟨hh, fun e he => State.mem_after_of_mem _ 1 _ _ he⟩

theorem State.serveRequest_due {s : State} {req : Nat} {f : Firing} {j : Job} {o : LineOp} {x : Xl}
    (h : s.atHome (req / 8) (req % 8) = some (f, j, o, x)) :
    (s.now, homeEvent o x, ({ a := req / 8, b := req % 8 } : EvArg)) ∈ (s.serveRequest req).agenda := by
  unfold State.serveRequest
  rw [h]
  exact State.mem_after s 0 _ _

/-- A written table stands whole, and those of the other units as they were. -/
theorem State.switchTide_entries (s : State) (unit : Nat) :
    (∀ c, c < 256 → (s.switchTide unit).tideEntry unit c = s.hd.tideNext.get 0 (unit * 256 + c))
      ∧ ∀ n c, n ≠ unit → c < 256 → (s.switchTide unit).tideEntry n c = s.tideEntry n c := by
  refine ⟨fun c hc => ?_, fun n c hn hc => ?_⟩ <;> unfold State.tideEntry State.switchTide State.modHd <;> dsimp only
  · have h := Map.get_foldl_range (d := 0) (key := fun i => unit * 256 + i) (fun i j h => by omega)
      (fun i _ => s.hd.tideNext.get 0 (unit * 256 + i)) s.hd.tide 256 c
    beta_reduce at h
    rw [h, if_pos hc]
  · have h := Map.get_foldl_range_other (d := 0) (key := fun i => unit * 256 + i) (n := 256) (j := n * 256 + c)
      (fun i _ => s.hd.tideNext.get 0 (unit * 256 + i)) s.hd.tide fun i hi h => by omega
    beta_reduce at h
    rw [h]

/-! ## Invalidations (R308) -/

section
variable {s : State} {id : Nat} {i : Inval} (h : s.hd.invals.look id = some i)
include h

theorem State.endInval_waits (hw : i.waits.filter s.stillWaits ≠ []) :
    (s.now + 1, Instr.invalidationComplete, ({ a := id } : EvArg)) ∈ (s.endInval id).agenda := by
  unfold State.endInval
  rw [h]
  dsimp only
  rw [if_pos (by simpa using hw)]
  exact State.mem_after (s.modHd _) 1 _ _

theorem State.endInval_done (hw : i.waits.filter s.stillWaits = []) :
    s.endInval id = match i.host with
      | some v => (s.modHd fun h => { h with invals := h.invals.drop id }).modBar v fun b => { b with tlbbusy := false }
      | none => (s.modHd fun h => { h with invals := h.invals.drop id }).privDone .ok := by
  unfold State.endInval
  rw [h]
  dsimp only
  rw [hw]
  rfl

end

/-- Settles O48: each event is the step its name says, and what a lane, a link, a walk or a unit then is. -/
theorem lanesAndUnits : Obligations.LanesAndUnits := by
  unfold Obligations.LanesAndUnits
  refine ⟨fun s => ?_, fun s => ?_⟩
  · intro a goes l r go
    refine ⟨fun hup hm => ?_, fun hdn => ?_, fun hb => ?_, fun hb hm hf => ?_, fun hr => ?_, fun hr => ?_, ?_, ?_⟩
    · exact ⟨s.sendRound a, rfl, State.sendRound_spec hup hm⟩
    · refine ⟨s.sendRound a, rfl, ?_⟩
      rw [State.sendRound_down hdn]
      exact State.mem_after s 1 _ _
    · refine ⟨s.markerCrossed a s.ev.c, congrArg Host.Outcome.next (if_pos hb), ?_⟩
      beta_reduce
      rw [State.markerCrossed_lane]
      exact ⟨rfl, fun o ho => of_decide_eq_true (List.mem_filter.mp ho).2⟩
    · refine ⟨s.advanceLane a, congrArg Host.Outcome.next (if_neg hb), ?_⟩
      beta_reduce
      rw [State.advanceLane_lane hm hf]
      exact ⟨rfl, rfl⟩
    · refine ⟨_, if_pos hr, ?_⟩
      beta_reduce
      rw [State.port_modPort_same]
      dsimp only
      exact Map.get_set_same _ _ _ _
    · exact ⟨_, if_neg (Nat.not_lt.mpr hr), State.mem_after s 0 _ _⟩
    · exact ⟨s.loseTokens a s.ev.l, rfl, s.loseTokens_gone a s.ev.l⟩
    · refine ⟨_, rfl, ?_⟩
      dsimp only
      rw [State.port_modPort_same]
      split <;> exact ⟨rfl, rfl, rfl⟩
  · intro e goes
    refine ⟨fun page vf m w k g rest f j u t hc hl hw hst hws hf hj hwalk => ?_, fun v r hv hr => ?_, ?_, fun i hi hw => ?_,
      fun i hi hw => ?_⟩
    · change Host.Outcome.next (s.finishWalk e.a e.b e.c (e.l.getD 0 0) (e.l.getD 1 0)) = _
      rw [hc, hl]
      refine congrArg Host.Outcome.next ?_
      unfold State.finishWalk
      simp only [List.getD_cons_zero, List.getD_cons_succ, hw, hws, hst, hf, hj, hwalk]
      rfl
    · obtain ⟨hhd, hag⟩ := State.serveUnit_served hv hr
      obtain ⟨p, q, hq, hp, hd⟩ := dropFirst_split hr
      refine ⟨s.serveUnit e.a, rfl, ⟨p, q, hq, hp, ?_⟩, fun f j o x hx => hag _ ?_⟩
      · rw [hhd, ← hd]
        exact Map.get_set_same _ _ _ _
      · exact State.serveRequest_due (s := s.servedQueue e.a v _) hx
    · refine ⟨s.switchTide e.a, rfl, fun h => ?_, s.switchTide_entries e.a⟩
      have := (List.mem_filter.mp h).2
      simp at this
    · exact ⟨s.endInval e.a, rfl, State.endInval_waits hi hw⟩
    · refine ⟨s.endInval e.a, rfl, ?_⟩
      rw [State.endInval_done hi hw]
      have hgone : (s.hd.invals.drop e.a).look e.a = none := by rw [Map.look_drop, if_pos rfl]
      cases hh : i.host with
      | some v => exact ⟨hgone, fun v' hv => by cases hv; exact congrArg VfBar.tlbbusy (Map.get_set_same _ _ _ _), nofun⟩
      | none =>
        dsimp only
        rw [State.privDone_hd]
        exact ⟨hgone, nofun, fun _ => rfl⟩

end Sys2Proof.Machine
end

section
/-! PROOF. A copy command that stands in the input buffer of its M-tile (R242, R309). -/

namespace Sys2Proof.Machine

/-- A copy of 65536 elements, all of them behind it. -/
def writtenCopy : BteCmd := { pos := 65536 }

/-- The channel of M-tile 0 runs that copy, and the copy stands in the tile's input buffer behind a request of a firing. -/
def bufferedCopy : State :=
  { tiles := [(0, { mu := { run := some writtenCopy, inq := [(1, 0), cmdId 0] } })] }

theorem bufferedCopy_run : (bufferedCopy.tileAt 0).mu.run = some writtenCopy := rfl

theorem le_cmdNext (fuel : Nat) (c : BteCmd) (n : Nat) : n ≤ cmdNext fuel c n := by
  induction fuel generalizing n with
  | zero => exact Nat.le_refl n
  | succ k ih =>
    unfold cmdNext
    split
    · exact Nat.le_of_succ_le (ih (n + 1))
    · exact Nat.le_refl n

theorem tmplBits_zero (lo n : Nat) : tmplBits 0 lo n = 0 := by
  rw [tmplBits, show (0 : LineBits).toNat = 0 from BitVec.toNat_zero, Nat.zero_div, Nat.zero_mod]

theorem tmplKind_zero : tmplKind 0 = .copy := by
  rw [tmplKind, tmplDbase, tmplSbase, tmplBits_zero, tmplBits_zero]
  rfl

/-- A template of zeros has one level, of 65536 elements. -/
theorem tmplTotal_zero : tmplTotal 0 = 65536 := by
  rw [tmplTotal, tmplLevels, tmplNlvl, tmplBits_zero]
  refine (Nat.one_mul _).trans ?_
  rw [tmplCount, tmplBits_zero]
  rfl

/-- Every element of the copy is behind it. -/
theorem writtenCopy_done : tmplTotal writtenCopy.tmpl ≤ cmdNext (tmplTotal writtenCopy.tmpl) writtenCopy writtenCopy.pos :=
  tmplTotal_zero.le.trans (le_cmdNext _ writtenCopy 65536)

/-- In the buffer the copy is not at the head, so its step waits for its turn. -/
theorem bufferedCopy_waits : exec .engineWrite bufferedCopy = .next (bufferedCopy.after 1 .engineWrite { a := 0 }) := by
  have hin : bufferedCopy.fromInq 0 (cmdId 0) = none := rfl
  change execEngineWrite bufferedCopy = _
  unfold execEngineWrite State.inTurn
  simp only [bufferedCopy_run, show bufferedCopy.ev.a = 0 from rfl, hin, show tmplKind writtenCopy.tmpl = .copy from tmplKind_zero, if_true]
  rfl

/-- Refutes O50: a copy all of whose elements are behind it is said to complete in the next fc, also while it stands in the input
buffer of its M-tile behind another request; there its step only waits for its turn (R309). -/
theorem not_engineEvents : ¬ Obligations.EngineEvents := by
  unfold Obligations.EngineEvents
  intro h
  obtain ⟨-, -, hrun⟩ := h bufferedCopy
  obtain ⟨hcopy, -⟩ := hrun writtenCopy bufferedCopy_run
  obtain ⟨u, hu, hdue⟩ := (hcopy rfl tmplKind_zero).1 writtenCopy_done
  rw [bufferedCopy_waits] at hu
  cases hu
  have hagenda : (bufferedCopy.after 1 .engineWrite { a := 0 }).agenda = [(1, .engineWrite, { a := 0 })] := rfl
  rw [hagenda] at hdue
  simp at hdue

end Sys2Proof.Machine
end

section
/-! PROOF. What an access of a firing leaves as it is, as far as it goes without a reply (R223). -/

namespace Sys2Proof.Machine

section
variable {a b : Bool} (s : State)

theorem Effect.modJob (t k : Nat) (g : Job → Job) : Effect a b s (s.modJob t k g) := Effect.modFiring s t k _

theorem Effect.charges (t cx : Nat) (l : List (Nat × Nat)) : Effect a b s (s.charges t cx l) :=
  Effect.foldl (fun u _ => Effect.charge u t cx _ _) l s

theorem Effect.markRoute (d e c : Nat) : Effect a b s (s.markRoute d e c) :=
  Effect.foldl (fun u _ => Effect.markLink u _ _) _ s

theorem Effect.unitJoin (unit acct req : Nat) : Effect a b s (s.unitJoin unit acct req) := by
  unfold State.unitJoin
  exact Effect.ite ((Effect.modHd s rfl).trans (Effect.after _ _ _ _)) (Effect.modHd s rfl)

theorem Effect.toHome (t k : Nat) (f : Firing) (x : Xl) : Effect a b s (s.toHome t k f x) := by
  unfold State.toHome
  dsimp only
  have hs := (Effect.modJob (a := a) (b := b) s t k fun j => { j with stage := .home, xl := some x }).trans
    (Effect.markRoute _ (dieOfTile t) (homeDie x) (s.account t f.cx.toNat))
  refine Effect.ite ?_ (hs.trans (Effect.unitJoin _ _ _ _))
  split
  · split
    · exact hs.trans (Effect.after _ _ _ _)
    · exact hs
  · exact hs

theorem Effect.wound (t k : Nat) : Effect false b s (s.wound t k) := by
  unfold State.wound
  split
  · exact Effect.yieldFiring s t k _
  · exact Effect.refl s

theorem Effect.accessFault (t k : Nat) (f : Firing) (e : Trap) : Effect false false s (s.accessFault t k f e) := Effect.takeFault s t k _ e

theorem Effect.orderCharge (t : Nat) (f : Firing) (j : Job) : Effect a b s (s.orderCharge t f j) := by
  unfold State.orderCharge
  dsimp only
  split
  · exact Effect.charge s _ _ _ _
  · exact Effect.charge s _ _ _ _
  · exact Effect.charge s _ _ _ _
  · exact Effect.charge s _ _ _ _
  · exact Effect.charge s _ _ _ _
  · exact Effect.refl s

theorem Effect.pushCmd (m : Nat) (c : BteCmd) : Effect a b s (s.pushCmd m c) := (Effect.modMu s m _).trans (Effect.after _ _ _ _)

theorem Effect.resume (t k : Nat) (v : View) : Effect false b s (s.resume t k v) := (Effect.setTile s t _).trans (Effect.charges _ _ _ _)

theorem Effect.takeHold (t k : Nat) (e : Staged) : Effect false b s (s.takeHold t k e) := by
  unfold State.takeHold
  dsimp only
  split
  · exact Effect.ite (Effect.refl s) (Effect.ite (Effect.wound s t k) (Effect.modMu s _ _))
  · exact Effect.ite (Effect.refl s) (Effect.ite (Effect.wound s t k) (Effect.modMu s _ _))
  · exact Effect.refl s

theorem Effect.afterCont (t k : Nat) (j : Job) : Effect false b s (s.afterCont t k j) := by
  unfold State.afterCont
  dsimp only
  split
  · exact Effect.ite (Effect.refl s) (Effect.modCove s _ _)
  · refine Effect.trans ?_ (Effect.pushCmd _ _ _)
    refine Effect.trans ?_ (Effect.setFiring _ _ _ _)
    exact (Effect.fresh s).trans (Effect.modMu _ _ _)
  · exact ((Effect.modCove s _ _).trans (Effect.setFiring _ _ _ _)).trans (Effect.after _ _ _ _)
  · split
    · exact Effect.takeHold s _ _ _
    · exact Effect.refl s
  · split
    · exact Effect.takeHold s _ _ _
    · exact Effect.refl s
  · exact Effect.refl s

end

/-- The request of an access leaves the head of its M-tile's input buffer `q`, and the next one goes on. -/
def State.pastBuffer (s : State) (m : Nat) (q : List (Nat × Nat)) : State :=
  if q = [] then s
  else
    let s2 := s.modMu m fun u => { u with inq := u.inq.drop 1 }
    match q.drop 1 with
    | [] => s2
    | g :: _ => s2.after 1 .accessRetry { a := g.1, b := g.2 }

theorem Effect.pastBuffer {a b : Bool} (s : State) (m : Nat) (q : List (Nat × Nat)) : Effect a b s (s.pastBuffer m q) := by
  unfold State.pastBuffer
  dsimp only
  refine Effect.ite (Effect.refl s) ?_
  split
  · exact Effect.modMu s m _
  · exact (Effect.modMu s m _).trans (Effect.after _ _ _ _)

theorem Effect.jobRun (n : Nat) (s : State) (t k : Nat) : Effect false false s (State.jobRun n s t k) := by
  induction n generalizing s with
  | zero => exact Effect.refl s
  | succ n ih =>
    have next {u : State} (h : Effect false false s u) : Effect false false s (State.jobRun n u t k) := h.trans (ih u)
    unfold State.jobRun
    cases hf : s.firing t k with
    | none => exact Effect.refl s
    | some f =>
      dsimp only
      cases hj : f.job with
      | none => exact Effect.refl s
      | some j =>
        dsimp only
        cases ho : j.ops with
        | nil =>
          have hc := Effect.orderCharge (a := false) (b := false) s t f j
          dsimp only
          split
          · exact hc.trans (Effect.accessFault _ _ _ _ _)
          · exact next (hc.trans (Effect.setTile _ _ _))
          · exact (hc.trans (Effect.resume _ _ _ _)).trans (Effect.afterCont _ _ _ _)
        | cons o rest =>
          dsimp only
          refine Effect.ite (Effect.ite (Effect.accessFault s _ _ _ _) ((Effect.modJob s _ _ _).trans (Effect.after _ _ _ _))) ?_
          refine Effect.ite (next (Effect.modJob s _ _ _)) ?_
          refine Effect.ite (next (Effect.modJob s _ _ _)) ?_
          refine Effect.ite (Effect.ite (Effect.accessFault s _ _ _ _) ?_) ?_
          · split
            · exact Effect.accessFault s _ _ _ _
            · exact next (Effect.setTile s _ _)
          · refine Effect.ite (Effect.ite (Effect.refl s) ((Effect.modMu s _ _).trans (Effect.modJob _ _ _ _))) ?_
            split
            · exact Effect.ite (next (Effect.modJob s _ _ _)) (Effect.accessFault s _ _ _ _)
            · exact (Effect.modJob s _ _ _).trans (Effect.after _ _ _ _)
            · next x e _ =>
              have hs : Effect false false s ((s.modMu (xlatTile t) fun u => { u with tlb := tlbTouch u.tlb e }).pastBuffer (xlatTile t)
                  (s.tileAt (xlatTile t)).mu.inq) := (Effect.modMu s _ _).trans (Effect.pastBuffer _ _ _)
              refine Effect.ite (next (hs.trans (Effect.modJob _ _ _ _))) ?_
              refine Effect.ite (hs.trans (Effect.accessFault _ _ _ _ _)) ?_
              refine Effect.ite (hs.trans (Effect.accessFault _ _ _ _ _)) ?_
              split
              · exact Effect.ite (next (((hs.trans (Effect.modMu _ _ _)).trans (Effect.charge _ _ _ _ _)).trans (Effect.modJob _ _ _ _)))
                  (hs.trans (Effect.toHome _ _ _ _ _))
              · exact hs.trans (Effect.toHome _ _ _ _ _)

theorem Effect.restart (s : State) (t k : Nat) : Effect false false s (s.restart t k) := (Effect.modJob s t k _).trans (Effect.jobRun _ _ t k)

end Sys2Proof.Machine
end

section
/-! PROOF. What the steps of a load leave of the loads themselves, the tables of partitions and VFs, and the state of a device reset. -/

namespace Sys2Proof.Machine

/-- The loads, the partition and VF tables and the progress of a device reset are the same; with `c` the configuration too. -/
structure LoadFrame (c : Bool) (s u : State) : Prop where
  loads : u.hd.loads = s.hd.loads
  parts : u.hd.parts = s.hd.parts
  vfs : u.hd.vfs = s.hd.vfs
  boot : u.hd.boot = s.hd.boot
  cfg : c = true → u.cfg = s.cfg

section
variable {c : Bool} {s u v : State}

theorem LoadFrame.refl (s : State) : LoadFrame c s s := ⟨rfl, rfl, rfl, rfl, fun _ => rfl⟩

theorem LoadFrame.trans (h : LoadFrame c s u) (k : LoadFrame c u v) : LoadFrame c s v :=
  ⟨k.loads.trans h.loads, k.parts.trans h.parts, k.vfs.trans h.vfs, k.boot.trans h.boot, fun hc => (k.cfg hc).trans (h.cfg hc)⟩

theorem LoadFrame.ite {p : Prop} [Decidable p] (h : LoadFrame c s u) (k : LoadFrame c s v) : LoadFrame c s (if p then u else v) := by
  split
  · exact h
  · exact k

theorem LoadFrame.foldl {β : Type} {g : State → β → State} (h : ∀ s e, LoadFrame c s (g s e)) (l : List β) (s : State) :
    LoadFrame c s (l.foldl g s) := by
  induction l generalizing s with
  | nil => exact LoadFrame.refl s
  | cons e r ih => exact (h s e).trans (ih _)

theorem LoadFrame.ofEffect {a b : Bool} (h : Effect a b s u) : LoadFrame c s u :=
  ⟨(congrArg Harbour.loads h.hd :), (congrArg Harbour.parts h.hd :), (congrArg Harbour.vfs h.hd :),
    (congrArg Harbour.boot h.hd :), fun _ => h.cfg⟩

/-- A step that changes neither the configuration nor the harbour. -/
theorem LoadFrame.ofSame (hc : u.cfg = s.cfg) (hh : u.hd = s.hd) : LoadFrame c s u :=
  ⟨congrArg Harbour.loads hh, congrArg Harbour.parts hh, congrArg Harbour.vfs hh, congrArg Harbour.boot hh, fun _ => hc⟩

theorem LoadFrame.ofHd (hh : u.hd = s.hd) : LoadFrame false s u :=
  ⟨congrArg Harbour.loads hh, congrArg Harbour.parts hh, congrArg Harbour.vfs hh, congrArg Harbour.boot hh, nofun⟩

/-- A fold keeps what each of its steps keeps. -/
theorem foldl_keeps {β γ : Type} (p : State → γ) {g : State → β → State} (h : ∀ s e, p (g s e) = p s) (l : List β) (s : State) :
    p (l.foldl g s) = p s := by
  induction l generalizing s with
  | nil => rfl
  | cons e r ih => exact (ih _).trans (h s e)

/-- A step that changes other fields of the harbour. -/
theorem LoadFrame.modHd {g : Harbour → Harbour} (hl : (g s.hd).loads = s.hd.loads) (hp : (g s.hd).parts = s.hd.parts)
    (hv : (g s.hd).vfs = s.hd.vfs) (hb : (g s.hd).boot = s.hd.boot) : LoadFrame c s (s.modHd g) := ⟨hl, hp, hv, hb, fun _ => rfl⟩

end

section
variable {c : Bool} (s : State)

theorem LoadFrame.modTile (t : Nat) (g : Tile → Tile) : LoadFrame c s (s.modTile t g) := .ofSame rfl rfl

theorem LoadFrame.modCove (d : Nat) (g : Cove → Cove) : LoadFrame c s (s.modCove d g) := .ofSame rfl rfl

theorem LoadFrame.modNet (g : Net → Net) : LoadFrame c s (s.modNet g) := .ofSame rfl rfl

theorem LoadFrame.after (n : Nat) (i : Instr) (e : EvArg) : LoadFrame c s (s.after n i e) := .ofSame rfl rfl

theorem LoadFrame.atFc (n : Nat) (i : Instr) (e : EvArg) : LoadFrame c s (s.atFc n i e) := .ofSame rfl rfl

/-! ## Reading and writing memory for a load -/

/-- The state after the loader's walks. -/
theorem LoadFrame.walked (t : State) : LoadFrame c s (s.walked t) := ⟨rfl, rfl, rfl, rfl, fun _ => rfl⟩

theorem LoadFrame.readPages (vf va n : Nat) : LoadFrame c s (s.readPages vf va n) := LoadFrame.walked s _

theorem State.dataXl_walked {s t : State} {vf va : Nat} {need : Need} {x : Xl} (h : s.dataXl vf va need = some (x, t)) :
    ∃ w, t = s.walked w := by
  unfold State.dataXl at h
  split at h
  · next w e _ =>
    cases h
    exact ⟨w, rfl⟩
  · cases h

theorem LoadFrame.dataWrite (n vf va : Nat) (bs : List Byte) : LoadFrame c s (State.dataWrite n s vf va bs) := by
  induction n generalizing s va bs with
  | zero => exact LoadFrame.refl s
  | succ n ih =>
    unfold State.dataWrite
    split
    · exact LoadFrame.refl s
    · dsimp only
      refine LoadFrame.trans ?_ (ih _ _ _)
      split
      · exact LoadFrame.refl s
      · next x t hx =>
        obtain ⟨w, rfl⟩ := State.dataXl_walked hx
        refine (LoadFrame.walked s w).trans ?_
        split
        · next hu => exact .ofEffect (a := true) (b := true) (Effect.ofMem (State.homeUpdate_step hu))
        · exact .ofEffect (a := true) (b := true) (Effect.ofMem ((State.homeData_step _ _ _).trans (State.homeWrite_step _ _ _ _)))

/-! ## Partitions that are emptied and restored -/

theorem LoadFrame.wipePart (part lease : Nat) : LoadFrame c s (s.wipePart part lease) := by
  unfold State.wipePart
  dsimp only
  refine LoadFrame.trans ?_ (LoadFrame.modHd rfl rfl rfl rfl)
  refine LoadFrame.trans ?_ (.ofEffect (a := true) (b := true) (Effect.modFault _ _ _))
  refine LoadFrame.trans ?_ (LoadFrame.foldl (fun u _ => LoadFrame.modCove u _ _) _ _)
  refine LoadFrame.trans ?_ (LoadFrame.foldl (fun u _ => LoadFrame.modTile u _ _) _ _)
  exact (LoadFrame.foldl (fun u _ => .ofEffect (a := true) (b := true) (Effect.purge u _ _)) _ s).trans (.ofSame rfl rfl)

theorem LoadFrame.dropChart (part : Nat) : LoadFrame false s (s.dropChart part) := ⟨rfl, rfl, rfl, rfl, nofun⟩

theorem LoadFrame.tagPend (coves : List Nat) (n : Nat) (away : Bool) : LoadFrame c s (s.tagPend coves n away) := .ofSame rfl rfl

theorem LoadFrame.pushCfg (d : Nat) (x : CfgCmd) : LoadFrame c s (s.pushCfg d x) := by
  unfold State.pushCfg
  exact .ite (LoadFrame.modHd rfl rfl rfl rfl) ((LoadFrame.modHd rfl rfl rfl rfl).trans (LoadFrame.after _ _ _ _))

theorem LoadFrame.ungate (part : Nat) : LoadFrame c s (s.ungate part) := by
  unfold State.ungate
  refine LoadFrame.trans ?_ (LoadFrame.after _ _ _ _)
  refine LoadFrame.trans (LoadFrame.modHd rfl rfl rfl rfl) (LoadFrame.foldl (fun u x => ?_) _ _)
  exact .ofEffect (a := true) (b := true) ((Effect.lookTasks u x).trans (Effect.after _ _ _ _))

theorem LoadFrame.liftStall (part since : Nat) (lanes : Map (List Nat)) (l : List (Nat × Instr × EvArg)) :
    LoadFrame c s (s.liftStall part since lanes l) := by
  unfold State.liftStall
  refine LoadFrame.trans ?_ (.ofEffect (a := true) (b := true) (Effect.wakeWaiters _))
  refine LoadFrame.trans ?_ (LoadFrame.ungate _ _)
  refine LoadFrame.trans ?_ (LoadFrame.modHd rfl rfl rfl rfl)
  refine LoadFrame.trans ?_ (LoadFrame.foldl (fun u e => LoadFrame.foldl (fun v _ => .ofEffect (a := true) (Effect.laneJoin v _ _ _)) _ u) _ _)
  refine LoadFrame.trans ?_ (LoadFrame.foldl (fun u _ => LoadFrame.atFc u _ _ _) _ _)
  exact LoadFrame.foldl (fun u _ => LoadFrame.modTile u _ _) _ s

theorem LoadFrame.restoreFreeze (part : Nat) (g : SaveImg) (keep : Bool) : LoadFrame false s (s.restoreFreeze part g keep) := by
  unfold State.restoreFreeze
  refine LoadFrame.trans ?_ (LoadFrame.liftStall _ _ _ _ _)
  refine LoadFrame.trans ?_ (LoadFrame.tagPend _ _ _ _)
  refine LoadFrame.trans ?_ (LoadFrame.foldl (fun u e => LoadFrame.foldl (fun v _ => LoadFrame.pushCfg v _ _) _ u) _ _)
  refine LoadFrame.trans ?_ (LoadFrame.modHd rfl rfl rfl rfl)
  refine LoadFrame.trans ?_ (.ofEffect (a := true) (b := true) (Effect.modFault _ _ _))
  refine LoadFrame.ofHd ?_
  dsimp only [State.zeroPools, State.modNet]
  refine (foldl_keeps State.hd ?_ _ _).trans (foldl_keeps State.hd ?_ _ _)
  · exact fun _ _ => rfl
  · exact fun _ _ => rfl

theorem LoadFrame.undoLoad (part : Nat) (g : SaveImg) : LoadFrame false s (s.undoLoad part g) := by
  unfold State.undoLoad
  have hrun (u : State) : LoadFrame false s u → LoadFrame false s (if s.hd.gated.get false part then
      u.modHd fun h => { h with gated := h.gated.put part true } else u) := fun h => .ite (h.trans (LoadFrame.modHd rfl rfl rfl rfl)) h
  refine hrun _ (LoadFrame.trans ?_ (LoadFrame.foldl (fun u e => ?_) _ _))
  · exact (LoadFrame.restoreFreeze s _ _ _).trans (LoadFrame.modHd rfl rfl rfl rfl)
  · split
    · exact .ite (.ofEffect (Effect.restart u _ _)) (LoadFrame.refl u)
    · exact LoadFrame.refl u

theorem LoadFrame.privDone (x : PrivStatus) : LoadFrame c s (s.privDone x) := by
  refine ⟨?_, ?_, ?_, ?_, fun _ => ?_⟩
  · rw [State.privDone_hd]
  · rw [State.privDone_hd]
  · rw [State.privDone_hd]
  · rw [State.privDone_hd]
  · exact (Effect.modFiring (a := true) (b := true) (s.privStatus x) _ _ _).cfg

end

/-! ## What the host is told (R44) -/

theorem State.bootEnd_out (s : State) : s.bootEnd.hd.out = s.hd.out ++ if s.hd.boot = 2 then [.pfVector 1] else [] := by
  have h2 : s.bootEnd.hd.out = if s.hd.boot = 2 then s.hd.out ++ [.pfVector 1] else s.hd.out := by
    unfold State.bootEnd
    split
    · next h0 => rw [if_neg (by omega)]
    · rfl
  rw [h2]
  split
  · rfl
  · exact (List.append_nil _).symm

theorem State.loadReport_out (s : State) (v st off : Nat) : (s.loadReport v st off).hd.out
    = s.hd.out ++ .loadStatus v st off :: (if v = 128 ∧ s.hd.boot = 2 then [.pfVector 1] else []) := by
  unfold State.loadReport
  dsimp only
  split
  · next hv =>
    refine (State.bootEnd_out _).trans ((List.append_assoc _ _ _).trans ?_)
    simp only [hv, true_and]
    rfl
  · next hv =>
    rw [if_neg fun h => hv h.1]
    rfl

/-- A report leaves the loads, the tables and the configuration. -/
theorem State.loadReport_same (s : State) (v st off : Nat) : (s.loadReport v st off).hd.loads = s.hd.loads
    ∧ (s.loadReport v st off).hd.parts = s.hd.parts ∧ (s.loadReport v st off).hd.vfs = s.hd.vfs
    ∧ (s.loadReport v st off).cfg = s.cfg ∧ (s.loadReport v st off).tiles = s.tiles := by
  unfold State.loadReport
  dsimp only
  split
  · unfold State.bootEnd
    split <;> exact ⟨rfl, rfl, rfl, rfl, rfl⟩
  · exact ⟨rfl, rfl, rfl, rfl, rfl⟩

/-- The host is told the status of a load of VF `v`, an agent's with the vector of a device reset that the host began. -/
def State.Reports (s u : State) (v st off : Nat) : Prop :=
  ∃ l, u.hd.out = l ++ .loadStatus v st off :: (if v = 128 ∧ s.hd.boot = 2 then [.pfVector 1] else [])

theorem LoadFrame.reports {c : Bool} {s u : State} (h : LoadFrame c s u) (v st off : Nat) : s.Reports (u.loadReport v st off) v st off :=
  ⟨u.hd.out, h.boot ▸ u.loadReport_out v st off⟩

end Sys2Proof.Machine
end

section
/-! PROOF. Loads that begin, are acknowledged, are written and are late (R43, R44, R52, R269). -/

namespace Sys2Proof.Machine

/-! ## A chart that is submitted (R43, R65, R332) -/

/-- The state once the pages of a chart's image are walked to, unless they were before. -/
def State.pagesRead (s : State) (part vf : Nat) (img : ChartImage) (seen : Bool) : State :=
  if (seen || decide (part = agentPart)) = true then s else s.readPages vf img.va img.size

theorem LoadFrame.pagesRead {c : Bool} (s : State) (part vf : Nat) (img : ChartImage) (seen : Bool) :
    LoadFrame c s (s.pagesRead part vf img seen) := .ite (LoadFrame.refl s) (LoadFrame.readPages s _ _ _)

theorem State.pagesRead_now (s : State) (part vf : Nat) (img : ChartImage) (seen : Bool) : (s.pagesRead part vf img seen).now = s.now := by
  unfold State.pagesRead
  split <;> rfl

/-- A load that is rejected is told to the host, and nothing else. -/
theorem State.pagesRead_report (s : State) (part vf : Nat) (img : ChartImage) (seen : Bool) (st off : Nat) :
    s.Reports ((s.pagesRead part vf img seen).loadReport vf st off) vf st off
      ∧ ((s.pagesRead part vf img seen).loadReport vf st off).cfg = s.cfg
      ∧ ((s.pagesRead part vf img seen).loadReport vf st off).hd.loads = s.hd.loads := by
  have hk := LoadFrame.pagesRead (c := true) s part vf img seen
  obtain ⟨hl, -, -, hcfg, -⟩ := (s.pagesRead part vf img seen).loadReport_same vf st off
  exact ⟨hk.reports vf st off, hcfg.trans (hk.cfg rfl), hl.trans hk.loads⟩

section
variable {s : State} {part vf : Nat} {ev img : ChartImage} {seen : Bool}
  (hw : ¬(part ≠ agentPart ∧ ¬((s.part part).pstate = 2 ∧ (s.part part).occ = vf))) (hi : s.loadImage part vf ev seen = img)
include hw hi

theorem State.chartLoad_rejected {off : Nat} {st : LoadStatus} (hv : s.loadVerdict part vf img = some (off, st)) :
    s.chartLoad part vf ev seen = (s.pagesRead part vf img seen).loadReport vf st.code off := by
  unfold State.chartLoad
  rw [if_neg hw]
  dsimp only
  rw [hi, hv]
  rfl

variable (hv : s.loadVerdict part vf img = none)
include hv

theorem State.chartLoad_reserved (hb : s.badTemplates part vf img = true ∨ s.badWrites vf img = true) :
    s.chartLoad part vf ev seen = (s.pagesRead part vf img seen).loadReport vf LoadStatus.fieldReserved.code 0 := by
  unfold State.chartLoad
  rw [if_neg hw]
  dsimp only
  rw [hi, hv]
  exact if_pos (Bool.or_eq_true_iff.mpr hb)

variable (ht : s.badTemplates part vf img = false) (hm : s.badWrites vf img = false)
include ht hm

theorem State.chartLoad_busy (he : s.enginesBusy part = true) :
    s.chartLoad part vf ev seen = (s.pagesRead part vf img seen).after 1 .chartLoad { a := part, b := vf, c := 1, img := img } := by
  unfold State.chartLoad
  rw [if_neg hw]
  dsimp only
  rw [hi, hv, ht, hm, he]
  rfl

theorem State.chartLoad_begins (he : s.enginesBusy part = false) :
    s.chartLoad part vf ev seen = ((s.pagesRead part vf img seen).imgWrites vf img).foldl
      (fun (a : State) e => State.dataWrite (e.2.length / 128 + 2) a vf e.1 e.2)
      ((s.pagesRead part vf img seen).beginLoad part vf img none false) := by
  unfold State.chartLoad
  rw [if_neg hw]
  dsimp only
  rw [hi, hv, ht, hm, he]
  rfl

end

/-! ## A load that begins (R43) -/

/-- The chart `img` of VF `vf` loads in a partition. -/
def State.IsLoading (u : State) (part vf : Nat) (img : ChartImage) : Prop :=
  u.cfg.charts.look part = some img ∧ ∃ r, u.hd.loads.look part = some r ∧ r.vf = vf ∧ r.img = img ∧ r.waiting = loadParties img
    ∧ r.resume = none

theorem State.IsLoading.frame {s u : State} {part vf : Nat} {img : ChartImage} (h : s.IsLoading part vf img) (k : LoadFrame true s u) :
    u.IsLoading part vf img := by
  unfold State.IsLoading
  rw [k.cfg rfl, k.loads]
  exact h

theorem LoadFrame.feedLanes {c : Bool} (l : List Nat) (s : State) : LoadFrame c s (Sys2Proof.Machine.feedLanes s l) := by
  match l with
  | [] => exact LoadFrame.refl s
  | [_] => exact LoadFrame.refl s
  | d :: e :: r => exact (LoadFrame.modNet s _).trans (LoadFrame.feedLanes (e :: r) _)

theorem LoadFrame.writeLoose {c : Bool} (s : State) (part : Nat) (img : ChartImage) (resume : Bool) :
    LoadFrame c s (s.writeLoose part img resume) := by
  unfold State.writeLoose
  refine .ite (LoadFrame.refl s) (LoadFrame.foldl (fun u r => ?_) _ s)
  split
  · exact LoadFrame.modTile u _ _
  · exact LoadFrame.refl u

theorem State.writeGrids_charts (s : State) (part vf : Nat) (img : ChartImage) : (s.writeGrids part vf img).cfg.charts = s.cfg.charts := by
  unfold State.writeGrids
  refine foldl_keeps (fun u : State => u.cfg.charts) ?_ _ s
  exact fun _ _ => rfl

theorem State.beginLoad_isLoading (s : State) (part vf : Nat) (img : ChartImage) (agent : Bool) :
    (s.beginLoad part vf img none agent).IsLoading part vf img := by
  unfold State.beginLoad
  dsimp only
  refine State.IsLoading.frame ?_ (.ite (LoadFrame.atFc _ _ _ _) (LoadFrame.refl _))
  refine State.IsLoading.frame ?_ (LoadFrame.foldl (fun u _ => LoadFrame.after u _ _ _) _ _)
  refine State.IsLoading.frame ?_ (LoadFrame.foldl (fun u _ => LoadFrame.pushCfg u _ _) _ _)
  refine State.IsLoading.frame ?_ (LoadFrame.foldl (fun u _ => LoadFrame.feedLanes _ u) _ _)
  refine ⟨?_, _, Map.look_put_same _ _ _, rfl, rfl, rfl, rfl⟩
  refine (congrArg (fun g : Cfg => g.charts.look part) ((LoadFrame.writeLoose (c := true) _ _ _ _).cfg rfl)).trans ?_
  refine (congrArg (fun m : Map ChartImage => m.look part) (State.writeGrids_charts _ _ _ _)).trans ?_
  exact Map.look_put_same _ _ _

/-! ## Acknowledgements (R43, R52) -/

theorem State.loadAck_waiting {s : State} {part who : Nat} {r : LoadRun} (h : s.hd.loads.look part = some r)
    (ht : who < 0x100 ∨ (s.net.ports.get {} (who - 0x100)).trained = true) :
    (s.loadAck part who).hd.loads.look part = some { r with waiting := r.waiting.filter fun n => !decide (n = who) }
      ∧ (r.waiting = [who] → r.left = 0 → (s.now + 1, Instr.startTokenDelivery, ({ a := part } : EvArg)) ∈ (s.loadAck part who).agenda) := by
  have hup : ¬(0x100 ≤ who ∧ (!(s.net.ports.get {} (who - 0x100)).trained) = true) := by
    rintro ⟨hge, hd⟩
    rcases ht with hlt | hup
    · omega
    · rw [hup] at hd
      cases hd
  unfold State.loadAck
  rw [h]
  dsimp only
  rw [if_neg hup]
  refine ⟨?_, fun hone hleft => ?_⟩
  · split
    · exact Map.look_put_same _ _ _
    · exact Map.look_put_same _ _ _
  · have hw : (r.waiting.filter fun n => !decide (n = who)) = [] := by rw [hone]; simp
    rw [hw, if_pos ⟨rfl, hleft, by rw [hone]; simp⟩]
    refine (mem_insertDue ..).mpr (Or.inl ?_)
    split <;> rfl

/-! ## Patterns (R75, R269) -/

theorem State.writeTiles_hd (l : List Nat) (s : State) (part vf k : Nat) (img : ChartImage) (resume : Bool) :
    (l.foldl (fun (a : State) t => a.writeTile part vf k t img resume) s).hd = s.hd
      ∧ (l.foldl (fun (a : State) t => a.writeTile part vf k t img resume) s).now = s.now := by
  induction l generalizing s with
  | nil => exact ⟨rfl, rfl⟩
  | cons t r ih => exact ih _

/-- Every tile of the list holds the pattern, the others what they held. -/
theorem State.writeTiles_tcfg (l : List Nat) (s : State) (part vf k : Nat) (img : ChartImage) (resume : Bool) (u : Nat) :
    (l.foldl (fun (a : State) t => a.writeTile part vf k t img resume) s).tcfg u
      = if u ∈ l then tileCfgOf img part vf k u else s.tcfg u := by
  induction l generalizing s with
  | nil => rfl
  | cons t r ih =>
    refine (ih _).trans ?_
    by_cases hr : u ∈ r
    · rw [if_pos hr, if_pos (List.mem_cons_of_mem t hr)]
    · rw [if_neg hr]
      refine (Map.get_put _ _ _ _ _).trans ?_
      by_cases ht : u = t
      · rw [if_pos ht, if_pos (ht ▸ List.mem_cons_self), ht]
      · rw [if_neg ht, if_neg fun h => (List.mem_cons.mp h).elim ht hr]
        rfl

theorem State.loadWritten_spec {s : State} {c : CfgCmd} {r : LoadRun} (h : s.hd.loads.look c.part = some r) (d : Nat) :
    (s.loadWritten d c).hd = { s.hd with loads := s.hd.loads.put c.part { r with left := r.left - 1 } }
      ∧ (s.loadWritten d c).now = s.now ∧ ∀ t ∈ c.tiles, (s.loadWritten d c).tcfg t = tileCfgOf r.img c.part r.vf c.pat t := by
  obtain ⟨hhd, hnow⟩ := State.writeTiles_hd c.tiles s c.part r.vf c.pat r.img r.resume.isSome
  have htc := State.writeTiles_tcfg c.tiles s c.part r.vf c.pat r.img r.resume.isSome
  unfold State.loadWritten
  rw [h]
  dsimp only
  generalize List.foldl _ s c.tiles = u at hhd hnow htc ⊢
  have hu : (u.modHd fun h => { h with loads := h.loads.put c.part { r with left := r.left - 1 } }).hd
      = { s.hd with loads := s.hd.loads.put c.part { r with left := r.left - 1 } } := by
    rw [← hhd]
    rfl
  refine ⟨?_, ?_, fun t ht => ?_⟩
  · rw [← hu]
    split <;> split <;> rfl
  · rw [← hnow]
    split <;> split <;> rfl
  · rw [← if_pos (c := t ∈ c.tiles) (t := tileCfgOf r.img c.part r.vf c.pat t) (e := s.tcfg t) ht, ← htc t]
    split <;> split <;> rfl

theorem State.writePattern_spec {s : State} {d : Nat} {c : CfgCmd} {rest : List CfgCmd} {r : LoadRun} (hq : s.hd.cfgq.get [] d = c :: rest)
    (hc : c.clone = none) (hl : s.hd.loads.look c.part = some r) :
    (s.writePattern d).hd.cfgq.get [] d = rest ∧ (s.writePattern d).hd.loads.look c.part = some { r with left := r.left - 1 }
      ∧ (rest ≠ [] → (s.now + 1, Instr.configPatternWrite, ({ a := d } : EvArg)) ∈ (s.writePattern d).agenda)
      ∧ ∀ t ∈ c.tiles, (s.writePattern d).tcfg t = tileCfgOf r.img c.part r.vf c.pat t := by
  let s1 := s.modHd fun h => { h with cfgq := h.cfgq.set [] d rest }
  obtain ⟨hhd, hnow, htc⟩ := State.loadWritten_spec (s := s1) hl d
  have hs : s.writePattern d = if rest.isEmpty = true then s1.loadWritten d c else (s1.loadWritten d c).after 1 .configPatternWrite { a := d } := by
    unfold State.writePattern
    rw [hq]
    dsimp only
    rw [hc]
  have hsame : (s.writePattern d).hd = (s1.loadWritten d c).hd ∧ (s.writePattern d).cfg = (s1.loadWritten d c).cfg := by
    rw [hs]
    split <;> exact ⟨rfl, rfl⟩
  refine ⟨?_, ?_, fun hne => ?_, fun t ht => ?_⟩
  · rw [hsame.1, hhd]
    exact Map.get_set_same _ _ _ _
  · rw [hsame.1, hhd]
    exact Map.look_put_same _ _ _
  · rw [hs, if_neg (by simpa using hne), show s.now = (s1.loadWritten d c).now from hnow.symm]
    exact State.mem_after _ 1 _ _
  · rw [State.tcfg, hsame.2]
    exact htc t ht

/-! ## A load that is late (R44) -/

theorem State.loadTimeout_undone {s : State} {part w : Nat} {ws : List Nat} {r : LoadRun} (h : s.hd.loads.look part = some r)
    (hw : r.waiting = w :: ws) :
    (s.loadTimeout part r.id).hd.loads.look part = none
      ∧ s.Reports (s.loadTimeout part r.id) r.vf LoadStatus.linkTimeout.code w ∧ (s.loadTimeout part r.id).hd.parts = s.hd.parts := by
  let s1 := (s.wipePart part (s.startLease r.vf)).dropChart part
  let s2 := s1.modHd fun h =>
    { h with loads := h.loads.drop part, running := if r.resume.isSome then h.running.drop part else h.running }
  let s3 := s2.undoLoad part r.old
  let s4 := if r.resume.isSome then s3.modAcct r.vf fun a => { a with qdrn := r.qdrn } else s3
  let s5 := if r.agent then s4.privDone .stateInvalid else s4
  have hu : s.loadTimeout part r.id = s5.loadReport r.vf LoadStatus.linkTimeout.code w := by
    unfold State.loadTimeout
    rw [h]
    dsimp only
    rw [hw, if_neg (by simp)]
    rfl
  have h1 : LoadFrame false s s1 := (LoadFrame.wipePart s _ _).trans (LoadFrame.dropChart _ _)
  have h3 : LoadFrame false s2 s3 := LoadFrame.undoLoad s2 part r.old
  have h4 : LoadFrame false s3 s4 := .ite (.ofEffect (a := true) (b := true) (Effect.modAcct _ _ _)) (LoadFrame.refl _)
  have h5 : LoadFrame false s4 s5 := .ite (LoadFrame.privDone _ _) (LoadFrame.refl _)
  have h25 : LoadFrame false s2 s5 := (h3.trans h4).trans h5
  obtain ⟨hl, hp, -, -, -⟩ := s5.loadReport_same r.vf LoadStatus.linkTimeout.code w
  rw [hu]
  refine ⟨?_, ⟨s5.hd.out, ?_⟩, hp.trans (h25.parts.trans h1.parts)⟩
  · rw [hl, h25.loads]
    exact (Map.look_drop _ _ _).trans (if_pos rfl)
  · rw [State.loadReport_out, h25.boot, show s2.hd.boot = s.hd.boot from h1.boot]

end Sys2Proof.Machine
end

section
/-! PROOF. The start of a chart (R43 step 4, R265, R332, R338). -/

namespace Sys2Proof.Machine

section
variable {c : Bool} (s : State)

/-! ## Residency (R273, R367) -/

theorem LoadFrame.sendVector (vf vec : Nat) : LoadFrame c s (s.sendVector vf vec) := by
  unfold State.sendVector
  exact .ite (LoadFrame.modHd rfl rfl rfl rfl) (LoadFrame.modHd rfl rfl rfl rfl)

theorem LoadFrame.pinRead (n c' pts pa k : Nat) : LoadFrame c s (State.pinRead n s c' pts pa k).2 :=
  .ofEffect (a := true) (b := true) (Effect.ofMem (State.pinRead_step n s c' pts pa k))

theorem LoadFrame.pinWrite (n c' cts pa : Nat) (bs : List Byte) : LoadFrame c s (State.pinWrite n s c' cts pa bs).1 :=
  .ofEffect (a := true) (b := true) (Effect.pinWrite s n c' cts pa bs)

theorem LoadFrame.replayFrom (n vf base i : Nat) : LoadFrame c s (State.replayFrom n s vf base i) := by
  induction n generalizing s i with
  | zero => exact LoadFrame.refl s
  | succ n ih =>
    unfold State.replayFrom
    dsimp only
    refine LoadFrame.trans ?_ (ih _ _)
    refine (LoadFrame.pinRead s _ _ _ _ _).trans (.ite (LoadFrame.sendVector _ _ _) ?_)
    exact .ofEffect (a := true) (b := true) (Effect.countDrop _ _ _)

theorem LoadFrame.replayWrack (vf : Nat) : LoadFrame c s (s.replayWrack vf) := by
  unfold State.replayWrack
  dsimp only
  have hr : LoadFrame c s (s.ringHead vf (s.vf vf).wqbase 1024).2.2.2 := .ofEffect (a := true) (b := true) (Effect.ringHead s _ _ _)
  exact .ite hr ((hr.trans (LoadFrame.replayFrom _ _ _ _ _)).trans (LoadFrame.pinWrite _ _ _ _ _ _))

theorem LoadFrame.clearValid (pa : Nat) : LoadFrame c s (s.clearValid pa) := LoadFrame.pinWrite s _ _ _ _ _

/-! ## What a chart starts with -/

theorem LoadFrame.startStages (part : Nat) (img : ChartImage) : LoadFrame c s (s.startStages part img) :=
  LoadFrame.foldl (fun u _ => .ite (LoadFrame.modHd rfl rfl rfl rfl) (LoadFrame.refl u)) _ s

theorem LoadFrame.shareCredits (x : ChanCfg) (chan crep n : Nat) : LoadFrame c s (s.shareCredits x chan crep n) :=
  LoadFrame.foldl (fun u _ => LoadFrame.modNet u _) _ s

theorem LoadFrame.startCredits (part : Nat) (img : ChartImage) (fresh : Bool) : LoadFrame c s (s.startCredits part img fresh) := by
  unfold State.startCredits
  refine LoadFrame.foldl (fun u e => ?_) _ s
  split
  · exact LoadFrame.refl u
  · exact .ite (LoadFrame.refl u) (LoadFrame.foldl (fun v _ => LoadFrame.shareCredits v _ _ _ _) _ u)

theorem LoadFrame.placeOne (t : Nat) (w : Waiting) : LoadFrame c s (s.placeOne t w) := by
  have hset (x : Tile) : LoadFrame c s ((s.setTile t x).freeCredit t w.chan w.crep) := by
    refine LoadFrame.trans ?_ (.ofEffect (a := true) (Effect.freeCredit _ _ _ _))
    exact .ofSame rfl rfl
  unfold State.placeOne
  refine .ite (.ite (LoadFrame.refl s) (hset _)) ?_
  split
  · exact .ite (LoadFrame.refl s) (hset _)
  · exact LoadFrame.refl s

theorem LoadFrame.placeOperands (t : Nat) : LoadFrame c s (s.placeOperands t) := by
  have hall : LoadFrame c s ((s.poolOperands t).foldl (fun (a : State) w => a.placeOne t w) s) :=
    LoadFrame.foldl (fun u w => LoadFrame.placeOne u t w) _ s
  unfold State.placeOperands
  exact .ite hall (.ite hall (hall.trans (LoadFrame.after _ _ _ _)))

theorem LoadFrame.placeInit (part vf : Nat) (k : InitTok) : LoadFrame c s (s.placeInit part vf k) := by
  unfold State.placeInit
  split
  · exact LoadFrame.refl s
  · split
    · refine LoadFrame.trans ?_ (LoadFrame.placeOperands _ _)
      exact .ofSame rfl rfl
    · exact LoadFrame.refl s

theorem LoadFrame.placeTask (part vf : Nat) (t : TaskImg) : LoadFrame c s (s.placeTask part vf t) := by
  unfold State.placeTask
  split
  · exact LoadFrame.refl s
  · exact LoadFrame.modCove s _ _

theorem LoadFrame.restoreDrain (part : Nat) (g : SaveImg) : LoadFrame c s (s.restoreDrain part g) := by
  unfold State.restoreDrain
  refine .ofSame ?_ ?_ <;> dsimp only [State.zeroPools]
  · refine (foldl_keeps State.cfg ?_ _ _).trans (foldl_keeps State.cfg ?_ _ _)
    · exact fun _ _ => rfl
    · exact fun _ _ => rfl
  · refine (foldl_keeps State.hd ?_ _ _).trans (foldl_keeps State.hd ?_ _ _)
    · exact fun _ _ => rfl
    · exact fun _ _ => rfl

theorem LoadFrame.dropAway (coves : List Nat) (v : Nat) : LoadFrame c s (s.dropAway coves v) := by
  unfold State.dropAway
  refine LoadFrame.trans ?_ (.ofEffect (a := true) (b := true) (Effect.wakeWaiters _))
  exact .ofSame rfl rfl

end

/-! ## The tiles keep their control tokens -/

theorem State.wakeWaiters_tiles (s : State) : s.wakeWaiters.tiles = s.tiles := by
  unfold State.wakeWaiters
  refine foldl_keeps State.tiles (fun u x => ?_) _ s
  split
  · split <;> rfl
  · rfl

theorem State.lookTasks_tiles (s : State) (d : Nat) : (s.lookTasks d).tiles = s.tiles := by
  unfold State.lookTasks
  refine foldl_keeps State.tiles (fun u x => ?_) _ s
  split <;> rfl

theorem State.dropAway_tiles (s : State) (coves : List Nat) (v : Nat) : (s.dropAway coves v).tiles = s.tiles := by
  unfold State.dropAway
  exact State.wakeWaiters_tiles _

theorem State.ungate_tiles (s : State) (part : Nat) : (s.ungate part).tiles = s.tiles := by
  unfold State.ungate
  refine foldl_keeps State.tiles (fun u d => ?_) _ _
  exact State.lookTasks_tiles u d

/-! ## Start tokens (R43, R265) -/

/-- The tiles of a list get their start token. -/
def State.giveStart (s : State) (start : Nat) (ts : List Nat) : State :=
  ts.foldl (fun (a : State) t => (a.modTile t fun x => { x with ctlq := [start] }).after 1 .controlTokenTake { a := t }) s

theorem LoadFrame.giveStart {c : Bool} (s : State) (start : Nat) (ts : List Nat) : LoadFrame c s (s.giveStart start ts) :=
  LoadFrame.foldl (fun u _ => (LoadFrame.modTile u _ _).trans (LoadFrame.after _ _ _ _)) ts s

theorem State.giveStart_ctlq (s : State) (start : Nat) (ts : List Nat) (t : Nat) (h : t ∈ ts ∨ (s.tileAt t).ctlq = [start]) :
    ((s.giveStart start ts).tileAt t).ctlq = [start] := by
  induction ts generalizing s with
  | nil => exact h.resolve_left (List.not_mem_nil)
  | cons x r ih =>
    refine ih _ ?_
    have htile : ((s.modTile x fun y => { y with ctlq := [start] }).after 1 .controlTokenTake { a := x }).tileAt t
        = if t = x then { s.tileAt x with ctlq := [start] } else s.tileAt t :=
      State.tileAt_modTile s x t fun y => { y with ctlq := [start] }
    by_cases hx : t = x
    · refine Or.inr ?_
      rw [htile, if_pos hx]
    · rw [htile, if_neg hx]
      exact h.imp_left fun hm => (List.mem_cons.mp hm).resolve_left hx

/-- A load that is over: what it resumes is resident, and the load is gone. -/
def State.loadOver (s : State) (part : Nat) (r : LoadRun) : State :=
  (match r.resume with
    | some pa => (if (s.part part).pstate = 3 then s.makeResident part r.vf else s).clearValid pa
    | none => s).modHd fun h =>
      { h with
        loads := h.loads.drop part
        rolls := if part = agentPart then 0 else h.rolls
        rollq := if part = agentPart then [] else h.rollq }

/-- A partition holds what its new chart starts with, or what the drain image of the resumed one holds. -/
def State.startContents (s : State) (part : Nat) (r : LoadRun) (g : Option SaveImg) : State :=
  match g with
  | some g => (s.startCredits part r.img false).restoreDrain part g
  | none =>
    r.img.tasks.foldl (fun (a : State) t => a.placeTask part r.vf t)
      (r.img.toks.foldl (fun (a : State) k => a.placeInit part r.vf k) ((s.startCredits part r.img true).zeroExec r.vf))

theorem LoadFrame.startContents {c : Bool} (s : State) (part : Nat) (r : LoadRun) (g : Option SaveImg) :
    LoadFrame c s (s.startContents part r g) := by
  unfold State.startContents
  split
  · exact (LoadFrame.startCredits s _ _ _).trans (LoadFrame.restoreDrain _ _ _)
  · refine LoadFrame.trans ?_ (LoadFrame.foldl (fun u _ => LoadFrame.placeTask u _ _ _) _ _)
    refine LoadFrame.trans ?_ (LoadFrame.foldl (fun u _ => LoadFrame.placeInit u _ _ _) _ _)
    exact (LoadFrame.startCredits s _ _ _).trans (LoadFrame.modHd rfl rfl rfl rfl)

/-- The tiles of a partition that its chart uses. -/
def State.usedTiles (s : State) (part : Nat) : List Nat := (s.cfg.tiles.filter fun e => e.2.used && decide (e.2.part = part)).map fun e => e.1

/-- The image of a resumed partition is gone, and its command no longer runs. -/
def State.resumeOver (s : State) (part : Nat) (k : Option Nat) : State :=
  match k with
  | some k => s.modHd fun h => { h with images := h.images.drop k, running := h.running.drop part }
  | none => s

theorem LoadFrame.resumeOver {c : Bool} (s : State) (part : Nat) (k : Option Nat) : LoadFrame c s (s.resumeOver part k) := by
  unfold State.resumeOver
  split
  · exact LoadFrame.modHd rfl rfl rfl rfl
  · exact LoadFrame.refl s

/-- The partition before its tiles get their start tokens. -/
def State.beforeStart (s : State) (part : Nat) (r : LoadRun) : State :=
  ((s.loadOver part r).startStages part r.img).startContents part r (r.resume.bind fun k => s.hd.images.look k)

/-- The partition with its tiles started. -/
def State.started (s : State) (part : Nat) (r : LoadRun) : State :=
  ((s.beforeStart part r).giveStart r.start ((s.beforeStart part r).usedTiles part)).resumeOver part r.resume

theorem State.deliverStart_eq {s : State} {part : Nat} {r : LoadRun} (h : s.hd.loads.look part = some r) :
    s.deliverStart part = (((if r.agent then (s.started part r).privDone .ok else s.started part r).dropAway (s.partCoves part)
      (s.part part).occ).ungate part).loadReport r.vf 0 0 := by
  unfold State.deliverStart
  rw [h]
  rfl

/-- Up to the report, the loads and tables are those of the load that is over. -/
theorem LoadFrame.delivered {c : Bool} (s : State) (part : Nat) (r : LoadRun) (coves : List Nat) (v : Nat) :
    LoadFrame c (s.loadOver part r)
      (((if r.agent then (s.started part r).privDone .ok else s.started part r).dropAway coves v).ungate part) := by
  have hs : LoadFrame c (s.loadOver part r) (s.started part r) :=
    (((LoadFrame.startStages _ _ _).trans (LoadFrame.startContents _ _ _ _)).trans (LoadFrame.giveStart _ _ _)).trans
      (LoadFrame.resumeOver _ _ _)
  refine LoadFrame.trans ?_ (LoadFrame.ungate _ _)
  refine LoadFrame.trans ?_ (LoadFrame.dropAway _ _ _)
  exact .ite (hs.trans (LoadFrame.privDone _ _)) hs

/-- A resumed partition whose VF was drained is resident from its chart's start. -/
theorem State.deliverStart_resident {s : State} {part k : Nat} {r : LoadRun} (h : s.hd.loads.look part = some r) (hr : r.resume = some k)
    (hp : (s.part part).pstate = 3) :
    ((s.deliverStart part).part part).pstate = 2 ∧ ((s.deliverStart part).part part).occ = r.vf
      ∧ ((s.deliverStart part).vf r.vf).state = 2 := by
  let s1 := (s.modPart part fun e => { e with pstate := 2, occ := r.vf }).modVf r.vf fun e => { e with state := 2 }
  have hover : LoadFrame false s1 (((s.makeResident part r.vf).clearValid k)) := by
    refine LoadFrame.trans ?_ (LoadFrame.clearValid _ _)
    unfold State.makeResident
    exact LoadFrame.trans (LoadFrame.modHd rfl rfl rfl rfl) (LoadFrame.replayWrack _ _)
  have hload : s.loadOver part r = ((s.makeResident part r.vf).clearValid k).modHd fun h =>
      { h with
        loads := h.loads.drop part
        rolls := if part = agentPart then 0 else h.rolls
        rollq := if part = agentPart then [] else h.rollq } := by
    unfold State.loadOver
    rw [hr]
    dsimp only
    rw [if_pos hp]
  have hd := LoadFrame.delivered (c := false) s part r (s.partCoves part) (s.part part).occ
  obtain ⟨-, hparts, hvfs, -, -⟩ := State.loadReport_same
    (((if r.agent then (s.started part r).privDone .ok else s.started part r).dropAway (s.partCoves part) (s.part part).occ).ungate part)
    r.vf 0 0
  have hpart : ((s.deliverStart part).part part) = { s.part part with pstate := 2, occ := r.vf } := by
    rw [State.part, State.deliverStart_eq h, hparts, hd.parts, hload]
    exact (congrArg (fun m : Map PartEnt => m.get {} part) hover.parts).trans
      (Map.get_set_same s.hd.parts {} part { s.part part with pstate := 2, occ := r.vf })
  have hvf : ((s.deliverStart part).vf r.vf) = { s.vf r.vf with state := 2 } := by
    rw [State.vf, State.deliverStart_eq h, hvfs, hd.vfs, hload]
    exact (congrArg (fun m : Map VfEnt => m.get {} r.vf) hover.vfs).trans
      (Map.get_set_same s.hd.vfs {} r.vf { s.vf r.vf with state := 2 })
  rw [hpart, hvf]
  exact ⟨rfl, rfl, rfl⟩

/-- A new chart starts: its load is over, the host is told, and every tile of it has its start token. -/
theorem State.deliverStart_new {s : State} {part : Nat} {r : LoadRun} (h : s.hd.loads.look part = some r) (hr : r.resume = none)
    (ha : r.agent = false) :
    (s.deliverStart part).hd.loads.look part = none ∧ s.Reports (s.deliverStart part) r.vf 0 0
      ∧ ∀ e ∈ s.cfg.tiles, e.2.used = true → e.2.part = part → ((s.deliverStart part).tileAt e.1).ctlq = [r.start] := by
  have hover : s.loadOver part r = s.modHd fun h =>
      { h with
        loads := h.loads.drop part
        rolls := if part = agentPart then 0 else h.rolls
        rollq := if part = agentPart then [] else h.rollq } := by
    unfold State.loadOver
    rw [hr]
  have hd := LoadFrame.delivered (c := false) s part r (s.partCoves part) (s.part part).occ
  let v := ((if r.agent then (s.started part r).privDone .ok else s.started part r).dropAway (s.partCoves part) (s.part part).occ).ungate
    part
  have hu : s.deliverStart part = v.loadReport r.vf 0 0 := State.deliverStart_eq h
  obtain ⟨hl, -, -, -, ht⟩ := v.loadReport_same r.vf 0 0
  refine ⟨?_, ⟨v.hd.out, ?_⟩, fun e he hused hpart => ?_⟩
  · rw [hu, hl, hd.loads, hover]
    exact (Map.look_drop _ _ _).trans (if_pos rfl)
  · rw [hu, State.loadReport_out, hd.boot, hover]
    rfl
  · have hcfg : (s.beforeStart part r).cfg = s.cfg :=
      (((LoadFrame.startStages _ _ _).trans (LoadFrame.startContents _ _ _ _)).cfg rfl).trans (by rw [hover]; rfl)
    have hmem : e.1 ∈ (s.beforeStart part r).usedTiles part := by
      unfold State.usedTiles
      rw [hcfg]
      refine List.mem_map.mpr ⟨e, List.mem_filter.mpr ⟨he, ?_⟩, rfl⟩
      rw [hused, hpart]
      simp
    have htiles : v.tiles = ((s.beforeStart part r).giveStart r.start ((s.beforeStart part r).usedTiles part)).tiles := by
      refine (State.ungate_tiles _ _).trans ((State.dropAway_tiles _ _ _).trans ?_)
      rw [ha, if_neg Bool.false_ne_true, State.started, hr]
      rfl
    have hctl := State.giveStart_ctlq (s.beforeStart part r) r.start _ e.1 (Or.inl hmem)
    rw [hu, State.tileAt, ht, htiles]
    exact hctl

end Sys2Proof.Machine
end

section
/-! PROOF. Elastic stages (R45 to R49, R262). -/

namespace Sys2Proof.Machine

/-! ## Entries of a map -/

theorem Map.mem_of_look {α : Type} {m : Map α} {k : Nat} {r : α} (h : m.look k = some r) : (k, r) ∈ m := by
  induction m with
  | nil => cases h
  | cons e m ih =>
    obtain ⟨j, x⟩ := e
    simp only [Map.look] at h
    split at h
    · next hk =>
      cases h
      exact hk ▸ List.mem_cons_self
    · exact List.mem_cons_of_mem _ (ih h)

/-- A new entry without a property changes nothing of whether some entry has it, where the key's entries had it not. -/
theorem Map.any_put {α : Type} (p : α → Bool) {m : Map α} {k : Nat} {r : α} (hr : p r = false)
    (hm : ∀ e ∈ m, e.1 = k → p e.2 = false) : ((m.put k r).any fun e => p e.2) = m.any fun e => p e.2 := by
  induction m with
  | nil => simp [Map.put, hr]
  | cons e m ih =>
    have htail := ih fun x hx => hm x (List.mem_cons_of_mem e hx)
    obtain ⟨j, x⟩ := e
    simp only [Map.put]
    split
    · simp [hr]
    · split
      · next hk => simp [hr, hm (j, x) List.mem_cons_self hk.symm]
      · simp only [List.any_cons, htail]

/-! ## A sample (R45 to R47) -/

/-- `s` with a stage replaced. -/
def State.withStage (s : State) (key : Nat) (e : StageSt) : State := s.modHd fun h => { h with stages := h.stages.put key e }

theorem State.withStage_look (s : State) (key : Nat) (e : StageSt) : (s.withStage key e).hd.stages.look key = some e :=
  Map.look_put_same _ _ _

/-- The stage with its sample counted. -/
def State.counted (s : State) (e : StageSt) : StageSt :=
  { e with above := if e.hi < s.stageDepth e then e.above + 1 else 0, below := if s.stageDepth e < e.lo then e.below + 1 else 0 }

/-- The tile on which the stage would be cloned: the nearest free one of its die. -/
def State.nearFree (s : State) (key : Nat) (e : StageSt) : Option Nat :=
  nearestTile (e.tiles.headD 0) ((s.partTiles (key / 512)).filter fun t =>
    decide (dieOfTile t = dieOfTile (e.tiles.headD 0)) && s.isFreeTile (kindAt (e.tiles.headD 0 % 64)) t)

theorem State.sampleStage_counts {s : State} {key : Nat} {e : StageSt} (hh : s.stagesHeld (key / 512) = false) (hc : e.cloning = none) :
    s.sampleStage key e = if 3 ≤ (s.counted e).above ∧ e.count < 64 then (s.withStage key (s.counted e)).startClone key (s.counted e)
      else if 8 ≤ (s.counted e).below ∧ 1 < e.members.length then
        (s.withStage key (s.counted e)).startRemoval key (s.counted e)
      else s.withStage key (s.counted e) := by
  unfold State.sampleStage
  rw [hh, if_neg Bool.false_ne_true]
  split
  · next h =>
    rw [hc] at h
    cases h
  · rfl

theorem State.startClone_none {s : State} {key : Nat} {e : StageSt} (h : s.nearFree key e = none) : s.startClone key e = s := by
  unfold State.startClone
  dsimp only
  rw [show nearestTile _ _ = none from h]

theorem State.pushCfg_stages (s : State) (d : Nat) (c : CfgCmd) : (s.pushCfg d c).hd.stages = s.hd.stages := by
  unfold State.pushCfg
  dsimp only
  split <;> rfl

theorem State.startClone_some {s : State} {key t : Nat} {e : StageSt} (h : s.nearFree key e = some t) :
    (s.startClone key e).hd.stages.look key = some { e with above := 0, cloning := some t } := by
  unfold State.startClone
  dsimp only
  rw [show nearestTile _ _ = some t from h]
  dsimp only
  rw [State.pushCfg_stages]
  exact Map.look_put_same _ _ _

/-- A stage that counts its sample takes no tile from the free ones. -/
theorem State.nearFree_counted {s : State} {key : Nat} {e : StageSt} (hc : e.cloning = none)
    (hu : ∀ x ∈ s.hd.stages, x.1 = key → x.2 = e) : (s.withStage key (s.counted e)).nearFree key (s.counted e) = s.nearFree key e := by
  have hfree : (s.withStage key (s.counted e)).isFreeTile = s.isFreeTile := by
    funext k t
    have hany := Map.any_put (fun y : StageSt => decide (y.cloning = some t)) (m := s.hd.stages) (k := key) (r := s.counted e)
      (by simp [State.counted, hc]) (fun x hx hk => by simp [hu x hx hk, hc])
    simp only [State.isFreeTile]
    rw [← hany]
    rfl
  unfold State.nearFree
  rw [hfree]
  rfl

section
variable {s : State} {d key : Nat} {e : StageSt} (hf : (s.hd.stages.filter fun x => decide (x.1 % 8 = d)) = [(key, e)])
include hf

/-- A die's one stage is the only entry of its key. -/
theorem stage_unique {x : Nat × StageSt} (hx : x ∈ s.hd.stages) (hk : x.1 = key) : x.2 = e := by
  have hkey : key % 8 = d := by
    have hm : (key, e) ∈ s.hd.stages.filter fun x => decide (x.1 % 8 = d) := hf ▸ List.mem_singleton_self _
    exact of_decide_eq_true (List.mem_filter.mp hm).2
  have hm : x ∈ s.hd.stages.filter fun x => decide (x.1 % 8 = d) := List.mem_filter.mpr ⟨hx, decide_eq_true (hk ▸ hkey)⟩
  rw [hf] at hm
  exact congrArg Prod.snd (List.mem_singleton.mp hm)

theorem stage_look : s.hd.stages.look key = some e := by
  have hm : (key, e) ∈ s.hd.stages.filter fun x => decide (x.1 % 8 = d) := hf ▸ List.mem_singleton_self _
  obtain ⟨r, hr⟩ := Map.look_of_mem (List.mem_filter.mp hm).1
  rw [hr, ← stage_unique hf (Map.mem_of_look hr) rfl]

end

theorem exec_tideSample {s : State} {key : Nat} {e : StageSt} (hf : (s.hd.stages.filter fun x => decide (x.1 % 8 = s.ev.a)) = [(key, e)]) :
    exec .tideSample s = .next (s.sampleStage key e) := by
  change execTideSample s = _
  unfold execTideSample
  rw [hf]
  rfl

theorem State.startRemoval_stage (s : State) (key : Nat) (e : StageSt) : (s.startRemoval key e).hd.stages.look key
      = some { e with below := 0, removing := e.removing ++ e.members.getLast?.toList }
    ∧ (e.removing = [] → (s.now + 1, Instr.replicaRelease, ({ a := key / 512, b := key } : EvArg)) ∈ (s.startRemoval key e).agenda) := by
  unfold State.startRemoval
  dsimp only
  refine ⟨?_, fun hr => ?_⟩
  · split <;> exact Map.look_put_same _ _ _
  · rw [hr]
    exact State.mem_after (s.modHd _) 1 _ _

theorem Effect.shareCredits {a : Bool} (s : State) (c : ChanCfg) (chan crep n : Nat) : Effect a false s (s.shareCredits c chan crep n) :=
  Effect.foldl (fun u _ => Effect.modNet u _) _ s

/-- A clone that joins its stage takes its start token. -/
theorem State.joinClone_stage (s : State) (key t : Nat) (e : StageSt) : (s.joinClone key t e).hd.stages.look key
      = some { e with tiles := putReplica e.tiles t, cloning := none, written := false, above := 0 }
    ∧ (s.now + 1, Instr.controlTokenTake, ({ a := t } : EvArg)) ∈ (s.joinClone key t e).agenda := by
  unfold State.joinClone
  dsimp only
  generalize List.filter _ (State.cfg _).chans = into
  have heff := Effect.foldl (a := true) (b := false) (fun (u : State) (c : Nat × ChanCfg) =>
    Effect.shareCredits u c.2 c.1 ((u.dstTiles c.2).findIdx fun y => decide (y = t)) c.2.depth) into
    (s.withStage key { e with tiles := putReplica e.tiles t, cloning := none, written := false, above := 0 })
  refine ⟨?_, ?_⟩
  · exact (congrArg (fun h : Harbour => h.stages.look key) heff.hd :).trans (Map.look_put_same _ _ _)
  · have hnow := heff.now
    rw [show s.now = _ from hnow.symm]
    exact State.mem_after _ 1 _ _

/-! ## Replicas that leave (R47, R262) -/

/-- The replica on a tile holds nothing, nothing is on its way to it, and its partition is not held. -/
theorem State.hasDrained_iff (s : State) (key : Nat) (e : StageSt) (t : Nat) : s.hasDrained key e t = true ↔
    s.stagesHeld (key / 512) = false ∧ (s.tileAt t).slots = [] ∧ (s.tileAt t).wait = []
      ∧ s.unreserved t (s.stageChans key e t false) = true := by
  simp only [State.hasDrained, Bool.and_eq_true, Bool.not_eq_true', List.isEmpty_iff, and_assoc]

/-- A look at one of the replicas that the stage at `key` removes. -/
def State.lookReplica (s : State) (key t : Nat) : State :=
  match s.hd.stages.look key with
  | some e => if s.hasDrained key e t then s.releaseTile key e t else s
  | none => s

/-- The replicas that the stage at `key` still removes. -/
def State.stillRemoved (s : State) (key : Nat) : List Nat :=
  match s.hd.stages.look key with
  | some e => e.removing
  | none => []

section
variable {s : State} {key : Nat} {e : StageSt} (he : s.hd.stages.look key = some e)
include he

theorem State.releaseReplica_some : s.releaseReplica key =
    let s1 := e.removing.foldl (fun (a : State) t => a.lookReplica key t) s
    if (s1.stillRemoved key).isEmpty then s1 else s1.after 1 .replicaRelease { a := key / 512, b := key } := by
  unfold State.releaseReplica
  rw [he]
  rfl

theorem State.lookReplica_drained {t : Nat} (hd : s.hasDrained key e t = true) : s.lookReplica key t = s.releaseTile key e t := by
  unfold State.lookReplica
  rw [he]
  exact if_pos hd

theorem State.lookReplica_waits {t : Nat} (hd : s.hasDrained key e t = false) : s.lookReplica key t = s := by
  unfold State.lookReplica
  rw [he]
  exact if_neg (by rw [hd]; exact Bool.false_ne_true)

/-- The last replica that leaves has drained: its tile is free, and it is none of the stage's. -/
theorem State.releaseReplica_last {t : Nat} (hr : e.removing = [t]) (hd : s.hasDrained key e t = true) :
    (s.releaseReplica key).hd.stages.look key = some { e with tiles := dropReplica e.tiles t, removing := [] }
      ∧ (s.releaseReplica key).cfg.tiles.look t = none := by
  have hlook : (s.releaseTile key e t).hd.stages.look key = some { e with tiles := dropReplica e.tiles t, removing := [] } := by
    refine (Map.look_put_same _ _ _).trans ?_
    rw [hr]
    simp
  have hrel : s.releaseReplica key = s.releaseTile key e t := by
    rw [State.releaseReplica_some he, hr, List.foldl_cons, List.foldl_nil, State.lookReplica_drained he hd]
    refine if_pos ?_
    rw [State.stillRemoved, hlook]
    rfl
  rw [hrel]
  exact ⟨hlook, (Map.look_drop _ _ _).trans (if_pos rfl)⟩

/-- While no replica has drained, the stage is looked at again in the next fc. -/
theorem State.releaseReplica_stays (hr : e.removing ≠ []) (hd : ∀ t ∈ e.removing, s.hasDrained key e t = false) :
    s.releaseReplica key = s.after 1 .replicaRelease { a := key / 512, b := key } := by
  have hstay (l : List Nat) (hl : ∀ t ∈ l, s.hasDrained key e t = false) : l.foldl (fun (a : State) t => a.lookReplica key t) s = s := by
    induction l with
    | nil => rfl
    | cons t l ih =>
      rw [List.foldl_cons, State.lookReplica_waits he (hl t List.mem_cons_self)]
      exact ih fun u hu => hl u (List.mem_cons_of_mem t hu)
  rw [State.releaseReplica_some he, hstay e.removing hd]
  refine if_neg ?_
  rw [State.stillRemoved, he]
  simpa using hr

end

end Sys2Proof.Machine
end

section
/-! PROOF. Chart loads and elastic stages: the steps of the family, assembled. -/

namespace Sys2Proof.Machine

section
variable {s : State} {key : Nat} {e : StageSt} (hf : (s.hd.stages.filter fun x => decide (x.1 % 8 = s.ev.a)) = [(key, e)])
  (hh : s.stagesHeld (key / 512) = false) (hc : e.cloning = none)
include hf hh hc

/-- A stage that neither grows nor shrinks has its sample counted. -/
theorem State.sampleStage_same (hs : (¬(3 ≤ (s.counted e).above ∧ e.count < 64) ∧ ((s.counted e).below < 8 ∨ e.members.length ≤ 1))
      ∨ ((3 ≤ (s.counted e).above ∧ e.count < 64) ∧ s.nearFree key e = none)) :
    (s.sampleStage key e).hd.stages.look key = some (s.counted e) := by
  have hnear := State.nearFree_counted hc fun x hx hk => stage_unique hf hx hk
  rw [State.sampleStage_counts hh hc]
  rcases hs with ⟨hg, hb⟩ | ⟨hg, hn⟩
  · rw [if_neg hg, if_neg fun h : 8 ≤ (s.counted e).below ∧ 1 < e.members.length => by omega]
    exact s.withStage_look key _
  · rw [if_pos hg, State.startClone_none (hnear.trans hn)]
    exact s.withStage_look key _

/-- A stage that grows has a clone on its way to the nearest free tile. -/
theorem State.sampleStage_grows {t : Nat} (hg : 3 ≤ (s.counted e).above ∧ e.count < 64) (hn : s.nearFree key e = some t) :
    (s.sampleStage key e).hd.stages.look key = some { s.counted e with above := 0, cloning := some t } := by
  have hnear := State.nearFree_counted hc fun x hx hk => stage_unique hf hx hk
  rw [State.sampleStage_counts hh hc, if_pos hg]
  exact State.startClone_some (hnear.trans hn)

end

/-- A stage that shrinks takes its last member out. -/
theorem State.sampleStage_shrinks {s : State} {key t : Nat} {e : StageSt} (hh : s.stagesHeld (key / 512) = false) (hc : e.cloning = none)
    (hg : ¬(3 ≤ (s.counted e).above ∧ e.count < 64)) (hb : 8 ≤ (s.counted e).below)
    (hm : 1 < e.members.length) (ht : e.members.getLast? = some t) :
    (s.sampleStage key e).hd.stages.look key = some { s.counted e with below := 0, removing := e.removing ++ [t] }
      ∧ (e.removing = [] → (s.now + 1, Instr.replicaRelease, ({ a := key / 512, b := key } : EvArg)) ∈ (s.sampleStage key e).agenda) := by
  have hlast : (s.counted e).members.getLast?.toList = [t] := by
    rw [show (s.counted e).members = e.members from rfl, ht]
    rfl
  have hshrink : s.sampleStage key e = (s.withStage key (s.counted e)).startRemoval key (s.counted e) :=
    (State.sampleStage_counts hh hc).trans ((if_neg hg).trans (if_pos ⟨hb, hm⟩))
  obtain ⟨hlook, hdue⟩ := State.startRemoval_stage (s.withStage key (s.counted e)) key (s.counted e)
  rw [hshrink]
  rw [hlast] at hlook
  exact ⟨hlook, hdue⟩

/-- A sample with a clone on its way: the clone joins when its pattern is written, and nothing happens before. -/
theorem State.sampleStage_cloning {s : State} {key t : Nat} {e : StageSt} (hh : s.stagesHeld (key / 512) = false)
    (hc : e.cloning = some t) : s.sampleStage key e = if e.written then s.joinClone key t e else s := by
  unfold State.sampleStage
  rw [hh, hc]
  rfl

/-- Settles O52: each event is the step its name says, and what loads and stages then are. -/
theorem chartEvents : Obligations.ChartEvents := by
  unfold Obligations.ChartEvents
  intro s a b goes due waits img reports
  refine ⟨⟨fun hw => ?_, fun off st hw hv => ?_, fun hw hv hb => ?_, fun hw hv ht hm he => ?_, fun hw hv ht hm he => ?_⟩,
    fun r hr => ⟨fun ht => ?_, fun hid w ws hw => ?_, fun k hk hp => ?_, fun hk ha => ?_⟩, fun c rest r hq hc hl => ?_,
    fun key e hf hh hc => ?_, fun key e t hf hh hc => ⟨fun hw => ?_, fun hw => ?_⟩,
    fun e he => ⟨fun t hr hd => ?_, fun hr hd => ?_⟩⟩
  · refine ⟨s.chartLoad a b s.ev.img (decide (s.ev.c = 1)), rfl, ?_⟩
    rw [show s.chartLoad a b s.ev.img (decide (s.ev.c = 1)) = _ from if_pos hw]
    exact ⟨Map.look_put_same _ _ _, rfl, rfl⟩
  · refine ⟨s.chartLoad a b s.ev.img (decide (s.ev.c = 1)), rfl, ?_⟩
    rw [State.chartLoad_rejected hw rfl hv]
    exact s.pagesRead_report a b img _ st.code off
  · refine ⟨s.chartLoad a b s.ev.img (decide (s.ev.c = 1)), rfl, ?_⟩
    rw [State.chartLoad_reserved hw rfl hv hb]
    exact s.pagesRead_report a b img _ LoadStatus.fieldReserved.code 0
  · have hk := LoadFrame.pagesRead (c := true) s a b img (decide (s.ev.c = 1))
    refine ⟨s.chartLoad a b s.ev.img (decide (s.ev.c = 1)), rfl, ?_⟩
    rw [State.chartLoad_busy hw rfl hv ht hm he]
    refine ⟨?_, hk.cfg rfl, hk.loads⟩
    rw [show due _ 1 _ _ = ((s.now + 1, _, _) ∈ _) from rfl, ← State.pagesRead_now s a b img (decide (s.ev.c = 1))]
    exact State.mem_after _ 1 _ _
  · refine ⟨s.chartLoad a b s.ev.img (decide (s.ev.c = 1)), rfl, ?_⟩
    rw [State.chartLoad_begins hw rfl hv ht hm he]
    exact (State.beginLoad_isLoading _ a b img false).frame (LoadFrame.foldl (fun u _ => LoadFrame.dataWrite u _ _ _ _) _ _)
  · exact ⟨s.loadAck a b, rfl, State.loadAck_waiting hr ht⟩
  · refine ⟨s.loadTimeout a b, rfl, ?_⟩
    rw [← hid]
    exact State.loadTimeout_undone hr hw
  · exact ⟨s.deliverStart a, rfl, State.deliverStart_resident hr hk hp⟩
  · exact ⟨s.deliverStart a, rfl, State.deliverStart_new hr hk ha⟩
  · exact ⟨s.writePattern a, rfl, State.writePattern_spec hq hc hl⟩
  · intro d up down after near grows
    refine ⟨fun hs => ?_, fun t hg hn => ?_, fun t hg hb hm ht => ?_⟩
    · exact ⟨_, exec_tideSample hf, State.sampleStage_same hf hh hc hs⟩
    · exact ⟨_, exec_tideSample hf, State.sampleStage_grows hf hh hc hg hn⟩
    · exact ⟨_, exec_tideSample hf, State.sampleStage_shrinks hh hc hg hb hm ht⟩
  · refine ⟨_, exec_tideSample hf, ?_⟩
    rw [State.sampleStage_cloning hh hc, if_pos hw]
    exact (s.joinClone_stage key t e).symm
  · refine ⟨_, exec_tideSample hf, ?_⟩
    rw [State.sampleStage_cloning hh hc, if_neg (by rw [hw]; exact Bool.false_ne_true)]
    exact stage_look hf
  · exact ⟨s.releaseReplica b, rfl, State.releaseReplica_last he hr ((s.hasDrained_iff b e t).mpr hd)⟩
  · refine ⟨s.releaseReplica b, rfl, ?_⟩
    rw [State.releaseReplica_stays he hr fun t ht => Bool.eq_false_iff.mpr fun h => hd t ht ((s.hasDrained_iff b e t).mp h)]
    exact ⟨he, State.mem_after s 1 _ _⟩

end Sys2Proof.Machine
end

section
namespace Sys2Proof

/-! ## Operands and fields of a word -/

theorem Opnd.ofNum_num (o : Opnd) : Opnd.ofNum o.num = o := by
  cases o with
  | z | lx | fp | it | sq | xy | st | cx => rfl
  | w n | v n | i n | o n | k n | f n => revert n; decide

theorem Opnd.num_ofNum {n : Nat} (h : n < 2 ^ 7) : (Opnd.ofNum n).num = n :=
  (by decide : ∀ n < 2 ^ 7, (Opnd.ofNum n).num = n) n h

theorem num_opndField (w lo : Nat) : (opndField w lo).num = bitField w lo 7 :=
  Opnd.num_ofNum (Nat.mod_lt _ (by decide))

theorem toNat_bvField (n w lo : Nat) : (bvField n w lo).toNat = bitField w lo n := BitVec.toNat_ofNat ..

/-- The field at `lo` of a number written as what stands above it, the field, and what stands below it. -/
theorem bitField_of_digits (a : Nat) {x b lo len : Nat} (hx : x < 2 ^ len) (hb : b < 2 ^ lo) :
    bitField ((a * 2 ^ len + x) * 2 ^ lo + b) lo len = x := by
  rw [bitField, Nat.add_comm, Nat.add_mul_div_right _ _ (Nat.two_pow_pos lo), Nat.div_eq_of_lt hb, Nat.zero_add, Nat.add_comm,
    Nat.add_mul_mod_self_right, Nat.mod_eq_of_lt hx]

theorem mod_eq_bitField_add (w lo len : Nat) : w % 2 ^ (lo + len) = bitField w lo len * 2 ^ lo + w % 2 ^ lo := by
  rw [Nat.pow_add, Nat.mod_mul, Nat.add_comm, Nat.mul_comm, bitField]

/-! ## Fields and layouts (R59) -/

/-- A field of a word: an operand selector or an argument of `len` bits, or `len` bits that are fixed, from bit `lo` on. -/
inductive WordField where
  | opnd (lo : Nat)
  | bits (len lo : Nat)
  | fixed (len lo val : Nat)

def WordField.lo : WordField → Nat
  | .opnd lo | .bits _ lo | .fixed _ lo _ => lo

def WordField.len : WordField → Nat
  | .opnd _ => 7
  | .bits len _ | .fixed len _ _ => len

/-- The value of fixed bits fits them. -/
def WordField.sound : WordField → Bool
  | .fixed len _ v => decide (v < 2 ^ len)
  | _ => true

/-- What a field asks of the word `w`, if its bits are fixed. -/
def WordField.ask (w : Nat) : WordField → Option Prop
  | .fixed len lo v => some (bitField w lo len = v)
  | _ => none

/-- The fields of a word, from the highest one down. -/
abbrev Layout := List WordField

namespace Layout

/-- The fields fill the low `top` bits without a gap. -/
def fills : Layout → Nat → Bool
  | [], top => decide (top = 0)
  | f :: r, top => decide (top = f.lo + f.len) && (f.sound && fills r f.lo)

theorem fills_nil {top : Nat} : fills [] top = true ↔ top = 0 := decide_eq_true_iff

theorem fills_cons {f : WordField} {r : Layout} {top : Nat} :
    fills (f :: r) top = true ↔ top = f.lo + f.len ∧ f.sound = true ∧ fills r f.lo = true := by
  simp only [fills, Bool.and_eq_true, decide_eq_true_eq]

/-- The arguments that a word carries. -/
@[reducible] def Args : Layout → Type
  | [] => Unit
  | .opnd _ :: r => Opnd × Args r
  | .bits n _ :: r => BitVec n × Args r
  | .fixed .. :: r => Args r

/-- The type of a constructor of instructions with these arguments. -/
@[reducible] def Ctor : Layout → Type
  | [] => Instr
  | .opnd _ :: r => Opnd → Ctor r
  | .bits n _ :: r => BitVec n → Ctor r
  | .fixed .. :: r => Ctor r

/-- A constructor applied to its arguments. -/
def build : (L : Layout) → Ctor L → Args L → Instr
  | [], i, _ => i
  | .opnd _ :: r, mk, x => build r (mk x.1) x.2
  | .bits _ _ :: r, mk, x => build r (mk x.1) x.2
  | .fixed .. :: r, mk, x => build r mk x

/-- The arguments that the decoder reads from the word `w`. -/
def read : (L : Layout) → Nat → Args L
  | [], _ => ()
  | .opnd lo :: r, w => (opndField w lo, read r w)
  | .bits n lo :: r, w => (bvField n w lo, read r w)
  | .fixed .. :: r, w => read r w

/-- A number with `v` added from bit `lo` on, as the encoder writes it. -/
def place (c v lo : Nat) : Nat := if lo = 0 then c + v else c + v * 2 ^ lo

/-- The word that the encoder makes of `c` and the arguments. -/
def write : (L : Layout) → Nat → Args L → Nat
  | [], c, _ => c
  | .opnd lo :: r, c, x => write r (place c x.1.num lo) x.2
  | .bits _ lo :: r, c, x => write r (place c x.1.toNat lo) x.2
  | .fixed .. :: r, c, x => write r c x

/-- The fixed bits, in their places. -/
def fixedBits : Layout → Nat
  | [] => 0
  | .fixed _ lo v :: r => v * 2 ^ lo + fixedBits r
  | _ :: r => fixedBits r

/-- A conjunction as the decoder writes it. -/
def conj : List Prop → Prop
  | [] => True
  | [p] => p
  | p :: q :: r => p ∧ conj (q :: r)

/-- The fixed bits of the word `w` have their values, asked from the lowest field up, as the decoder asks. -/
def Fits (L : Layout) (w : Nat) : Prop := conj (L.reverse.filterMap (WordField.ask w))

theorem conj_iff (l : List Prop) : conj l ↔ ∀ p ∈ l, p := by
  induction l with
  | nil => simp only [conj, List.not_mem_nil, false_implies, implies_true]
  | cons p r ih =>
    refine Iff.trans ?_ (List.forall_mem_cons (p := fun p => p)).symm
    rw [← ih]
    cases r with
    | nil => simp only [conj, and_true]
    | cons q r => rfl

theorem fits_iff {L : Layout} {w : Nat} : L.Fits w ↔ ∀ f ∈ L, ∀ p ∈ f.ask w, p := by
  simp only [Fits, conj_iff, List.mem_filterMap, List.mem_reverse, forall_exists_index, and_imp]
  exact forall_comm.trans (forall_congr' fun f => forall_comm)

/-! ## The number that a layout makes -/

section
variable (f : WordField) {r : Layout} {x : Args (f :: r)} {w : Nat}

/-- The number in the first field. -/
def num : (f : WordField) → Args (f :: r) → Nat
  | .opnd _, x => x.1.num
  | .bits _ _, x => x.1.toNat
  | .fixed _ _ v, _ => v

/-- The arguments in the other fields. -/
def rest : (f : WordField) → Args (f :: r) → Args r
  | .opnd _, x => x.2
  | .bits _ _, x => x.2
  | .fixed .., x => x

theorem num_lt (hf : f.sound = true) : num f x < 2 ^ f.len := by
  cases f with
  | opnd lo => exact Laws.num_lt x.1
  | bits n lo => exact x.1.isLt
  | fixed n lo v => exact of_decide_eq_true hf

theorem num_read (h : ∀ p ∈ f.ask w, p) : num f (read (f :: r) w) = bitField w f.lo f.len := by
  cases f with
  | opnd lo => exact num_opndField w lo
  | bits n lo => exact toNat_bvField n w lo
  | fixed n lo v => exact (h _ rfl).symm

theorem rest_read : rest f (read (f :: r) w) = read r w := by
  cases f <;> rfl

/-- A word whose first field holds the number of the arguments is read back to them. -/
theorem read_cons (hn : bitField w f.lo f.len = num f x) (hr : read r w = rest f x) :
    read (f :: r) w = x ∧ ∀ p ∈ f.ask w, p := by
  cases f with
  | opnd lo =>
    have ho : opndField w lo = x.1 := (congrArg Opnd.ofNum hn).trans (Opnd.ofNum_num x.1)
    exact ⟨Prod.ext ho hr, nofun⟩
  | bits n lo =>
    have hb : bvField n w lo = x.1 := BitVec.eq_of_toNat_eq ((toNat_bvField n w lo).trans hn)
    exact ⟨Prod.ext hb hr, nofun⟩
  | fixed n lo v => exact ⟨hr, fun p hp => by cases hp; exact hn⟩

end

/-- The number that the fields make. -/
def value : (L : Layout) → Args L → Nat
  | [], _ => 0
  | f :: r, x => num f x * 2 ^ f.lo + value r (rest f x)

theorem place_eq (c v lo : Nat) : place c v lo = c + v * 2 ^ lo := by
  unfold place
  split
  · next h => rw [h, Nat.pow_zero, Nat.mul_one]
  · rfl

theorem write_add_fixedBits (L : Layout) (c : Nat) (x : Args L) : L.write c x + L.fixedBits = c + L.value x := by
  induction L generalizing c with
  | nil => rfl
  | cons f r ih =>
    cases f with
    | opnd lo | bits n lo => simp only [write, fixedBits, value, num, rest, WordField.lo, ih, place_eq, Nat.add_assoc]
    | fixed n lo v => 
      simp only [write, fixedBits, value, num, rest, WordField.lo]
      rw [Nat.add_left_comm, ih, Nat.add_left_comm]

theorem value_lt {L : Layout} {top : Nat} (hL : L.fills top = true) (x : Args L) : L.value x < 2 ^ top := by
  induction L generalizing top with
  | nil => exact Nat.two_pow_pos top
  | cons f r ih =>
    obtain ⟨rfl, hf, hr⟩ := fills_cons.mp hL
    calc num f x * 2 ^ f.lo + value r (rest f x) < num f x * 2 ^ f.lo + 2 ^ f.lo := Nat.add_lt_add_left (ih hr _) _
      _ = (num f x + 1) * 2 ^ f.lo := (Nat.succ_mul ..).symm
      _ ≤ 2 ^ f.len * 2 ^ f.lo := Nat.mul_le_mul_right _ (num_lt f hf)
      _ = 2 ^ (f.lo + f.len) := by rw [Nat.pow_add, Nat.mul_comm]

/-- What the fields make of the arguments is read back, whatever stands above it. -/
theorem read_value {L : Layout} {top : Nat} (hL : L.fills top = true) (a : Nat) (x : Args L) :
    read L (a * 2 ^ top + L.value x) = x ∧ L.Fits (a * 2 ^ top + L.value x) := by
  induction L generalizing top a with
  | nil => exact ⟨rfl, trivial⟩
  | cons f r ih =>
    obtain ⟨rfl, hf, hr⟩ := fills_cons.mp hL
    have hw : a * 2 ^ (f.lo + f.len) + value (f :: r) x = (a * 2 ^ f.len + num f x) * 2 ^ f.lo + value r (rest f x) := by
      rw [value, Nat.pow_add]; ring
    obtain ⟨hread, hfits⟩ := ih hr (a * 2 ^ f.len + num f x) (rest f x)
    rw [hw, fits_iff, List.forall_mem_cons, ← fits_iff]
    obtain ⟨hx, hask⟩ := read_cons f (bitField_of_digits a (num_lt f hf) (value_lt hr _)) hread
    exact ⟨hx, hask, hfits⟩

/-- What the decoder reads from a word whose fixed bits fit makes the word's low bits. -/
theorem value_read {L : Layout} {top w : Nat} (hL : L.fills top = true) (h : L.Fits w) : L.value (read L w) = w % 2 ^ top := by
  induction L generalizing top with
  | nil => rw [fills_nil.mp hL, Nat.pow_zero, Nat.mod_one]; rfl
  | cons f r ih =>
    obtain ⟨rfl, -, hr⟩ := fills_cons.mp hL
    rw [fits_iff, List.forall_mem_cons, ← fits_iff] at h
    rw [value, num_read f h.1, rest_read, ih hr h.2, mod_eq_bitField_add]

end Layout

/-! ## Words of 32 bits and compact ones (R58) -/

theorem toNat_halfword {n : Nat} (h : n < 2 ^ 16) : (BitVec.ofNat 16 n).toNat = n := Nat.mod_eq_of_lt h

theorem decode_long {w : Nat} {i : Instr} (hw : w / 2 ^ 31 = 1) (h : decodeWord w = .ok i) (rest : List (BitVec 16)) :
    decode (wordHalves 32 w ++ rest) = .ok (i, 2) := by
  have hhigh : (BitVec.ofNat 16 (w / 65536)).toNat = w / 65536 := toNat_halfword (by omega)
  have hjoin : w / 65536 * 65536 + (BitVec.ofNat 16 w).toNat = w := Nat.div_add_mod' w 65536
  have hlong : ¬w / 65536 < 32768 := by omega
  change decode (BitVec.ofNat 16 (w / 65536) :: BitVec.ofNat 16 w :: rest) = _
  simp only [decode, hhigh, hjoin, h, if_neg hlong]

theorem decode_short {w : Nat} {i : Instr} (hw : w < 2 ^ 15) (h : decodeCompact w = .ok i) (rest : List (BitVec 16)) :
    decode (wordHalves 16 w ++ rest) = .ok (i, 1) := by
  have hhalf : (BitVec.ofNat 16 w).toNat = w := toNat_halfword (by omega)
  change decode (BitVec.ofNat 16 w :: rest) = _
  simp only [decode, hhalf, h]
  exact if_pos hw

/-! ## Both directions for an instruction laid out by a layout -/

/-- The decoder reads the instruction back from its halfwords, with its length. -/
def Instr.ReadsBack (i : Instr) : Prop :=
  ∀ n w rest, encodeWord i = some (n, w) → decode (wordHalves n w ++ rest) = .ok (i, n / 16)

namespace Layout

/-- `c` is a word without arguments whose low `top` bits are laid out by `L`. -/
def isBase (L : Layout) (top c : Nat) : Bool := L.fills top && decide (c = c / 2 ^ top * 2 ^ top + L.fixedBits)

section
variable (L : Layout) {mk : Ctor L} {top n c w : Nat} {i : Instr}

variable {L} in
theorem isBase_iff : L.isBase top c = true ↔ L.fills top = true ∧ c = c / 2 ^ top * 2 ^ top + L.fixedBits := by
  simp only [isBase, Bool.and_eq_true, decide_eq_true_eq]

variable {L} in
/-- The word that the encoder makes keeps what stands above the layout. -/
theorem write_eq (hb : L.isBase top c = true) (x : Args L) : L.write c x = c / 2 ^ top * 2 ^ top + L.value x := by
  obtain ⟨-, hc⟩ := isBase_iff.mp hb
  have hsum := L.write_add_fixedBits c x
  omega

variable {L} in
theorem write_div (hb : L.isBase top c = true) (x : Args L) : L.write c x / 2 ^ top = c / 2 ^ top := by
  rw [write_eq hb, Nat.add_comm, Nat.add_mul_div_right _ _ (Nat.two_pow_pos top), Nat.div_eq_of_lt (value_lt (isBase_iff.mp hb).1 x),
    Nat.zero_add]

/-- A decoder that reads the layout reads the arguments back. -/
theorem dec_write {dec : Nat → Except LoadStatus Instr} (hb : L.isBase top c = true)
    (hd : ∀ w, L.Fits w → dec w = .ok (L.build mk (L.read w))) (x : Args L) : dec (L.write c x) = .ok (L.build mk x) := by
  obtain ⟨hread, hfits⟩ := read_value (isBase_iff.mp hb).1 (c / 2 ^ top) x
  rw [write_eq hb, hd _ hfits, hread]

theorem readsBack_long (x : Args L) (he : encodeWord (L.build mk x) = some (32, L.write c x))
    (hb : (L.isBase 23 c && decide (c / 2 ^ 23 / 2 ^ 8 = 1)) = true)
    (hd : ∀ w, L.Fits w → decodeOp (c / 2 ^ 23 % 2 ^ 8) w = .ok (L.build mk (L.read w))) : (L.build mk x).ReadsBack := by
  obtain ⟨hb, hc⟩ := Bool.and_eq_true_iff.mp hb
  have hdiv := write_div hb x
  have hw : L.write c x / 2 ^ 31 = 1 := by
    rw [Nat.pow_add 2 23 8, ← Nat.div_div_eq_div_mul, hdiv]; exact of_decide_eq_true hc
  have hdec : decodeWord (L.write c x) = .ok (L.build mk x) := by
    rw [decodeWord, bitField, hdiv]; exact dec_write L hb hd x
  intro n w rest h
  cases he.symm.trans h
  exact decode_long hw hdec rest

theorem readsBack_compact (x : Args L) (he : encodeWord (L.build mk x) = some (16, L.write c x))
    (hb : (L.isBase 10 c && decide (c / 2 ^ 10 < 2 ^ 5)) = true)
    (hd : ∀ w, L.Fits w → decodeCompactOp (c / 2 ^ 10 % 2 ^ 5) w = .ok (L.build mk (L.read w))) : (L.build mk x).ReadsBack := by
  obtain ⟨hb, hc⟩ := Bool.and_eq_true_iff.mp hb
  have hdiv := write_div hb x
  have hw : L.write c x < 2 ^ 15 := by
    have := of_decide_eq_true hc
    omega
  have hdec : decodeCompact (L.write c x) = .ok (L.build mk x) := by
    rw [decodeCompact, bitField, hdiv]; exact dec_write L hb hd x
  intro n w rest h
  cases he.symm.trans h
  exact decode_short hw hdec rest

/-- What is read from a word whose fixed bits fit has that word for its encoding. -/
theorem encodeWord_read (hf : L.Fits w) (he : ∀ x, encodeWord (L.build mk x) = some (n, L.write c x)) (hb : L.isBase top c = true)
    (hw : w / 2 ^ top = c / 2 ^ top) : encodeWord (L.build mk (L.read w)) = some (n, w) := by
  rw [he, write_eq hb, value_read (isBase_iff.mp hb).1 hf, ← hw, Nat.div_add_mod']

/-- A decoder that asks for the fixed bits and then reads the layout. -/
theorem encodes_fitting {inst : Decidable (L.Fits w)} {other : Except LoadStatus Instr}
    (h : @ite _ (L.Fits w) inst (.ok (L.build mk (L.read w))) other = .ok i) (ho : other ≠ .ok i)
    (he : ∀ x, encodeWord (L.build mk x) = some (n, L.write c x)) (hb : L.isBase top c = true) (hw : w / 2 ^ top = c / 2 ^ top) :
    encodeWord i = some (n, w) := by
  split at h
  · next hf => cases h; exact encodeWord_read L hf he hb hw
  · exact absurd h ho

/-- A decoder that only reads the layout. -/
theorem encodes_full (h : (.ok (L.build mk (L.read w)) : Except LoadStatus Instr) = .ok i)
    (he : ∀ x, encodeWord (L.build mk x) = some (n, L.write c x)) (hb : L.isBase top c = true) (hw : w / 2 ^ top = c / 2 ^ top)
    (hf : L.Fits w) : encodeWord i = some (n, w) := by
  cases h
  exact encodeWord_read L hf he hb hw

end

/-! ## The layouts of the instructions -/

/-- Of BR. -/
abbrev br : Layout := [.bits 3 20, .bits 1 19, .bits 19 0]

/-- Of LOOP, LI and LIH. -/
abbrev dImm16 : Layout := [.opnd 16, .bits 16 0]

/-- Of LOOPI. -/
abbrev loopi : Layout := [.bits 11 12, .bits 12 0]

/-- Of the instructions with two sources and no destination (A3). -/
abbrev ab : Layout := [.fixed 7 16 0, .opnd 9, .opnd 2, .fixed 2 0 0]

/-- Of the predicate compares (PC). -/
abbrev pcmp : Layout := [.bits 3 20, .opnd 13, .opnd 6, .fixed 6 0 0]

/-- Of PLOG. -/
abbrev plog : Layout := [.bits 3 20, .fixed 4 16 0, .bits 3 13, .fixed 4 9 0, .bits 3 6, .bits 4 2, .fixed 2 0 0]

/-- Of the mask compares (PC). -/
abbrev mcmp : Layout := [.fixed 1 22 0, .bits 2 20, .opnd 13, .opnd 6, .fixed 4 2 0, .bits 2 0]

/-- Of MLOG. -/
abbrev mlog : Layout := [.fixed 1 22 0, .bits 2 20, .fixed 5 15 0, .bits 2 13, .fixed 5 8 0, .bits 2 6, .bits 4 2, .fixed 2 0 0]

/-- Of MPOP and MFIRST. -/
abbrev dq : Layout := [.opnd 16, .fixed 14 2 0, .bits 2 0]

/-- Of the scalar instructions with two sources (A3). -/
abbrev dab : Layout := [.opnd 16, .opnd 9, .opnd 2, .fixed 2 0 0]

/-- Of ADDI and the scalar loads and stores (AI, MEM). -/
abbrev daImm9 : Layout := [.opnd 16, .opnd 9, .bits 9 0]

/-- Of SHLI, SHRI and SRAI. -/
abbrev daImm5 : Layout := [.opnd 16, .opnd 9, .fixed 4 5 0, .bits 5 0]

/-- Of the scalar instructions with one source (A3). -/
abbrev da : Layout := [.opnd 16, .opnd 9, .fixed 9 0 0]

/-- Of the vector instructions with one source and a mask or rounding mode (A3). -/
abbrev daq : Layout := [.opnd 16, .opnd 9, .fixed 7 2 0, .bits 2 0]

/-- Of the vector instructions with two sources and a mask or rounding mode (A3). -/
abbrev dabq : Layout := [.opnd 16, .opnd 9, .opnd 2, .bits 2 0]

/-- Of TGET. -/
abbrev tget : Layout := [.opnd 16, .opnd 9, .fixed 2 7 0, .bits 2 5, .bits 5 0]

/-- Of TSET. -/
abbrev tset : Layout := [.opnd 16, .opnd 9, .fixed 5 4 0, .bits 4 0]

/-- Of VADDS, VSUBS, VPACK and VUNPK. -/
abbrev dabe : Layout := [.opnd 16, .opnd 9, .opnd 2, .fixed 1 1 0, .bits 1 0]

/-- Of LDV, LDVB and STV. -/
abbrev daqOff : Layout := [.opnd 16, .opnd 9, .bits 2 7, .bits 7 0]

/-- Of FLD and FST. -/
abbrev slot : Layout := [.opnd 16, .fixed 8 8 116, .bits 8 0]

/-- Of DRAIN. -/
abbrev dOnly : Layout := [.opnd 16, .fixed 16 0 0]

/-- Of CHKB, SLTST, TSPAWN and EQT. -/
abbrev pab : Layout := [.fixed 4 19 0, .bits 3 16, .opnd 9, .opnd 2, .fixed 2 0 0]

/-- Of MSHP. -/
abbrev mshp : Layout := [.bits 4 19, .fixed 1 18 0, .bits 3 15, .fixed 5 10 0, .bits 3 7, .bits 4 3, .bits 3 0]

/-- Of TLD and TST of a tile register. -/
abbrev tileBind : Layout := [.bits 4 19, .fixed 17 2 0, .bits 2 0]

/-- Of TST of an accumulator. -/
abbrev tstAcc : Layout := [.fixed 8 15 0, .bits 3 12, .fixed 6 6 0, .bits 3 3, .fixed 1 2 1, .bits 2 0]

/-- Of TZERO and SRTK. -/
abbrev tile : Layout := [.bits 4 19, .fixed 19 0 0]

/-- Of TTR. -/
abbrev ttr : Layout := [.bits 4 19, .bits 4 15, .fixed 11 4 0, .bits 2 2, .bits 2 0]

/-- Of MSKR. -/
abbrev mskr : Layout := [.bits 4 19, .bits 4 15, .fixed 13 2 0, .bits 2 0]

/-- Of the matrix products and SCA (MX). -/
abbrev mx : Layout := [.bits 4 19, .bits 4 15, .bits 3 12, .fixed 12 0 0]

/-- Of SCAI. -/
abbrev scai : Layout := [.bits 4 19, .bits 4 15, .bits 3 12, .fixed 4 8 0, .bits 4 4, .bits 4 0]

/-- Of ACLR. -/
abbrev aclr : Layout := [.fixed 8 15 0, .bits 3 12, .fixed 11 1 0, .bits 1 0]

/-- Of AJOIN, ACPY and AIN. -/
abbrev accBits : Layout := [.fixed 8 15 0, .bits 3 12, .fixed 10 2 0, .bits 2 0]

/-- Of AOUT. -/
abbrev aout : Layout := [.bits 4 19, .fixed 4 15 0, .bits 3 12, .fixed 10 2 0, .bits 1 1, .bits 1 0]

/-- Of ARD. -/
abbrev ard : Layout := [.fixed 8 15 0, .bits 3 12, .fixed 4 8 0, .bits 1 7, .bits 2 5, .bits 1 4, .bits 4 0]

/-- Of SRTCFG. -/
abbrev srtcfg : Layout := [.fixed 12 11 0, .bits 8 3, .bits 1 2, .bits 2 0]

/-- Of SRTF. -/
abbrev srtf : Layout := [.fixed 14 9 0, .bits 1 8, .bits 4 4, .bits 2 2, .bits 2 0]

/-- Of TFEAT. -/
abbrev tfeat : Layout := [.bits 4 19, .fixed 18 1 0, .bits 1 0]

/-- Of SEND, SENDM, STEER and LOOPC (TOK). -/
abbrev tok : Layout := [.bits 2 21, .opnd 14, .bits 3 11, .bits 8 3, .bits 3 0]

/-- Of SENDE. -/
abbrev sende : Layout := [.bits 2 21, .fixed 7 14 56, .bits 3 11, .bits 8 3, .bits 3 0]

/-- Of MERGE. -/
abbrev merge : Layout := [.bits 2 21, .fixed 5 16 12, .bits 2 14, .bits 3 11, .bits 8 3, .bits 3 0]

/-- Of TAGN. -/
abbrev tagn : Layout := [.opnd 16, .fixed 5 11 0, .bits 2 9, .fixed 9 0 0]

/-- Of FALLOC. -/
abbrev falloc : Layout := [.opnd 16, .fixed 5 11 0, .bits 2 9, .opnd 2, .fixed 2 0 0]

/-- Of RAYS and FGLK. -/
abbrev rays : Layout := [.fixed 5 18 13, .bits 2 16, .opnd 9, .opnd 2, .fixed 2 0 0]

/-- Of EDGE. -/
abbrev edge : Layout := [.fixed 3 20 2, .bits 3 17, .fixed 1 16 0, .opnd 9, .opnd 2, .bits 2 0]

/-- Of ATTR. -/
abbrev attr : Layout := [.opnd 16, .fixed 3 13 2, .bits 3 10, .fixed 1 9 0, .opnd 2, .bits 2 0]

/-- Of TRAP and TRET. -/
abbrev aOnly : Layout := [.fixed 7 16 0, .opnd 9, .fixed 9 0 0]

/-- Of CSRR and CSRW. -/
abbrev csr : Layout := [.opnd 16, .fixed 4 12 0, .bits 12 0]

/-- Of the instructions without fields. -/
abbrev plain : Layout := [.fixed 23 0 0]

/-- Of C.BR. -/
abbrev cBr : Layout := [.bits 3 7, .bits 1 6, .bits 6 0]

/-- Of the compact instructions with two fields of five bits. -/
abbrev cPair : Layout := [.bits 5 5, .bits 5 0]

/-- Of C.SEND. -/
abbrev cSend : Layout := [.fixed 3 7 0, .bits 2 5, .bits 5 0]

/-- Of the compact vector instructions. -/
abbrev cVec : Layout := [.fixed 1 9 0, .bits 4 5, .fixed 1 4 0, .bits 4 0]

/-- Of the compact instructions without fields. -/
abbrev cPlain : Layout := [.fixed 10 0 0]

end Layout

end Sys2Proof
end

section
namespace Sys2Proof

/-! ## Decoding an encoded instruction -/

/-- TST of a tile register: the bit that tells the two forms apart is one of those that must be 0. -/
theorem decodeOp_tstTile (w : Nat) (h : Layout.tileBind.Fits w) : decodeOp 0xAC w = .ok (.tstTile (bvField 4 w 19) (bvField 2 w 0)) := by
  have h17 : bitField w 2 17 = 0 := h
  have h1 : bitField w 2 1 = 0 := by
    unfold bitField at h17 ⊢; omega
  exact (if_pos h1).trans (if_pos h17)

theorem decodeOp_tstAcc (w : Nat) (h : Layout.tstAcc.Fits w) :
    decodeOp 0xAC w = .ok (.tstAcc (bvField 3 w 12) (bvField 3 w 3) (bvField 2 w 0)) := by
  have h1 : ¬bitField w 2 1 = 0 := by rw [h.1]; decide
  exact (if_neg h1).trans (if_pos h)

open Layout in
theorem Instr.readsBack (i : Instr) : i.ReadsBack := by
  cases i with
  | br p n o =>
    exact readsBack_long .br (p, n, o, ()) rfl rfl (fun _ _ => rfl)
  | loop c l | li c l | lih c l =>
    exact readsBack_long .dImm16 (c, l, ()) rfl rfl (fun _ _ => rfl)
  | loopi n l =>
    exact readsBack_long .loopi (n, l, ()) rfl rfl (fun _ _ => rfl)
  | switch a b | slclm a b | slrel a b | tdec a b | permit a b | iscfg a b =>
    exact readsBack_long .ab (a, b, ()) rfl rfl (fun _ h => if_pos h)
  | pcmpEq p a b | pcmpNe p a b | pcmpLt p a b | pcmpLtu p a b | pfcmpEq p a b | pfcmpLt p a b | pfcmpLe p a b
  | pfcmpUn p a b =>
    exact readsBack_long .pcmp (p, a, b, ()) rfl rfl (fun _ h => if_pos h)
  | plog d a b t =>
    exact readsBack_long .plog (d, a, b, t, ()) rfl rfl (fun _ h => if_pos h)
  | mcmpEq d a b q | mcmpNe d a b q | mcmpLt d a b q | mcmpLtu d a b q | mfcmpEq d a b q | mfcmpLt d a b q | mfcmpLe d a b q
  | mfcmpUn d a b q =>
    exact readsBack_long .mcmp (d, a, b, q, ()) rfl rfl (fun _ h => if_pos h)
  | mlog d a b t =>
    exact readsBack_long .mlog (d, a, b, t, ()) rfl rfl (fun _ h => if_pos h)
  | mpop d q | mfirst d q =>
    exact readsBack_long .dq (d, q, ()) rfl rfl (fun _ h => if_pos h)
  | add d a b | sub d a b | mul d a b | mulh d a b | mulhu d a b | div d a b | divu d a b | rem d a b | remu d a b | and d a b
  | or d a b | xor d a b | shl d a b | shr d a b | sra d a b | min d a b | max d a b | bfx d a b | bfxu d a b | bfi d a b
  | sel d a b | agen d a b | agen2 d a b | vext d a b | vins d a b | fadd d a b | fmul d a b | ffma d a b | cvtF2q d a b
  | cvtQ2f d a b | hfwd d a b | hthr d a b | hpack d a b | hunpk d a b | htag d a b | hsett d a b | aadd d a b | amin d a b
  | amax d a b | aand d a b | aor d a b | axor d a b | axch d a b | acas d a b | afadd d a b | aincw d a b | hld d a b
  | hst d a b | evset d a b | evclr d a b | binapp d a b | occq d a b | emrd d a b =>
    exact readsBack_long .dab (d, a, b, ()) rfl rfl (fun _ h => if_pos h)
  | addi d a i | ldb d a i | ldbu d a i | ldh d a i | ldhu d a i | ldw d a i | stb d a i | sth d a i | stw d a i | ldnc d a i
  | stnc d a i =>
    exact readsBack_long .daImm9 (d, a, i, ()) rfl rfl (fun _ _ => rfl)
  | shli d a i | shri d a i | srai d a i =>
    exact readsBack_long .daImm5 (d, a, i, ()) rfl rfl (fun _ h => if_pos h)
  | clz d a | popc d a | brev d a | hinv d a | hqry d a | ffree d a | seqn d a =>
    exact readsBack_long .da (d, a, ()) rfl rfl (fun _ h => if_pos h)
  | mov d a q | vredAdd d a q | vredMin d a q | vredMax d a q | vscanAdd d a q | vclz d a q | vpopc d a q | vfabs d a q
  | vfneg d a q | vfrcp d a q | vfrsq d a q | vfsqrt d a q | vfexp2 d a q | vflog2 d a q | vfsin d a q | vftanh d a q
  | vfsig d a q | cvtF2i d a q | cvtI2f d a q =>
    exact readsBack_long .daq (d, a, q, ()) rfl rfl (fun _ h => if_pos h)
  | vbcast d a b q | vperm d a b q | vrotl d a b q | vadd d a b q | vsub d a b q | vmul d a b q | vmulh d a b q | vmad d a b q
  | vand d a b q | vor d a b q | vxor d a b q | vshl d a b q | vshr d a b q | vsra d a b q | vmin d a b q | vmax d a b q
  | vsel d a b q | vfadd d a b q | vfsub d a b q | vfmul d a b q | vfma d a b q | vfmin d a b q | vfmax d a b q | vfdiv d a b q
  | vfrnd d a b q | vfclmp d a b q | vflrp d a b q | vhmul d a b q | vhfma d a b q | vbfma d a b q | cvtF2h d a b q
  | cvtH2f d a b q | cvtF2b d a b q | cvtB2f d a b q | ldvs d a b q | ldvg d a b q | stvs d a b q | stvx d a b q | blnd d a b q
  | ztst d a b q =>
    exact readsBack_long .dabq (d, a, b, q, ()) rfl rfl (fun _ _ => rfl)
  | tget d a t w =>
    exact readsBack_long .tget (d, a, t, w, ()) rfl rfl (fun _ h => if_pos h)
  | tset d a w =>
    exact readsBack_long .tset (d, a, w, ()) rfl rfl (fun _ h => if_pos h)
  | vadds d a b e | vsubs d a b e | vpack d a b e | vunpk d a b e =>
    exact readsBack_long .dabe (d, a, b, e, ()) rfl rfl (fun _ h => if_pos h)
  | ldv d a q o | ldvb d a q o | stv d a q o =>
    exact readsBack_long .daqOff (d, a, q, o, ()) rfl rfl (fun _ _ => rfl)
  | fld d n | fst d n =>
    exact readsBack_long .slot (d, n, ()) rfl rfl (fun _ h => if_pos h)
  | drain d =>
    exact readsBack_long .dOnly (d, ()) rfl rfl (fun _ h => if_pos h)
  | chkb p a b | sltst p a b | tspawn p a b | eqt p a b =>
    exact readsBack_long .pab (p, a, b, ()) rfl rfl (fun _ h => if_pos h)
  | mshp n x h r f =>
    exact readsBack_long .mshp (n, x, h, r, f, ()) rfl rfl (fun _ h => if_pos h)
  | tld n b =>
    exact readsBack_long .tileBind (n, b, ()) rfl rfl (fun _ h => if_pos h)
  | tstTile n b =>
    exact readsBack_long .tileBind (n, b, ()) rfl rfl (decodeOp_tstTile)
  | tstAcc k f b =>
    exact readsBack_long .tstAcc (k, f, b, ()) rfl rfl (decodeOp_tstAcc)
  | tzero n | srtk n =>
    exact readsBack_long .tile (n, ()) rfl rfl (fun _ h => if_pos h)
  | ttr s d y x =>
    exact readsBack_long .ttr (s, d, y, x, ()) rfl rfl (fun _ h => if_pos h)
  | mskr n m f =>
    exact readsBack_long .mskr (n, m, f, ()) rfl rfl (fun _ h => if_pos h)
  | mmq2 a b k | mmq4 a b k | mmq7 a b k | mmi8 a b k | mmh a b k | mmb a b k | sca a b k =>
    exact readsBack_long .mx (a, b, k, ()) rfl rfl (fun _ h => if_pos h)
  | scai a b k j i =>
    exact readsBack_long .scai (a, b, k, j, i, ()) rfl rfl (fun _ h => if_pos h)
  | aclr k l =>
    exact readsBack_long .aclr (k, l, ()) rfl rfl (fun _ h => if_pos h)
  | ajoin k s | acpy k s | ain k s =>
    exact readsBack_long .accBits (k, s, ()) rfl rfl (fun _ h => if_pos h)
  | aout n k h f =>
    exact readsBack_long .aout (n, k, h, f, ()) rfl rfl (fun _ h => if_pos h)
  | ard k x p c i =>
    exact readsBack_long .ard (k, x, p, c, i, ()) rfl rfl (fun _ h => if_pos h)
  | srtcfg r d k =>
    exact readsBack_long .srtcfg (r, d, k, ()) rfl rfl (fun _ h => if_pos h)
  | srtf x i q p =>
    exact readsBack_long .srtf (x, i, q, p, ()) rfl rfl (fun _ h => if_pos h)
  | tfeat n g =>
    exact readsBack_long .tfeat (n, g, ()) rfl rfl (fun _ h => if_pos h)
  | send p s t m f | sendm p s t m f | steer p s t m f | loopc p s t m f =>
    exact readsBack_long .tok (p, s, t, m, f, ()) rfl rfl (fun _ _ => rfl)
  | sende p t m l =>
    exact readsBack_long .sende (p, t, m, l, ()) rfl rfl (fun _ h => if_pos h)
  | merge p s t m f =>
    exact readsBack_long .merge (p, s, t, m, f, ()) rfl rfl (fun _ h => if_pos h)
  | tagn d p =>
    exact readsBack_long .tagn (d, p, ()) rfl rfl (fun _ h => if_pos h)
  | falloc d p b =>
    exact readsBack_long .falloc (d, p, b, ()) rfl rfl (fun _ h => if_pos h)
  | rays p a b | fglk p a b =>
    exact readsBack_long .rays (p, a, b, ()) rfl rfl (fun _ h => (if_neg (not_not_intro h.1)).trans (if_pos h.2))
  | edge d a b q =>
    exact readsBack_long .edge (d, a, b, q, ()) rfl rfl (fun _ h => if_pos h)
  | attr d a b q =>
    exact readsBack_long .attr (d, a, b, q, ()) rfl rfl (fun _ h => if_pos h)
  | trap a | tret a =>
    exact readsBack_long .aOnly (a, ()) rfl rfl (fun _ h => if_pos h)
  | csrr d n | csrw d n =>
    exact readsBack_long .csr (d, n, ()) rfl rfl (fun _ h => if_pos h)
  | nop | endFiring | endfFiring | yield =>
    exact readsBack_long .plain () rfl rfl (fun _ h => if_pos h)
  | cBr p n o =>
    exact readsBack_compact .cBr (p, n, o, ()) rfl rfl (fun _ _ => rfl)
  | cLoopi n l | cMov n l | cLi n l | cAdd n l | cSub n l | cAddi n l | cAnd n l | cOr n l | cXor n l | cShli n l | cShri n l
  | cLdw n l | cStw n l | cTget n l | cFld n l | cFst n l =>
    exact readsBack_compact .cPair (n, l, ()) rfl rfl (fun _ _ => rfl)
  | cSend p y =>
    exact readsBack_compact .cSend (p, y, ()) rfl rfl (fun _ h => if_pos h)
  | cVfadd x y | cVfmul x y | cVfma x y | cVadd x y =>
    exact readsBack_compact .cVec (x, y, ()) rfl rfl (fun _ h => if_pos h)
  | cNop | cEnd =>
    exact readsBack_compact .cPlain () rfl rfl (fun _ h => if_pos h)
  | _ => exact fun _ _ _ h => nomatch h

/-- Settles O2: each instruction with an encoding is laid out by a layout, whose word the decoder reads back. -/
theorem decodeAfterEncode : Obligations.DecodeAfterEncode := by
  intro i n w rest h
  rw [encode, h]
  exact i.readsBack n w rest h

end Sys2Proof
end

section
namespace Sys2Proof

/-! ## Encoding a decoded instruction -/

open Layout

section
variable {op w : Nat} {i : Instr}

theorem encodeWord_of_tst (h : decTst w = .ok i) (hw : w / 2 ^ 23 = 256 + 0xAC) : encodeWord i = some (32, w) := by
  unfold decTst at h
  split at h
  · exact encodes_fitting .tileBind h nofun (fun _ => rfl) rfl hw
  · exact encodes_fitting .tstAcc h nofun (fun _ => rfl) rfl hw

/-- The decoder of RAYS and FGLK asks for the unused bits before it looks at the staging payload that they must name. -/
theorem encodeWord_of_rays {mk : Ctor rays} {n c : Nat} {e₁ e₂ : LoadStatus}
    (h : (if ¬bitField w 0 2 = 0 then Except.error e₁
      else if bitField w 18 5 = 13 then Except.ok (rays.build mk (rays.read w)) else Except.error e₂) = .ok i)
    (he : ∀ x, encodeWord (rays.build mk x) = some (n, rays.write c x)) (hb : rays.isBase 23 c = true)
    (hw : w / 2 ^ 23 = c / 2 ^ 23) : encodeWord i = some (n, w) := by
  split at h
  · cases h
  · next hz =>
    split at h
    · next hs => cases h; exact encodeWord_read .rays ⟨of_not_not hz, hs⟩ he hb hw
    · cases h

theorem encodeWord_of_row0 (h : decodeRow0 op w = .ok i) (hw : w / 2 ^ 23 = 256 + op) : encodeWord i = some (32, w) := by
  unfold decodeRow0 at h
  split at h
  case h_1 => exact encodes_full .br h (fun _ => rfl) rfl hw trivial
  case h_2 => exact encodes_full .dImm16 h (fun _ => rfl) rfl hw trivial
  case h_3 => exact encodes_full .loopi h (fun _ => rfl) rfl hw trivial
  case h_4 => exact encodes_fitting .ab h nofun (fun _ => rfl) rfl hw
  case h_5 | h_6 | h_7 | h_8 | h_9 | h_10 | h_11 | h_12 => exact encodes_fitting .pcmp h nofun (fun _ => rfl) rfl hw
  case h_13 | h_14 | h_15 | h_16 => exact encodes_fitting .plain h nofun (fun _ => rfl) rfl hw
  case h_17 => cases h

theorem encodeWord_of_row1 (h : decodeRow1 op w = .ok i) (hw : w / 2 ^ 23 = 256 + op) : encodeWord i = some (32, w) := by
  unfold decodeRow1 at h
  split at h
  case h_1 => exact encodes_fitting .plog h nofun (fun _ => rfl) rfl hw
  case h_2 | h_3 | h_4 | h_5 | h_6 | h_7 | h_8 | h_9 => exact encodes_fitting .mcmp h nofun (fun _ => rfl) rfl hw
  case h_10 => exact encodes_fitting .mlog h nofun (fun _ => rfl) rfl hw
  case h_11 | h_12 => exact encodes_fitting .dq h nofun (fun _ => rfl) rfl hw
  case h_13 | h_14 | h_16 => exact encodes_fitting .dab h nofun (fun _ => rfl) rfl hw
  case h_15 => exact encodes_full .daImm9 h (fun _ => rfl) rfl hw trivial
  case h_17 => cases h

theorem encodeWord_of_row2 (h : decodeRow2 op w = .ok i) (hw : w / 2 ^ 23 = 256 + op) : encodeWord i = some (32, w) := by
  unfold decodeRow2 at h
  split at h
  case h_1 | h_2 | h_3 | h_4 | h_5 | h_6 | h_7 | h_8 | h_9 | h_10 | h_11 | h_12 | h_16 =>
    exact encodes_fitting .dab h nofun (fun _ => rfl) rfl hw
  case h_13 | h_14 | h_15 => exact encodes_fitting .daImm5 h nofun (fun _ => rfl) rfl hw
  case h_17 => cases h

theorem encodeWord_of_row3 (h : decodeRow3 op w = .ok i) (hw : w / 2 ^ 23 = 256 + op) : encodeWord i = some (32, w) := by
  unfold decodeRow3 at h
  split at h
  case h_1 | h_5 | h_6 | h_7 | h_8 | h_12 | h_13 | h_15 | h_16 => exact encodes_fitting .dab h nofun (fun _ => rfl) rfl hw
  case h_2 | h_3 | h_4 => exact encodes_fitting .da h nofun (fun _ => rfl) rfl hw
  case h_9 => exact encodes_fitting .daq h nofun (fun _ => rfl) rfl hw
  case h_10 | h_11 => exact encodes_full .dImm16 h (fun _ => rfl) rfl hw trivial
  case h_14 => exact encodes_full .dabq h (fun _ => rfl) rfl hw trivial
  case h_17 => cases h

theorem encodeWord_of_row4 (h : decodeRow4 op w = .ok i) (hw : w / 2 ^ 23 = 256 + op) : encodeWord i = some (32, w) := by
  unfold decodeRow4 at h
  split at h
  case h_1 | h_2 | h_9 | h_10 | h_11 | h_12 | h_13 | h_14 | h_15 | h_16 =>
    exact encodes_full .dabq h (fun _ => rfl) rfl hw trivial
  case h_3 | h_4 | h_5 | h_6 => exact encodes_fitting .daq h nofun (fun _ => rfl) rfl hw
  case h_7 => exact encodes_fitting .tget h nofun (fun _ => rfl) rfl hw
  case h_8 => exact encodes_fitting .tset h nofun (fun _ => rfl) rfl hw
  case h_17 => cases h

theorem encodeWord_of_row5 (h : decodeRow5 op w = .ok i) (hw : w / 2 ^ 23 = 256 + op) : encodeWord i = some (32, w) := by
  unfold decodeRow5 at h
  split at h
  case h_1 | h_2 | h_3 | h_4 | h_5 | h_6 | h_13 | h_14 | h_15 | h_16 =>
    exact encodes_full .dabq h (fun _ => rfl) rfl hw trivial
  case h_7 | h_8 | h_9 | h_10 => exact encodes_fitting .dabe h nofun (fun _ => rfl) rfl hw
  case h_11 | h_12 => exact encodes_fitting .daq h nofun (fun _ => rfl) rfl hw
  case h_17 => cases h

theorem encodeWord_of_row6 (h : decodeRow6 op w = .ok i) (hw : w / 2 ^ 23 = 256 + op) : encodeWord i = some (32, w) := by
  unfold decodeRow6 at h
  split at h
  case h_1 | h_2 | h_8 | h_14 | h_15 | h_16 => exact encodes_full .dabq h (fun _ => rfl) rfl hw trivial
  case h_3 | h_4 | h_5 | h_6 | h_7 | h_9 | h_10 | h_11 | h_12 | h_13 =>
    exact encodes_fitting .daq h nofun (fun _ => rfl) rfl hw
  case h_17 => cases h

theorem encodeWord_of_row7 (h : decodeRow7 op w = .ok i) (hw : w / 2 ^ 23 = 256 + op) : encodeWord i = some (32, w) := by
  unfold decodeRow7 at h
  split at h
  case h_1 | h_2 | h_3 | h_9 | h_10 | h_11 | h_12 => exact encodes_full .dabq h (fun _ => rfl) rfl hw trivial
  case h_4 | h_5 | h_6 | h_13 | h_14 | h_15 => exact encodes_fitting .dab h nofun (fun _ => rfl) rfl hw
  case h_7 | h_8 => exact encodes_fitting .daq h nofun (fun _ => rfl) rfl hw
  case h_16 => exact encodes_fitting .da h nofun (fun _ => rfl) rfl hw
  case h_17 => cases h

theorem encodeWord_of_row8 (h : decodeRow8 op w = .ok i) (hw : w / 2 ^ 23 = 256 + op) : encodeWord i = some (32, w) := by
  unfold decodeRow8 at h
  split at h
  case h_1 | h_2 | h_3 | h_4 | h_6 => exact encodes_fitting .dab h nofun (fun _ => rfl) rfl hw
  case h_5 => exact encodes_fitting .da h nofun (fun _ => rfl) rfl hw
  case h_7 | h_8 | h_9 | h_10 | h_11 | h_12 | h_13 | h_14 => exact encodes_full .daImm9 h (fun _ => rfl) rfl hw trivial
  case h_15 => exact encodes_full .daqOff h (fun _ => rfl) rfl hw trivial
  case h_16 => exact encodes_full .dabq h (fun _ => rfl) rfl hw trivial
  case h_17 => cases h

theorem encodeWord_of_row9 (h : decodeRow9 op w = .ok i) (hw : w / 2 ^ 23 = 256 + op) : encodeWord i = some (32, w) := by
  unfold decodeRow9 at h
  split at h
  case h_1 | h_4 | h_5 => exact encodes_full .dabq h (fun _ => rfl) rfl hw trivial
  case h_2 | h_3 => exact encodes_full .daqOff h (fun _ => rfl) rfl hw trivial
  case h_6 | h_7 | h_8 | h_9 | h_10 | h_11 | h_12 | h_13 | h_14 | h_15 | h_16 =>
    exact encodes_fitting .dab h nofun (fun _ => rfl) rfl hw
  case h_17 => cases h

theorem encodeWord_of_rowA (h : decodeRowA op w = .ok i) (hw : w / 2 ^ 23 = 256 + op) : encodeWord i = some (32, w) := by
  unfold decodeRowA at h
  split at h
  case h_1 => exact encodes_fitting .dab h nofun (fun _ => rfl) rfl hw
  case h_2 | h_3 => exact encodes_fitting .slot h nofun (fun _ => rfl) rfl hw
  case h_4 | h_5 => exact encodes_full .daImm9 h (fun _ => rfl) rfl hw trivial
  case h_6 => exact encodes_fitting .dOnly h nofun (fun _ => rfl) rfl hw
  case h_7 | h_10 => exact encodes_fitting .pab h nofun (fun _ => rfl) rfl hw
  case h_8 | h_9 => exact encodes_fitting .ab h nofun (fun _ => rfl) rfl hw
  case h_11 => exact encodes_fitting .mshp h nofun (fun _ => rfl) rfl hw
  case h_12 => exact encodes_fitting .tileBind h nofun (fun _ => rfl) rfl hw
  case h_13 => exact encodeWord_of_tst h hw
  case h_14 => exact encodes_fitting .tile h nofun (fun _ => rfl) rfl hw
  case h_15 => exact encodes_fitting .ttr h nofun (fun _ => rfl) rfl hw
  case h_16 => exact encodes_fitting .mskr h nofun (fun _ => rfl) rfl hw
  case h_17 => cases h

theorem encodeWord_of_rowB (h : decodeRowB op w = .ok i) (hw : w / 2 ^ 23 = 256 + op) : encodeWord i = some (32, w) := by
  unfold decodeRowB at h
  split at h
  case h_1 | h_2 | h_3 | h_4 | h_5 | h_6 | h_7 => exact encodes_fitting .mx h nofun (fun _ => rfl) rfl hw
  case h_8 => exact encodes_fitting .scai h nofun (fun _ => rfl) rfl hw
  case h_9 => exact encodes_fitting .aclr h nofun (fun _ => rfl) rfl hw
  case h_10 | h_11 | h_13 => exact encodes_fitting .accBits h nofun (fun _ => rfl) rfl hw
  case h_12 => exact encodes_fitting .aout h nofun (fun _ => rfl) rfl hw
  case h_14 => exact encodes_fitting .ard h nofun (fun _ => rfl) rfl hw
  case h_15 => exact encodes_fitting .srtcfg h nofun (fun _ => rfl) rfl hw
  case h_16 => exact encodes_fitting .tile h nofun (fun _ => rfl) rfl hw
  case h_17 => cases h

theorem encodeWord_of_rowC (h : decodeRowC op w = .ok i) (hw : w / 2 ^ 23 = 256 + op) : encodeWord i = some (32, w) := by
  unfold decodeRowC at h
  split at h
  case h_1 => exact encodes_fitting .srtf h nofun (fun _ => rfl) rfl hw
  case h_2 => exact encodes_fitting .tfeat h nofun (fun _ => rfl) rfl hw
  case h_3 | h_5 | h_6 | h_8 => exact encodes_full .tok h (fun _ => rfl) rfl hw trivial
  case h_4 => exact encodes_fitting .sende h nofun (fun _ => rfl) rfl hw
  case h_7 => exact encodes_fitting .merge h (by split <;> nofun) (fun _ => rfl) rfl hw
  case h_9 => exact encodes_fitting .tagn h nofun (fun _ => rfl) rfl hw
  case h_10 => exact encodes_fitting .falloc h nofun (fun _ => rfl) rfl hw
  case h_11 => exact encodes_fitting .da h nofun (fun _ => rfl) rfl hw
  case h_12 => exact encodes_fitting .pab h nofun (fun _ => rfl) rfl hw
  case h_13 | h_16 => exact encodes_fitting .ab h nofun (fun _ => rfl) rfl hw
  case h_14 | h_15 => exact encodes_fitting .dab h nofun (fun _ => rfl) rfl hw
  case h_17 => cases h

theorem encodeWord_of_rowD (h : decodeRowD op w = .ok i) (hw : w / 2 ^ 23 = 256 + op) : encodeWord i = some (32, w) := by
  unfold decodeRowD at h
  split at h
  case h_1 | h_2 => exact encodeWord_of_rays h (fun _ => rfl) rfl hw
  case h_3 | h_4 => exact encodes_full .dabq h (fun _ => rfl) rfl hw trivial
  case h_5 | h_8 | h_15 => exact encodes_fitting .dab h nofun (fun _ => rfl) rfl hw
  case h_6 => exact encodes_fitting .edge h (by split <;> nofun) (fun _ => rfl) rfl hw
  case h_7 => exact encodes_fitting .attr h nofun (fun _ => rfl) rfl hw
  case h_9 => exact encodes_fitting .da h nofun (fun _ => rfl) rfl hw
  case h_10 => exact encodes_fitting .ab h nofun (fun _ => rfl) rfl hw
  case h_11 | h_12 => exact encodes_fitting .aOnly h nofun (fun _ => rfl) rfl hw
  case h_13 | h_14 => exact encodes_fitting .csr h nofun (fun _ => rfl) rfl hw
  case h_16 => exact encodes_fitting .pab h nofun (fun _ => rfl) rfl hw
  case h_17 => cases h

theorem encodeWord_of_compact (h : decodeCompactOp op w = .ok i) (hw : w / 2 ^ 10 = op) : encodeWord i = some (16, w) := by
  unfold decodeCompactOp at h
  split at h
  case h_1 => exact encodes_full .cBr h (fun _ => rfl) rfl hw trivial
  case h_2 | h_3 | h_4 | h_5 | h_6 | h_7 | h_8 | h_9 | h_10 | h_11 | h_12 | h_13 | h_14 | h_16 | h_21 | h_22 =>
    exact encodes_full .cPair h (fun _ => rfl) rfl hw trivial
  case h_15 => exact encodes_fitting .cSend h nofun (fun _ => rfl) rfl hw
  case h_17 | h_18 | h_19 | h_20 => exact encodes_fitting .cVec h nofun (fun _ => rfl) rfl hw
  case h_23 | h_24 => exact encodes_fitting .cPlain h nofun (fun _ => rfl) rfl hw
  case h_25 => cases h

theorem encodeWord_of_op (h : decodeOp op w = .ok i) (hw : w / 2 ^ 23 = 256 + op) : encodeWord i = some (32, w) := by
  unfold decodeOp at h
  split at h
  case h_1 => exact encodeWord_of_row0 h hw
  case h_2 => exact encodeWord_of_row1 h hw
  case h_3 => exact encodeWord_of_row2 h hw
  case h_4 => exact encodeWord_of_row3 h hw
  case h_5 => exact encodeWord_of_row4 h hw
  case h_6 => exact encodeWord_of_row5 h hw
  case h_7 => exact encodeWord_of_row6 h hw
  case h_8 => exact encodeWord_of_row7 h hw
  case h_9 => exact encodeWord_of_row8 h hw
  case h_10 => exact encodeWord_of_row9 h hw
  case h_11 => exact encodeWord_of_rowA h hw
  case h_12 => exact encodeWord_of_rowB h hw
  case h_13 => exact encodeWord_of_rowC h hw
  case h_14 => exact encodeWord_of_rowD h hw
  case h_15 => cases h

theorem encode_of_compact {x : BitVec 16} (h : decodeCompact x.toNat = .ok i) (hx : x.toNat < 32768) : encode i = [x] := by
  have hop : x.toNat / 2 ^ 10 = bitField x.toNat 10 5 := by
    unfold bitField; omega
  rw [encode, encodeWord_of_compact h hop]
  exact congrArg (fun y => [y]) (BitVec.eq_of_toNat_eq (toNat_halfword x.isLt))

theorem encode_of_long {x y : BitVec 16} (h : decodeWord (x.toNat * 65536 + y.toNat) = .ok i) (hx : ¬x.toNat < 32768) :
    encode i = [x, y] := by
  have hlow := y.isLt
  have hop : (x.toNat * 65536 + y.toNat) / 2 ^ 23 = 256 + bitField (x.toNat * 65536 + y.toNat) 23 8 := by
    have := x.isLt
    unfold bitField; omega
  have hhigh : BitVec.ofNat 16 ((x.toNat * 65536 + y.toNat) / 65536) = x := by
    apply BitVec.eq_of_toNat_eq; rw [toNat_halfword] <;> omega
  have hrest : BitVec.ofNat 16 (x.toNat * 65536 + y.toNat) = y := by
    apply BitVec.eq_of_toNat_eq; rw [BitVec.toNat_ofNat]; omega
  rw [encode, encodeWord_of_op h hop]
  change [_, _] = _
  rw [hhigh, hrest]

end

/-- Settles O3: what a decoder reads by a layout has the word it was read from for its encoding, and the halfwords of that word
are those at the head of the code. -/
theorem encodeAfterDecode : Obligations.EncodeAfterDecode := by
  intro code i n h
  unfold decode at h
  split at h
  · cases h
  · next x r =>
    split at h
    · next hx =>
      split at h
      · next j hd =>
        cases h
        exact encode_of_compact hd hx
      · cases h
    · next hx =>
      split at h
      · cases h
      · next y r =>
        split at h
        · next j hd =>
          cases h
          exact encode_of_long hd hx
        · cases h

/-! ## Words that are refused (R65) -/

theorem decodeOp_unassigned {op : Nat} (h : 0xE0 ≤ op) (w : Nat) : decodeOp op w = .error .opcodeUnassigned := by
  have hrow : ¬op / 16 < 14 := by omega
  unfold decodeOp
  split
  case h_15 => rfl
  all_goals omega

theorem decodeCompactOp_unassigned {op : Nat} (h : 0x18 ≤ op) (w : Nat) : decodeCompactOp op w = .error .compactUnassigned := by
  unfold decodeCompactOp
  split
  case h_25 => rfl
  all_goals omega

/-- Settles O1: each sample word is the encoding of its instruction (O2), and the refusals go by the opcode that the words have. -/
theorem sampleWordsDecode : Obligations.SampleWordsDecode := by
  refine ⟨decodeAfterEncode (.cTget 1 0) _ _ [0x8E04] rfl, decodeAfterEncode (.add (.w 4) (.w 1) (.k 3)) _ _ [] rfl,
    decodeAfterEncode (.cSend 0 4) _ _ [] rfl, decodeAfterEncode .endFiring _ _ [] rfl, decodeAfterEncode (.loop (.k 8) 24) _ _ [] rfl,
    decodeAfterEncode (.tdec (.w 1) (.w 2)) _ _ [] rfl, fun h l r hh => ?_, fun h r hlo hhi => ?_, fun h hh => ?_⟩
  · have hlong : ¬h.toNat < 32768 := by omega
    have hop : 0xE0 ≤ bitField (h.toNat * 65536 + l.toNat) 23 8 := by
      have hw := h.isLt
      unfold bitField; omega
    simp only [decode, if_neg hlong, decodeWord, decodeOp_unassigned hop]
  · have hop : 0x18 ≤ bitField h.toNat 10 5 := by
      unfold bitField; omega
    simp only [decode, decodeCompact, decodeCompactOp_unassigned hop]
    exact if_pos hhi
  · have hlong : ¬h.toNat < 32768 := by omega
    simp only [decode, if_neg hlong]

end Sys2Proof
end

section
namespace Sys2Proof.Machine

/-! ## Destinations that take a write -/

theorem isOk_ok {ε α : Type} (a : α) : (Except.ok a : Except ε α).isOk = true := rfl

theorem isOk_error {ε α : Type} (e : ε) : (Except.error e : Except ε α).isOk = false := rfl

theorem exists_of_isOk {ε α : Type} {r : Except ε α} (h : r.isOk = true) : ∃ a, r = .ok a := by
  cases r with
  | error e => cases h
  | ok a => exact ⟨a, rfl⟩

/-- A vector register cannot be read spatially where its tag has a level above 4 (R116). -/
theorem VReg.spatial_isOk (x : VReg) : x.spatial.isOk = decide (tagLevel x.tag ≤ 4) := by
  unfold VReg.spatial
  split
  · next h => rw [isOk_ok, h]; rfl
  · split
    · next h => rw [isOk_error, eq_comm, decide_eq_false_iff_not]; exact Nat.not_le.mpr h
    · next h => rw [isOk_ok, eq_comm, decide_eq_true_eq]; exact Nat.le_of_not_lt h

/-- What a masked write replaces (R117). -/
def View.old (v : View) (o : Opnd) : VReg :=
  match o with
  | .v n => v.f.v.get {} n.toNat
  | .o n => v.f.o.get {} n.toNat
  | _ => {}

theorem View.old_congr {v u : View} (h : v.f = u.f) (o : Opnd) : v.old o = u.old o := by
  cases o <;> simp only [View.old, h]

/-- A masked write is refused only where it must reconstruct what cannot be reconstructed (R117). -/
theorem View.vput_isOk (v : View) (d : Opnd) (m : BitVec 16) (x : VReg) (p : List Opnd) : (v.vput d m x p).isOk =
    (decide (m = 0) || !decide (m ≠ 0xFFFF ∧ (v.old d).tag ≠ x.tag) || ((v.old d).spatial.isOk && x.spatial.isOk)) := by
  change (if m = 0 then .ok v else if m ≠ 0xFFFF ∧ (v.old d).tag ≠ x.tag then
    (match (v.old d).spatial, x.spatial with
      | .error e, _ => .error e
      | .ok _, .error e => .error e
      | .ok _, .ok _ => .ok _) else .ok _ : Except Trap View).isOk = _
  by_cases hm : m = 0
  · rw [if_pos hm, isOk_ok, decide_eq_true hm]; rfl
  · rw [if_neg hm, decide_eq_false hm, Bool.false_or]
    by_cases hc : m ≠ 0xFFFF ∧ (v.old d).tag ≠ x.tag
    · rw [if_pos hc, decide_eq_true hc, Bool.not_true, Bool.false_or]
      cases (v.old d).spatial <;> cases x.spatial <;> rfl
    · rw [if_neg hc, isOk_ok, decide_eq_false hc]; rfl

/-- Whether it is refused depends on the firing's registers, the mask and the new tag. -/
theorem View.vput_isOk_congr {v u : View} (hf : v.f = u.f) (d : Opnd) (m : BitVec 16) {x y : VReg} (h : x.tag = y.tag)
    (p q : List Opnd) : (v.vput d m x p).isOk = (u.vput d m y q).isOk := by
  rw [View.vput_isOk, View.vput_isOk, View.old_congr hf, VReg.spatial_isOk x, VReg.spatial_isOk y, h]

theorem View.vtakes_eq (v : View) (d : Opnd) (m : BitVec 16) (t : BitVec 6) : v.vtakes d m t = (v.vput d m { tag := t } []).isOk := by
  unfold View.vtakes
  cases v.vput d m { tag := t } [] <;> rfl

theorem View.takes_eq (v : View) (d : Opnd) : v.takes d = (v.put d 0).isOk := by
  unfold View.takes
  cases v.put d 0 <;> rfl

/-- A vector destination that takes a vector of a tag takes every vector of that tag, whatever has been paid for. -/
theorem View.vput_of_vtakes {v u : View} {d : Opnd} {m : BitVec 16} {x : VReg} (h : v.vtakes d m x.tag = true) (hf : u.f = v.f)
    (p : List Opnd) : u.vput d m x p = .ok (u.vwrote d m x p) := by
  rw [View.vtakes_eq, ← View.vput_isOk_congr hf d m (x := x) (y := { tag := x.tag }) rfl p []] at h
  obtain ⟨w, hw⟩ := exists_of_isOk h
  rw [View.vwrote, hw]

/-- The charge of an instruction makes no destination refuse a write. -/
@[simp] theorem State.seen_takes (s : State) (f : Firing) (cls : Nat) (d : Opnd) : (s.seen f cls).takes d = (s.view f).takes d := by
  rw [View.takes_eq, View.takes_eq]
  cases d with
  | f n =>
    obtain ⟨m, hm⟩ := s.seen_eq f cls
    rw [hm]
    change (View.setSlot _ _ _).isOk = (View.setSlot _ _ _).isOk
    unfold View.setSlot
    dsimp only [View.frame]
    split <;> rfl
  | o n =>
    change ((s.seen f cls).vput (.o n) 1 _ []).isOk = ((s.view f).vput (.o n) 1 _ []).isOk
    exact View.vput_isOk_congr (v := s.seen f cls) (u := s.view f) rfl _ _ rfl _ _
  | _ => rfl

/-- A register instruction whose work succeeds. -/
theorem State.exec_ok {s : State} {f : Firing} {i : Instr} {cls n : Nat} {work : View → Except Trap View} {v : View} (hr : s.runs f)
    (hi : exec i s = s.runView cls n work) (hw : work (s.seen f cls) = .ok v) : exec i s = .next (s.ran f cls n v) :=
  hi.trans (State.runView_ok hr hw)

/-- A register instruction that ends in a write to a scalar destination. -/
theorem State.exec_put {s : State} {f : Firing} {i : Instr} {cls n : Nat} {work : View → Except Trap View} {d : Opnd} {x : W32}
    (hr : s.runs f) (ht : (s.view f).takes d = true) (hi : exec i s = s.runView cls n work)
    (hw : work (s.seen f cls) = (s.seen f cls).put d x) : exec i s = .next (s.ran f cls n ((s.seen f cls).wrote d x)) :=
  State.exec_ok hr hi (hw.trans (View.takes_put ((s.seen_takes f cls d).trans ht) x))

/-! ## Moves and compact instructions -/

theorem exec_mov (d a : Opnd) (q : BitVec 2) (s : State) : exec (.mov d a q) s =
    s.runView (if vectorForm d a then 8 else 1) 2 fun v => v.move d a q := rfl

theorem exec_li (d : Opnd) (i : BitVec 16) (s : State) : exec (.li d i) s =
    s.runView 1 2 fun v => v.put d (i.signExtend 32) := rfl

theorem exec_lih (d : Opnd) (i : BitVec 16) (s : State) : exec (.lih d i) s =
    s.runView 1 2 fun v => v.scalar1 d d fun x => loadHigh x i := rfl

theorem exec_tget (d a : Opnd) (t : BitVec 2) (w : BitVec 5) (s : State) : exec (.tget d a t w) s =
    s.runView 12 2 fun v => v.tokenWord d a t.toNat w.toNat := rfl

theorem exec_cMov (x y : BitVec 5) (s : State) : exec (.cMov x y) s =
    s.runView 1 1 fun v => v.move (.w x) (.w y) 0 := rfl

theorem exec_cLi (x y : BitVec 5) (s : State) : exec (.cLi x y) s =
    s.runView 1 1 fun v => v.put (.w x) (y.signExtend 32) := rfl

theorem exec_cAdd (x y : BitVec 5) (s : State) : exec (.cAdd x y) s =
    s.runView 1 1 fun v => v.scalar2 (.w x) (.w x) (.w y) fun a b => a + b := rfl

theorem exec_cSub (x y : BitVec 5) (s : State) : exec (.cSub x y) s =
    s.runView 1 1 fun v => v.scalar2 (.w x) (.w x) (.w y) fun a b => a - b := rfl

theorem exec_cAddi (x y : BitVec 5) (s : State) : exec (.cAddi x y) s =
    s.runView 1 1 fun v => v.scalar1 (.w x) (.w x) fun a => a + y.signExtend 32 := rfl

theorem exec_cAnd (x y : BitVec 5) (s : State) : exec (.cAnd x y) s =
    s.runView 1 1 fun v => v.scalar2 (.w x) (.w x) (.w y) fun a b => a &&& b := rfl

theorem exec_cOr (x y : BitVec 5) (s : State) : exec (.cOr x y) s =
    s.runView 1 1 fun v => v.scalar2 (.w x) (.w x) (.w y) fun a b => a ||| b := rfl

theorem exec_cXor (x y : BitVec 5) (s : State) : exec (.cXor x y) s =
    s.runView 1 1 fun v => v.scalar2 (.w x) (.w x) (.w y) fun a b => a ^^^ b := rfl

theorem exec_cShli (x y : BitVec 5) (s : State) : exec (.cShli x y) s =
    s.runView 1 1 fun v => v.scalar1 (.w x) (.w x) fun a => a <<< y.toNat := rfl

theorem exec_cShri (x y : BitVec 5) (s : State) : exec (.cShri x y) s =
    s.runView 1 1 fun v => v.scalar1 (.w x) (.w x) fun a => a >>> y.toNat := rfl

theorem exec_cTget (x y : BitVec 5) (s : State) : exec (.cTget x y) s =
    s.runView 12 1 fun v => v.tokenWord (.w x) (.i 0) 0 y.toNat := rfl

theorem exec_nop (s : State) : exec .nop s = s.runView 59 2 fun v => .ok v := rfl

theorem exec_cNop (s : State) : exec .cNop s = s.runView 59 1 fun v => .ok v := rfl

theorem loadHigh_eq (z : W32) (i : BitVec 16) : loadHigh z i = BitVec.ofNat 32 (i.toNat * 2 ^ 16 + z.toNat % 2 ^ 16) := by
  apply BitVec.eq_of_toNat_eq
  have hi : i.toNat < 2 ^ 16 := i.isLt
  have hshift : (i.setWidth 32 <<< 16).toNat = i.toNat <<< 16 := by
    rw [BitVec.toNat_shiftLeft, BitVec.toNat_setWidth, Nat.shiftLeft_eq, Nat.shiftLeft_eq]; omega
  have hlow : (z &&& 0xFFFF).toNat = z.toNat % 2 ^ 16 := Nat.and_two_pow_sub_one_eq_mod z.toNat 16
  rw [loadHigh, BitVec.toNat_or, hshift, hlow, ← Nat.shiftLeft_add_eq_or_of_lt (Nat.mod_lt _ (by decide)), Nat.shiftLeft_eq,
    BitVec.toNat_ofNat]
  omega

theorem shiftLeft_eq_ofNat (x : W32) (n : Nat) : x <<< n = BitVec.ofNat 32 (x.toNat * 2 ^ n) := by
  apply BitVec.eq_of_toNat_eq
  simp [Nat.shiftLeft_eq]

theorem shiftRight_eq_ofNat (x : W32) (n : Nat) : x >>> n = BitVec.ofNat 32 (x.toNat / 2 ^ n) := by
  apply BitVec.eq_of_toNat_eq
  rw [BitVec.toNat_ushiftRight, Nat.shiftRight_eq_div_pow, BitVec.toNat_ofNat, Nat.mod_eq_of_lt (Nat.lt_of_le_of_lt (Nat.div_le_self ..) x.isLt)]

theorem add_signExtend_eq_ofInt (x : W32) (y : BitVec 5) : x + y.signExtend 32 = BitVec.ofInt 32 (x.toInt + y.toInt) := by
  rw [BitVec.ofInt_add, BitVec.ofInt_toInt]; rfl

section
variable {s : State} {f : Firing} (hr : s.runs f) {d : Opnd} (ht : (s.view f).takes d = true)
include hr ht

theorem exec_mov_scalar {a : Opnd} {x : W32} (q : BitVec 2) (hs : (s.view f).src a = .ok x) (hd : isV d = false) (ha : isV a = false)
    (ho : ¬(isO d = true ∧ isI a = true)) : exec (.mov d a q) s = .next (s.ran f 1 2 ((s.seen f 1).wrote d x)) := by
  have hv : vectorForm d a = false := by simpa [vectorForm, hd, ha] using ho
  refine State.exec_put (cls := 1) hr ht (by rw [exec_mov, hv]; rfl) ?_
  simp only [View.move, hv, View.scalar1, State.seen_src, hs]
  rfl

theorem exec_lih_src {z : W32} (i : BitVec 16) (hs : (s.view f).src d = .ok z) : exec (.lih d i) s =
    .next (s.ran f 1 2 ((s.seen f 1).wrote d (BitVec.ofNat 32 (i.toNat * 2 ^ 16 + z.toNat % 2 ^ 16)))) := by
  refine State.exec_put hr ht (exec_lih d i s) ?_
  simp only [View.scalar1, State.seen_src, hs, ← loadHigh_eq]
  rfl

end

/-- Settles O7: each instruction reads its sources and writes one scalar destination; only the words written differ. -/
theorem movesAndCompacts : Obligations.MovesAndCompacts := by
  refine ⟨fun s f d a x z i q hr ht => ⟨fun hs hd ha ho => exec_mov_scalar hr ht q hs hd ha ho, State.exec_put hr ht (exec_li d i s) rfl,
    exec_lih_src hr ht i, fun n t w => State.exec_put hr ht (exec_tget d (.i n) t w s) rfl⟩, fun s f x y hr => ?_⟩
  intro X Y done
  have put {i : Instr} {cls : Nat} {work : View → Except Trap View} {r : W32} (hi : exec i s = s.runView cls 1 work)
      (hw : work (s.seen f cls) = (s.seen f cls).put (.w x) r) : exec i s = .next (s.ran f cls 1 ((s.seen f cls).wrote (.w x) r)) :=
    State.exec_put hr rfl hi hw
  refine ⟨put (exec_cMov x y s) rfl, put (exec_cLi x y s) rfl, put (exec_cAdd x y s) rfl, put (exec_cSub x y s) rfl, ?_,
    put (exec_cAnd x y s) rfl, put (exec_cOr x y s) rfl, put (exec_cXor x y s) rfl, ?_, ?_, put (exec_cTget x y s) rfl,
    State.exec_ok hr (exec_cNop s) rfl, State.exec_ok hr (exec_nop s) rfl⟩
  · exact (put (exec_cAddi x y s) rfl).trans (congrArg done (add_signExtend_eq_ofInt X y))
  · exact (put (exec_cShli x y s) rfl).trans (congrArg done (shiftLeft_eq_ofNat X y.toNat))
  · exact (put (exec_cShri x y s) rfl).trans (congrArg done (shiftRight_eq_ofNat X y.toNat))

end Sys2Proof.Machine
end

section
namespace Sys2Proof.Machine

/-! ## Lane-wise results and their flags (R117, R147) -/

theorem getLsbD_orFlags {α : Type} (l : List (α × Flags)) (j : Nat) :
    (orFlags l).getLsbD j = true ↔ ∃ e ∈ l, e.2.getLsbD j = true := by
  have key : ∀ a : Flags, (l.foldl (fun a e => a ||| e.2) a).getLsbD j = true ↔ a.getLsbD j = true ∨ ∃ e ∈ l, e.2.getLsbD j = true := by
    induction l with
    | nil => simp
    | cons e r ih => intro a; simp [ih, or_assoc]
  rw [orFlags, key]
  simp

/-- The results of the enabled lanes and their flags are what `laneResults` gives. -/
theorem lanesAre_laneResults (m : BitVec 16) (g : Nat → W32 × Flags) : lanesAre m g (laneResults m g).1 (laneResults m g).2 := by
  refine ⟨fun l hl hm => ?_, fun j _ => ?_⟩
  · rw [laneResults, lane_ofLaneList _ _ hl]
    simp [List.getElem?_range hl, hm]
  · rw [laneResults, getLsbD_orFlags]
    simp only [List.mem_map, List.mem_range, exists_exists_and_eq_and]
    refine exists_congr fun l => and_congr_right fun _ => ?_
    cases m.getLsbD l <;> simp

/-- Lanes that set no flag set none together. -/
theorem laneResults_flags_zero (m : BitVec 16) (g : Nat → W32) : (laneResults m fun l => (g l, 0)).2 = 0 := by
  apply BitVec.eq_of_getLsbD_eq
  intro j _
  rw [(by simp : (0 : Flags).getLsbD j = false), Bool.eq_false_iff, ne_eq, laneResults, getLsbD_orFlags]
  rintro ⟨e, he, hj⟩
  obtain ⟨l, -, rfl⟩ := List.mem_map.mp he
  split at hj <;> simp at hj

theorem View.flag_zero (v : View) : v.flag 0 = v := by
  have h : v.t.astat ||| 0 = v.t.astat := by simp
  simp only [View.flag, h]

/-! ## Sources whose values are read (R144) -/

@[simp] theorem State.seen_valueOf (s : State) (f : Firing) (cls : Nat) (live : Bool) (o : Opnd) :
    (s.seen f cls).valueOf live o = (s.view f).valueOf live o := by
  simp only [View.valueOf, State.seen_vec]

@[simp] theorem State.seen_tagOf (s : State) (f : Firing) (cls : Nat) (o : Opnd) : (s.seen f cls).tagOf o = (s.view f).tagOf o := by
  cases o <;> rfl

@[simp] theorem State.seen_vtakes (s : State) (f : Firing) (cls : Nat) (d : Opnd) (m : BitVec 16) (t : BitVec 6) :
    (s.seen f cls).vtakes d m t = (s.view f).vtakes d m t := by
  rw [View.vtakes_eq, View.vtakes_eq]
  exact View.vput_isOk_congr (v := s.seen f cls) (u := s.view f) rfl _ _ rfl _ _

/-- A source whose values can be read can be read without reconstruction. -/
theorem View.valueOf_stored {v : View} {live : Bool} {o : Opnd} {x : VBits} (h : v.valueOf live o = .ok x) :
    ∃ y, v.valueOf false o = .ok y := by
  unfold View.valueOf at h ⊢
  cases hv : v.vec o with
  | error e => rw [hv] at h; cases h
  | ok u =>
    rw [hv] at h
    change (if 4 < tagLevel u.tag then _ else _) = _ at h
    change ∃ y, (if 4 < tagLevel u.tag then _ else _) = _
    split at h
    · cases h
    · next hl => exact ⟨_, if_neg hl⟩

/-- A vector source of at most four levels gives its stored lanes. -/
theorem View.valueOf_false {v : View} {o : Opnd} {u : VReg} (h : v.vec o = .ok u) (hl : tagLevel u.tag ≤ 4) :
    v.valueOf false o = .ok u.bits := by
  unfold View.valueOf
  rw [h]
  exact if_neg (Nat.not_lt.mpr hl)

theorem View.tagOf_of_vec {v : View} {o : Opnd} {u : VReg} (h : v.vec o = .ok u) : v.tagOf o = u.tag := by
  cases o with
  | f n =>
    change (match v.slot n.toNat with
      | .ok x => .ok { bits := splat x }
      | .error e => .error e : Except Trap VReg) = _ at h
    split at h
    · exact congrArg VReg.tag (Except.ok.inj h)
    · cases h
  | _ => exact congrArg VReg.tag (Except.ok.inj h)

/-- The work of a form with two sources whose values can be read. -/
theorem View.float2_eq {v : View} {d a b : Opnd} {q : BitVec 2} {g : W32 → W32 → W32 × Flags} {x y : VBits}
    (hx : v.valueOf (decide (v.mask q.toNat ≠ 0)) a = .ok x) (hy : v.valueOf (decide (v.mask q.toNat ≠ 0)) b = .ok y) :
    let r := laneResults (v.mask q.toNat) fun l => g (lane x l) (lane y l)
    v.float2 d a b q g = ((v.billIf (decide (v.mask q.toNat ≠ 0)) [a, b]).flag r.2).vput d (v.mask q.toNat) { bits := r.1 } [a, b] := by
  unfold View.float2
  dsimp only
  rw [hx, hy]
  rfl

/-- The work of a form that reads its destination too. -/
theorem View.float3_eq {v : View} {d a b : Opnd} {q : BitVec 2} {g : W32 → W32 → W32 → W32 × Flags} {x y z : VBits}
    (hx : v.valueOf (decide (v.mask q.toNat ≠ 0)) a = .ok x) (hy : v.valueOf (decide (v.mask q.toNat ≠ 0)) b = .ok y)
    (hz : v.valueOf (decide (v.mask q.toNat ≠ 0)) d = .ok z) :
    let r := laneResults (v.mask q.toNat) fun l => g (lane z l) (lane x l) (lane y l)
    v.float3 d a b q g
      = ((v.billIf (decide (v.mask q.toNat ≠ 0)) [d, a, b]).flag r.2).vput d (v.mask q.toNat) { bits := r.1 } [d, a, b] := by
  unfold View.float3
  dsimp only
  rw [hx, hy, hz]
  rfl

/-! ## Instructions that compute on spatial values (R148) -/

/-- The instruction `i` of `n` halfwords and class `cls` computes the lanes `g` that `q` enables, after it has read the operands `l`
spatially, sets their flags, and writes them to `d` with tag 0. -/
def State.Computes (s : State) (f : Firing) (d : Opnd) (q : BitVec 2) (i : Instr) (cls n : Nat) (l : List Opnd) (g : Nat → W32 × Flags) :
    Prop :=
  let m := (s.view f).mask q.toNat
  ∃ r fl, exec i s = .next (s.ran f cls n ((((s.seen f cls).billIf (decide (m ≠ 0)) l).flag fl).vwrote d m { bits := r } l))
    ∧ lanesAre m g r fl

section
variable {s : State} {f : Firing} {d a b : Opnd} {q : BitVec 2} {x y z : VBits}

/-- A billed view with flags set has the firing's registers. -/
theorem View.f_flag_billIf (v : View) (live : Bool) (l : List Opnd) (fl : Flags) : ((v.billIf live l).flag fl).f = v.f := by
  cases live <;> rfl

theorem State.computes_of_vput {i : Instr} {cls n : Nat} {l : List Opnd} {g : Nat → W32 × Flags} {work : View → Except Trap View}
    (hr : s.runs f) (ht : (s.view f).vtakes d ((s.view f).mask q.toNat) 0 = true) (hi : exec i s = s.runView cls n work)
    (hw : let m := (s.view f).mask q.toNat
      work (s.seen f cls) = (((s.seen f cls).billIf (decide (m ≠ 0)) l).flag (laneResults m g).2).vput d m { bits := (laneResults m g).1 } l) :
    s.Computes f d q i cls n l g := 
  ⟨_, _, State.exec_ok hr hi (hw.trans (View.vput_of_vtakes (v := s.view f) (x := { bits := _ }) ht
    (View.f_flag_billIf (s.seen f cls) _ l _) l)), lanesAre_laneResults ..⟩

section
variable (hr : s.runs f) (hx : (s.view f).valueOf (decide ((s.view f).mask q.toNat ≠ 0)) a = .ok x)
  (hy : (s.view f).valueOf (decide ((s.view f).mask q.toNat ≠ 0)) b = .ok y)
  (ht : (s.view f).vtakes d ((s.view f).mask q.toNat) 0 = true)
include hr hx hy ht

theorem State.computes_float2 {i : Instr} {cls n : Nat} {g : W32 → W32 → W32 × Flags} {work : View → Except Trap View}
    (hi : exec i s = s.runView cls n work) (hw : work (s.seen f cls) = (s.seen f cls).float2 d a b q g) :
    s.Computes f d q i cls n [a, b] fun l => g (lane x l) (lane y l) := by
  rw [← s.seen_valueOf f cls] at hx hy
  exact State.computes_of_vput hr ht hi (hw.trans (View.float2_eq hx hy))

theorem State.computes_float3 {i : Instr} {cls n : Nat} {g : W32 → W32 → W32 → W32 × Flags} {work : View → Except Trap View}
    (hz : (s.view f).valueOf (decide ((s.view f).mask q.toNat ≠ 0)) d = .ok z)
    (hi : exec i s = s.runView cls n work) (hw : work (s.seen f cls) = (s.seen f cls).float3 d a b q g) :
    s.Computes f d q i cls n [d, a, b] fun l => g (lane z l) (lane x l) (lane y l) := by
  rw [← s.seen_valueOf f cls] at hx hy hz
  exact State.computes_of_vput hr ht hi (hw.trans (View.float3_eq hx hy hz))

/-- A sum or difference of which R146 keeps no tag. -/
theorem State.computes_addSub {i : Instr} {n : Nat} {g : W32 → W32 → W32 × Flags} {neg : W32} 
    (ha : ¬((s.view f).tagOf a ≠ 0 ∧ ((s.view f).tagOf a = (s.view f).tagOf b ∨ isBroadcast b = true)))
    (hb : ¬((s.view f).tagOf b ≠ 0 ∧ isBroadcast a = true)) (hi : exec i s = s.runView 14 n fun v => v.addSub d a b q g neg) :
    s.Computes f d q i 14 n [a, b] fun l => g (lane x l) (lane y l) := by
  obtain ⟨x', hx'⟩ := View.valueOf_stored hx
  obtain ⟨y', hy'⟩ := View.valueOf_stored hy
  refine State.computes_float2 hr hx hy ht hi ?_
  simp only [View.addSub, State.seen_tagOf, State.seen_valueOf, hx', hy']
  exact (if_neg fun h => ha ⟨h.1, .inl h.2⟩).trans ((if_neg fun h => ha ⟨h.1, .inr h.2⟩).trans (if_neg hb))

/-- A product of which R146 keeps no tag. -/
theorem State.computes_times {i : Instr} {n : Nat} (ha : ¬((s.view f).tagOf a ≠ 0 ∧ isBroadcast b = true))
    (hb : ¬((s.view f).tagOf b ≠ 0 ∧ isBroadcast a = true)) (hi : exec i s = s.runView 14 n fun v => v.times d a b q) :
    s.Computes f d q i 14 n [a, b] fun l => mulF (lane x l) (lane y l) := by
  obtain ⟨x', hx'⟩ := View.valueOf_stored hx
  obtain ⟨y', hy'⟩ := View.valueOf_stored hy
  refine State.computes_float2 hr hx hy ht hi ?_
  simp only [View.times, State.seen_tagOf, State.seen_valueOf, hx', hy']
  exact (if_neg ha).trans (if_neg hb)

/-- A multiply-add of which R146 keeps no tag. -/
theorem State.computes_multiplyAdd {i : Instr} {n : Nat}
    (hz : (s.view f).valueOf (decide ((s.view f).mask q.toNat ≠ 0)) d = .ok z)
    (hd : ¬((s.view f).tagOf d ≠ 0 ∧ (((s.view f).tagOf a = (s.view f).tagOf d ∧ isBroadcast b = true)
      ∨ ((s.view f).tagOf b = (s.view f).tagOf d ∧ isBroadcast a = true) ∨ (isBroadcast a = true ∧ isBroadcast b = true))))
    (hi : exec i s = s.runView 15 n fun v => v.multiplyAdd d a b q) :
    s.Computes f d q i 15 n [d, a, b] fun l => fmaF (lane z l) (lane x l) (lane y l) := by
  obtain ⟨x', hx'⟩ := View.valueOf_stored hx
  obtain ⟨y', hy'⟩ := View.valueOf_stored hy
  obtain ⟨z', hz'⟩ := View.valueOf_stored hz
  refine State.computes_float3 hr hx hy ht hz hi ?_
  simp only [View.multiplyAdd, State.seen_tagOf, State.seen_valueOf, hx', hy', hz']
  exact (if_neg fun h => hd ⟨h.1, h.2.elim .inl fun h => .inr (.inl h)⟩).trans (if_neg fun h => hd ⟨h.1, .inr (.inr h.2)⟩)

end

/-- A negation keeps the tag and inverts the sign bits of the stored lanes (R146). -/
theorem State.exec_vfneg {u : VReg} (hr : s.runs f) (hu : (s.view f).vec a = .ok u) (hl : tagLevel u.tag ≤ 4)
    (ht : (s.view f).vtakes d ((s.view f).mask q.toNat) u.tag = true) :
    ∃ r, exec (.vfneg d a q) s
        = .next (s.ran f 13 2 ((s.seen f 13).vwrote d ((s.view f).mask q.toNat) { bits := r, tag := u.tag } []))
      ∧ ∀ l, l < 16 → lane r l = lane u.bits l ^^^ 0x80000000 := by
  have hi : exec (.vfneg d a q) s = s.runView 13 2 fun v => v.valueOf false a >>= fun x =>
      v.keepTag d q (v.tagOf a) fun l => (lane x l ^^^ 0x80000000, 0) := rfl
  have hv := View.vput_of_vtakes (v := s.view f) (u := s.seen f 13) (d := d) (m := (s.view f).mask q.toNat)
    (x := { bits := ofLanes fun l => lane u.bits l ^^^ 0x80000000, tag := u.tag }) ht rfl []
  refine ⟨_, State.exec_ok hr hi (Eq.trans ?_ hv), fun l hl => lane_ofLanes _ l hl⟩
  simp only [State.seen_valueOf, View.valueOf_false hu hl, State.seen_tagOf, View.tagOf_of_vec hu]
  change (View.flag _ (laneResults _ _).2).vput _ _ _ _ = _
  rw [laneResults_flags_zero, View.flag_zero]
  rfl

end

theorem exec_vfadd (d a b : Opnd) (q : BitVec 2) (s : State) : exec (.vfadd d a b q) s =
    s.runView 14 2 fun v => v.addSub d a b q addF 0 := rfl

theorem exec_vfsub (d a b : Opnd) (q : BitVec 2) (s : State) : exec (.vfsub d a b q) s =
    s.runView 14 2 fun v => v.addSub d a b q subF 0x80000000 := rfl

theorem exec_vfmul (d a b : Opnd) (q : BitVec 2) (s : State) : exec (.vfmul d a b q) s =
    s.runView 14 2 fun v => v.times d a b q := rfl

theorem exec_vfma (d a b : Opnd) (q : BitVec 2) (s : State) : exec (.vfma d a b q) s =
    s.runView 15 2 fun v => v.multiplyAdd d a b q := rfl

theorem exec_cVfadd (u v : BitVec 4) (s : State) : exec (.cVfadd u v) s =
    s.runView 14 1 fun w => w.addSub (.v u) (.v u) (.v v) 0 addF 0 := rfl

theorem exec_cVfmul (u v : BitVec 4) (s : State) : exec (.cVfmul u v) s =
    s.runView 14 1 fun w => w.times (.v u) (.v u) (.v v) 0 := rfl

theorem exec_cVfma (u v : BitVec 4) (s : State) : exec (.cVfma u v) s =
    s.runView 15 1 fun w => w.multiplyAdd (.v u) (.v u) (.v v) 0 := rfl

/-- Settles O17: where R146 keeps no tag the instructions are the forms that compute on spatial values, the compact ones too. -/
theorem vectorArithmetic : Obligations.VectorArithmetic := by
  intro s f d a b q x y z hr m live ta tb td does short
  refine ⟨fun hx hy ht => ⟨fun ha hb => ⟨?_, ?_, ?_⟩, fun ha hb => ⟨?_, ?_⟩, fun hz hd => ⟨?_, ?_⟩⟩, fun u hu hl ht => ?_⟩
  · exact State.computes_addSub hr hx hy ht ha hb (exec_vfadd d a b q s)
  · exact State.computes_addSub hr hx hy ht ha hb (exec_vfsub d a b q s)
  · rintro u v ⟨rfl, rfl, rfl, rfl⟩
    exact State.computes_addSub hr hx hy ht ha hb (exec_cVfadd u v s)
  · exact State.computes_times hr hx hy ht ha hb (exec_vfmul d a b q s)
  · rintro u v ⟨rfl, rfl, rfl, rfl⟩
    exact State.computes_times hr hx hy ht ha hb (exec_cVfmul u v s)
  · exact State.computes_multiplyAdd hr hx hy ht hz hd (exec_vfma d a b q s)
  · rintro u v ⟨rfl, rfl, rfl, rfl⟩
    exact State.computes_multiplyAdd hr hx hy ht hz hd (exec_cVfma u v s)
  · exact State.exec_vfneg hr hu hl ht

end Sys2Proof.Machine
end


section
namespace Sys2Proof.Machine

/-! ## A plane that holds no sum is not read

R107 and R180 have SCAI read plane 0 as a partial sum only while its FILL bit is set, and so does the model. -/

/-- A matrix instruction whose registers are owed no write and that reads none with a soft error is a register instruction. -/
theorem State.runX_clean {s : State} {f : Firing} {cls : Nat} {rs rd : List XReg} {g : View → Except Trap View} (h : s.runs f)
    (ho : (rs.any fun r => (s.tileAt s.tile).owes r) = false) (he : (s.tileAt s.tile).eccTrap rd = none) :
    s.runX cls rs rd g = s.runView cls 2 g := by
  unfold State.runs at h
  simp [State.runX, h, ho, he]

/-- On X-tile 18 plane 0 is the only register with a soft error; SRC says S32 sums, and no FILL bit is set. -/
def damagedUnfilledPlane : State :=
  wXState.setTile 18 { wXState.tileAt 18 with ecc := [(0x100, true)], x := { wX with plane := 0x200 } }

theorem damagedUnfilledPlane_runs : damagedUnfilledPlane.runs wFiring := rfl

theorem damagedUnfilledPlane_owes (q : XReg) : (damagedUnfilledPlane.tileAt damagedUnfilledPlane.tile).owes q = false := rfl

/-- Where an SCAI reads no register with a soft error, its firing goes on behind it. -/
theorem exec_scai_clean {s : State} {f : Firing} {a b : BitVec 4} {k : BitVec 3} (j i : BitVec 4) {rd : List XReg} (h : s.runs f)
    (ho : ([.t a.toNat, .t b.toNat, .a k.toNat].any fun r => (s.tileAt s.tile).owes r) = false)
    (hrd : (if (s.tileAt s.tile).x.plane.toNat / 256 % 4 ≠ 2 then []
      else [.t a.toNat, .t b.toNat, .a k.toNat] ++ (if (s.tileAt s.tile).x.plane.getLsbD 0 then [.ps 0] else [])) = rd)
    (he : (s.tileAt s.tile).eccTrap rd = none) : ∃ v, exec (.scai a b k j i) s = .next (s.ran f 0 2 v) := by
  change ∃ v, execScai a b k j i s = _
  unfold execScai
  dsimp only
  rw [hrd, State.runX_clean h ho he]
  by_cases hsrc : (s.seen f 0).t.x.plane.toNat / 256 % 4 ≠ 2
  · exact ⟨_, State.runView_ok h (if_pos hsrc)⟩
  · exact ⟨_, State.runView_ok h (if_neg hsrc)⟩

theorem damagedUnfilledPlane_scai :
    ∃ v, exec (.scai 0 1 1 2 3) damagedUnfilledPlane = .next (damagedUnfilledPlane.ran wFiring 0 2 v) :=
  exec_scai_clean 2 3 damagedUnfilledPlane_runs rfl (rd := [.t 0, .t 1, .a 1]) rfl (by decide)

/-- The only fault that a soft error could raise there would end the firing. -/
theorem damagedUnfilledPlane_trapped :
    (damagedUnfilledPlane.trapped wFiring 0 { code := 0x0D, tval := 0x100 }).firing damagedUnfilledPlane.tile damagedUnfilledPlane.slot
      = none := by
  decide +kernel

/-- Refutes O60: with SRC = 2 an SCAI is said to be F_ECC for a soft error in plane 0 also while the FILL bit of that plane is
clear; R107 and R180 have it read the plane only while the bit is set, and the firing goes on behind the instruction. -/
theorem not_softErrors : ¬ Obligations.SoftErrors := by
  unfold Obligations.SoftErrors
  intro h
  obtain ⟨-, hmatrix, -⟩ := h damagedUnfilledPlane wFiring
  obtain ⟨-, -, -, hscai, -⟩ := hmatrix 0 1 3 2 1 0 0 0 0
  obtain ⟨q, hq, hecc, htrap⟩ := hscai rfl damagedUnfilledPlane_runs (fun q _ => damagedUnfilledPlane_owes q) ⟨.ps 0, by simp, rfl⟩
  obtain ⟨v, hrun⟩ := damagedUnfilledPlane_scai
  have hend : q = .ps 0 := by
    simp only [List.mem_cons, List.not_mem_nil, or_false] at hq
    rcases hq with rfl | rfl | rfl | rfl
    · cases hecc
    · cases hecc
    · cases hecc
    · rfl
  subst hend
  have hsame := Host.Outcome.next.inj (hrun.symm.trans htrap)
  have hgoes := State.ran_firing damagedUnfilledPlane wFiring 0 2 v
  rw [hsame, show BitVec.ofNat 32 (0x100 + 0) = 0x100 from rfl, damagedUnfilledPlane_trapped] at hgoes
  cases hgoes

end Sys2Proof.Machine
end


section
namespace Sys2Proof.Machine

/-! ## Packed elements (R80) -/

/-- Element `k` of a word made of elements. -/
theorem elemOf_ofElems {n k : Nat} (g : Nat → BitVec n) (h : k < 32 / n) : elemOf n (ofElems n g) k = g k := by
  apply BitVec.eq_of_toNat_eq
  have hlt := foldr_lt (2 ^ n) (fun x => (g x).toNat) (List.range (32 / n)) (fun x _ => (g x).isLt)
  have hd := digit_foldr (2 ^ n) (fun x => (g x).toNat) (List.range (32 / n)) (fun x _ => (g x).isLt) k (by simpa using h)
  rw [List.length_range, ← Nat.pow_mul] at hlt
  rw [List.getElem_range, ← Nat.pow_mul] at hd
  unfold elemOf ofElems
  rw [extract_ofNat 32 _ _ _ (hlt.trans_le (Nat.pow_le_pow_right (by decide) (Nat.mul_div_le 32 n))), hd]

/-- Element `i` of a vector made of elements. -/
theorem vecElem_ofElems {n i : Nat} (g : Nat → Nat → BitVec n) (h : i < 16 * (32 / n)) :
    vecElem n (ofLanes fun l => ofElems n (g l)) i = g (i / (32 / n)) (i % (32 / n)) := by
  have hpos : 0 < 32 / n := Nat.pos_of_ne_zero fun h0 => by simp [h0] at h
  rw [vecElem, lane_ofLanes _ _ ((Nat.div_lt_iff_lt_mul hpos).mpr h), elemOf_ofElems _ (Nat.mod_lt _ hpos)]

/-- A clamped element is the nearest value of its range (R141, R142). -/
theorem toInt_satElem {n : Nat} (hn : 0 < n) (z : Int) :
    (satElem n z).toInt = max (-(2 : Int) ^ (n - 1)) (min z (2 ^ (n - 1) - 1)) := by
  have hp : (0 : Int) < 2 ^ (n - 1) := by positivity
  exact BitVec.toInt_ofInt_eq_self hn (le_max_left ..) (max_lt (by omega) (by omega))

theorem elemWidth_cases (e : BitVec 1) : elemWidth e = 8 ∨ elemWidth e = 16 := by
  unfold elemWidth
  split
  · exact .inl rfl
  · exact .inr rfl

theorem elemWidth_pos (e : BitVec 1) : 0 < elemWidth e := by
  rcases elemWidth_cases e with h | h <;> omega

/-! ## Saturating sums, packing and unpacking (R141, R142) -/

section
variable (e : BitVec 1) {i : Nat}

theorem vecElem_satLanes (g : Int → Int → Int) (x y : VBits) (h : i < 512 / elemWidth e) : vecElem (elemWidth e) (satLanes e g x y) i
    = satElem (elemWidth e) (g (vecElem (elemWidth e) x i).toInt (vecElem (elemWidth e) y i).toInt) := by
  have hi : i < 16 * (32 / elemWidth e) := by
    rcases elemWidth_cases e with hw | hw <;> rw [hw] at h ⊢ <;> omega
  exact vecElem_ofElems _ hi

theorem half_elems : 16 * (16 / elemWidth e) = 256 / elemWidth e := by
  rcases elemWidth_cases e with hw | hw <;> rw [hw]

/-- Element `i` of a packed vector comes from element `i` of the two sources in a row. -/
theorem vecElem_packLanes (x y : VBits) (h : i < 512 / elemWidth e) : vecElem (elemWidth e) (packLanes e x y) i
    = satElem (elemWidth e)
        (vecElem (2 * elemWidth e) (if i < 256 / elemWidth e then x else y) (i % (256 / elemWidth e))).toInt := by
  have hi : i < 16 * (32 / elemWidth e) := by
    rcases elemWidth_cases e with hw | hw <;> rw [hw] at h ⊢ <;> omega
  rw [packLanes, half_elems]
  refine (vecElem_ofElems _ hi).trans ?_
  rw [Nat.div_add_mod']

theorem vecElem_packLanes_low (x y : VBits) (h : i < 256 / elemWidth e) : vecElem (elemWidth e) (packLanes e x y) i
    = satElem (elemWidth e) (vecElem (2 * elemWidth e) x i).toInt := by
  rw [vecElem_packLanes e x y (h.trans_le (Nat.div_le_div_right (by decide))), if_pos h, Nat.mod_eq_of_lt h]

theorem vecElem_packLanes_high (x y : VBits) (h : i < 256 / elemWidth e) :
    vecElem (elemWidth e) (packLanes e x y) (256 / elemWidth e + i) = satElem (elemWidth e) (vecElem (2 * elemWidth e) y i).toInt := by
  have hi : 256 / elemWidth e + i < 512 / elemWidth e := by
    rcases elemWidth_cases e with hw | hw <;> rw [hw] at h ⊢ <;> omega
  rw [vecElem_packLanes e x y hi, if_neg (Nat.not_lt.mpr (Nat.le_add_right ..)), Nat.add_mod_left, Nat.mod_eq_of_lt h]

theorem vecElem_unpackLanes (x : VBits) (k : Nat) (h : i < 256 / elemWidth e) : vecElem (2 * elemWidth e) (unpackLanes e x k) i
    = (vecElem (elemWidth e) x (k * (256 / elemWidth e) + i)).signExtend (2 * elemWidth e) := by
  have hper : 16 / elemWidth e = 32 / (2 * elemWidth e) := by rw [← Nat.div_div_eq_div_mul]
  have hi : i < 16 * (32 / (2 * elemWidth e)) := by rwa [← hper, half_elems]
  rw [unpackLanes, half_elems, hper]
  refine (vecElem_ofElems _ hi).trans ?_
  rw [Nat.add_assoc, Nat.div_add_mod', Nat.mul_comm _ k]

end

/-! ## Instructions that write every lane -/

/-- A write of every lane is never refused (R117). -/
theorem View.vput_all (v : View) (d : Opnd) (x : VReg) (p : List Opnd) : v.vput d 0xFFFF x p = .ok (v.vwrote d 0xFFFF x p) := by
  obtain ⟨w, hw⟩ := exists_of_isOk (r := v.vput d 0xFFFF x p) (by simp [View.vput_isOk])
  rw [View.vwrote, hw]

/-- An instruction of two vector sources that computes all lanes at once. -/
theorem State.exec_whole2 {s : State} {f : Firing} {i : Instr} {cls : Nat} {d a b : Opnd} {g : VBits → VBits → VBits} {x y : VBits}
    (hr : s.runs f) (hi : exec i s = s.runView cls 2 fun v => v.whole2 d a b g) (hx : (s.view f).spatial a = .ok x)
    (hy : (s.view f).spatial b = .ok y) :
    exec i s = .next (s.ran f cls 2 (((s.seen f cls).bill [a, b]).vwrote d 0xFFFF { bits := g x y } [a, b])) := by
  refine State.exec_ok hr hi (Eq.trans ?_ (View.vput_all ..))
  rw [View.whole2, State.seen_spatial, State.seen_spatial, hx, hy]
  rfl

theorem exec_vunpk {s : State} {f : Firing} {d a b : Opnd} {e : BitVec 1} {x : VBits} {h : W32} (hr : s.runs f)
    (hx : (s.view f).spatial a = .ok x) (hh : (s.view f).src b = .ok h) : exec (.vunpk d a b e) s =
    .next (s.ran f 10 2 (((s.seen f 10).bill [a]).vwrote d 0xFFFF { bits := unpackLanes e x (h.toNat % 2) } [a])) := by
  have hi : exec (.vunpk d a b e) s = s.runView 10 2 fun v => v.spatial a >>= fun x => v.src b >>= fun h =>
      (v.bill [a]).vput d 0xFFFF { bits := unpackLanes e x (h.toNat % 2) } [a] := rfl
  refine State.exec_ok hr hi (Eq.trans ?_ (View.vput_all ..))
  simp only [State.seen_spatial, State.seen_src, hx, hh]
  rfl

/-- Settles O13: the elements of the results are those of `satLanes`, `packLanes` and `unpackLanes`. -/
theorem packedResults : Obligations.PackedResults := by
  intro s f d a b e x y h hr hx n clamp done
  have hn : 0 < elemWidth e := elemWidth_pos e
  refine ⟨fun hy => ⟨⟨_, State.exec_whole2 hr rfl hx hy, fun i hi => ?_⟩, ⟨_, State.exec_whole2 hr rfl hx hy, fun i hi => ?_⟩,
    ⟨_, State.exec_whole2 hr rfl hx hy, fun i hi => ⟨?_, ?_⟩⟩⟩, fun hh => ⟨_, exec_vunpk hr hx hh, fun i hi => ?_⟩⟩
  · exact (congrArg _ (vecElem_satLanes e _ x y hi)).trans (toInt_satElem hn _)
  · exact (congrArg _ (vecElem_satLanes e _ x y hi)).trans (toInt_satElem hn _)
  · exact (congrArg _ (vecElem_packLanes_low e x y hi)).trans (toInt_satElem hn _)
  · exact (congrArg _ (vecElem_packLanes_high e x y hi)).trans (toInt_satElem hn _)
  · exact (congrArg _ (vecElem_unpackLanes e x _ hi)).trans (BitVec.toInt_signExtend_of_le (Nat.le_mul_of_pos_left _ (by decide)))

end Sys2Proof.Machine
end


section
namespace Sys2Proof.Machine

/-! ## Rounding a positive value to an integer (R78)

`q + t` is the value, `q` natural and `t` in [0, 1). -/

/-- The value `(-1)^s·m·2^e`. -/
def finVal (s : Bool) (m : Nat) (e : Int) : ℚ := (if s then -1 else 1) * (m : ℚ) * (2 : ℚ) ^ e

/-- A magnitude `q + t` is rounded up in a mode of R78. -/
def upAt (mode : Nat) (s : Bool) (q : Nat) (t : ℚ) : Bool :=
  match mode with
  | 0 => decide (1 / 2 < t) || (decide (t = 1 / 2) && decide (q % 2 = 1))
  | 1 => false
  | 2 => s && decide (t ≠ 0)
  | _ => !s && decide (t ≠ 0)

/-- What the magnitude `q + t` is rounded to. -/
def roundMag (mode : Nat) (s : Bool) (q : Nat) (t : ℚ) : Nat := if upAt mode s q t then q + 1 else q

/-- Nothing to round leaves the magnitude. -/
@[simp] theorem roundMag_zero (mode : Nat) (s : Bool) (q : Nat) : roundMag mode s q 0 = q := by
  have hup : upAt mode s q 0 = false := by unfold upAt; split <;> simp
  rw [roundMag, hup]
  rfl

/-- The model's choice for a remainder `r` of 2^k is that for the fraction `r / 2^k`. -/
theorem roundsUp_eq (mode : Nat) (s : Bool) (q r k : Nat) : roundsUp mode s q r k = upAt mode s q ((r : ℚ) / 2 ^ k) := by
  have hk : (0 : ℚ) < 2 ^ k := by positivity
  have hlt : (1 / 2 < (r : ℚ) / 2 ^ k) ↔ 2 ^ k < 2 * r := by
    rw [lt_div_iff₀ hk, ← Nat.cast_lt (α := ℚ)]
    push_cast
    constructor <;> intro h <;> linarith
  have heq : ((r : ℚ) / 2 ^ k = 1 / 2) ↔ 2 * r = 2 ^ k := by
    rw [div_eq_iff hk.ne', ← Nat.cast_inj (R := ℚ)]
    push_cast
    constructor <;> intro h <;> linarith
  have hne : ((r : ℚ) / 2 ^ k ≠ 0) ↔ r ≠ 0 := by simp
  unfold roundsUp upAt
  split <;> simp only [hlt, heq, hne]

/-- `roundAt` rounds the multiple of 2^g that `m·2^e` is. -/
theorem roundAt_split (mode : Nat) (s : Bool) (m : Nat) (e g : Int) : ∃ (q : Nat) (t : ℚ), 0 ≤ t ∧ t < 1
    ∧ (m : ℚ) * 2 ^ (e - g) = q + t ∧ roundAt mode s m e g = (roundMag mode s q t, decide (t ≠ 0)) := by
  unfold roundAt
  by_cases h : g ≤ e
  · obtain ⟨n, hn⟩ := Int.eq_ofNat_of_zero_le (sub_nonneg.mpr h)
    refine ⟨m * 2 ^ n, 0, le_rfl, one_pos, by rw [hn]; simp, ?_⟩
    simp [h, hn]
  · obtain ⟨k, hk⟩ := Int.eq_ofNat_of_zero_le (Int.sub_nonneg.mpr (not_le.mp h).le : 0 ≤ g - e)
    have hp : (0 : ℚ) < 2 ^ k := by positivity
    have hr : ((m % 2 ^ k : Nat) : ℚ) < 2 ^ k := by exact_mod_cast Nat.mod_lt m (by positivity)
    refine ⟨m / 2 ^ k, (m % 2 ^ k : Nat) / 2 ^ k, by positivity, (div_lt_one hp).mpr hr, ?_, ?_⟩
    · rw [show e - g = -(k : Int) by omega, zpow_neg, zpow_natCast, ← div_eq_mul_inv, div_eq_iff hp.ne', add_mul,
        div_mul_cancel₀ _ hp.ne']
      exact_mod_cast (Nat.div_add_mod' m (2 ^ k)).symm
    · simp only [if_neg h, hk, Int.toNat_natCast, roundsUp_eq, roundMag]
      simp

/-- R79's integer: the nearest of a mode. -/
def nearInt (mode : Nat) (v : ℚ) : Int :=
  match mode with
  | 0 => if Int.fract v = 1 / 2 then (if ⌊v⌋ % 2 = 0 then ⌊v⌋ else ⌈v⌉) else ⌊v + 1 / 2⌋
  | 1 => if v < 0 then ⌈v⌉ else ⌊v⌋
  | 2 => ⌊v⌋
  | _ => ⌈v⌉

section
variable {q : Nat} {t : ℚ} (h0 : 0 ≤ t) (h1 : t < 1)
include h0 h1

/-- A rounding is exact just where there is nothing to round. -/
theorem roundMag_eq_iff (mode : Nat) (s : Bool) : (roundMag mode s q t : ℚ) = q + t ↔ t = 0 := by
  constructor
  · intro h
    unfold roundMag at h
    split at h
    · push_cast at h; linarith
    · linarith
  · rintro rfl
    simp

theorem floor_mag : ⌊(q : ℚ) + t⌋ = q := by
  rw [Int.floor_eq_iff]
  push_cast
  constructor <;> linarith

theorem fract_mag : Int.fract ((q : ℚ) + t) = t := by
  rw [Int.fract, floor_mag h0 h1]
  push_cast
  ring

theorem floor_neg_mag : ⌊-((q : ℚ) + t)⌋ = if t = 0 then -(q : Int) else -(q : Int) - 1 := by
  rw [Int.floor_eq_iff]
  split
  · next h => push_cast; constructor <;> linarith
  · next h =>
    have := lt_of_le_of_ne h0 (Ne.symm h)
    push_cast
    constructor <;> linarith

theorem floor_mag_add_half : ⌊(q : ℚ) + t + 1 / 2⌋ = if 1 / 2 ≤ t then (q : Int) + 1 else q := by
  rw [Int.floor_eq_iff]
  split <;> push_cast <;> constructor <;> linarith

theorem floor_neg_mag_add_half : ⌊-((q : ℚ) + t) + 1 / 2⌋ = if t ≤ 1 / 2 then -(q : Int) else -(q : Int) - 1 := by
  rw [Int.floor_eq_iff]
  split <;> push_cast <;> constructor <;> linarith

theorem ceil_mag : ⌈(q : ℚ) + t⌉ = if t = 0 then (q : Int) else q + 1 := by
  rw [← neg_neg ((q : ℚ) + t), Int.ceil_neg, floor_neg_mag h0 h1]
  split
  · exact neg_neg _
  · ring

theorem fract_neg_mag_eq_half : Int.fract (-((q : ℚ) + t)) = 1 / 2 ↔ t = 1 / 2 := by
  rw [Int.fract, floor_neg_mag h0 h1]
  split <;> push_cast <;> constructor <;> intro <;> linarith

/-- R79's integer of a magnitude. -/
theorem nearInt_mag (mode : Nat) : nearInt mode (q + t) = roundMag mode false q t := by
  unfold nearInt roundMag upAt
  split
  · rw [fract_mag h0 h1, floor_mag h0 h1, ceil_mag h0 h1, floor_mag_add_half h0 h1]
    rcases lt_trichotomy t (1 / 2) with h | rfl | h
    · simp [-one_div, h.ne, h.not_gt, h.not_ge]
    · rcases Nat.mod_two_eq_zero_or_one q with hq | hq
      · simp [-one_div, hq, show (q : Int) % 2 = 0 by omega]
      · simp [-one_div, hq, show (q : Int) % 2 = 1 by omega]
    · simp [-one_div, h.ne', h, h.le]
  · rw [if_neg (by have := q.cast_nonneg (α := ℚ); linarith), floor_mag h0 h1]
    rfl
  · rw [floor_mag h0 h1]
    rfl
  · rw [ceil_mag h0 h1]
    by_cases h : t = 0 <;> simp [h]

/-- R79's integer of a magnitude with a minus sign. -/
theorem nearInt_neg_mag (mode : Nat) : nearInt mode (-(q + t)) = -(roundMag mode true q t : Int) := by
  unfold nearInt roundMag upAt
  split
  · simp only [fract_neg_mag_eq_half h0 h1, floor_neg_mag h0 h1, Int.ceil_neg, floor_mag h0 h1, floor_neg_mag_add_half h0 h1]
    rcases lt_trichotomy t (1 / 2) with h | rfl | h
    · simp [-one_div, h.ne, h.not_gt, h.le]
    · rcases Nat.mod_two_eq_zero_or_one q with hq | hq
      · simp [-one_div, hq, show (-(q : Int) - 1) % 2 = 1 by omega]
      · simp [-one_div, hq, show (-(q : Int) - 1) % 2 = 0 by omega]
        omega
    · simp [-one_div, h.ne', h, h.not_ge]
      omega
  · rw [Int.ceil_neg, floor_mag h0 h1, floor_neg_mag h0 h1]
    split
    · rfl
    · next hv =>
      have ht : t = 0 := le_antisymm (by have := q.cast_nonneg (α := ℚ); linarith) h0
      simp [ht]
  · rw [floor_neg_mag h0 h1]
    by_cases h : t = 0
    · simp [h]
    · simp [h]
      omega
  · rw [Int.ceil_neg, floor_mag h0 h1]
    rfl

end

/-! ## Float to integer (R79) -/

theorem finVal_false (m : Nat) (e : Int) : finVal false m e = m * 2 ^ e := by simp [finVal]

theorem finVal_true (m : Nat) (e : Int) : finVal true m e = -(m * 2 ^ e) := by simp [finVal]

/-- A finite value is rounded to the nearest integer of the mode, and the second answer says whether that is another value. -/
theorem roundInt_eq (mode : Nat) (s : Bool) (m : Nat) (e : Int) : roundInt mode s m e =
    (nearInt mode (finVal s m e), decide ((nearInt mode (finVal s m e) : ℚ) ≠ finVal s m e)) := by
  obtain ⟨q, t, h0, h1, hv, hr⟩ := roundAt_split mode s m e 0
  rw [sub_zero] at hv
  have hexact := roundMag_eq_iff (q := q) h0 h1 mode s
  rw [roundInt, hr]
  cases s with
  | false =>
    rw [finVal_false, hv, nearInt_mag h0 h1, Int.cast_natCast]
    simp [hexact]
  | true =>
    rw [finVal_true, hv, nearInt_neg_mag h0 h1, Int.cast_neg, Int.cast_natCast]
    simp only [ne_eq, neg_inj, hexact]
    simp

theorem f2i_nan {x : W32} (h : isNanF x = true) (mode : Nat) : f2i mode x = (0, fNV) := by
  unfold isNanF at h
  unfold f2i
  cases hx : unF32 x with
  | nan q => rfl
  | _ => rw [hx] at h; cases h

theorem f2i_inf {x : W32} {s : Bool} (h : unF32 x = .inf s) (mode : Nat) :
    f2i mode x = (if s then 0x80000000 else 0x7FFFFFFF, fNV) := by
  rw [f2i, h]

theorem f2i_fin {x : W32} {s : Bool} {m : Nat} {e : Int} (h : unF32 x = .fin s m e) (mode : Nat) :
    let v := finVal s m e
    let i := nearInt mode v
    f2i mode x = if i < -2147483648 then (0x80000000, fNV) else if 2147483647 < i then (0x7FFFFFFF, fNV)
      else (BitVec.ofInt 32 i, if (i : ℚ) = v then 0 else fNX) := by
  rw [f2i, h]
  simp [roundInt_eq]

/-- Settles O23: `nearInt` is the nearest integer of each mode. -/
theorem floatToInteger : Obligations.FloatToInteger := by
  intro x mode _
  exact ⟨fun h => f2i_nan h mode, fun t h => f2i_inf h mode, fun t m e h => f2i_fin h mode⟩

end Sys2Proof.Machine
end


section
namespace Sys2Proof.Machine

/-! ## The nearest multiple of the last place (R78) -/

section
variable {q : Nat} {t : ℚ} (h0 : 0 ≤ t) (h1 : t < 1) (s : Bool)
include h0 h1

/-- What a rounding to nearest leaves: half a place at most, and that only for an even result. -/
theorem roundMag_error : |(roundMag 0 s q t : ℚ) - (q + t)| ≤ 1 / 2
    ∧ (|(roundMag 0 s q t : ℚ) - (q + t)| = 1 / 2 → roundMag 0 s q t % 2 = 0) := by
  have hdown : |(q : ℚ) - (q + t)| = t := by rw [sub_add_cancel_left, abs_neg, abs_of_nonneg h0]
  have hup : |((q + 1 : Nat) : ℚ) - (q + t)| = 1 - t := by
    rw [abs_of_nonneg (by push_cast; linarith)]; push_cast; ring
  unfold roundMag
  split
  · next h =>
    simp only [upAt, Bool.or_eq_true, Bool.and_eq_true, decide_eq_true_eq] at h
    rw [hup]
    rcases h with h | ⟨ht, hq⟩
    · exact ⟨by linarith, fun he => absurd he (by linarith)⟩
    · exact ⟨by linarith, fun _ => by omega⟩
  · next h =>
    simp only [upAt, Bool.or_eq_true, Bool.and_eq_true, decide_eq_true_eq, not_or, not_and, not_lt] at h
    rw [hdown]
    exact ⟨h.1, fun he => by have := h.2 he; omega⟩

/-- No integer lies nearer than the rounded magnitude, and one as near is it or leaves it even. -/
theorem roundMag_nearest (k : Int) : |(roundMag 0 s q t : ℚ) - (q + t)| ≤ |(k : ℚ) - (q + t)|
    ∧ (|(roundMag 0 s q t : ℚ) - (q + t)| = |(k : ℚ) - (q + t)| → (k : ℚ) ≠ roundMag 0 s q t → roundMag 0 s q t % 2 = 0) := by
  obtain ⟨hle, htie⟩ := roundMag_error (q := q) h0 h1 s
  by_cases hk : k = roundMag 0 s q t
  · subst hk
    exact ⟨by simp, fun _ h => absurd (by simp) h⟩
  · -- Two different integers are at least one apart.
    have hapart : (1 : ℚ) ≤ |(k : ℚ) - roundMag 0 s q t| := by
      exact_mod_cast Int.one_le_abs (sub_ne_zero.mpr hk)
    have htri : |(k : ℚ) - roundMag 0 s q t| ≤ |(k : ℚ) - (q + t)| + |(roundMag 0 s q t : ℚ) - (q + t)| := by
      rw [abs_sub_comm (roundMag 0 s q t : ℚ)]
      exact abs_sub_le ..
    exact ⟨by linarith, fun he _ => htie (by linarith)⟩

end

/-- Nor does a value below a magnitude of at least `n`, when it is itself below `n`. -/
theorem roundMag_nearest_of_small {q n : Nat} {t : ℚ} (h0 : 0 ≤ t) (h1 : t < 1) (s : Bool) (hn : (n : ℚ) ≤ q + t) {x : ℚ} (hx : x < n) :
    |(roundMag 0 s q t : ℚ) - (q + t)| < |x - (q + t)| := by
  have h := (roundMag_nearest (q := q) h0 h1 s n).1
  have hn' : |((n : Int) : ℚ) - (q + t)| = q + t - n := by
    rw [abs_sub_comm, abs_of_nonneg (by push_cast; linarith)]; push_cast; ring
  rw [abs_sub_comm x, abs_of_nonneg (by linarith : 0 ≤ (q : ℚ) + t - x)]
  linarith

/-! ## The values of F32 (R76) -/

/-- R76 for F32, in numbers. -/
theorem unpack_f32 (n : Nat) : unpack f32 n =
    let s := decide (n / 2 ^ 31 % 2 = 1)
    if n / 2 ^ 23 % 256 = 255 then (if n % 2 ^ 23 = 0 then .inf s else .nan (decide (n % 2 ^ 23 < 2 ^ 22)))
    else if n / 2 ^ 23 % 256 = 0 then .fin s (n % 2 ^ 23) (-149)
    else .fin s (n % 2 ^ 23 + 2 ^ 23) ((n / 2 ^ 23 % 256 : Nat) - 150) := by
  have he : ((n / 2 ^ 23 % 256 : Nat) : Int) - 150 = (n / 2 ^ 23 % 256 : Nat) - 127 - 23 := by omega
  dsimp only
  rw [he]
  rfl

/-- The significand and the exponent of a finite F32 value. -/
theorem unF32_fin_bounds {x : W32} {s : Bool} {m : Nat} {e : Int} (h : unF32 x = .fin s m e) : m < 2 ^ 24 ∧ -149 ≤ e := by
  rw [unF32, unpack_f32] at h
  dsimp only at h
  split at h
  · split at h <;> cases h
  · split at h <;> cases h <;> omega

/-- The value of the encoding with exponent field `a` and fraction `b`. -/
theorem unpack_fields (s : Bool) {a b : Nat} (ha : a < 255) (hb : b < 2 ^ 23) : unpack f32 (f32.signBit s + (a * 2 ^ 23 + b)) =
    if a = 0 then .fin s b (-149) else .fin s (b + 2 ^ 23) ((a : Int) - 150) := by
  have hs : f32.signBit s = if s then 2 ^ 31 else 0 := rfl
  have hsign : decide ((f32.signBit s + (a * 2 ^ 23 + b)) / 2 ^ 31 % 2 = 1) = s := by
    rw [hs]
    cases s
    · rw [decide_eq_false_iff_not]; simp only [Bool.false_eq_true, if_false]; omega
    · rw [decide_eq_true_eq]; simp only [if_true]; omega
  have hexp : (f32.signBit s + (a * 2 ^ 23 + b)) / 2 ^ 23 % 256 = a := by rw [hs]; split <;> omega
  have hfrac : (f32.signBit s + (a * 2 ^ 23 + b)) % 2 ^ 23 = b := by rw [hs]; split <;> omega
  rw [unpack_f32, hsign, hexp, hfrac]
  exact if_neg ha.ne

/-- The encoding of `q·2^g` without its sign; a carry of `q` reaches the exponent. -/
def packMag (q : Nat) (g : Int) : Nat :=
  let biased : Nat := if q < 2 ^ 23 then 0 else (g + 150).toNat
  if biased = 0 then q else biased * 2 ^ 23 + (q - 2 ^ 23)

/-- An encoding below that of the infinity stands for the value that was packed, and an even multiple has an even last bit. -/
theorem unpack_packMag {q : Nat} {g : Int} (hq : q ≤ 2 ^ 24) (hg : -149 ≤ g) (hsub : q < 2 ^ 23 → g = -149)
    (hfin : packMag q g < 255 * 2 ^ 23) (s : Bool) : ∃ m e, unpack f32 (f32.signBit s + packMag q g) = .fin s m e
      ∧ finVal s m e = finVal s q g ∧ (q % 2 = 0 → m % 2 = 0) := by
  by_cases hlow : q < 2 ^ 23
  · have hp : packMag q g = 0 * 2 ^ 23 + q := by simp only [packMag, if_pos hlow, if_true, zero_mul, zero_add]
    exact ⟨q, g, by rw [hp, unpack_fields s (by decide) hlow, hsub hlow]; rfl, rfl, id⟩
  · have hp : packMag q g = (g + 150).toNat * 2 ^ 23 + (q - 2 ^ 23) := by
      simp only [packMag, if_neg hlow, if_neg (show (g + 150).toNat ≠ 0 by omega)]
    rw [hp] at hfin ⊢
    rcases Nat.lt_or_eq_of_le hq with hq | rfl
    · refine ⟨q, g, ?_, rfl, id⟩
      rw [unpack_fields s (by omega) (by omega), if_neg (by omega), Nat.sub_add_cancel (by omega)]
      congr
      omega
    · refine ⟨2 ^ 23, g + 1, ?_, ?_, fun _ => by decide⟩
      · rw [show (g + 150).toNat * 2 ^ 23 + (2 ^ 24 - 2 ^ 23) = ((g + 150).toNat + 1) * 2 ^ 23 + 0 by omega,
          unpack_fields s (by omega) (by decide), if_neg (by omega)]
        congr 1
        omega
      · unfold finVal
        rw [zpow_add_one₀ (by norm_num)]
        push_cast
        ring

/-! ## One rounding to F32 (R78) -/

/-- The exponent of the last place to which `roundFin` rounds to F32. -/
def lastPlace (m : Nat) (e : Int) : Int := max (e + (Nat.log2 m : Nat)) (-126) - 23

/-- NX among the flags of a rounding that did not overflow. -/
theorem getLsbD_roundFlags (ix tiny : Bool) :
    ((if ix then fNX else 0) ||| (if ix && tiny then fUF else 0)).getLsbD 4 = ix := by
  cases ix <;> cases tiny <;> rfl

theorem f32_fbits : f32.fbits = 23 := rfl

theorem f32_bias : f32.bias = 127 := rfl

theorem f32_infBits : f32.infBits = 255 * 2 ^ 23 := by decide

/-- `roundFin` to F32, to nearest: the infinity, or the packed multiple of the last place. NX is the answer of `roundAt`. -/
theorem roundFin_f32 (s : Bool) {m : Nat} (hm : m ≠ 0) (e : Int) :
    let r := roundAt 0 s m e (lastPlace m e)
    if 255 * 2 ^ 23 ≤ packMag r.1 (lastPlace m e) then (roundFin f32 0 s m e).1 = f32.signBit s + f32.infBits
    else (roundFin f32 0 s m e).1 = f32.signBit s + packMag r.1 (lastPlace m e)
      ∧ (roundFin f32 0 s m e).2.getLsbD 4 = r.2 := by
  have hpack : ∀ q : Nat, (let biased := if q < 2 ^ 23 then 0 else (lastPlace m e + (23 : Nat) + (127 : Nat)).toNat
      if biased = 0 then q else biased * 2 ^ 23 + (q - 2 ^ 23)) = packMag q (lastPlace m e) := by
    intro q
    rw [add_assoc]
    rfl
  have hplace : max (e + (Nat.log2 m : Nat)) (1 - (127 : Nat)) - (23 : Nat) = lastPlace m e := rfl
  unfold roundFin
  simp only [if_neg hm, f32_fbits, f32_bias, f32_infBits, hplace, hpack]
  rcases roundAt 0 s m e (lastPlace m e) with ⟨q, ix⟩
  by_cases h : 255 * 2 ^ 23 ≤ packMag q (lastPlace m e)
  · simp only [if_pos h, overflowBits, f32_infBits, if_true]
  · simp only [if_neg h, true_and]
    exact getLsbD_roundFlags ix _

theorem unpack_infinity (s : Bool) : unpack f32 (f32.signBit s + f32.infBits) = .inf s := by
  cases s <;> decide

/-! ## Values in places of 2^g -/

/-- A sign as a factor. -/
def signFactor (s : Bool) : ℚ := if s then -1 else 1

theorem signFactor_mul_self (s : Bool) : signFactor s * signFactor s = 1 := by cases s <;> simp [signFactor]

theorem signFactor_ne_zero (s : Bool) : signFactor s ≠ 0 := by cases s <;> simp [signFactor]

theorem abs_signFactor (s : Bool) : |signFactor s| = 1 := by cases s <;> simp [signFactor]

theorem finVal_eq (s : Bool) (m : Nat) (e : Int) : finVal s m e = signFactor s * (m : ℚ) * 2 ^ e := rfl

theorem abs_scaled (s : Bool) (g : Int) (a b : ℚ) :
    |signFactor s * a * 2 ^ g - signFactor s * b * 2 ^ g| = |a - b| * 2 ^ g := by
  rw [← sub_mul, ← mul_sub, abs_mul, abs_mul, abs_signFactor, one_mul, abs_of_pos (by positivity : (0 : ℚ) < 2 ^ g)]

theorem finVal_places (s : Bool) (m : Nat) (e g : Int) : finVal s m e = signFactor s * (m * 2 ^ (e - g)) * 2 ^ g := by
  rw [finVal_eq, mul_assoc, mul_assoc, mul_assoc, ← zpow_add₀ (by norm_num), sub_add_cancel]

/-- An F32 value in places of 2^g, as seen from sign `s`: an integer, or below 2^23. -/
theorem places_of_f32 (s sx : Bool) {mx : Nat} {ex : Int} (hm : mx < 2 ^ 24) (g : Int) :
    ∃ x : ℚ, finVal sx mx ex = signFactor s * x * 2 ^ g ∧ ((∃ k : Int, x = k) ∨ (ex < g ∧ x < 2 ^ 23)) := by
  refine ⟨signFactor s * signFactor sx * (mx * 2 ^ (ex - g)), ?_, ?_⟩
  · rw [finVal_places sx mx ex g, ← mul_assoc, ← mul_assoc, ← mul_assoc, ← mul_assoc, signFactor_mul_self, one_mul, mul_assoc (signFactor sx)]
  · by_cases h : g ≤ ex
    · left
      obtain ⟨n, hn⟩ := Int.eq_ofNat_of_zero_le (sub_nonneg.mpr h)
      refine ⟨(if s = sx then 1 else -1) * (mx * 2 ^ n), ?_⟩
      rw [hn]
      cases s <;> cases sx <;> simp [signFactor]
    · refine .inr ⟨not_le.mp h, ?_⟩
      have hle : (2 : ℚ) ^ (ex - g) ≤ 2 ^ (-1 : Int) := zpow_le_zpow_right₀ (by norm_num) (by omega)
      have hm' : (mx : ℚ) < 2 ^ 24 := by exact_mod_cast hm
      have hsign : signFactor s * signFactor sx ≤ 1 := by cases s <;> cases sx <;> simp [signFactor]
      calc signFactor s * signFactor sx * (mx * 2 ^ (ex - g)) ≤ 1 * (mx * 2 ^ (ex - g)) :=
            mul_le_mul_of_nonneg_right hsign (by positivity)
        _ = mx * 2 ^ (ex - g) := one_mul _
        _ ≤ mx * 2 ^ (-1 : Int) := mul_le_mul_of_nonneg_left hle (by positivity)
        _ < 2 ^ 24 * 2 ^ (-1 : Int) := mul_lt_mul_of_pos_right hm' (by positivity)
        _ = 2 ^ 23 := by norm_num

theorem lastPlace_top (m : Nat) (e : Int) : -149 ≤ lastPlace m e ∧ (Nat.log2 m : Nat) + (e - lastPlace m e) ≤ 23
    ∧ (lastPlace m e ≠ -149 → (Nat.log2 m : Nat) + (e - lastPlace m e) = 23) := by
  unfold lastPlace
  omega

/-- A magnitude in last places has at most 24 bits, and as many but for the least place. -/
theorem lastPlace_bounds {m : Nat} (hm : m ≠ 0) (e : Int) : (m : ℚ) * 2 ^ (e - lastPlace m e) < 2 ^ 24
    ∧ (lastPlace m e ≠ -149 → (2 : ℚ) ^ 23 ≤ m * 2 ^ (e - lastPlace m e)) := by
  obtain ⟨-, htop, hfull⟩ := lastPlace_top m e
  generalize lastPlace m e = g at *
  have hpos : (0 : ℚ) < 2 ^ (e - g) := by positivity
  have hlow : (2 : ℚ) ^ Nat.log2 m ≤ m := by exact_mod_cast Nat.log2_self_le hm
  have hhigh : (m : ℚ) < 2 ^ (Nat.log2 m + 1) := by exact_mod_cast Nat.lt_log2_self
  rw [← zpow_natCast] at hlow hhigh
  refine ⟨?_, fun h => ?_⟩
  · calc (m : ℚ) * 2 ^ (e - g) < 2 ^ ((Nat.log2 m + 1 : Nat) : Int) * 2 ^ (e - g) := mul_lt_mul_of_pos_right hhigh hpos
      _ = 2 ^ (((Nat.log2 m + 1 : Nat) : Int) + (e - g)) := (zpow_add₀ (by norm_num) _ _).symm
      _ ≤ 2 ^ (24 : Int) := zpow_le_zpow_right₀ (by norm_num) (by omega)
      _ = 2 ^ 24 := by norm_num
  · calc (2 : ℚ) ^ 23 = 2 ^ (23 : Int) := by norm_num
      _ = 2 ^ ((Nat.log2 m : Int) + (e - g)) := by rw [hfull h]
      _ = 2 ^ (Nat.log2 m : Int) * 2 ^ (e - g) := zpow_add₀ (by norm_num) _ _
      _ ≤ m * 2 ^ (e - g) := mul_le_mul_of_nonneg_right hlow hpos.le

theorem le_roundMag (mode : Nat) (s : Bool) (q : Nat) (t : ℚ) : q ≤ roundMag mode s q t ∧ roundMag mode s q t ≤ q + 1 := by
  unfold roundMag
  split <;> omega

/-- A finite result of `roundFin` to F32, to nearest, is the rounded multiple of the last place; `q + t` is the exact one. -/
theorem roundFin_f32_finite (s : Bool) {m : Nat} (hm : m ≠ 0) (e : Int) {sr : Bool} {mr : Nat} {er : Int}
    (hr : unpack f32 (roundFin f32 0 s m e).1 = .fin sr mr er) : ∃ (q : Nat) (t : ℚ), 0 ≤ t ∧ t < 1
      ∧ finVal s m e = signFactor s * (q + t) * 2 ^ lastPlace m e
      ∧ finVal sr mr er = signFactor s * roundMag 0 s q t * 2 ^ lastPlace m e
      ∧ (roundMag 0 s q t % 2 = 0 → mr % 2 = 0) ∧ (roundFin f32 0 s m e).2.getLsbD 4 = decide (t ≠ 0)
      ∧ (lastPlace m e ≠ -149 → (2 : ℚ) ^ 23 ≤ q + t) := by
  obtain ⟨hlt, hge⟩ := lastPlace_bounds hm e
  have hround := roundFin_f32 s hm e
  obtain ⟨q, t, h0, h1, hv, hat⟩ := roundAt_split 0 s m e (lastPlace m e)
  obtain ⟨hqlow, hqhigh⟩ := le_roundMag 0 s q t
  rw [hat] at hround
  rw [hv] at hlt hge
  dsimp only at hround
  split at hround
  · rw [hround, unpack_infinity] at hr
    cases hr
  · next hfin =>
    obtain ⟨hbits, hnx⟩ := hround
    have hq : q < 2 ^ 24 := by exact_mod_cast (by linarith : (q : ℚ) < 2 ^ 24)
    have hsub : roundMag 0 s q t < 2 ^ 23 → lastPlace m e = -149 := by
      intro hlow
      by_contra hne
      have h23 : 2 ^ 23 < q + 1 := by exact_mod_cast (by linarith [hge hne] : (2 : ℚ) ^ 23 < q + 1)
      omega
    obtain ⟨m', e', hun, hval, heven⟩ := unpack_packMag (by omega) (lastPlace_top m e).1 hsub (not_le.mp hfin) s
    rw [hbits, hun] at hr
    cases hr
    exact ⟨q, t, h0, h1, by rw [finVal_places s m e (lastPlace m e), hv], hval, heven, hnx, hge⟩

/-- Rounding to F32, to nearest, when the result is finite: no finite value is nearer, one as near leaves an even last bit, and NX tells
an inexact result. -/
theorem roundFin_f32_nearest (s : Bool) {m : Nat} (hm : m ≠ 0) (e : Int) {sr : Bool} {mr : Nat} {er : Int}
    (hr : unpack f32 (roundFin f32 0 s m e).1 = .fin sr mr er) {x : W32} {sx : Bool} {mx : Nat} {ex : Int} (hx : unF32 x = .fin sx mx ex) :
    |finVal sr mr er - finVal s m e| ≤ |finVal sx mx ex - finVal s m e|
      ∧ (|finVal sr mr er - finVal s m e| = |finVal sx mx ex - finVal s m e| → finVal sx mx ex ≠ finVal sr mr er → mr % 2 = 0)
      ∧ ((roundFin f32 0 s m e).2.getLsbD 4 = true ↔ finVal sr mr er ≠ finVal s m e) := by
  obtain ⟨q, t, h0, h1, hv, hval, heven, hnx, hge⟩ := roundFin_f32_finite s hm e hr
  obtain ⟨hmx, hex⟩ := unF32_fin_bounds hx
  obtain ⟨X, hX, hkind⟩ := places_of_f32 s sx (ex := ex) hmx (lastPlace m e)
  have hnear : |(roundMag 0 s q t : ℚ) - (q + t)| ≤ |X - (q + t)|
      ∧ (|(roundMag 0 s q t : ℚ) - (q + t)| = |X - (q + t)| → X ≠ roundMag 0 s q t → roundMag 0 s q t % 2 = 0) := by
    rcases hkind with ⟨k, rfl⟩ | ⟨hlow, hsmall⟩
    · exact roundMag_nearest h0 h1 s k
    · have hfar := roundMag_nearest_of_small h0 h1 s (n := 2 ^ 23) (by exact_mod_cast hge (by omega)) (x := X) (by exact_mod_cast hsmall)
      exact ⟨hfar.le, fun he => absurd he hfar.ne⟩
  have hP : (0 : ℚ) < 2 ^ lastPlace m e := by positivity
  rw [hval, hX, hv, abs_scaled, abs_scaled, hnx, decide_eq_true_eq]
  refine ⟨mul_le_mul_of_nonneg_right hnear.1 hP.le, fun he hne => heven (hnear.2 (mul_right_cancel₀ hP.ne' he) ?_), not_congr ?_⟩
  · rintro rfl
    exact hne rfl
  · rw [mul_left_inj' hP.ne', mul_right_inj' (signFactor_ne_zero s)]
    exact (roundMag_eq_iff h0 h1 0 s).symm

end Sys2Proof.Machine
end


section
namespace Sys2Proof.Machine

/-! ## NaNs (R77) -/

theorem Fp.sigFlag_or_eq_fNV (a b : Fp) : a.sigFlag ||| b.sigFlag = fNV ↔ a = .nan true ∨ b = .nan true := by
  have h : ∀ c : Fp, c.sigFlag = if c = .nan true then fNV else 0 := by
    intro c
    cases c with
    | nan q => cases q <;> rfl
    | _ => rfl
  rw [h, h]
  split <;> split <;> simp_all [fNV]

theorem Fp.sigFlag_neg (a : Fp) : a.neg.sigFlag = a.sigFlag := by cases a <;> rfl

theorem Fp.isNan_neg (a : Fp) : a.neg.isNan = a.isNan := by cases a <;> rfl

theorem Fp.sigFlag_of_isNan_false {a : Fp} (h : a.isNan = false) : a.sigFlag = 0 := by
  cases a with
  | nan q => cases h
  | _ => rfl

/-- A sum with a NaN is the canonical NaN. -/
theorem sumTerms_nan (f : Fmt) (mode : Nat) {a b : Fp} (h : a.isNan = true ∨ b.isNan = true) :
    sumTerms f mode [a, b] = (f.qnan, a.sigFlag ||| b.sigFlag) := by
  have hinf : ¬(((a = .inf false) ∨ b = .inf false) ∧ (a = .inf true ∨ b = .inf true)) := by
    rintro ⟨rfl | rfl, h2 | h2⟩ <;> simp_all [Fp.isNan]
  unfold sumTerms
  simp only [List.any_cons, List.any_nil, Bool.or_false, Bool.and_eq_true, Bool.or_eq_true, decide_eq_true_eq, List.foldl_cons,
    List.foldl_nil, BitVec.ofNat_eq_ofNat, BitVec.zero_or, if_neg hinf, if_pos h]

/-- A product with a NaN is the canonical NaN. -/
theorem Fp.mul_nan {a b : Fp} (h : a.isNan = true ∨ b.isNan = true) : a.mul b = (.nan false, a.sigFlag ||| b.sigFlag) := by
  rcases h with h | h
  · cases a with
    | nan p => cases b <;> rfl
    | _ => cases h
  · cases b with
    | nan p => cases a <;> rfl
    | _ => cases h

theorem mulFmt_nan (f : Fmt) (mode : Nat) {a b : Fp} (h : a.isNan = true ∨ b.isNan = true) :
    mulFmt f mode a b = (f.qnan, a.sigFlag ||| b.sigFlag) := by
  rw [mulFmt, Fp.mul_nan h]

section
variable {x y : W32}

theorem addF_nan (h : isNanF x = true ∨ isNanF y = true) : addF x y = (0x7FC00000, (unF32 x).sigFlag ||| (unF32 y).sigFlag) := by
  rw [addF, sumTerms_nan f32 0 h]
  rfl

theorem subF_nan (h : isNanF x = true ∨ isNanF y = true) : subF x y = (0x7FC00000, (unF32 x).sigFlag ||| (unF32 y).sigFlag) := by
  rw [subF, sumTerms_nan f32 0 (h.imp_right (Fp.isNan_neg _).trans), Fp.sigFlag_neg]
  rfl

theorem mulF_nan (h : isNanF x = true ∨ isNanF y = true) : mulF x y = (0x7FC00000, (unF32 x).sigFlag ||| (unF32 y).sigFlag) := by
  rw [mulF, mulFmt_nan f32 0 h]
  rfl

/-- The functions of one NaN. -/
theorem functions_nan {q : Bool} (h : unF32 x = .nan q) :
    let r : W32 × Flags := (0x7FC00000, (Fp.nan q).sigFlag)
    word32 (sqrtFmt f32 (unF32 x)) = r ∧ exp2F x = r ∧ log2F x = r ∧ sinPiF x = r ∧ tanhF x = r ∧ sigF x = r := by
  unfold exp2F log2F sinPiF tanhF sigF
  rw [h]
  exact ⟨rfl, rfl, rfl, rfl, rfl, rfl⟩

/-- The functions that have no value below zero. -/
theorem functions_negative {m : Nat} {e : Int} (h : unF32 x = .fin true m e) (hm : m ≠ 0) :
    word32 (sqrtFmt f32 (unF32 x)) = (0x7FC00000, fNV) ∧ word32 (rsqFmt f32 (unF32 x)) = (0x7FC00000, fNV)
      ∧ log2F x = (0x7FC00000, fNV) := by
  unfold log2F
  rw [h]
  simp only [sqrtFmt, rsqFmt, if_neg hm, if_true]
  exact ⟨rfl, rfl, rfl⟩

/-! ## Infinities and zeros (R78) -/

theorem isZeroF_iff : isZeroF x = true ↔ x = 0 ∨ x = 0x80000000 := by
  have hmod : (absF x).toNat = x.toNat % 2 ^ 31 := by
    rw [absF, BitVec.toNat_and]
    exact Nat.and_two_pow_sub_one_eq_mod x.toNat 31
  rw [isZeroF, decide_eq_true_eq, ← BitVec.toNat_inj, hmod, ← BitVec.toNat_inj, ← BitVec.toNat_inj]
  simp only [BitVec.ofNat_eq_ofNat, BitVec.toNat_ofNat]
  omega

theorem unF32_zero : unF32 0 = .fin false 0 (-149) := by decide

theorem unF32_negZero : unF32 0x80000000 = .fin true 0 (-149) := by decide

theorem unF32_of_isZeroF (h : isZeroF x = true) : ∃ s, unF32 x = .fin s 0 (-149) := by
  rcases isZeroF_iff.mp h with rfl | rfl
  · exact ⟨_, unF32_zero⟩
  · exact ⟨_, unF32_negZero⟩

/-- Opposite infinities have no sum. -/
theorem addF_opposite {s : Bool} (hx : unF32 x = .inf s) (hy : unF32 y = .inf !s) : addF x y = (0x7FC00000, fNV) := by
  rw [addF, hx, hy]
  cases s <;> rfl

/-- Zero times an infinity has no value, as a product and as an addend. -/
theorem mulF_zero_inf {t : Bool} (hx : isZeroF x = true) (hy : unF32 y = .inf t) : mulF x y = (0x7FC00000, fNV)
    ∧ mulF y x = (0x7FC00000, fNV) ∧ ∀ z : W32, isNanF z = false → fmaF z x y = (0x7FC00000, fNV) := by
  obtain ⟨s, hx⟩ := unF32_of_isZeroF hx
  have hmul : (Fp.fin s 0 (-149)).mul (.inf t) = (.nan false, fNV) ∧ (Fp.inf t).mul (.fin s 0 (-149)) = (.nan false, fNV) := by
    simp [Fp.mul, Fp.sigFlag]
  refine ⟨by rw [mulF, hx, hy, mulFmt, hmul.1]; rfl, by rw [mulF, hx, hy, mulFmt, hmul.2]; rfl, fun z hz => ?_⟩
  have hsum : sumTerms f32 0 [unF32 z, .nan false] = (f32.qnan, 0) := by
    rw [sumTerms_nan f32 0 (.inr rfl), Fp.sigFlag_of_isNan_false hz]
    rfl
  rw [fmaF, hx, hy]
  simp only [dotTerms, List.map_cons, List.map_nil, hmul.1, hsum]
  rfl

theorem addF_mulF_zeros (hx : isZeroF x = true) (hy : isZeroF y = true) :
    addF x y = (if x = 0x80000000 ∧ y = 0x80000000 then 0x80000000 else 0, 0) ∧ mulF x y = (if x = y then 0 else 0x80000000, 0) := by
  rcases isZeroF_iff.mp hx with rfl | rfl <;> rcases isZeroF_iff.mp hy with rfl | rfl <;> decide

/-- A finite value less itself is +0. -/
theorem subF_self {t : Bool} {m : Nat} {e : Int} (h : unF32 x = .fin t m e) : subF x x = (0, 0) := by
  rw [subF, h]
  cases t <;> simp [sumTerms, Fp.neg, Fp.isNan, exactSum, Fp.sign, Fp.sigFlag, Fmt.signBit]

end

/-- The quotients by zero, the roots of −0 and the functions at infinities, zeros and 1 (R151, R152). -/
theorem functions_exact :
    word32 (divFmt f32 (unF32 0x3F800000) (unF32 0)) = (0x7F800000, fDZ)
      ∧ word32 (divFmt f32 (unF32 0x3F800000) (unF32 0x80000000)) = (0xFF800000, fDZ)
      ∧ word32 (rsqFmt f32 (unF32 0x80000000)) = (0xFF800000, fDZ) ∧ word32 (sqrtFmt f32 (unF32 0x80000000)) = (0x80000000, 0)
      ∧ exp2F 0xFF800000 = (0, 0) ∧ exp2F 0x7F800000 = (0x7F800000, 0) ∧ log2F 0 = (0xFF800000, fDZ) ∧ log2F 0x3F800000 = (0, 0)
      ∧ sinPiF 0x7F800000 = (0x7FC00000, fNV) ∧ tanhF 0x7F800000 = (0x3F800000, 0) ∧ tanhF 0xFF800000 = (0xBF800000, 0)
      ∧ sigF 0xFF800000 = (0, 0) ∧ sigF 0x7F800000 = (0x3F800000, 0) ∧ sigF 0 = (0x3F000000, 0) ∧ sigF 0x80000000 = (0x3F000000, 0) := by
  decide +kernel

/-- Settles O16: the nearest multiple of the last place (`roundFin_f32_nearest`), and each kind of special operand in its lemma. -/
theorem roundingAndSpecials : Obligations.RoundingAndSpecials := by
  obtain ⟨hdiv, hdivNeg, hrsq, hsqrt, hexact⟩ := functions_exact
  refine ⟨fun s m e x hm sr mr er sx mx ex hr hx => roundFin_f32_nearest s hm e hr hx, ⟨fun x y => ⟨?_, ?_, ?_, ?_, ?_, ?_⟩,
    hdiv, hdivNeg, hrsq, hsqrt, fun x h => functions_nan h, fun x h => functions_nan h, fun x m e h hm => functions_negative h hm, hexact⟩⟩
  · exact addF_opposite
  · exact addF_opposite
  · exact fun t hx hy => mulF_zero_inf hx hy
  · intro h
    rw [addF_nan h, subF_nan h, mulF_nan h]
    exact ⟨rfl, rfl, rfl, Fp.sigFlag_or_eq_fNV _ _, Fp.sigFlag_or_eq_fNV _ _⟩
  · exact addF_mulF_zeros
  · exact fun t m e h _ => subF_self h

end Sys2Proof.Machine
end


section
namespace Sys2Proof.Machine

/-! ## CSRW (R331) -/

section
variable {s : State} {f : Firing} {d : Opnd} {n : BitVec 12} {x : W32}

theorem ChargeStep.win {u : State} {t : Nat} (h : ChargeStep s u t) : u.hd.win = s.hd.win :=
  (congrArg Harbour.win h.hd :)

theorem ChargeStep.berth {u : State} {t : Nat} (h : ChargeStep s u t) (j k : Nat) : u.berth j k = s.berth j k := by
  rw [State.berth, State.tcfg, h.cfg]
  rfl

/-- What a PCMD starts is decided by the harbour's tables, which no charge changes. -/
theorem ChargeStep.privCommand {u : State} {t : Nat} (h : ChargeStep s u t) (x : W32) : u.privCommand x = s.privCommand x := by
  have hparts := congrArg Harbour.parts h.hd
  have hrun := congrArg Harbour.running h.hd
  dsimp only at hparts hrun
  unfold State.privCommand State.part
  rw [h.win, hparts, hrun]

/-- The firing may write the CSR `n`: the privileged window is open from rank 6 (R111). -/
def State.mayWrite (s : State) (f : Firing) (n : BitVec 12) : Prop :=
  ¬(isPrivCsr n.toNat = true ∧ (s.berth s.tile f.berth).rank.toNat < 6)

/-- What a CSRW asks once it issues. -/
def csrwWork (d : Opnd) (n : BitVec 12) (t : State) (f : Firing) : Except Trap State :=
  if isPrivCsr n.toNat ∧ (t.berth t.tile f.berth).rank.toNat < 6 then .error (trapPriv n.toNat)
  else (t.view f).src d >>= fun x =>
    if n = 0x106 then .ok (t.startPriv f x)
    else .ok ((t.csrWrite t.tile f n.toNat x).1.setFiring t.tile t.slot ((t.csrWrite t.tile f n.toNat x).2.advance 2))

/-- A CSRW that is no PCMD, or finds no command running, issues. -/
theorem exec_csrw_issues (d : Opnd) (h : ¬(n = 0x106 ∧ s.hd.win.busy = true)) : exec (.csrw d n) s = s.runFiring 1 (csrwWork d n) :=
  if_neg h

/-- A write of PCMD while a command runs waits (log 125). -/
theorem exec_csrw_waits (d : Opnd) (hr : s.runs f) (hb : s.hd.win.busy = true) (hm : s.mayWrite f 0x106) :
    exec (.csrw d 0x106) s = .next s := by
  change (if (0x106 : BitVec 12) = 0x106 ∧ s.hd.win.busy = true then _ else _) = _
  rw [if_pos ⟨rfl, hb⟩, hr]
  exact if_neg fun h => hm ⟨rfl, h⟩

/-- A write to the privileged window from a lower rank is F_CSR_PRIV, PCMD while a command runs included. -/
theorem exec_csrw_refused (d : Opnd) (hr : s.runs f) (hm : ¬s.mayWrite f n) :
    exec (.csrw d n) s = .next (s.trapped f 1 (trapPriv n.toNat)) := by
  obtain ⟨hp, hrank⟩ := not_not.mp hm
  by_cases hb : n = 0x106 ∧ s.hd.win.busy = true
  · change (if n = 0x106 ∧ s.hd.win.busy = true then _ else _) = _
    rw [if_pos hb, hr]
    exact if_pos hrank
  · have hc := State.charge_step s s.tile f.cx.toNat 1 1
    have hw : csrwWork d n (s.charge s.tile f.cx.toNat 1 1) f = .error (trapPriv n.toNat) := by
      rw [csrwWork, hc.berth, hc.tile, if_pos ⟨hp, hrank⟩]
    rw [exec_csrw_issues d hb]
    unfold State.runs at hr
    simp only [State.runFiring, hr, hw, State.trapped]

/-- The work of a CSRW that may write, after its charge. -/
theorem csrwWork_ok (hx : (s.view f).src d = .ok x) (hm : s.mayWrite f n) : csrwWork d n (s.charge s.tile f.cx.toNat 1 1) f =
    let c := s.charge s.tile f.cx.toNat 1 1
    if n = 0x106 then .ok (c.startPriv f x)
    else .ok ((c.csrWrite s.tile f n.toNat x).1.setFiring s.tile s.slot ((c.csrWrite s.tile f n.toNat x).2.advance 2)) := by
  have hc := State.charge_step s s.tile f.cx.toNat 1 1
  have hsrc : ((s.charge s.tile f.cx.toNat 1 1).view f).src d = .ok x := (s.seen_src f 1 d).trans hx
  rw [csrwWork, hc.berth, hc.tile, if_neg hm, hsrc, hc.slot]
  rfl

/-- A CSRW that is no PCMD. -/
theorem exec_csrw (hr : s.runs f) (hx : (s.view f).src d = .ok x) (hm : s.mayWrite f n) (hn : n ≠ 0x106) : exec (.csrw d n) s =
    let r := (s.charge s.tile f.cx.toNat 1 1).csrWrite s.tile f n.toNat x
    .next (r.1.setFiring s.tile s.slot (r.2.advance 2)) := by
  rw [exec_csrw_issues d fun h => hn h.1]
  exact State.runFiring_ok hr ((csrwWork_ok hx hm).trans (if_neg hn))

/-- A PCMD while no command runs. -/
theorem exec_csrw_pcmd (hr : s.runs f) (hx : (s.view f).src d = .ok x) (hm : s.mayWrite f 0x106) (hb : s.hd.win.busy = false) :
    exec (.csrw d 0x106) s = .next ((s.charge s.tile f.cx.toNat 1 1).startPriv f x) := by
  rw [exec_csrw_issues d (by simp [hb])]
  exact State.runFiring_ok hr ((csrwWork_ok hx hm).trans (if_pos rfl))

/-- A PCMD that is answered at once. -/
theorem exec_csrw_pcmd_error (hr : s.runs f) (hx : (s.view f).src d = .ok x) (hm : s.mayWrite f 0x106) (hb : s.hd.win.busy = false)
    {e : PrivStatus} (he : s.privCommand x = .error e) : ∃ u, exec (.csrw d 0x106) s = .next u
      ∧ u.hd.win = { s.hd.win with busy := false, status := e.code } ∧ u.firing s.tile s.slot = some (f.advance 2) := by
  have hc := State.charge_step s s.tile f.cx.toNat 1 1
  refine ⟨_, exec_csrw_pcmd hr hx hm hb, ?_⟩
  rw [State.startPriv, hc.privCommand, he, hc.tile, hc.slot]
  refine ⟨?_, State.firing_setFiring_same ..⟩
  change { (s.charge s.tile f.cx.toNat 1 1).hd.win with busy := false, status := e.code } = _
  rw [hc.win]

/-- A PCMD that starts the step `i`. -/
theorem exec_csrw_pcmd_ok (hr : s.runs f) (hx : (s.view f).src d = .ok x) (hm : s.mayWrite f 0x106) (hb : s.hd.win.busy = false)
    {i : Instr} (hi : s.privCommand x = .ok i) : ∃ u, exec (.csrw d 0x106) s = .next u ∧ u.hd.win = { s.hd.win with busy := true }
      ∧ u.firing s.tile s.slot = some { f.advance 2 with wait := .priv }
      ∧ (s.now + 1, i, { a := s.hd.win.entry, b := s.tile, c := s.slot }) ∈ u.agenda := by
  have hc := State.charge_step s s.tile f.cx.toNat 1 1
  refine ⟨_, exec_csrw_pcmd hr hx hm hb, ?_⟩
  rw [State.startPriv, hc.privCommand, hi, hc.tile, hc.slot]
  refine ⟨?_, State.firing_setFiring_same .., ?_⟩
  · change { (s.charge s.tile f.cx.toNat 1 1).hd.win with busy := true } = _
    rw [hc.win]
  · rw [← hc.win, ← hc.now]
    exact State.mem_after _ 1 i _

end

/-- A word of PDATA replaced, the other three kept (R314). -/
def setPdata (k : Nat) (x : W32) (p : BitVec 128) : BitVec 128 :=
  (p &&& ~~~((0xFFFFFFFF : BitVec 128) <<< (32 * k))) ||| (x.setWidth 128 <<< (32 * k))

theorem getLsbD_word_mask (i : Nat) : (0xFFFFFFFF : BitVec 128).getLsbD i = decide (i < 32) := by
  rw [show (0xFFFFFFFF : BitVec 128) = (BitVec.allOnes 32).setWidth 128 by decide, BitVec.getLsbD_setWidth, BitVec.getLsbD_allOnes]
  simp only [Bool.and_eq_right_iff_imp, decide_eq_true_eq]
  omega

theorem extract_setPdata (k j : Nat) (hk : k < 4) (hj : j < 4) (x : W32) (p : BitVec 128) :
    (setPdata k x p).extractLsb' (32 * j) 32 = if j = k then x else p.extractLsb' (32 * j) 32 := by
  apply BitVec.eq_of_getLsbD_eq
  intro i hi
  have hin : 32 * j + i < 128 := by omega
  simp only [setPdata, BitVec.getLsbD_extractLsb', BitVec.getLsbD_or, BitVec.getLsbD_and, BitVec.getLsbD_not,
    BitVec.getLsbD_shiftLeft, getLsbD_word_mask, BitVec.getLsbD_setWidth, hi, hin, decide_true, Bool.true_and]
  rcases Nat.lt_trichotomy j k with h | rfl | h
  · simp [show 32 * j + i < 32 * k by omega, h.ne, hi]
  · simp [hi, show i < 128 by omega]
  · simp [show ¬32 * j + i < 32 * k by omega, show ¬32 * j + i - 32 * k < 32 by omega, h.ne', hi,
      BitVec.getLsbD_of_ge x (32 * j + i - 32 * k) (by omega)]

/-- Settles O31: a CSRW that may write and issues does what `State.csrWrite` or, for PCMD, `State.startPriv` gives the CSR. -/
theorem writeCsr : Obligations.WriteCsr := by
  intro s f d x hr hx rank c tile win
  have ordinary : ∀ n : BitVec 12, isPrivCsr n.toNat = false → s.mayWrite f n := fun n h hp => by rw [h] at hp; cases hp.1
  refine ⟨exec_csrw hr hx (ordinary _ rfl) (by decide), exec_csrw hr hx (ordinary _ rfl) (by decide), fun n hn => ?_,
    exec_csrw hr hx (ordinary _ rfl) (by decide), fun hlow n hn => ?_, fun hhigh => ?_⟩
  · interval_cases n <;> exact exec_csrw hr hx (ordinary _ rfl) (by decide)
  · interval_cases n <;> exact exec_csrw_refused d hr (not_not.mpr ⟨rfl, hlow⟩)
  · have hm : ∀ n, s.mayWrite f n := fun n h => absurd h.2 (Nat.not_lt.mpr hhigh)
    refine ⟨exec_csrw hr hx (hm _) (by decide), exec_csrw hr hx (hm _) (by decide), exec_csrw hr hx (hm _) (by decide), fun k hk => ?_,
      fun hb => exec_csrw_waits d hr hb (hm _), fun hb => ⟨fun e he => exec_csrw_pcmd_error hr hx (hm _) hb he,
      fun i hi => exec_csrw_pcmd_ok hr hx (hm _) hb hi⟩⟩
    refine ⟨setPdata k x c.hd.win.pdata, ?_, fun j hj => ?_⟩
    · interval_cases k <;> exact exec_csrw hr hx (hm _) (by decide)
    · rw [extract_setPdata k j hk hj, (State.charge_step s s.tile f.cx.toNat 1 1).win]

end Sys2Proof.Machine
end


section
namespace Sys2Proof.Machine

/-! ## F32 comparisons (R121) -/

theorem Fp.lt_nan {a b : Fp} (h : a.isNan = true ∨ b.isNan = true) : a.lt b = false := by
  rcases h with h | h
  · cases a with
    | nan q => cases b <;> rfl
    | _ => cases h
  · cases b with
    | nan q => cases a <;> rfl
    | _ => cases h

theorem Fp.eqv_nan {a b : Fp} (h : a.isNan = true ∨ b.isNan = true) : a.eqv b = false := by
  rcases h with h | h <;> simp [Fp.eqv, h]

/-- With a NaN every condition but `un` is false. -/
theorem FCond.holds_nan {x y : W32} (h : isNanF x = true ∨ isNanF y = true) (c : FCond) : c.holds x y = decide (c = .un) := by
  cases c with
  | eq => exact Fp.eqv_nan h
  | lt => exact Fp.lt_nan h
  | le => exact (congrArg₂ or (Fp.lt_nan h) (Fp.eqv_nan h) :)
  | un => exact (Bool.or_eq_true ..).mpr h

theorem FCond.un_holds {x y : W32} (hx : isNanF x = false) (hy : isNanF y = false) : FCond.un.holds x y = false :=
  (congrArg₂ or hx hy :)

theorem f32_signBit (s : Bool) : f32.signBit s = if s then 2 ^ 31 else 0 := rfl

/-- The encoding of a finite F32 value: its sign above the packed magnitude. -/
theorem toNat_of_unF32_fin {x : W32} {s : Bool} {m : Nat} {e : Int} (h : unF32 x = .fin s m e) :
    x.toNat = f32.signBit s + packMag m e ∧ (m < 2 ^ 23 → e = -149) := by
  have hlt := x.isLt
  rw [unF32, unpack_f32] at h
  dsimp only at h
  split at h
  · split at h <;> cases h
  · split at h
    · next hex hzero =>
      cases h
      refine ⟨?_, fun _ => rfl⟩
      rw [f32_signBit, packMag, if_pos (Nat.mod_lt _ (by decide))]
      simp only [decide_eq_true_eq, if_true]
      split <;> omega
    · next hex hzero =>
      cases h
      refine ⟨?_, fun h => by omega⟩
      have hexp : (((x.toNat / 2 ^ 23 % 256 : Nat) : Int) - 150 + 150).toNat = x.toNat / 2 ^ 23 % 256 := by omega
      simp only [f32_signBit, packMag, if_neg (Nat.not_lt.mpr (Nat.le_add_left ..)), hexp, if_neg hzero, decide_eq_true_eq]
      split <;> omega

/-- No two words stand for one infinity. -/
theorem toNat_of_unF32_inf {x : W32} {s : Bool} (h : unF32 x = .inf s) : x.toNat = f32.signBit s + f32.infBits := by
  have hlt := x.isLt
  rw [unF32, unpack_f32] at h
  dsimp only at h
  split at h
  · split at h
    · cases h
      rw [f32_signBit, f32_infBits]
      simp only [decide_eq_true_eq]
      split <;> omega
    · cases h
  · split at h <;> cases h

/-- Beside the NaNs, no two words stand for one value. -/
theorem unF32_injective {x y : W32} (hx : isNanF x = false) (h : unF32 x = unF32 y) : x = y := by
  apply BitVec.eq_of_toNat_eq
  cases hu : unF32 x with
  | nan q => rw [isNanF, hu] at hx; cases hx
  | inf s => rw [toNat_of_unF32_inf hu, toNat_of_unF32_inf (h.symm.trans hu)]
  | fin s m e => rw [(toNat_of_unF32_fin hu).1, (toNat_of_unF32_fin (h.symm.trans hu)).1]

theorem isZeroF_of_unF32_zero {x : W32} {s : Bool} {e : Int} (h : unF32 x = .fin s 0 e) : isZeroF x = true := by
  obtain ⟨hx, he⟩ := toNat_of_unF32_fin h
  obtain rfl := he (by decide)
  rw [isZeroF_iff]
  cases s
  · exact .inl (BitVec.eq_of_toNat_eq hx)
  · exact .inr (BitVec.eq_of_toNat_eq hx)

/-- Two magnitudes that are equal in places of the lower one's last place have equal significands and last places. -/
theorem significand_unique {m n k : Nat} (hm : m < 2 ^ 24) (hn : k ≠ 0 → 2 ^ 23 ≤ n) (h : m = n * 2 ^ k) : k = 0 ∧ m = n := by
  cases k with
  | zero => exact ⟨rfl, by simpa using h⟩
  | succ k =>
    have h23 := hn (Nat.succ_ne_zero k)
    have hpow : 2 ^ 23 * 2 ≤ n * 2 ^ (k + 1) := Nat.mul_le_mul h23 (by rw [Nat.pow_succ]; exact Nat.le_mul_of_pos_left 2 (by positivity))
    omega

/-- Two finite F32 values whose magnitudes agree have the same significand, and if it is not zero the same last place. -/
theorem unF32_magnitude_unique {x y : W32} {s t : Bool} {m n : Nat} {e d : Int} (hx : unF32 x = .fin s m e) (hy : unF32 y = .fin t n d)
    (h : m * 2 ^ (e - min e d).toNat = n * 2 ^ (d - min e d).toNat) : m = n ∧ e = d := by
  obtain ⟨hm, hme⟩ := unF32_fin_bounds hx
  obtain ⟨hn, hnd⟩ := unF32_fin_bounds hy
  have hxs := (toNat_of_unF32_fin hx).2
  have hys := (toNat_of_unF32_fin hy).2
  rcases le_total e d with hle | hle
  · rw [min_eq_left hle, sub_self, Int.toNat_zero, pow_zero, mul_one] at h
    obtain ⟨hk, hmn⟩ := significand_unique hm (fun hk => by by_contra hlow; have := hys (by omega); omega) h
    exact ⟨hmn, by omega⟩
  · rw [min_eq_right hle, sub_self, Int.toNat_zero, pow_zero, mul_one] at h
    obtain ⟨hk, hmn⟩ := significand_unique hn (fun hk => by by_contra hlow; have := hxs (by omega); omega) h.symm
    exact ⟨hmn.symm, by omega⟩

theorem Fp.scaled_fin (s : Bool) (m : Nat) (e g : Int) :
    (Fp.fin s m e).scaled g = if s then -((m * 2 ^ (e - g).toNat : Nat) : Int) else ((m * 2 ^ (e - g).toNat : Nat) : Int) := by
  simp [Fp.scaled]

theorem Fp.eqv_fin {s t : Bool} {m n : Nat} {e d : Int} : (Fp.fin s m e).eqv (.fin t n d) = true ↔
    (Fp.fin s m e).scaled (min e d) = (Fp.fin t n d).scaled (min e d) := by
  simp only [Fp.eqv, Fp.isNan, Fp.lt, min_comm d e, Bool.not_false, Bool.true_and, Bool.and_eq_true,
    Bool.not_eq_true', decide_eq_false_iff_not]
  omega

theorem Fp.eqv_self {a : Fp} (h : a.isNan = false) : a.eqv a = true := by
  cases a with
  | nan q => cases h
  | inf s => cases s <;> rfl
  | fin s m e => exact Fp.eqv_fin.mpr rfl

theorem Fp.eqv_inf (s t : Bool) : (Fp.inf s).eqv (.inf t) = decide (s = t) := by cases s <;> cases t <;> rfl

theorem Fp.eqv_inf_fin (s t : Bool) (m : Nat) (e : Int) :
    (Fp.inf s).eqv (.fin t m e) = false ∧ (Fp.fin t m e).eqv (.inf s) = false := by
  cases s <;> exact ⟨rfl, rfl⟩

theorem sign_unique {s t : Bool} {n : Nat} (hn : n ≠ 0) (h : (if s then -(n : Int) else n) = if t then -(n : Int) else n) : s = t := by
  cases s <;> cases t <;> simp_all

/-- Two words of one finite value are the same word, or both are zeros. -/
theorem eq_or_zeros_of_eqv_fin {x y : W32} {s t : Bool} {m n : Nat} {e d : Int} (hx : unF32 x = .fin s m e) (hy : unF32 y = .fin t n d)
    (h : (unF32 x).eqv (unF32 y) = true) : x = y ∨ (isZeroF x = true ∧ isZeroF y = true) := by
  rw [hx, hy, Fp.eqv_fin, Fp.scaled_fin, Fp.scaled_fin] at h
  have hmag : m * 2 ^ (e - min e d).toNat = n * 2 ^ (d - min e d).toNat := by split at h <;> split at h <;> omega
  obtain ⟨rfl, rfl⟩ := unF32_magnitude_unique hx hy hmag
  by_cases hm : m = 0
  · subst hm
    exact .inr ⟨isZeroF_of_unF32_zero hx, isZeroF_of_unF32_zero hy⟩
  · obtain rfl := sign_unique (by positivity) h
    exact .inl (unF32_injective (by rw [isNanF, hx]; rfl) (hx.trans hy.symm))

/-- Beside the NaNs, values are equal where the words are, or where both are zeros. -/
theorem unF32_eqv_iff {x y : W32} (hx : isNanF x = false) (hy : isNanF y = false) :
    (unF32 x).eqv (unF32 y) = true ↔ x = y ∨ (isZeroF x = true ∧ isZeroF y = true) := by
  constructor
  · intro h
    cases hu : unF32 x with
    | nan q => rw [isNanF, hu] at hx; cases hx
    | inf s =>
      cases hv : unF32 y with
      | nan q => rw [isNanF, hv] at hy; cases hy
      | inf t =>
        rw [hu, hv, Fp.eqv_inf, decide_eq_true_eq] at h
        exact .inl (unF32_injective hx (by rw [hu, hv, h]))
      | fin t n d => rw [hu, hv, (Fp.eqv_inf_fin ..).1] at h; cases h
    | fin s m e =>
      cases hv : unF32 y with
      | nan q => rw [isNanF, hv] at hy; cases hy
      | inf t => rw [hu, hv, (Fp.eqv_inf_fin ..).2] at h; cases h
      | fin t n d => exact eq_or_zeros_of_eqv_fin hu hv h
  · rintro (rfl | ⟨hzx, hzy⟩)
    · exact Fp.eqv_self hx
    · obtain ⟨s, hs⟩ := unF32_of_isZeroF hzx
      obtain ⟨t, ht⟩ := unF32_of_isZeroF hzy
      rw [hs, ht]
      cases s <;> cases t <;> decide

theorem FCond.eq_holds {x y : W32} (hx : isNanF x = false) (hy : isNanF y = false) :
    FCond.eq.holds x y = (decide (x = y) || isZeroF x && isZeroF y) := by
  rw [Bool.eq_iff_iff, Bool.or_eq_true, Bool.and_eq_true, decide_eq_true_eq]
  exact unF32_eqv_iff hx hy

/-! ## Predicates and masks (R120 to R124) -/

theorem truthBit_eq (t : BitVec 4) (a b : Bool) : truthBit t a b = t.getLsbD (2 * (if a then 1 else 0) + if b then 1 else 0) := by
  cases a <;> rfl

/-- A compare sets the bits of the enabled lanes that satisfy it and clears the others (R122). -/
theorem getLsbD_laneTest (m : BitVec 16) (g : Nat → Bool) {l : Nat} (hl : l < 16) :
    (laneTest m g).getLsbD l = (m.getLsbD l && g l) := by
  have hd := digit_foldr 2 (fun i => if m.getLsbD i && g i then 1 else 0) (List.range 16) (fun i _ => by split <;> decide) l
    (by simpa using hl)
  rw [List.getElem_range] at hd
  rw [laneTest, BitVec.getLsbD_ofNat, decide_eq_true hl, Bool.true_and, Nat.testBit_eq_decide_div_mod_eq, hd]
  cases m.getLsbD l && g l <;> rfl

theorem getLsbD_laneTest_full (g : Nat → Bool) {l : Nat} (hl : l < 16) : (laneTest 0xFFFF g).getLsbD l = g l := by
  have hb : ∀ k : Fin 16, (0xFFFF : BitVec 16).getLsbD k = true := by decide
  rw [getLsbD_laneTest _ _ hl, hb ⟨l, hl⟩, Bool.true_and]

section
variable {s : State} {f : Firing} (hr : s.runs f) {a b : Opnd}
include hr

/-- A scalar compare. -/
theorem State.exec_predicate {i : Instr} {cls : Nat} {p : BitVec 3} {g : W32 → W32 → Bool} {x y : W32} (hx : (s.view f).src a = .ok x)
    (hy : (s.view f).src b = .ok y) (hi : exec i s = s.runView cls 2 fun v => v.predicate p a b g) :
    exec i s = .next (s.ran f cls 2 ((s.seen f cls).setPred p.toNat (g x y))) := by
  refine State.exec_ok hr hi ?_
  rw [View.predicate, State.seen_src, State.seen_src, hx, hy]
  rfl

/-- A compare of lanes. -/
theorem State.exec_compareLanes {i : Instr} {m q : BitVec 2} {g : W32 → W32 → Bool} {x y : VBits} (hx : (s.view f).spatial a = .ok x)
    (hy : (s.view f).spatial b = .ok y) (hi : exec i s = s.runView 7 2 fun v => v.compareLanes m a b q g) :
    ∃ r, exec i s = .next (s.ran f 7 2 (((s.seen f 7).bill [a, b]).setMask m.toNat r))
      ∧ ∀ l, l < 16 → r.getLsbD l = (((s.view f).mask q.toNat).getLsbD l && g (lane x l) (lane y l)) := by
  refine ⟨_, State.exec_ok hr hi ?_, fun l hl => getLsbD_laneTest _ (fun l => g (lane x l) (lane y l)) hl⟩
  rw [View.compareLanes, State.seen_spatial, State.seen_spatial, hx, hy]
  rfl

end

/-- Settles O8: the compares are the two forms that test a condition; F32 equality is `unF32_eqv_iff`. -/
theorem predicatesAndMasks : Obligations.PredicatesAndMasks := by
  refine ⟨fun s f p a b x y hr hx hy => ?_, fun s f m a b x y q hr hx hy => ?_⟩
  · intro done
    have compare {i : Instr} {cls : Nat} {g : W32 → W32 → Bool} {r : Bool}
        (hi : exec i s = s.runView cls 2 fun v => v.predicate p a b g)
        (hg : g x y = r) : exec i s = done cls r := hg ▸ State.exec_predicate hr hx hy hi
    refine ⟨compare rfl rfl, compare rfl rfl, compare rfl rfl, compare rfl rfl, fun h => ?_, fun hnx hny => ?_, fun u v t => ?_⟩
    · exact ⟨compare rfl (FCond.holds_nan h .eq), compare rfl (FCond.holds_nan h .lt), compare rfl (FCond.holds_nan h .le),
        compare rfl (FCond.holds_nan h .un)⟩
    · exact ⟨compare rfl (FCond.un_holds hnx hny), compare rfl (FCond.eq_holds hnx hny), compare rfl rfl, compare rfl rfl⟩
    · rw [← truthBit_eq]
      exact State.exec_ok hr (work := fun w => .ok (w.setPred p.toNat (truthBit t (w.pred u.toNat) (w.pred v.toNat)))) rfl rfl
  · intro bits done
    have compare {i : Instr} {g : W32 → W32 → Bool} (hi : exec i s = s.runView 7 2 fun v => v.compareLanes m a b q g) :
        ∃ r, exec i s = done r ∧ bits g r := State.exec_compareLanes hr hx hy hi
    refine ⟨compare (g := Cond.eq.holds) rfl, compare (g := Cond.ne.holds) rfl, compare (g := Cond.lt.holds) rfl,
      compare (g := Cond.ltu.holds) rfl, compare rfl, compare rfl, compare rfl, compare rfl, fun u v t => ?_, fun d hd => ⟨?_, ?_⟩⟩
    · refine ⟨_, State.exec_ok hr (work := fun w => .ok (w.setMask m.toNat (laneTest 0xFFFF fun l =>
        truthBit t ((w.mask u.toNat).getLsbD l) ((w.mask v.toNat).getLsbD l)))) rfl rfl, fun l hl => ?_⟩
      rw [getLsbD_laneTest_full _ hl, truthBit_eq]
      rfl
    · exact State.exec_put hr hd (work := fun w => w.put d (BitVec.ofNat 32 (popCount (w.mask q.toNat)))) rfl rfl
    · exact State.exec_put hr hd (work := fun w => w.put d (BitVec.ofNat 32 (firstSet (w.mask q.toNat)))) rfl rfl

end Sys2Proof.Machine
end


section
namespace Sys2Proof.Machine

/-! ## What a charge leaves for a CSR to read -/

section
variable {s u : State} {t : Nat} (h : ChargeStep s u t)
include h

theorem ChargeStep.acct (c : Nat) : u.acct c = s.acct c := (congrArg (fun x : Harbour => x.accts.get {} c) h.hd :)

theorem ChargeStep.vf (v : Nat) : u.vf v = s.vf v := (congrArg (fun x : Harbour => x.vfs.get {} v) h.hd :)

theorem ChargeStep.account (j cx : Nat) : u.account j cx = s.account j cx := by
  have hown : ∀ c, u.covePart c = s.covePart c := fun c => (congrArg (fun x : Harbour => ({ s with hd := x } : State).covePart c) h.hd :)
  rw [State.account, State.account, hown]

theorem ChargeStep.replicas (j b : Nat) : u.replicas j b = s.replicas j b := by
  have hstages : u.hd.stages = s.hd.stages := (congrArg Harbour.stages h.hd :)
  rw [State.replicas, State.replicas, State.replicaRow, State.replicaRow, hstages, h.berth, State.tcfg, State.tcfg, h.cfg]

/-- What a CSRR reads is no meter. -/
theorem ChargeStep.csrRead (j : Nat) (f : Firing) (n : Nat) : u.csrRead j f n = s.csrRead j f n := by
  have htile : (u.tileAt j).astat = (s.tileAt j).astat ∧ (u.tileAt j).lease = (s.tileAt j).lease
      ∧ (u.tileAt j).th = (s.tileAt j).th := by
    by_cases hj : j = t
    · subst hj
      obtain ⟨m, hm⟩ := h.own
      rw [hm]
      exact ⟨rfl, rfl, rfl⟩
    · rw [h.tiles j hj]
      exact ⟨rfl, rfl, rfl⟩
  obtain ⟨hastat, hlease, hth⟩ := htile
  unfold State.csrRead
  dsimp only
  rw [h.account, h.acct, h.vf, h.replicas, hastat, hlease, hth, h.win, h.free]

end

/-- Latched words do not decide what a destination takes. -/
theorem View.takes_latch (v : View) (l : Map W32) (d : Opnd) : ({ v with f := { v.f with latch := l } } : View).takes d = v.takes d := by
  rw [View.takes_eq, View.takes_eq]
  cases d with
  | f n =>
    change (View.setSlot _ _ _).isOk = (View.setSlot _ _ _).isOk
    unfold View.setSlot
    dsimp only [View.frame]
    split <;> rfl
  | o n =>
    change (View.vput _ (.o n) 1 _ []).isOk = (View.vput _ (.o n) 1 _ []).isOk
    rw [View.vput_isOk, View.vput_isOk]
    rfl
  | _ => rfl

theorem State.seen_latch_put {s : State} {f : Firing} {cls : Nat} {d : Opnd} (ht : (s.view f).takes d = true) (l : Map W32) (x : W32) :
    ({ s.seen f cls with f := { f with latch := l } } : View).put d x
      = .ok (({ s.seen f cls with f := { f with latch := l } } : View).wrote d x) :=
  View.takes_put ((View.takes_latch (s.seen f cls) l d).trans ((s.seen_takes f cls d).trans ht)) x

/-! ## CSRR (R110, R111, R331) -/

/-- What a CSRR asks once it is charged. -/
def csrrWork (d : Opnd) (n : BitVec 12) (t : State) (f : Firing) : Except Trap State :=
  if isPrivCsr n.toNat ∧ (t.berth t.tile f.berth).rank.toNat < 6 then .error (trapPriv n.toNat)
  else
    let r := t.csrRead t.tile f n.toNat
    let t1 := if n = 0x106 then { t with free := t.free + 1 } else t
    (t1.view r.2).put d r.1 >>= fun v => .ok (t1.writeBack { v with f := v.f.advance 2 })

section
variable {s : State} {f : Firing} {d : Opnd} {n : BitVec 12} (hr : s.runs f)
include hr

/-- A read of the privileged window from a lower rank is F_CSR_PRIV (R111). -/
theorem exec_csrr_refused (hm : ¬s.mayWrite f n) : exec (.csrr d n) s = .next (s.trapped f 1 (trapPriv n.toNat)) := by
  have hc := State.charge_step s s.tile f.cx.toNat 1 1
  have hw : csrrWork d n (s.charge s.tile f.cx.toNat 1 1) f = .error (trapPriv n.toNat) := by
    rw [csrrWork, hc.berth, hc.tile, if_pos (not_not.mp hm)]
  change s.runFiring 1 (csrrWork d n) = _
  unfold State.runs at hr
  simp only [State.runFiring, hr, hw, State.trapped]

variable (ht : (s.view f).takes d = true) (hm : s.mayWrite f n)
include ht hm

/-- A CSRR of another register than PCMD, which may take or leave latched high words. -/
theorem exec_csrr_latch (hn : n ≠ 0x106) {x : W32} {l : Map W32} (hread : s.csrRead s.tile f n.toNat = (x, { f with latch := l })) :
    exec (.csrr d n) s = .next (s.ran f 1 2 (({ s.seen f 1 with f := { f with latch := l } } : View).wrote d x)) := by
  have hc := State.charge_step s s.tile f.cx.toNat 1 1
  refine State.runFiring_ok (g := csrrWork d n) hr ?_
  rw [csrrWork, hc.berth, hc.tile, if_neg hm, hc.csrRead, hread]
  dsimp only
  rw [if_neg hn]
  exact congrArg (· >>= _) (State.seen_latch_put ht l x)

/-- A CSRR that latches nothing. -/
theorem exec_csrr (hn : n ≠ 0x106) {x : W32} (hread : s.csrRead s.tile f n.toNat = (x, f)) :
    exec (.csrr d n) s = .next (s.ran f 1 2 ((s.seen f 1).wrote d x)) :=
  exec_csrr_latch (l := f.latch) hr ht hm hn hread

end

/-! ## Free words (log 9) -/

/-- `s` after `k` free words have been drawn. -/
def State.withFree (s : State) (k : Nat) : State := { s with free := k }

/-- How many free words have been drawn does not enter a charge. -/
theorem State.charge_withFree (s : State) (k t cx c n : Nat) : (s.withFree k).charge t cx c n = (s.charge t cx c n).withFree k := by
  have hcost : (s.withFree k).cost (dieOfTile t) c = s.cost (dieOfTile t) c := rfl
  have hacct : (s.withFree k).account t cx = s.account t cx := rfl
  have htile : (s.withFree k).tileAt t = s.tileAt t := rfl
  unfold State.charge
  dsimp only
  rw [hcost, hacct, htile]
  split
  · rfl
  · generalize meterCharge (s.tileAt t).meter (s.account t cx) (s.cost (dieOfTile t) c * n) = r
    obtain ⟨m, _ | e⟩ := r <;> rfl

theorem State.charges_withFree (s : State) (k t cx : Nat) (l : List (Nat × Nat)) :
    (s.withFree k).charges t cx l = (s.charges t cx l).withFree k := by
  induction l generalizing s with
  | nil => rfl
  | cons e r ih => exact (congrArg (fun u : State => u.charges t cx r) (s.charge_withFree k t cx e.1 e.2)).trans (ih _)

theorem State.writeBack_withFree (s : State) (k : Nat) (v : View) : (s.withFree k).writeBack v = (s.writeBack v).withFree k :=
  State.charges_withFree (s.setTile s.tile { v.t with slots := v.t.slots.put s.slot v.f }) k _ _ _

/-- Words that have been drawn can be put back. -/
theorem State.withFree_undo {s : State} {k : Nat} (h : s.free = k) (j : Nat) : ({ s.withFree j with free := k } : State) = s := by
  subst h
  rfl

theorem State.ran_free (s : State) (f : Firing) (cls n : Nat) (v : View) : (s.ran f cls n v).free = s.free := by
  unfold State.ran State.writeBack
  rw [(State.charges_step _ _ _ _).free, State.setTile_free, (State.charge_step _ _ _ _ _).free]

/-- A read of PCMD gives a free word and draws it. -/
theorem exec_csrr_pcmd {s : State} {f : Firing} {d : Opnd} (hr : s.runs f) (ht : (s.view f).takes d = true) (hm : s.mayWrite f 0x106) :
    exec (.csrr d 0x106) s = .next ((s.ran f 1 2 ((s.seen f 1).wrote d (Config.freeWord s.free))).withFree (s.free + 1)) := by
  have hc := State.charge_step s s.tile f.cx.toNat 1 1
  refine State.runFiring_ok (g := csrrWork d 0x106) hr ?_
  have hread : (s.charge s.tile f.cx.toNat 1 1).csrRead (s.charge s.tile f.cx.toNat 1 1).tile f 0x106 = (Config.freeWord s.free, f) := by
    rw [hc.csrRead, hc.tile]
    rfl
  have hput := View.takes_put ((s.seen_takes f 1 d).trans ht) (Config.freeWord s.free)
  have hback := State.writeBack_withFree (s.charge s.tile f.cx.toNat 1 1) (s.free + 1)
    { (s.seen f 1).wrote d (Config.freeWord s.free) with f := ((s.seen f 1).wrote d (Config.freeWord s.free)).f.advance 2 }
  have hrank : ¬(isPrivCsr 0x106 = true ∧
      ((s.charge s.tile f.cx.toNat 1 1).berth (s.charge s.tile f.cx.toNat 1 1).tile f.berth).rank.toNat < 6) := by
    rw [hc.berth, hc.tile]
    exact hm
  refine (if_neg hrank).trans ?_
  change ((State.withFree _ _).view (State.csrRead _ _ f 0x106).2).put d (State.csrRead _ _ f 0x106).1 >>= _ = _
  rw [hread, hc.free]
  refine Eq.trans (congrArg (fun r : Except Trap View => r >>= fun v =>
    Except.ok (((s.charge s.tile f.cx.toNat 1 1).withFree (s.free + 1)).writeBack { v with f := v.f.advance 2 })) hput) ?_
  exact congrArg Except.ok hback

/-! ## Pairs (R110, R362) -/

section
variable (f : Firing) (k : Nat) (x : BitVec 64)

/-- A low read latches the high word. -/
theorem Firing.pair_low : f.pair k x false =
    (x.extractLsb' 0 32, { f with latch := f.latch.put k (x.extractLsb' 32 32) }) := rfl

/-- A high read without a latched word reads the pair. -/
theorem Firing.pair_high_none (h : f.latch.look k = none) : f.pair k x true = (x.extractLsb' 32 32, f) := by
  rw [Firing.pair, h]
  rfl

/-- A high read takes the latched word, which only EXEC keeps. -/
theorem Firing.pair_high_some {y : W32} (h : f.latch.look k = some y) :
    f.pair k x true = (y, { f with latch := if k = 5 then f.latch else f.latch.drop k }) := by
  rw [Firing.pair, h]
  by_cases hk : k = 5
  · subst hk; rfl
  · simp only [if_neg hk, if_true]

end

/-! ## EMRD (R362) -/

/-- The word of an item that an EMRD gives, and the firing after. -/
def emrdWord (f : Firing) (x : W32) (n : BitVec 64) : W32 × Firing :=
  if x.toNat % 16 ≤ 3 then f.pair (2 + x.toNat % 16) n (x.getLsbD 4) else (if x.getLsbD 4 then 0 else wordOf n 0, f)

/-- What an EMRD issued in `s` asks once it is charged. -/
def emrdWork (s : State) (d a b : Opnd) (t : State) (f : Firing) : Except Trap State :=
  (t.view f).src a >>= fun x => (t.view f).src b >>= fun y =>
    match s.emrdItem s.tile f (x.toNat % 16) y with
    | none => .error (trapBounds (if x.toNat % 16 = 4 then y else x))
    | some n => (t.view (emrdWord f x n).2).put d (emrdWord f x n).1 >>= fun v => .ok (t.writeBack { v with f := v.f.advance 2 })

theorem exec_emrd_runs (d a b : Opnd) (s : State) : exec (.emrd d a b) s = s.runFiring 1 (emrdWork s d a b) := rfl

section
variable {s : State} {f : Firing} {d a b : Opnd} {x y : W32} (hr : s.runs f) (hx : (s.view f).src a = .ok x)
  (hy : (s.view f).src b = .ok y)
include hr hx hy

/-- The firing that an EMRD leaves differs in its latched words at most. -/
theorem exec_emrd (ht : (s.view f).takes d = true) {n : BitVec 64} (hn : s.emrdItem s.tile f (x.toNat % 16) y = some n) {r : W32}
    {l : Map W32} (hword : emrdWord f x n = (r, { f with latch := l })) :
    exec (.emrd d a b) s = .next (s.ran f 1 2 (({ s.seen f 1 with f := { f with latch := l } } : View).wrote d r)) := by
  rw [exec_emrd_runs]
  refine State.runFiring_ok hr ?_
  rw [← s.seen_src f 1] at hx hy
  unfold State.seen at hx hy
  unfold emrdWork
  rw [hx]
  change (State.view _ f).src b >>= _ = _
  rw [hy]
  change (match s.emrdItem s.tile f (x.toNat % 16) y with
    | none => _
    | some n => _) = _
  rw [hn]
  dsimp only
  rw [hword]
  exact congrArg (· >>= _) (State.seen_latch_put ht l r)

/-- An item without a value is F_BOUNDS. -/
theorem exec_emrd_bounds (hn : s.emrdItem s.tile f (x.toNat % 16) y = none) :
    exec (.emrd d a b) s = .next (s.trapped f 1 (trapBounds (if x.toNat % 16 = 4 then y else x))) := by
  rw [← s.seen_src f 1] at hx hy
  have hw : emrdWork s d a b (s.charge s.tile f.cx.toNat 1 1) f = .error (trapBounds (if x.toNat % 16 = 4 then y else x)) := by
    unfold State.seen at hx hy
    unfold emrdWork
    rw [hx]
    change (State.view _ f).src b >>= _ = _
    rw [hy]
    change (match s.emrdItem s.tile f (x.toNat % 16) y with
      | none => _
      | some n => _) = _
    rw [hn]
  unfold State.runs at hr
  simp only [exec_emrd_runs, State.runFiring, hr, hw, State.trapped]

end

/-- Items 0 to 3 are pairs. -/
theorem State.emrdItem_wide (s : State) (f : Firing) (y : W32) (n : Nat) :
    let c := s.account s.tile f.cx.toNat
    n ≤ 3 → s.emrdItem s.tile f n y = some (match n with
      | 0 => (s.acct c).postCons
      | 1 => (s.acct c).postBal
      | 2 => BitVec.ofNat 64 ((s.tileAt s.tile).meter.get 0 c)
      | _ => s.hd.exec.get 0 (execKey (dieOfTile s.tile) f.cx.toNat (y.toNat % 64))) := by
  intro c hn
  interval_cases n <;> rfl

/-- Items 4 to 6 are single words, item 4 that of a slice. -/
theorem State.emrdItem_narrow (s : State) (f : Firing) (y : W32) (n : Nat) :
    let c := s.account s.tile f.cx.toNat
    4 ≤ n → n ≤ 6 → ¬(n = 4 ∧ 768 ≤ y.toNat % 1024) → s.emrdItem s.tile f n y = some (BitVec.ofNat 64 (match n with
      | 4 => s.occ (dieOfTile s.tile * 768 + y.toNat % 1024) c
      | 5 => (s.acct c).drop
      | _ => (s.acct c).ingdrop)) := by
  intro c hlow hhigh hs
  interval_cases n
  · exact if_neg fun h => hs ⟨rfl, h⟩
  · rfl
  · rfl

theorem State.emrdItem_slice (s : State) (f : Firing) {y : W32} (hs : 768 ≤ y.toNat % 1024) : s.emrdItem s.tile f 4 y = none := if_pos hs

theorem State.emrdItem_none (s : State) (f : Firing) (y : W32) {n : Nat} (hn : 7 ≤ n) : s.emrdItem s.tile f n y = none := by
  obtain ⟨k, rfl⟩ := Nat.exists_eq_add_of_le' hn
  rfl

theorem wordOf_ofNat_zero (n : Nat) : wordOf (BitVec.ofNat 64 n) 0 = BitVec.ofNat 32 n := by
  apply BitVec.eq_of_toNat_eq
  simp [wordOf]

theorem emrdWord_narrow (f : Firing) {x : W32} (hx : 4 ≤ x.toNat % 16) (k : Nat) :
    emrdWord f x (BitVec.ofNat 64 k) = (if x.getLsbD 4 then 0 else BitVec.ofNat 32 k, f) := by
  rw [emrdWord, if_neg (Nat.not_le.mpr hx), wordOf_ofNat_zero]

/-- EQT compares with the balance less what the tile's meter holds (R363). -/
theorem exec_eqt {s : State} {f : Firing} {a b : Opnd} {x y : W32} (hr : s.runs f) (hx : (s.view f).src a = .ok x)
    (hy : (s.view f).src b = .ok y) (p : BitVec 3) :
    let c := s.account s.tile f.cx.toNat
    exec (.eqt p a b) s = .next (s.ran f 1 2 ((s.seen f 1).setPred p.toNat (decide (((x.toNat * 2 ^ (y.toNat % 32) : Nat) : Int) ≤
      (s.acct c).postBal.toInt - (((s.tileAt s.tile).meter.get 0 c / 16 : Nat) : Int))))) := by
  refine State.exec_ok hr (work := fun v => v.src a >>= fun x => v.src b >>= fun y =>
    .ok (v.setPred p.toNat (decide (((x.toNat * 2 ^ (y.toNat % 32) : Nat) : Int) ≤ (s.acct (s.account s.tile v.f.cx.toNat)).postBal.toInt
      - ((s.meterOf s.tile (s.account s.tile v.f.cx.toNat) / 16 : Nat) : Int))))) rfl ?_
  rw [State.seen_src, State.seen_src, hx, hy]
  rfl

/-- Settles O30: a CSRR that may read gives what `State.csrRead` gives, and an EMRD what `emrdWord` makes of its item. -/
theorem readCsr : Obligations.ReadCsr := by
  refine ⟨fun s f d hr ht => ?_, fun s f d a b x y p hr hx hy ht => ?_⟩
  · intro t rank acct gives rec_ w
    have ordinary : ∀ n : BitVec 12, isPrivCsr n.toNat = false → s.mayWrite f n := fun n h hp => by rw [h] at hp; cases hp.1
    refine ⟨?_, ?_, ?_, ?_, ?_, ?_, ?_, ?_, fun n hn => ?_, ?_, ?_, ?_, ?_, ?_, ?_, ?_, fun k hk => ?_,
      fun hhigh => ?_, fun hlow n hn => ?_⟩
    case refine_9 => interval_cases n <;> exact exec_csrr hr ht (ordinary _ rfl) (by decide) rfl
    case refine_17 =>
      interval_cases k
      · exact ⟨exec_csrr_latch hr ht (ordinary _ rfl) (by decide) rfl,
          fun h => exec_csrr hr ht (ordinary _ rfl) (by decide) (Firing.pair_high_none f 0 _ h),
          fun r h => exec_csrr_latch hr ht (ordinary _ rfl) (by decide) (Firing.pair_high_some f 0 _ h)⟩
      · exact ⟨exec_csrr_latch hr ht (ordinary _ rfl) (by decide) rfl,
          fun h => exec_csrr hr ht (ordinary _ rfl) (by decide) (Firing.pair_high_none f 1 _ h),
          fun r h => exec_csrr_latch hr ht (ordinary _ rfl) (by decide) (Firing.pair_high_some f 1 _ h)⟩
    case refine_18 =>
      have hm : ∀ n, s.mayWrite f n := fun n h => absurd h.2 (Nat.not_lt.mpr hhigh)
      refine ⟨exec_csrr hr ht (hm _) (by decide) rfl, exec_csrr hr ht (hm _) (by decide) rfl, fun k hk => ?_,
        exec_csrr hr ht (hm _) (by decide) rfl, _, exec_csrr_pcmd hr ht (hm _), rfl, State.withFree_undo (State.ran_free ..) _⟩
      interval_cases k <;> exact exec_csrr hr ht (hm _) (by decide) rfl
    case refine_19 => interval_cases n <;> exact exec_csrr_refused hr (not_not.mpr ⟨rfl, hlow⟩)
    all_goals exact exec_csrr hr ht (ordinary _ rfl) (by decide) rfl
  · intro c item wide narrow gives
    have hpair (hi : item ≤ 3) {r : W32} {l : Map W32} (h : f.pair (2 + item) wide (x.getLsbD 4) = (r, { f with latch := l })) :
        gives { f with latch := l } r :=
      exec_emrd hr hx hy ht (s.emrdItem_wide f y _ hi) ((if_pos hi).trans h)
    refine ⟨fun hi => ⟨fun hb => hpair hi ?_, fun hb hl => hpair (l := f.latch) hi ?_, fun r hb hl => ?_⟩, fun hlow hhigh hs => ?_,
      fun hi hs => ?_, fun hi => ?_, ?_⟩
    · rw [hb]
      exact Firing.pair_low f _ wide
    · rw [hb]
      exact Firing.pair_high_none f _ wide hl
    · have h := hpair hi (by rw [hb]; exact Firing.pair_high_some f _ wide hl)
      by_cases h3 : item = 3
      · rw [if_pos (by omega)] at h
        rw [if_pos h3]
        exact h
      · rw [if_neg (by omega)] at h
        rw [if_neg h3]
        exact h
    · exact exec_emrd (l := f.latch) hr hx hy ht (s.emrdItem_narrow f y _ hlow hhigh hs) (emrdWord_narrow f hlow _)
    · rw [exec_emrd_bounds hr hx hy (by rw [show x.toNat % 16 = 4 from hi]; exact s.emrdItem_slice f hs), if_pos hi]
      rfl
    · rw [exec_emrd_bounds hr hx hy (s.emrdItem_none f y hi), if_neg (show x.toNat % 16 ≠ 4 by omega)]
      rfl
    · exact exec_eqt hr hx hy p

end Sys2Proof.Machine
end


section
namespace Sys2Proof.Machine

/-! ## Tiles after a charge, a register instruction and a change of an M-unit -/

/-- A charge leaves what a tile's M-unit holds. -/
theorem ChargeStep.mu {s u : State} {t : Nat} (h : ChargeStep s u t) (k : Nat) : (u.tileAt k).mu = (s.tileAt k).mu := by
  by_cases hk : k = t
  · subst hk
    obtain ⟨m, hm⟩ := h.own
    rw [hm]
  · rw [h.tiles k hk]

theorem ChargeStep.ecc {s u : State} {t : Nat} (h : ChargeStep s u t) : (u.tileAt t).ecc = (s.tileAt t).ecc := by
  obtain ⟨m, hm⟩ := h.own
  rw [hm]

/-- The registers of the matrix tile after a register instruction. -/
theorem State.ran_x (s : State) (f : Firing) (cls n : Nat) (v : View) : ((s.ran f cls n v).tileAt s.tile).x = v.t.x := by
  unfold State.ran State.writeBack
  rw [(State.charge_step s s.tile f.cx.toNat cls 1).tile]
  obtain ⟨m, hm⟩ := (State.charges_step ((s.charge s.tile f.cx.toNat cls 1).setTile s.tile
    { v.t with slots := v.t.slots.put (s.charge s.tile f.cx.toNat cls 1).slot (v.f.advance n) }) s.tile v.f.cx.toNat v.extra).own
  refine (congrArg Tile.x hm).trans ?_
  rw [State.tileAt_setTile_same]

/-- A register instruction that leaves its tile's M-unit leaves every M-unit. -/
theorem State.ran_mu (s : State) (f : Firing) (cls n : Nat) {v : View} (hv : v.t.mu = (s.tileAt s.tile).mu) (k : Nat) :
    ((s.ran f cls n v).tileAt k).mu = (s.tileAt k).mu := by
  unfold State.ran State.writeBack
  rw [(State.charge_step s s.tile f.cx.toNat cls 1).tile, (State.charges_step _ _ _ _).mu, State.tileAt_setTile]
  split
  · next hk => subst hk; exact hv
  · exact (State.charge_step s s.tile f.cx.toNat cls 1).mu k

/-- A change of one M-unit changes nothing else of a tile. -/
theorem State.tileAt_modMu (s : State) (m k : Nat) (g : MUnit → MUnit) :
    (s.modMu m g).tileAt k = { s.tileAt k with mu := if k = m then g (s.tileAt k).mu else (s.tileAt k).mu } := by
  unfold State.modMu
  rw [State.tileAt_modTile]
  split
  · next hk => rw [hk]
  · rfl

theorem State.firing_modMu (s : State) (m k n : Nat) (g : MUnit → MUnit) : (s.modMu m g).firing k n = s.firing k n := by
  rw [State.firing, State.tileAt_modMu]
  rfl

theorem State.tileAt_after (s : State) (d : Nat) (i : Instr) (e : EvArg) (k : Nat) : (s.after d i e).tileAt k = s.tileAt k := rfl

theorem State.firing_after (s : State) (d : Nat) (i : Instr) (e : EvArg) (k n : Nat) : (s.after d i e).firing k n = s.firing k n := rfl

@[simp] theorem State.seen_x (s : State) (f : Firing) (cls : Nat) : (s.seen f cls).t.x = (s.tileAt s.tile).x := by
  obtain ⟨m, hm⟩ := s.seen_eq f cls
  rw [hm]
  rfl

@[simp] theorem State.seen_mu (s : State) (f : Firing) (cls : Nat) : (s.seen f cls).t.mu = (s.tileAt s.tile).mu := by
  obtain ⟨m, hm⟩ := s.seen_eq f cls
  rw [hm]
  rfl

/-- A view that differs from `v` in its flags and charges at most. -/
def View.flagsOnly (v w : View) : Prop := w.f = v.f ∧ w.t.x = v.t.x ∧ w.t.mu = v.t.mu

theorem View.flagsOnly_pay (v : View) (c n : Nat) : v.flagsOnly (v.pay c n) := by
  unfold View.pay
  split <;> exact ⟨rfl, rfl, rfl⟩

end Sys2Proof.Machine
end


section
namespace Sys2Proof.Machine

/-! ## A sentinel in a plane that holds no sum

By R107 SCAI uses plane 0 only while its FILL bit is set. The statement folds it whenever SRC is 2. -/

/-- On X-tile 18 lane 0 of row 0 of plane 0 is the sentinel; SRC says S32 sums, and no FILL bit is set. -/
def unfilledSentinel : State :=
  wXState.setTile 18 { wXState.tileAt 18 with x := { wX with plane := 0x200, ps := [(0, 0x80000000)] } }

theorem unfilledSentinel_runs : unfilledSentinel.runs wFiring := rfl

theorem unfilledSentinel_owes (q : XReg) : (unfilledSentinel.tileAt unfilledSentinel.tile).owes q = false := rfl

/-- A fold of plane 0 would mark row 0. -/
theorem unfilledSentinel_marks : ((unfilledSentinel.tileAt unfilledSentinel.tile).x.sentinels 0).getLsbD 0 = true := by decide +kernel

/-- The SCAI leaves the cleared accumulator 2 without a row in error. -/
theorem unfilledSentinel_scai :
    goes (.scai 0 1 2 2 3) unfilledSentinel (fun u => !(descErr ((u.tileAt unfilledSentinel.tile).x.descOf 2)).getLsbD 0) = true := by
  decide +kernel

theorem exists_of_goes {i : Instr} {s : State} {p : State → Bool} (h : goes i s p = true) : ∃ u, exec i s = .next u ∧ p u = true := by
  unfold goes at h
  split at h
  · next u hu => exact ⟨u, hu, h⟩
  · cases h

/-- What the statement says of an SCAI into a cleared accumulator with SRC = 2: it marks the rows of the sentinels of plane 0. -/
theorem scai_marks_of_accumulatorSums (h : Obligations.AccumulatorSums) {s : State} {f : Firing} (hr : s.runs f)
    (he : (s.tileAt s.tile).ecc = []) (ho : ∀ q, (s.tileAt s.tile).owes q = false) (a b i j : BitVec 4) (k : BitVec 3)
    (hsrc : (s.tileAt s.tile).x.plane.extractLsb' 8 2 = 2)
    (hclear : ((s.tileAt s.tile).x.accRows k.toNat).all (fun r => decide (r = 0)) = true) {m : Nat} (hm : m < 16)
    (hsent : ((s.tileAt s.tile).x.sentinels 0).getLsbD m = true) :
    goes (.scai a b k j i) s (fun u => (descErr ((u.tileAt s.tile).x.descOf k.toNat)).getLsbD m) = true := by
  obtain ⟨-, -, -, -, -, hscai, -⟩ := h s f a b i j k 0 hr he (ho _) (ho _) (ho _) (ho _)
  obtain ⟨y, fl, -, -, -, hadds⟩ := hscai hsrc
  rw [if_pos (.inl hclear)] at hadds
  obtain ⟨hexec, -, -, -, herr⟩ := hadds
  unfold goes
  rw [hexec]
  dsimp only
  rw [State.ran_x]
  refine (herr m hm).trans ?_
  dsimp only
  rw [hsent, Bool.or_true]

/-- Refutes O44: with SRC = 2 an SCAI is said to mark the rows of the sentinels of plane 0 also while the FILL bit of that plane is
clear; R107 has it use the plane only while the bit is set, and the accumulator keeps its error flags. -/
theorem not_accumulatorSums : ¬ Obligations.AccumulatorSums := by
  intro h
  have hmarks := scai_marks_of_accumulatorSums h unfilledSentinel_runs rfl unfilledSentinel_owes 0 1 3 2 2 (by decide +kernel)
    (by decide +kernel) (by decide) unfilledSentinel_marks
  obtain ⟨u, hu, hmarked⟩ := exists_of_goes hmarks
  obtain ⟨v, hv, hkept⟩ := exists_of_goes unfilledSentinel_scai
  obtain rfl : u = v := Host.Outcome.next.inj (hu.symm.trans hv)
  rw [Bool.not_eq_true'] at hkept
  exact Bool.false_ne_true (hkept.symm.trans hmarked)

end Sys2Proof.Machine
end


section
namespace Sys2Proof.Machine

/-! ## Waiting for an owed write (R168, R170) -/

theorem Tile.owes_any {x : Tile} {rs : List XReg} (h : ∃ z ∈ rs, x.owes z = true) : (rs.any fun r => x.owes r) = true :=
  List.any_eq_true.mpr h

/-- A store of a register to which a write is owed waits. -/
theorem State.storeTile_owed {s : State} {f : Firing} {b : Nat} {rs : List XReg} {g : View → View × MTile} (h : s.runs f)
    (ho : (rs.any fun r => (s.tileAt s.tile).owes r) = true) :
    s.storeTile b rs g = .next (s.setFiring s.tile s.slot { f with wait := .owed }) := by
  unfold State.runs at h
  simp only [State.storeTile, h, ho, if_true]

/-! ## Stores of tiles (R172) -/

section
variable {s : State} {f : Firing} {b : Nat} {rs : List XReg} {g : View → View × MTile} (h : s.runs f)
  (ho : (rs.any fun r => (s.tileAt s.tile).owes r) = false)
include h ho

/-- A store without room in the storer waits. -/
theorem State.storeTile_full
    (hfull : 2 ≤ (s.tileAt (chanTile (coveOfTile s.tile) (bindChan (s.berth s.tile f.berth) b))).mu.storebuf.length) :
    s.storeTile b rs g = .next (s.setFiring s.tile s.slot { f with wait := .storeBuffer }) := by
  unfold State.runs at h
  simp only [State.storeTile, h, ho, Bool.false_eq_true, if_false]
  exact if_pos hfull

/-- A store whose view differs in flags and charges only hands its tile over and goes on. -/
theorem State.storeTile_sends (he : (s.tileAt s.tile).ecc = [])
    (hroom : (s.tileAt (chanTile (coveOfTile s.tile) (bindChan (s.berth s.tile f.berth) b))).mu.storebuf.length < 2)
    (hg : (s.seen f 31).flagsOnly (g (s.seen f 31)).1) :
    let m := chanTile (coveOfTile s.tile) (bindChan (s.berth s.tile f.berth) b)
    ∃ u, s.storeTile b rs g = .next u ∧ u.firing s.tile s.slot = some (f.advance 2)
      ∧ (u.tileAt m).mu.storebuf = (s.tileAt m).mu.storebuf ++ [(g (s.seen f 31)).2] ∧ (u.tileAt s.tile).x = (s.tileAt s.tile).x := by
  intro m
  obtain ⟨hf, hx, hmu⟩ := hg
  rw [State.seen_x] at hx
  rw [State.seen_mu] at hmu
  rw [State.seen_f] at hf
  have hc := State.charge_step s s.tile f.cx.toNat 31 1
  have hfir := State.ran_firing s f 31 2 (g (s.seen f 31)).1
  have hxr := State.ran_x s f 31 2 (g (s.seen f 31)).1
  have hmur := State.ran_mu s f 31 2 hmu
  refine ⟨(((s.ran f 31 2 (g (s.seen f 31)).1).modMu m fun u => { u with storebuf := u.storebuf ++ [(g (s.seen f 31)).2] }).after 1
    .storeWalkTile { a := m }), ?_, ?_, ?_, ?_⟩
  · have hrun : s.firing s.tile s.slot = some f := h
    simp only [State.storeTile, hrun, ho, Bool.false_eq_true, if_false]
    refine (if_neg (Nat.not_le.mpr hroom)).trans (State.runFiring_ok h ?_)
    rw [hc.tile, Tile.eccTrap_none (hc.ecc.trans he)]
    rfl
  · rw [State.firing_after, State.firing_modMu, hfir, hf]
  · rw [State.tileAt_after, State.tileAt_modMu, if_pos rfl, hmur]
  · rw [State.tileAt_after, State.tileAt_modMu]
    exact hxr.trans hx

end

/-! ## The tiles that are stored (R106, R172) -/

theorem Map.get_foldl_rows {α : Type} [DecidableEq α] (d : α) (g : Nat → α) {l : Nat} (hl : l < 16) :
    ((List.range 16).foldl (fun (m : Map α) r => m.set d r (g r)) []).get d l = g l :=
  (Map.get_foldl_range (key := id) (fun _ _ h => h) (fun r _ => g r) [] 16 l).trans (if_pos hl)

/-- Reading a map to which the elements of a list were written, from a key on. -/
theorem Map.get_foldl_enumFrom {α β : Type} [DecidableEq α] (d : α) (val : β → α) (l : List β) (m : Map α) (a k : Nat) :
    ((enumFrom a l).foldl (fun (m : Map α) e => m.set d e.1 (val e.2)) m).get d k
      = if a ≤ k then ((l[k - a]?).map val).getD (m.get d k) else m.get d k := by
  induction l generalizing a m with
  | nil => simp [enumFrom]
  | cons x r ih =>
    rw [enumFrom, List.foldl_cons, ih, Map.get_set]
    rcases Nat.lt_trichotomy k a with h | rfl | h
    · rw [if_neg (by omega), if_neg (by omega), if_neg (by omega)]
    · simp
    · obtain ⟨j, rfl⟩ := Nat.exists_eq_add_of_lt h
      rw [if_pos (by omega), if_neg (by omega), if_pos (by omega), show a + j + 1 - a = (a + j + 1 - (a + 1)) + 1 by omega,
        List.getElem?_cons_succ]

/-- The shape word of a tile that is stored from an accumulator. -/
theorem mkShape_fields {f : Nat} (hf : f < 8) (t : BitVec 6) (v : BitVec 16) :
    shapeFmt (mkShape f 15 t v) = f ∧ shapeTag (mkShape f 15 t v) = t ∧ shapeRows (mkShape f 15 t v) = 15 := by
  have ht := t.isLt
  have hv := v.isLt
  have hp : t.toNat / 8 < 8 := by omega
  have hq : t.toNat % 8 < 8 := by omega
  have hn : (mkShape f 15 t v).toNat = f + 240 + 256 * (t.toNat / 8) + 2048 * (t.toNat % 8) + 65536 * v.toNat := by
    rw [mkShape, BitVec.toNat_ofNat, Nat.mod_eq_of_lt hf]
    omega
  have ht8 : t.toNat = 8 * (t.toNat / 8) + t.toNat % 8 := (Nat.div_add_mod ..).symm
  generalize t.toNat / 8 = p at *
  generalize t.toNat % 8 = q at *
  refine ⟨?_, ?_, ?_⟩
  · rw [shapeFmt, hn]; omega
  · have hlevel : ((mkShape f 15 t v).extractLsb' 8 3).toNat = p := by
      rw [BitVec.extractLsb'_toNat, hn, Nat.shiftRight_eq_div_pow]
      simp only [Nat.reducePow]
      omega
    have haxis : ((mkShape f 15 t v).extractLsb' 11 3).toNat = q := by
      rw [BitVec.extractLsb'_toNat, hn, Nat.shiftRight_eq_div_pow,
        show f + 240 + 256 * p + 2048 * q + 65536 * v.toNat = f + 240 + 256 * p + 2 ^ 11 * (q + 32 * v.toNat) by ring,
        Nat.add_mul_div_left _ _ (by decide), Nat.div_eq_of_lt (by omega)]
      omega
    apply BitVec.eq_of_toNat_eq
    rw [shapeTag, BitVec.toNat_or, BitVec.toNat_shiftLeft, BitVec.toNat_setWidth, BitVec.toNat_setWidth, hlevel, haxis,
      Nat.mod_eq_of_lt (a := p) (by omega), Nat.mod_eq_of_lt (a := q) (by omega), Nat.shiftLeft_eq,
      Nat.mod_eq_of_lt (by omega), ← Nat.shiftLeft_eq, ← Nat.shiftLeft_add_eq_or_of_lt (by omega), Nat.shiftLeft_eq]
    omega
  · rw [shapeRows, hn]; omega

/-- The tile that the tile form hands over. -/
def tileToStore (x : XRegs) (k : Nat) : MTile :=
  { rows := (List.range 16).foldl (fun a r => a.set 0 r (x.inUse k r)) []
    scale := (List.range 16).foldl (fun a r => a.set 0 r (if r ≤ shapeRows (x.shapeOf k) then x.scaleRow k r else 0)) []
    shape := x.shapeOf k, errf := x.errOf k }

theorem exec_tstTile (a : BitVec 4) (n : BitVec 2) (s : State) :
    exec (.tstTile a n) s = s.storeTile n.toNat [.t a.toNat] fun v => (v, tileToStore v.t.x a.toNat) := rfl

/-- Rows above NROW are handed over as zero, with their scale entries (R106; log 118). -/
theorem tileToStore_rows (x : XRegs) (k : Nat) {l : Nat} (hl : l < 16) :
    (tileToStore x k).rows.get 0 l = (if l ≤ shapeRows (x.shapeOf k) then x.row k l else 0)
      ∧ (tileToStore x k).scale.get 0 l = if l ≤ shapeRows (x.shapeOf k) then x.scaleRow k l else 0 :=
  ⟨Map.get_foldl_rows 0 (x.inUse k) hl, Map.get_foldl_rows 0 (fun r => if r ≤ shapeRows (x.shapeOf k) then x.scaleRow k r else 0) hl⟩

/-- The tile that the accumulator form hands over, and the view that is left. -/
def accToStore (k g : BitVec 3) (v : View) : View × MTile :=
  let x := v.t.x
  let d := x.descOf k.toNat
  let rows := reconCols (x.accRows k.toNat) (descCtag d)
  let v1 := v.pay 28 (tagLevel (descCtag d))
  let shape := mkShape g.toNat 15 (descRtag d) 0xFFFF
  if g = 3 then
    (v1, { rows := (enumFrom 0 rows).foldl (fun a e => a.set 0 e.1 e.2) [], shape := shape, errf := descErr d, f32 := true })
  else
    let qs := (enumFrom 0 rows).map fun e => accQRow g.toNat e.2 ((descErr d).getLsbD e.1)
    (v1.flag (qs.foldl (fun a q => a ||| q.2.2) 0),
      { rows := (enumFrom 0 qs).foldl (fun a e => a.set 0 e.1 e.2.1) []
        scale := (enumFrom 0 qs).foldl (fun a e => a.set 0 e.1 e.2.2.1) []
        shape := shape, errf := descErr d, one := true })

theorem exec_tstAcc (k g : BitVec 3) (n : BitVec 2) (s : State) :
    exec (.tstAcc k g n) s = s.storeTile n.toNat [.a k.toNat] (accToStore k g) := rfl

theorem accToStore_keeps (k g : BitVec 3) (v : View) : v.flagsOnly (accToStore k g v).1 := by
  have hpay := v.flagsOnly_pay 28 (tagLevel (descCtag (v.t.x.descOf k.toNat)))
  unfold accToStore
  dsimp only
  split
  · exact hpay
  · exact hpay

/-- The header, the error flags and the kind of the tile. -/
theorem accToStore_fields (k g : BitVec 3) (v : View) :
    (accToStore k g v).2.shape = mkShape g.toNat 15 (descRtag (v.t.x.descOf k.toNat)) 0xFFFF
      ∧ (accToStore k g v).2.errf = descErr (v.t.x.descOf k.toNat) ∧ (accToStore k g v).2.f32 = decide (g = 3) := by
  unfold accToStore
  dsimp only
  split
  · next hg => exact ⟨rfl, rfl, (decide_eq_true hg).symm⟩
  · next hg => exact ⟨rfl, rfl, (decide_eq_false hg).symm⟩

/-- An F32 tile holds the rows reconstructed along the columns. -/
theorem accToStore_rows (k : BitVec 3) (v : View) (l : Nat) : (accToStore k 3 v).2.rows.get 0 l =
    (reconCols (v.t.x.accRows k.toNat) (descCtag (v.t.x.descOf k.toNat))).getD l 0 := by
  refine (Map.get_foldl_enumFrom 0 id _ [] 0 l).trans ?_
  rw [if_pos (Nat.zero_le l), Option.map_id, id, Nat.sub_zero, List.getD_eq_getElem?_getD]
  rfl

/-! ## Owed writes (R168, R170, R187) -/

/-- What of a tile the granting of permits and the match of tiles with owed writes leaves: an owed write may get its data. -/
structure OwedStep (a b : Tile) : Prop where
  slots : b.slots = a.slots
  x : b.x = a.x
  permits : b.mu.permits = a.mu.permits
  owed : b.owed.map (fun z => { z with data := none }) = a.owed.map (fun z => { z with data := none })

theorem OwedStep.refl (a : Tile) : OwedStep a a := ⟨rfl, rfl, rfl, rfl⟩

theorem OwedStep.trans {a b c : Tile} (h : OwedStep a b) (k : OwedStep b c) : OwedStep a c :=
  ⟨k.slots.trans h.slots, k.x.trans h.x, k.permits.trans h.permits, k.owed.trans h.owed⟩

/-- Steps that become due as a tile leaves the output buffer. -/
theorem State.tileAt_tileLeft (s : State) (m k : Nat) : (s.tileLeft m).tileAt k = s.tileAt k := by
  unfold State.tileLeft
  split
  · rfl
  · split
    · dsimp only
      split <;> split <;> rfl
    · rfl

/-- The data `d` goes to the owed write at place `i` of a list. -/
def giveOwed (d : MTile) (i : Nat) (l : List Owed) : List Owed :=
  (enumFrom 0 l).map fun e => if e.1 = i then { e.2 with data := some d } else e.2

/-- The first tile `d` of the output buffer of M-tile `m` goes to an owed write of tile `t`, whose place `i` finds in its list. -/
def State.handOver (s : State) (m t : Nat) (i : List Owed → Nat) (d : MTile) (rest : List MTile) : State :=
  let s1 := s.modTile t fun x => { x with owed := giveOwed d (i x.owed) x.owed }
  let s2 := (s1.modMu m fun u => { u with outbuf := rest }).tileLeft m
  (s2.after 1 .owedWriteLanding { a := t }).after 1 .loadWalkTile { a := m }

/-- One turn of the match changes nothing, or hands a tile over and goes on. The definition is unfolded by hand: Lean's own equation
for it would evaluate the search through the 64 tiles of the cove. -/
theorem State.matchOwed_succ {P : State → Prop} {n m : Nat} {s : State} (hdone : P s)
    (hgive : ∀ t i d rest, P (State.matchOwed n (s.handOver m t i d rest) m)) : P (State.matchOwed (n + 1) s m) := by
  obtain ⟨b, hb, hturn⟩ : ∃ b : Nat.below (motive := fun _ => State → State) (n + 1), (∀ u, b.1 u = State.matchOwed n u m)
      ∧ State.matchOwed (n + 1) s m = State.matchOwed._f m (n + 1) b s :=
    ⟨(Nat.brecOn.go (n + 1) (State.matchOwed._f m)).2, fun _ => by delta State.matchOwed; rfl, by delta State.matchOwed; rfl⟩
  rw [hturn]
  delta State.matchOwed._f
  dsimp only
  cases (s.tileAt m).mu.outbuf with
  | nil => exact hdone
  | cons d rest =>
    dsimp only
    generalize (Option.map _ _ : Option Nat) = o
    cases o with
    | none => exact hdone
    | some t =>
      dsimp only
      exact (congrArg P (hb _)).mpr (hgive t (fun l => l.findIdx _) d rest)

/-- Data aside, the owed writes are those that were. -/
theorem map_giveOwed (d : MTile) (i : Nat) (l : List Owed) :
    (giveOwed d i l).map (fun z => { z with data := none }) = l.map fun z => { z with data := none } := by
  have key : ∀ n, ((enumFrom n l).map fun e => if e.1 = i then { e.2 with data := some d } else e.2).map
      (fun z => { z with data := none }) = l.map fun z => { z with data := none } := by
    induction l with
    | nil => exact fun _ => rfl
    | cons o r ih =>
      intro n
      rw [enumFrom, List.map_cons, List.map_cons, List.map_cons, ih]
      congr 1
      split <;> rfl
  exact key 0

theorem State.handOver_step (s : State) (m t : Nat) (i : List Owed → Nat) (d : MTile) (rest : List MTile) (k : Nat) :
    OwedStep (s.tileAt k) ((s.handOver m t i d rest).tileAt k) := by
  unfold State.handOver
  rw [State.tileAt_after, State.tileAt_after, State.tileAt_tileLeft, State.tileAt_modMu, State.tileAt_modTile]
  have hpermits : ∀ u : MUnit, (if k = m then { u with outbuf := rest } else u).permits = u.permits := by
    intro u
    split <;> rfl
  split
  · next hk => subst hk; exact ⟨rfl, rfl, hpermits _, map_giveOwed _ _ _⟩
  · exact ⟨rfl, rfl, hpermits _, rfl⟩

/-- Tiles that wait in the output buffer are given to owed writes. -/
theorem State.matchOwed_step (fuel : Nat) (s : State) (m k : Nat) : OwedStep (s.tileAt k) ((State.matchOwed fuel s m).tileAt k) := by
  induction fuel generalizing s with
  | zero => exact .refl _
  | succ n ih =>
    exact State.matchOwed_succ (P := fun u => OwedStep (s.tileAt k) (u.tileAt k)) (.refl _) fun t i d rest =>
      (s.handOver_step m t i d rest k).trans (ih _)

theorem State.tileAt_countDrop (s : State) (v n k : Nat) : (s.countDrop v n).tileAt k = s.tileAt k := rfl

/-- A permit granted to a channel (R295). -/
theorem State.tileAt_addPermits (s : State) (m cx n k : Nat) : (s.addPermits m cx n).tileAt k =
    { s.tileAt k with
      mu := if k = m then { (s.tileAt k).mu with permits := Nat.min 64 ((s.tileAt m).mu.permits + n) } else (s.tileAt k).mu } := by
  unfold State.addPermits
  dsimp only
  rw [State.tileAt_after]
  split
  · rw [State.tileAt_countDrop]
    exact s.tileAt_modMu m k _
  · exact s.tileAt_modMu m k _

/-- The firing goes on behind the instruction, and the write `o` is owed to its tile. -/
def State.owing (s : State) (f : Firing) (o : Owed) : State :=
  (s.setFiring s.tile s.slot (f.advance 2)).modTile s.tile fun x => { x with owed := x.owed ++ [o] }

theorem State.tileAt_owing (s : State) (f : Firing) (o : Owed) : (s.owing f o).tileAt s.tile = { s.tileAt s.tile with
    slots := (s.tileAt s.tile).slots.put s.slot (f.advance 2), owed := (s.tileAt s.tile).owed ++ [o] } := by
  unfold State.owing State.setFiring
  rw [State.tileAt_modTile_same, State.tileAt_modTile_same]

theorem State.owing_mu (s : State) (f : Firing) (o : Owed) (k : Nat) : ((s.owing f o).tileAt k).mu = (s.tileAt k).mu := by
  unfold State.owing State.setFiring
  rw [State.tileAt_modTile, State.tileAt_modTile_same]
  split
  · next hk => rw [hk]
  · next hk => rw [State.tileAt_modTile, if_neg hk]

/-- What holds of a state whose tile is as `State.owing` leaves it, data of owed writes aside. -/
theorem State.owing_spec {s c u : State} {f : Firing} {o : Owed} (hc : ChargeStep s c s.tile)
    (hslots : (u.tileAt s.tile).slots = ((c.owing f o).tileAt s.tile).slots) (hx : (u.tileAt s.tile).x = ((c.owing f o).tileAt s.tile).x)
    (howed : (u.tileAt s.tile).owed.map (fun z => { z with data := none })
      = ((c.owing f o).tileAt s.tile).owed.map fun z => { z with data := none }) :
    u.firing s.tile s.slot = some (f.advance 2)
      ∧ (u.tileAt s.tile).owed.map (fun z => { z with data := none })
        = ((s.tileAt s.tile).owed ++ [o]).map (fun z => { z with data := none })
      ∧ (u.tileAt s.tile).x = (s.tileAt s.tile).x := by
  obtain ⟨m, hm⟩ := hc.own
  have htile := c.tileAt_owing f o
  rw [hc.tile, hm, hc.slot] at htile
  rw [htile] at hslots hx howed
  refine ⟨?_, howed, hx⟩
  rw [State.firing, hslots, Map.look_put_same]

/-- A load that is owed grants its channel a permit (R170, R295). -/
theorem State.oweWalk_ok {s : State} {f : Firing} (h : s.runs f) (reg : OwedReg) (b : Nat) :
    let chan := bindChan (s.berth s.tile f.berth) b
    let m := chanTile (coveOfTile s.tile) chan
    let o : Owed := { reg := reg, cove := coveOfTile s.tile, chan := chan, cx := f.cx.toNat, since := s.now }
    ∃ u, s.oweWalk reg b = .next u ∧ (u.firing s.tile s.slot = some (f.advance 2)
      ∧ (u.tileAt s.tile).owed.map (fun z => { z with data := none })
        = ((s.tileAt s.tile).owed ++ [o]).map (fun z => { z with data := none })
      ∧ (u.tileAt s.tile).x = (s.tileAt s.tile).x)
      ∧ (u.tileAt m).mu.permits = Nat.min 64 ((s.tileAt m).mu.permits + 1) := by
  intro chan m o
  have hc := State.charge_step s s.tile f.cx.toNat 30 1
  have hstep := State.matchOwed_step 3 (((s.charge s.tile f.cx.toNat 30 1).owing f o).addPermits m f.cx.toNat 1) m
  simp only [State.tileAt_addPermits] at hstep
  refine ⟨_, State.runFiring_ok (t := State.matchOwed 3 (((s.charge s.tile f.cx.toNat 30 1).owing f o).addPermits m f.cx.toNat 1) m) h ?_,
    State.owing_spec hc (hstep s.tile).slots (hstep s.tile).x (hstep s.tile).owed, ?_⟩
  · dsimp only
    rw [hc.berth, hc.tile, hc.now]
    unfold State.owing
    rw [hc.tile]
  · rw [(hstep m).permits, if_pos rfl, State.owing_mu, hc.mu]

/-- A feature batch that is owed (R187). -/
theorem exec_tfeat {s : State} {f : Firing} (h : s.runs f) (a : BitVec 4) (c : BitVec 1) :
    let o : Owed := { reg := .feat a.toNat (bindGrid (s.berth s.tile f.berth) s.tile c.toNat), cove := coveOfTile s.tile, cx := f.cx.toNat }
    ∃ u, exec (.tfeat a c) s = .next u ∧ u.firing s.tile s.slot = some (f.advance 2)
      ∧ (u.tileAt s.tile).owed.map (fun z => { z with data := none })
        = ((s.tileAt s.tile).owed ++ [o]).map (fun z => { z with data := none })
      ∧ (u.tileAt s.tile).x = (s.tileAt s.tile).x := by
  intro o
  have hc := State.charge_step s s.tile f.cx.toNat 46 1
  refine ⟨((s.charge s.tile f.cx.toNat 46 1).owing f o).after 1 .owedWriteLanding { a := s.tile }, ?_, State.owing_spec hc rfl rfl rfl⟩
  change execTfeat a c s = _
  refine State.runFiring_ok h ?_
  rw [hc.berth, hc.tile]
  unfold State.owing
  rw [hc.tile]

theorem exec_tld (a : BitVec 4) (n : BitVec 2) (s : State) : exec (.tld a n) s = s.oweWalk (.tile a.toNat) n.toNat := rfl

theorem exec_ain (k : BitVec 3) (n : BitVec 2) (s : State) : exec (.ain k n) s = s.oweWalk (.acc k.toNat) n.toNat := rfl

/-- Settles O45: an instruction waits where `State.runX` or `State.storeTile` finds a write owed; the three that are owed go through
`State.owing`, and a store through `State.storeTile_sends`. -/
theorem owedWrites : Obligations.OwedWrites := by
  intro s f a b i j k g h n c e hr he t r waits owes chan m walker permit stores
  have matrix {q : Instr} {cls : Nat} {rs rd : List XReg} {w : View → Except Trap View} (hq : exec q s = s.runX cls rs rd w) :
      waits q rs := fun ho => hq.trans (State.runX_owed hr (Tile.owes_any ho))
  have store {q : Instr} {rs : List XReg} {w : View → View × MTile} (hq : exec q s = s.storeTile n.toNat rs w) : waits q rs :=
    fun ho => hq.trans (State.storeTile_owed hr (Tile.owes_any ho))
  have hfree {z : XReg} (hz : t.owes z = false) : ([z].any fun r => t.owes r) = false := by rw [List.any_cons, hz]; rfl
  refine ⟨⟨matrix (rd := []) rfl, matrix (rd := []) rfl, matrix (rd := []) rfl, fun hn => ?_, matrix rfl, store (exec_tstTile a n s),
    store (exec_tstAcc k g n s), matrix rfl, matrix rfl, matrix rfl, matrix rfl, matrix rfl, fun q hq => ?_, matrix (rd := []) rfl,
    matrix (rd := []) rfl, matrix rfl, matrix rfl, matrix rfl, matrix rfl⟩, ?_, ?_, ?_, ?_, exec_tfeat hr a c, ?_, fun hg => ?_⟩
  · intro ho
    change s.runX 29 (if n = 0 then _ else _) [] _ = _
    rw [if_neg hn]
    exact State.runX_owed hr (Tile.owes_any ho)
  · simp only [List.mem_cons, List.not_mem_nil, or_false] at hq
    rcases hq with rfl | rfl | rfl | rfl <;> exact matrix rfl
  · obtain ⟨u, hu, howed, -⟩ := State.oweWalk_ok hr (.tile a.toNat) n.toNat
    exact ⟨u, (exec_tld a n s).trans hu, howed⟩
  · obtain ⟨u, hu, howed, -⟩ := State.oweWalk_ok hr (.acc k.toNat) n.toNat
    exact ⟨u, (exec_ain k n s).trans hu, howed⟩
  · obtain ⟨u, hu, -, hpermit⟩ := State.oweWalk_ok hr (.tile a.toNat) n.toNat
    exact ⟨u, (exec_tld a n s).trans hu, hpermit⟩
  · obtain ⟨u, hu, -, hpermit⟩ := State.oweWalk_ok hr (.acc k.toNat) n.toNat
    exact ⟨u, (exec_ain k n s).trans hu, hpermit⟩
  · refine ⟨fun hz hfull => (exec_tstTile a n s).trans (State.storeTile_full hr (hfree hz) hfull), fun hz hroom => ?_⟩
    obtain ⟨u, hu, hfir, hbuf, hx⟩ := State.storeTile_sends (g := fun v => (v, tileToStore v.t.x a.toNat)) hr (hfree hz) he hroom
      ⟨rfl, rfl, rfl⟩
    rw [State.seen_x] at hbuf
    exact ⟨u, _, (exec_tstTile a n s).trans hu, hfir, ⟨fun l hl => tileToStore_rows t.x a.toNat hl, rfl, rfl, rfl⟩, hbuf, hx⟩
  · refine ⟨fun hz hfull => (exec_tstAcc k g n s).trans (State.storeTile_full hr (hfree hz) hfull), fun hz hroom => ?_⟩
    obtain ⟨u, hu, hfir, hbuf, hx⟩ := State.storeTile_sends (g := accToStore k g) hr (hfree hz) he hroom (accToStore_keeps k g _)
    obtain ⟨hshape, herr, hf32⟩ := accToStore_fields k g (s.seen f 31)
    obtain ⟨hfmt, htag, hrows⟩ := mkShape_fields (show g.toNat < 8 from g.isLt) (descRtag (t.x.descOf k.toNat)) 0xFFFF
    rw [State.seen_x] at hshape herr
    refine ⟨u, _, (exec_tstAcc k g n s).trans hu, hfir, ⟨?_, ?_, ?_, herr, hf32, fun h3 l hl => ?_⟩, hbuf, hx⟩
    · rw [hshape, hfmt]
    · rw [hshape, htag]
    · rw [hshape, hrows]
    · subst h3
      rw [accToStore_rows, State.seen_x]

end Sys2Proof.Machine
end

section
/-! PROOF. Scalar integer instructions (R125 to R130, R133): what their results stand for. -/

namespace Sys2Proof.Machine

/-! ## Integers that the results of scalar instructions stand for (R125 to R129, R133) -/

/-- The high half of a 64-bit word that stands for an integer. -/
theorem extractHigh_ofInt (z : Int) : (BitVec.ofInt 64 z).extractLsb' 32 32 = BitVec.ofInt 32 (z / 2 ^ 32) := by
  apply BitVec.eq_of_toNat_eq
  rw [BitVec.extractLsb'_toNat, Nat.shiftRight_eq_div_pow, BitVec.toNat_ofInt, BitVec.toNat_ofInt]
  omega

theorem mulHigh_eq (x y : W32) : mulHigh x y = BitVec.ofInt 32 (x.toInt * y.toInt / 2 ^ 32) := by
  rw [← extractHigh_ofInt, BitVec.ofInt_mul]
  rfl

theorem mulHighU_eq (x y : W32) : mulHighU x y = BitVec.ofNat 32 (x.toNat * y.toNat / 2 ^ 32) := by
  rw [← BitVec.ofInt_natCast 32, Int.natCast_ediv]
  refine Eq.trans ?_ (extractHigh_ofInt _)
  rw [Nat.cast_mul, BitVec.ofInt_mul, BitVec.ofInt_natCast, BitVec.ofInt_natCast, BitVec.ofNat_toNat, BitVec.ofNat_toNat]
  rfl

theorem sshiftRight_eq_ofInt (x : W32) (n : Nat) : x.sshiftRight n = BitVec.ofInt 32 (x.toInt / 2 ^ n) := by
  rw [BitVec.sshiftRight_eq, Int.shiftRight_eq_div_pow]
  norm_cast

theorem add_signExtend (x : W32) {n : Nat} (y : BitVec n) : x + y.signExtend 32 = BitVec.ofInt 32 (x.toInt + y.toInt) := by
  rw [BitVec.ofInt_add, BitVec.ofInt_toInt]
  rfl

theorem shiftA_eq (x y : W32) : shiftA x y = BitVec.ofInt 32 (x.toInt / 2 ^ (y.toNat % 32)) :=
  sshiftRight_eq_ofInt x _

theorem minS_eq (x y : W32) : minS x y = if y.toInt < x.toInt then y else x := by
  simp only [minS, ← not_le, ite_not]

theorem maxS_eq (x y : W32) : maxS x y = if x.toInt < y.toInt then y else x := by
  simp only [maxS, ← not_le, ite_not]

/-- A field of a word, widened. -/
theorem setWidth_extract (y : W32) (a n : Nat) : (y.extractLsb' a n).setWidth 32 = BitVec.ofNat 32 (y.toNat / 2 ^ a % 2 ^ n) := by
  rw [← BitVec.ofNat_toNat, BitVec.extractLsb'_toNat, Nat.shiftRight_eq_div_pow]

theorem agenOf_eq (x y : W32) : agenOf x y = x + BitVec.ofInt 32 ((y.toNat / 2 ^ 16 : Nat) * (y.setWidth 16).toInt) := by
  have hhigh : y.toNat / 2 ^ 16 % 2 ^ 16 = y.toNat / 2 ^ 16 := by omega
  have hlow : y.setWidth 16 = y.extractLsb' 0 16 := BitVec.eq_of_toNat_eq (by simp)
  rw [agenOf, setWidth_extract, hhigh, BitVec.ofInt_mul, BitVec.ofInt_natCast, hlow, BitVec.mul_comm]
  rfl

theorem agen2Of_eq (z x y : W32) : agen2Of z x y =
    BitVec.ofNat 32 (x.toNat + y.toNat / 2 ^ 16 * (z.toNat % 2 ^ 24) + y.toNat % 2 ^ 16 * 2 ^ (z.toNat / 2 ^ 24 % 8)) := by
  have hrows : y.toNat / 2 ^ 16 % 2 ^ 16 = y.toNat / 2 ^ 16 := by omega
  have hscale : (z.extractLsb' 24 3).toNat = z.toNat / 2 ^ 24 % 8 := by
    rw [BitVec.extractLsb'_toNat, Nat.shiftRight_eq_div_pow]
  have hcols : (BitVec.ofNat 32 (y.toNat / 2 ^ 0 % 2 ^ 16)).toNat = y.toNat % 2 ^ 16 := by rw [BitVec.toNat_ofNat]; omega
  rw [agen2Of, setWidth_extract, setWidth_extract, setWidth_extract, hrows, hscale, shiftLeft_eq_ofNat, hcols, BitVec.ofNat_add,
    BitVec.ofNat_add, BitVec.ofNat_mul, BitVec.ofNat_mul, BitVec.ofNat_toNat, BitVec.setWidth_eq, Nat.pow_zero, Nat.div_one]

/-! ## Quotients and remainders (R127) -/

theorem toInt_ne_zero {y : W32} (h : y ≠ 0) : y.toInt ≠ 0 := fun h0 => h (BitVec.toInt_inj.mp h0)

/-- The signed quotient and remainder are those of `BitVec` where the quotient can be represented. -/
theorem divS_eq_sdiv {x y : W32} (hy : y ≠ 0) (ho : ¬(x = 0x80000000 ∧ y = 0xFFFFFFFF)) : divS x y = x.sdiv y := by
  rw [divS, if_neg hy, if_neg ho, ← BitVec.toInt_sdiv_of_ne_or_ne x y (not_and_or.mp ho), BitVec.ofInt_toInt]

theorem remS_eq_srem {x y : W32} (hy : y ≠ 0) (ho : ¬(x = 0x80000000 ∧ y = 0xFFFFFFFF)) : remS x y = x.srem y := by
  rw [remS, if_neg hy, if_neg ho, ← BitVec.toInt_srem, BitVec.ofInt_toInt]

/-- The signed quotient is rounded toward zero, and the remainder has the sign of the dividend. -/
theorem divS_remS {x y : W32} (hy : y ≠ 0) (ho : ¬(x = 0x80000000 ∧ y = 0xFFFFFFFF)) :
    x.toInt = (divS x y).toInt * y.toInt + (remS x y).toInt ∧ (remS x y).toInt.natAbs < y.toInt.natAbs
      ∧ (remS x y = 0 ∨ ((remS x y).toInt < 0 ↔ x.toInt < 0)) := by
  have hq : (divS x y).toInt = x.toInt.tdiv y.toInt := by
    rw [divS_eq_sdiv hy ho, BitVec.toInt_sdiv_of_ne_or_ne x y (not_and_or.mp ho)]
  have hr : (remS x y).toInt = x.toInt.tmod y.toInt := by rw [remS_eq_srem hy ho, BitVec.toInt_srem]
  refine ⟨?_, ?_, ?_⟩
  · rw [hq, hr, Int.tdiv_mul_add_tmod]
  · rw [hr, Int.natAbs_tmod]
    exact Nat.mod_lt _ (Int.natAbs_pos.mpr (toInt_ne_zero hy))
  · rw [← BitVec.toInt_inj, hr, ← Int.sign_eq_neg_one_iff_neg, ← Int.sign_eq_neg_one_iff_neg, Int.sign_tmod]
    by_cases hd : y.toInt ∣ x.toInt
    · exact .inl (Int.tmod_eq_zero_of_dvd hd)
    · exact .inr (by rw [if_neg hd])

theorem divU_remU {x y : W32} (hy : y ≠ 0) : x.toNat = (divU x y).toNat * y.toNat + (remU x y).toNat ∧ (remU x y).toNat < y.toNat := by
  have hpos : 0 < y.toNat := Nat.pos_of_ne_zero fun h => hy (BitVec.eq_of_toNat_eq h)
  have hq : (divU x y).toNat = x.toNat / y.toNat := by
    rw [divU, if_neg hy, BitVec.toNat_ofNat, Nat.mod_eq_of_lt ((Nat.div_le_self ..).trans_lt x.isLt)]
  have hr : (remU x y).toNat = x.toNat % y.toNat := by
    rw [remU, if_neg hy, BitVec.toNat_ofNat, Nat.mod_eq_of_lt ((Nat.mod_le ..).trans_lt x.isLt)]
  rw [hq, hr]
  exact ⟨(Nat.div_add_mod' ..).symm, Nat.mod_lt _ hpos⟩

/-! ## Bit fields (R129) -/

/-- The mask of a field. -/
theorem getLsbD_fieldMask (pos wide : Nat) {k : Nat} (hk : k < 32) :
    (BitVec.ofNat 32 ((2 ^ wide - 1) * 2 ^ pos)).getLsbD k = decide (pos ≤ k ∧ k < pos + wide) := by
  have h : (pos ≤ k ∧ k - pos < wide) ↔ (pos ≤ k ∧ k < pos + wide) := by omega
  rw [BitVec.getLsbD_ofNat, Nat.testBit_mul_two_pow, Nat.testBit_two_pow_sub_one, decide_eq_true hk, Bool.true_and, ← Bool.decide_and]
  exact decide_eq_decide.mpr h

/-- A field that is inserted: its bits come from the low bits of the source, the others from the destination. -/
theorem getLsbD_bitInsert (z x y : W32) {k : Nat} (hk : k < 32) : (bitInsert z x y).getLsbD k =
    if (fieldOf y).1 ≤ k ∧ k < (fieldOf y).1 + (fieldOf y).2 then x.getLsbD (k - (fieldOf y).1) else z.getLsbD k := by
  rw [bitInsert]
  generalize fieldOf y = p
  obtain ⟨pos, wide⟩ := p
  dsimp only
  rw [BitVec.getLsbD_or, BitVec.getLsbD_and, BitVec.getLsbD_and, BitVec.getLsbD_not, getLsbD_fieldMask pos wide hk,
    BitVec.getLsbD_shiftLeft, decide_eq_true hk]
  by_cases hin : pos ≤ k ∧ k < pos + wide
  · rw [if_pos hin, decide_eq_true hin, decide_eq_false (Nat.not_lt.mpr hin.1)]
    simp
  · rw [if_neg hin, decide_eq_false hin]
    simp

/-! ## Counts of bits (R128) -/

/-- The count of leading zeros: the first one bit stands below them. -/
theorem clzW_spec (x : W32) : (clzW x).toNat ≤ 32 ∧ (x = 0 → (clzW x).toNat = 32)
    ∧ (x ≠ 0 → (clzW x).toNat < 32 ∧ x.getLsbD (31 - (clzW x).toNat) = true)
    ∧ ∀ k, k < (clzW x).toNat → x.getLsbD (31 - k) = false := by
  by_cases hx : x = 0
  · subst hx
    exact ⟨le_refl 32, fun _ => rfl, fun h => absurd rfl h, fun k _ => BitVec.getLsbD_zero⟩
  · have hne : x.toNat ≠ 0 := fun h => hx (BitVec.eq_of_toNat_eq h)
    have hlog : x.toNat.log2 < 32 := (Nat.log2_lt hne).mpr x.isLt
    have hclz : (clzW x).toNat = 31 - x.toNat.log2 := by
      rw [clzW, if_neg hx, BitVec.toNat_ofNat, Nat.mod_eq_of_lt (by omega)]
    rw [hclz]
    refine ⟨by omega, fun h => absurd h hx, fun _ => ⟨by omega, ?_⟩, fun k hk => ?_⟩
    · rw [show 31 - (31 - x.toNat.log2) = x.toNat.log2 by omega]
      exact Nat.testBit_log2 hne
    · exact Nat.testBit_lt_two_pow ((Nat.log2_lt hne).mp (by omega))

/-- Bits that are shifted in one after the other stand in reverse order. -/
theorem getLsbD_brevW (x : W32) {k : Nat} (hk : k < 32) : (brevW x).getLsbD k = x.getLsbD (31 - k) := by
  have hd := digit_foldr 2 (fun i => if x.getLsbD i then 1 else 0) (List.range 32).reverse (fun i _ => by split <;> decide) k
    (by simpa using hk)
  rw [List.getElem_reverse, List.getElem_range, List.length_range] at hd
  rw [brevW, BitVec.getLsbD_ofNat, decide_eq_true hk, Bool.true_and, Nat.testBit_eq_decide_div_mod_eq, List.foldl_eq_foldr_reverse]
  simp only [Nat.add_comm (2 * _)]
  rw [hd]
  cases x.getLsbD (31 - k) <;> simp

/-! ## Operands that the loader admits (R65, R115) -/

theorem operandsOk_of_check {c : WfCtx} {i : Instr} (h : i.check c = none) : i.operandsOk c = true := by
  unfold Instr.check at h
  split at h
  · cases h
  · split at h
    · cases h
    · split at h
      · cases h
      · next ho => simpa using ho

/-- A destination that is read as well is a scalar source. -/
theorem src_of_dstRead {c : WfCtx} {o : Opnd} (h : c.dstRead o = true) : c.src o = true := by
  cases o <;> simp_all [WfCtx.dstRead, WfCtx.src]

/-! ## Instructions with scalar sources and one scalar destination -/

section
variable {s : State} {f : Firing} (hr : s.runs f) {d a b : Opnd} (ht : (s.view f).takes d = true) {x y z : W32}
  (hx : (s.view f).src a = .ok x)
include hr ht hx

theorem State.exec_scalar1 {i : Instr} {cls n : Nat} {g : W32 → W32} (hi : exec i s = s.runView cls n fun v => v.scalar1 d a g) :
    exec i s = .next (s.ran f cls n ((s.seen f cls).wrote d (g x))) := by
  refine State.exec_put hr ht hi ?_
  rw [View.scalar1, State.seen_src, hx]
  rfl

theorem State.exec_scalar2 {i : Instr} {cls n : Nat} {g : W32 → W32 → W32} (hy : (s.view f).src b = .ok y)
    (hi : exec i s = s.runView cls n fun v => v.scalar2 d a b g) :
    exec i s = .next (s.ran f cls n ((s.seen f cls).wrote d (g x y))) := by
  refine State.exec_put hr ht hi ?_
  rw [View.scalar2, State.seen_src, State.seen_src, hx, hy]
  rfl

theorem State.exec_scalar3 {i : Instr} {cls n : Nat} {g : W32 → W32 → W32 → W32} (hy : (s.view f).src b = .ok y)
    (hz : (s.view f).src d = .ok z) (hi : exec i s = s.runView cls n fun v => v.scalar3 d a b g) :
    exec i s = .next (s.ran f cls n ((s.seen f cls).wrote d (g z x y))) := by
  refine State.exec_put hr ht hi ?_
  rw [View.scalar3, State.seen_src, State.seen_src, State.seen_src, hx, hy, hz]
  rfl

end

/-- Settles O5: every instruction is a form of two or three scalar sources, and the lemmas above say what integers its result
stands for. -/
theorem scalarResults : Obligations.ScalarResults := by
  refine ⟨fun s f d a b x y hr hx hy ht => ?_, fun s f d a b x y hr hx hy ht => ?_, fun s f d a b x y z hr hx hy hz ht => ?_⟩
  · intro done pos wide
    have two {i : Instr} {cls : Nat} {g : W32 → W32 → W32} {r : W32} (hi : exec i s = s.runView cls 2 fun v => v.scalar2 d a b g)
        (hg : g x y = r) : exec i s = done cls r := hg ▸ State.exec_scalar2 hr ht hx hy hi
    exact ⟨two rfl rfl, two rfl rfl, two rfl rfl, two rfl (mulHigh_eq x y), two rfl (mulHighU_eq x y), two rfl rfl, two rfl rfl,
      two rfl rfl, two rfl (shiftLeft_eq_ofNat x _), two rfl (shiftRight_eq_ofNat x _), two rfl (shiftA_eq x y), two rfl (minS_eq x y),
      two rfl (maxS_eq x y), two rfl (agenOf_eq x y), two rfl rfl, two rfl rfl⟩
  · intro done
    have two {i : Instr} {g : W32 → W32 → W32} (hi : exec i s = s.runView 4 2 fun v => v.scalar2 d a b g) :
        exec i s = done (g x y) := State.exec_scalar2 hr ht hx hy hi
    refine ⟨divS x y, remS x y, divU x y, remU x y, two rfl, two rfl, two rfl, two rfl, ?_, ?_, divS_remS, divU_remU⟩
    · rintro rfl
      exact ⟨rfl, rfl, rfl, rfl⟩
    · rintro rfl rfl
      exact ⟨rfl, rfl⟩
  · intro pos wide
    exact ⟨⟨bitInsert z x y, State.exec_scalar3 hr ht hx hy hz rfl, fun k hk => getLsbD_bitInsert z x y hk⟩,
      agen2Of_eq z x y ▸ State.exec_scalar3 hr ht hx hy hz rfl⟩

/-- Settles O6: the forms of one source, SEL as the form of three, and what the counts of bits are. -/
theorem immediatesCountsAndSelect : Obligations.ImmediatesCountsAndSelect := by
  refine ⟨⟨fun s f d a x i j hr hx ht => ?_, fun d a i j => ?_⟩, ⟨fun s f d a x hr hx ht => ?_, fun d a => ?_⟩,
    fun s f d a b x y z hr hx hy hz ht => ?_, fun d a b => ⟨rfl, rfl⟩, fun c d a b h => ?_⟩
  · intro done
    have one {k : Instr} {g : W32 → W32} {r : W32} (hi : exec k s = s.runView 1 2 fun v => v.scalar1 d a g) (hg : g x = r) :
        exec k s = done r := hg ▸ State.exec_scalar1 hr ht hx hi
    exact ⟨one rfl (add_signExtend x i), one rfl (shiftLeft_eq_ofNat x _), one rfl (shiftRight_eq_ofNat x _),
      one rfl (sshiftRight_eq_ofInt x _)⟩
  · exact ⟨rfl, rfl, rfl, rfl, rfl, rfl, rfl, rfl⟩
  · intro done
    have one {k : Instr} {g : W32 → W32} (hi : exec k s = s.runView 1 2 fun v => v.scalar1 d a g) : exec k s = done (g x) :=
      State.exec_scalar1 hr ht hx hi
    exact ⟨⟨clzW x, one rfl, clzW_spec x⟩, one (g := popW) rfl, ⟨brevW x, one rfl, fun k hk => getLsbD_brevW x hk⟩⟩
  · exact ⟨rfl, rfl, rfl, rfl, rfl, rfl⟩
  · rw [← ite_not (z = 0) x y]
    exact State.exec_scalar3 (g := fun z x y => if z ≠ 0 then x else y) hr ht hx hy hz rfl
  · have hok : (c.dstRead d && c.src a && c.src b) = true := operandsOk_of_check h
    rw [Bool.and_eq_true, Bool.and_eq_true] at hok
    exact src_of_dstRead hok.1.1

end Sys2Proof.Machine
end

section
/-! PROOF. The masked write (R117). -/

namespace Sys2Proof.Machine

/-! ## What a masked write does (R117) -/

/-- A view with other charges. -/
def View.withExtra (v : View) (e : List (Nat × Nat)) : View := { v with extra := e }

section
variable {v : View} {o : Opnd} {m : BitVec 16} {x : VReg} {paid : List Opnd}

theorem View.vput_empty : v.vput o 0 x paid = .ok v := rfl

/-- Where no tag changes, or every lane is enabled, the disabled lanes keep their bits. -/
theorem View.vput_merge (hm : m ≠ 0) (h : m = 0xFFFF ∨ (v.old o).tag = x.tag) :
    v.vput o m x paid = .ok (v.setVec o { bits := mergeLanes m (v.old o).bits x.bits, tag := x.tag }) := by
  have hc : ¬(m ≠ 0xFFFF ∧ (v.old o).tag ≠ x.tag) := fun hn => h.elim hn.1 hn.2
  exact (if_neg hm).trans (if_neg hc)

/-- Where the tags differ both sides become spatial, the old one first. -/
theorem View.vput_mixed (hm : m ≠ 0) (hall : m ≠ 0xFFFF) (ht : (v.old o).tag ≠ x.tag) : ∃ e, v.vput o m x paid =
    (v.old o).spatial.bind fun p => x.spatial.bind fun r => .ok ((v.withExtra e).setVec o { bits := mergeLanes m p r, tag := 0 }) := by
  have hcharged : ∃ e, (let v1 := if paid.contains o then v else v.bill [o]
      if x.tag = 0 then v1 else { v1 with extra := v1.extra ++ [(28, tagLevel x.tag)] }) = v.withExtra e := by
    split <;> split <;> exact ⟨_, rfl⟩
  obtain ⟨e, he⟩ := hcharged
  refine ⟨e, (if_neg hm).trans ((if_pos ⟨hall, ht⟩).trans ?_)⟩
  rw [← he]
  change (match (v.old o).spatial, x.spatial with
    | .error e, _ => .error e
    | .ok _, .error e => .error e
    | .ok _, .ok _ => .ok _ : Except Trap View) = _
  cases (v.old o).spatial <;> cases x.spatial <;> rfl

/-- All that a masked write can leave: the view, or a vector register or staging payload replaced and charges added. -/
theorem View.vput_cases {w : View} (h : v.vput o m x paid = .ok w) : w = v ∨ ∃ e y, w = (v.withExtra e).setVec o y := by
  by_cases hm : m = 0
  · subst hm
    exact .inl (Except.ok.inj h).symm
  · by_cases hc : m = 0xFFFF ∨ (v.old o).tag = x.tag
    · rw [View.vput_merge hm hc] at h
      exact .inr ⟨v.extra, _, (Except.ok.inj h).symm⟩
    · obtain ⟨hall, ht⟩ := not_or.mp hc
      obtain ⟨e, he⟩ := View.vput_mixed (paid := paid) hm hall ht
      rw [he] at h
      cases hp : (v.old o).spatial with
      | error e => rw [hp] at h; cases h
      | ok p =>
        cases hx : x.spatial with
        | error e => rw [hp, hx] at h; cases h
        | ok r => rw [hp, hx] at h; exact .inr ⟨e, _, (Except.ok.inj h).symm⟩

theorem VReg.spatial_error (h : 4 < tagLevel x.tag) : x.spatial = .error (trapDomain x.tag) := by
  have h0 : x.tag ≠ 0 := fun h0 => by rw [h0] at h; exact absurd h (by decide)
  rw [VReg.spatial, if_neg h0, if_pos h]

theorem VReg.spatial_ok (h : tagLevel x.tag ≤ 4) : ∃ p, x.spatial = .ok p :=
  exists_of_isOk (x.spatial_isOk.trans (decide_eq_true h))

/-! ## Reading a vector register after a write -/

/-- A vector register or a staging payload. -/
def isVO (o : Opnd) : Prop := isV o = true ∨ isO o = true

theorem isVO_cases (ho : isVO o) : (∃ n, o = .v n) ∨ ∃ n, o = .o n := by
  cases o with
  | v n => exact .inl ⟨n, rfl⟩
  | o n => exact .inr ⟨n, rfl⟩
  | _ => simp [isVO, isV, isO] at ho

theorem View.vec_old (ho : isVO o) : v.vec o = .ok (v.old o) := by
  obtain ⟨n, rfl⟩ | ⟨n, rfl⟩ := isVO_cases ho <;> rfl

theorem View.old_setVec_same (ho : isVO o) (y : VReg) : (v.setVec o y).old o = y := by
  obtain ⟨n, rfl⟩ | ⟨n, rfl⟩ := isVO_cases ho <;> exact Map.get_set_same _ _ _ _

theorem View.old_setVec_other {k : Opnd} (hk : k ≠ o) (y : VReg) : (v.setVec o y).old k = v.old k := by
  cases o <;> cases k
  case v.v n l => exact Map.get_set_other _ _ _ fun h => hk (congrArg _ (BitVec.eq_of_toNat_eq h))
  case o.o n l => exact Map.get_set_other _ _ _ fun h => hk (congrArg _ (BitVec.eq_of_toNat_eq h))
  all_goals rfl

/-- A masked write leaves every other vector register and staging payload. -/
theorem View.old_vwrote_other {k : Opnd} (hk : k ≠ o) : (v.vwrote o m x paid).old k = v.old k := by
  unfold View.vwrote
  split
  · next w hw =>
    obtain rfl | ⟨e, y, rfl⟩ := View.vput_cases hw
    · rfl
    · exact View.old_setVec_other hk y
  · rfl

theorem View.vec_vwrote_of_vput {y : VReg} {e : List (Nat × Nat)} (ho : isVO o)
    (h : v.vput o m x paid = .ok ((v.withExtra e).setVec o y)) : (v.vwrote o m x paid).vec o = .ok y := by
  rw [View.vwrote, h, View.vec_old ho, View.old_setVec_same ho]

end

/-- Settles O14: the three branches of a masked write, and what is read after each. -/
theorem maskedWrite : Obligations.MaskedWrite := by
  intro v o m old x paid ho hold
  obtain rfl : v.old o = old := Except.ok.inj ((View.vec_old ho).symm.trans hold)
  refine ⟨?_, fun hm hc => ?_, fun hm hall ht p r hp hx => ?_, fun hm hall ht hl => ?_, fun k hk hkv => ?_⟩
  · rintro rfl
    exact View.vput_empty
  · exact ⟨_, View.vec_vwrote_of_vput ho (View.vput_merge hm hc), rfl, fun l hl => lane_mergeLanes _ _ _ _ hl⟩
  · obtain ⟨e, he⟩ := View.vput_mixed (paid := paid) hm hall ht
    rw [hp, hx] at he
    exact ⟨_, View.vec_vwrote_of_vput ho he, rfl, fun l hl => lane_mergeLanes _ _ _ _ hl⟩
  · obtain ⟨e, he⟩ := View.vput_mixed (paid := paid) hm hall ht
    rw [he]
    by_cases hold : 4 < tagLevel (v.old o).tag
    · rw [VReg.spatial_error hold, if_pos hold]
      rfl
    · obtain ⟨p, hp⟩ := VReg.spatial_ok (Nat.not_lt.mp hold)
      rw [hp, VReg.spatial_error (hl.resolve_left hold), if_neg hold]
      rfl
  · rw [View.vec_old hkv, View.vec_old hkv, View.old_vwrote_other hk]

end Sys2Proof.Machine
end

section
/-! PROOF. Moves of lanes and reductions (R131, R134 to R137). -/

namespace Sys2Proof.Machine

/-! ## Lanes under a mask -/

theorem getLsbD_allLanes {l : Nat} (hl : l < 16) : (0xFFFF : BitVec 16).getLsbD l = true := by
  have hb : ∀ k : Fin 16, (0xFFFF : BitVec 16).getLsbD k = true := by decide
  exact hb ⟨l, hl⟩

theorem lane_laneWords {m : BitVec 16} (g : Nat → W32) {l : Nat} (hl : l < 16) (hm : m.getLsbD l = true) :
    lane (laneWords m g) l = g l := by
  rw [laneWords, lane_ofLanes _ _ hl, if_pos hm]

theorem bind_of_ok {α β : Type} {r : Except Trap α} {x : α} (h : r = .ok x) (g : α → Except Trap β) : (r >>= g) = g x := by
  rw [h]
  rfl

@[simp] theorem State.seen_lanesOf (s : State) (f : Firing) (cls : Nat) (live : Bool) (o : Opnd) :
    (s.seen f cls).lanesOf live o = (s.view f).lanesOf live o := by
  simp only [View.lanesOf, State.seen_spatial, State.seen_vec]

theorem View.f_billIf (v : View) (live : Bool) (l : List Opnd) : (v.billIf live l).f = v.f := by
  cases live <;> rfl

theorem View.vtakes_all (v : View) (d : Opnd) (t : BitVec 6) : v.vtakes d 0xFFFF t = true := by
  simp [View.vtakes_eq, View.vput_isOk]

/-- Charges make no destination refuse a write. -/
theorem View.takes_bill (v : View) (l : List Opnd) (d : Opnd) : (v.bill l).takes d = v.takes d := by
  rw [View.takes_eq, View.takes_eq]
  cases d with
  | f n =>
    change (View.setSlot _ _ _).isOk = (View.setSlot _ _ _).isOk
    unfold View.setSlot
    dsimp only [View.frame, View.bill]
    split <;> rfl
  | o n =>
    change ((v.bill l).vput (.o n) 1 _ []).isOk = (v.vput (.o n) 1 _ []).isOk
    exact View.vput_isOk_congr (v := v.bill l) (u := v) rfl _ _ rfl _ _
  | _ => rfl

/-! ## Instructions that end in a masked write -/

section
variable {s : State} {f : Firing} {i : Instr} {cls n : Nat} {work : View → Except Trap View} (hr : s.runs f)
include hr

/-- A register instruction that ends in a masked write which the destination takes. -/
theorem State.exec_vput {u : View} {d : Opnd} {m : BitVec 16} {x : VReg} {paid : List Opnd} (ht : (s.view f).vtakes d m x.tag = true)
    (hu : u.f = f) (hi : exec i s = s.runView cls n work) (hw : work (s.seen f cls) = u.vput d m x paid) :
    exec i s = .next (s.ran f cls n (u.vwrote d m x paid)) :=
  State.exec_ok hr hi (hw.trans (View.vput_of_vtakes ht hu paid))

/-- Such an instruction whose sources `l` are charged where a lane is enabled. -/
theorem State.exec_vput_billed {d : Opnd} {m : BitVec 16} {r : VBits} {live : Bool} {l : List Opnd} (ht : (s.view f).vtakes d m 0 = true)
    (hi : exec i s = s.runView cls n work) (hw : work (s.seen f cls) = ((s.seen f cls).billIf live l).vput d m { bits := r } l) :
    exec i s = .next (s.ran f cls n (((s.seen f cls).billIf live l).vwrote d m { bits := r } l)) :=
  State.exec_vput hr ht (View.f_billIf ..) hi hw

/-- One lane of a vector destination. -/
theorem State.exec_insertLane {d a : Opnd} {k : Nat} {z : W32} (hz : (s.view f).src a = .ok z)
    (ht : (s.view f).vtakes d (BitVec.twoPow 16 k) 0 = true) (hi : exec i s = s.runView cls n work)
    (hw : work (s.seen f cls) = (s.seen f cls).insertLane d a k) :
    exec i s = .next (s.ran f cls n ((s.seen f cls).vwrote d (BitVec.twoPow 16 k) { bits := splat z } [])) := by
  refine State.exec_vput hr ht rfl hi (hw.trans ?_)
  rw [View.insertLane, State.seen_src, hz]
  rfl

end

/-! ## Moves of lanes (R131, R134, R135, R137) -/

section
variable {s : State} {f : Firing} (hr : s.runs f) {d a b : Opnd} {n : W32} (hn : (s.view f).src b = .ok n)
include hr hn

section
variable {q : BitVec 2} {x : VBits} (hx : (s.view f).lanesOf (decide ((s.view f).mask q.toNat ≠ 0)) a = .ok x)
  (ht : (s.view f).vtakes d ((s.view f).mask q.toNat) 0 = true)
include hx ht

theorem exec_vbcast :
    let m := (s.view f).mask q.toNat
    exec (.vbcast d a b q) s = .next (s.ran f 8 2 (((s.seen f 8).billIf (decide (m ≠ 0)) [a]).vwrote d m
      { bits := splat (lane x (n.toNat % 16)) } [a])) := by
  intro m
  refine State.exec_vput_billed hr ht (show execVbcast d a b q s = _ from rfl) ?_
  exact (bind_of_ok ((s.seen_lanesOf ..).trans hx) _).trans (bind_of_ok ((s.seen_src ..).trans hn) _)

theorem exec_vrotl :
    let m := (s.view f).mask q.toNat
    exec (.vrotl d a b q) s = .next (s.ran f 10 2 (((s.seen f 10).billIf (decide (m ≠ 0)) [a]).vwrote d m
      { bits := laneWords m fun l => lane x ((l + n.toNat % 16) % 16) } [a])) := by
  intro m
  refine State.exec_vput_billed hr ht (show execVrotl d a b q s = _ from rfl) ?_
  exact (bind_of_ok ((s.seen_lanesOf ..).trans hx) _).trans (bind_of_ok ((s.seen_src ..).trans hn) _)

end

theorem exec_vext {u : VReg} (hu : (s.view f).vec a = .ok u) (ht : (s.view f).takes d = true) :
    exec (.vext d a b) s = .next (s.ran f 10 2 ((s.seen f 10).wrote d (lane u.bits (n.toNat % 16)))) := by
  refine State.exec_put hr ht (show execVext d a b s = _ from rfl) ?_
  exact (bind_of_ok ((s.seen_vec ..).trans hu) _).trans (bind_of_ok ((s.seen_src ..).trans hn) _)

theorem exec_vins {z : W32} (hz : (s.view f).src a = .ok z) (ht : (s.view f).vtakes d (BitVec.twoPow 16 (n.toNat % 16)) 0 = true) :
    exec (.vins d a b) s
      = .next (s.ran f 10 2 ((s.seen f 10).vwrote d (BitVec.twoPow 16 (n.toNat % 16)) { bits := splat z } [])) := by
  refine State.exec_insertLane hr hz ht (show execVins d a b s = _ from rfl) ?_
  exact (bind_of_ok ((s.seen_src ..).trans hz) _).trans (bind_of_ok ((s.seen_src ..).trans hn) _)

end

section
variable {s : State} {f : Firing} (hr : s.runs f) {d a b : Opnd} {q : BitVec 2}
include hr

theorem exec_vperm {x y : VBits} (hx : (s.view f).lanesOf (decide ((s.view f).mask q.toNat ≠ 0)) a = .ok x)
    (hy : (s.view f).lanesOf (decide ((s.view f).mask q.toNat ≠ 0)) b = .ok y)
    (ht : (s.view f).vtakes d ((s.view f).mask q.toNat) 0 = true) :
    let m := (s.view f).mask q.toNat
    exec (.vperm d a b q) s = .next (s.ran f 10 2 (((s.seen f 10).billIf (decide (m ≠ 0)) [a, b]).vwrote d m
      { bits := laneWords m fun l => lane x ((lane y l).toNat % 16) } [a, b])) := by
  intro m
  refine State.exec_vput_billed hr ht (show execVperm d a b q s = _ from rfl) ?_
  exact (bind_of_ok ((s.seen_lanesOf ..).trans hx) _).trans (bind_of_ok ((s.seen_lanesOf ..).trans hy) _)

/-- The vector form of MOV copies stored bits and tag. -/
theorem exec_mov_vector {u : VReg} (hform : vectorForm d a = true) (hu : (s.view f).vec a = .ok u)
    (ht : (s.view f).vtakes d ((s.view f).mask q.toNat) u.tag = true) :
    exec (.mov d a q) s = .next (s.ran f 8 2 ((s.seen f 8).vwrote d ((s.view f).mask q.toNat) u [])) := by
  have hi : exec (.mov d a q) s = s.runView 8 2 fun v => v.move d a q := by rw [exec_mov, hform]; rfl
  refine State.exec_vput hr ht rfl hi ?_
  simp only [View.move, hform, if_true, State.seen_vec, State.seen_mask, hu]
  rfl

theorem exec_tset {z : W32} (w : BitVec 4) (hz : (s.view f).src a = .ok z)
    (ht : (s.view f).vtakes d (BitVec.twoPow 16 w.toNat) 0 = true) :
    exec (.tset d a w) s = .next (s.ran f 12 2 ((s.seen f 12).vwrote d (BitVec.twoPow 16 w.toNat) { bits := splat z } [])) :=
  State.exec_insertLane hr hz ht (work := fun v => v.insertLane d a w.toNat) rfl rfl

end

/-- Settles O9: what each instruction writes, by the lemmas above, and the lanes of what it writes. -/
theorem laneMoves : Obligations.LaneMoves := by
  intro s f d a b q n x y st hr m live into
  refine ⟨fun hx hn ht => ⟨⟨_, exec_vbcast hr hn hx ht, fun l hl => lane_splat _ l hl⟩,
      ⟨_, exec_vrotl hr hn hx ht, fun l hl hm => lane_laneWords _ hl hm⟩⟩,
    fun hx hy ht => ⟨_, exec_vperm hr hx hy ht, fun l hl hm => lane_laneWords _ hl hm⟩, fun hu hn ht => exec_vext hr hn hu ht,
    fun hform hu ht => exec_mov_vector hr ?_ hu ht, fun z hz => ⟨fun hn ht => ?_, fun w ht => ?_⟩⟩
  · simpa only [vectorForm, Bool.or_eq_true, Bool.and_eq_true, or_assoc] using hform
  · exact ⟨_, exec_vins hr hn hz ht, lane_splat _ _ (Nat.mod_lt _ (by decide))⟩
  · exact ⟨_, exec_tset hr w hz ht, lane_splat _ _ w.isLt⟩

/-! ## Reductions (R136) -/

/-- The lanes below `n` that a mask enables. -/
def enabled (m : BitVec 16) (n : Nat) : List Nat := (List.range n).filter fun k => m.getLsbD k

/-- The sum of the enabled lanes below `n`. -/
def enabledSum (m : BitVec 16) (v : VBits) (n : Nat) : W32 := ((enabled m n).map fun k => lane v k).sum

theorem enabledSum_succ (m : BitVec 16) (v : VBits) (n : Nat) :
    enabledSum m v (n + 1) = if m.getLsbD n then enabledSum m v n + lane v n else enabledSum m v n := by
  unfold enabledSum enabled
  rw [List.range_succ, List.filter_append, List.map_append, List.sum_append, List.filter_singleton]
  cases m.getLsbD n <;> simp

/-- A reduction folds the enabled lanes. -/
theorem reduceLanes_eq (g : W32 → W32 → W32) (z : W32) (m : BitVec 16) (v : VBits) :
    reduceLanes g z m v = ((enabled m 16).map fun k => lane v k).foldl g z := by
  rw [reduceLanes, List.foldl_map, enabled, List.foldl_filter]

theorem reduceLanes_add (m : BitVec 16) (v : VBits) : reduceLanes (fun x y => x + y) 0 m v = enabledSum m v 16 := by
  rw [reduceLanes_eq, enabledSum, List.sum_eq_foldl]

/-- A fold by an operation that picks one of its operands, one whose key is not above either key, picks a word of the least key. -/
theorem foldl_least {key : W32 → Int} {g : W32 → W32 → W32} (hpick : ∀ a b, g a b = a ∨ g a b = b)
    (hle : ∀ a b, key (g a b) ≤ key a ∧ key (g a b) ≤ key b) (l : List W32) (z : W32) :
    (l.foldl g z = z ∨ l.foldl g z ∈ l) ∧ key (l.foldl g z) ≤ key z ∧ ∀ x ∈ l, key (l.foldl g z) ≤ key x := by
  induction l generalizing z with
  | nil => simp
  | cons a r ih =>
    obtain ⟨hmem, hz, hall⟩ := ih (g z a)
    obtain ⟨h1, h2⟩ := hle z a
    rw [List.foldl_cons]
    refine ⟨?_, hz.trans h1, ?_⟩
    · rcases hmem with h | h
      · rw [h]
        exact (hpick z a).imp_right fun h => List.mem_cons.mpr (.inl h)
      · exact .inr (List.mem_cons_of_mem _ h)
    · exact List.forall_mem_cons.mpr ⟨hz.trans h2, hall⟩

/-- Where the fold starts at a word of the greatest key, it picks an enabled lane if there is one. -/
theorem reduceLanes_least {key : W32 → Int} {g : W32 → W32 → W32} (hpick : ∀ a b, g a b = a ∨ g a b = b)
    (hle : ∀ a b, key (g a b) ≤ key a ∧ key (g a b) ≤ key b) (hinj : Function.Injective key) {z : W32} (htop : ∀ x, key x ≤ key z)
    (m : BitVec 16) (v : VBits) : (enabled m 16 = [] → reduceLanes g z m v = z)
      ∧ (enabled m 16 ≠ [] → ∃ k ∈ enabled m 16, reduceLanes g z m v = lane v k)
      ∧ ∀ k ∈ enabled m 16, key (reduceLanes g z m v) ≤ key (lane v k) := by
  rw [reduceLanes_eq]
  obtain ⟨hmem, -, hall⟩ := foldl_least hpick hle ((enabled m 16).map fun k => lane v k) z
  refine ⟨fun h => by rw [h]; rfl, fun h => ?_, fun k hk => hall _ (List.mem_map_of_mem hk)⟩
  rcases hmem with hz | hz
  · obtain ⟨k, hk⟩ := List.exists_mem_of_ne_nil _ h
    refine ⟨k, hk, hinj (le_antisymm (hall _ (List.mem_map_of_mem hk)) ?_)⟩
    rw [hz]
    exact htop _
  · obtain ⟨k, hk, he⟩ := List.mem_map.mp hz
    exact ⟨k, hk, he.symm⟩

/-- The running sums. -/
theorem lane_scanLanes (m : BitVec 16) (v : VBits) {l : Nat} (hl : l < 16) :
    lane (scanLanes m v) l = enabledSum m v (l + 1) := by
  have hrun : ∀ n, (List.range n).foldl (fun (acc : List W32 × W32) l =>
      let s := if m.getLsbD l then acc.2 + lane v l else acc.2
      (acc.1 ++ [s], s)) ([], 0) = ((List.range n).map fun l => enabledSum m v (l + 1), enabledSum m v n) := by
    intro n
    induction n with
    | zero => rfl
    | succ n ih => rw [List.range_succ, List.foldl_append, ih, List.map_append, List.foldl_cons, List.foldl_nil, List.map_singleton,
        enabledSum_succ]
  rw [scanLanes, hrun, lane_ofLaneList _ _ hl]
  simp [List.getElem?_range hl]

section
variable {s : State} {f : Firing} (hr : s.runs f) {d a : Opnd} {q : BitVec 2} {x : VBits}
include hr

theorem State.exec_reduce {i : Instr} {g : BitVec 16 → VBits → W32} (hx : (s.view f).spatial a = .ok x) (ht : (s.view f).takes d = true)
    (hi : exec i s = s.runView 11 2 fun v => v.reduce d a q g) :
    exec i s = .next (s.ran f 11 2 (((s.seen f 11).bill [a]).wrote d (g ((s.view f).mask q.toNat) x))) := by
  have hb : ((s.seen f 11).bill [a]).takes d = true := (View.takes_bill ..).trans ((s.seen_takes f 11 d).trans ht)
  refine State.exec_ok hr hi (Eq.trans ?_ (View.takes_put hb _))
  rw [View.reduce, State.seen_spatial, hx]
  rfl

theorem exec_vscanAdd (hx : (s.view f).lanesOf (decide ((s.view f).mask q.toNat ≠ 0)) a = .ok x)
    (ht : (s.view f).vtakes d ((s.view f).mask q.toNat) 0 = true) :
    let m := (s.view f).mask q.toNat
    exec (.vscanAdd d a q) s = .next (s.ran f 11 2 (((s.seen f 11).billIf (decide (m ≠ 0)) [a]).vwrote d m
      { bits := scanLanes m x } [a])) := by
  intro m
  refine State.exec_vput_billed hr ht (show execVscanAdd d a q s = _ from rfl) ?_
  exact bind_of_ok ((s.seen_lanesOf ..).trans hx) _

end

theorem minS_pick (a b : W32) : minS a b = a ∨ minS a b = b := ite_eq_or_eq ..

theorem maxS_pick (a b : W32) : maxS a b = a ∨ maxS a b = b := ite_eq_or_eq ..

theorem toInt_minS_le (a b : W32) : (minS a b).toInt ≤ a.toInt ∧ (minS a b).toInt ≤ b.toInt := by
  unfold minS
  split <;> omega

theorem le_toInt_maxS (a b : W32) : a.toInt ≤ (maxS a b).toInt ∧ b.toInt ≤ (maxS a b).toInt := by
  unfold maxS
  split <;> omega

/-- Settles O10: the sum, the least and the greatest enabled lane are folds of the enabled lanes, and a running sum is the sum of
those up to its own. -/
theorem reductions : Obligations.Reductions := by
  intro s f d a q x hr m on sum
  refine ⟨fun hx ht => ?_, fun hx ht => ⟨_, exec_vscanAdd hr hx ht, fun l hl _ => lane_scanLanes m x hl⟩⟩
  intro done
  have reduce {i : Instr} {g : BitVec 16 → VBits → W32} (hi : exec i s = s.runView 11 2 fun v => v.reduce d a q g) :
      exec i s = done (g m x) := State.exec_reduce hr hx ht hi
  obtain ⟨hlo0, hlo, hlole⟩ := reduceLanes_least (key := BitVec.toInt) (z := 0x7FFFFFFF) minS_pick toInt_minS_le
    (fun _ _ => BitVec.eq_of_toInt_eq) (fun x => BitVec.toInt_le) m x
  obtain ⟨hhi0, hhi, hhile⟩ := reduceLanes_least (key := fun x => -x.toInt) (z := 0x80000000) maxS_pick
    (fun a b => ⟨neg_le_neg (le_toInt_maxS a b).1, neg_le_neg (le_toInt_maxS a b).2⟩)
    (fun _ _ h => BitVec.eq_of_toInt_eq (neg_injective h)) (fun x => neg_le_neg (BitVec.le_toInt x)) m x
  refine ⟨reduceLanes minS 0x7FFFFFFF m x, reduceLanes maxS 0x80000000 m x, ?_, reduce rfl, reduce rfl, fun h => ⟨hlo0 h, hhi0 h⟩,
    fun h => ⟨hlo h, hhi h, fun k hk => ⟨hlole k hk, neg_le_neg_iff.mp (hhile k hk)⟩⟩⟩
  exact (reduce rfl).trans (congrArg done (reduceLanes_add m x))

end Sys2Proof.Machine
end

section
/-! PROOF. Lane-wise integer instructions and VSEL (R138 to R140). -/

namespace Sys2Proof.Machine

/-! ## Lane-wise integer instructions (R138, R139) -/

section
variable {s : State} {f : Firing} (hr : s.runs f) {d a b : Opnd} {q : BitVec 2} {x y z : VBits}
  (hx : (s.view f).lanesOf (decide ((s.view f).mask q.toNat ≠ 0)) a = .ok x)
  (ht : (s.view f).vtakes d ((s.view f).mask q.toNat) 0 = true)
include hr hx ht

theorem State.exec_lanes1 {i : Instr} {cls n : Nat} {g : W32 → W32} (hi : exec i s = s.runView cls n fun v => v.lanes1 d a q g) :
    let m := (s.view f).mask q.toNat
    exec i s = .next (s.ran f cls n (((s.seen f cls).billIf (decide (m ≠ 0)) [a]).vwrote d m
      { bits := laneWords m fun l => g (lane x l) } [a])) :=
  State.exec_vput_billed hr ht hi (bind_of_ok ((s.seen_lanesOf ..).trans hx) _)

theorem State.exec_lanes2 {i : Instr} {cls n : Nat} {g : W32 → W32 → W32}
    (hy : (s.view f).lanesOf (decide ((s.view f).mask q.toNat ≠ 0)) b = .ok y)
    (hi : exec i s = s.runView cls n fun v => v.lanes2 d a b q g) :
    let m := (s.view f).mask q.toNat
    exec i s = .next (s.ran f cls n (((s.seen f cls).billIf (decide (m ≠ 0)) [a, b]).vwrote d m
      { bits := laneWords m fun l => g (lane x l) (lane y l) } [a, b])) :=
  State.exec_vput_billed hr ht hi ((bind_of_ok ((s.seen_lanesOf ..).trans hx) _).trans (bind_of_ok ((s.seen_lanesOf ..).trans hy) _))

/-- VMAD reconstructs its destination whatever the mask. -/
theorem exec_vmad (hy : (s.view f).lanesOf (decide ((s.view f).mask q.toNat ≠ 0)) b = .ok y) (hz : (s.view f).spatial d = .ok z) :
    let m := (s.view f).mask q.toNat
    exec (.vmad d a b q) s = .next (s.ran f 9 2 (((s.seen f 9).bill (if m = 0 then [d] else [d, a, b])).vwrote d m
      { bits := laneWords m fun l => lane z l + lane x l * lane y l } [d, a, b])) := by
  intro m
  rw [← ite_not (m = 0)]
  refine State.exec_vput hr ht rfl (show execVmad d a b q s = _ from rfl) ?_
  exact ((bind_of_ok ((s.seen_lanesOf ..).trans hx) _).trans (bind_of_ok ((s.seen_lanesOf ..).trans hy) _)).trans
    (bind_of_ok ((s.seen_spatial ..).trans hz) _)

end

/-- Settles O11: every instruction is a form of one or two vector sources, whose operation is the scalar instruction's. -/
theorem vectorIntegerResults : Obligations.VectorIntegerResults := by
  intro s f d a b q x y z hr m live lanes done
  refine ⟨fun hx hy ht => ?_, fun hx ht => ?_, fun hx hy hz ht => ⟨_, exec_vmad hr hx ht hy hz, fun l hl hm => lane_laneWords _ hl hm⟩,
    fun u v hu hv => ?_⟩
  · have two {i : Instr} {cls : Nat} {g h : W32 → W32 → W32} (hi : exec i s = s.runView cls 2 fun v => v.lanes2 d a b q g)
        (hg : ∀ u v, g u v = h u v) : ∃ r, exec i s = done cls [a, b] r ∧ lanes h r :=
      ⟨_, State.exec_lanes2 hr hx ht hy hi, fun l hl hm => (lane_laneWords _ hl hm).trans (hg _ _)⟩
    exact ⟨two rfl fun _ _ => rfl, two rfl fun _ _ => rfl, two rfl fun _ _ => rfl, two rfl mulHigh_eq, two rfl fun _ _ => rfl,
      two rfl fun _ _ => rfl, two rfl fun _ _ => rfl, two rfl fun u v => shiftLeft_eq_ofNat u (v.toNat % 32),
      two rfl fun u v => shiftRight_eq_ofNat u (v.toNat % 32), two rfl shiftA_eq, two rfl minS_eq, two rfl maxS_eq⟩
  · refine ⟨⟨_, State.exec_lanes1 (g := popW) hr hx ht rfl, fun l hl hm => lane_laneWords _ hl hm⟩,
      ⟨_, State.exec_lanes1 (g := clzW) hr hx ht rfl, fun l hl hm => ?_⟩⟩
    rw [lane_laneWords _ hl hm]
    exact clzW_spec _
  · exact ⟨_, State.exec_lanes2 (d := .v u) (a := .v u) (b := .v v) (q := 0) (g := fun u v => u + v) hr hu (View.vtakes_all ..) hv rfl,
      fun l hl => lane_laneWords _ hl (getLsbD_allLanes hl)⟩

/-! ## VSEL (R140) -/

/-- Settles O12: a merge of the two sources by the mask; under m0 it is the first source. -/
theorem vectorSelect : Obligations.VectorSelect := by
  refine ⟨fun s f d a b q x y hr hx hy => ?_, fun d a b q => ⟨rfl, rfl⟩⟩
  refine ⟨mergeLanes ((s.view f).mask q.toNat) y x, ?_, fun l hl => lane_mergeLanes _ _ _ _ hl, ?_⟩
  · refine State.exec_vput hr (View.vtakes_all ..) rfl (show execVsel d a b q s = _ from rfl) ?_
    exact (bind_of_ok ((s.seen_spatial ..).trans hx) _).trans (bind_of_ok ((s.seen_spatial ..).trans hy) _)
  · rintro rfl
    exact mergeLanes_full y x

end Sys2Proof.Machine
end

section
/-! PROOF. Vector arithmetic on Haar coefficients (R143, R146). -/

namespace Sys2Proof.Machine

/-! ## Operations that keep a Haar tag (R146) -/

/-- The instruction `i` of `n` halfwords and class `cls` computes `g` on every lane, sets the flags of the lanes that `q` enables, and
writes the result to `d` with the tag `t`. -/
def State.KeepsTag (s : State) (f : Firing) (d : Opnd) (q : BitVec 2) (i : Instr) (cls n : Nat) (t : BitVec 6) (g : Nat → W32 × Flags) :
    Prop :=
  let m := (s.view f).mask q.toNat
  ∃ r fl, exec i s = .next (s.ran f cls n (((s.seen f cls).flag fl).vwrote d m { bits := r, tag := t } [])) ∧ lanesAre m g r fl
    ∧ ∀ l, l < 16 → lane r l = (g l).1

/-- The lanes of an operand on coefficients: the approximation lanes of `t` are computed, the detail lanes are copied. -/
def onApprox (t : BitVec 6) (g : Nat → W32 × Flags) (detail : Nat → W32) (l : Nat) : W32 × Flags :=
  if l % 2 ^ tagLevel t = 0 then g l else (detail l, 0)

theorem onApprox_eq (t : BitVec 6) (g : Nat → W32 × Flags) (detail : Nat → W32) :
    (fun l => if isApprox t l then g l else (detail l, 0)) = onApprox t g detail := by
  funext l
  simp only [onApprox, isApprox, decide_eq_true_eq]

/-- A broadcast has no tag. -/
theorem View.tagOf_broadcast (v : View) {o : Opnd} (h : isBroadcast o = true) : v.tagOf o = 0 := by
  cases o with
  | v | o | i => cases h
  | _ => rfl

/-- A vector source that is a broadcast has no tag. -/
theorem View.tag_of_broadcast {v : View} {o : Opnd} {u : VReg} (hu : v.vec o = .ok u) (h : isBroadcast o = true) : u.tag = 0 :=
  (View.tagOf_of_vec hu).symm.trans (v.tagOf_broadcast h)

section
variable {s : State} {f : Firing} {d a b : Opnd} {q : BitVec 2} {i : Instr} {cls n : Nat}

theorem State.keepsTag_of_keepTag (hr : s.runs f) {work : View → Except Trap View} {t : BitVec 6} {g : Nat → W32 × Flags}
    (ht : (s.view f).vtakes d ((s.view f).mask q.toNat) t = true) (hi : exec i s = s.runView cls n work)
    (hw : work (s.seen f cls) = (s.seen f cls).keepTag d q t g) : s.KeepsTag f d q i cls n t g := by
  have hlanes : ∀ l, l < 16 → lane (ofLanes fun l => (g l).1) l = (g l).1 := fun l hl => lane_ofLanes _ l hl
  exact ⟨_, _, State.exec_vput hr (u := (s.seen f cls).flag (laneResults _ g).2) (x := { bits := ofLanes fun l => (g l).1, tag := t }) ht
    rfl hi hw, ⟨fun l hl _ => hlanes l hl, (lanesAre_laneResults _ g).2⟩, hlanes⟩

variable {u v w : VReg} (hu : (s.view f).vec a = .ok u) (hv : (s.view f).vec b = .ok v) (hul : tagLevel u.tag ≤ 4)
  (hvl : tagLevel v.tag ≤ 4)
include hu hv hul hvl

/-- A sum or difference whose operands can be read. -/
theorem State.seen_addSub (cls : Nat) (g : W32 → W32 → W32 × Flags) (neg : W32) : (s.seen f cls).addSub d a b q g neg =
    if u.tag ≠ 0 ∧ u.tag = v.tag then (s.seen f cls).keepTag d q u.tag fun l => g (lane u.bits l) (lane v.bits l)
    else if u.tag ≠ 0 ∧ isBroadcast b = true then
      (s.seen f cls).keepTag d q u.tag (onApprox u.tag (fun l => g (lane u.bits l) (lane v.bits l)) (lane u.bits))
    else if v.tag ≠ 0 ∧ isBroadcast a = true then
      (s.seen f cls).keepTag d q v.tag (onApprox v.tag (fun l => g (lane u.bits l) (lane v.bits l)) fun l => lane v.bits l ^^^ neg)
    else (s.seen f cls).float2 d a b q g := by
  simp only [← onApprox_eq, View.addSub, State.seen_tagOf, State.seen_valueOf, View.tagOf_of_vec hu, View.tagOf_of_vec hv,
    View.valueOf_false hu hul, View.valueOf_false hv hvl]
  rfl

/-- A product whose operands can be read. -/
theorem State.seen_times (cls : Nat) : (s.seen f cls).times d a b q =
    if u.tag ≠ 0 ∧ isBroadcast b = true then (s.seen f cls).keepTag d q u.tag fun l => mulF (lane u.bits l) (lane v.bits l)
    else if v.tag ≠ 0 ∧ isBroadcast a = true then (s.seen f cls).keepTag d q v.tag fun l => mulF (lane u.bits l) (lane v.bits l)
    else (s.seen f cls).float2 d a b q mulF := by
  simp only [View.times, State.seen_tagOf, State.seen_valueOf, View.tagOf_of_vec hu, View.tagOf_of_vec hv, View.valueOf_false hu hul,
    View.valueOf_false hv hvl]
  rfl

/-- A multiply-add whose operands can be read. -/
theorem State.seen_multiplyAdd (hw : (s.view f).vec d = .ok w) (hwl : tagLevel w.tag ≤ 4) (cls : Nat) :
    let fma := fun l => fmaF (lane w.bits l) (lane u.bits l) (lane v.bits l)
    (s.seen f cls).multiplyAdd d a b q =
      if w.tag ≠ 0 ∧ ((u.tag = w.tag ∧ isBroadcast b = true) ∨ (v.tag = w.tag ∧ isBroadcast a = true)) then
        (s.seen f cls).keepTag d q w.tag fma
      else if w.tag ≠ 0 ∧ isBroadcast a = true ∧ isBroadcast b = true then
        (s.seen f cls).keepTag d q w.tag (onApprox w.tag fma (lane w.bits))
      else (s.seen f cls).float3 d a b q fmaF := by
  simp only [← onApprox_eq, View.multiplyAdd, State.seen_tagOf, State.seen_valueOf, View.tagOf_of_vec hu, View.tagOf_of_vec hv,
    View.tagOf_of_vec hw, View.valueOf_false hu hul, View.valueOf_false hv hvl, View.valueOf_false hw hwl]
  rfl

section
variable (hr : s.runs f)
include hr

section
variable {g : W32 → W32 → W32 × Flags} {neg : W32} (hi : exec i s = s.runView cls n fun v => v.addSub d a b q g neg)
include hi

/-- Two operands of one tag are added coefficient by coefficient. -/
theorem State.keepsTag_addSub (h0 : u.tag ≠ 0) (heq : v.tag = u.tag)
    (ht : (s.view f).vtakes d ((s.view f).mask q.toNat) u.tag = true) :
    s.KeepsTag f d q i cls n u.tag fun l => g (lane u.bits l) (lane v.bits l) :=
  State.keepsTag_of_keepTag hr ht hi ((State.seen_addSub hu hv hul hvl cls g neg).trans (if_pos ⟨h0, heq.symm⟩))

/-- A broadcast second operand meets the approximation lanes only. -/
theorem State.keepsTag_addSub_right (h0 : u.tag ≠ 0) (hb : isBroadcast b = true)
    (ht : (s.view f).vtakes d ((s.view f).mask q.toNat) u.tag = true) :
    s.KeepsTag f d q i cls n u.tag (onApprox u.tag (fun l => g (lane u.bits l) (lane v.bits l)) (lane u.bits)) := by
  have hv0 : v.tag = 0 := View.tag_of_broadcast hv hb
  refine State.keepsTag_of_keepTag hr ht hi ((State.seen_addSub hu hv hul hvl cls g neg).trans ?_)
  rw [if_neg fun h => h0 (h.2.trans hv0), if_pos ⟨h0, hb⟩]

/-- So does a broadcast first operand. -/
theorem State.keepsTag_addSub_left (h0 : v.tag ≠ 0) (ha : isBroadcast a = true)
    (ht : (s.view f).vtakes d ((s.view f).mask q.toNat) v.tag = true) :
    s.KeepsTag f d q i cls n v.tag (onApprox v.tag (fun l => g (lane u.bits l) (lane v.bits l)) fun l => lane v.bits l ^^^ neg) := by
  have hu0 : u.tag = 0 := View.tag_of_broadcast hu ha
  refine State.keepsTag_of_keepTag hr ht hi ((State.seen_addSub hu hv hul hvl cls g neg).trans ?_)
  rw [if_neg fun h => h.1 hu0, if_neg fun h => h.1 hu0, if_pos ⟨h0, ha⟩]

end

section
variable (hi : exec i s = s.runView cls n fun v => v.times d a b q)
include hi

/-- A product by a broadcast is taken coefficient by coefficient. -/
theorem State.keepsTag_times_right (h0 : u.tag ≠ 0) (hb : isBroadcast b = true)
    (ht : (s.view f).vtakes d ((s.view f).mask q.toNat) u.tag = true) :
    s.KeepsTag f d q i cls n u.tag fun l => mulF (lane u.bits l) (lane v.bits l) :=
  State.keepsTag_of_keepTag hr ht hi ((State.seen_times hu hv hul hvl cls).trans (if_pos ⟨h0, hb⟩))

theorem State.keepsTag_times_left (h0 : v.tag ≠ 0) (ha : isBroadcast a = true)
    (ht : (s.view f).vtakes d ((s.view f).mask q.toNat) v.tag = true) :
    s.KeepsTag f d q i cls n v.tag fun l => mulF (lane u.bits l) (lane v.bits l) := by
  have hu0 : u.tag = 0 := View.tag_of_broadcast hu ha
  refine State.keepsTag_of_keepTag hr ht hi ((State.seen_times hu hv hul hvl cls).trans ?_)
  rw [if_neg fun h => h.1 hu0, if_pos ⟨h0, ha⟩]

end

section
variable (hw : (s.view f).vec d = .ok w) (hwl : tagLevel w.tag ≤ 4) (hi : exec i s = s.runView cls n fun v => v.multiplyAdd d a b q)
  (h0 : w.tag ≠ 0) (ht : (s.view f).vtakes d ((s.view f).mask q.toNat) w.tag = true)
include hw hwl hi h0 ht

/-- A product of the destination's tag by a broadcast is added coefficient by coefficient. -/
theorem State.keepsTag_multiplyAdd (h : (u.tag = w.tag ∧ isBroadcast b = true) ∨ (v.tag = w.tag ∧ isBroadcast a = true)) :
    s.KeepsTag f d q i cls n w.tag fun l => fmaF (lane w.bits l) (lane u.bits l) (lane v.bits l) :=
  State.keepsTag_of_keepTag hr ht hi ((State.seen_multiplyAdd hu hv hul hvl hw hwl cls).trans (if_pos ⟨h0, h⟩))

/-- A product of two broadcasts is added to the approximation lanes only. -/
theorem State.keepsTag_multiplyAdd_broadcasts (ha : isBroadcast a = true) (hb : isBroadcast b = true) :
    s.KeepsTag f d q i cls n w.tag
      (onApprox w.tag (fun l => fmaF (lane w.bits l) (lane u.bits l) (lane v.bits l)) (lane w.bits)) := by
  have hu0 : u.tag = 0 := View.tag_of_broadcast hu ha
  have hv0 : v.tag = 0 := View.tag_of_broadcast hv hb
  refine State.keepsTag_of_keepTag hr ht hi ((State.seen_multiplyAdd hu hv hul hvl hw hwl cls).trans ?_)
  rw [if_neg fun h => h0 (h.2.elim (fun e => e.1.symm.trans hu0) fun e => e.1.symm.trans hv0), if_pos ⟨h0, ha, hb⟩]

end

end

end

/-- Settles O18: the cases of R146, each a form that keeps the tag. -/
theorem haarArithmetic : Obligations.HaarArithmetic := by
  intro s f d a b q u v w hr m hu hv hw hul hvl hwl keeps coarse add sub mul fma short
  refine ⟨fun h0 heq ht => ⟨?_, ?_, ?_⟩, fun h0 hb ht => ⟨?_, ?_, ?_⟩, fun h0 ha ht => ⟨?_, ?_, ?_⟩, fun h0 h ht => ?_,
    fun h0 ha hb ht => ?_⟩
  · exact State.keepsTag_addSub hu hv hul hvl hr (exec_vfadd d a b q s) h0 heq ht
  · exact State.keepsTag_addSub hu hv hul hvl hr (exec_vfsub d a b q s) h0 heq ht
  · rintro j k ⟨rfl, rfl, rfl, rfl⟩
    exact State.keepsTag_addSub hu hv hul hvl hr (exec_cVfadd j k s) h0 heq ht
  · exact State.keepsTag_addSub_right hu hv hul hvl hr (exec_vfadd d a b q s) h0 hb ht
  · exact State.keepsTag_addSub_right hu hv hul hvl hr (exec_vfsub d a b q s) h0 hb ht
  · exact State.keepsTag_times_right hu hv hul hvl hr (exec_vfmul d a b q s) h0 hb ht
  · have hcopied : (fun l => lane v.bits l ^^^ 0) = lane v.bits := funext fun l => BitVec.xor_zero
    have h := State.keepsTag_addSub_left hu hv hul hvl hr (exec_vfadd d a b q s) h0 ha ht
    rwa [hcopied] at h
  · exact State.keepsTag_addSub_left hu hv hul hvl hr (exec_vfsub d a b q s) h0 ha ht
  · exact State.keepsTag_times_left hu hv hul hvl hr (exec_vfmul d a b q s) h0 ha ht
  · exact State.keepsTag_multiplyAdd hu hv hul hvl hr hw hwl (exec_vfma d a b q s) h0 ht h
  · exact State.keepsTag_multiplyAdd_broadcasts hu hv hul hvl hr hw hwl (exec_vfma d a b q s) h0 ht ha hb

end Sys2Proof.Machine
end

section
/-! PROOF. What register instructions leave unchanged (R118, R119, R342). -/

namespace Sys2Proof.Machine

/-! ## What a register instruction may change (R118)

`f` and `t` are the firing and the tile that the instruction sees, `w` the view that it leaves. -/

/-- Of the firing and its tile only the destination `d`, the tile's flags and the charges differ. -/
structure View.Changed (d : Opnd) (f : Firing) (t : Tile) (w : View) : Prop where
  firing : { w.f with w := f.w, v := f.v, o := f.o, sq := f.sq } = f
  words : ∀ n : BitVec 5, d ≠ .w n → w.f.w.get 0 n.toNat = f.w.get 0 n.toNat
  vectors : ∀ n : BitVec 4, d ≠ .v n → w.f.v.get {} n.toNat = f.v.get {} n.toNat
  payloads : ∀ n : BitVec 2, d ≠ .o n → w.f.o.get {} n.toNat = f.o.get {} n.toNat
  seqTag : d ≠ .sq → w.f.sq = f.sq
  tile : { w.t with frames := [], astat := 0 } = { t with frames := [], astat := 0 }
  frames : (∀ n, d ≠ .f n) → w.t.frames = t.frames

/-- The flags do not differ either. -/
def View.Sets (d : Opnd) (f : Firing) (t : Tile) (w : View) : Prop := View.Changed d f t w ∧ w.t.astat = t.astat

/-- Flags are added at most. -/
def View.SetsFlags (d : Opnd) (f : Firing) (t : Tile) (w : View) : Prop := View.Changed d f t w ∧ w.t.astat &&& t.astat = t.astat

/-- Where the work of an instruction succeeds, what it leaves satisfies `P`. -/
def Leaves (P : View → Prop) (r : Except Trap View) : Prop := ∀ w, r = .ok w → P w

theorem Leaves.ok {P : View → Prop} {w : View} (h : P w) : Leaves P (.ok w) := fun _ hw => Except.ok.inj hw ▸ h

theorem Leaves.error {P : View → Prop} (e : Trap) : Leaves P (.error e) := fun _ hw => nomatch hw

theorem Leaves.bind {α : Type} {P : View → Prop} {r : Except Trap α} {g : α → Except Trap View} (h : ∀ x, Leaves P (g x)) :
    Leaves P (r >>= g) := by
  cases r with
  | error e => exact Leaves.error e
  | ok x => exact h x

theorem Leaves.ite {P : View → Prop} {c : Prop} [Decidable c] {r t : Except Trap View} (hr : Leaves P r) (ht : Leaves P t) :
    Leaves P (if c then r else t) := by
  split
  · exact hr
  · exact ht

section
variable {d : Opnd} {f : Firing} {t : Tile} {u : View}

theorem View.Changed.refl (hf : u.f = f) (ht : u.t = t) : View.Changed d f t u := by
  subst hf ht
  exact ⟨rfl, fun _ _ => rfl, fun _ _ => rfl, fun _ _ => rfl, fun _ => rfl, rfl, fun _ => rfl⟩

theorem View.Changed.setVec (hf : u.f = f) (ht : u.t = t) (x : VReg) : View.Changed d f t (u.setVec d x) := by
  subst hf ht
  cases d with
  | v k => exact ⟨rfl, fun _ _ => rfl, fun n hn => Map.get_set_other _ _ _ fun h => hn (congrArg _ (BitVec.eq_of_toNat_eq h.symm)),
      fun _ _ => rfl, fun _ => rfl, rfl, fun _ => rfl⟩
  | o k => exact ⟨rfl, fun _ _ => rfl, fun _ _ => rfl,
      fun n hn => Map.get_set_other _ _ _ fun h => hn (congrArg _ (BitVec.eq_of_toNat_eq h.symm)), fun _ => rfl, rfl, fun _ => rfl⟩
  | _ => exact View.Changed.refl rfl rfl

/-- A masked write sets its destination alone. -/
theorem View.vput_sets (hf : u.f = f) (ht : u.t = t) (m : BitVec 16) (x : VReg) (paid : List Opnd) :
    Leaves (View.Sets d f t) (u.vput d m x paid) := by
  intro w hw
  obtain rfl | ⟨e, y, rfl⟩ := View.vput_cases hw
  · exact ⟨View.Changed.refl hf ht, by rw [ht]⟩
  · have htile : ((u.withExtra e).setVec d y).t = u.t := by cases d <;> rfl
    exact ⟨View.Changed.setVec (u := u.withExtra e) hf ht y, by rw [htile, ht]⟩

/-- A scalar write sets its destination alone. -/
theorem View.put_sets (hf : u.f = f) (ht : u.t = t) (x : W32) : Leaves (View.Sets d f t) (u.put d x) := by
  cases d with
  | o n => exact View.vput_sets hf ht _ _ _
  | w k =>
    subst hf ht
    exact Leaves.ok ⟨⟨rfl, fun n hn => Map.get_set_other _ _ _ fun h => hn (congrArg _ (BitVec.eq_of_toNat_eq h.symm)), fun _ _ => rfl,
      fun _ _ => rfl, fun _ => rfl, rfl, fun _ => rfl⟩, rfl⟩
  | sq =>
    subst hf ht
    exact Leaves.ok ⟨⟨rfl, fun _ _ => rfl, fun _ _ => rfl, fun _ _ => rfl, fun h => absurd rfl h, rfl, fun _ => rfl⟩, rfl⟩
  | f n =>
    subst hf ht
    change Leaves _ (u.setSlot n.toNat x)
    unfold View.setSlot
    exact Leaves.ite (Leaves.error _) (Leaves.ok ⟨⟨rfl, fun _ _ => rfl, fun _ _ => rfl, fun _ _ => rfl, fun _ => rfl, rfl,
      fun h => absurd rfl (h n)⟩, rfl⟩)
  | _ => exact Leaves.ok ⟨View.Changed.refl hf ht, by rw [ht]⟩

/-- What sets a destination on top of flags that are added adds flags. -/
theorem View.SetsFlags.of_flag {w : View} {fl : Flags} (h : View.Sets d f { t with astat := t.astat ||| fl } w) :
    View.SetsFlags d f t w := by
  obtain ⟨⟨h1, h2, h3, h4, h5, h6, h7⟩, hflags⟩ := h
  refine ⟨⟨h1, h2, h3, h4, h5, h6, h7⟩, ?_⟩
  rw [hflags]
  exact BitVec.eq_of_getLsbD_eq fun i hi => by simp; tauto

theorem View.SetsFlags.of_sets {w : View} (h : View.Sets d f t w) : View.SetsFlags d f t w :=
  ⟨h.1, by rw [h.2]; exact BitVec.and_self⟩

theorem View.vput_setsFlags {fl : Flags} (hf : u.f = f) (ht : u.t = { t with astat := t.astat ||| fl }) (m : BitVec 16) (x : VReg)
    (paid : List Opnd) : Leaves (View.SetsFlags d f t) (u.vput d m x paid) :=
  fun w hw => .of_flag (View.vput_sets hf ht m x paid w hw)

theorem View.put_setsFlags {fl : Flags} (hf : u.f = f) (ht : u.t = { t with astat := t.astat ||| fl }) (x : W32) :
    Leaves (View.SetsFlags d f t) (u.put d x) :=
  fun w hw => .of_flag (View.put_sets hf ht x w hw)

end

/-! ## The shared forms -/

theorem View.t_billIf (v : View) (live : Bool) (l : List Opnd) : (v.billIf live l).t = v.t := by
  cases live <;> rfl

theorem View.t_flag_billIf (v : View) (live : Bool) (l : List Opnd) (fl : Flags) :
    ((v.billIf live l).flag fl).t = { v.t with astat := v.t.astat ||| fl } := by
  cases live <;> rfl

section
variable {v : View} {d a b : Opnd} {q : BitVec 2}

theorem View.billed_sets {live : Bool} {m : BitVec 16} {x : VReg} {l paid : List Opnd} :
    Leaves (View.Sets d v.f v.t) ((v.billIf live l).vput d m x paid) :=
  View.vput_sets (View.f_billIf ..) (View.t_billIf ..) _ _ _

theorem View.scalar1_sets {g : W32 → W32} : Leaves (View.Sets d v.f v.t) (v.scalar1 d a g) :=
  Leaves.bind fun _ => View.put_sets rfl rfl _

theorem View.scalar2_sets {g : W32 → W32 → W32} : Leaves (View.Sets d v.f v.t) (v.scalar2 d a b g) :=
  Leaves.bind fun _ => Leaves.bind fun _ => View.put_sets rfl rfl _

theorem View.scalar3_sets {g : W32 → W32 → W32 → W32} : Leaves (View.Sets d v.f v.t) (v.scalar3 d a b g) :=
  Leaves.bind fun _ => Leaves.bind fun _ => Leaves.bind fun _ => View.put_sets rfl rfl _

theorem View.move_sets : Leaves (View.Sets d v.f v.t) (v.move d a q) :=
  Leaves.ite (Leaves.bind fun _ => View.vput_sets rfl rfl _ _ _) View.scalar1_sets

theorem View.tokenWord_sets {k w : Nat} : Leaves (View.Sets d v.f v.t) (v.tokenWord d a k w) := by
  cases a with
  | i n => exact View.put_sets rfl rfl _
  | _ => exact Leaves.ok ⟨View.Changed.refl rfl rfl, rfl⟩

theorem View.insertLane_sets {n : Nat} : Leaves (View.Sets d v.f v.t) (v.insertLane d a n) :=
  Leaves.bind fun _ => View.vput_sets rfl rfl _ _ _

theorem View.reduce_sets {g : BitVec 16 → VBits → W32} : Leaves (View.Sets d v.f v.t) (v.reduce d a q g) :=
  Leaves.bind fun _ => View.put_sets rfl rfl _

theorem View.whole2_sets {g : VBits → VBits → VBits} : Leaves (View.Sets d v.f v.t) (v.whole2 d a b g) :=
  Leaves.bind fun _ => Leaves.bind fun _ => View.vput_sets rfl rfl _ _ _

theorem View.lanes2_sets {g : W32 → W32 → W32} : Leaves (View.Sets d v.f v.t) (v.lanes2 d a b q g) :=
  Leaves.bind fun _ => Leaves.bind fun _ => View.billed_sets

theorem View.whole_setsFlags {x : VBits} {t : BitVec 6} {paid : List Opnd} : Leaves (View.SetsFlags d v.f v.t) (v.whole d x t paid) :=
  fun w hw => .of_sets (View.vput_sets rfl rfl _ _ _ w hw)

theorem View.float1_sets {g : W32 → W32 × Flags} : Leaves (View.SetsFlags d v.f v.t) (v.float1 d a q g) :=
  Leaves.bind fun _ => View.vput_setsFlags (View.f_flag_billIf ..) (View.t_flag_billIf ..) _ _ _

theorem View.float2_sets {g : W32 → W32 → W32 × Flags} : Leaves (View.SetsFlags d v.f v.t) (v.float2 d a b q g) :=
  Leaves.bind fun _ => Leaves.bind fun _ => View.vput_setsFlags (View.f_flag_billIf ..) (View.t_flag_billIf ..) _ _ _

theorem View.float3_sets {g : W32 → W32 → W32 → W32 × Flags} : Leaves (View.SetsFlags d v.f v.t) (v.float3 d a b q g) :=
  Leaves.bind fun _ => Leaves.bind fun _ => Leaves.bind fun _ =>
    View.vput_setsFlags (View.f_flag_billIf ..) (View.t_flag_billIf ..) _ _ _

theorem View.keepTag_sets {t : BitVec 6} {g : Nat → W32 × Flags} : Leaves (View.SetsFlags d v.f v.t) (v.keepTag d q t g) :=
  View.vput_setsFlags (u := v.flag _) rfl rfl _ _ _

theorem View.addSub_sets {g : W32 → W32 → W32 × Flags} {neg : W32} : Leaves (View.SetsFlags d v.f v.t) (v.addSub d a b q g neg) :=
  Leaves.bind fun _ => Leaves.bind fun _ => Leaves.ite View.keepTag_sets (Leaves.ite View.keepTag_sets
    (Leaves.ite View.keepTag_sets View.float2_sets))

theorem View.times_sets : Leaves (View.SetsFlags d v.f v.t) (v.times d a b q) :=
  Leaves.bind fun _ => Leaves.bind fun _ => Leaves.ite View.keepTag_sets (Leaves.ite View.keepTag_sets View.float2_sets)

theorem View.multiplyAdd_sets : Leaves (View.SetsFlags d v.f v.t) (v.multiplyAdd d a b q) :=
  Leaves.bind fun _ => Leaves.bind fun _ => Leaves.bind fun _ => Leaves.ite View.keepTag_sets
    (Leaves.ite View.keepTag_sets View.float3_sets)

theorem View.scalarFloat_sets {g : W32 → W32 → W32 × Flags} : Leaves (View.SetsFlags d v.f v.t) (v.scalarFloat d a b g) :=
  Leaves.bind fun _ => Leaves.bind fun _ => View.put_setsFlags (u := v.flag _) rfl rfl _

theorem View.convert1_sets {g : W32 → W32 × Flags} : Leaves (View.SetsFlags d v.f v.t) (v.convert1 d a g) :=
  Leaves.ite View.float1_sets (Leaves.bind fun _ => View.put_setsFlags (u := v.flag _) rfl rfl _)

theorem View.convert2_sets {g : W32 → W32 → W32 × Flags} : Leaves (View.SetsFlags d v.f v.t) (v.convert2 d a b g) :=
  Leaves.ite View.float2_sets View.scalarFloat_sets

theorem View.convertHalf_sets {fmt : Fmt} : Leaves (View.SetsFlags d v.f v.t) (v.convertHalf d a b fmt) :=
  have half : Leaves (View.SetsFlags d v.f v.t)
      (v.src b >>= fun h => v.convert1 d a fun x => widenF fmt (elemOf 16 x (h.toNat % 2)).toNat) := Leaves.bind fun _ => View.convert1_sets
  Leaves.ite (Leaves.bind fun _ => half) (Leaves.bind fun _ => half)

end

/-! ## Comparisons and truth tables (R120 to R123) -/

/-- Of the firing only the predicate `n` differs; predicate 0 does not. -/
def View.SetsPred (n : BitVec 3) (f : Firing) (t : Tile) (w : View) : Prop :=
  w.t = t ∧ { w.f with p := f.p } = f ∧ ∀ l : BitVec 3, (l ≠ n ∨ l = 0) → w.f.p.getLsbD l.toNat = f.p.getLsbD l.toNat

/-- Of the firing only the mask `n` differs; mask 0 does not. -/
def View.SetsMask (n : BitVec 2) (f : Firing) (t : Tile) (w : View) : Prop :=
  w.t = t ∧ { w.f with m := f.m } = f ∧ ∀ l : Nat, (l ≠ n.toNat ∨ l = 0) → w.f.m.get 0xFFFF l = f.m.get 0xFFFF l

theorem View.setPred_sets (v : View) (n : BitVec 3) (x : Bool) : View.SetsPred n v.f v.t (v.setPred n.toNat x) := by
  unfold View.setPred
  split
  · exact ⟨rfl, rfl, fun _ _ => rfl⟩
  · next h0 =>
    refine ⟨rfl, rfl, fun l hl => ?_⟩
    have hne : n.toNat ≠ l.toNat := fun h =>
      hl.elim (fun h1 => h1 (BitVec.eq_of_toNat_eq h.symm)) fun h1 => h0 (h.trans (congrArg BitVec.toNat h1))
    have hbit : (BitVec.twoPow 8 n.toNat).getLsbD l.toNat = false := by simp [BitVec.getLsbD_twoPow, hne]
    have hl8 : l.toNat < 8 := l.isLt
    cases x
    · simp only [Bool.false_eq_true, if_false, BitVec.getLsbD_and, BitVec.getLsbD_not, hbit, hl8, decide_true,
        Bool.not_false, Bool.and_true]
    · simp only [if_true, BitVec.getLsbD_or, hbit, Bool.or_false]

theorem View.setMask_sets (v : View) (n : BitVec 2) (x : BitVec 16) : View.SetsMask n v.f v.t (v.setMask n.toNat x) := by
  unfold View.setMask
  split
  · exact ⟨rfl, rfl, fun _ _ => rfl⟩
  · next h0 => exact ⟨rfl, rfl, fun l hl => Map.get_set_other _ _ _ fun h => hl.elim (fun h1 => h1 h) fun h1 => h0 (h.symm.trans h1)⟩

theorem View.predicate_sets (v : View) (p : BitVec 3) (a b : Opnd) (g : W32 → W32 → Bool) :
    Leaves (View.SetsPred p v.f v.t) (v.predicate p a b g) :=
  Leaves.bind fun _ => Leaves.bind fun _ => Leaves.ok (v.setPred_sets p _)

theorem View.compareLanes_sets (v : View) (m : BitVec 2) (a b : Opnd) (q : BitVec 2) (g : W32 → W32 → Bool) :
    Leaves (View.SetsMask m v.f v.t) (v.compareLanes m a b q g) :=
  Leaves.bind fun _ => Leaves.bind fun _ => Leaves.ok (View.setMask_sets (v.bill [a, b]) m _)

/-! ## The state after a register instruction -/

theorem State.localTo.trans {s u v : State} {t : Nat} (h : s.localTo u t) (k : u.localTo v t) : s.localTo v t := by
  obtain ⟨h1, h2, h3, h4, h5, h6, h7, h8, h9⟩ := h
  obtain ⟨k1, k2, k3, k4, k5, k6, k7, k8, k9⟩ := k
  exact ⟨k1.trans h1, k2.trans h2, k3.trans h3, k4.trans h4, k5.trans h5, k6.trans h6, fun j hj => (k7 j hj).trans (h7 j hj),
    fun c => (k8 c).trans (h8 c), k9.trans h9⟩

theorem State.localTo_setTile (s : State) (t : Nat) (x : Tile) : s.localTo (s.setTile t x) t :=
  ⟨rfl, rfl, rfl, rfl, rfl, rfl, fun k hk => by rw [State.tileAt_setTile, if_neg hk], fun _ => rfl, rfl⟩

theorem Firing.advance_eq (f : Firing) (n : Nat) : ∃ pc l, f.advance n = { f with pc := pc, loops := l } := ⟨_, _, rfl⟩

section
variable {s : State} {f : Firing} {cls n : Nat} {v : View}

theorem State.ran_localTo : s.localTo (s.ran f cls n v) s.tile := by
  have hc := State.charge_step s s.tile f.cx.toNat cls 1
  unfold State.ran State.writeBack
  rw [hc.tile]
  exact (hc.localTo.trans (State.localTo_setTile ..)).trans (State.charges_step ..).localTo

/-- The tile of a register instruction is the one of its view, with the firing written back and the charges made. -/
theorem State.ran_tile : ∃ m, (s.ran f cls n v).tileAt s.tile =
    { v.t with slots := v.t.slots.put s.slot (v.f.advance n), meter := m } := by
  have hc := State.charge_step s s.tile f.cx.toNat cls 1
  obtain ⟨m, hm⟩ := (State.charges_step ((s.charge s.tile f.cx.toNat cls 1).setTile s.tile
    { v.t with slots := v.t.slots.put s.slot (v.f.advance n) }) s.tile v.f.cx.toNat v.extra).own
  refine ⟨m, ?_⟩
  unfold State.ran State.writeBack
  rw [hc.tile, hc.slot]
  refine hm.trans ?_
  rw [State.tileAt_setTile_same]

theorem State.ran_astat : ((s.ran f cls n v).tileAt s.tile).astat = v.t.astat := by
  obtain ⟨m, hm⟩ := State.ran_tile (s := s) (f := f) (cls := cls) (n := n) (v := v)
  rw [hm]

theorem State.ran_tileKept (ht : { v.t with frames := [], astat := 0 } = { (s.seen f cls).t with frames := [], astat := 0 }) :
    s.tileKept (s.ran f cls n v) s.tile s.slot := by
  obtain ⟨m, hm⟩ := State.ran_tile (s := s) (f := f) (cls := cls) (n := n) (v := v)
  obtain ⟨m', hm'⟩ := s.seen_eq f cls
  rw [hm'] at ht
  refine ⟨fun j hj => ?_, ?_⟩
  · have hslots : v.t.slots = (s.tileAt s.tile).slots := (congrArg Tile.slots ht :)
    rw [hm]
    dsimp only
    rw [Map.look_put_other _ _ hj, hslots]
  · rw [hm]
    exact congrArg (fun x : Tile => { x with slots := [], meter := [], th := [] }) ht

/-- An instruction that changes its destination alone keeps everything else. -/
theorem State.ran_keeps {d : Opnd} (h : View.Changed d f (s.seen f cls).t v) : s.keeps (s.ran f cls n v) f d := by
  obtain ⟨m, hm⟩ := State.ran_tile (s := s) (f := f) (cls := cls) (n := n) (v := v)
  obtain ⟨m', hm'⟩ := s.seen_eq f cls
  have hkept := State.ran_tileKept (n := n) h.tile
  obtain ⟨hfiring, hwords, hvectors, hpayloads, htag, htile, hframes⟩ := h
  rw [hm'] at htile hframes
  obtain ⟨pc, l, hadv⟩ := v.f.advance_eq n
  refine ⟨State.ran_localTo, hkept, ?_, fun hd => ?_, v.f.advance n, State.ran_firing .., ?_, ?_⟩
  · rw [hm]
    exact (congrArg Tile.th htile :)
  · rw [hm]
    exact hframes hd
  · rw [hadv]
    exact congrArg (fun g : Firing => { g with pc := f.pc, loops := f.loops }) hfiring
  · rw [hadv]
    exact ⟨hwords, hvectors, hpayloads, htag⟩

variable {u : State} {i : Instr} {work : View → Except Trap View} (hr : s.runs f) (hi : exec i s = s.runView cls n work)
  (h : exec i s = .next u ∧ ∀ cls z, u ≠ s.trapped f cls z)
include hr hi h

/-- A register instruction that ends without a fault leaves what its work leaves. -/
theorem State.ran_of_fine {P : View → Prop} (hw : Leaves P (work (s.seen f cls))) : ∃ v, P v ∧ u = s.ran f cls n v := by
  obtain ⟨g, hg, ⟨e, -, hu⟩ | ⟨v, hv, hu⟩⟩ := State.runView_cases (hi.symm.trans h.1)
  all_goals obtain rfl : g = f := Option.some.inj (hg.symm.trans hr)
  · exact absurd hu (h.2 cls e)
  · exact ⟨v, hw v hv, hu⟩

/-- An instruction whose work sets its destination alone. -/
theorem State.keeps_of_sets {d : Opnd} (hw : ∀ v, Leaves (View.Sets d v.f v.t) (work v)) :
    s.keeps u f d ∧ (u.tileAt s.tile).astat = (s.tileAt s.tile).astat := by
  obtain ⟨v, ⟨hv, hflags⟩, rfl⟩ := State.ran_of_fine hr hi h (hw _)
  obtain ⟨m, hm⟩ := s.seen_eq f cls
  refine ⟨State.ran_keeps hv, State.ran_astat.trans (hflags.trans ?_)⟩
  rw [hm]
  rfl

/-- An instruction whose work sets its destination and adds flags. -/
theorem State.keeps_of_setsFlags {d : Opnd} (hw : ∀ v, Leaves (View.SetsFlags d v.f v.t) (work v)) :
    s.keeps u f d ∧ (u.tileAt s.tile).astat &&& (s.tileAt s.tile).astat = (s.tileAt s.tile).astat := by
  obtain ⟨v, ⟨hv, hflags⟩, rfl⟩ := State.ran_of_fine hr hi h (hw _)
  obtain ⟨m, hm⟩ := s.seen_eq f cls
  refine ⟨State.ran_keeps hv, ?_⟩
  rw [State.ran_astat]
  rw [hm] at hflags
  exact hflags

/-- An instruction whose work sets a predicate alone. -/
theorem State.kept_of_setsPred {p : BitVec 3} (hw : ∀ v, Leaves (View.SetsPred p v.f v.t) (work v)) :
    s.localTo u s.tile ∧ s.tileKept u s.tile s.slot ∧ ∃ g, u.firing s.tile s.slot = some g
      ∧ { g with pc := f.pc, loops := f.loops, p := f.p } = f
      ∧ ∀ l : BitVec 3, (l ≠ p ∨ l = 0) → g.p.getLsbD l.toNat = f.p.getLsbD l.toNat := by
  obtain ⟨v, ⟨ht, hfiring, hbits⟩, rfl⟩ := State.ran_of_fine hr hi h (hw _)
  obtain ⟨pc, l, hadv⟩ := v.f.advance_eq n
  refine ⟨State.ran_localTo, State.ran_tileKept (by rw [ht]), v.f.advance n, State.ran_firing .., ?_⟩
  rw [hadv]
  exact ⟨congrArg (fun g : Firing => { g with pc := f.pc, loops := f.loops }) hfiring, hbits⟩

/-- An instruction whose work sets a mask alone. -/
theorem State.kept_of_setsMask {k : BitVec 2} (hw : ∀ v, Leaves (View.SetsMask k v.f v.t) (work v)) :
    s.localTo u s.tile ∧ s.tileKept u s.tile s.slot ∧ ∃ g, u.firing s.tile s.slot = some g
      ∧ { g with pc := f.pc, loops := f.loops, m := f.m } = f
      ∧ ∀ l : Nat, (l ≠ k.toNat ∨ l = 0) → g.m.get 0xFFFF l = f.m.get 0xFFFF l := by
  obtain ⟨v, ⟨ht, hfiring, hmasks⟩, rfl⟩ := State.ran_of_fine hr hi h (hw _)
  obtain ⟨pc, l, hadv⟩ := v.f.advance_eq n
  refine ⟨State.ran_localTo, State.ran_tileKept (by rw [ht]), v.f.advance n, State.ran_firing .., ?_⟩
  rw [hadv]
  exact ⟨congrArg (fun g : Firing => { g with pc := f.pc, loops := f.loops }) hfiring, hmasks⟩

end

/-- Settles O57: the work of each instruction is a shared form or a short sequence of reads, and ends in a write of its destination. -/
theorem registerFrame : Obligations.RegisterFrame := by
  intro s u f d a b n q r t i j x y h e k m p p1 p2 hr fine
  refine ⟨?_, ?_, ?_, ?_⟩
  · have int {c : Instr} {d : Opnd} {cls n : Nat} {work : View → Except Trap View} (hi : exec c s = s.runView cls n work)
        (hw : ∀ v, Leaves (View.Sets d v.f v.t) (work v)) (hc : fine c) :
        s.keeps u f d ∧ (u.tileAt s.tile).astat = (s.tileAt s.tile).astat := State.keeps_of_sets hr hi hc hw
    have one {c : Instr} {d a : Opnd} {cls n : Nat} {g : W32 → W32} (hi : exec c s = s.runView cls n fun v => v.scalar1 d a g) :=
      int hi fun _ => View.scalar1_sets
    have two {c : Instr} {d a b : Opnd} {cls n : Nat} {g : W32 → W32 → W32}
        (hi : exec c s = s.runView cls n fun v => v.scalar2 d a b g) := int hi fun _ => View.scalar2_sets
    have three {c : Instr} {d a b : Opnd} {cls n : Nat} {g : W32 → W32 → W32 → W32}
        (hi : exec c s = s.runView cls n fun v => v.scalar3 d a b g) := int hi fun _ => View.scalar3_sets
    have reduce {c : Instr} {d a : Opnd} {q : BitVec 2} {cls n : Nat} {g : BitVec 16 → VBits → W32}
        (hi : exec c s = s.runView cls n fun v => v.reduce d a q g) := int hi fun _ => View.reduce_sets
    have lanes {c : Instr} {d a b : Opnd} {q : BitVec 2} {cls n : Nat} {g : W32 → W32 → W32}
        (hi : exec c s = s.runView cls n fun v => v.lanes2 d a b q g) := int hi fun _ => View.lanes2_sets
    simp only [List.forall_mem_cons]
    exact ⟨two rfl, two rfl, one rfl, two rfl, two rfl, two rfl, two rfl, two rfl, two rfl, two rfl, two rfl, two rfl, two rfl, two rfl,
      two rfl, two rfl, one rfl, one rfl, one rfl, two rfl, two rfl, one rfl, one rfl, one rfl, two rfl, two rfl, three rfl, three rfl,
      int (exec_mov d a q s) fun _ => View.move_sets, int (exec_li d h s) fun _ => View.put_sets rfl rfl _, one rfl, two rfl, three rfl,
      int (show execMpop d q s = _ from rfl) fun _ => View.put_sets rfl rfl _,
      int (show execMfirst d q s = _ from rfl) fun _ => View.put_sets rfl rfl _, int (exec_tget d a q x s) fun _ => View.tokenWord_sets,
      int (exec_cMov x y s) fun _ => View.move_sets, int (exec_cLi x y s) fun _ => View.put_sets rfl rfl _, two (exec_cAdd x y s),
      two (exec_cSub x y s), one (exec_cAddi x y s), two (exec_cAnd x y s), two (exec_cOr x y s), two (exec_cXor x y s),
      one (exec_cShli x y s), one (exec_cShri x y s), int (exec_cTget x y s) fun _ => View.tokenWord_sets,
      int (show execVbcast d a b q s = _ from rfl) fun _ => .bind fun _ => .bind fun _ => View.billed_sets,
      int (show execVext d a b s = _ from rfl) fun _ => .bind fun _ => .bind fun _ => View.put_sets rfl rfl _,
      int (show execVins d a b s = _ from rfl) fun _ => .bind fun _ => .bind fun _ => View.insertLane_sets,
      int (show execVperm d a b q s = _ from rfl) fun _ => .bind fun _ => .bind fun _ => View.billed_sets,
      int (show execVrotl d a b q s = _ from rfl) fun _ => .bind fun _ => .bind fun _ => View.billed_sets, reduce rfl, reduce rfl,
      reduce rfl, int (show execTset d a k s = _ from rfl) fun _ => View.insertLane_sets,
      int (show execVsel d a b q s = _ from rfl) fun _ => View.whole2_sets,
      int (show execVunpk d a b e s = _ from rfl) fun _ => .bind fun _ => .bind fun _ => View.vput_sets rfl rfl _ _ _, lanes rfl,
      lanes rfl, lanes rfl,
      int (show execVmad d a b q s = _ from rfl) fun _ => .bind fun _ => .bind fun _ => .bind fun _ => View.vput_sets rfl rfl _ _ _,
      lanes rfl, lanes rfl, lanes rfl, lanes rfl, lanes rfl, lanes rfl, lanes rfl, lanes rfl, List.forall_mem_nil _⟩
  · have float {c : Instr} {d : Opnd} {cls n : Nat} {work : View → Except Trap View} (hi : exec c s = s.runView cls n work)
        (hw : ∀ v, Leaves (View.SetsFlags d v.f v.t) (work v)) (hc : fine c) :
        s.keeps u f d ∧ (u.tileAt s.tile).astat &&& (s.tileAt s.tile).astat = (s.tileAt s.tile).astat :=
      State.keeps_of_setsFlags hr hi hc hw
    simp only [List.forall_mem_cons]
    exact ⟨float (exec_vfadd d a b q s) fun _ => View.addSub_sets, float (exec_vfsub d a b q s) fun _ => View.addSub_sets,
      float (exec_vfmul d a b q s) fun _ => View.times_sets, float (exec_vfma d a b q s) fun _ => View.multiplyAdd_sets,
      float (show execVfmin d a b q s = _ from rfl) fun _ => View.float2_sets,
      float (show execVfmax d a b q s = _ from rfl) fun _ => View.float2_sets,
      float (show execVfrcp d a q s = _ from rfl) fun _ => View.float1_sets,
      float (show execVfdiv d a b q s = _ from rfl) fun _ => View.float2_sets,
      float (show execVfexp2 d a q s = _ from rfl) fun _ => View.float1_sets,
      float (show execVflrp d a b q s = _ from rfl) fun _ => View.float3_sets,
      float (show execVhmul d a b q s = _ from rfl) fun _ => View.float2_sets,
      float (show execVbfma d a b q s = _ from rfl) fun _ => View.float3_sets,
      float (show execFadd d a b s = _ from rfl) fun _ => View.scalarFloat_sets,
      float (show execFmul d a b s = _ from rfl) fun _ => View.scalarFloat_sets,
      float (show execFfma d a b s = _ from rfl) fun _ => .bind fun _ => .bind fun _ => .bind fun _ =>
        View.put_setsFlags (u := View.flag _ _) rfl rfl _,
      float (show execCvtF2i d a r s = _ from rfl) fun _ => View.convert1_sets,
      float (show execCvtI2f d a r s = _ from rfl) fun _ => View.convert1_sets,
      float (show execCvtF2h d a b r s = _ from rfl) fun _ => View.convert2_sets,
      float (show execCvtH2f d a n r s = _ from rfl) fun _ => View.convertHalf_sets,
      float (show execCvtF2q d a n s = _ from rfl) fun _ => .bind fun _ => .bind fun _ =>
        View.vput_setsFlags (u := View.flag _ _) rfl rfl _ _ _,
      float (show execHfwd d a b s = _ from rfl) fun _ => .bind fun _ => .bind fun _ => .bind fun _ => .ite (.error _)
        (View.vput_setsFlags (u := (View.flag _ _).withExtra _) rfl rfl _ _ _),
      float (show execHinv d a s = _ from rfl) fun _ => .bind fun _ => View.vput_setsFlags (u := (View.flag _ _).withExtra _) rfl rfl _ _ _,
      float (show execHthr d a b s = _ from rfl) fun _ => .bind fun _ => .bind fun _ => View.whole_setsFlags,
      float (show execHpack d a b s = _ from rfl) fun _ => .bind fun _ => .bind fun _ => View.whole_setsFlags,
      float (show execHunpk d a b s = _ from rfl) fun _ => .bind fun _ => .bind fun _ => .bind fun _ => View.whole_setsFlags,
      float (show execHtag d a b s = _ from rfl) fun _ => .bind fun _ => .bind fun _ => .bind fun _ => View.whole_setsFlags,
      float (show execHqry d a s = _ from rfl) fun _ => .bind fun _ => fun w hw => .of_sets (View.put_sets rfl rfl _ w hw),
      float (exec_cVfadd k m s) fun _ => View.addSub_sets, float (exec_cVfmul k m s) fun _ => View.times_sets,
      float (exec_cVfma k m s) fun _ => View.multiplyAdd_sets, List.forall_mem_nil _⟩
  · have compare {c : Instr} {a b : Opnd} {cls n : Nat} {g : W32 → W32 → Bool}
        (hi : exec c s = s.runView cls n fun v => v.predicate p a b g) (hc : fine c) :=
      State.kept_of_setsPred hr hi hc fun v => v.predicate_sets p a b g
    simp only [List.forall_mem_cons]
    exact ⟨compare rfl, compare rfl, compare rfl, compare rfl, compare rfl, compare rfl, compare rfl, compare rfl,
      fun hc => State.kept_of_setsPred (i := .plog p p1 p2 k) hr (show execPlog p p1 p2 k s = _ from rfl) hc
        fun _ => .ok (View.setPred_sets ..), List.forall_mem_nil _⟩
  · have compare {c : Instr} {a b : Opnd} {g : W32 → W32 → Bool} (hi : exec c s = s.runView 7 2 fun v => v.compareLanes t a b q g)
        (hc : fine c) := State.kept_of_setsMask hr hi hc fun v => v.compareLanes_sets t a b q g
    simp only [List.forall_mem_cons]
    exact ⟨compare rfl, compare rfl, compare rfl, compare rfl, compare rfl, compare rfl, compare rfl, compare rfl,
      fun hc => State.kept_of_setsMask (i := .mlog t q r k) hr (show execMlog t q r k s = _ from rfl) hc
        fun _ => .ok (View.setMask_sets ..), List.forall_mem_nil _⟩

end Sys2Proof.Machine
end

section
/-! PROOF. Quotients and roots rounded to nearest (R78, R151). -/

namespace Sys2Proof.Machine

/-! ## Real values in places of 2^g -/

/-- The real value `(-1)^s·m·2^e`. -/
noncomputable def realVal (s : Bool) (m : Nat) (e : Int) : ℝ := (if s then -1 else 1) * (m : ℝ) * (2 : ℝ) ^ e

/-- A sign as a real factor. -/
noncomputable def realSign (s : Bool) : ℝ := signFactor s

theorem realVal_eq_cast (s : Bool) (m : Nat) (e : Int) : realVal s m e = finVal s m e := by
  cases s <;> simp [realVal, finVal]

theorem realVal_eq (s : Bool) (m : Nat) (e : Int) : realVal s m e = realSign s * (m : ℝ) * 2 ^ e := by
  cases s <;> simp [realVal, realSign, signFactor]

theorem abs_realSign (s : Bool) : |realSign s| = 1 := by cases s <;> simp [realSign, signFactor]

theorem realSign_div (s t : Bool) : realSign s / realSign t = realSign (s != t) := by
  cases s <;> cases t <;> simp [realSign, signFactor]

theorem abs_realSign_scaled (s : Bool) (g : Int) (a b : ℝ) :
    |realSign s * a * 2 ^ g - realSign s * b * 2 ^ g| = |a - b| * 2 ^ g := by
  rw [← sub_mul, ← mul_sub, abs_mul, abs_mul, abs_realSign, one_mul, abs_of_pos (by positivity : (0 : ℝ) < 2 ^ g)]

/-- An integer at most half away from a value is as near as any other. -/
theorem abs_sub_le_of_half {V : ℝ} {k : Int} (hk : |(k : ℝ) - V| ≤ 1 / 2) (j : Int) : |(k : ℝ) - V| ≤ |(j : ℝ) - V| := by
  by_cases hj : j = k
  · rw [hj]
  · have hapart : (1 : ℝ) ≤ |(j : ℝ) - k| := by exact_mod_cast Int.one_le_abs (sub_ne_zero.mpr hj)
    have htri : |(j : ℝ) - k| ≤ |(j : ℝ) - V| + |(k : ℝ) - V| := by
      rw [abs_sub_comm (k : ℝ)]
      exact abs_sub_le ..
    linarith

/-- A multiple of the last place at most half a place away from a value is as near to it as any F32 value. -/
theorem places_nearest (s : Bool) {V : ℝ} {k : Nat} {g : Int} (hk : |(k : ℝ) - V| ≤ 1 / 2) (hlow : g ≠ -149 → 2 ^ 23 ≤ V)
    {x : W32} {sx : Bool} {mx : Nat} {ex : Int} (hx : unF32 x = .fin sx mx ex) :
    |realSign s * k * 2 ^ g - realSign s * V * 2 ^ g| ≤ |realVal sx mx ex - realSign s * V * 2 ^ g| := by
  obtain ⟨hmx, hex⟩ := unF32_fin_bounds hx
  obtain ⟨X, hX, hkind⟩ := places_of_f32 s sx (ex := ex) hmx g
  have hXr : realVal sx mx ex = realSign s * X * 2 ^ g := by
    rw [realVal_eq_cast, hX]
    push_cast
    rfl
  have hnear (j : Int) : |(k : ℝ) - V| ≤ |(j : ℝ) - V| := abs_sub_le_of_half (k := k) hk j
  rw [hXr, abs_realSign_scaled, abs_realSign_scaled]
  refine mul_le_mul_of_nonneg_right ?_ (by positivity)
  rcases hkind with ⟨j, rfl⟩ | ⟨hlt, hsmall⟩
  · simpa using hnear j
  · -- A value below 2^23 places lies beyond 2^23 itself.
    have hV : (2 : ℝ) ^ 23 ≤ V := hlow (by omega)
    have hXV : (X : ℝ) < 2 ^ 23 := by exact_mod_cast hsmall
    have h23 : |(k : ℝ) - V| ≤ |(2 : ℝ) ^ 23 - V| := by exact_mod_cast hnear ((2 ^ 23 : Nat) : Int)
    rw [abs_of_nonpos (by linarith : (2 : ℝ) ^ 23 - V ≤ 0)] at h23
    rw [abs_of_nonpos (by linarith : (X : ℝ) - V ≤ 0)]
    linarith

/-! ## Rounding with a sticky bit -/

/-- `V` is the exact value of which `m` are the leading bits: `m` itself, or with the sticky bit between `m` and `m + 1`. -/
def LeadingBits (V : ℝ) (m : Nat) (sticky : Bool) : Prop := if sticky then (m : ℝ) ≤ V ∧ V ≤ m + 1 else V = m

/-- Where a place is `2·N` units, a multiple of it at most half a place from the midpoint of `m` and `m + 1` is at most half a place from
every value between them. -/
theorem half_places_around {m k N : Nat} (h : |(k : ℝ) * (2 * N) - (m + 1 / 2)| ≤ N) {V : ℝ} (hlo : (m : ℝ) ≤ V) (hhi : V ≤ m + 1) :
    |(k : ℝ) * (2 * N) - V| ≤ N := by
  rw [abs_le] at h ⊢
  obtain ⟨h1, h2⟩ := h
  have hm : k * (2 * N) ≤ m + N := by
    have : ((k * (2 * N) : Nat) : ℝ) < ((m + N + 1 : Nat) : ℝ) := by push_cast; linarith
    exact Nat.lt_succ_iff.mp (by exact_mod_cast this)
  have hm1 : m + 1 ≤ k * (2 * N) + N := by
    have : ((m : Nat) : ℝ) < ((k * (2 * N) + N : Nat) : ℝ) := by push_cast; linarith
    exact Nat.succ_le_of_lt (by exact_mod_cast this)
  have hmr : (k : ℝ) * (2 * N) ≤ m + N := by exact_mod_cast hm
  have hm1r : (m : ℝ) + 1 ≤ k * (2 * N) + N := by exact_mod_cast hm1
  constructor <;> linarith

/-- What `roundFin` gives of a finite F32 result: a multiple of the last place, at most half a place away. -/
theorem roundFin_f32_half_place (s : Bool) {m : Nat} (hm : m ≠ 0) (e : Int) {sr : Bool} {mr : Nat} {er : Int}
    (hr : unpack f32 (roundFin f32 0 s m e).1 = .fin sr mr er) : ∃ k : Nat,
      realVal sr mr er = realSign s * k * 2 ^ lastPlace m e ∧ |(k : ℝ) - m * 2 ^ (e - lastPlace m e)| ≤ 1 / 2
        ∧ (lastPlace m e ≠ -149 → (2 : ℝ) ^ 23 ≤ m * 2 ^ (e - lastPlace m e)) := by
  obtain ⟨q, t, h0, h1, hv, hval, -, -, hge⟩ := roundFin_f32_finite s hm e hr
  have hqt : (q : ℚ) + t = m * 2 ^ (e - lastPlace m e) := by
    rw [finVal_places s m e (lastPlace m e), mul_left_inj' (by positivity), mul_right_inj' (signFactor_ne_zero s)] at hv
    exact hv.symm
  have herr := (roundMag_error (q := q) h0 h1 s).1
  rw [hqt] at herr hge
  refine ⟨roundMag 0 s q t, ?_, ?_, fun h => ?_⟩
  · rw [realVal_eq_cast, hval]
    push_cast
    rfl
  · have h := (Rat.cast_le (K := ℝ)).mpr herr
    push_cast at h
    exact h
  · have h := (Rat.cast_le (K := ℝ)).mpr (hge h)
    push_cast at h
    exact h

section
variable {e g : Int} {n : Nat} (hn : g - e - 1 = n)
include hn

/-- A unit in places of `2·2^n` units. -/
theorem zpow_unit : (2 : ℝ) ^ (e - g) = 1 / (2 * (2 ^ n : Nat)) := by
  rw [show e - g = -((n : Int) + 1) by omega, zpow_neg, zpow_add_one₀ (by norm_num), zpow_natCast]
  push_cast
  rw [one_div, mul_comm]

/-- Half a place in units. -/
theorem abs_sub_places_le_half_iff (a b : ℝ) :
    |a - b * 2 ^ (e - g)| ≤ 1 / 2 ↔ |a * (2 * (2 ^ n : Nat)) - b| ≤ (2 ^ n : Nat) := by
  rw [zpow_unit hn, show a - b * (1 / (2 * ((2 ^ n : Nat) : ℝ))) = (a * (2 * (2 ^ n : Nat)) - b) / (2 * (2 ^ n : Nat)) by field_simp,
    abs_div, abs_of_pos (by positivity : (0 : ℝ) < 2 * (2 ^ n : Nat)), div_le_iff₀ (by positivity)]
  ring_nf

/-- A whole number of places that is not above the midpoint of `m` and `m + 1` is not above `m`. -/
theorem le_places_of_le_midpoint {c m : Nat} (h : (c : ℝ) ≤ (m + 1 / 2) * 2 ^ (e - g)) {V : ℝ} (hV : (m : ℝ) ≤ V) :
    (c : ℝ) ≤ V * 2 ^ (e - g) := by
  rw [zpow_unit hn, mul_one_div, le_div_iff₀ (by positivity)] at h ⊢
  have hm : c * (2 * 2 ^ n) ≤ m := by
    have : ((c * (2 * 2 ^ n) : Nat) : ℝ) < ((m + 1 : Nat) : ℝ) := by push_cast at h ⊢; linarith
    exact Nat.lt_succ_iff.mp (by exact_mod_cast this)
  calc (c : ℝ) * (2 * (2 ^ n : Nat)) ≤ m := by exact_mod_cast hm
    _ ≤ V := hV

end

/-- A finite F32 result of leading bits and a sticky bit is as near to the exact value as any F32 value: no midpoint of two F32
values lies between two numbers of 25 bits or more that follow each other. -/
theorem roundSticky_f32_nearest (s : Bool) {m : Nat} (hm : 2 ^ 24 ≤ m) (e : Int) {sticky : Bool} {V : ℝ} (hV : LeadingBits V m sticky)
    {sr : Bool} {mr : Nat} {er : Int} (hr : unpack f32 (roundSticky f32 0 s m e sticky).1 = .fin sr mr er)
    {x : W32} {sx : Bool} {mx : Nat} {ex : Int} (hx : unF32 x = .fin sx mx ex) :
    |realVal sr mr er - realSign s * V * 2 ^ e| ≤ |realVal sx mx ex - realSign s * V * 2 ^ e| := by
  have hplaces (g : Int) : realSign s * V * 2 ^ e = realSign s * (V * 2 ^ (e - g)) * 2 ^ g := by
    rw [mul_assoc, mul_assoc, mul_assoc, ← zpow_add₀ (by norm_num), sub_add_cancel]
  cases sticky with
  | false =>
    obtain rfl : V = m := hV
    obtain ⟨k, hk, hhalf, hlow⟩ := roundFin_f32_half_place s (by omega) e hr
    rw [hk, hplaces (lastPlace m e)]
    exact places_nearest s hhalf hlow hx
  | true =>
    obtain ⟨hlo, hhi⟩ : (m : ℝ) ≤ V ∧ V ≤ m + 1 := hV
    obtain ⟨k, hk, hhalf, hlow⟩ := roundFin_f32_half_place s (m := 2 * m + 1) (by omega) (e - 1) hr
    have hlog : 25 ≤ Nat.log2 (2 * m + 1) := (Nat.le_log2 (by omega)).mpr (by omega)
    have hg : e < lastPlace (2 * m + 1) (e - 1) := by unfold lastPlace; omega
    generalize lastPlace (2 * m + 1) (e - 1) = g at *
    obtain ⟨n, hn⟩ := Int.eq_ofNat_of_zero_le (by omega : 0 ≤ g - e - 1)
    have hmid : ((2 * m + 1 : Nat) : ℝ) * 2 ^ (e - 1 - g) = (m + 1 / 2) * 2 ^ (e - g) := by
      rw [show e - 1 - g = e - g - 1 by omega, zpow_sub_one₀ (by norm_num)]
      push_cast
      ring
    rw [hmid, abs_sub_places_le_half_iff hn] at hhalf
    rw [hmid] at hlow
    rw [hk, hplaces g]
    refine places_nearest s ((abs_sub_places_le_half_iff hn _ _).mpr (half_places_around hhalf hlo hhi)) (fun hne => ?_) hx
    exact_mod_cast le_places_of_le_midpoint hn (c := 2 ^ 23) (by exact_mod_cast hlow hne) hlo

end Sys2Proof.Machine
end

section
/-! PROOF. What the lane-wise functions compute (R149 to R155). -/

namespace Sys2Proof.Machine

/-! ## Leading bits of quotients and roots -/

theorem cast_div_bounds (t : Nat) {d : Nat} (hd : 0 < d) : ((t / d : Nat) : ℝ) ≤ t / d ∧ (t : ℝ) / d ≤ (t / d : Nat) + 1 := by
  refine ⟨Nat.cast_div_le, ?_⟩
  rw [div_le_iff₀ (by exact_mod_cast hd), mul_comm]
  exact_mod_cast (Nat.lt_mul_div_succ t hd).le

theorem leadingBits_div (t : Nat) {d : Nat} (hd : 0 < d) : LeadingBits ((t : ℝ) / d) (t / d) (decide (t % d ≠ 0)) := by
  by_cases h : t % d = 0
  · rw [decide_eq_false (not_not.mpr h)]
    exact (Nat.cast_div (Nat.dvd_of_mod_eq_zero h) (by exact_mod_cast hd.ne')).symm
  · rw [decide_eq_true h]
    exact cast_div_bounds t hd

/-- The root's bits from bit `k` down are right when those above are. -/
theorem isqrtFrom_spec (n k acc : Nat) (hlo : acc * acc ≤ n) (hhi : n < (acc + 2 ^ (k + 1)) * (acc + 2 ^ (k + 1))) :
    isqrtFrom n k acc * isqrtFrom n k acc ≤ n ∧ n < (isqrtFrom n k acc + 1) * (isqrtFrom n k acc + 1) := by
  induction k generalizing acc with
  | zero =>
    unfold isqrtFrom
    split
    · next h => exact ⟨h, hhi⟩
    · next h => exact ⟨hlo, Nat.lt_of_not_le h⟩
  | succ j ih =>
    unfold isqrtFrom
    dsimp only
    split
    · next h => exact ih _ h (by rwa [add_assoc, ← two_mul, ← pow_succ'])
    · next h => exact ih _ hlo (Nat.lt_of_not_le h)

theorem isqrt_eq_sqrt (n : Nat) : isqrt n = Nat.sqrt n := by
  refine Nat.eq_sqrt.mpr (isqrtFrom_spec n _ 0 (Nat.zero_le n) ?_)
  calc n < 2 ^ (Nat.log2 n + 1) := Nat.lt_log2_self
    _ ≤ 2 ^ ((Nat.log2 n / 2 + 2) + (Nat.log2 n / 2 + 2)) := Nat.pow_le_pow_right (by decide) (by omega)
    _ = _ := by rw [pow_add, zero_add]

/-- The leading bits of a root are the integer root of the leading bits. -/
theorem leadingBits_sqrt {x : ℝ} {n : Nat} (hlo : (n : ℝ) ≤ x) (hhi : x ≤ n + 1) {p : Prop} [Decidable p]
    (hp : ¬p → x = isqrt n * isqrt n) : LeadingBits (√x) (isqrt n) (decide p) := by
  by_cases h : p
  · rw [decide_eq_true h, isqrt_eq_sqrt]
    have hsq : ((Nat.sqrt n * Nat.sqrt n : Nat) : ℝ) ≤ n := Nat.cast_le.mpr (Nat.sqrt_le n)
    have hsucc : ((n + 1 : Nat) : ℝ) ≤ ((Nat.sqrt n + 1) * (Nat.sqrt n + 1) : Nat) := Nat.cast_le.mpr (Nat.lt_succ_sqrt n)
    push_cast at hsq hsucc
    exact ⟨Real.le_sqrt_of_sq_le (by nlinarith), Real.sqrt_le_iff.mpr ⟨by positivity, by nlinarith⟩⟩
  · rw [decide_eq_false h, hp h]
    exact Real.sqrt_mul_self (Nat.cast_nonneg _)

theorem two_pow_24_le_isqrt {n : Nat} (h : 2 ^ 48 ≤ n) : 2 ^ 24 ≤ isqrt n := by
  rw [isqrt_eq_sqrt, Nat.le_sqrt]
  exact h

theorem sqrt_mul_two_zpow {a : ℝ} (ha : 0 ≤ a) (j : Int) : √(a * 2 ^ (2 * j)) = √a * 2 ^ j := by
  rw [Real.sqrt_mul ha, two_mul, zpow_add₀ (by norm_num), Real.sqrt_mul_self (by positivity)]

/-! ## Division and roots are rounded to nearest (R151) -/

theorem unF32_word32 (p : Nat × Flags) : unF32 (word32 p).1 = unpack f32 p.1 := by
  change unpack f32 (p.1 % 2 ^ 32) = _
  rw [unpack_f32, unpack_f32, show p.1 % 2 ^ 32 / 2 ^ 31 % 2 = p.1 / 2 ^ 31 % 2 by omega,
    show p.1 % 2 ^ 32 / 2 ^ 23 % 256 = p.1 / 2 ^ 23 % 256 by omega, show p.1 % 2 ^ 32 % 2 ^ 23 = p.1 % 2 ^ 23 by omega]

theorem divRound_f32 (s : Bool) (n d : Nat) (e : Int) : divRound f32 0 s n d e =
    let k := Nat.log2 d + 54
    roundSticky f32 0 s (n * 2 ^ k / d) (e - k) (decide (n * 2 ^ k % d ≠ 0)) := by
  have hk : Nat.log2 d + 2 * 23 + 8 = Nat.log2 d + 54 := rfl
  simp only [divRound, f32_fbits, hk]

/-- A root is taken of a multiple of an even power of two. -/
theorem sqrtFmt_fin {m : Nat} (hm : m ≠ 0) (e : Int) : ∃ (k : Nat) (j : Int), 54 ≤ k ∧ e = 2 * j + k
    ∧ let n := m * 2 ^ k
      sqrtFmt f32 (.fin false m e) = roundSticky f32 0 false (isqrt n) j (decide (isqrt n * isqrt n ≠ n)) := by
  obtain ⟨k, hk⟩ : ∃ k : Nat, k = 2 * 23 + 8 + (if e % 2 = 0 then 0 else 1) := ⟨_, rfl⟩
  have heven : (e - k) % 2 = 0 := by rw [hk]; split <;> push_cast <;> omega
  refine ⟨k, (e - k) / 2, by omega, by omega, ?_⟩
  simp only [sqrtFmt, if_neg hm, f32_fbits, ← hk, heven, if_true, add_zero, Bool.false_eq_true, if_false]

/-- So is a reciprocal root. -/
theorem rsqFmt_fin {m : Nat} (hm : m ≠ 0) (e : Int) : ∃ (a : Nat) (j : Int), a ≠ 0 ∧ realVal false m e = a * 2 ^ (2 * j)
    ∧ let k := Nat.log2 a + 54
      let n := 2 ^ (2 * k) / a
      rsqFmt f32 (.fin false m e) = roundSticky f32 0 false (isqrt n) (-k - j) (decide (isqrt n * isqrt n * a ≠ 2 ^ (2 * k))) := by
  have half (k : Nat) : 2 * k / 2 = k := Nat.mul_div_cancel_left k (by decide)
  have unfolded : rsqFmt f32 (.fin false m e) =
      let p : Nat × Int := if e % 2 = 0 then (m, e) else (2 * m, e - 1)
      let k := 2 * (Nat.log2 p.1 + 54)
      let n := 2 ^ k / p.1
      roundSticky f32 0 false (isqrt n) (-(k / 2 : Nat) - p.2 / 2) (decide (isqrt n * isqrt n * p.1 ≠ 2 ^ k)) := if_neg hm
  by_cases he : e % 2 = 0
  · refine ⟨m, e / 2, hm, ?_, ?_⟩
    · rw [show 2 * (e / 2) = e by omega]; simp [realVal]
    · rw [unfolded, if_pos he]; simp only [half]
  · refine ⟨2 * m, (e - 1) / 2, by omega, ?_, ?_⟩
    · rw [show 2 * ((e - 1) / 2) = e - 1 by omega, zpow_sub_one₀ (by norm_num)]; simp [realVal]; ring
    · rw [unfolded, if_neg he]; simp only [half]

section
variable {r u : W32} {sr su : Bool} {mr mu : Nat} {er eu : Int} (hr : unF32 r = .fin sr mr er) (hu : unF32 u = .fin su mu eu)
include hr hu

/-- The word of a rounding of leading bits is as near to the exact value as any F32 word. -/
theorem word32_roundSticky_nearest (s : Bool) {m : Nat} (hm : 2 ^ 24 ≤ m) (e : Int) {sticky : Bool} {V : ℝ} (hV : LeadingBits V m sticky)
    (h : (word32 (roundSticky f32 0 s m e sticky)).1 = r) :
    |realVal sr mr er - realSign s * V * 2 ^ e| ≤ |realVal su mu eu - realSign s * V * 2 ^ e| := by
  subst h
  rw [unF32_word32] at hr
  exact roundSticky_f32_nearest s hm e hV hr hu

theorem divFmt_nearest (sx sy : Bool) {mx my : Nat} (hmx : mx ≠ 0) (hmy : my ≠ 0) (ex ey : Int)
    (h : (word32 (divFmt f32 (.fin sx mx ex) (.fin sy my ey))).1 = r) :
    |realVal sr mr er - realVal sx mx ex / realVal sy my ey| ≤ |realVal su mu eu - realVal sx mx ex / realVal sy my ey| := by
  have hdiv : divFmt f32 (.fin sx mx ex) (.fin sy my ey) = divRound f32 0 (sx != sy) mx my (ex - ey) := by
    simp only [divFmt, if_neg hmx, if_neg hmy]
  rw [hdiv, divRound_f32] at h
  dsimp only at h
  generalize hk : Nat.log2 my + 54 = k at h
  have hbits : 2 ^ 24 ≤ mx * 2 ^ k / my := by
    rw [Nat.le_div_iff_mul_le (Nat.pos_of_ne_zero hmy)]
    calc 2 ^ 24 * my ≤ 2 ^ 24 * 2 ^ (Nat.log2 my + 1) := Nat.mul_le_mul_left _ Nat.lt_log2_self.le
      _ ≤ 2 ^ k := by rw [← pow_add]; exact Nat.pow_le_pow_right (by decide) (by omega)
      _ ≤ mx * 2 ^ k := Nat.le_mul_of_pos_left _ (Nat.pos_of_ne_zero hmx)
  have hval : realVal sx mx ex / realVal sy my ey = realSign (sx != sy) * (((mx * 2 ^ k : Nat) : ℝ) / my) * 2 ^ (ex - ey - k) := by
    rw [realVal_eq, realVal_eq, ← realSign_div, zpow_sub₀ (by norm_num), zpow_sub₀ (by norm_num), zpow_natCast]
    push_cast
    field_simp
  rw [hval]
  exact word32_roundSticky_nearest hr hu _ hbits _ (leadingBits_div _ (Nat.pos_of_ne_zero hmy)) h

theorem sqrtFmt_nearest {m : Nat} (hm : m ≠ 0) (e : Int) (h : (word32 (sqrtFmt f32 (.fin false m e))).1 = r) :
    |realVal sr mr er - √(realVal false m e)| ≤ |realVal su mu eu - √(realVal false m e)| := by
  obtain ⟨k, j, hk, rfl, hsqrt⟩ := sqrtFmt_fin hm e
  have hbits : 2 ^ 48 ≤ m * 2 ^ k := calc
    2 ^ 48 ≤ 2 ^ k := Nat.pow_le_pow_right (by decide) (by omega)
    _ ≤ m * 2 ^ k := Nat.le_mul_of_pos_left _ (Nat.pos_of_ne_zero hm)
  have hval : √(realVal false m (2 * j + k)) = realSign false * √((m * 2 ^ k : Nat) : ℝ) * 2 ^ j := by
    rw [show realVal false m (2 * j + k) = ((m * 2 ^ k : Nat) : ℝ) * 2 ^ (2 * j) by
      rw [realVal, zpow_add₀ (by norm_num), zpow_natCast]; push_cast; simp; ring,
      sqrt_mul_two_zpow (Nat.cast_nonneg _), show realSign false = 1 by simp [realSign, signFactor], one_mul]
  rw [hsqrt] at h
  rw [hval]
  refine word32_roundSticky_nearest hr hu _ (two_pow_24_le_isqrt hbits) _ (leadingBits_sqrt le_rfl (by linarith) fun hp => ?_) h
  exact_mod_cast (not_not.mp hp).symm

theorem rsqFmt_nearest {m : Nat} (hm : m ≠ 0) (e : Int) (h : (word32 (rsqFmt f32 (.fin false m e))).1 = r) :
    |realVal sr mr er - 1 / √(realVal false m e)| ≤ |realVal su mu eu - 1 / √(realVal false m e)| := by
  obtain ⟨a, j, ha, hv, hrsq⟩ := rsqFmt_fin hm e
  have hpos : 0 < a := Nat.pos_of_ne_zero ha
  have hreal : (0 : ℝ) < a := Nat.cast_pos.mpr hpos
  dsimp only at hrsq
  generalize hk : Nat.log2 a + 54 = k at hrsq
  have hbits : 2 ^ 48 ≤ 2 ^ (2 * k) / a := by
    rw [Nat.le_div_iff_mul_le hpos, two_mul, pow_add]
    exact Nat.mul_le_mul (Nat.pow_le_pow_right (by decide) (by omega))
      (Nat.lt_log2_self.le.trans (Nat.pow_le_pow_right (by decide) (by omega)))
  have hval : 1 / √(realVal false m e) = realSign false * √(((2 ^ (2 * k) : Nat) : ℝ) / a) * 2 ^ (-(k : Int) - j) := by
    rw [hv, sqrt_mul_two_zpow hreal.le, Real.sqrt_div (Nat.cast_nonneg _),
      show ((2 ^ (2 * k) : Nat) : ℝ) = 1 * 2 ^ (2 * (k : Int)) by rw [zpow_mul, zpow_natCast]; push_cast; rw [pow_mul]; simp,
      sqrt_mul_two_zpow zero_le_one, Real.sqrt_one, show realSign false = 1 by simp [realSign, signFactor],
      zpow_sub₀ (by norm_num), zpow_neg]
    have := (Real.sqrt_pos.mpr hreal).ne'
    field_simp
  obtain ⟨hlo, hhi⟩ := cast_div_bounds (2 ^ (2 * k)) hpos
  rw [hrsq] at h
  rw [hval]
  refine word32_roundSticky_nearest hr hu _ (two_pow_24_le_isqrt hbits) _ (leadingBits_sqrt hlo hhi fun hp => ?_) h
  rw [div_eq_iff hreal.ne']
  exact_mod_cast (not_not.mp hp).symm

end

/-! ## Lane-wise functions of spatial values (R149 to R155) -/

/-- The work of a form with one source whose values can be read. -/
theorem View.float1_eq {v : View} {d a : Opnd} {q : BitVec 2} {g : W32 → W32 × Flags} {x : VBits}
    (hx : v.valueOf (decide (v.mask q.toNat ≠ 0)) a = .ok x) :
    let r := laneResults (v.mask q.toNat) fun l => g (lane x l)
    v.float1 d a q g = ((v.billIf (decide (v.mask q.toNat ≠ 0)) [a]).flag r.2).vput d (v.mask q.toNat) { bits := r.1 } [a] :=
  bind_of_ok hx _

theorem State.computes_float1 {s : State} {f : Firing} {d a : Opnd} {q : BitVec 2} {x : VBits} (hr : s.runs f)
    (hx : (s.view f).valueOf (decide ((s.view f).mask q.toNat ≠ 0)) a = .ok x)
    (ht : (s.view f).vtakes d ((s.view f).mask q.toNat) 0 = true) {i : Instr} {cls n : Nat} {g : W32 → W32 × Flags}
    {work : View → Except Trap View} (hi : exec i s = s.runView cls n work) (hw : work (s.seen f cls) = (s.seen f cls).float1 d a q g) :
    s.Computes f d q i cls n [a] fun l => g (lane x l) := by
  rw [← s.seen_valueOf f cls] at hx
  exact State.computes_of_vput hr ht hi (hw.trans (View.float1_eq hx))

/-- Settles O19: each instruction is a form of one, two or three sources, and a quotient or a root is rounded from its leading bits
and a sticky bit. -/
theorem vectorFunctions : Obligations.VectorFunctions := by
  refine ⟨fun s f d a b q x y z n hr => ?_, fun x y r u sx sy sr su mx my mr mu ex ey er eu hx hy hu hmx hmy hr => ⟨?_, ?_, ?_⟩⟩
  · intro m live done runs1 runs2 runs3 hx ht
    have one {i : Instr} {cls : Nat} {g : W32 → W32 × Flags} (hi : exec i s = s.runView cls 2 fun v => v.float1 d a q g) :
        runs1 i cls g := State.computes_float1 hr hx ht hi rfl
    refine ⟨one (g := fun u => (absF u, 0)) rfl, one (g := fun u => word32 (divFmt f32 (unF32 0x3F800000) (unF32 u))) rfl,
      one (g := fun u => word32 (rsqFmt f32 (unF32 u))) rfl, one (g := fun u => word32 (sqrtFmt f32 (unF32 u))) rfl,
      one (g := exp2F) rfl, one (g := log2F) rfl, one (g := sinPiF) rfl, one (g := tanhF) rfl, one (g := sigF) rfl,
      fun hn => ?_, fun hy => ?_⟩
    · obtain ⟨x', hx'⟩ := View.valueOf_stored hx
      refine State.computes_float1 hr hx ht (show execVfrnd d a b q s = _ from rfl) ?_
      exact (bind_of_ok ((s.seen_valueOf ..).trans hx') _).trans (bind_of_ok ((s.seen_src ..).trans hn) _)
    · have two {i : Instr} {cls : Nat} {g : W32 → W32 → W32 × Flags} (hi : exec i s = s.runView cls 2 fun v => v.float2 d a b q g) :
          runs2 i cls g := State.computes_float2 hr hx hy ht hi rfl
      refine ⟨two (g := minF) rfl, two (g := maxF) rfl, two (g := fun u v => word32 (divFmt f32 (unF32 u) (unF32 v))) rfl,
        two (g := fun u v => onHalves fun k => mulFmt h16 0 (halfOf h16 u k) (halfOf h16 v k)) rfl, fun hz => ?_⟩
      have three {i : Instr} {cls : Nat} {g : W32 → W32 → W32 → W32 × Flags}
          (hi : exec i s = s.runView cls 2 fun v => v.float3 d a b q g) : runs3 i cls g := State.computes_float3 hr hx hy ht hz hi rfl
      exact ⟨three (g := fun w u v => ((minF (maxF w u).1 v).1, (maxF w u).2 ||| (minF (maxF w u).1 v).2)) rfl,
        three (g := fun w u v => onHalves fun k => dotTerms h16 (halfOf h16 w k) [(halfOf h16 u k, halfOf h16 v k)]) rfl,
        three (g := fun w u v => word32 (dotTerms f32 (unF32 w)
          [(halfOf b16 u 0, halfOf b16 v 0), (halfOf b16 u 1, halfOf b16 v 1)])) rfl⟩
  · rw [hx, hy]
    exact divFmt_nearest hr hu sx sy hmx hmy ex ey
  · rintro rfl
    rw [hx]
    exact sqrtFmt_nearest hr hu hmx ex
  · rintro rfl
    rw [hx]
    exact rsqFmt_nearest hr hu hmx ex

/-- Settles O20: the form of three sources, and a destination that is a v register because it is read. -/
theorem vectorInterpolate : Obligations.VectorInterpolate := by
  refine ⟨fun s f d a b q x y z hr => ?_, fun c d a b q => ⟨rfl, fun h => ?_⟩⟩
  · intro m live hz hx hy ht
    have hi : exec (.vflrp d a b q) s = s.runView 15 2 fun v => v.float3 d a b q fun z x y =>
        let t := subF y x
        let r := fmaF x z t.1
        (r.1, t.2 ||| r.2) := rfl
    exact State.computes_float3 hr hx hy ht hz hi rfl
  · have hok : (c.vdstRead d && c.vsrc a && c.vsrc b) = true := operandsOk_of_check h
    cases d with
    | o n => cases hok
    | _ => rfl

end Sys2Proof.Machine
end

section
/-! PROOF. Scalar floating point and conversions (R156 to R159). -/

namespace Sys2Proof.Machine

/-! ## Scalar results with flags (R156) -/

/-- Flags make no destination refuse a write. -/
theorem View.takes_flag (v : View) (fl : Flags) (d : Opnd) : (v.flag fl).takes d = v.takes d := by
  rw [View.takes_eq, View.takes_eq]
  cases d with
  | f n =>
    change (View.setSlot _ _ _).isOk = (View.setSlot _ _ _).isOk
    unfold View.setSlot
    dsimp only [View.frame, View.flag]
    split <;> rfl
  | o n =>
    change ((v.flag fl).vput (.o n) 1 _ []).isOk = (v.vput (.o n) 1 _ []).isOk
    exact View.vput_isOk_congr (v := v.flag fl) (u := v) rfl _ _ rfl _ _
  | _ => rfl

theorem toNat_elemOf_half (x : W32) (k : Nat) : (elemOf 16 x k).toNat = x.toNat / 2 ^ (16 * k) % 2 ^ 16 := by
  rw [elemOf, BitVec.extractLsb'_toNat, Nat.shiftRight_eq_div_pow]

/-- The conversion of the half that a scalar picks (R158). -/
def widenHalf (fmt : Fmt) (h x : W32) : W32 × Flags := widenF fmt (x.toNat / 2 ^ (16 * (h.toNat % 2)) % 2 ^ 16)

/-- A conversion of a half whose operands can be read is the conversion of the half that the scalar picks. -/
theorem View.convertHalf_eq {v : View} {d a n : Opnd} {h : W32} {x : VBits} (fmt : Fmt)
    (hx : (if vectorForm d a then v.valueOf false a else (v.src a).map splat) = .ok x) (hn : v.src n = .ok h) :
    v.convertHalf d a n fmt = v.convert1 d a (widenHalf fmt h) := by
  have hhalf : (fun x => widenF fmt (elemOf 16 x (h.toNat % 2)).toNat) = widenHalf fmt h :=
    funext fun x => by rw [toNat_elemOf_half, widenHalf]
  rw [← hhalf]
  by_cases hform : vectorForm d a = true
  · rw [if_pos hform] at hx
    exact (if_pos hform).trans ((bind_of_ok hx _).trans (bind_of_ok hn _))
  · rw [if_neg hform] at hx
    exact (if_neg hform).trans ((bind_of_ok hx _).trans (bind_of_ok hn _))

section
variable {s : State} {f : Firing} (hr : s.runs f) {d a b : Opnd}
include hr

section
variable (ht : (s.view f).takes d = true)
include ht

/-- A register instruction that sets flags and ends in a write to a scalar destination. -/
theorem State.exec_flag_put {i : Instr} {cls n : Nat} {work : View → Except Trap View} {p : W32 × Flags}
    (hi : exec i s = s.runView cls n work) (hw : work (s.seen f cls) = ((s.seen f cls).flag p.2).put d p.1) :
    exec i s = .next (s.ran f cls n (((s.seen f cls).flag p.2).wrote d p.1)) :=
  State.exec_ok hr hi (hw.trans (View.takes_put ((View.takes_flag ..).trans ((s.seen_takes f cls d).trans ht)) _))

variable {x y z : W32} (hx : (s.view f).src a = .ok x)
include hx

theorem State.exec_scalarFloat {i : Instr} {cls n : Nat} {g : W32 → W32 → W32 × Flags} (hy : (s.view f).src b = .ok y)
    (hi : exec i s = s.runView cls n fun v => v.scalarFloat d a b g) :
    exec i s = .next (s.ran f cls n (((s.seen f cls).flag (g x y).2).wrote d (g x y).1)) :=
  State.exec_flag_put hr ht hi ((bind_of_ok ((s.seen_src ..).trans hx) _).trans (bind_of_ok ((s.seen_src ..).trans hy) _))

theorem exec_ffma (hy : (s.view f).src b = .ok y) (hz : (s.view f).src d = .ok z) : exec (.ffma d a b) s =
    .next (s.ran f 20 2 (((s.seen f 20).flag (fmaF z x y).2).wrote d (fmaF z x y).1)) :=
  State.exec_flag_put hr ht (show execFfma d a b s = _ from rfl)
    (((bind_of_ok ((s.seen_src ..).trans hx) _).trans (bind_of_ok ((s.seen_src ..).trans hy) _)).trans
      (bind_of_ok ((s.seen_src ..).trans hz) _))

/-! ## Scalar forms of the conversions (R157, R158) -/

variable (hform : vectorForm d a = false)
include hform

theorem State.exec_convert1_scalar {i : Instr} {cls n : Nat} {g : W32 → W32 × Flags} {work : View → Except Trap View}
    (hi : exec i s = s.runView cls n work) (hw : work (s.seen f cls) = (s.seen f cls).convert1 d a g) :
    exec i s = .next (s.ran f cls n (((s.seen f cls).flag (g x).2).wrote d (g x).1)) := by
  have hscalar : ¬vectorForm d a = true := by rw [hform]; decide
  exact State.exec_flag_put hr ht hi (hw.trans ((if_neg hscalar).trans (bind_of_ok ((s.seen_src ..).trans hx) _)))

theorem State.exec_convert2_scalar {i : Instr} {g : W32 → W32 → W32 × Flags} (hy : (s.view f).src b = .ok y)
    (hi : exec i s = s.runView 21 2 fun v => v.convert2 d a b g) :
    exec i s = .next (s.ran f 21 2 (((s.seen f 21).flag (g x y).2).wrote d (g x y).1)) := by
  have hscalar : ¬vectorForm d a = true := by rw [hform]; decide
  exact State.exec_scalarFloat hr ht hx hy (hi.trans (congrArg _ (funext fun v => if_neg hscalar)))

end

end

theorem vectorForm_eq_true {d a : Opnd} (h : isV d = true ∨ isV a = true ∨ (isO d = true ∧ isI a = true)) : vectorForm d a = true := by
  simpa only [vectorForm, Bool.or_eq_true, Bool.and_eq_true, or_assoc] using h

/-- Settles O21: the scalar forms write the word of their function and set its flags. -/
theorem scalarFloatResults : Obligations.ScalarFloatResults := by
  intro s f d a b x y z r hr hx ht done
  refine ⟨fun hy => ⟨State.exec_scalarFloat (g := addF) hr ht hx hy rfl, State.exec_scalarFloat (g := mulF) hr ht hx hy rfl,
    fun hz => exec_ffma hr ht hx hy hz⟩, fun hd ha ho => ?_⟩
  have hform : vectorForm d a = false := by simpa [vectorForm, hd, ha] using ho
  have one {i : Instr} {g : W32 → W32 × Flags} (hi : exec i s = s.runView 21 2 fun v => v.convert1 d a g) :
      exec i s = done 21 (g x) := State.exec_convert1_scalar hr ht hx hform hi rfl
  refine ⟨one (g := f2i r.toNat) rfl, one (g := fun x => i2f r.toNat x.toInt) rfl, fun hy => ?_⟩
  have two {i : Instr} {g : W32 → W32 → W32 × Flags} (hi : exec i s = s.runView 21 2 fun v => v.convert2 d a b g) :
      exec i s = done 21 (g x y) := State.exec_convert2_scalar hr ht hx hform hy hi
  have half {i : Instr} {fmt : Fmt} (hi : exec i s = s.runView 21 2 fun v => v.convertHalf d a b fmt) :
      exec i s = done 21 (widenHalf fmt y x) := by
    refine State.exec_convert1_scalar (g := widenHalf fmt y) hr ht hx hform hi
      (View.convertHalf_eq (x := splat x) fmt ?_ ((s.seen_src ..).trans hy))
    rw [hform, State.seen_src, hx]
    rfl
  exact ⟨two (g := narrowPair h16 r.toNat) rfl, two (g := narrowPair b16 r.toNat) rfl, half (fmt := h16) rfl, half (fmt := b16) rfl⟩

/-! ## Vector forms of the conversions (R157, R158) -/

section
variable {s : State} {f : Firing} (hr : s.runs f) {d a b : Opnd} {x y : VBits} (hx : (s.view f).valueOf true a = .ok x)
  (hform : vectorForm d a = true)
include hr hx hform

/-- A conversion in vector form computes every lane: it has no lane mask. -/
theorem State.computes_convert1 {i : Instr} {g : W32 → W32 × Flags} {work : View → Except Trap View}
    (hi : exec i s = s.runView 21 2 work) (hw : work (s.seen f 21) = (s.seen f 21).convert1 d a g) :
    s.Computes f d 0 i 21 2 [a] fun l => g (lane x l) :=
  State.computes_float1 (q := 0) hr hx (View.vtakes_all ..) hi (hw.trans (if_pos hform))

theorem State.computes_convert2 {i : Instr} {g : W32 → W32 → W32 × Flags} (hy : (s.view f).valueOf true b = .ok y)
    (hi : exec i s = s.runView 21 2 fun v => v.convert2 d a b g) :
    s.Computes f d 0 i 21 2 [a, b] fun l => g (lane x l) (lane y l) :=
  State.computes_float2 (q := 0) hr hx hy (View.vtakes_all ..) hi (if_pos hform)

theorem State.computes_convertHalf {i : Instr} {fmt : Fmt} {n : W32} (hn : (s.view f).src b = .ok n)
    (hi : exec i s = s.runView 21 2 fun v => v.convertHalf d a b fmt) :
    s.Computes f d 0 i 21 2 [a] fun l => widenHalf fmt n (lane x l) := by
  obtain ⟨y, hy⟩ := View.valueOf_stored hx
  exact State.computes_convert1 hr hx hform hi
    (View.convertHalf_eq fmt ((if_pos hform).trans ((s.seen_valueOf ..).trans hy)) ((s.seen_src ..).trans hn))

end

/-! ## Q blocks (R159) -/

/-- The block and the flags that CVT.F2Q gives; a scalar of no format gives an error block. -/
def f2qOf (n : W32) (x : VBits) : Nat × Flags := if n.toNat % 4 = 3 then (255, fNV) else qEncode (n.toNat % 4) (laneList x)

/-- The lanes that CVT.Q2F gives, and whether the block is an error block. -/
def q2fOf (n : W32) (x : VBits) : List W32 × Bool := if n.toNat % 4 = 3 then ([], true) else qDecode (n.toNat % 4) x.toNat

theorem qDecode_snd (fmt blk : Nat) : (qDecode fmt blk).2 = decide (blk % 256 = 255) := by
  unfold qDecode
  dsimp only
  split
  · next h => exact (decide_eq_true h).symm
  · next h => split <;> exact (decide_eq_false h).symm

theorem qDecode_error {fmt blk : Nat} (h : blk % 256 = 255) : qDecode fmt blk = (List.replicate 16 0, true) := if_pos h

theorem ofLaneList_zeros (k : Nat) : ofLaneList (List.replicate k 0) = 0 := by
  apply vec_ext
  intro l hl
  rw [lane_ofLaneList _ _ hl, List.getD_eq_getElem?_getD, List.getElem?_replicate, lane]
  split <;> simp

/-- An error block gives zeros. -/
theorem q2fOf_error {n : W32} {x : VBits} (h : n.toNat % 4 = 3 ∨ x.toNat % 256 = 255) :
    ofLaneList (q2fOf n x).1 = 0 ∧ (q2fOf n x).2 = true := by
  unfold q2fOf
  split
  · exact ⟨ofLaneList_zeros 0, rfl⟩
  · next hn =>
    rw [qDecode_error (h.resolve_left hn)]
    exact ⟨ofLaneList_zeros 16, rfl⟩

section
variable {s : State} {f : Firing} (hr : s.runs f) {d a b : Opnd} {x : VBits} (hx : (s.view f).valueOf true a = .ok x) {n : W32}
  (hn : (s.view f).src b = .ok n)
include hr hx hn

theorem exec_cvtF2q : exec (.cvtF2q d a b) s = .next (s.ran f 22 2 ((((s.seen f 22).bill [a]).flag (f2qOf n x).2).vwrote d 0xFFFF
    { bits := BitVec.ofNat 512 (f2qOf n x).1 } [a])) := by
  refine State.exec_ok hr (show execCvtF2q d a b s = _ from rfl) (Eq.trans ?_ (View.vput_all ..))
  exact (bind_of_ok ((s.seen_valueOf ..).trans hx) _).trans (bind_of_ok ((s.seen_src ..).trans hn) _)

theorem exec_cvtQ2f : exec (.cvtQ2f d a b) s = .next (s.ran f 22 2
    ((let v := (s.seen f 22).bill [a]
      if (q2fOf n x).2 then { v with f := { v.f with err := true } } else v).vwrote d 0xFFFF
        { bits := ofLaneList (q2fOf n x).1 } [a])) := by
  refine State.exec_ok hr (show execCvtQ2f d a b s = _ from rfl) (Eq.trans ?_ (View.vput_all ..))
  exact (bind_of_ok ((s.seen_valueOf ..).trans hx) _).trans (bind_of_ok ((s.seen_src ..).trans hn) _)

end

/-- Settles O22: the vector forms compute every lane; CVT.F2Q and CVT.Q2F give a block and the lanes of one. -/
theorem vectorConversions : Obligations.VectorConversions := by
  intro s f d a b x y n r hr hx done
  refine ⟨fun h => ?_, fun hn => ⟨fun h3 => ?_, fun h3 => ?_, fun herr => ?_, fun h3 h255 => ?_⟩⟩
  · have hform := vectorForm_eq_true h
    have one {i : Instr} {g : W32 → W32 × Flags} (hi : exec i s = s.runView 21 2 fun v => v.convert1 d a g) :
        s.Computes f d 0 i 21 2 [a] fun l => g (lane x l) := State.computes_convert1 hr hx hform hi rfl
    refine ⟨one (g := f2i r.toNat) rfl, one (g := fun x => i2f r.toNat x.toInt) rfl,
      fun hy => ⟨State.computes_convert2 (g := narrowPair h16 r.toNat) hr hx hform hy rfl,
        State.computes_convert2 (g := narrowPair b16 r.toNat) hr hx hform hy rfl⟩,
      fun hn => ⟨State.computes_convertHalf (fmt := h16) hr hx hform hn rfl, State.computes_convertHalf (fmt := b16) hr hx hform hn rfl⟩⟩
  · rw [exec_cvtF2q hr hx hn, show f2qOf n x = (255, fNV) from if_pos h3]
    rfl
  · rw [exec_cvtF2q hr hx hn, show f2qOf n x = qEncode (n.toNat % 4) (laneList x) from if_neg h3]
    rfl
  · obtain ⟨hzero, hmark⟩ := q2fOf_error herr
    rw [exec_cvtQ2f hr hx hn, hzero, hmark]
    rfl
  · have hq : q2fOf n x = qDecode (n.toNat % 4) x.toNat := if_neg h3
    refine ⟨ofLaneList (q2fOf n x).1, ?_, fun l hl => by rw [hq, lane_ofLaneList _ _ hl]⟩
    have hmark : (q2fOf n x).2 = false := by rw [hq, qDecode_snd, decide_eq_false h255]
    rw [exec_cvtQ2f hr hx hn, hmark]
    dsimp only [done]
    rw [View.flag_zero]
    rfl

end Sys2Proof.Machine
end

section
/-! PROOF. The Haar group (R160 to R164). -/

namespace Sys2Proof.Machine

/-! ## Tags that operands give (R160) -/

theorem tagField_of_level {t : BitVec 6} (h1 : 1 ≤ tagLevel t) (h4 : tagLevel t ≤ 4) : tagField t = .ok t :=
  (if_neg (Nat.ne_of_gt h1)).trans (if_neg (Nat.not_lt.mpr h4))

theorem tagField_zero {t : BitVec 6} (h : tagLevel t = 0) : tagField t = .ok 0 := if_pos h

theorem tagField_ok {t : BitVec 6} (h : tagLevel t ≤ 4) : tagField t = .ok (if tagLevel t = 0 then 0 else t) := by
  unfold tagField
  split
  · rfl
  · exact if_neg (Nat.not_lt.mpr h)

theorem tagField_error {t : BitVec 6} (h : 4 < tagLevel t) : tagField t = .error (trapDomain t) :=
  (if_neg (by omega)).trans (if_pos h)

theorem ne_zero_of_level {t : BitVec 6} (h : 1 ≤ tagLevel t) : t ≠ 0 := by
  rintro rfl
  exact absurd h (by decide)

/-- The values of a vector of more than four levels cannot be read (R144). -/
theorem View.valueOf_error {v : View} {o : Opnd} {u : VReg} (h : v.vec o = .ok u) (hl : 4 < tagLevel u.tag) (live : Bool) :
    v.valueOf live o = .error (trapDomain u.tag) :=
  (bind_of_ok h _).trans (if_pos hl)

theorem bind_of_error {α β : Type} {r : Except Trap α} {e : Trap} (h : r = .error e) (g : α → Except Trap β) : (r >>= g) = .error e := by
  rw [h]
  rfl

/-- A register instruction whose work traps. -/
theorem State.exec_trap {s : State} {f : Firing} {i : Instr} {cls n : Nat} {work : View → Except Trap View} {e : Trap} (hr : s.runs f)
    (hi : exec i s = s.runView cls n work) (hw : work (s.seen f cls) = .error e) : exec i s = .next (s.trapped f cls e) :=
  hi.trans (State.runView_trap hr hw)

theorem State.seen_th (s : State) (f : Firing) (cls : Nat) : (s.seen f cls).t.th = (s.tileAt s.tile).th := by
  obtain ⟨m, hm⟩ := s.seen_eq f cls
  rw [hm]
  rfl

/-! ## Lanes picked by a mask (R163) -/

section
variable (p : Nat → Bool) {l n : Nat}

/-- A number that is picked stands behind those picked below it. -/
theorem getElem?_filter_range (hl : l < n) (hp : p l = true) :
    ((List.range n).filter p)[((List.range l).filter p).length]? = some l := by
  obtain ⟨k, rfl⟩ := Nat.exists_eq_add_of_le hl
  rw [Nat.succ_add, ← Nat.add_succ, List.range_add, List.filter_append, List.getElem?_append_right le_rfl, Nat.sub_self,
    List.range_succ_eq_map, List.map_cons, add_zero, List.filter_cons_of_pos hp]
  rfl

/-- Of the picked numbers those below `l` are the picked ones of the numbers below `l`. -/
theorem filter_lt_filter_range (hl : l ≤ n) : ((List.range n).filter p).filter (fun i => decide (i < l)) = (List.range l).filter p := by
  obtain ⟨k, rfl⟩ := Nat.exists_eq_add_of_le hl
  have hlow : ((List.range l).filter p).filter (fun i => decide (i < l)) = (List.range l).filter p :=
    List.filter_eq_self.mpr fun i hi => decide_eq_true (List.mem_range.mp (List.mem_of_mem_filter hi))
  have hhigh : (((List.range k).map (l + ·)).filter p).filter (fun i => decide (i < l)) = [] := by
    refine List.filter_eq_nil_iff.mpr fun i hi => ?_
    obtain ⟨j, -, rfl⟩ := List.mem_map.mp (List.mem_of_mem_filter hi)
    simp
  rw [List.range_add, List.filter_append, List.filter_append, hlow, hhigh, List.append_nil]

end

section
variable (n : W32)

theorem getLsbD_low_half {l : Nat} (hl : l < 16) : (n.extractLsb' 0 16).getLsbD l = n.getLsbD l := by
  rw [BitVec.getLsbD_extractLsb', decide_eq_true hl, zero_add, Bool.true_and]

theorem setLanes_low_half : setLanes (n.extractLsb' 0 16) = (List.range 16).filter fun l => n.getLsbD l :=
  List.filter_congr fun _ hl => getLsbD_low_half n (List.mem_range.mp hl)

/-- HPACK's lanes behind those picked are zero. -/
theorem lane_packMask_behind (x : VBits) {k : Nat} (hk : k < 16) (h : ((List.range 16).filter fun l => n.getLsbD l).length ≤ k) :
    lane (packMask (n.extractLsb' 0 16) x) k = 0 := by
  rw [packMask, setLanes_low_half, lane_ofLaneList _ _ hk, List.getD_eq_default _ _ (by simpa using h)]

/-- A lane that HPACK picks stands behind those picked below it. -/
theorem lane_packMask (x : VBits) {l : Nat} (hl : l < 16) (h : n.getLsbD l = true) :
    lane (packMask (n.extractLsb' 0 16) x) ((List.range l).filter fun k => n.getLsbD k).length = lane x l := by
  have hlen : ((List.range l).filter fun k => n.getLsbD k).length < 16 :=
    (List.length_filter_le ..).trans_lt (by rwa [List.length_range])
  rw [packMask, setLanes_low_half, lane_ofLaneList _ _ hlen, List.getD_eq_getElem?_getD, List.getElem?_map,
    getElem?_filter_range _ hl h]
  rfl

theorem lane_unpackMask (x : VBits) {l : Nat} (hl : l < 16) : lane (unpackMask (n.extractLsb' 0 16) x) l =
    if n.getLsbD l then lane x ((List.range l).filter fun k => n.getLsbD k).length else 0 := by
  rw [unpackMask, lane_ofLanes _ _ hl, getLsbD_low_half n hl, setLanes_low_half, filter_lt_filter_range _ hl.le]

end

/-! ## Thresholds and queries (R162, R163) -/

theorem lane_threshold (th : W32) (x : VReg) {l : Nat} (hl : l < 16) : lane (threshold th x) l =
    if l % 2 ^ tagLevel x.tag = 0 ∨ survives th (absF (lane x.bits (l - l % 2 ^ tagLevel x.tag))) (absF (lane x.bits l))
      (isNanF (lane x.bits l)) = true then lane x.bits l else 0 := by
  simp only [threshold, lane_ofLanes _ _ hl, isApprox, Bool.or_eq_true, decide_eq_true_eq]

section
variable (x : VReg)

/-- The lanes that HQRY reports. -/
def queryLanes : BitVec 16 :=
  laneTest 0xFFFF fun l => (decide (1 ≤ tagLevel x.tag) && decide (tagLevel x.tag ≤ 4) && isApprox x.tag l) || !isZeroF (lane x.bits l)

theorem queryWord_eq : queryWord x = (queryLanes x).setWidth 32 ||| x.tag.setWidth 32 <<< 16 := rfl

theorem extract_tag_queryWord : (queryWord x).extractLsb' 16 6 = x.tag := by
  rw [queryWord_eq]
  apply BitVec.eq_of_getLsbD_eq
  intro i hi
  simp [hi, show 16 + i < 32 by omega]

theorem extract_top_queryWord : (queryWord x).extractLsb' 22 10 = 0 := by
  rw [queryWord_eq]
  apply BitVec.eq_of_getLsbD_eq
  intro i hi
  have hlanes : (queryLanes x).getLsbD (22 + i) = false := BitVec.getLsbD_of_ge _ _ (by omega)
  have htag : x.tag.getLsbD (22 + i - 16) = false := BitVec.getLsbD_of_ge _ _ (by omega)
  simp [hlanes, htag]

theorem getLsbD_queryWord {l : Nat} (hl : l < 16) : (queryWord x).getLsbD l = true ↔
    (1 ≤ tagLevel x.tag ∧ tagLevel x.tag ≤ 4 ∧ l % 2 ^ tagLevel x.tag = 0) ∨ isZeroF (lane x.bits l) = false := by
  have h : (queryWord x).getLsbD l = (queryLanes x).getLsbD l := by
    rw [queryWord_eq]
    simp [hl, show l < 32 by omega]
  rw [h, queryLanes, getLsbD_laneTest_full _ hl]
  simp [isApprox, and_assoc]

end

/-! ## The instructions -/

section
variable {s : State} {f : Firing} (hr : s.runs f) {d a b : Opnd} {n : W32}
include hr

/-- A register instruction that writes every lane of its destination. -/
theorem State.exec_whole {i : Instr} {cls n : Nat} {work : View → Except Trap View} {u : View} {x : VBits} {t : BitVec 6} {l : List Opnd}
    (hi : exec i s = s.runView cls n work) (hw : work (s.seen f cls) = u.whole d x t l) :
    exec i s = .next (s.ran f cls n (u.vwrote d 0xFFFF { bits := x, tag := t } l)) :=
  State.exec_ok hr hi (hw.trans (View.vput_all ..))

section
variable (hn : (s.view f).src b = .ok n)
include hn

section
variable {x : VBits} (hx : (s.view f).valueOf true a = .ok x)
include hx

theorem exec_hfwd (h1 : 1 ≤ tagLevel (n.extractLsb' 0 6)) (h4 : tagLevel (n.extractLsb' 0 6) ≤ 4) :
    let t : BitVec 6 := n.extractLsb' 0 6
    let p := onSegments (tagLevel t) (haarFwd (tagLevel t)) x
    let v := ((s.seen f 23).bill [a]).flag p.2
    exec (.hfwd d a b) s = .next (s.ran f 23 2
      ((v.withExtra (v.extra ++ [(23, tagLevel t - 1)])).vwrote d 0xFFFF { bits := p.1, tag := t } [a])) := by
  refine State.exec_whole hr (show execHfwd d a b s = _ from rfl) ?_
  exact (((bind_of_ok ((s.seen_valueOf ..).trans hx) _).trans (bind_of_ok ((s.seen_src ..).trans hn) _)).trans
    (bind_of_ok (tagField_of_level h1 h4) _)).trans (if_neg (ne_zero_of_level h1))

theorem exec_hfwd_domain (h : tagLevel (n.extractLsb' 0 6) = 0 ∨ 4 < tagLevel (n.extractLsb' 0 6)) :
    exec (.hfwd d a b) s = .next (s.trapped f 23 (trapDomain (n.extractLsb' 0 6))) := by
  refine State.exec_trap hr (show execHfwd d a b s = _ from rfl)
    (((bind_of_ok ((s.seen_valueOf ..).trans hx) _).trans (bind_of_ok ((s.seen_src ..).trans hn) _)).trans ?_)
  rcases h with h0 | h4
  · exact (bind_of_ok (tagField_zero h0) _).trans (if_pos rfl)
  · exact bind_of_error (tagField_error h4) _

end

variable {u : VReg} (hu : (s.view f).vec a = .ok u)
include hu

/-- Only a tagged vector is thresholded. -/
theorem exec_hthr (hl : tagLevel u.tag ≤ 4) : exec (.hthr d a b) s = .next (s.ran f 24 2 ((s.seen f 24).vwrote d 0xFFFF
    { bits := if u.tag = 0 then u.bits else threshold ((s.tileAt s.tile).th.get 0 (n.toNat % 8)) u, tag := u.tag } [])) := by
  refine State.exec_whole hr (show execHthr d a b s = _ from rfl) (((bind_of_ok ((s.seen_valueOf ..).trans (View.valueOf_false hu hl))
    _).trans (bind_of_ok ((s.seen_src ..).trans hn) _)).trans ?_)
  dsimp only
  rw [State.seen_tagOf, View.tagOf_of_vec hu, State.seen_th]

theorem exec_hpack : exec (.hpack d a b) s = .next (s.ran f 24 2 ((s.seen f 24).vwrote d 0xFFFF
    { bits := packMask (n.extractLsb' 0 16) u.bits } [])) :=
  State.exec_whole hr (show execHpack d a b s = _ from rfl)
    ((bind_of_ok ((s.seen_vec ..).trans hu) _).trans (bind_of_ok ((s.seen_src ..).trans hn) _))

theorem exec_hunpk {t : BitVec 6} (ht : tagField (n.extractLsb' 16 6) = .ok t) : exec (.hunpk d a b) s =
    .next (s.ran f 24 2 ((s.seen f 24).vwrote d 0xFFFF { bits := unpackMask (n.extractLsb' 0 16) u.bits, tag := t } [])) :=
  State.exec_whole hr (show execHunpk d a b s = _ from rfl) (((bind_of_ok ((s.seen_vec ..).trans hu) _).trans
    (bind_of_ok ((s.seen_src ..).trans hn) _)).trans (bind_of_ok ht _))

theorem exec_hunpk_domain (h : 4 < tagLevel (n.extractLsb' 16 6)) :
    exec (.hunpk d a b) s = .next (s.trapped f 24 (trapDomain (n.extractLsb' 16 6))) :=
  State.exec_trap hr (show execHunpk d a b s = _ from rfl) (((bind_of_ok ((s.seen_vec ..).trans hu) _).trans
    (bind_of_ok ((s.seen_src ..).trans hn) _)).trans (bind_of_error (tagField_error h) _))

theorem exec_htag {t : BitVec 6} (ht : tagField (n.extractLsb' 0 6) = .ok t) : exec (.htag d a b) s =
    .next (s.ran f 25 2 ((s.seen f 25).vwrote d 0xFFFF { bits := u.bits, tag := t } [])) :=
  State.exec_whole hr (show execHtag d a b s = _ from rfl) (((bind_of_ok ((s.seen_vec ..).trans hu) _).trans
    (bind_of_ok ((s.seen_src ..).trans hn) _)).trans (bind_of_ok ht _))

theorem exec_htag_domain (h : 4 < tagLevel (n.extractLsb' 0 6)) :
    exec (.htag d a b) s = .next (s.trapped f 25 (trapDomain (n.extractLsb' 0 6))) :=
  State.exec_trap hr (show execHtag d a b s = _ from rfl) (((bind_of_ok ((s.seen_vec ..).trans hu) _).trans
    (bind_of_ok ((s.seen_src ..).trans hn) _)).trans (bind_of_error (tagField_error h) _))

end

section
variable {u : VReg} (hu : (s.view f).vec a = .ok u)
include hu

theorem exec_hinv (hl : tagLevel u.tag ≤ 4) :
    let p := if u.tag = 0 then (u.bits, 0) else reconstruct u.bits u.tag
    exec (.hinv d a) s = .next (s.ran f 23 2 ((((s.seen f 23).flag p.2).withExtra [(23, tagLevel u.tag - 1)]).vwrote d 0xFFFF
      { bits := p.1 } [a])) := by
  refine State.exec_whole hr (show execHinv d a s = _ from rfl)
    ((bind_of_ok ((s.seen_valueOf ..).trans (View.valueOf_false hu hl)) _).trans ?_)
  dsimp only
  rw [State.seen_tagOf, View.tagOf_of_vec hu]
  rfl

theorem exec_hinv_domain (h : 4 < tagLevel u.tag) : exec (.hinv d a) s = .next (s.trapped f 23 (trapDomain u.tag)) :=
  State.exec_trap hr (show execHinv d a s = _ from rfl) (bind_of_error ((s.seen_valueOf ..).trans (View.valueOf_error hu h _)) _)

theorem exec_hthr_domain (h : 4 < tagLevel u.tag) : exec (.hthr d a b) s = .next (s.trapped f 24 (trapDomain u.tag)) :=
  State.exec_trap hr (show execHthr d a b s = _ from rfl) (bind_of_error ((s.seen_valueOf ..).trans (View.valueOf_error hu h _)) _)

theorem exec_hqry (ht : (s.view f).takes d = true) : exec (.hqry d a) s = .next (s.ran f 25 2 ((s.seen f 25).wrote d (queryWord u))) :=
  State.exec_put hr ht (show execHqry d a s = _ from rfl) (bind_of_ok ((s.seen_vec ..).trans hu) _)

end

theorem exec_hsett {z : W32} (hz : (s.view f).src a = .ok z) (hn : (s.view f).src b = .ok n) (ht : (s.view f).takes d = true) :
    let v := (s.seen f 25).wrote d ((s.tileAt s.tile).th.get 0 (n.toNat % 8))
    exec (.hsett d a b) s = .next (s.ran f 25 2 { v with t := { v.t with th := v.t.th.set 0 (n.toNat % 8) z } }) := by
  refine State.exec_ok hr (show execHsett d a b s = _ from rfl)
    (((bind_of_ok ((s.seen_src ..).trans hz) _).trans (bind_of_ok ((s.seen_src ..).trans hn) _)).trans ?_)
  rw [State.seen_th]
  exact bind_of_ok (View.takes_put ((s.seen_takes f 25 d).trans ht) _) _

end

/-- Settles O24: what each instruction leaves, by the lemmas above, and the lanes and bits of what it writes. -/
theorem haarGroup : Obligations.HaarGroup := by
  intro s f d a b u x n z hr hu hn t h put
  refine ⟨fun hx => ⟨fun h1 h4 => ⟨_, _, rfl, exec_hfwd hr hn hx h1 h4⟩, exec_hfwd_domain hr hn hx⟩, fun h0 => ?_, fun h0 hl => ?_,
    fun hl => ⟨exec_hinv_domain hr hu hl, exec_hthr_domain hr hu hl⟩,
    ⟨_, exec_hpack hr hn hu, fun k hk hlen => lane_packMask_behind n u.bits hk hlen, fun l hl hb => lane_packMask n u.bits hl hb⟩,
    fun hl => ⟨_, exec_hunpk hr hn hu (tagField_ok hl), fun l hl => lane_unpackMask n u.bits hl⟩, exec_hunpk_domain hr hn hu,
    fun hl => exec_htag hr hn hu (tagField_ok hl), exec_htag_domain hr hn hu, fun ht => ⟨?_, fun hz => exec_hsett hr hz hn ht⟩⟩
  · have hl : tagLevel u.tag ≤ 4 := by rw [h0]; decide
    have hinv := exec_hinv (d := d) hr hu hl
    have hthr := exec_hthr (d := d) hr hn hu hl
    simp only [h0, if_true, View.flag_zero] at hinv hthr
    exact ⟨hinv, hthr⟩
  · have hinv := exec_hinv (d := d) hr hu hl
    have hthr := exec_hthr (d := d) hr hn hu hl
    simp only [h0, if_false] at hinv hthr
    exact ⟨hinv, _, hthr, fun l hl => lane_threshold _ u hl⟩
  · exact ⟨_, exec_hqry hr hu ht, extract_tag_queryWord u, extract_top_queryWord u, fun l hl => getLsbD_queryWord u hl⟩

end Sys2Proof.Machine
end

section
/-! PROOF. Raster arithmetic (R165, R166). -/

namespace Sys2Proof.Machine

/-- The pair of v registers that a 3-bit field names. -/
theorem pairReg_fst (d : BitVec 3) : (Opnd.v (d.setWidth 4 <<< 1)) = .v (BitVec.ofNat 4 (2 * d.toNat + 0)) := by
  have h : d.setWidth 4 <<< 1 = BitVec.ofNat 4 (2 * d.toNat + 0) := by revert d; decide
  rw [h]

theorem pairReg_snd (d : BitVec 3) : nextV (.v (d.setWidth 4 <<< 1)) = .v (BitVec.ofNat 4 (2 * d.toNat + 1)) := by
  have h : d.setWidth 4 <<< 1 + 1 = BitVec.ofNat 4 (2 * d.toNat + 1) := by revert d; decide
  rw [nextV, h]

/-- A lane is covered when the sum of its edge functions is above zero and each function is, or zero on a top or left edge. -/
theorem covered_iff (c : VBits) (org : W32) (l : Nat) : covered c org l = true ↔ 0 < edgeSum c org l ∧ ∀ k, k < 3 →
    0 < edgeAt c org l k ∨ (edgeAt c org l k = 0
      ∧ (0 < (lane c (3 * k)).toInt ∨ ((lane c (3 * k)).toInt = 0 ∧ 0 < (lane c (3 * k + 1)).toInt))) := by
  simp only [covered, topLeft, Bool.and_eq_true, Bool.or_eq_true, decide_eq_true_eq, List.all_eq_true, List.mem_range]

section
variable {s : State} {f : Firing} (hr : s.runs f) {b : Opnd} {q : BitVec 2}
include hr

theorem exec_edge {d : BitVec 3} {a : Opnd} {c : VReg} {o : W32} (hc : (s.view f).vec a = .ok c) (ho : (s.view f).src b = .ok o) :
    let p (k : Nat) := laneResults 0xFFFF (lambda c.bits o k)
    let dst (k : Nat) : Opnd := .v (BitVec.ofNat 4 (2 * d.toNat + k))
    exec (.edge d a b q) s = .next (s.ran f 26 2 (((((s.seen f 26).flag ((p 1).2 ||| (p 2).2)).vwrote (dst 0) 0xFFFF
      { bits := (p 1).1 } []).vwrote (dst 1) 0xFFFF { bits := (p 2).1 } []).setMask q.toNat (laneTest 0xFFFF (covered c.bits o)))) := by
  refine State.exec_ok hr (show execEdge d a b q s = _ from rfl)
    (((bind_of_ok ((s.seen_vec ..).trans hc) _).trans (bind_of_ok ((s.seen_src ..).trans ho) _)).trans ?_)
  dsimp only
  rw [pairReg_snd, pairReg_fst]
  exact (bind_of_ok (View.vput_all ..) _).trans (bind_of_ok (View.vput_all ..) _)

/-- The interpolated word of a lane and its flags (R166). -/
def attrLane (x l1 l2 : VBits) (l : Nat) : W32 × Flags :=
  let g1 := subF (lane x 1) (lane x 0)
  let g2 := subF (lane x 2) (lane x 0)
  let t := word32 (dotTerms f32 (unF32 (lane x 0)) [(unF32 (lane l1 l), unF32 g1.1), (unF32 (lane l2 l), unF32 g2.1)])
  (t.1, g1.2 ||| g2.2 ||| t.2)

theorem State.computes_attr {d : Opnd} {a : BitVec 3} {l1 l2 x : VBits} :
    let m := (s.view f).mask q.toNat
    let live := decide (m ≠ 0)
    let src (k : Nat) : Opnd := .v (BitVec.ofNat 4 (2 * a.toNat + k))
    (s.view f).valueOf live (src 0) = .ok l1 → (s.view f).valueOf live (src 1) = .ok l2 → (s.view f).valueOf live b = .ok x →
    (s.view f).vtakes d m 0 = true → s.Computes f d q (.attr d a b q) 27 2 [src 0, src 1, b] (attrLane x l1 l2) := by
  intro m live src h1 h2 hx ht
  refine State.computes_of_vput hr ht (show execAttr d a b q s = _ from rfl) ?_
  dsimp only
  rw [pairReg_snd, pairReg_fst]
  refine ((bind_of_ok ((s.seen_valueOf ..).trans h1) _).trans (bind_of_ok ((s.seen_valueOf ..).trans h2) _)).trans
    ((bind_of_ok ((s.seen_valueOf ..).trans hx) _).trans ?_)
  have hflags : (fun l => ((attrLane x l1 l2 l).1, (word32 (dotTerms f32 (unF32 (lane x 0))
      [(unF32 (lane l1 l), unF32 (subF (lane x 1) (lane x 0)).1), (unF32 (lane l2 l), unF32 (subF (lane x 2) (lane x 0)).1)])).2
        ||| (subF (lane x 1) (lane x 0)).2 ||| (subF (lane x 2) (lane x 0)).2)) = attrLane x l1 l2 := by
    funext l
    rw [BitVec.or_assoc, BitVec.or_comm]
    rfl
  rw [← hflags]
  rfl

end

/-- Settles O25: EDGE writes the coordinates and the mask of the covered lanes, ATTR computes its lanes from three vectors. -/
theorem rasterResults : Obligations.RasterResults := by
  refine fun s f hr => ⟨fun d a b q c o hc ho => ?_, fun d a b q l1 l2 x => State.computes_attr hr⟩
  exact ⟨_, _, _, _, _, exec_edge hr hc ho, lanesAre_laneResults .., lanesAre_laneResults ..,
    fun l hl => (congrArg (· = true) (getLsbD_laneTest_full _ hl)).to_iff.trans (covered_iff c.bits o l)⟩

end Sys2Proof.Machine
end


section
/-! PROOF. The registers of the matrix tile: fields of words, elements of rows, and sixteen rows written at once. -/

namespace Sys2Proof.Machine

/-! ## Fields of shape words and descriptors (R105, R108) -/

section
variable {w m x : W32} {n : Nat} (hm : ∀ i, i < 32 → m.getLsbD i = decide (n ≤ i))
include hm

/-- A mask of the bits from `n` on keeps the field that stands there, and what is put below stands below. -/
theorem extract_high_of_mask (hx : x.toNat < 2 ^ n) (hn : n ≤ 32) :
    ((w &&& m) ||| x).extractLsb' n (32 - n) = w.extractLsb' n (32 - n) := by
  apply BitVec.eq_of_getLsbD_eq
  intro i hi
  have hxi : x.getLsbD (n + i) = false := Nat.testBit_lt_two_pow (hx.trans_le (Nat.pow_le_pow_right (by decide) (by omega)))
  simp only [BitVec.getLsbD_extractLsb', BitVec.getLsbD_or, BitVec.getLsbD_and, hxi, hm (n + i) (by omega)]
  simp

theorem extract_low_of_mask (hn : n ≤ 32) : ((w &&& m) ||| x).extractLsb' 0 n = x.extractLsb' 0 n := by
  apply BitVec.eq_of_getLsbD_eq
  intro i hi
  simp only [BitVec.getLsbD_extractLsb', BitVec.getLsbD_or, BitVec.getLsbD_and, hm (0 + i) (by omega)]
  simp [hi]

/-- Bits from `n` on set leave the field below. -/
theorem extract_low_of_ones (hn : n ≤ 32) : (w ||| m).extractLsb' 0 n = w.extractLsb' 0 n := by
  apply BitVec.eq_of_getLsbD_eq
  intro i hi
  simp only [BitVec.getLsbD_extractLsb', BitVec.getLsbD_or, hm (0 + i) (by omega)]
  simp [hi]

theorem extract_high_of_ones (hn : n ≤ 32) : (w ||| m).extractLsb' n (32 - n) = BitVec.allOnes (32 - n) := by
  apply BitVec.eq_of_getLsbD_eq
  intro i hi
  simp only [BitVec.getLsbD_extractLsb', BitVec.getLsbD_or, hm (n + i) (by omega), BitVec.getLsbD_allOnes]
  simp [hi]

end

/-- The field above the low `n` bits replaced, by a mask that keeps those. -/
theorem extract_of_low_mask {w m : W32} {n : Nat} (hm : ∀ i, i < 32 → m.getLsbD i = decide (i < n)) (hn : n ≤ 32) (v : BitVec (32 - n)) :
    ((w &&& m) ||| (v.setWidth 32 <<< n)).extractLsb' 0 n = w.extractLsb' 0 n
      ∧ ((w &&& m) ||| (v.setWidth 32 <<< n)).extractLsb' n (32 - n) = v := by
  constructor <;>
  · apply BitVec.eq_of_getLsbD_eq
    intro i hi
    have hlow := hm i
    have hhigh := hm (n + i)
    simp only [BitVec.getLsbD_extractLsb', BitVec.getLsbD_or, BitVec.getLsbD_and, BitVec.getLsbD_shiftLeft, BitVec.getLsbD_setWidth,
      Nat.add_sub_cancel_left, Nat.zero_add]
    grind

/-- The survivor bits of a shape word replaced. -/
theorem setSurv_fields (w : W32) (v : BitVec 16) :
    ((w &&& 0xFFFF) ||| (v.setWidth 32 <<< 16)).extractLsb' 0 16 = w.extractLsb' 0 16
      ∧ shapeSurv ((w &&& 0xFFFF) ||| (v.setWidth 32 <<< 16)) = v :=
  extract_of_low_mask (n := 16) (by decide) (by decide) v

/-- The number that `mkShape` makes of fields that fit. -/
theorem toNat_mkShape {f r : Nat} (hf : f < 8) (hr : r < 16) (t : BitVec 6) (v : BitVec 16) :
    (mkShape f r t v).toNat = f + 16 * r + 256 * (t.toNat / 8) + 2048 * (t.toNat % 8) + 65536 * v.toNat := by
  have ht := t.isLt
  have hv := v.isLt
  rw [mkShape, BitVec.toNat_ofNat, Nat.mod_eq_of_lt hf, Nat.mod_eq_of_lt hr]
  omega

section
variable {f r : Nat} (hf : f < 8) (hr : r < 16) (t : BitVec 6) (v : BitVec 16)
include hf hr

theorem shapeFmt_mkShape : shapeFmt (mkShape f r t v) = f := by
  rw [shapeFmt, toNat_mkShape hf hr]
  omega

theorem shapeRows_mkShape : shapeRows (mkShape f r t v) = r := by
  rw [shapeRows, toNat_mkShape hf hr]
  omega

theorem shapeSurv_mkShape : shapeSurv (mkShape f r t v) = v := by
  have ht := t.isLt
  have hv := v.isLt
  apply BitVec.eq_of_toNat_eq
  rw [shapeSurv, BitVec.extractLsb'_toNat, toNat_mkShape hf hr, Nat.shiftRight_eq_div_pow]
  have hdiv : (f + 16 * r + 256 * (t.toNat / 8) + 2048 * (t.toNat % 8) + 65536 * v.toNat) / 2 ^ 16 = v.toNat := by omega
  rw [hdiv, Nat.mod_eq_of_lt hv]

/-- FMT, NROW, HAARL and AXIS where R105 lays them out. -/
theorem extract_mkShape : (mkShape f r t v).extractLsb' 0 3 = BitVec.ofNat 3 f ∧ (mkShape f r t v).extractLsb' 4 4 = BitVec.ofNat 4 r
    ∧ (mkShape f r t v).extractLsb' 8 3 = BitVec.ofNat 3 (t.toNat / 8)
    ∧ (mkShape f r t v).extractLsb' 11 3 = BitVec.ofNat 3 (t.toNat % 8) := by
  have ht := t.isLt
  have hdiv : (f + 16 * r + 256 * (t.toNat / 8) + 2048 * (t.toNat % 8) + 65536 * v.toNat) / 2 ^ 11 = t.toNat % 8 + 32 * v.toNat := by
    omega
  refine ⟨?_, ?_, ?_, ?_⟩ <;>
  · apply BitVec.eq_of_toNat_eq
    rw [BitVec.extractLsb'_toNat, toNat_mkShape hf hr, Nat.shiftRight_eq_div_pow, BitVec.toNat_ofNat]
    omega

theorem shapeTag_mkShape : shapeTag (mkShape f r t v) = t := by
  obtain ⟨-, -, hlevel, haxis⟩ := extract_mkShape hf hr t v
  have key : ∀ t : BitVec 6, (BitVec.ofNat 3 (t.toNat / 8)).setWidth 6 <<< 3 ||| (BitVec.ofNat 3 (t.toNat % 8)).setWidth 6 = t := by decide
  rw [shapeTag, hlevel, haxis, key]

end

theorem mkDesc_fields (r c : BitVec 6) (e : BitVec 16) : descRtag (mkDesc r c e) = r ∧ descCtag (mkDesc r c e) = c ∧ descErr (mkDesc r c e) = e := by
  refine ⟨?_, ?_, ?_⟩ <;>
  · apply BitVec.eq_of_getLsbD_eq
    intro i hi
    simp only [descRtag, descCtag, descErr, mkDesc, BitVec.getLsbD_extractLsb', BitVec.getLsbD_or, BitVec.getLsbD_shiftLeft,
      BitVec.getLsbD_setWidth]
    grind

/-! ## Elements of rows (R87, R173) -/

/-- The bits of a number whose `q` bits from `p` on are replaced. -/
theorem testBit_splice {new q : Nat} (hnew : new < 2 ^ q) (a p j : Nat) :
    (a - a / 2 ^ p % 2 ^ q * 2 ^ p + new * 2 ^ p).testBit j = if p ≤ j ∧ j < p + q then new.testBit (j - p) else a.testBit j := by
  have hval : a - a / 2 ^ p % 2 ^ q * 2 ^ p + new * 2 ^ p = 2 ^ p * (2 ^ q * (a / 2 ^ p / 2 ^ q) + new) + a % 2 ^ p := by
    have hold : 2 ^ p * (2 ^ q * (a / 2 ^ p / 2 ^ q)) + a % 2 ^ p + a / 2 ^ p % 2 ^ q * 2 ^ p = a := by
      calc _ = a % 2 ^ p + 2 ^ p * (a / 2 ^ p % 2 ^ q + 2 ^ q * (a / 2 ^ p / 2 ^ q)) := by ring
        _ = a := by rw [Nat.mod_add_div, Nat.mod_add_div]
    rw [Nat.mul_add, Nat.mul_comm (2 ^ p) new]
    omega
  rw [hval, Nat.testBit_two_pow_mul_add _ (Nat.mod_lt _ (Nat.two_pow_pos p)), Nat.testBit_two_pow_mul_add _ hnew]
  by_cases h1 : j < p
  · rw [if_pos h1, if_neg (by omega), Nat.testBit_mod_two_pow, decide_eq_true h1, Bool.true_and]
  · rw [if_neg h1]
    by_cases h2 : j - p < q
    · rw [if_pos h2, if_pos (by omega)]
    · rw [if_neg h2, if_neg (by omega), Nat.testBit_div_two_pow, Nat.testBit_div_two_pow, show j - p - q + q + p = j by omega]

/-- The bits of a row whose elements `lo` to `lo + 15` are replaced. -/
theorem getLsbD_putElems {n lo : Nat} (row : VBits) (g : Nat → Nat) {j : Nat} (hj : j < 512) :
    (putElems n lo row g).getLsbD j = if n * lo ≤ j ∧ j < n * (lo + 16)
      then ((List.range 16).foldr (fun r a => g r % 2 ^ n + 2 ^ n * a) 0).testBit (j - n * lo) else row.getLsbD j := by
  have hnew := foldr_lt (2 ^ n) (fun r => g r % 2 ^ n) (List.range 16) fun _ _ => Nat.mod_lt _ (Nat.two_pow_pos n)
  rw [List.length_range, ← Nat.pow_mul, Nat.mul_comm n 16] at hnew
  rw [putElems, BitVec.getLsbD_ofNat, testBit_splice hnew, decide_eq_true hj, Bool.true_and, Nat.mul_add, Nat.mul_comm n 16]
  rfl

/-- An element that is replaced. -/
theorem extract_putElems_new {n lo c : Nat} (h : n * (lo + 16) ≤ 512) (hc : c < 16) (row : VBits) (g : Nat → Nat) :
    (putElems n lo row g).extractLsb' (n * (lo + c)) n = BitVec.ofNat n (g c) := by
  have hdigit := digit_foldr (2 ^ n) (fun r => g r % 2 ^ n) (List.range 16) (fun _ _ => Nat.mod_lt _ (Nat.two_pow_pos n)) c
    (by simpa using hc)
  rw [List.getElem_range, ← Nat.pow_mul] at hdigit
  apply BitVec.eq_of_getLsbD_eq
  intro i hi
  have hlow : n * (lo + c) + i < n * (lo + 16) := by
    calc n * (lo + c) + i < n * (lo + c) + n := by omega
      _ = n * (lo + c + 1) := by ring
      _ ≤ n * (lo + 16) := Nat.mul_le_mul_left _ (by omega)
  have hpos : n * lo ≤ n * (lo + c) := Nat.mul_le_mul_left _ (Nat.le_add_right ..)
  have hbit := congrArg (fun x => x.testBit i) hdigit
  simp only [Nat.testBit_mod_two_pow, Nat.testBit_div_two_pow, hi, decide_true, Bool.true_and] at hbit
  rw [BitVec.getLsbD_extractLsb', getLsbD_putElems _ _ (by omega), if_pos ⟨by omega, hlow⟩, BitVec.getLsbD_ofNat,
    show n * (lo + c) + i - n * lo = i + n * c by rw [Nat.mul_add]; omega, hbit]

/-- Any other element stands. -/
theorem extract_putElems_old {n lo i : Nat} (hi : n * (i + 1) ≤ 512) (ho : i < lo ∨ lo + 16 ≤ i) (row : VBits)
    (g : Nat → Nat) : (putElems n lo row g).extractLsb' (n * i) n = row.extractLsb' (n * i) n := by
  apply BitVec.eq_of_getLsbD_eq
  intro j hj
  have hmul : n * (i + 1) = n * i + n := by ring
  have hout : ¬(n * lo ≤ n * i + j ∧ n * i + j < n * (lo + 16)) := by
    rintro ⟨h1, h2⟩
    rcases ho with ho | ho
    · have := Nat.mul_le_mul_left n (show i + 1 ≤ lo by omega)
      omega
    · have := Nat.mul_le_mul_left n ho
      omega
  rw [BitVec.getLsbD_extractLsb', BitVec.getLsbD_extractLsb', getLsbD_putElems _ _ (by omega), if_neg hout]

/-! ## Sixteen rows written at once -/

/-- Entries `16 * k` to `16 * k + 15` of a map, written at once. -/
@[irreducible] def putRows {α : Type} [DecidableEq α] (d : α) (k : Nat) (g : Nat → α) (m : Map α) : Map α :=
  (List.range 16).foldl (fun m r => m.set d (16 * k + r) (g r)) m

theorem get_putRows {α : Type} [DecidableEq α] (d : α) (k : Nat) (g : Nat → α) (m : Map α) (i : Nat) :
    (putRows d k g m).get d i = if i / 16 = k then g (i % 16) else m.get d i := by
  unfold putRows
  by_cases h : i / 16 = k
  · have hi : 16 * k + i % 16 = i := by omega
    have hget := Map.get_foldl_range (d := d) (key := fun r => 16 * k + r) (fun _ _ h => by omega) (fun r _ => g r) m 16 (i % 16)
    rw [hi, if_pos (by omega)] at hget
    rw [if_pos h]
    exact hget
  · rw [if_neg h]
    exact Map.get_foldl_range_other (key := fun r => 16 * k + r) (fun r _ => g r) m fun r hr => by omega

theorem get_putRows_row {α : Type} [DecidableEq α] (d : α) (k j : Nat) (g : Nat → α) (m : Map α) {l : Nat} (hl : l < 16) :
    (putRows d k g m).get d (16 * j + l) = if j = k then g l else m.get d (16 * j + l) := by
  rw [get_putRows, show (16 * j + l) / 16 = j by omega, show (16 * j + l) % 16 = l by omega]

theorem get_putRows_same {α : Type} [DecidableEq α] (d : α) (k : Nat) (g : Nat → α) (m : Map α) {l : Nat} (hl : l < 16) :
    (putRows d k g m).get d (16 * k + l) = g l := (get_putRows_row d k k g m hl).trans (if_pos rfl)

/-- The elements of a list with their places. -/
theorem enumFrom_eq_map {α : Type} (d : α) (l : List α) (a : Nat) :
    enumFrom a l = (List.range l.length).map fun i => (a + i, l.getD i d) := by
  induction l generalizing a with
  | nil => rfl
  | cons x r ih =>
    rw [enumFrom, ih, List.length_cons, List.range_succ_eq_map, List.map_cons, List.map_map]
    refine congrArg₂ List.cons rfl (List.map_congr_left fun i _ => ?_)
    simp only [Function.comp_apply, List.getD_cons_succ, Nat.succ_eq_add_one]
    rw [Nat.add_assoc, Nat.add_comm 1 i]

theorem foldl_enumFrom {α β : Type} (d : α) (F : β → Nat × α → β) (l : List α) (x : β) :
    (enumFrom 0 l).foldl F x = (List.range l.length).foldl (fun b r => F b (r, l.getD r d)) x := by
  rw [enumFrom_eq_map d, List.foldl_map]
  simp only [Nat.zero_add]

section
variable (x : XRegs) (k : Nat)

theorem XRegs.foldl_setRow (g : Nat → VBits) :
    (List.range 16).foldl (fun a r => a.setRow k r (g r)) x = { x with t := putRows 0 k g x.t } := by
  unfold putRows
  generalize List.range 16 = l
  induction l generalizing x with
  | nil => rfl
  | cons r l ih => exact ih _

theorem XRegs.foldl_setScale (g : Nat → BitVec 128) :
    (List.range 16).foldl (fun a r => a.setScale k r (g r)) x = { x with scale := putRows 0 k g x.scale } := by
  unfold putRows
  generalize List.range 16 = l
  induction l generalizing x with
  | nil => rfl
  | cons r l ih => exact ih _

theorem XRegs.foldl_setRow_setScale (g : Nat → VBits) (h : Nat → BitVec 128) :
    (List.range 16).foldl (fun a r => (a.setRow k r (g r)).setScale k r (h r)) x
      = { x with t := putRows 0 k g x.t, scale := putRows 0 k h x.scale } := by
  unfold putRows
  generalize List.range 16 = l
  induction l generalizing x with
  | nil => rfl
  | cons r l ih => exact ih _

theorem XRegs.setAcc_eq {l : List VBits} (hl : l.length = 16) :
    x.setAcc k l = { x with acc := putRows 0 k (fun r => l.getD r 0) x.acc } := by
  rw [XRegs.setAcc, foldl_enumFrom 0, hl, putRows]

theorem XRegs.setPlane_eq {l : List VBits} (hl : l.length = 16) :
    x.setPlane k l = { x with ps := putRows 0 k (fun r => l.getD r 0) x.ps } := by
  rw [XRegs.setPlane, foldl_enumFrom 0, hl, putRows]

end

end Sys2Proof.Machine
end


section
/-! PROOF. What MSHP, TZERO, MSKR, TTR and AOUT write of one tile register. -/

namespace Sys2Proof.Machine

/-! ## Instructions of the matrix tile that issue (R168, R188) -/

section
variable {s : State} {f : Firing} {i : Instr} {cls : Nat} {rs rd : List XReg} {g : View → Except Trap View} (hr : s.runs f)
  (he : (s.tileAt s.tile).ecc = []) (hi : exec i s = s.runX cls rs rd g)
include hr he hi

/-- On a tile without soft errors, with no write owed to its registers, a matrix instruction is a register instruction. -/
theorem State.exec_matrix {v : View} (ho : ∀ r ∈ rs, (s.tileAt s.tile).owes r = false) (hg : g (s.seen f cls) = .ok v) :
    exec i s = .next (s.ran f cls 2 v) := by
  have hfree : (rs.any fun r => (s.tileAt s.tile).owes r) = false := by simpa using ho
  exact hi.trans ((State.runX_free hr hfree he).trans (State.runView_ok hr hg))

theorem State.exec_matrix_trap {e : Trap} (ho : ∀ r ∈ rs, (s.tileAt s.tile).owes r = false) (hg : g (s.seen f cls) = .error e) :
    exec i s = .next (s.trapped f cls e) := by
  have hfree : (rs.any fun r => (s.tileAt s.tile).owes r) = false := by simpa using ho
  exact hi.trans ((State.runX_free hr hfree he).trans (State.runView_trap hr hg))

end

/-! ## One tile register (R105, R106) -/

/-- Registers that differ in tile register `k` at most. -/
def XRegs.TileStep (k : Nat) (x y : XRegs) : Prop :=
  { y with t := [], scale := [], shape := [], rowErr := [] } = { x with t := [], scale := [], shape := [], rowErr := [] }
    ∧ ∀ j l, j ≠ k → j < 16 → l < 16 → y.row j l = x.row j l ∧ y.scaleRow j l = x.scaleRow j l ∧ y.shapeOf j = x.shapeOf j
      ∧ y.errOf j = x.errOf j

section
variable {k : Nat} {x y z : XRegs}

theorem XRegs.TileStep.trans (h : x.TileStep k y) (h' : y.TileStep k z) : x.TileStep k z := by
  refine ⟨h'.1.trans h.1, fun j l hj hj16 hl => ?_⟩
  obtain ⟨hrow, hscale, hshape, herr⟩ := h.2 j l hj hj16 hl
  obtain ⟨hrow', hscale', hshape', herr'⟩ := h'.2 j l hj hj16 hl
  exact ⟨hrow'.trans hrow, hscale'.trans hscale, hshape'.trans hshape, herr'.trans herr⟩

theorem XRegs.TileStep.rows (x : XRegs) (k : Nat) (g : Nat → VBits) : x.TileStep k { x with t := putRows 0 k g x.t } :=
  ⟨rfl, fun j _ hj _ hl => ⟨(get_putRows_row 0 k j g x.t hl).trans (if_neg hj), rfl, rfl, rfl⟩⟩

theorem XRegs.TileStep.scales (x : XRegs) (k : Nat) (g : Nat → BitVec 128) : x.TileStep k { x with scale := putRows 0 k g x.scale } :=
  ⟨rfl, fun j _ hj _ hl => ⟨rfl, (get_putRows_row 0 k j g x.scale hl).trans (if_neg hj), rfl, rfl⟩⟩

theorem XRegs.TileStep.rowsAndScales (x : XRegs) (k : Nat) (g : Nat → VBits) (h : Nat → BitVec 128) :
    x.TileStep k { x with t := putRows 0 k g x.t, scale := putRows 0 k h x.scale } :=
  (TileStep.rows x k g).trans (TileStep.scales { x with t := putRows 0 k g x.t } k h)

theorem XRegs.TileStep.setShape (x : XRegs) (k : Nat) (w : W32) : x.TileStep k (x.setShape k w) :=
  ⟨rfl, fun _ _ hj _ _ => ⟨rfl, rfl, Map.get_set_other _ _ _ hj, rfl⟩⟩

theorem XRegs.TileStep.setErr (x : XRegs) (k : Nat) (e : BitVec 16) : x.TileStep k (x.setErr k e) :=
  ⟨rfl, fun _ _ hj _ _ => ⟨rfl, rfl, rfl, Map.get_set_other _ _ _ hj⟩⟩

end

@[simp] theorem XRegs.shapeOf_setShape (x : XRegs) (k : Nat) (w : W32) : (x.setShape k w).shapeOf k = w := Map.get_set_same ..
@[simp] theorem XRegs.errOf_setErr (x : XRegs) (k : Nat) (e : BitVec 16) : (x.setErr k e).errOf k = e := Map.get_set_same ..
@[simp] theorem XRegs.shapeOf_setErr (x : XRegs) (k j : Nat) (e : BitVec 16) : (x.setErr k e).shapeOf j = x.shapeOf j := rfl
@[simp] theorem XRegs.errOf_setShape (x : XRegs) (k j : Nat) (w : W32) : (x.setShape k w).errOf j = x.errOf j := rfl

/-! ## Shapes and zeros (R171) -/

/-- The registers after a TZERO of tile register `k`. -/
def XRegs.zeroTile (x : XRegs) (k : Nat) : XRegs :=
  (XRegs.setShape { x with t := putRows 0 k (fun _ => 0) x.t, scale := putRows 0 k (fun _ => 0) x.scale } k
    (x.shapeOf k ||| 0xFFFF0000)).setErr k 0

theorem XRegs.zeroTile_step (x : XRegs) (k : Nat) : x.TileStep k (x.zeroTile k) :=
  ((TileStep.rowsAndScales x k _ _).trans (TileStep.setShape _ k _)).trans (TileStep.setErr _ k 0)

theorem upper_half_mask : ∀ i, i < 32 → (0xFFFF0000 : W32).getLsbD i = decide (16 ≤ i) := by decide

/-- The shape word after a TZERO: every row survives, the other fields stand. -/
theorem XRegs.shapeOf_zeroTile (x : XRegs) (k : Nat) :
    ((x.zeroTile k).shapeOf k).extractLsb' 0 16 = (x.shapeOf k).extractLsb' 0 16 ∧ shapeSurv ((x.zeroTile k).shapeOf k) = 0xFFFF := by
  rw [XRegs.zeroTile, XRegs.shapeOf_setErr, XRegs.shapeOf_setShape]
  exact ⟨extract_low_of_ones upper_half_mask (by decide), extract_high_of_ones upper_half_mask (by decide)⟩

/-- The registers after tile register `k` got the survivor bits `v`. -/
def XRegs.setSurv (x : XRegs) (k : Nat) (v : BitVec 16) : XRegs :=
  x.setShape k ((x.shapeOf k &&& 0xFFFF) ||| (v.setWidth 32 <<< 16))

theorem XRegs.row_zeroTile (x : XRegs) (k : Nat) {l : Nat} (hl : l < 16) : (x.zeroTile k).row k l = 0 ∧ (x.zeroTile k).scaleRow k l = 0 :=
  ⟨get_putRows_same 0 k (fun _ => 0) x.t hl, get_putRows_same 0 k (fun _ => 0) x.scale hl⟩

theorem XRegs.shapeOf_setSurv (x : XRegs) (k : Nat) (v : BitVec 16) :
    ((x.setSurv k v).shapeOf k).extractLsb' 0 16 = (x.shapeOf k).extractLsb' 0 16 ∧ shapeSurv ((x.setSurv k v).shapeOf k) = v := by
  rw [XRegs.setSurv, XRegs.shapeOf_setShape]
  exact setSurv_fields ..

/-- The shape word that MSHP makes of its fields. -/
def mshpWord (a h g : BitVec 3) (r : BitVec 4) (v : BitVec 16) : W32 :=
  mkShape g.toNat r.toNat (BitVec.ofNat 6 (h.toNat * 8 + a.toNat)) v

theorem mshpWord_fields (a h g : BitVec 3) (r : BitVec 4) (v : BitVec 16) : (mshpWord a h g r v).extractLsb' 0 3 = g
    ∧ (mshpWord a h g r v).extractLsb' 4 4 = r ∧ (mshpWord a h g r v).extractLsb' 8 3 = h ∧ (mshpWord a h g r v).extractLsb' 11 3 = a
    ∧ shapeSurv (mshpWord a h g r v) = v := by
  have ha := a.isLt
  have hh := h.isLt
  have htag : (BitVec.ofNat 6 (h.toNat * 8 + a.toNat)).toNat = h.toNat * 8 + a.toNat := by
    rw [BitVec.toNat_ofNat]
    omega
  obtain ⟨hfmt, hrows, hlevel, haxis⟩ := extract_mkShape g.isLt r.isLt (BitVec.ofNat 6 (h.toNat * 8 + a.toNat)) v
  rw [htag, show (h.toNat * 8 + a.toNat) / 8 = h.toNat by omega] at hlevel
  rw [htag, show (h.toNat * 8 + a.toNat) % 8 = a.toNat by omega] at haxis
  rw [BitVec.ofNat_toNat, BitVec.setWidth_eq] at hfmt hrows hlevel haxis
  exact ⟨hfmt, hrows, hlevel, haxis, shapeSurv_mkShape g.isLt r.isLt _ v⟩

section
variable {s : State} {f : Firing} (hr : s.runs f) (he : (s.tileAt s.tile).ecc = []) {n : BitVec 4}
  (hn : (s.tileAt s.tile).owes (.t n.toNat) = false)
include hr he hn

theorem exec_mshp (a h g : BitVec 3) (r : BitVec 4) : exec (.mshp n a h r g) s = .next (s.ran f 29 2 ((s.seen f 29).setX
    ((s.tileAt s.tile).x.setShape n.toNat (mshpWord a h g r (shapeSurv ((s.tileAt s.tile).x.shapeOf n.toNat)))))) :=
  State.exec_matrix hr he (show _ = execMshp n a h r g s from rfl) (by simpa using hn) (by simp only [State.seen_x, mshpWord])

theorem exec_tzero : exec (.tzero n) s = .next (s.ran f 29 2 ((s.seen f 29).setX ((s.tileAt s.tile).x.zeroTile n.toNat))) :=
  State.exec_matrix hr he (show _ = execTzero n s from rfl) (by simpa using hn)
    (by simp only [State.seen_x, XRegs.foldl_setRow_setScale, XRegs.zeroTile])

theorem exec_mskr_all : exec (.mskr n 0 0) s = .next (s.ran f 29 2 ((s.seen f 29).setX ((s.tileAt s.tile).x.setSurv n.toNat 0xFFFF))) :=
  State.exec_matrix hr he (show _ = execMskr n 0 0 s from rfl) (by simpa using hn) (by simp only [State.seen_x, if_true, XRegs.setSurv])

theorem exec_mskr {m : BitVec 4} (hm : (s.tileAt s.tile).owes (.t m.toNat) = false) {q : BitVec 2} (hq : q ≠ 0) :
    let x := (s.tileAt s.tile).x
    let sm := shapeSurv (x.shapeOf m.toNat)
    exec (.mskr n m q) s = .next (s.ran f 29 2 ((s.seen f 29).setX
      (x.setSurv n.toNat (if q = 1 then sm else shapeSurv (x.shapeOf n.toNat) &&& sm)))) :=
  State.exec_matrix hr he (show _ = execMskr n m q s from rfl) (by rw [if_neg hq]; simpa using ⟨hn, hm⟩)
    (by simp only [State.seen_x, if_neg hq, XRegs.setSurv])

end

/-! ## Transposes (R173) -/

/-- The elements of `n` bits of tile register `k` from `di` on, written with the columns from `si` on of the rows in use of tile
register `m`. -/
def XRegs.transposeInto (x : XRegs) (m k n di si : Nat) : Map VBits :=
  putRows 0 k (fun i => putElems n di (x.row k i) fun r =>
    (if r ≤ shapeRows (x.shapeOf m) then (x.row m r).toNat else 0) / 2 ^ (n * (si + i)) % 2 ^ n) x.t

/-- The registers after a TTR from `m` to `k`. -/
def XRegs.transposeTile (x : XRegs) (m k : Nat) (ds ss : BitVec 2) : XRegs :=
  let sh := x.shapeOf m
  let wide := decide (shapeFmt sh = 4) || decide (shapeFmt sh = 5)
  let n := if wide then 16 else 8
  let di := if wide then 16 * (ds.toNat % 2) else 16 * ds.toNat
  let si := if wide then 16 * (ss.toNat % 2) else 16 * ss.toNat
  let z := XRegs.setShape { x with t := x.transposeInto m k n di si } k
    ((x.shapeOf k &&& 0xFFFFFFF8) ||| BitVec.ofNat 32 (shapeFmt sh))
  if shapeFmt sh ≤ 2 then { z with scale := putRows 0 k (fun _ => 0) z.scale } else z

theorem XRegs.transposeTile_step (x : XRegs) (m k : Nat) (ds ss : BitVec 2) : x.TileStep k (x.transposeTile m k ds ss) := by
  have hset := fun n di si => (TileStep.rows x k _).trans (TileStep.setShape { x with t := x.transposeInto m k n di si } k
    ((x.shapeOf k &&& 0xFFFFFFF8) ||| BitVec.ofNat 32 (shapeFmt (x.shapeOf m))))
  unfold XRegs.transposeTile
  dsimp only
  split
  · exact (hset _ _ _).trans (TileStep.scales _ k _)
  · exact hset _ _ _


/-- The element that a transpose reads: of column `si + i` of row `c` of tile register `m`, rows above NROW being zero. -/
theorem XRegs.extract_transposeInto (x : XRegs) (m k : Nat) {n di si i c : Nat} (hdi : n * (di + 16) ≤ 512) (hi : i < 16) (hc : c < 16) :
    ((x.transposeInto m k n di si).get 0 (16 * k + i)).extractLsb' (n * (di + c)) n
      = (if c ≤ shapeRows (x.shapeOf m) then x.row m c else 0).extractLsb' (n * (si + i)) n := by
  rw [XRegs.transposeInto, get_putRows_same 0 k _ _ hi, extract_putElems_new hdi hc]
  apply BitVec.eq_of_toNat_eq
  rw [BitVec.toNat_ofNat, BitVec.extractLsb'_toNat, Nat.shiftRight_eq_div_pow, Nat.mod_mod]
  split
  · rfl
  · rw [show (0 : VBits).toNat = 0 from BitVec.toNat_zero]

theorem XRegs.extract_transposeInto_old (x : XRegs) (m k : Nat) {n di si i e : Nat} (he : n * (e + 1) ≤ 512) (hi : i < 16)
    (ho : e < di ∨ di + 16 ≤ e) :
    ((x.transposeInto m k n di si).get 0 (16 * k + i)).extractLsb' (n * e) n = (x.row k i).extractLsb' (n * e) n := by
  rw [XRegs.transposeInto, get_putRows_same 0 k _ _ hi, extract_putElems_old he ho]

/-- The format of a shape word replaced. -/
theorem setFmt_fields (w : W32) {e : Nat} (he : e < 8) :
    ((w &&& 0xFFFFFFF8) ||| BitVec.ofNat 32 e).extractLsb' 3 29 = w.extractLsb' 3 29
      ∧ shapeFmt ((w &&& 0xFFFFFFF8) ||| BitVec.ofNat 32 e) = e := by
  have hm : ∀ i, i < 32 → (0xFFFFFFF8 : W32).getLsbD i = decide (3 ≤ i) := by decide
  have hsmall : (BitVec.ofNat 32 e).toNat = e := by rw [BitVec.toNat_ofNat, Nat.mod_eq_of_lt (by omega)]
  have hlow := congrArg BitVec.toNat (extract_low_of_mask (w := w) (x := BitVec.ofNat 32 e) hm (by decide))
  rw [BitVec.extractLsb'_toNat, BitVec.extractLsb'_toNat, Nat.shiftRight_zero, Nat.shiftRight_zero, hsmall, Nat.mod_eq_of_lt he] at hlow
  exact ⟨extract_high_of_mask hm (by omega) (by decide), hlow⟩

section
variable (x : XRegs) (m k : Nat) (ds ss : BitVec 2)

/-- Halves are transposed where the source holds H16 or B16 values. -/
theorem XRegs.t_transposeTile_wide (h : shapeFmt (x.shapeOf m) = 4 ∨ shapeFmt (x.shapeOf m) = 5) :
    (x.transposeTile m k ds ss).t = x.transposeInto m k 16 (16 * (ds.toNat % 2)) (16 * (ss.toNat % 2)) := by
  have hw : (decide (shapeFmt (x.shapeOf m) = 4) || decide (shapeFmt (x.shapeOf m) = 5)) = true := by simpa using h
  simp only [XRegs.transposeTile, hw, if_true]
  split <;> rfl

/-- Bytes otherwise. -/
theorem XRegs.t_transposeTile_narrow (h : ¬(shapeFmt (x.shapeOf m) = 4 ∨ shapeFmt (x.shapeOf m) = 5)) :
    (x.transposeTile m k ds ss).t = x.transposeInto m k 8 (16 * ds.toNat) (16 * ss.toNat) := by
  have hw : (decide (shapeFmt (x.shapeOf m) = 4) || decide (shapeFmt (x.shapeOf m) = 5)) = false := by simpa using h
  simp only [XRegs.transposeTile, hw]
  split <;> rfl

theorem XRegs.errOf_transposeTile : (x.transposeTile m k ds ss).errOf k = x.errOf k := by
  unfold XRegs.transposeTile
  dsimp only
  split <;> rfl

theorem XRegs.scaleRow_transposeTile {l : Nat} (hl : l < 16) :
    (x.transposeTile m k ds ss).scaleRow k l = if shapeFmt (x.shapeOf m) ≤ 2 then 0 else x.scaleRow k l := by
  unfold XRegs.transposeTile
  dsimp only
  split
  · exact get_putRows_same 0 k (fun _ => 0) x.scale hl
  · rfl

/-- The format of the source stands in the shape word, the other fields are as they were. -/
theorem XRegs.shapeOf_transposeTile : ((x.transposeTile m k ds ss).shapeOf k).extractLsb' 3 29 = (x.shapeOf k).extractLsb' 3 29
    ∧ shapeFmt ((x.transposeTile m k ds ss).shapeOf k) = shapeFmt (x.shapeOf m) := by
  have hw : (x.transposeTile m k ds ss).shapeOf k = (x.shapeOf k &&& 0xFFFFFFF8) ||| BitVec.ofNat 32 (shapeFmt (x.shapeOf m)) := by
    unfold XRegs.transposeTile
    dsimp only
    split <;> exact Map.get_set_same x.shape _ k _
  rw [hw]
  exact setFmt_fields (x.shapeOf k) (Nat.mod_lt _ (by decide))

end

section
variable {s : State} {f : Firing} (hr : s.runs f) (he : (s.tileAt s.tile).ecc = []) {n m : BitVec 4}
  (hn : (s.tileAt s.tile).owes (.t n.toNat) = false) (hm : (s.tileAt s.tile).owes (.t m.toNat) = false) (ds ss : BitVec 2)
include hr he hn hm

theorem exec_ttr_domain (ht : shapeTag ((s.tileAt s.tile).x.shapeOf m.toNat) ≠ 0) : exec (.ttr m n ds ss) s =
    .next (s.trapped f 32 { code := 0x06, tval := (shapeTag ((s.tileAt s.tile).x.shapeOf m.toNat)).setWidth 32 }) :=
  State.exec_matrix_trap hr he (show _ = execTtr m n ds ss s from rfl) (by simpa using ⟨hm, hn⟩)
    (by simp only [State.seen_x]; rw [if_pos ht]; rfl)

theorem exec_ttr (ht : shapeTag ((s.tileAt s.tile).x.shapeOf m.toNat) = 0) : exec (.ttr m n ds ss) s =
    .next (s.ran f 32 2 ((s.seen f 32).setX ((s.tileAt s.tile).x.transposeTile m.toNat n.toNat ds ss))) := by
  refine State.exec_matrix hr he (show _ = execTtr m n ds ss s from rfl) (by simpa using ⟨hm, hn⟩) ?_
  simp only [State.seen_x]
  rw [if_neg (not_not.mpr ht), XRegs.foldl_setRow, XRegs.foldl_setScale]
  rfl

end

/-! ## AOUT (R183) -/

@[simp] theorem length_reconCols (l : List VBits) (t : BitVec 6) : (reconCols l t).length = l.length := by
  unfold reconCols
  split
  · rfl
  · exact List.length_map ..

@[simp] theorem XRegs.length_accRows (x : XRegs) (k : Nat) : (x.accRows k).length = 16 := by
  rw [XRegs.accRows, List.length_map, List.length_range]

/-- The registers after an AOUT of accumulator `a` to half `h` of tile register `k`. -/
def XRegs.accOut (x : XRegs) (k a : Nat) (h b : BitVec 1) : XRegs :=
  let d := x.descOf a
  let rows := reconCols (x.accRows a) (descCtag d)
  let fmt := if b = 1 then b16 else h16
  let w := x.shapeOf k
  let y : XRegs := { x with
    t := putRows 0 k (fun r => putElems 16 (16 * h.toNat) (x.row k r) fun c => (narrowF fmt 0 (lane (rows.getD r 0) c)).1) x.t
    scale := putRows 0 k (fun _ => 0) x.scale }
  (y.setShape k (mkShape (4 + b.toNat) (shapeRows w) (descRtag d) (shapeSurv w))).setErr k (descErr d)

theorem XRegs.accOut_step (x : XRegs) (k a : Nat) (h b : BitVec 1) : x.TileStep k (x.accOut k a h b) :=
  ((TileStep.rowsAndScales x k _ _).trans (TileStep.setShape _ k _)).trans (TileStep.setErr _ k _)

theorem XRegs.row_accOut (x : XRegs) (k a : Nat) (h b : BitVec 1) {i : Nat} (hi : i < 16) : (x.accOut k a h b).row k i =
    putElems 16 (16 * h.toNat) (x.row k i) fun c =>
      (narrowF (if b = 1 then b16 else h16) 0 (cellOf (reconCols (x.accRows a) (descCtag (x.descOf a))) i c)).1 :=
  get_putRows_same 0 k (fun r => putElems 16 (16 * h.toNat) (x.row k r) fun c =>
    (narrowF (if b = 1 then b16 else h16) 0 (cellOf (reconCols (x.accRows a) (descCtag (x.descOf a))) r c)).1) x.t hi

theorem XRegs.shapeOf_accOut (x : XRegs) (k a : Nat) (h b : BitVec 1) : (x.accOut k a h b).shapeOf k =
    mkShape (4 + b.toNat) (shapeRows (x.shapeOf k)) (descRtag (x.descOf a)) (shapeSurv (x.shapeOf k)) :=
  (XRegs.shapeOf_setErr ..).trans (XRegs.shapeOf_setShape ..)

theorem exec_aout {s : State} {f : Firing} (hr : s.runs f) (he : (s.tileAt s.tile).ecc = []) {n : BitVec 4} {a : BitVec 3}
    (hn : (s.tileAt s.tile).owes (.t n.toNat) = false) (ha : (s.tileAt s.tile).owes (.a a.toNat) = false) (h b : BitVec 1) :
    let x := (s.tileAt s.tile).x
    exec (.aout n a h b) s = .next (s.ran f 43 2 (((s.seen f 43).setX (x.accOut n.toNat a.toNat h b)).pay 28
      (tagLevel (descCtag (x.descOf a.toNat))))) := by
  refine State.exec_matrix hr he (show _ = execAout n a h b s from rfl) (by simpa using ⟨hn, ha⟩) ?_
  simp only [State.seen_x]
  rw [foldl_enumFrom 0, length_reconCols, XRegs.length_accRows, XRegs.foldl_setRow_setScale]
  rfl

/-! ## The claim -/

section
variable (x : XRegs) (m k : Nat) (ds ss : BitVec 2) {i c : Nat} (hi : i < 16) (hc : c < 16)
include hi hc

/-- The halves of a row after a transpose of halves. -/
theorem XRegs.halves_transposeTile (h : shapeFmt (x.shapeOf m) = 4 ∨ shapeFmt (x.shapeOf m) = 5) :
    ((x.transposeTile m k ds ss).row k i).extractLsb' (16 * (16 * (ds.toNat % 2) + c)) 16
        = (if c ≤ shapeRows (x.shapeOf m) then x.row m c else 0).extractLsb' (16 * (16 * (ss.toNat % 2) + i)) 16
      ∧ ((x.transposeTile m k ds ss).row k i).extractLsb' (16 * (16 * (1 - ds.toNat % 2) + c)) 16
        = (x.row k i).extractLsb' (16 * (16 * (1 - ds.toNat % 2) + c)) 16 := by
  unfold XRegs.row
  rw [XRegs.t_transposeTile_wide x m k ds ss h]
  exact ⟨XRegs.extract_transposeInto x m k (by omega) hi hc, XRegs.extract_transposeInto_old x m k (by omega) hi (by omega)⟩

/-- The bytes of a row after a transpose of bytes. -/
theorem XRegs.bytes_transposeTile (h : ¬(shapeFmt (x.shapeOf m) = 4 ∨ shapeFmt (x.shapeOf m) = 5)) :
    ((x.transposeTile m k ds ss).row k i).extractLsb' (8 * (16 * ds.toNat + c)) 8
        = (if c ≤ shapeRows (x.shapeOf m) then x.row m c else 0).extractLsb' (8 * (16 * ss.toNat + i)) 8
      ∧ ∀ e, e < 4 → e ≠ ds.toNat → ((x.transposeTile m k ds ss).row k i).extractLsb' (8 * (16 * e + c)) 8
        = (x.row k i).extractLsb' (8 * (16 * e + c)) 8 := by
  have hds := ds.isLt
  unfold XRegs.row
  rw [XRegs.t_transposeTile_narrow x m k ds ss h]
  exact ⟨XRegs.extract_transposeInto x m k (by omega) hi hc, fun e _ _ =>
    XRegs.extract_transposeInto_old x m k (by omega) hi (by omega)⟩

/-- The halves of a row after an AOUT. -/
theorem XRegs.halves_accOut (a : Nat) (h b : BitVec 1) : ((x.accOut k a h b).row k i).extractLsb' (16 * (16 * h.toNat + c)) 16
      = BitVec.ofNat 16 (narrowF (if b = 1 then b16 else h16) 0 (cellOf (reconCols (x.accRows a) (descCtag (x.descOf a))) i c)).1
    ∧ ((x.accOut k a h b).row k i).extractLsb' (16 * (16 * (1 - h.toNat) + c)) 16
      = (x.row k i).extractLsb' (16 * (16 * (1 - h.toNat) + c)) 16 := by
  have hh := h.isLt
  rw [XRegs.row_accOut x k a h b hi]
  exact ⟨extract_putElems_new (by omega) hc _ _, extract_putElems_old (by omega) (by omega) _ _⟩

end

/-- Settles O41: each instruction changes the registers by `XRegs.TileStep`; the elements of a row are those that `putElems` writes. -/
theorem tileRegisters : Obligations.TileRegisters := by
  intro s f n m r a h g ds ss hf b hr he x free rest lanesKept gives k w half byte
  refine ⟨fun hk => ⟨⟨_, exec_mshp hr he hk a h g r, XRegs.TileStep.setShape .., ⟨rfl, rfl, rfl⟩, ?_⟩,
      ⟨_, exec_tzero hr he hk, XRegs.zeroTile_step x k, fun l hl => XRegs.row_zeroTile x k hl, XRegs.errOf_setErr ..,
        XRegs.shapeOf_zeroTile x k⟩,
      ⟨_, exec_mskr_all hr he hk, XRegs.TileStep.setShape .., ⟨rfl, rfl, rfl⟩, XRegs.shapeOf_setSurv x k _⟩⟩,
    fun hk hm => ⟨fun q hq => ?_, fun ht => exec_ttr_domain hr he hk hm ds ss ht, fun ht => ?_⟩, fun hk ha => ?_⟩
  · rw [XRegs.shapeOf_setShape]
    exact mshpWord_fields ..
  · have hq0 : q ≠ 0 := by rintro rfl; revert hq; decide
    exact ⟨_, exec_mskr hr he hk hm hq0, XRegs.TileStep.setShape .., ⟨rfl, rfl, rfl⟩, XRegs.shapeOf_setSurv x k _⟩
  · obtain ⟨hrest, hfmt⟩ := XRegs.shapeOf_transposeTile x m.toNat k ds ss
    refine ⟨_, exec_ttr hr he hk hm ds ss ht, XRegs.transposeTile_step .., XRegs.errOf_transposeTile .., hrest, hfmt,
      fun l hl => XRegs.scaleRow_transposeTile x m.toNat k ds ss hl, fun i c hi hc => ?_⟩
    split
    · next hwide => exact XRegs.halves_transposeTile x m.toNat k ds ss hi hc hwide
    · next hnarrow => exact XRegs.bytes_transposeTile x m.toNat k ds ss hi hc hnarrow
  · have hb := b.isLt
    have hfmt : 4 + b.toNat < 8 := by omega
    have hrows : shapeRows w < 16 := Nat.mod_lt _ (by decide)
    refine ⟨_, exec_aout hr he hk ha hf b, XRegs.accOut_step .., fun i hi => get_putRows_same 0 k (fun _ => 0) x.scale hi,
      XRegs.errOf_setErr .., ?_, ?_, ?_, ?_, fun i c hi hc => XRegs.halves_accOut x k hi hc a.toNat hf b⟩
    · rw [XRegs.shapeOf_accOut]
      exact shapeFmt_mkShape hfmt hrows ..
    · rw [XRegs.shapeOf_accOut]
      exact shapeRows_mkShape hfmt hrows ..
    · rw [XRegs.shapeOf_accOut]
      exact shapeTag_mkShape hfmt hrows ..
    · rw [XRegs.shapeOf_accOut]
      exact shapeSurv_mkShape hfmt hrows ..

end Sys2Proof.Machine
end


section
/-! PROOF. Accumulators that are cleared, copied and read. -/

namespace Sys2Proof.Machine

/-! ## Rows and descriptors of accumulators (R105, R108) -/

section
variable (x : XRegs) (k j : Nat)

theorem map_getD_range {α : Type} (d : α) {l : List α} {n : Nat} (hl : l.length = n) : ((List.range n).map fun r => l.getD r d) = l := by
  subst hl
  refine List.ext_getElem (by rw [List.length_map, List.length_range]) fun m _ hm => ?_
  rw [List.getElem_map, List.getElem_range, List.getD_eq_getElem _ _ hm]

theorem XRegs.accRows_setAcc {l : List VBits} (hl : l.length = 16) : (x.setAcc k l).accRows j = if j = k then l else x.accRows j := by
  have hread : (x.setAcc k l).accRows j = if j = k then (List.range 16).map (fun r => l.getD r 0) else x.accRows j := by
    rw [XRegs.setAcc_eq x k hl, XRegs.accRows, XRegs.accRows, ← apply_ite fun g => (List.range 16).map g]
    refine List.map_congr_left fun m hm => (get_putRows_row 0 k j _ x.acc (List.mem_range.mp hm)).trans ?_
    split <;> rfl
  rwa [map_getD_range 0 hl] at hread

@[simp] theorem XRegs.accRows_setDesc (w : W32) : (x.setDesc k w).accRows j = x.accRows j := rfl
@[simp] theorem XRegs.descOf_setAcc (l : List VBits) : (x.setAcc k l).descOf j = x.descOf j := rfl
theorem XRegs.descOf_setDesc (w : W32) : (x.setDesc k w).descOf j = if j = k then w else x.descOf j := Map.get_set ..

@[simp] theorem XRegs.accRows_resetSort : x.resetSort.accRows j = x.accRows j := rfl
@[simp] theorem XRegs.descOf_resetSort : x.resetSort.descOf j = x.descOf j := rfl

theorem XRegs.accRows_clearAcc : (x.clearAcc k).accRows j = if j = k then List.replicate 16 0 else x.accRows j := by
  rw [XRegs.clearAcc, XRegs.accRows_setDesc, XRegs.accRows_setAcc x k j List.length_replicate]

/-- Nothing but an accumulator changes. -/
theorem XRegs.setAcc_setDesc_rest (l : List VBits) (w : W32) :
    { (x.setAcc k l).setDesc k w with acc := [], adesc := [] } = { x with acc := [], adesc := [] } := rfl

theorem XRegs.clearAcc_rest : { x.clearAcc k with acc := [], adesc := [] } = { x with acc := [], adesc := [] } :=
  x.setAcc_setDesc_rest k _ _

theorem XRegs.descOf_clearAcc : (x.clearAcc k).descOf j = if j = k then 0 else x.descOf j := by
  rw [XRegs.clearAcc, XRegs.descOf_setDesc, XRegs.descOf_setAcc]

end

/-- The registers after an ACLR of all four accumulators. -/
def XRegs.clearAll (x : XRegs) : XRegs := ((((x.clearAcc 0).clearAcc 1).clearAcc 2).clearAcc 3).resetSort

theorem XRegs.clearAll_cleared (x : XRegs) {j : Nat} (hj : j < 4) : x.clearAll.accRows j = List.replicate 16 0 ∧ x.clearAll.descOf j = 0 := by
  rw [XRegs.clearAll, XRegs.accRows_resetSort, XRegs.descOf_resetSort]
  simp only [XRegs.accRows_clearAcc, XRegs.descOf_clearAcc]
  obtain rfl | rfl | rfl | rfl : j = 0 ∨ j = 1 ∨ j = 2 ∨ j = 3 := by omega
  all_goals exact ⟨rfl, rfl⟩

/-- The sort state of a chart's start, and the other registers as they were. -/
theorem XRegs.clearAll_rest (x : XRegs) : x.clearAll.sort = 0x00000FF0 ∧ x.clearAll.next = 0 ∧ x.clearAll.sortKeys = []
    ∧ { x.clearAll with acc := [], adesc := [], sort := 0, next := 0, sortKeys := [] }
      = { x with acc := [], adesc := [], sort := 0, next := 0, sortKeys := [] } := by
  unfold XRegs.clearAll
  have hrest := ((((x.clearAcc 0).clearAcc 1).clearAcc 2).clearAcc_rest 3).trans ((((x.clearAcc 0).clearAcc 1).clearAcc_rest 2).trans
    (((x.clearAcc 0).clearAcc_rest 1).trans (x.clearAcc_rest 0)))
  generalize (((x.clearAcc 0).clearAcc 1).clearAcc 2).clearAcc 3 = y at hrest ⊢
  refine ⟨rfl, rfl, rfl, ?_⟩
  exact congrArg (fun z : XRegs => { z with sort := 0, next := 0, sortKeys := [] }) hrest

/-- A vector is its lanes. -/
@[simp] theorem ofLanes_lane (v : VBits) : ofLanes (lane v) = v := vec_ext fun l hl => lane_ofLanes _ l hl

/-- Each cell of a cleared accumulator is zero. -/
theorem cellOf_replicate_zero {r : Nat} (hr : r < 16) (c : Nat) : cellOf (List.replicate 16 0) r c = 0 := by
  rw [cellOf, List.getD_eq_getElem?_getD, List.getElem?_replicate_of_lt hr]
  exact BitVec.extractLsb'_zero

/-! ## Payloads (R184) -/

theorem View.payloadWrite_markErr (v : View) (p : Nat) (x : VReg) (b : Bool) :
    (v.payloadWrite p x).markErr b = { v with f := { v.f with o := v.f.o.set {} p x, err := v.f.err || b } } := by
  cases b
  · simp [View.payloadWrite, View.markErr]
  · simp [View.payloadWrite, View.markErr]

section
variable {s : State} {f : Firing} (hr : s.runs f) (he : (s.tileAt s.tile).ecc = [])
include hr he

theorem exec_aclr {k : BitVec 3} (hk : (s.tileAt s.tile).owes (.a k.toNat) = false) :
    exec (.aclr k 0) s = .next (s.ran f 29 2 ((s.seen f 29).setX ((s.tileAt s.tile).x.clearAcc k.toNat))) :=
  State.exec_matrix hr he (show _ = s.runX 29 [.a k.toNat] [] _ from rfl) (by simpa using hk) (by simp only [State.seen_x])

theorem exec_aclr_all (ho : ∀ j, j < 4 → (s.tileAt s.tile).owes (.a j) = false) : exec (.aclr 0 1) s = .next (s.ran f 29 2
    ((s.seen f 29).setX (s.tileAt s.tile).x.clearAll)) := by
  refine State.exec_matrix hr he (show _ = s.runX 29 [.a 0, .a 1, .a 2, .a 3] [] _ from rfl) ?_ (by simp only [State.seen_x, XRegs.clearAll])
  simpa using ⟨ho 0 (by decide), ho 1 (by decide), ho 2 (by decide), ho 3 (by decide)⟩

theorem exec_acpy {k : BitVec 3} {n : BitVec 2} (hk : (s.tileAt s.tile).owes (.a k.toNat) = false)
    (hn : (s.tileAt s.tile).owes (.a n.toNat) = false) :
    let x := (s.tileAt s.tile).x
    exec (.acpy k n) s = .next (s.ran f 29 2 ((s.seen f 29).setX
      ((x.setAcc k.toNat (x.accRows n.toNat)).setDesc k.toNat (x.descOf n.toNat)))) :=
  State.exec_matrix hr he (show _ = execAcpy k n s from rfl) (by simpa using ⟨hk, hn⟩) (by simp only [State.seen_x])

section
variable {k : BitVec 3} (hk : (s.tileAt s.tile).owes (.a k.toNat) = false) (p : BitVec 2) (i : BitVec 4)
include hk

/-- ARD of a row. -/
theorem exec_ard_row :
    let x := (s.tileAt s.tile).x
    exec (.ard k 0 p 0 i) s = .next (s.ran f 29 2 (((s.seen f 29).payloadWrite p.toNat
      { bits := (x.accRows k.toNat).getD i.toNat 0, tag := descCtag (x.descOf k.toNat) }).markErr
        ((descErr (x.descOf k.toNat)).getLsbD i.toNat))) :=
  State.exec_matrix hr he (show _ = execArd k 0 p 0 i s from rfl) (by simpa using hk) (by simp only [State.seen_x]; rfl)

/-- ARD of a column. -/
theorem exec_ard_column :
    let x := (s.tileAt s.tile).x
    exec (.ard k 0 p 1 i) s = .next (s.ran f 29 2 (((s.seen f 29).payloadWrite p.toNat
      { bits := ofLanes fun r => cellOf (x.accRows k.toNat) r i.toNat, tag := descRtag (x.descOf k.toNat) }).markErr
        (decide (descErr (x.descOf k.toNat) ≠ 0)))) :=
  State.exec_matrix hr he (show _ = execArd k 0 p 1 i s from rfl) (by simpa using hk) (by simp only [State.seen_x]; rfl)

end

/-- ARD of a row of a plane. -/
theorem exec_ard_plane (k : BitVec 3) (p : BitVec 2) (i : BitVec 4) : exec (.ard k 1 p 0 i) s = .next (s.ran f 29 2
    (((s.seen f 29).payloadWrite p.toNat { bits := (s.tileAt s.tile).x.ps.get 0 (16 * k.toNat + i.toNat) }).markErr false)) :=
  State.exec_matrix hr he (show _ = execArd k 1 p 0 i s from rfl) (by simp) (by simp only [State.seen_x]; rfl)

end

/-! ## The claim -/

/-- Settles O42: what stands in each accumulator after the writes, and the payload of each form of ARD. -/
theorem accumulators : Obligations.Accumulators := by
  intro s f k n p i hr he x free cell kept rest zero gives reads d
  have zeroOf {y : XRegs} {j : Nat} (hrows : y.accRows j = List.replicate 16 0) (hdesc : y.descOf j = 0) : zero y j :=
    ⟨hdesc, fun r c hr _ => (congrArg (cellOf · r c) hrows).trans (cellOf_replicate_zero hr c)⟩
  refine ⟨fun hk => ⟨⟨_, exec_aclr hr he hk, x.clearAcc_rest _, zeroOf ?_ ?_, fun j _ hj => ⟨?_, ?_⟩⟩, ?_, ?_⟩, fun q => ?_,
    fun ho => ⟨_, exec_aclr_all hr he ho, fun j hj => ?_, x.clearAll_rest⟩,
    fun hk hn => ⟨_, exec_acpy hr he hk hn, x.setAcc_setDesc_rest _ _ _, ?_, fun r c _ _ => ?_, fun j _ hj => ⟨?_, ?_⟩⟩⟩
  · rw [XRegs.accRows_clearAcc, if_pos rfl]
  · rw [XRegs.descOf_clearAcc, if_pos rfl]
  · rw [XRegs.accRows_clearAcc, if_neg hj]
  · rw [XRegs.descOf_clearAcc, if_neg hj]
  · have hrow : ofLanes (cell x k.toNat i.toNat) = (x.accRows k.toNat).getD i.toNat 0 := ofLanes_lane _
    refine (exec_ard_row hr he hk p i).trans ?_
    rw [View.payloadWrite_markErr, hrow]
    rfl
  · refine (exec_ard_column hr he hk p i).trans ?_
    rw [View.payloadWrite_markErr]
    rfl
  · refine (exec_ard_plane hr he q p i).trans ?_
    rw [View.payloadWrite_markErr]
    rfl
  · obtain ⟨hrows, hdesc⟩ := x.clearAll_cleared hj
    exact zeroOf hrows hdesc
  · rw [XRegs.descOf_setDesc, if_pos rfl]
  · exact congrArg (cellOf · r c) ((x.accRows_setAcc k.toNat k.toNat (x.length_accRows _)).trans (if_pos rfl))
  · exact (x.accRows_setAcc k.toNat j (x.length_accRows _)).trans (if_neg hj)
  · rw [XRegs.descOf_setDesc, if_neg hj]
    rfl

end Sys2Proof.Machine
end


section
/-! PROOF. Partial sums of quantised and of S8 rows. -/

namespace Sys2Proof.Machine

/-! ## Planes and sides that products write (R107, R175) -/

/-- A sum as a fold. -/
theorem foldl_add_eq_sum (l : List Nat) (g : Nat → Int) : l.foldl (fun s i => s + g i) 0 = (l.map g).sum := by
  rw [List.sum_eq_foldl, List.foldl_map]

/-- Planes `0` to `n - 1` written one after the other. -/
def putPlanes (n : Nat) (g : Nat → Nat → VBits) (m : Map VBits) : Map VBits := (List.range n).foldl (fun m p => putRows 0 p (g p) m) m

theorem get_putPlanes (n : Nat) (g : Nat → Nat → VBits) (m : Map VBits) (i : Nat) :
    (putPlanes n g m).get 0 i = if i / 16 < n then g (i / 16) (i % 16) else m.get 0 i := by
  unfold putPlanes
  induction n with
  | zero => rfl
  | succ n ih =>
    rw [List.range_succ, List.foldl_append]
    refine (get_putRows 0 n (g n) _ i).trans ?_
    rw [ih]
    by_cases h : i / 16 = n
    · rw [if_pos h, if_pos (by omega), h]
    · rw [if_neg h]
      by_cases hlt : i / 16 < n
      · rw [if_pos hlt, if_pos (by omega)]
      · rw [if_neg hlt, if_neg (by omega)]

@[simp] theorem XRegs.length_planeRows (x : XRegs) (a b : Nat) (g : Nat → Nat → Int) : (x.planeRows a b g).length = 16 := by
  rw [XRegs.planeRows, List.length_map, List.length_range]

/-- A cell by what its row and its column are: in use and surviving, and in error. -/
theorem cell_of_flags (va vb ea eb : Bool) (u g z : W32) :
    (if va && vb && (ea || eb) then u else if va && !ea && (vb && !eb) then g else z)
      = if va && vb then if ea || eb then u else g else z := by
  cases va <;> cases vb <;> cases ea <;> cases eb <;> rfl

/-- A cell of a plane of partial sums (R174 to R176). -/
theorem XRegs.lane_planeRows (x : XRegs) (a b : Nat) (g : Nat → Nat → Int) {m n : Nat} (hm : m < 16) (hn : n < 16) :
    lane ((x.planeRows a b g).getD m 0) n = if x.valid a m && x.valid b n then
      if (x.errOf a).getLsbD m || (x.errOf b).getLsbD n then 0x80000000 else BitVec.ofInt 32 (g m n)
    else 0 := by
  have hlen : m < (x.planeRows a b g).length := by simpa using hm
  rw [List.getD_eq_getElem _ _ hlen]
  simp only [XRegs.planeRows, List.getElem_map, List.getElem_range]
  rw [lane_ofLanes _ _ hn, ← cell_of_flags]
  rfl

/-- The exponent of a row on a side: that of a row in use and not in error. -/
theorem XRegs.extract_side (x : XRegs) (n fmt p : Nat) {m : Nat} (hm : m < 16) :
    ((x.side n fmt p).extractLsb' (8 * m) 8).toNat = if x.good n m then scaleExp fmt (x.scaleRow n m) p else 0 := by
  have hsmall : ∀ r ∈ List.range 16, (if x.good n r then scaleExp fmt (x.scaleRow n r) p else 0) < 2 ^ 8 := by
    intro r _
    unfold scaleExp
    split
    · split
      · decide
      · exact Nat.mod_lt _ (by decide)
    · decide
  have hlt := foldr_lt (2 ^ 8) _ (List.range 16) hsmall
  have hdigit := digit_foldr (2 ^ 8) _ (List.range 16) hsmall m (by simpa using hm)
  rw [List.length_range, ← Nat.pow_mul] at hlt
  rw [List.getElem_range, ← Nat.pow_mul] at hdigit
  exact (extract_ofNat 128 _ _ _ hlt).trans hdigit

/-! ## Products of quantised rows (R175) -/

/-- The registers after a product of formats `fa` and `fb` over `nb` blocks. -/
def XRegs.products (x : XRegs) (a b fa fb nb : Nat) : XRegs :=
  { x with
    ps := putPlanes nb (fun p r => (x.planeRows a b fun m n =>
      blockSum fa fb (x.row a m).toNat (x.row b n).toNat (x.scaleRow a m) (x.scaleRow b n) p).getD r 0) x.ps
    sideA := (List.range nb).foldl (fun m p => m.set 0 p (x.side a fa p)) x.sideA
    sideB := (List.range nb).foldl (fun m p => m.set 0 p (x.side b fb p)) x.sideB
    plane := BitVec.ofNat 32 ((if nb = 8 then 0xFF else 0x0F) + 0x100 + fa * 2 ^ 10 + fb * 2 ^ 12) }

/-- Planes with their sides, written one after the other. -/
theorem XRegs.foldl_setPlane_sides (z : XRegs) (l : List Nat) (rows : Nat → List VBits) (sa sb : Nat → BitVec 128)
    (h : ∀ p, (rows p).length = 16) :
    l.foldl (fun (z : XRegs) p =>
      { z.setPlane p (rows p) with sideA := (z.setPlane p (rows p)).sideA.set 0 p (sa p), sideB := (z.setPlane p (rows p)).sideB.set 0 p (sb p) }) z
    = { z with ps := l.foldl (fun m p => putRows 0 p (fun r => (rows p).getD r 0) m) z.ps
               sideA := l.foldl (fun m p => m.set 0 p (sa p)) z.sideA
               sideB := l.foldl (fun m p => m.set 0 p (sb p)) z.sideB } := by
  induction l generalizing z with
  | nil => rfl
  | cons p l ih =>
    rw [List.foldl_cons, ih, XRegs.setPlane_eq z p (h p)]
    rfl

theorem View.mmq_eq (v : View) (a b fa fb nb cls : Nat) :
    v.mmq a b fa fb nb cls = (v.setX (v.t.x.products a b fa fb nb)).pay cls (v.t.x.liveCells a b) := by
  unfold View.mmq
  dsimp only
  rw [XRegs.foldl_setPlane_sides v.t.x (List.range nb) _ _ _ fun p => v.t.x.length_planeRows a b _]
  rfl

section
variable (x : XRegs) (a b fa fb : Nat) {nb : Nat}

theorem XRegs.sides_products {p : Nat} (hp : p < nb) : (x.products a b fa fb nb).sideA.get 0 p = x.side a fa p
    ∧ (x.products a b fa fb nb).sideB.get 0 p = x.side b fb p :=
  ⟨(Map.get_foldl_range (key := id) (fun _ _ h => h) (fun p _ => x.side a fa p) x.sideA nb p).trans (if_pos hp),
    (Map.get_foldl_range (key := id) (fun _ _ h => h) (fun p _ => x.side b fb p) x.sideB nb p).trans (if_pos hp)⟩

theorem XRegs.plane_products (hnb : nb = 4 ∨ nb = 8) (ha : fa ≤ 2) (hb : fb ≤ 2) :
    (x.products a b fa fb nb).plane.toNat = 2 ^ nb - 1 + 2 ^ 8 + fa * 2 ^ 10 + fb * 2 ^ 12 := by
  have hplane : (x.products a b fa fb nb).plane.toNat = ((if nb = 8 then 0xFF else 0x0F) + 0x100 + fa * 2 ^ 10 + fb * 2 ^ 12) % 2 ^ 32 :=
    BitVec.toNat_ofNat ..
  rw [hplane]
  obtain rfl | rfl := hnb
  · rw [if_neg (by decide)]
    omega
  · rw [if_pos rfl]
    omega

/-- Planes beyond those written stand. -/
theorem XRegs.ps_products_old {j : Nat} (hj : 16 * nb ≤ j) : (x.products a b fa fb nb).ps.get 0 j = x.ps.get 0 j :=
  (get_putPlanes nb _ x.ps j).trans (if_neg (by omega))

/-- The sum of R89 over a block, as a sum. -/
theorem blockSum_eq_sum (ra rb : Nat) (pa pb : BitVec 128) (p : Nat) : blockSum fa fb ra rb pa pb p =
    if scaleExp fa pa p = 0 ∨ scaleExp fb pb p = 0 then 0 else ((List.range 16).map fun i =>
      qElem fa ra (16 * p + i) * qElem fb rb (16 * p + i) * 2 ^ (2 - scaleMu pa p (16 * p + i) - scaleMu pb p (16 * p + i))).sum := by
  rw [blockSum, ← foldl_add_eq_sum]

theorem XRegs.cell_products {p m n : Nat} (hp : p < nb) (hm : m < 16) (hn : n < 16) :
    lane ((x.products a b fa fb nb).ps.get 0 (16 * p + m)) n = if x.valid a m && x.valid b n then
      if (x.errOf a).getLsbD m || (x.errOf b).getLsbD n then 0x80000000
      else BitVec.ofInt 32 (blockSum fa fb (x.row a m).toNat (x.row b n).toNat (x.scaleRow a m) (x.scaleRow b n) p)
    else 0 := by
  have hget := get_putPlanes nb (fun p r => (x.planeRows a b fun m n =>
    blockSum fa fb (x.row a m).toNat (x.row b n).toNat (x.scaleRow a m) (x.scaleRow b n) p).getD r 0) x.ps (16 * p + m)
  rw [show (16 * p + m) / 16 = p by omega, show (16 * p + m) % 16 = m by omega, if_pos hp] at hget
  exact (congrArg (lane · n) hget).trans (x.lane_planeRows a b _ hm hn)

end

/-! ## Products of S8 rows (R176) -/

/-- The registers after an MMI8. -/
def XRegs.productsS8 (x : XRegs) (a b : Nat) : XRegs :=
  { x with
    ps := putRows 0 0 (fun r => (x.planeRows a b fun m n => dotS8 (x.row a m) (x.row b n)).getD r 0) x.ps
    plane := (x.plane &&& 0xFFFFFC00) ||| 0x201 }

theorem XRegs.plane_productsS8 (x : XRegs) (a b : Nat) : (x.productsS8 a b).plane.extractLsb' 0 10 = 0x201
    ∧ (x.productsS8 a b).plane.extractLsb' 10 22 = x.plane.extractLsb' 10 22 := by
  have hm : ∀ i, i < 32 → (0xFFFFFC00 : W32).getLsbD i = decide (10 ≤ i) := by decide
  exact ⟨(extract_low_of_mask hm (by decide)).trans (by decide), extract_high_of_mask hm (by decide) (by decide)⟩

theorem XRegs.cell_productsS8 (x : XRegs) (a b : Nat) {m n : Nat} (hm : m < 16) (hn : n < 16) :
    lane ((x.productsS8 a b).ps.get 0 (16 * 0 + m)) n = if x.valid a m && x.valid b n then
      if (x.errOf a).getLsbD m || (x.errOf b).getLsbD n then 0x80000000 else BitVec.ofInt 32 (dotS8 (x.row a m) (x.row b n))
    else 0 := by
  have hget := get_putRows_same 0 0 (fun r => (x.planeRows a b fun m n => dotS8 (x.row a m) (x.row b n)).getD r 0) x.ps hm
  exact (congrArg (lane · n) hget).trans (x.lane_planeRows a b _ hm hn)

/-! ## The instructions -/

section
variable {s : State} {f : Firing} (hr : s.runs f) (he : (s.tileAt s.tile).ecc = []) {a b : BitVec 4}
  (ha : (s.tileAt s.tile).owes (.t a.toNat) = false) (hb : (s.tileAt s.tile).owes (.t b.toNat) = false) (k : BitVec 3)
include hr he ha hb

theorem exec_mmq2 : exec (.mmq2 a b k) s = .next (s.ran f 33 2 ((s.seen f 33).mmq a.toNat b.toNat 0 0 8 34)) :=
  State.exec_matrix hr he (show _ = execMmq2 a b k s from rfl) (by simpa using ⟨ha, hb⟩) rfl

theorem exec_mmq4 {fb : Nat} (hfb : (s.tileAt s.tile).x.fmtB b.toNat = fb) : exec (.mmq4 a b k) s = .next (s.ran f 33 2
    ((s.seen f 33).mmq a.toNat b.toNat 1 fb 4 (if fb = 1 then 35 else 36))) :=
  State.exec_matrix hr he (show _ = execMmq4 a b k s from rfl) (by simpa using ⟨ha, hb⟩) (by simp only [State.seen_x, hfb])

theorem exec_mmq7 {fb : Nat} (hfb : (s.tileAt s.tile).x.fmtB b.toNat = fb) : exec (.mmq7 a b k) s = .next (s.ran f 33 2
    ((s.seen f 33).mmq a.toNat b.toNat 2 fb 4 36)) :=
  State.exec_matrix hr he (show _ = execMmq7 a b k s from rfl) (by simpa using ⟨ha, hb⟩) (by simp only [State.seen_x, hfb])

theorem exec_mmi8 :
    let x := (s.tileAt s.tile).x
    exec (.mmi8 a b k) s = .next (s.ran f 33 2
      (((s.seen f 33).setX (x.productsS8 a.toNat b.toNat)).pay 37 (x.liveCells a.toNat b.toNat))) :=
  State.exec_matrix hr he (show _ = execMmi8 a b k s from rfl) (by simpa using ⟨ha, hb⟩)
    (by simp only [State.seen_x]; rw [XRegs.setPlane_eq _ _ (XRegs.length_planeRows ..)]; rfl)

end

/-! ## The claim -/

/-- Settles O43: the planes, sides and plane word that `XRegs.products` and `XRegs.productsS8` hold. -/
theorem partialSums : Obligations.PartialSums := by
  intro s f a b k hr he x ha hb up bad live cells side rest quad
  have quadOf {i : Instr} {fa fb nb cls : Nat} (hi : exec i s = .next (s.ran f 33 2 ((s.seen f 33).mmq a.toNat b.toNat fa fb nb cls)))
      (hnb : nb = 4 ∨ nb = 8) (hfa : fa ≤ 2) (hfb : fb ≤ 2) : quad i fa fb nb cls := by
    rw [View.mmq_eq, State.seen_x] at hi
    refine ⟨_, hi, ⟨fun j hj => x.ps_products_old _ _ _ _ hj, rfl⟩, x.plane_products _ _ _ _ hnb hfa hfb, fun p hp => ⟨?_, ?_, ?_⟩⟩
    · intro m hm
      rw [(x.sides_products a.toNat b.toNat fa fb hp).1]
      exact x.extract_side _ _ _ hm
    · intro m hm
      rw [(x.sides_products a.toNat b.toNat fa fb hp).2]
      exact x.extract_side _ _ _ hm
    · intro m n hm hn
      rw [x.cell_products a.toNat b.toNat fa fb hp hm hn, blockSum_eq_sum]
      rfl
  refine ⟨quadOf (exec_mmq2 hr he ha hb k) (.inr rfl) (by decide) (by decide), ?_,
    _, exec_mmi8 hr he ha hb k, ⟨fun j hj => ?_, rfl⟩, rfl, rfl, ?_, ?_, fun m n hm hn => ?_⟩
  · split
    · next hf =>
      have hfb : x.fmtB b.toNat = 1 := if_pos hf
      exact ⟨quadOf (exec_mmq4 hr he ha hb k hfb) (.inl rfl) (by decide) (by decide),
        quadOf (exec_mmq7 hr he ha hb k hfb) (.inl rfl) (by decide) (by decide)⟩
    · next hf =>
      have hfb : x.fmtB b.toNat = 2 := if_neg hf
      exact ⟨quadOf (exec_mmq4 hr he ha hb k hfb) (.inl rfl) (by decide) (by decide),
        quadOf (exec_mmq7 hr he ha hb k hfb) (.inl rfl) (by decide) (by decide)⟩
  · exact (get_putRows 0 0 _ x.ps j).trans (if_neg (by omega))
  · exact (x.plane_productsS8 _ _).1
  · exact (x.plane_productsS8 _ _).2
  · rw [x.cell_productsS8 a.toNat b.toNat hm hn, dotS8, foldl_add_eq_sum]
    rfl

end Sys2Proof.Machine
end


section
/-! PROOF. Sort mode: the order of keys, what is kept, and what is read. -/

namespace Sys2Proof.Machine

/-! ## The sign bit of a key -/

theorem getLsbD_sign (w : W32) : w.getLsbD 31 = decide (2 ^ 31 ≤ w.toNat) := w.msb_eq_decide

theorem lt_of_sign_clear {w : W32} (h : w.getLsbD 31 = false) : w.toNat < 2 ^ 31 := by
  rw [getLsbD_sign, decide_eq_false_iff_not] at h
  omega

/-- The sign bit set in a word without it. -/
theorem toNat_or_sign {w : W32} (hw : w.toNat < 2 ^ 31) : (w ||| 0x80000000).toNat = w.toNat + 2 ^ 31 := by
  rw [BitVec.toNat_or, Nat.or_comm]
  exact (Nat.two_pow_add_eq_or_of_lt hw 1).symm.trans (Nat.add_comm ..)

/-- A flip of the sign bit. -/
theorem toNat_xor_sign (w : W32) : (w ^^^ 0x80000000).toNat = if w.toNat < 2 ^ 31 then w.toNat + 2 ^ 31 else w.toNat - 2 ^ 31 := by
  have hm : ∀ {m : W32}, (∀ i, i < 32 → m.getLsbD i = decide (i = 31)) → ∀ v : W32, v.getLsbD 31 = false → v ^^^ m = v ||| m := by
    intro m hm v hv
    apply BitVec.eq_of_getLsbD_eq
    intro i hi
    rw [BitVec.getLsbD_xor, BitVec.getLsbD_or, hm i hi]
    by_cases h : i = 31
    · rw [h, hv]
      rfl
    · simp [h]
  have hbits : ∀ i, i < 32 → (0x80000000 : W32).getLsbD i = decide (i = 31) := by decide
  split
  · next h => rw [hm hbits w (by rw [getLsbD_sign, decide_eq_false (Nat.not_le.mpr h)]), toNat_or_sign h]
  · next h =>
    have hflip : (w ^^^ 0x80000000).getLsbD 31 = false := by
      rw [BitVec.getLsbD_xor, getLsbD_sign, decide_eq_true (Nat.not_lt.mp h), hbits 31 (by decide)]
      rfl
    have hback := toNat_or_sign (lt_of_sign_clear hflip)
    rw [← hm hbits _ hflip, BitVec.xor_assoc, BitVec.xor_self, BitVec.xor_zero] at hback
    omega

/-! ## The order of keys (R185) -/

theorem keyRank_unsigned (w : W32) : keyRank 0 w = w.toNat := rfl

theorem keyRank_signed (w : W32) : keyRank 1 w = (w.toInt + 2 ^ 31).toNat := by
  have hw := w.isLt
  rw [keyRank, if_neg (by decide), if_pos rfl, toNat_xor_sign, BitVec.toInt_eq_toNat_cond]
  split <;> split <;> omega

theorem keyRank_float {t : Nat} (h0 : t ≠ 0) (h1 : t ≠ 1) (w : W32) :
    keyRank t w = if w.getLsbD 31 then 2 ^ 32 - 1 - w.toNat else w.toNat + 2 ^ 31 := by
  rw [keyRank, if_neg h0, if_neg h1]
  split
  · exact BitVec.toNat_not
  · next h => exact toNat_or_sign (lt_of_sign_clear (Bool.eq_false_iff.mpr h))

section
variable (t : Nat) (desc : Bool)

/-- One key stands before another or beside it: by rank, and then by index. -/
def keyLe (a b : W32 × W32) : Prop :=
  keyRank t a.1 = keyRank t b.1 ∧ a.2.toNat ≤ b.2.toNat
    ∨ keyRank t a.1 ≠ keyRank t b.1 ∧ (keyRank t a.1 < keyRank t b.1 ↔ desc = false)

theorem keyLe_trans {a b c : W32 × W32} (h : keyLe t desc a b) (k : keyLe t desc b c) : keyLe t desc a c := by
  unfold keyLe at *
  cases desc <;> simp only [Bool.true_eq_false, iff_true, iff_false] at * <;> omega

theorem keyLe_of_before {a b : W32 × W32} (h : keyBefore t desc a b = true) : keyLe t desc a b := by
  unfold keyBefore at h
  unfold keyLe
  cases desc <;> grind

theorem keyLe_of_not_before {a b : W32 × W32} (h : ¬keyBefore t desc a b = true) : keyLe t desc b a := by
  unfold keyBefore at h
  unfold keyLe
  cases desc <;> grind

/-! ## Keys put into their places -/

theorem insertSort_perm (a : W32 × W32) (l : List (W32 × W32)) : (insertSort t desc a l).Perm (a :: l) := by
  induction l with
  | nil => exact .refl _
  | cons b r ih =>
    unfold insertSort
    split
    · exact .refl _
    · exact (ih.cons b).trans (.swap a b r)

theorem insertSort_pairwise (a : W32 × W32) {l : List (W32 × W32)} (h : l.Pairwise (keyLe t desc)) :
    (insertSort t desc a l).Pairwise (keyLe t desc) := by
  induction l with
  | nil => exact List.pairwise_singleton ..
  | cons b r ih =>
    obtain ⟨hb, hr⟩ := List.pairwise_cons.mp h
    unfold insertSort
    split
    · next hab =>
      have hle := keyLe_of_before t desc hab
      exact List.pairwise_cons.mpr ⟨List.forall_mem_cons.mpr ⟨hle, fun c hc => keyLe_trans t desc hle (hb c hc)⟩, h⟩
    · next hab =>
      refine List.pairwise_cons.mpr ⟨fun c hc => ?_, ih hr⟩
      rcases List.mem_cons.mp ((insertSort_perm t desc a r).mem_iff.mp hc) with rfl | hc
      · exact keyLe_of_not_before t desc hab
      · exact hb c hc

/-- The keys of a list put into their places, one after the other. -/
theorem foldl_insertSort (keys l : List (W32 × W32)) (h : l.Pairwise (keyLe t desc)) :
    (keys.foldl (fun a e => insertSort t desc e a) l).Perm (l ++ keys)
      ∧ (keys.foldl (fun a e => insertSort t desc e a) l).Pairwise (keyLe t desc) := by
  induction keys generalizing l with
  | nil => exact ⟨by rw [List.append_nil]; exact .refl _, h⟩
  | cons e r ih =>
    obtain ⟨hperm, hsorted⟩ := ih (insertSort t desc e l) (insertSort_pairwise t desc e h)
    exact ⟨hperm.trans (((insertSort_perm t desc e l).append_right r).trans List.perm_middle.symm), hsorted⟩

end

/-! ## The sort word (R185) -/

/-- The sort word that SRTCFG makes of its fields. -/
def sortConfig (k : BitVec 2) (d : BitVec 1) (r : BitVec 8) : W32 := BitVec.ofNat 32 (1 + k.toNat * 2 + d.toNat * 8 + r.toNat * 16)

theorem sortConfig_fields (k : BitVec 2) (d : BitVec 1) (r : BitVec 8) : (sortConfig k d r).getLsbD 0 = true
    ∧ (sortConfig k d r).extractLsb' 1 2 = k ∧ (sortConfig k d r).getLsbD 3 = d.getLsbD 0 ∧ (sortConfig k d r).extractLsb' 4 8 = r
    ∧ (sortConfig k d r).extractLsb' 12 20 = 0 := by
  have hk := k.isLt
  have hd := d.isLt
  have hr := r.isLt
  have hn : (sortConfig k d r).toNat = 1 + k.toNat * 2 + d.toNat * 8 + r.toNat * 16 := by
    rw [sortConfig, BitVec.toNat_ofNat]
    omega
  refine ⟨?_, BitVec.eq_of_toNat_eq ?_, ?_, BitVec.eq_of_toNat_eq ?_, BitVec.eq_of_toNat_eq ?_⟩
  · rw [BitVec.getLsbD, hn, Nat.testBit_eq_decide_div_mod_eq]
    simp only [decide_eq_true_eq]
    omega
  · rw [BitVec.extractLsb'_toNat, hn, Nat.shiftRight_eq_div_pow]
    omega
  · rw [BitVec.getLsbD, hn, BitVec.getLsbD, Nat.testBit_eq_decide_div_mod_eq, Nat.testBit_eq_decide_div_mod_eq]
    simp only [decide_eq_decide]
    omega
  · rw [BitVec.extractLsb'_toNat, hn, Nat.shiftRight_eq_div_pow]
    omega
  · rw [BitVec.extractLsb'_toNat, hn, Nat.shiftRight_eq_div_pow]
    change _ = 0
    omega

/-- The sort word with `n` keys held and the mark of a row in error. -/
def sortHeld (w : W32) (n : Nat) (bad : Bool) : W32 := BitVec.ofNat 32 (w.toNat % 4096 + n * 4096 + (if bad then 2 ^ 21 else 0))

theorem sortHeld_fields (w : W32) {n : Nat} (hn : n ≤ 256) (bad : Bool) : (sortHeld w n bad).extractLsb' 0 12 = w.extractLsb' 0 12
    ∧ (sortHeld w n bad).getLsbD 21 = bad ∧ ((sortHeld w n bad).extractLsb' 12 9).toNat = n := by
  have hval : (sortHeld w n bad).toNat = w.toNat % 4096 + n * 4096 + (if bad then 2 ^ 21 else 0) := by
    rw [sortHeld, BitVec.toNat_ofNat]
    split <;> omega
  refine ⟨BitVec.eq_of_toNat_eq ?_, ?_, ?_⟩
  · rw [BitVec.extractLsb'_toNat, BitVec.extractLsb'_toNat, hval, Nat.shiftRight_zero, Nat.shiftRight_zero]
    split <;> omega
  · rw [BitVec.getLsbD, hval, Nat.testBit_eq_decide_div_mod_eq]
    cases bad <;> simp <;> omega
  · rw [BitVec.extractLsb'_toNat, hval, Nat.shiftRight_eq_div_pow]
    split <;> omega

/-- The configuration stands, the rest of the sort word is cleared. -/
theorem emptySort_fields (x : XRegs) : x.emptySort.sort.extractLsb' 0 12 = x.sort.extractLsb' 0 12
    ∧ x.emptySort.sort.extractLsb' 12 20 = 0 := by
  have hm : ∀ i, i < 32 → (0x00000FFF : W32).getLsbD i = decide (i < 12) := by decide
  have hfields := extract_of_low_mask (w := x.sort) hm (by decide) 0
  rwa [show (0 : BitVec 20).setWidth 32 <<< 12 = 0#32 by decide, BitVec.or_zero] at hfields

/-! ## The instructions (R186) -/

/-- The rows in use of a tile register that are not in error. -/
def XRegs.saneRows (x : XRegs) (n : Nat) : List Nat :=
  (List.range (shapeRows (x.shapeOf n) + 1)).filter fun r => !(x.errOf n).getLsbD r

/-- The keys that a tile register offers, with their indices. -/
def XRegs.offers (x : XRegs) (n : Nat) : List (W32 × W32) :=
  (x.saneRows n).flatMap fun r => (List.range 16).map fun c => (lane (x.row n r) c, x.next + BitVec.ofNat 32 (16 * r + c))

/-- All keys in their order: those held, and those that a tile register offers. -/
def XRegs.allKeys (x : XRegs) (n : Nat) : List (W32 × W32) :=
  (x.offers n).foldl (fun a e => insertSort (x.sort.toNat / 2 % 4) (x.sort.getLsbD 3) e a) x.sortKeys

/-- The registers after a SRTK in sort mode. -/
def XRegs.takeKeys (x : XRegs) (n : Nat) : XRegs :=
  let nr := shapeRows (x.shapeOf n) + 1
  let kept := (x.allKeys n).take (x.sort.toNat / 16 % 256 + 1)
  { x with
    sort := sortHeld x.sort kept.length (x.sort.getLsbD 21 || decide ((x.saneRows n).length < nr))
    next := x.next + BitVec.ofNat 32 (16 * nr), sortKeys := kept }

/-- Chunk `i` of the keys held. -/
def XRegs.chunkKeys (x : XRegs) (i : Nat) : VBits := ofLanes fun c => match x.sortKeys[16 * i + c]? with
  | some e => e.1
  | none => 0

/-- The indices of the keys of chunk `i`. -/
def XRegs.chunkIndices (x : XRegs) (i : Nat) : VBits := ofLanes fun c => match x.sortKeys[16 * i + c]? with
  | some e => e.2
  | none => 0xFFFFFFFF

theorem XRegs.lane_chunk (x : XRegs) (i : Nat) {c : Nat} (hc : c < 16) :
    (lane (x.chunkKeys i) c, lane (x.chunkIndices i) c) = x.sortKeys.getD (16 * i + c) (0, 0xFFFFFFFF) := by
  rw [XRegs.chunkKeys, XRegs.chunkIndices, lane_ofLanes _ c hc, lane_ofLanes _ c hc, List.getD_eq_getElem?_getD]
  cases x.sortKeys[16 * i + c]? <;> rfl

/-- What SRTF leaves with the keys `ks` and the indices `is` of its chunk. -/
def View.readKeys (v : View) (z : BitVec 1) (p q : Nat) (ks is : VBits) : View :=
  let v1 := ((v.payloadWrite p { bits := ks }).payloadWrite q { bits := is }).markErr (v.t.x.sort.getLsbD 21)
  if z = 1 then v1.setX v.t.x.emptySort else v1

theorem View.readKeys_eq (v : View) (z : BitVec 1) (p q : Nat) (ks is : VBits) : v.readKeys z p q ks is =
    { v.setX (if z = 1 then v.t.x.emptySort else v.t.x) with
      f := { v.f with o := (v.f.o.set {} p { bits := ks }).set {} q { bits := is }, err := v.f.err || v.t.x.sort.getLsbD 21 } } := by
  unfold View.readKeys
  rw [View.payloadWrite_markErr]
  split <;> rfl

section
variable {s : State} {f : Firing} (hr : s.runs f) (he : (s.tileAt s.tile).ecc = [])
include hr he

theorem exec_srtcfg (r : BitVec 8) (d : BitVec 1) (k : BitVec 2) : exec (.srtcfg r d k) s = .next (s.ran f 29 2
    ((s.seen f 29).setX { (s.tileAt s.tile).x with sort := sortConfig k d r, next := 0, sortKeys := [] })) :=
  State.exec_matrix hr he (show _ = execSrtcfg r d k s from rfl) (by simp) (by simp only [State.seen_x, sortConfig])

section
variable {n : BitVec 4} (hn : (s.tileAt s.tile).owes (.t n.toNat) = false)
include hn

theorem exec_srtk_off (hs : (s.tileAt s.tile).x.sort.getLsbD 0 = false) : exec (.srtk n) s = .next (s.ran f 0 2
    ((s.seen f 0).pay 44 ((s.tileAt s.tile).x.saneRows n.toNat).length)) := by
  refine State.exec_matrix hr he (show _ = execSrtk n s from rfl) (by simpa using hn) ?_
  simp only [State.seen_x, hs, Bool.not_false, if_true]
  rfl

theorem exec_srtk (hs : (s.tileAt s.tile).x.sort.getLsbD 0 = true) : exec (.srtk n) s = .next (s.ran f 0 2
    (((s.seen f 0).pay 44 ((s.tileAt s.tile).x.saneRows n.toNat).length).setX ((s.tileAt s.tile).x.takeKeys n.toNat))) := by
  refine State.exec_matrix hr he (show _ = execSrtk n s from rfl) (by simpa using hn) ?_
  simp only [State.seen_x, hs, Bool.not_true, Bool.false_eq_true, if_false, List.length_range]
  rfl

end

theorem exec_srtf (z : BitVec 1) (i : BitVec 4) (q p : BitVec 2) :
    let x := (s.tileAt s.tile).x
    exec (.srtf z i q p) s = .next (s.ran f 45 2 { (s.seen f 45).setX (if z = 1 then x.emptySort else x) with
      f := { f with
        o := (f.o.set {} p.toNat { bits := x.chunkKeys i.toNat }).set {} q.toNat { bits := x.chunkIndices i.toNat }
        err := f.err || x.sort.getLsbD 21 } }) := by
  have hwork : exec (.srtf z i q p) s = s.runX 45 [] [] fun v =>
      .ok (v.readKeys z p.toNat q.toNat (v.t.x.chunkKeys i.toNat) (v.t.x.chunkIndices i.toNat)) := rfl
  refine State.exec_matrix hr he hwork (by simp) (congrArg Except.ok ?_)
  rw [View.readKeys_eq, State.seen_x, State.seen_f]

end

/-! ## The claim -/

/-- Settles O46: `keyLe` is the statement's order of keys, and SRTK keeps the head of the keys put into that order. -/
theorem sortMode : Obligations.SortMode := by
  intro s f run d z kt p q n i hr he x runs rank le nr sane offered
  have htype : (x.sort.extractLsb' 1 2).toNat = x.sort.toNat / 2 % 4 := by rw [BitVec.extractLsb'_toNat, Nat.shiftRight_eq_div_pow]
  have hrank (w : W32) : rank w = keyRank (x.sort.toNat / 2 % 4) w := by
    rw [← htype]
    dsimp only [rank]
    split
    · next h => rw [h, keyRank_unsigned]
    · next h => rw [h, keyRank_signed]
    · next h0 h1 => rw [keyRank_float h0 h1]
  have hle : le = keyLe (x.sort.toNat / 2 % 4) (x.sort.getLsbD 3) := by
    funext u v
    dsimp only [le, keyLe]
    rw [hrank, hrank]
  refine ⟨⟨_, exec_srtcfg hr he run d kt, sortConfig_fields kt d run⟩, fun hn => ⟨exec_srtk_off hr he hn, fun hs hsorted => ?_⟩,
    fun _ => ?_⟩
  · rw [hle] at hsorted ⊢
    obtain ⟨hperm, hpairs⟩ := foldl_insertSort _ _ (x.offers n.toNat) x.sortKeys hsorted
    have hkept : ((x.allKeys n.toNat).take (x.sort.toNat / 16 % 256 + 1)).length
        = Nat.min (x.sortKeys.length + (x.offers n.toNat).length) (x.sort.toNat / 16 % 256 + 1) := by
      rw [List.length_take, ← List.length_append, ← hperm.length_eq]
      exact Nat.min_comm ..
    have hmax : (x.sort.extractLsb' 4 8).toNat = x.sort.toNat / 16 % 256 := by
      rw [BitVec.extractLsb'_toNat, Nat.shiftRight_eq_div_pow]
    have hsmall : ((x.allKeys n.toNat).take (x.sort.toNat / 16 % 256 + 1)).length ≤ 256 := by
      rw [List.length_take]
      omega
    obtain ⟨hconfig, hbad, hheld⟩ := sortHeld_fields x.sort hsmall (x.sort.getLsbD 21 || decide ((x.saneRows n.toNat).length < nr))
    refine ⟨_, _, exec_srtk hr he hn hs, hconfig, hbad, hheld, (x.allKeys n.toNat).drop (x.sort.toNat / 16 % 256 + 1), ?_, ?_, ?_⟩
    · rw [List.take_append_drop]
      exact hperm
    · rw [List.take_append_drop]
      exact hpairs
    · rw [hmax]
      exact hkept
  · refine ⟨x.chunkKeys i.toNat, x.chunkIndices i.toNat, _, exec_srtf hr he z i q p, fun c hc => ?_, fun hz => ?_, fun hz => ?_⟩
    · exact x.lane_chunk _ hc
    · rw [hz]
      rfl
    · rw [if_pos hz]
      exact ⟨rfl, rfl, (emptySort_fields x).1, (emptySort_fields x).2, rfl⟩

end Sys2Proof.Machine
end


section
/-! PROOF. Grid requests and owed writes: the result slots and batches of a G-tile, and what lands on an X-tile. -/

namespace Sys2Proof.Machine

/-! ## Feature-grid requests (R402) -/

/-- A token that is consumed leaves the result slots of its tile. -/
theorem State.consume_gslots (s : State) (t : Nat) (w : Waiting) : ((s.consume t w).tileAt t).gslots = (s.tileAt t).gslots := by
  have hd : ((s.dropWaiting t w.id).tileAt t).gslots = (s.tileAt t).gslots := by
    rw [State.dropWaiting, State.tileAt_modTile_same]
  unfold State.consume
  dsimp only
  split
  · rw [State.freeCredit_tileAt, hd]
  · exact hd
  · rw [State.tileAt_modTile_same]
    split <;> exact hd

theorem exec_gridRequestTake {s : State} {p q r : Waiting} (hl : (s.tileAt s.ev.a).gslots.length < 4)
    (hg : s.gridHead s.ev.a = some (p, q, r)) : ∃ u, exec .gridRequestTake s = .next u
      ∧ (u.tileAt s.ev.a).gslots = (s.tileAt s.ev.a).gslots ++ [{ x := p.tok, y := q.tok, z := r.tok }] := by
  refine ⟨_, rfl, ?_⟩
  unfold State.takeRequest
  rw [if_neg (Nat.not_le.mpr hl), hg]
  dsimp only
  rw [State.tileAt_after, State.tileAt_after, State.tileAt_modTile_same]
  dsimp only
  rw [State.consume_gslots, State.consume_gslots, State.consume_gslots]

theorem exec_gridBatchSend_sent {s : State} (hb : s.ev.b = 1) : ∃ u, exec .gridBatchSend s = .next u
    ∧ (u.tileAt s.ev.a).gslots = (s.tileAt s.ev.a).gslots.drop 1 := by
  refine ⟨s.freeGslot s.ev.a, ?_, ?_⟩
  · change execGridBatchSend s = _
    rw [execGridBatchSend, if_pos hb]
  · rw [State.freeGslot, State.tileAt_after, State.tileAt_after, State.tileAt_modTile_same]

theorem State.gslots_modGslot (s : State) {g : Nat} {q : GSlot} {rest : List GSlot} (h : (s.tileAt g).gslots = q :: rest)
    (f : GSlot → GSlot) : ((s.modGslot g f).tileAt g).gslots = f q :: rest := by
  rw [State.modGslot, State.tileAt_modTile_same]
  dsimp only
  rw [h]

theorem ChargeStep.gslots {s u : State} {t : Nat} (h : ChargeStep s u t) : (u.tileAt t).gslots = (s.tileAt t).gslots := by
  obtain ⟨m, hm⟩ := h.own
  rw [hm]

/-- A batch that is looked up leaves for its X-tile, whose buffer has room. -/
theorem exec_gridBatchSend {s : State} {q : GSlot} {rest : List GSlot} {g : GBatch} (hb : s.ev.b ≠ 1)
    (hs : (s.tileAt s.ev.a).gslots = q :: rest) (hh : q.held = false) (hq : q.sent = false) (ho : q.out = some g)
    (hd : s.gridBound g.xtile s.ev.a = true) (hr : s.gridRoom g.xtile s.ev.a = true) : ∃ u, exec .gridBatchSend s = .next u
      ∧ (u.tileAt s.ev.a).gslots = { q with sent := true } :: rest ∧ ∃ id, u.net.batches.look id = some g
        ∧ (s.now + (2 + hops s.ev.a g.xtile + 4 * g.p), Instr.gridBatchArrival, ({ a := g.xtile, b := id } : EvArg)) ∈ u.agenda := by
  let s2 := s.fresh.2.modNet fun w => { w with batches := w.batches.put s.next g }
  let s3 := s2.charge s.ev.a g.vf 60 ((1 + 4 * g.p) * hops s.ev.a g.xtile)
  let s4 := s3.after (2 + hops s.ev.a g.xtile + 4 * g.p) .gridBatchArrival { a := g.xtile, b := s.next }
  have hc : ChargeStep s2 s3 s.ev.a := State.charge_step ..
  have h4 : (s4.tileAt s.ev.a).gslots = q :: rest := hc.gslots.trans hs
  refine ⟨(s4.modGslot s.ev.a fun x => { x with sent := true }).after (1 + 4 * g.p) .gridBatchSend { a := s.ev.a, b := 1 }, ?_, ?_,
    s.next, ?_, ?_⟩
  · change execGridBatchSend s = _
    rw [execGridBatchSend, if_neg hb, State.gridSend, hs]
    dsimp only
    rw [hh, hq, ho]
    dsimp only
    rw [hd, hr]
    rfl
  · exact State.gslots_modGslot s4 h4 _
  · exact (congrArg (fun n : Net => n.batches.look s.next) hc.net).trans (Map.look_put_same ..)
  · have hnow : s3.now = s.now := hc.now
    exact State.mem_after_of_mem _ _ _ _ (hnow ▸ State.mem_after s3 _ _ _)

theorem exec_gridBatchArrival {s : State} {g : GBatch} (hg : s.net.batches.look s.ev.b = some g) : ∃ u, exec .gridBatchArrival s = .next u
    ∧ u.net.batches.look s.ev.b = none ∧ (u.tileAt s.ev.a).gbuf = (s.tileAt s.ev.a).gbuf ++ [g]
    ∧ (s.now + 0, Instr.owedWriteLanding, ({ a := s.ev.a } : EvArg)) ∈ u.agenda := by
  let s1 := s.modNet fun w => { w with batches := w.batches.drop s.ev.b }
  refine ⟨(s1.modTile s.ev.a fun x => { x with gbuf := x.gbuf ++ [g] }).after 0 .owedWriteLanding { a := s.ev.a }, ?_, ?_, ?_, ?_⟩
  · change execGridBatchArrival s = _
    rw [execGridBatchArrival, hg]
  · exact (Map.look_drop ..).trans (if_pos rfl)
  · rw [State.tileAt_after, State.tileAt_modTile_same]
    rfl
  · exact State.mem_after (s1.modTile s.ev.a fun x => { x with gbuf := x.gbuf ++ [g] }) 0 _ _

/-! ## Owed writes (R170, R187) -/

/-- Ends of back-offs on a tile keep the rest of it. -/
theorem State.unbackoffAll_tileAt (t : Nat) (l : List (Nat × BerthRec)) (s : State) :
    ∃ m, (l.foldl (fun (a : State) e => a.unbackoff t e.1) s).tileAt t = { s.tileAt t with runs := m } := by
  induction l generalizing s with
  | nil => exact ⟨_, rfl⟩
  | cons e r ih =>
    obtain ⟨m, hm⟩ := ih (s.unbackoff t e.1)
    refine ⟨m, ?_⟩
    rw [List.foldl_cons, hm, State.unbackoff, State.modRun, State.tileAt_modTile_same]

/-- An owed write that stands alone at its tile lands: the registers and buffers of the tile are those of `Tile.land`. -/
theorem State.landOwed_tileAt {s : State} {t : Nat} {o : Owed} (ho : (s.tileAt t).owed = [o]) (hl : (s.tileAt t).landing o = true) :
    ∃ sl rs m, (s.landOwed t).tileAt t = { (s.tileAt t).land 0 o with slots := sl, restoring := rs, runs := m } := by
  have hfind : ((enumFrom 0 (s.tileAt t).owed).find? fun e => (s.tileAt t).landing e.2
      && mayLand (s.tileAt t).owed e.1 e.2 && (!(s.tileAt t).restoring || decide (e.1 = 0))) = some (0, o) := by
    rw [ho, enumFrom, List.find?_cons, hl]
    simp [mayLand]
  unfold State.landOwed
  dsimp only
  rw [hfind]
  dsimp only
  generalize ht : State.setTile s t _ = s1
  obtain ⟨m, hm⟩ := State.unbackoffAll_tileAt t ((s1.tcfg t).berths.filter fun e => (s1.run t e.1).backoff.isSome) s1
  refine ⟨(s1.tileAt t).slots, (s1.tileAt t).restoring, m, Eq.trans (b := (s1.landedOn t).tileAt t) ?_ (hm.trans ?_)⟩
  · split <;> split <;> rfl
  · rw [← ht, State.tileAt_setTile_same]

/-- A tile of a walk whose header and format its register takes lands as it is. -/
theorem tileFor_eq {d : MTile} (hs : d.shape.toNat / 256 % 8 ≤ 4) : tileFor d d.f32 = d := by
  rw [tileFor, if_neg]
  rintro (h | h)
  · exact absurd hs (Nat.not_le.mpr h)
  · exact h rfl

theorem XRegs.putTile_fields (x : XRegs) (n : Nat) (d : MTile) : (x.putTile n d).shapeOf n = d.shape ∧ (x.putTile n d).errOf n = d.errf
    ∧ ∀ r, r < 16 → (x.putTile n d).row n r = d.rows.get 0 r := by
  unfold XRegs.putTile
  dsimp only
  rw [XRegs.foldl_setRow_setScale]
  exact ⟨XRegs.shapeOf_setShape .., XRegs.errOf_setErr .., fun r hr => get_putRows_same 0 n (fun r => d.rows.get 0 r) x.t hr⟩

theorem XRegs.landBatch_fields (x : XRegs) (n : Nat) (g : GBatch) (h1 : 1 ≤ g.p) (h16 : g.p ≤ 16) :
    shapeFmt ((x.landBatch n g).shapeOf n) = 4 ∧ shapeRows ((x.landBatch n g).shapeOf n) = g.p - 1
      ∧ (shapeSurv ((x.landBatch n g).shapeOf n)).toNat = 2 ^ g.p - 1 ∧ (x.landBatch n g).errOf n = g.errf
      ∧ ∀ r, r < 16 → (x.landBatch n g).row n r = if r < g.p then g.rows.get 0 r else 0 := by
  have hs : (x.landBatch n g).shapeOf n = mkShape 4 (g.p - 1) 0 (BitVec.ofNat 16 (2 ^ g.p - 1)) := by
    rw [XRegs.landBatch, XRegs.shapeOf_setErr, XRegs.shapeOf_setShape]
  have hp : 2 ^ g.p ≤ 2 ^ 16 := Nat.pow_le_pow_right (by decide) h16
  rw [hs, shapeFmt_mkShape (by decide) (by omega), shapeRows_mkShape (by decide) (by omega), shapeSurv_mkShape (by decide) (by omega),
    BitVec.toNat_ofNat, Nat.mod_eq_of_lt (by omega)]
  refine ⟨rfl, rfl, rfl, XRegs.errOf_setErr .., fun r hr => ?_⟩
  unfold XRegs.landBatch
  dsimp only
  rw [XRegs.foldl_setRow]
  exact get_putRows_same 0 n (fun r => if r < g.p then g.rows.get 0 r else 0) x.t hr

section
variable {x : Tile} {o : Owed} {d : MTile} {g : GBatch}

theorem Tile.land_tile {n : Nat} (ho : x.owed = [o]) (hr : o.reg = .tile n) (hd : o.data = some d) :
    x.land 0 o = { x with x := x.x.putTile n (tileFor d false), owed := [] } := by
  unfold Tile.land
  rw [hr, hd, ho]
  rfl

theorem Tile.land_acc {k : Nat} (ho : x.owed = [o]) (hr : o.reg = .acc k) (hd : o.data = some d) :
    x.land 0 o = { x with x := x.x.landTile (.acc k) d, owed := [] } := by
  unfold Tile.land
  rw [hr, hd, ho]
  rfl

theorem Tile.land_feat {n h : Nat} (ho : x.owed = [o]) (hr : o.reg = .feat n h) (hg : x.gbuf = [g]) (ht : g.gtile = h) :
    x.land 0 o = { x with x := x.x.landBatch n g, owed := [], gbuf := [], astat := x.astat ||| g.flags } := by
  unfold Tile.land
  rw [hr, hg, ho]
  simp [ht]

end

section
variable {s : State} {o : Owed} {d : MTile} (ho : (s.tileAt s.ev.a).owed = [o])
include ho

theorem exec_owedWriteLanding_tile {n : Nat} (hr : o.reg = .tile n) (hd : o.data = some d) (hs : d.shape.toNat / 256 % 8 ≤ 4)
    (hf : d.f32 = false) : ∃ u, exec .owedWriteLanding s = .next u ∧ (u.tileAt s.ev.a).owed = []
      ∧ (u.tileAt s.ev.a).x.shapeOf n = d.shape ∧ (u.tileAt s.ev.a).x.errOf n = d.errf
      ∧ ∀ r, r < 16 → (u.tileAt s.ev.a).x.row n r = d.rows.get 0 r := by
  obtain ⟨sl, rs, m, ht⟩ := State.landOwed_tileAt ho (by rw [Tile.landing, hr, hd]; rfl)
  have hfor : tileFor d false = d := hf ▸ tileFor_eq hs
  rw [Tile.land_tile ho hr hd, hfor] at ht
  refine ⟨s.landOwed s.ev.a, rfl, ?_⟩
  rw [ht]
  exact ⟨rfl, XRegs.putTile_fields (s.tileAt s.ev.a).x n d⟩

theorem exec_owedWriteLanding_acc {k : Nat} (hr : o.reg = .acc k) (hd : o.data = some d) (hs : d.shape.toNat / 256 % 8 ≤ 4)
    (hf : d.f32 = true) : ∃ u, exec .owedWriteLanding s = .next u ∧ (u.tileAt s.ev.a).owed = []
      ∧ descRtag ((u.tileAt s.ev.a).x.descOf k) = shapeTag d.shape ∧ descCtag ((u.tileAt s.ev.a).x.descOf k) = 0
      ∧ descErr ((u.tileAt s.ev.a).x.descOf k) = d.errf
      ∧ ∀ r c, r < 16 → c < 16 → cellOf ((u.tileAt s.ev.a).x.accRows k) r c = lane (d.rows.get 0 r) c := by
  obtain ⟨sl, rs, m, ht⟩ := State.landOwed_tileAt ho (by rw [Tile.landing, hr, hd]; rfl)
  have hfor : tileFor d true = d := hf ▸ tileFor_eq hs
  have hx : (s.tileAt s.ev.a).x.landTile (.acc k) d = ((s.tileAt s.ev.a).x.setAcc k ((List.range 16).map fun m => d.rows.get 0 m)).setDesc k
      (mkDesc (shapeTag d.shape) 0 d.errf) := by
    unfold XRegs.landTile
    dsimp only
    rw [hfor]
  rw [Tile.land_acc ho hr hd, hx] at ht
  refine ⟨s.landOwed s.ev.a, rfl, ?_⟩
  rw [ht]
  dsimp only
  obtain ⟨hrt, hct, he⟩ := mkDesc_fields (shapeTag d.shape) 0 d.errf
  rw [XRegs.descOf_setDesc, if_pos rfl, XRegs.accRows_setDesc, XRegs.accRows_setAcc _ _ _ (by simp), if_pos rfl]
  refine ⟨rfl, hrt, hct, he, fun r c hr _ => ?_⟩
  simp [cellOf, hr]

theorem exec_owedWriteLanding_feat {g : GBatch} {n h : Nat} (hr : o.reg = .feat n h) (hg : (s.tileAt s.ev.a).gbuf = [g])
    (hh : g.gtile = h) (h1 : 1 ≤ g.p) (h16 : g.p ≤ 16) : ∃ u, exec .owedWriteLanding s = .next u ∧ (u.tileAt s.ev.a).owed = []
      ∧ (u.tileAt s.ev.a).gbuf = [] ∧ (u.tileAt s.ev.a).astat = (s.tileAt s.ev.a).astat ||| g.flags
      ∧ shapeFmt ((u.tileAt s.ev.a).x.shapeOf n) = 4 ∧ shapeRows ((u.tileAt s.ev.a).x.shapeOf n) = g.p - 1
      ∧ (shapeSurv ((u.tileAt s.ev.a).x.shapeOf n)).toNat = 2 ^ g.p - 1 ∧ (u.tileAt s.ev.a).x.errOf n = g.errf
      ∧ ∀ r, r < 16 → (u.tileAt s.ev.a).x.row n r = if r < g.p then g.rows.get 0 r else 0 := by
  obtain ⟨sl, rs, m, ht⟩ := State.landOwed_tileAt ho (by rw [Tile.landing, hr, hg]; simp [hh])
  rw [Tile.land_feat ho hr hg hh] at ht
  refine ⟨s.landOwed s.ev.a, rfl, ?_⟩
  rw [ht]
  exact ⟨rfl, rfl, rfl, XRegs.landBatch_fields (s.tileAt s.ev.a).x n g h1 h16⟩

end

end Sys2Proof.Machine
end


section
/-! PROOF. Frames that firings wait for, and the descriptors of scenes. -/

namespace Sys2Proof.Machine

/-! ## Requests for frames (R37, R291) -/

/-- The frame that a request asks for by its tag is allocated, and the reply goes back. -/
theorem State.frameRequest_allocates {s : State} {t k : Nat} {f : Firing} (hf : s.firing t k = some f) {d : Opnd} {u b p : Nat}
    {g : BitVec 12} {y : Tile} (hw : f.wait = .frame d u b p (some g)) (hn : (s.tileAt u).frameOf b g = none)
    (ha : (s.tileAt u).allocFrame (s.tcfg u) b g (s.berth u b).frame.toNat = some y) :
    s.frameRequest t k = (((s.setTile u y).setFiring t k { f with wait := .frameReply d 1 none }).charge u f.cx.toNat 60 (hops t u)).after
      (hops t u + 1) .frameAllocReply { a := t, b := k } := by
  unfold State.frameRequest
  rw [hf]
  dsimp only
  rw [hw]
  dsimp only
  rw [hn, ha]
  rfl

theorem exec_frameRequest {s : State} {f : Firing} (hf : s.firing s.ev.a s.ev.b = some f) {d : Opnd} {t k p : Nat} {g : BitVec 12}
    {y : Tile} (hw : f.wait = .frame d t k p (some g)) (hn : (s.tileAt t).frameOf k g = none)
    (ha : (s.tileAt t).allocFrame (s.tcfg t) k g (s.berth t k).frame.toNat = some y) :
    ∀ i ∈ [Instr.frameAllocRequest, .frameSpaceResume], ∃ u, exec i s = .next u
      ∧ u.firing s.ev.a s.ev.b = some { f with wait := .frameReply d 1 none } ∧ (u.tileAt t).frames = y.frames
      ∧ (s.now + (hops s.ev.a t + 1), Instr.frameAllocReply, ({ a := s.ev.a, b := s.ev.b } : EvArg)) ∈ u.agenda := by
  have hexec : ∀ i ∈ [Instr.frameAllocRequest, .frameSpaceResume], exec i s = .next (s.frameRequest s.ev.a s.ev.b) := by
    simp only [List.forall_mem_cons, List.not_mem_nil, false_implies, implies_true, and_true]
    exact ⟨rfl, rfl⟩
  intro i hi
  refine ⟨_, hexec i hi, ?_⟩
  rw [State.frameRequest_allocates hf hw hn ha]
  generalize hs2 : (s.setTile t y).setFiring s.ev.a s.ev.b _ = s2
  have hc := State.charge_step s2 t f.cx.toNat 60 (hops s.ev.a t)
  refine ⟨?_, ?_, ?_⟩
  · rw [State.firing_after, hc.firing, ← hs2, State.firing_setFiring_same]
  · have hframes := (Effect.ofCharge (a := true) (b := true) hc).frames rfl t
    rw [← hs2, (Effect.setFiring (a := true) (b := true) _ _ _ _).frames rfl t, State.tileAt_setTile_same] at hframes
    rw [State.tileAt_after, ← hs2, hframes]
  · have hnow := hc.now
    rw [← hs2] at hnow
    exact hs2 ▸ hnow ▸ State.mem_after _ _ _ _

/-- A reply whose destination is a w register: the firing has its value, and goes on. -/
theorem exec_frameAllocReply {s : State} {f : Firing} (hf : s.firing s.ev.a s.ev.b = some f) {d : BitVec 5} {v : W32}
    {t : Option (BitVec 12)} (hw : f.wait = .frameReply (.w d) v t) : ∃ u, exec .frameAllocReply s = .next u
      ∧ ∃ g, u.firing s.ev.a s.ev.b = some g ∧ g.wait = .no ∧ g.w.get 0 d.toNat = v ∧ g.pc = (f.advance 2).pc
      ∧ g.tagn = if t.isSome then t else f.tagn := by
  refine ⟨s.frameReply s.ev.a s.ev.b, rfl, { ({ f with w := f.w.set 0 d.toNat v } : Firing).advance 2 with
    wait := .no, tagn := if t.isSome then t else f.tagn }, ?_, rfl, Map.get_set_same .., rfl, rfl⟩
  unfold State.frameReply
  rw [hf]
  dsimp only
  rw [hw]
  change ((s.setTile s.ev.a _).tileAt s.ev.a).slots.look s.ev.b = _
  rw [State.tileAt_setTile_same]
  exact Map.look_put_same ..

/-! ## Descriptors of scenes (R296) -/

/-- Rays that are injected leave the descriptors of their cove and what is pending for them. -/
theorem State.injectRay_coveAt (s : State) (c n : Nat) (r : Ray) : ((s.injectRay c n r).coveAt c).scenes = (s.coveAt c).scenes
    ∧ ((s.injectRay c n r).coveAt c).pend = (s.coveAt c).pend := by
  generalize hx : injectPay ((s.coveAt c).scene r.scene) r.pay = x
  let s1 := s.modCove c fun d => { d with ring := d.ring.put n { r with flying := true, pay := x } }
  have h1 : (s.injectRay c n r).coves = s1.coves := by
    unfold State.injectRay
    dsimp only
    rw [hx, State.after_coves]
    split
    · rfl
    · exact (State.pinWrite_step ..).coves
  have h2 : (s.injectRay c n r).coveAt c = { s.coveAt c with ring := (s.coveAt c).ring.put n { r with flying := true, pay := x } } := by
    rw [State.coveAt, h1]
    exact (State.coveAt_modCove ..).trans (if_pos rfl)
  rw [h2]
  exact ⟨rfl, rfl⟩

theorem State.injectHeld_coveAt (s : State) (c scene : Nat) : ((s.injectHeld c scene).coveAt c).scenes = (s.coveAt c).scenes
    ∧ ((s.injectHeld c scene).coveAt c).pend = (s.coveAt c).pend := by
  unfold State.injectHeld
  dsimp only
  split
  · next h =>
    clear h
    generalize (s.coveAt c).ring.filter _ = l
    induction l generalizing s with
    | nil => exact ⟨rfl, rfl⟩
    | cons e l ih =>
      obtain ⟨hs, hp⟩ := s.injectRay_coveAt c e.1 e.2
      obtain ⟨hs2, hp2⟩ := ih (s.injectRay c e.1 e.2)
      exact ⟨hs2.trans hs, hp2.trans hp⟩
  · exact ⟨rfl, rfl⟩

/-- The descriptor of a pending ISCFG is written when no ray of its slot circulates. -/
theorem exec_iscfgDescriptorWrite {s : State} {f : Firing} (hf : s.firing s.ev.a s.ev.b = some f) {p : ScenePend}
    (hp : (s.coveAt (coveOfTile s.ev.a)).pend.look (slotId s.ev.a s.ev.b) = some p) (hw : f.wait = .iscfg)
    (hi : (s.coveAt (coveOfTile s.ev.a)).idle p.scene = true) : ∃ u, exec .iscfgDescriptorWrite s = .next u
      ∧ (u.coveAt (coveOfTile s.ev.a)).scenes.get 0 p.scene = p.desc
      ∧ (u.coveAt (coveOfTile s.ev.a)).pend.look (slotId s.ev.a s.ev.b) = none ∧ u.firing s.ev.a s.ev.b = some { f with wait := .no } := by
  let s1 := s.modCove (coveOfTile s.ev.a) fun c =>
    { c with scenes := c.scenes.set 0 p.scene p.desc, pend := c.pend.drop (slotId s.ev.a s.ev.b) }
  refine ⟨(s1.injectHeld (coveOfTile s.ev.a) p.scene).setFiring s.ev.a s.ev.b { f with wait := .no }, ?_, ?_, ?_,
    State.firing_setFiring_same ..⟩
  · change Host.Outcome.next (s.writeScene s.ev.a s.ev.b) = _
    unfold State.writeScene
    dsimp only
    rw [hp, hf]
    dsimp only
    rw [if_pos ⟨hw, hi⟩]
  all_goals
    obtain ⟨hs, hpend⟩ := s1.injectHeld_coveAt (coveOfTile s.ev.a) p.scene
    have h1 : s1.coveAt (coveOfTile s.ev.a) = _ := (State.coveAt_modCove ..).trans (if_pos rfl)
    rw [h1] at hs hpend
  · exact (congrArg (fun m : Map VBits => m.get 0 p.scene) hs).trans (Map.get_set_same ..)
  · exact (congrArg (fun m : Map ScenePend => m.look (slotId s.ev.a s.ev.b)) hpend).trans ((Map.look_drop ..).trans (if_pos rfl))

end Sys2Proof.Machine
end


section
/-! PROOF. Rays: what a visit of a node does, and the way of a ray to another cove. -/

namespace Sys2Proof.Machine

/-! ## A visit (R299, R300) -/

section
variable {s u0 : State} {r : Ray} (hr : (s.coveAt s.ev.a).ring.look s.ev.b = some r)
  (hq : s.fromInq (xlatTile (ringTile s.ev.a s.ev.b)) (rayId (ringTile s.ev.a s.ev.b) s.ev.b) = some u0) (hs : r.stalled = false)
include hr hq hs

/-- A ray of no scene, with a bad pointer or without budget ends. -/
theorem exec_rayNodeVisit_ends (h : (u0.coveAt s.ev.a).scene r.scene = 0
      ∨ ptrOk ((u0.coveAt s.ev.a).scene r.scene) (lane r.pay 10) = false ∨ r.paid = false ∧ rayBudget r.pay = 0) :
    exec .rayNodeVisit s = .next (u0.endRay s.ev.a s.ev.b r 3) := by
  change Host.Outcome.next (s.visitRay s.ev.a s.ev.b) = _
  unfold State.visitRay
  dsimp only
  rw [hr, hq]
  dsimp only
  rw [hs, if_neg (by decide), if_pos (by simpa using h)]

/-- A ray that pays for its visit reads its node, and goes on as that says. -/
theorem exec_rayNodeVisit {u1 u2 : State} {d : LineBits} {ts : Nat} {r2 : Ray} {e : VisitEnd} (hp : r.paid = false) (hn : r.node = none)
    (hd : (u0.coveAt s.ev.a).scene r.scene ≠ 0) (hk : ptrOk ((u0.coveAt s.ev.a).scene r.scene) (lane r.pay 10) = true)
    (hb : rayBudget r.pay ≠ 0)
    (hl : (u0.charge (ringTile s.ev.a s.ev.b) (u0.coveTables s.ev.a r.vf) 62 1).coveLine (ringTile s.ev.a s.ev.b)
      (u0.coveTables s.ev.a r.vf) r.lts (nodeVa ((u0.coveAt s.ev.a).scene r.scene) (ptrIndex (lane r.pay 10))) = .ok u1 (d, ts))
    (ho : nodeOk (ptrType (lane r.pay 10)) d = true)
    (hv : u1.visitNode s.ev.a (ringTile s.ev.a s.ev.b) (u0.coveTables s.ev.a r.vf) ((u0.coveAt s.ev.a).scene r.scene) s.ev.b
      { r with pay := raySpend r.pay, join := none, todo := [], seen := [], lts := Nat.max r.lts ts } d r.todo = .ok u2 (r2, e)) :
    exec .rayNodeVisit s = .next (u2.rayNext s.ev.a ((u0.coveAt s.ev.a).scene r.scene) s.ev.b d r2 e) := by
  change Host.Outcome.next (s.visitRay s.ev.a s.ev.b) = _
  unfold State.visitRay
  dsimp only
  rw [hr, hq]
  dsimp only
  rw [hs, if_neg (by decide), if_neg (by simp [hd, hk, hb])]
  obtain ⟨pay, scene, chan, vf, gen, itag, stag, err, lts, flying, stalled, join, paid, node, seen, todo, home, target⟩ := r
  dsimp only at *
  subst hp hn hs
  rw [if_neg (by decide), if_neg (by decide), if_neg (by decide), hl]
  dsimp only [EngRes.bind]
  rw [if_pos ho, hv]

end

/-! ## The way to another cove (R301) -/

theorem State.wakeScenes_coves (s : State) (c : Nat) : (s.wakeScenes c).coves = s.coves := by
  unfold State.wakeScenes
  generalize (s.coveAt c).pend = l
  induction l generalizing s with
  | nil => rfl
  | cons e l ih => exact ih _

theorem Effect.wakeScenes {a b : Bool} (s : State) (c : Nat) : Effect a b s (s.wakeScenes c) := by
  unfold State.wakeScenes
  exact Effect.foldl (fun u _ => Effect.after u _ _ _) _ s

theorem Effect.covePart {a b : Bool} {s u : State} (h : Effect a b s u) (c : Nat) : u.covePart c = s.covePart c := by
  have hm : u.hd.cmap = s.hd.cmap := (congrArg Harbour.cmap h.hd :)
  rw [State.covePart, State.covePart, hm]

theorem ChargeStep.ring {s u : State} {t : Nat} (h : ChargeStep s u t) (c : Nat) : (u.coveAt c).ring = (s.coveAt c).ring :=
  (congrArg Cove.ring (h.coves c) :)

theorem State.laneJoin_coves (s : State) (l vc id : Nat) : (s.laneJoin l vc id).coves = s.coves := by
  unfold State.laneJoin
  dsimp only
  split <;> rfl

/-- The links between two dies, when they differ, are not none. -/
theorem dieRoute_ne_nil {a b : Nat} (h : a ≠ b) : dieRoute a b ≠ [] := by
  unfold dieRoute
  dsimp only
  rw [if_neg h]
  repeat' split
  all_goals simp

theorem dieOfTile_ringTile (c n : Nat) : dieOfTile (ringTile c n) = c / 64 := by
  unfold dieOfTile ringTile tileOfCove
  split <;> omega

section
variable (s : State) (src dst c k : Nat) (r : Ray)

/-- A ray that moves leaves the rings of the coves. -/
theorem State.moveRay_ring (d : Nat) : ((s.moveRay src dst c k r).coveAt d).ring = (s.coveAt d).ring := by
  unfold State.moveRay
  dsimp only
  generalize hs1 : s.charge src r.vf 60 _ = s1
  have hc : (s1.coveAt d).ring = (s.coveAt d).ring := hs1 ▸ (State.charge_step ..).ring d
  split
  · exact hc
  · rw [State.coveAt, State.laneJoin_coves]
    exact hc

theorem State.moveRay_near (h : dieOfTile src = dieOfTile dst) : (s.now + (1 + hops src dst), Instr.rayNodeVisit, ({ a := c, b := k } : EvArg))
    ∈ (s.moveRay src dst c k r).agenda := by
  unfold State.moveRay
  have hroute : dieRoute (dieOfTile src) (dieOfTile dst) = [] := by
    unfold dieRoute
    exact if_pos h
  rw [hroute]
  dsimp only
  generalize hs1 : s.charge src r.vf 60 _ = s1
  have hnow : s1.now = s.now := hs1 ▸ (State.charge_step ..).now
  exact hnow ▸ State.mem_after s1 _ _ _

theorem State.moveRay_far (h : dieOfTile src ≠ dieOfTile dst) : ∃ id fl v, (s.moveRay src dst c k r).net.flights.look id = some fl
    ∧ fl.chan = rayChan (s.covePart c) ∧ fl.legs = (dieRoute (dieOfTile src) (dieOfTile dst)).drop 1
    ∧ fl.ray = some { cove := c, slot := k, vc := v } := by
  unfold State.moveRay
  have hroute := dieRoute_ne_nil h
  dsimp only
  split
  · next hnil => exact absurd hnil hroute
  · next l rest hcons =>
    rw [hcons]
    exact ⟨_, _, _, (congrArg (fun m : Map Flight => m.look _) (State.laneJoin_same ..).2.2).trans (Map.look_put_same ..), rfl, rfl, rfl⟩

end

/-- The ray as it goes on in another cove. -/
def linkedRay (r : Ray) (w : W32) : Ray := { r with target := none, pay := setWord r.pay 10 w }

/-- The ray in slot `n` of a cove stands in slot `k` of cove `c`'s ring instead, with `bs` as its spill record; `t` is the state in
which they have been read. -/
def State.seat (s t : State) (cove n c k : Nat) (r : Ray) (w : W32) (bs : List Byte) : State :=
  let dest := (s.coveAt c).scene r.scene
  let t2 := if dest = 0 then t else (t.pinWrite 4 r.vf r.lts (spillAddr c dest k) bs).1
  let t3 := t2.charge (ringTile cove n) (s.coveTables cove r.vf) 57 2
  let t4 := t3.modCove c fun d => { d with ring := d.ring.put k (linkedRay r w) }
  (t4.modCove cove fun d => { d with ring := d.ring.drop n }).wakeScenes cove

section
variable {s t : State} {cove n c k : Nat} {r : Ray} {w : W32} {bs : List Byte}

theorem Effect.seat (h : MemStep s t) : Effect true true s (s.seat t cove n c k r w bs) := by
  unfold State.seat
  exact ((((Effect.ofMem h).trans (Effect.ite (Effect.refl t) (Effect.pinWrite ..))).trans (Effect.charge ..)).trans
    (Effect.modCove ..)).trans ((Effect.modCove ..).trans (Effect.wakeScenes ..))

/-- The ray's slots before and after. -/
theorem State.seat_ring (hc : c ≠ cove) : ((s.seat t cove n c k r w bs).coveAt cove).ring.look n = none
    ∧ ((s.seat t cove n c k r w bs).coveAt c).ring.look k = some (linkedRay r w) := by
  unfold State.seat
  dsimp only
  generalize State.charge _ _ _ _ _ = u
  constructor <;> rw [State.coveAt, State.wakeScenes_coves, ← State.coveAt, State.coveAt_modCove]
  · rw [if_pos rfl]
    exact (Map.look_drop ..).trans (if_pos rfl)
  · rw [if_neg hc, State.coveAt_modCove, if_pos rfl]
    exact Map.look_put_same ..

/-- What a migration does, from what its read of the spill record gives. -/
theorem State.migrateRay_eq (hr : (s.coveAt cove).ring.look n = some r) (ht : r.target = some (c, w)) (hm : s.ringRoom c ≠ 0)
    (hb : State.pinRead 4 s r.vf r.lts (spillAddr cove ((s.coveAt cove).scene r.scene) n) 256 = (bs, t)) :
    s.migrateRay cove n = (s.seat t cove n c (freeRing (s.coveAt c).ring 0 256) r w bs).moveRay (ringTile cove n)
      (ringTile c (freeRing (s.coveAt c).ring 0 256)) c (freeRing (s.coveAt c).ring 0 256) (linkedRay r w) := by
  unfold State.migrateRay
  split
  · next h => cases hr.symm.trans h
  · next q h =>
    obtain rfl : r = q := Option.some.inj (hr.symm.trans h)
    split
    · next h => cases ht.symm.trans h
    · next d x h =>
      obtain ⟨rfl, rfl⟩ : c = d ∧ w = x := by simpa [ht] using h
      rw [if_neg hm, hb]
      rfl

end

/-- A ray that has met a link to another cove, whose ring has room, stands in a slot there and no longer in its own. -/
theorem exec_rayMigration {s : State} {r : Ray} (hr : (s.coveAt s.ev.a).ring.look s.ev.b = some r) {c : Nat} {w : W32}
    (ht : r.target = some (c, w)) (hc : c ≠ s.ev.a) (hm : s.ringRoom c ≠ 0) : ∃ u, exec .rayMigration s = .next u
      ∧ (u.coveAt s.ev.a).ring.look s.ev.b = none
      ∧ ∃ k, (u.coveAt c).ring.look k = some { r with target := none, pay := setWord r.pay 10 w }
        ∧ (s.ev.a / 64 = c / 64 → (s.now + (1 + hops (ringTile s.ev.a s.ev.b) (ringTile c k)), Instr.rayNodeVisit,
          ({ a := c, b := k } : EvArg)) ∈ u.agenda)
        ∧ (s.ev.a / 64 ≠ c / 64 → ∃ id fl v, u.net.flights.look id = some fl ∧ fl.chan = rayChan (s.covePart c)
          ∧ fl.legs = (dieRoute (s.ev.a / 64) (c / 64)).drop 1 ∧ fl.ray = some { cove := c, slot := k, vc := v }) := by
  generalize hk : freeRing (s.coveAt c).ring 0 256 = k
  obtain ⟨⟨bs, t⟩, hb⟩ : ∃ x, State.pinRead 4 s r.vf r.lts (spillAddr s.ev.a ((s.coveAt s.ev.a).scene r.scene) s.ev.b) 256 = x :=
    ⟨_, rfl⟩
  have hread := State.pinRead_step 4 s r.vf r.lts (spillAddr s.ev.a ((s.coveAt s.ev.a).scene r.scene) s.ev.b) 256
  rw [hb] at hread
  have hmoved := State.migrateRay_eq hr ht hm hb
  rw [hk] at hmoved
  have hseat : Effect true true s (s.seat t s.ev.a s.ev.b c k r w bs) := Effect.seat hread
  obtain ⟨hgone, hthere⟩ := State.seat_ring (s := s) (t := t) (n := s.ev.b) (k := k) (r := r) (w := w) (bs := bs) hc
  generalize s.seat t s.ev.a s.ev.b c k r w bs = u at hmoved hseat hgone hthere
  refine ⟨s.migrateRay s.ev.a s.ev.b, rfl, ?_⟩
  rw [hmoved, State.moveRay_ring, ← hseat.now, ← hseat.covePart, ← dieOfTile_ringTile s.ev.a s.ev.b]
  refine ⟨hgone, k, (State.moveRay_ring ..).symm ▸ hthere, fun hd => ?_, fun hd => ?_⟩ <;> rw [← dieOfTile_ringTile c k] at hd
  · exact State.moveRay_near u _ _ c k (linkedRay r w) hd
  · rw [← dieOfTile_ringTile c k]
    exact State.moveRay_far u _ _ c k (linkedRay r w) hd

end Sys2Proof.Machine
end


section
/-! PROOF. The order units: what arrives, and what retires. -/

namespace Sys2Proof.Machine

/-! ## Arrivals (R257, R360) -/

theorem State.orderArrival_one {s : State} {id : Nat} {e : Staged} {m n : Nat} (he : s.net.orders.look id = some e)
    (hk : orderKey e = some (m, n)) (ha : s.arrivalsWith id m = [id]) : s.orderArrival id = s.oneArrival id := by
  unfold State.orderArrival
  rw [he, Option.bind_some, hk]
  dsimp only
  rw [ha]
  rfl

/-- An order unit that looks again leaves its tiles and the queues between tiles. -/
theorem State.lookRetire_same (s : State) (m d : Nat) : (s.lookRetire m d).net = s.net ∧ (s.lookRetire m d).tiles = s.tiles := by
  unfold State.lookRetire
  split <;> exact ⟨rfl, rfl⟩

/-- A batch that arrives alone waits at its order unit. -/
theorem exec_batchOrderArrival {s : State} {m : Nat} {q : Batch} (hq : s.net.orders.look s.ev.a = some (.batch m false q))
    (ha : s.arrivalsWith s.ev.a m = [s.ev.a])
    (hb : isBehind q.sq ((s.modNet fun w => { w with orders := w.orders.drop s.ev.a }).recordOf q.recPa q.vf) = false) :
    ∃ u, exec .batchOrderArrival s = .next u ∧ u.net.orders.look s.ev.a = none
      ∧ (u.tileAt m).mu.inbox = (s.tileAt m).mu.inbox ++ [(s.now, { q with landed := true })] := by
  let s1 := s.modNet fun w => { w with orders := w.orders.drop s.ev.a }
  let s2 := s1.modMu m fun u => { u with inbox := u.inbox ++ [(s1.now, { q with landed := true })] }
  refine ⟨s2.lookRetire m 0, ?_, ?_, ?_⟩
  · change Host.Outcome.next (s.orderArrival s.ev.a) = _
    rw [State.orderArrival_one hq rfl ha]
    unfold State.oneArrival
    dsimp only
    rw [hq]
    dsimp only
    unfold State.batchArrives
    dsimp only
    rw [if_neg (by decide), hb]
    rfl
  · rw [(s2.lookRetire_same m 0).1]
    exact (Map.look_drop ..).trans (if_pos rfl)
  · rw [State.tileAt, (s2.lookRetire_same m 0).2]
    change (s2.tileAt m).mu.inbox = _
    rw [State.tileAt_modMu, if_pos rfl]
    rfl

/-- An OCCQ that arrives alone, without an entry that holds it, is applied. -/
theorem exec_occqArrival {s : State} {m : Nat} {q : Occq} (hq : s.net.orders.look s.ev.a = some (.occq m false q))
    (ha : s.arrivalsWith s.ev.a m = [s.ev.a]) : exec .occqArrival s =
      .next (((s.modNet fun w => { w with orders := w.orders.drop s.ev.a }).modMu m id).applyOccq q) := by
  change Host.Outcome.next (s.orderArrival s.ev.a) = _
  rw [State.orderArrival_one hq rfl ha]
  unfold State.oneArrival
  dsimp only
  rw [hq]
  dsimp only
  unfold State.occqArrives
  rw [if_neg (by simp)]
  rfl

/-! ## The batches of an order unit -/

/-- A batch that stands in a hold entry. -/
def landedBatch (h : Hold) : Option Batch :=
  match h with
  | .batch b => if b.landed then some b else none
  | _ => none

theorem eq_of_landedBatch {x : Hold} {b : Batch} (h : landedBatch x = some b) : x = .batch b := by
  unfold landedBatch at h
  split at h
  · split at h
    · exact congrArg Hold.batch (Option.some.inj h)
    · cases h
  · cases h

/-- The batches of an inbox, in their order. -/
def inboxBatches (l : List (Nat × Batch)) : List Batch := ({ inbox := l } : MUnit).batches

theorem MUnit.batches_eq (u : MUnit) : u.batches = u.hold.filterMap landedBatch ++ inboxBatches u.inbox := rfl

/-- What insertions one after the other put into a list. -/
theorem mem_foldl_insert {α : Type} {put : List α → α → List α} (h : ∀ l e x, x ∈ put l e ↔ x = e ∨ x ∈ l) (l acc : List α) (x : α) :
    x ∈ l.foldl put acc ↔ x ∈ acc ∨ x ∈ l := by
  induction l generalizing acc with
  | nil => simp
  | cons e l ih =>
    rw [List.foldl_cons, ih, h, List.mem_cons]
    tauto

/-- One of two numbers comes first. -/
theorem either_side {p e : Prop} (i j : Nat) : (p ∧ i ≤ j ∨ e ∨ p ∧ j < i) ↔ (e ∨ p) := by
  have := Nat.lt_or_ge j i
  tauto

theorem mem_inboxBatches {l : List (Nat × Batch)} {b : Batch} : b ∈ inboxBatches l ↔ ∃ e ∈ l, e.2 = b := by
  unfold inboxBatches MUnit.batches
  simp only [List.filterMap_nil, List.nil_append, List.mem_map]
  refine exists_congr fun e => and_congr_left fun _ => ?_
  rw [mem_foldl_insert ?_, or_iff_right List.not_mem_nil]
  intro l e x
  simp only [List.mem_append, List.mem_cons, List.mem_filter, decide_eq_true_eq]
  exact either_side _ _

theorem MUnit.batches_nil {u : MUnit} : u.batches = [] ↔ u.hold.filterMap landedBatch = [] ∧ u.inbox = [] := by
  rw [MUnit.batches_eq, List.append_eq_nil_iff, List.eq_nil_iff_forall_not_mem (l := inboxBatches u.inbox)]
  simp only [mem_inboxBatches]
  refine and_congr_right fun _ => ⟨fun h => List.eq_nil_iff_forall_not_mem.mpr fun e he => h e.2 ⟨e, he, rfl⟩, fun h => by simp [h]⟩

/-- A hold entry that is freed brings no batch. -/
theorem MUnit.batches_erase {u : MUnit} (h : u.batches = []) (x : Hold) : ({ u with hold := u.hold.erase x } : MUnit).batches = [] := by
  obtain ⟨hh, hi⟩ := MUnit.batches_nil.mp h
  exact MUnit.batches_nil.mpr ⟨List.sublist_nil.mp (hh ▸ (List.erase_sublist ..).filterMap landedBatch), hi⟩

/-- The only batch of an order unit leaves none behind. -/
theorem MUnit.batches_dropBatch {u : MUnit} {q : Batch} (h : u.batches = [q]) : (u.dropBatch q).batches = [] := by
  rw [MUnit.batches_eq] at h
  have hin : ∀ e ∈ u.inbox, e.2 = q := fun e he => by
    have hmem : e.2 ∈ u.hold.filterMap landedBatch ++ inboxBatches u.inbox := List.mem_append_right _ (mem_inboxBatches.mpr ⟨e, he, rfl⟩)
    simpa [h] using hmem
  refine MUnit.batches_nil.mpr ⟨?_, List.filter_eq_nil_iff.mpr fun e he => by simp [hin e he]⟩
  change (u.hold.erase (.batch q)).filterMap landedBatch = []
  rcases List.append_eq_singleton_iff.mp h with ⟨hh, -⟩ | ⟨hh, -⟩
  · exact List.sublist_nil.mp (hh ▸ (List.erase_sublist ..).filterMap landedBatch)
  · have hq : q ∈ u.hold.filterMap landedBatch := by simp [hh]
    obtain ⟨x, hx, hxq⟩ := List.mem_filterMap.mp hq
    obtain rfl := eq_of_landedBatch hxq
    have hperm := (List.perm_cons_erase hx).filterMap landedBatch
    rw [hh, List.filterMap_cons_some hxq] at hperm
    exact ((List.perm_cons q).mp hperm).nil_eq.symm

/-! ## Retirement (R257) -/

theorem State.applyOccq_step (s : State) (o : Occq) : MemStep s (s.applyOccq o) := by
  unfold State.applyOccq
  split <;> exact State.pinWrite_step ..

theorem State.blendOne_step (s : State) (b : Batch) (c r n : Nat) : MemStep s (s.blendOne b c r n) := by
  unfold State.blendOne
  split
  · next h => exact State.homeUpdate_step h
  · exact MemStep.refl s

theorem MemStep.tileAt {s u : State} (h : MemStep s u) (t : Nat) : u.tileAt t = s.tileAt t := by
  rw [State.tileAt, h.tiles]
  rfl

/-- No batch stands at an order unit. -/
def State.noBatches (s : State) (m : Nat) : Prop := (s.tileAt m).mu.batches = []

section
variable {s : State} {m : Nat} (h : s.noBatches m)
include h

theorem State.noBatches_of_step {u : State} (k : MemStep s u) : u.noBatches m := by
  rw [State.noBatches, k.tileAt]
  exact h

/-- The OCCQs that RETC reaches bring no batch. -/
theorem State.noBatches_foldl_occqs (l : List Occq) : (l.foldl (fun (a : State) o =>
    (a.applyOccq o).modMu m fun u => { u with hold := u.hold.erase (.occq o) }) s).noBatches m := by
  induction l generalizing s with
  | nil => exact h
  | cons o l ih =>
    refine ih ?_
    rw [State.noBatches, State.tileAt_modMu, if_pos rfl]
    exact MUnit.batches_erase (State.noBatches_of_step h (s.applyOccq_step o)) _

theorem State.noBatches_reachOccqs (pa vf : Nat) : (s.reachOccqs m pa vf).noBatches m :=
  State.noBatches_foldl_occqs (State.noBatches_foldl_occqs h _) _

theorem State.noBatches_wakeSeqn : s.wakeSeqn.noBatches m := by
  unfold State.wakeSeqn
  generalize s.tiles.flatMap _ = l
  dsimp only
  induction l generalizing s with
  | nil => exact h
  | cons e l ih => exact ih h

/-- A retirement brings no batch. -/
theorem State.noBatches_retire (b : Batch) : (s.retire m b).noBatches m := by
  unfold State.retire
  dsimp only
  generalize hl : List.foldl _ s _ = s1
  have h1 : s1.noBatches m := State.noBatches_of_step h (hl ▸ MemStep.foldl _ (fun u n => u.blendOne_step b _ _ n) _ s)
  unfold State.countBatch
  dsimp only
  split
  · exact State.noBatches_wakeSeqn (State.noBatches_reachOccqs (State.noBatches_of_step h1 (State.pinWrite_step ..)) _ _)
  · exact State.noBatches_of_step h1 (State.pinWrite_step ..)

theorem State.discardPassed_none : s.discardPassed m = s := by
  unfold State.discardPassed
  rw [h]
  rfl

end

section
variable {s : State} {q : Batch} (hq : (s.tileAt s.ev.a).mu.batches = [q]) (h0 : aheadOf q.sq (s.recordOf q.recPa q.vf) = 0)
  (hd : ∀ e ∈ s.agenda, e.1 ≤ s.now → e.2.1 ≠ .batchOrderArrival ∧ e.2.1 ≠ .occqArrival)
include hq h0 hd

/-- What an order unit with one eligible batch does, when no commit reaches it in this fc: `s1` is what it is then. -/
theorem exec_batchRetire_one {s1 : State} (h1 : (if s.retireWaits s.ev.a q then s
      else (s.modMu s.ev.a fun u => u.dropBatch q).retire s.ev.a q).discardPassed s.ev.a = s1) :
    exec .batchRetire s = .next (if (s1.tileAt s.ev.a).mu.batches.any fun b => decide (aheadOf b.sq (s1.recordOf b.recPa b.vf) = 0)
      then s1.lookRetire s.ev.a 1 else s1) := by
  have hdue : (s.agenda.any fun e => decide (e.1 ≤ s.now)
      && (decide (e.2.1 = .batchOrderArrival) || decide (e.2.1 = .occqArrival))) = false := by
    rw [List.any_eq_false]
    intro e he
    have := hd e he
    simp only [Bool.and_eq_true, Bool.or_eq_true, decide_eq_true_eq]
    tauto
  change Host.Outcome.next (s.retireAll s.ev.a) = _
  unfold State.retireAll
  dsimp only
  have hone : s.retireOne s.ev.a q.recPa =
      if s.retireWaits s.ev.a q then s else (s.modMu s.ev.a fun u => u.dropBatch q).retire s.ev.a q := by
    unfold State.retireOne
    rw [hq]
    simp [h0]
  rw [hdue, if_neg (by decide), hq, ← h1, ← hone]
  rfl

theorem exec_batchRetire (hw : s.retireWaits s.ev.a q = false) :
    exec .batchRetire s = .next ((s.modMu s.ev.a fun u => u.dropBatch q).retire s.ev.a q) := by
  have hdrop : (s.modMu s.ev.a fun u => u.dropBatch q).noBatches s.ev.a := by
    rw [State.noBatches, State.tileAt_modMu, if_pos rfl]
    exact MUnit.batches_dropBatch hq
  have hnone := State.noBatches_retire hdrop q
  rw [exec_batchRetire_one hq h0 hd (by rw [hw, if_neg (by decide), State.discardPassed_none hnone]), hnone]
  rfl

theorem exec_batchRetire_waits (hw : s.retireWaits s.ev.a q = true) : exec .batchRetire s = .next (s.lookRetire s.ev.a 1) := by
  have hpassed : s.discardPassed s.ev.a = s := by
    unfold State.discardPassed
    rw [hq]
    simp [isBehind, h0]
  rw [exec_batchRetire_one hq h0 hd (by rw [hw, if_pos rfl, hpassed]), hq]
  simp [h0]

end

end Sys2Proof.Machine
end


section
/-! PROOF. The events of traversal: grid requests, owed writes, frames, rays and the order unit. -/

namespace Sys2Proof.Machine

/-- Settles O51, clause by clause, each by the equation of its step. -/
theorem traversalEvents : Obligations.TraversalEvents := by
  unfold Obligations.TraversalEvents
  intro s
  refine ⟨⟨fun p q r => exec_gridRequestTake, exec_gridBatchSend_sent, fun q rest g => exec_gridBatchSend, fun g => exec_gridBatchArrival,
      fun o d n ho hr hd hs hf => exec_owedWriteLanding_tile ho hr hd hs hf,
      fun o d k ho hr hd hs hf => exec_owedWriteLanding_acc ho hr hd hs hf,
      fun o g n h ho hr hg hh h1 h16 => exec_owedWriteLanding_feat ho hr hg hh h1 h16⟩,
    fun f hf => ⟨fun d t k p g y hw hn ha => exec_frameRequest hf hw hn ha, fun d v t hw => exec_frameAllocReply hf hw,
      fun p hp hw hi => exec_iscfgDescriptorWrite hf hp hw hi⟩,
    fun r hr => ⟨fun u0 hq => ⟨fun hs h => exec_rayNodeVisit_ends hr hq hs h,
        fun u1 u2 d ts r2 e hs hp hn hd hk hb hl ho hv => exec_rayNodeVisit hr hq hs hp hn hd hk hb hl ho hv⟩,
      fun c w ht hc hm => exec_rayMigration hr ht hc hm⟩,
    fun m q hq ha hb => exec_batchOrderArrival hq ha hb, fun m q hq ha => exec_occqArrival hq ha,
    fun q hq h0 hd => ⟨exec_batchRetire hq h0 hd, exec_batchRetire_waits hq h0 hd⟩⟩

end Sys2Proof.Machine
end
